-- ==== Sys2Proof/Word.lean ====
section
/-! DEFINITION. The word types of the Nugradon (R5, 00 and the data units of its Notation section):
bytes, half-words, words, double-words, vector registers, cache lines and physical addresses. -/

namespace Sys2Proof

/-- 8 bits. -/
abbrev Byte := BitVec 8
/-- 16 bits. -/
abbrev Half := BitVec 16
/-- 32 bits: an instruction, or the word of a word access. -/
abbrev Word32 := BitVec 32
/-- 64 bits: a general register, a control register, a control-space register, an effective address. -/
abbrev Word := BitVec 64
/-- 256 bits: a vector register (R32). -/
abbrev Vec := BitVec 256
/-- 64 bytes: a cache line. -/
abbrev Line := BitVec 512
/-- A 52-bit physical address (R24). -/
abbrev PAddr := BitVec 52

end Sys2Proof
end

