-- ==== Sys2Proof/Syntax.lean ====
section
/-! DEFINITION. The commands of the block: one constructor of `Instr` for each row of
spec/opcode_table.json, with the row's operands. A Miund instruction names the core that executes it,
its guard and its operand fields; an event names the unit at which it happens and what the outside
world supplies with it (a message, a sensor reading, a test result). -/

namespace Sys2Proof

/-! ### Numbers of units (R13) -/

/-- A physical core, 0 to 263. -/
abbrev CoreId := Fin 264
/-- A logical core, 0 to 255 (R15). -/
abbrev LCore := Fin 256
/-- A tile of the socket, 0 to 131, quadrant times 33 plus tile. -/
abbrev TileId := Fin 132
/-- A slice and its directory slice, 0 to 131. -/
abbrev SliceId := Fin 132
/-- A memory channel, 0 to 15. -/
abbrev Chan := Fin 16
/-- A quadrant. -/
abbrev Quad := Fin 4
/-- A skein, 0 to 31. -/
abbrev Skein := Fin 32
/-- A port, 0 to 127, of lowest lane 2p (R300). -/
abbrev PortId := Fin 128
/-- An I/O stop, 0 to 7. -/
abbrev IoStopId := Fin 8
/-- A data engine, 0 to 3. -/
abbrev EngineId := Fin 4
/-- A processing lane of an engine (R337). -/
abbrev Lane := Fin 8
/-- A tenant's own share of an engine, 0 to 4,095 (R337). -/
abbrev InstId := Fin 4096
/-- A hardware queue of one share of an engine. -/
abbrev QId := Fin 64
/-- A power domain, 0 to 451 (R377). -/
abbrev DomId := Fin 452
/-- A steward: 0 to 63 the domain stewards, 64 the chief steward (R406). -/
abbrev StwId := Fin 65
/-- A panel slot (R200). -/
abbrev SlotId := Fin 16
/-- A socket of the board (R322). -/
abbrev SockId := Fin 4
/-- A CXL caching device (R162). -/
abbrev CxlId := Fin 16
/-- A general or vector register number. -/
abbrev RegNo := Fin 32
/-- A predicate register number. -/
abbrev PredNo := Fin 8

/-! ### Operands of Miund instructions -/

/-- Guard predicate and sense (R48): `gs = true` executes when the predicate is false. -/
structure Guard where
  gp : PredNo
  gs : Bool
deriving DecidableEq, Repr

/-- What every Miund instruction carries: the core that executes it, and its guard. -/
structure Ctx where
  core  : CoreId
  guard : Guard
deriving DecidableEq, Repr

/-- The comparison of CMP.cc (R69), in the order of its codes 0 to 13. -/
inductive Cond
  | eq | ne | lt | ge | ltu | geu | gt | le | gtu | leu | bs | bc | tst | tstz
deriving DecidableEq, Repr

/-- The second operand of CMP.cc: a register (I = 0) or a 9-bit immediate (I = 1). -/
inductive CmpOperand
  | reg (rs2 : RegNo)
  | imm (simm : BitVec 9)
deriving DecidableEq, Repr

/-- The shift that SHI performs (R68), imm[7:6]. -/
inductive ShiftKind
  | sll | srl | sra | ror
deriving DecidableEq, Repr

/-- Element type et of a vector instruction (R50); 7 is reserved and has no name. -/
inductive Elem
  | i8 | i16 | i32 | i64 | f16 | f32 | f64
deriving DecidableEq, Repr

/-- Operand fields of an R-format instruction. -/
structure OpsR where
  rd  : RegNo
  rs1 : RegNo
  rs2 : RegNo
deriving DecidableEq, Repr

/-- Operand fields of an I-format instruction. -/
structure OpsI where
  rd  : RegNo
  rs1 : RegNo
  imm : BitVec 12
deriving DecidableEq, Repr

/-- Operand fields of an S-format instruction: data rs2, base rs1. -/
structure OpsS where
  rs2 : RegNo
  rs1 : RegNo
  imm : BitVec 12
deriving DecidableEq, Repr

/-- Operand fields of a D-format (decimal) instruction. -/
structure OpsD where
  rd  : RegNo
  rs1 : RegNo
  rs2 : RegNo
  w   : Bool
  pd  : PredNo
deriving DecidableEq, Repr

/-- Operand fields of a predicate-logic instruction: the low 3 bits of its register fields. -/
structure OpsP where
  pd  : PredNo
  ps1 : PredNo
  ps2 : PredNo
deriving DecidableEq, Repr

/-- Operand fields of a V-format instruction. In VLD and VST, vs1 and vs2 name general registers. -/
structure OpsV where
  vd  : RegNo
  vs1 : RegNo
  vs2 : RegNo
  et  : Elem
deriving DecidableEq, Repr

/-! ### Agents, nodes and messages -/

/-- The agents that make memory requests (R162, R169, R179). -/
inductive Agent
  | core (c : CoreId)
  | socket (n : SockId)
  | cxl (d : CxlId)
  | io (g : IoStopId)
  | engine (e : EngineId)
deriving DecidableEq, Repr

/-- A stop of a quadrant and a unit at that stop (R242, R243): unit 0 or 1 a core, 2 the slice or
directory, 3 the stop's other unit. -/
structure Node where
  quad : Quad
  stop : Fin 64
  unit : Fin 4
deriving DecidableEq, Repr

/-- Message opcodes (R244). -/
inductive Opc
  | rds | rdo | upg | rdna | iow | csrrd | csrwr | devrd | devwr | msg
  | snp | snpinv | backinv | setflush | xlateinv
  | grant | ack | nocopy | copylost | cmp | err | xlateack
  | data | wbd | evc | snpdata
deriving DecidableEq, Repr

/-- A fabric packet (R242, R243): the header's fields and the data flits. `who` is the agent on whose
behalf the source stop sends it, which a stop with several agents knows by TXID. -/
structure Msg where
  src     : Node
  dst     : Node
  who     : Agent
  addr    : PAddr
  epoch   : Byte
  txid    : Half
  key     : BitVec 11
  poison  : Bool
  collide : Bool
  rstat   : BitVec 3
  byteen  : Word
  sdata   : Word
  data    : Line
deriving DecidableEq, Repr

/-- The scope of a TINV (R89). -/
inductive TinvScope
  | page | range | segment | tenant | all
deriving DecidableEq, Repr

/-- A translation invalidation as it is broadcast (R89, R90): its issuer and the issuer's own serial
number, its scope, the operand of the scope, the tenant, and whether it acts on every table set
(issued at H or M) or on the set SEGTAB_S alone (issued at S). -/
structure Tinv where
  issuer  : Agent
  serial  : Nat
  scope   : TinvScope
  operand : Word
  tenant  : Half
  allSets : Bool
deriving DecidableEq, Repr

/-! ### Operands of events -/

/-- Why a WFE ends (R83). -/
inductive WakeReason
  | interrupt | time | unstated
deriving DecidableEq, Repr

/-- Why run-ahead ends (R115). -/
inductive RunAheadEnd
  | dataArrived | interrupt | limit
deriving DecidableEq, Repr

/-- The detector of a failed check (CORE_REPLAY.LASTSRC, R118). -/
inductive Detector
  | intResidue | fpResidue | queueParity | regParity | l1iParity | l1dParity | microParity | patchParity
deriving DecidableEq, Repr

/-- What the chief steward finds on a hard fault (R230, R231). -/
structure FaultReport where
  regsClean    : Bool
  l2Readable   : Bool
  selfTestPass : Bool
deriving DecidableEq, Repr

/-- A unit that the governor judges for substitution (R455). -/
inductive SpareUnit
  | core (c : CoreId)
  | slice (n : SliceId)
  | channel (n : Chan)
  | skein (k : Skein)
  | engine (e : EngineId)
deriving DecidableEq, Repr

/-- The two hardware prefetchers (R106). -/
inductive Prefetcher
  | stride | stream
deriving DecidableEq, Repr

/-- An agent that can be declared dead (R179). -/
inductive DeadAgent
  | core (c : CoreId)
  | tile (t : TileId)
  | socket (n : SockId)
  | cxl (d : CxlId)
deriving DecidableEq, Repr

/-- A link between two routers (R248): a mesh link, or link i of a die bridge (R12). -/
inductive LinkKind
  | mesh (stop : Fin 40) (port : Fin 6)
  | bridge (vertical : Bool) (i : Fin 4)
deriving DecidableEq, Repr

/-- An array of a slice with spares of its own (R191): a sub-array of the data, the tags, the directory. -/
inductive SliceArray
  | data (sub : Nat)
  | tag
  | directory
deriving DecidableEq, Repr

/-- Rows and columns of an array that a march test found to fail (R191). -/
structure ArrayFault where
  array : SliceArray
  rows  : Nat
  cols  : Nat
deriving DecidableEq, Repr

/-- A data-engine access at a slice's scratchpad that has waited: the lane that made it and its effective address (R186). -/
structure StarvedAccess where
  slice    : SliceId
  waitedUs : Nat
  engine   : EngineId
  lane     : Lane
  ea       : Word
deriving DecidableEq, Repr

/-- What a data engine does next: the lane, and how many units of work fit in its time there (R338). -/
structure Quantum where
  lane  : Lane
  units : Nat
deriving DecidableEq, Repr

/-- The modes of the march test (R189). -/
inductive MarchMode
  | cMinus | lr | preserving
deriving DecidableEq, Repr

/-- What one DRAM read of a line finds (R277, R278). A correctable error is confined to one device. -/
inductive ReadFinding
  | clean
  | correctable (device : Fin 10) (bits : Word)
  | uncorrectable
deriving DecidableEq, Repr

/-- A line read of a controller: what the first read and the retry find in DRAM. -/
structure ReadAttempt where
  first : ReadFinding
  retry : ReadFinding
deriving DecidableEq, Repr

/-- A demand scrub of a channel that ABORT ends: how many lines it reads before it stops, and what it finds (R282). -/
structure ScrubAborted where
  chan  : Chan
  lines : Nat
  found : List ReadAttempt
deriving DecidableEq, Repr

/-- What GO begins on a channel: the registers that rule a swatch-helper run, as they are written with it (R274). -/
structure SwatchGo where
  chan : Chan
  ctl  : Word
  pat  : Word
  scan : Word
deriving DecidableEq, Repr

/-- What a controller reads: a physical line, or a line of its own zero map, number `n` from the map's start (R262). -/
inductive McLine
  | phys (line : BitVec 46)
  | zmap (n : Nat)
deriving DecidableEq, Repr

/-- A request of a PCIe or CXL.io device, as an I/O stop receives it (R306 to R311). -/
structure Tlp where
  rid        : Half
  addr       : Word
  len        : Nat
  translated : Bool
  pasid      : Bool
  relaxed    : Bool
  idOrdered  : Bool
  port       : PortId
deriving DecidableEq, Repr

/-- The PCIe AtomicOps that the device completes (R302). -/
inductive AtomicKind
  | fetchAdd | swap | cas
deriving DecidableEq, Repr

/-- Why a port is contained (R315), with the AUX codes of bank code 0x30 (R449). -/
inductive ContainCause
  | linkDown | aer | rpPio | atsTimeout | abandoned | software
deriving DecidableEq, Repr

/-- The CXL.cache requests (R320). -/
inductive CxlReq
  | rdShared | rdAny | rdOwn | rdOwnNoData | rdCurr | itoMWr | wrCur | wrInv
  | dirtyEvict | cleanEvict | cleanEvictNoData
deriving DecidableEq, Repr

/-- A slot of a Brixnil flit: one fabric packet's worth of message, with its opcode (R324, R326). -/
structure BrxPacket where
  opc    : Opc
  packet : Msg
  retry  : Bool
deriving DecidableEq, Repr

/-- A Brixnil flit as it arrives (R324): its sequence fields, credits per class, the packets it completes, how many it leaves partial,
and whether its CRC holds after FEC. -/
structure BrxFlit where
  seq     : BitVec 12
  gen     : BitVec 4
  ack     : BitVec 12
  nak     : Bool
  credits : List Nat
  packets : List BrxPacket
  partials : Nat
  crcOk   : Bool
deriving DecidableEq, Repr

/-- A Brixnil link, named by the even skein of its pair: skeins 2k and 2k + 1. -/
abbrev BrxId := Fin 16

/-- Who has had no live link to whom for the dead-agent time (R329): this socket to a peer, or, as the manager hears, two workers to each other. -/
inductive LostPeer
  | peer (s : SockId)
  | workers (a b : SockId)
deriving DecidableEq, Repr

/-- What has completed step 3 of a reclamation (R180, R333): a slice of this socket, or every slice of another one. -/
inductive Walker
  | slice (n : SliceId)
  | socket (s : SockId)
deriving DecidableEq, Repr

/-- A root-port event (R361). -/
inductive RootPortEvent
  | aer | hotPlugPresence | hotPlugLink | pme
deriving DecidableEq, Repr

/-- A ring that carries a watermark (R373). -/
inductive Ring
  | eventQueue (c : LCore)
  | completion (i : InstId) (q : QId)
  | journal (s : SlotId)
  | trace (q : Quad) (u : Fin 4)
  | errorLog
deriving DecidableEq, Repr

/-- A power state that software can request (R378); the code 3 is reserved. -/
inductive PowerState
  | on | retention | off
deriving DecidableEq, Repr

/-- What a steward's tests show of a domain (R389). -/
structure SenseReport where
  senseMv  : Nat
  dmonMv   : Nat
  wireFail : Bool
deriving DecidableEq, Repr

/-- A path to the dictionary (R416). -/
inductive Path
  | bmc | hostFw | os
deriving DecidableEq, Repr

/-- A dictionary request (R418), less its OP, which the row names. -/
structure OdRequest where
  path   : Path
  socket : SockId
  index  : Half
  sub    : Byte
  token  : Word32
  offset : Nat
  len    : Nat
  data   : List Byte
deriving DecidableEq, Repr

/-- One DIMM population of a channel, as the SPD data gives it (R258, R261). -/
structure Dimms where
  count     : Nat
  ranks     : Nat
  gib       : Nat
  supported : Bool
  serials   : List Nat
deriving DecidableEq, Repr

/-- A source of firmware (R430): its bytes as a number, byte `i` the coefficient of 256 to the `i`, how many of them there are (none where
the part does not answer), and whether both steward images in it verify with Dizoval's steward-signing key (R392), which is not given. -/
structure FwSource where
  len    : Nat
  image  : Nat
  signed : Bool
deriving DecidableEq, Repr

/-- The straps that the far end of a Brixnil link exchanges while it trains (R322). -/
structure BrxPeer where
  link    : BrxId
  socket  : SockId
  manager : Bool
deriving DecidableEq, Repr

/-- A CXL device (R319): its type, 1 to 3, whether its memory is HDM-D in host-bias mode (else HDM-H), and whether a switch of one level lies
between; of a multi-logical device the host sees its own logical device. -/
structure CxlDev where
  type     : Nat
  hdmD     : Bool
  switched : Bool
deriving DecidableEq, Repr

/-- What the outside world and the on-die tests supply to a cast-on (R432, R434): three samples of the straps, the two flash parts, the
units and domains that fail, the domain stewards that do not start, the chief steward's own test, the failing cells, the DIMMs, whether the steps
of each channel's training that are not swept pass, the errors that its sweeps count (by bit, by code), whether a PRBS23 verification finds no
error, the links that come up, what the other ends
of the Brixnil links strap, the CXL devices, the pin that began a cold reset, and whether the cast-on record is written. -/
structure CastOnInput where
  straps      : List (BitVec 3)
  sources     : List FwSource
  failedCores : List CoreId
  failedSlices : List SliceId
  failedDoms  : List DomId
  deadStewards : List StwId
  chiefOk     : Bool
  march       : List (SliceId × Nat × List ArrayFault)
  dimms       : List Dimms
  trainOk     : List Bool
  sweeps      : List (List (List Nat))
  verifyOk    : Bool
  linksUp     : List Nat
  peers       : List BrxPeer
  cxlDevs     : List (PortId × CxlDev)
  byPin       : Bool
  recordOk    : Bool
deriving DecidableEq, Repr

/-- A cause of cast-off (R439), in the order of the AUX codes of record 0x80 (R449). -/
inductive CastOffCause
  | forceOff | discrepancy | fatal | managerLost | coldReset | powerDown
deriving DecidableEq, Repr

/-! ### The commands -/

/-- The commands of the block, one constructor for each row of the table of operations and events. -/
inductive Instr
  /-- ADD, R66. -/
  | add (x : Ctx) (o : OpsR)
  /-- SUB, R66. -/
  | sub (x : Ctx) (o : OpsR)
  /-- AND, R66. -/
  | and (x : Ctx) (o : OpsR)
  /-- OR, R66. -/
  | or (x : Ctx) (o : OpsR)
  /-- XOR, R66. -/
  | xor (x : Ctx) (o : OpsR)
  /-- ANDN, R66. -/
  | andn (x : Ctx) (o : OpsR)
  /-- SLL, R66. -/
  | sll (x : Ctx) (o : OpsR)
  /-- SRL, R66. -/
  | srl (x : Ctx) (o : OpsR)
  /-- SRA, R66. -/
  | sra (x : Ctx) (o : OpsR)
  /-- ROR, R66. -/
  | ror (x : Ctx) (o : OpsR)
  /-- MIN, R66. -/
  | min (x : Ctx) (o : OpsR)
  /-- MAX, R66. -/
  | max (x : Ctx) (o : OpsR)
  /-- MINU, R66. -/
  | minu (x : Ctx) (o : OpsR)
  /-- MAXU, R66. -/
  | maxu (x : Ctx) (o : OpsR)
  /-- CLZ, R66. -/
  | clz (x : Ctx) (rd : RegNo) (rs1 : RegNo)
  /-- CTZ, R66. -/
  | ctz (x : Ctx) (rd : RegNo) (rs1 : RegNo)
  /-- POPC, R66. -/
  | popc (x : Ctx) (rd : RegNo) (rs1 : RegNo)
  /-- ADDW, R66. -/
  | addw (x : Ctx) (o : OpsR)
  /-- SUBW, R66. -/
  | subw (x : Ctx) (o : OpsR)
  /-- SLLW, R66. -/
  | sllw (x : Ctx) (o : OpsR)
  /-- SRLW, R66. -/
  | srlw (x : Ctx) (o : OpsR)
  /-- SRAW, R66. -/
  | sraw (x : Ctx) (o : OpsR)
  /-- MUL, R66. -/
  | mul (x : Ctx) (o : OpsR)
  /-- MULH, R66. -/
  | mulh (x : Ctx) (o : OpsR)
  /-- MULHU, R66. -/
  | mulhu (x : Ctx) (o : OpsR)
  /-- DIV, R67. -/
  | div (x : Ctx) (o : OpsR)
  /-- DIVU, R67. -/
  | divu (x : Ctx) (o : OpsR)
  /-- REM, R67. -/
  | rem (x : Ctx) (o : OpsR)
  /-- REMU, R67. -/
  | remu (x : Ctx) (o : OpsR)
  /-- ADDI, R66. -/
  | addi (x : Ctx) (o : OpsI)
  /-- ANDI, R66. -/
  | andi (x : Ctx) (o : OpsI)
  /-- ORI, R66. -/
  | ori (x : Ctx) (o : OpsI)
  /-- XORI, R66. -/
  | xori (x : Ctx) (o : OpsI)
  /-- SHI, R68. -/
  | shi (x : Ctx) (rd : RegNo) (rs1 : RegNo) (w : Bool) (kind : ShiftKind) (amount : BitVec 6)
  /-- ADDIS, R66. -/
  | addis (x : Ctx) (o : OpsI)
  /-- ADDPC, R66. -/
  | addpc (x : Ctx) (rd : RegNo) (imm : BitVec 12)
  /-- CMP_CC, R69. -/
  | cmpCc (x : Ctx) (pd : PredNo) (cc : Cond) (rs1 : RegNo) (b : CmpOperand)
  /-- PAND, R70. -/
  | pand (x : Ctx) (o : OpsP)
  /-- POR, R70. -/
  | por (x : Ctx) (o : OpsP)
  /-- PNOT, R70. -/
  | pnot (x : Ctx) (pd : PredNo) (ps1 : PredNo)
  /-- PXOR, R70. -/
  | pxor (x : Ctx) (o : OpsP)
  /-- PANDN, R70. -/
  | pandn (x : Ctx) (o : OpsP)
  /-- B, R71. -/
  | b (x : Ctx) (off : BitVec 22)
  /-- BL, R71. -/
  | bl (x : Ctx) (off : BitVec 22)
  /-- BR, R71. -/
  | br (x : Ctx) (rd : RegNo) (rs1 : RegNo)
  /-- RET, R71. -/
  | ret (x : Ctx)
  /-- LDB, R72. -/
  | ldb (x : Ctx) (o : OpsI)
  /-- LDBU, R72. -/
  | ldbu (x : Ctx) (o : OpsI)
  /-- LDH, R72. -/
  | ldh (x : Ctx) (o : OpsI)
  /-- LDHU, R72. -/
  | ldhu (x : Ctx) (o : OpsI)
  /-- LDW, R72. -/
  | ldw (x : Ctx) (o : OpsI)
  /-- LDWU, R72. -/
  | ldwu (x : Ctx) (o : OpsI)
  /-- LDD, R72. -/
  | ldd (x : Ctx) (o : OpsI)
  /-- STB, R72. -/
  | stb (x : Ctx) (o : OpsS)
  /-- STH, R72. -/
  | sth (x : Ctx) (o : OpsS)
  /-- STW, R72. -/
  | stw (x : Ctx) (o : OpsS)
  /-- STD, R72. -/
  | std (x : Ctx) (o : OpsS)
  /-- AADD_W, R73. -/
  | aaddW (x : Ctx) (o : OpsR)
  /-- AADD_D, R73. -/
  | aaddD (x : Ctx) (o : OpsR)
  /-- ASWP_W, R73. -/
  | aswpW (x : Ctx) (o : OpsR)
  /-- ASWP_D, R73. -/
  | aswpD (x : Ctx) (o : OpsR)
  /-- ACAS_W, R73. -/
  | acasW (x : Ctx) (o : OpsR)
  /-- ACAS_D, R73. -/
  | acasD (x : Ctx) (o : OpsR)
  /-- DADD, R81. -/
  | dadd (x : Ctx) (o : OpsD)
  /-- DSUB, R81. -/
  | dsub (x : Ctx) (o : OpsD)
  /-- DADJ, R79. -/
  | dadj (x : Ctx) (o : OpsD)
  /-- DCMP, R78. -/
  | dcmp (x : Ctx) (o : OpsD)
  /-- DMUL, R78. -/
  | dmul (x : Ctx) (o : OpsD)
  /-- DDIV, R80. -/
  | ddiv (x : Ctx) (o : OpsD)
  /-- DCVB, R78. -/
  | dcvb (x : Ctx) (o : OpsD)
  /-- DCVD, R78. -/
  | dcvd (x : Ctx) (o : OpsD)
  /-- SYSCALL, R82. -/
  | syscall (x : Ctx) (k : BitVec 10)
  /-- HVCALL, R82. -/
  | hvcall (x : Ctx) (k : BitVec 10)
  /-- RETI, R45. -/
  | reti (x : Ctx)
  /-- WFE, R83. -/
  | wfe (x : Ctx) (ra : RegNo)
  /-- FENCE, R57. -/
  | fence (x : Ctx)
  /-- FENCE_IO, R57. -/
  | fenceIo (x : Ctx)
  /-- SBAR, R87. -/
  | sbar (x : Ctx)
  /-- PFLUSH, R85. -/
  | pflush (x : Ctx) (ra : RegNo) (k : BitVec 10)
  /-- PBAR, R86. -/
  | pbar (x : Ctx)
  /-- MFC, R34. -/
  | mfc (x : Ctx) (ra : RegNo) (k : BitVec 10)
  /-- MTC, R34. -/
  | mtc (x : Ctx) (ra : RegNo) (k : BitVec 10)
  /-- TINV_PAGE, R89. -/
  | tinvPage (x : Ctx) (ra : RegNo)
  /-- TINV_RANGE, R89. -/
  | tinvRange (x : Ctx) (ra : RegNo)
  /-- TINV_SEGMENT, R89. -/
  | tinvSegment (x : Ctx) (ra : RegNo)
  /-- TINV_TENANT, R89. -/
  | tinvTenant (x : Ctx) (ra : RegNo)
  /-- TINV_ALL, R89. -/
  | tinvAll (x : Ctx) (ra : RegNo)
  /-- TSYNC, R91. -/
  | tsync (x : Ctx) (ra : RegNo)
  /-- CLEAN, R92. -/
  | clean (x : Ctx) (ra : RegNo)
  /-- FLUSH, R92. -/
  | flush (x : Ctx) (ra : RegNo)
  /-- DISCARD, R92. -/
  | discard (x : Ctx) (ra : RegNo)
  /-- PREFETCH, R92. -/
  | prefetch (x : Ctx) (ra : RegNo)
  /-- CRNG_COMPLETE, R93. -/
  | crngComplete (c : CoreId)
  /-- ZMARK, R95. -/
  | zmark (x : Ctx) (ra : RegNo)
  /-- STBND, R96. -/
  | stbnd (x : Ctx)
  /-- LTIME, R97. -/
  | ltime (x : Ctx) (ra : RegNo)
  /-- PSETUP, R202. -/
  | psetup (x : Ctx) (ra : RegNo)
  /-- PDISSOLVE, R204. -/
  | pdissolve (x : Ctx) (ra : RegNo)
  /-- VADD, R100. -/
  | vadd (x : Ctx) (o : OpsV)
  /-- VSUB, R100. -/
  | vsub (x : Ctx) (o : OpsV)
  /-- VMUL, R100. -/
  | vmul (x : Ctx) (o : OpsV)
  /-- VMULH, R100. -/
  | vmulh (x : Ctx) (o : OpsV)
  /-- VMIN, R100. -/
  | vmin (x : Ctx) (o : OpsV)
  /-- VMAX, R100. -/
  | vmax (x : Ctx) (o : OpsV)
  /-- VMINU, R100. -/
  | vminu (x : Ctx) (o : OpsV)
  /-- VMAXU, R100. -/
  | vmaxu (x : Ctx) (o : OpsV)
  /-- VAND, R100. -/
  | vand (x : Ctx) (o : OpsV)
  /-- VOR, R100. -/
  | vor (x : Ctx) (o : OpsV)
  /-- VXOR, R100. -/
  | vxor (x : Ctx) (o : OpsV)
  /-- VSLL, R100. -/
  | vsll (x : Ctx) (o : OpsV)
  /-- VSRL, R100. -/
  | vsrl (x : Ctx) (o : OpsV)
  /-- VSRA, R100. -/
  | vsra (x : Ctx) (o : OpsV)
  /-- VADDS, R100. -/
  | vadds (x : Ctx) (o : OpsV)
  /-- VSUBS, R100. -/
  | vsubs (x : Ctx) (o : OpsV)
  /-- VFADD, R100. -/
  | vfadd (x : Ctx) (o : OpsV)
  /-- VFSUB, R100. -/
  | vfsub (x : Ctx) (o : OpsV)
  /-- VFMUL, R100. -/
  | vfmul (x : Ctx) (o : OpsV)
  /-- VFDIV, R100. -/
  | vfdiv (x : Ctx) (o : OpsV)
  /-- VFSQRT, R100. -/
  | vfsqrt (x : Ctx) (vd : RegNo) (vs1 : RegNo) (et : Elem)
  /-- VFMIN, R100. -/
  | vfmin (x : Ctx) (o : OpsV)
  /-- VFMAX, R100. -/
  | vfmax (x : Ctx) (o : OpsV)
  /-- VFMA, R100. -/
  | vfma (x : Ctx) (o : OpsV)
  /-- VFNMA, R100. -/
  | vfnma (x : Ctx) (o : OpsV)
  /-- VFABS, R100. -/
  | vfabs (x : Ctx) (vd : RegNo) (vs1 : RegNo) (et : Elem)
  /-- VFNEG, R100. -/
  | vfneg (x : Ctx) (vd : RegNo) (vs1 : RegNo) (et : Elem)
  /-- VCEQ, R100. -/
  | vceq (x : Ctx) (o : OpsV)
  /-- VCNE, R100. -/
  | vcne (x : Ctx) (o : OpsV)
  /-- VCLT, R100. -/
  | vclt (x : Ctx) (o : OpsV)
  /-- VCLE, R100. -/
  | vcle (x : Ctx) (o : OpsV)
  /-- VCLTU, R100. -/
  | vcltu (x : Ctx) (o : OpsV)
  /-- VCLEU, R100. -/
  | vcleu (x : Ctx) (o : OpsV)
  /-- VCFEQ, R100. -/
  | vcfeq (x : Ctx) (o : OpsV)
  /-- VCFLT, R100. -/
  | vcflt (x : Ctx) (o : OpsV)
  /-- VCFLE, R100. -/
  | vcfle (x : Ctx) (o : OpsV)
  /-- VCFUN, R100. -/
  | vcfun (x : Ctx) (o : OpsV)
  /-- VPERM, R100. -/
  | vperm (x : Ctx) (o : OpsV)
  /-- VBCAST, R100. -/
  | vbcast (x : Ctx) (vd : RegNo) (vs1 : RegNo) (et : Elem)
  /-- VZIPLO, R100. -/
  | vziplo (x : Ctx) (o : OpsV)
  /-- VZIPHI, R100. -/
  | vziphi (x : Ctx) (o : OpsV)
  /-- VUNZIPE, R100. -/
  | vunzipe (x : Ctx) (o : OpsV)
  /-- VUNZIPO, R100. -/
  | vunzipo (x : Ctx) (o : OpsV)
  /-- VSEL, R100. -/
  | vsel (x : Ctx) (o : OpsV)
  /-- VCVT, R101. -/
  | vcvt (x : Ctx) (vd : RegNo) (vs1 : RegNo) (src : Elem) (et : Elem)
  /-- VLD, R102. -/
  | vld (x : Ctx) (vd : RegNo) (vs1 : RegNo) (et : Elem)
  /-- VLDS, R102. -/
  | vlds (x : Ctx) (o : OpsV)
  /-- VLDB, R102. -/
  | vldb (x : Ctx) (vd : RegNo) (vs1 : RegNo) (et : Elem)
  /-- VST, R102. -/
  | vst (x : Ctx) (vd : RegNo) (vs1 : RegNo) (et : Elem)
  /-- VSTS, R102. -/
  | vsts (x : Ctx) (o : OpsV)
  /-- UNDEFINED_OPERATION, R52. -/
  | undefinedOperation (c : CoreId) (w : Word32)
  /-- INTERRUPT, R40. -/
  | interrupt (c : CoreId)
  /-- WFE_WAKE, R83. -/
  | wfeWake (c : CoreId) (why : WakeReason)
  /-- RUN_AHEAD_ENTRY, R113. -/
  | runAheadEntry (c : CoreId) (line : Nat) (waitedNs : Nat)
  /-- RUN_AHEAD_END, R115. -/
  | runAheadEnd (c : CoreId) (why : RunAheadEnd)
  /-- TRANSIENT_REPLAY, R116. -/
  | transientReplay (c : CoreId) (det : Detector)
  /-- HARD_FAULT, R230. -/
  | hardFault (c : CoreId) (f : FaultReport)
  /-- STITCH_REPLAY, R231. -/
  | stitchReplay (c : CoreId)
  /-- CORE_TRANSPLANT, R232. -/
  | coreTransplant (c : CoreId)
  /-- SPARE_SUBSTITUTION, R455. -/
  | spareSubstitution (u : SpareUnit)
  /-- HARDWARE_PREFETCH, R106. -/
  | hardwarePrefetch (c : CoreId) (p : Prefetcher) (ea : Word)
  /-- RDS, R164. -/
  | rds (m : Msg)
  /-- RDO, R164. -/
  | rdo (m : Msg)
  /-- UPG, R164. -/
  | upg (m : Msg)
  /-- RDNA, R164. -/
  | rdna (m : Msg)
  /-- IOW, R164. -/
  | iow (m : Msg)
  /-- WBD, R164. -/
  | wbd (m : Msg)
  /-- EVC, R164. -/
  | evc (m : Msg)
  /-- CSRRD, R27. -/
  | csrrd (m : Msg)
  /-- CSRWR, R27. -/
  | csrwr (m : Msg)
  /-- DEVRD, R56. -/
  | devrd (m : Msg)
  /-- DEVWR, R56. -/
  | devwr (m : Msg)
  /-- MSG, R362. -/
  | msg (m : Msg)
  /-- SNP, R164. -/
  | snp (m : Msg)
  /-- SNPINV, R164. -/
  | snpinv (m : Msg)
  /-- BACKINV, R167. -/
  | backinv (m : Msg)
  /-- SETFLUSH, R168. -/
  | setflush (n : SliceId) (set : Fin 3072) (a : Agent)
  /-- XLATEINV, R150. -/
  | xlateinv (target : Agent) (v : Tinv)
  /-- GRANT, R166. -/
  | grant (m : Msg)
  /-- ACK, R164. -/
  | ack (m : Msg)
  /-- NOCOPY, R251. -/
  | nocopy (m : Msg)
  /-- COPYLOST, R180. -/
  | copylost (m : Msg)
  /-- CMP, R246. -/
  | cmp (m : Msg)
  /-- ERR, R447. -/
  | err (m : Msg)
  /-- XLATEACK, R91. -/
  | xlateack (issuer : CoreId) (serial : Nat) (target : Agent) (dropped : Bool)
  /-- DATA, R164. -/
  | data (m : Msg)
  /-- SNPDATA, R164. -/
  | snpdata (m : Msg)
  /-- LINK_RETRY, R248. -/
  | linkRetry (q : Quad) (l : LinkKind) (flit : BitVec 288)
  /-- PORT_ISOLATION, R250. -/
  | portIsolation (q : Quad) (stop : Fin 40) (port : Fin 6) (vc : Fin 4) (dst : Byte)
  /-- WORM_ABORT, R250. -/
  | wormAbort (q : Quad) (stop : Fin 40) (port : Fin 6)
  /-- PORT_REENABLE, R250. -/
  | portReenable (q : Quad) (stop : Fin 40) (port : Fin 6) (handshakeOk : Bool)
  /-- PARKED_PACKET_DISCARD, R249. -/
  | parkedPacketDiscard (d : DomId) (vc : Fin 4)
  /-- END_TO_END_TIMEOUT, R251. -/
  | endToEndTimeout (a : Agent) (txid : Half)
  /-- FAB_OBS_CTL, R257. -/
  | fabObsCtl (q : Quad) (u : Fin 4) (v : Word)
  /-- WAY_MASK_UPDATE, R160. -/
  | wayMaskUpdate (cls : Fin 16) (mask : Half)
  /-- RE_KEY, R174. -/
  | reKey (requested : Bool)
  /-- REBUILD_START, R175. -/
  | rebuildStart
  /-- REBUILD_SET, R176. -/
  | rebuildSet (late : Bool)
  /-- DEAD_AGENT_DECLARATION, R180. -/
  | deadAgentDeclaration (a : DeadAgent)
  /-- RECLAMATION_WALK, R180. -/
  | reclamationWalk (w : Walker)
  /-- RECLAMATION_END, R180. -/
  | reclamationEnd
  /-- READMISSION, R182. -/
  | readmission (a : DeadAgent)
  /-- SCRATCHPAD_CONVERSION, R184. -/
  | scratchpadConversion (n : SliceId) (ways : Fin 16)
  /-- CONVERSION_DONE, R184. -/
  | conversionDone (n : SliceId)
  /-- SCRATCHPAD_STARVE, R186. -/
  | scratchpadStarve (a : StarvedAccess)
  /-- MARCH_TEST, R190. -/
  | marchTest (n : SliceId) (mode : MarchMode)
  /-- MARCH_TEST_DONE, R191. -/
  | marchTestDone (n : SliceId) (cells : Nat) (dataRows dataCols : List (Nat × Nat)) (tag directory : Nat × Nat)
  /-- PANEL_START, R203. -/
  | panelStart (s : SlotId)
  /-- STITCH_END, R206. -/
  | stitchEnd (c : CoreId)
  /-- ROW_COMMIT, R213. -/
  | rowCommit (s : SlotId)
  /-- BOUNDARY_STEP, R218. -/
  | boundaryStep (s : SlotId)
  /-- JOURNAL_WRITE, R223. -/
  | journalWrite (s : SlotId)
  /-- MC_READ, R278. -/
  | mcRead (ch : Chan) (line : McLine) (f : ReadAttempt)
  /-- MC_WRITE, R266. -/
  | mcWrite (ch : Chan) (m : Msg)
  /-- MC_ISSUE, R267. -/
  | mcIssue (ch : Chan)
  /-- REFRESH, R270. -/
  | refresh (ch : Chan) (rank : Fin 8)
  /-- DIMM_TEMPERATURE_READ, R260. -/
  | dimmTemperatureRead (ch : Chan) (celsius : List Int)
  /-- FREQUENCY_CHANGE, R272. -/
  | frequencyChange (low : Bool)
  /-- ALERT_N, R275. -/
  | alertN (ch : Chan)
  /-- RETRAIN, R276. -/
  | retrain (ch : Chan)
  /-- BUCKET_LEAK, R281. -/
  | bucketLeak
  /-- DEMAND_SCRUB, R282. -/
  | demandScrub (ch : Chan)
  /-- DEMAND_SCRUB_ABORT, R282. -/
  | demandScrubAbort (a : ScrubAborted)
  /-- DEMAND_SCRUB_DONE, R282. -/
  | demandScrubDone (ch : Chan) (found : List ReadAttempt)
  /-- PATROL_SCRUB, R283. -/
  | patrolScrub (ch : Chan) (found : List ReadAttempt)
  /-- ZERO_FILL_WRITE, R285. -/
  | zeroFillWrite (ch : Chan)
  /-- SWATCH_RUN, R274. -/
  | swatchRun (g : SwatchGo)
  /-- SWATCH_RUN_DONE, R274. -/
  | swatchRunDone (ch : Chan) (received : List (List Bool))
  /-- INBOUND_READ, R306. -/
  | inboundRead (g : IoStopId) (t : Tlp)
  /-- INBOUND_WRITE, R306. -/
  | inboundWrite (g : IoStopId) (t : Tlp) (bytes : List Byte)
  /-- ATOMICOP, R306. -/
  | atomicop (g : IoStopId) (t : Tlp) (kind : AtomicKind) (operand : Word) (compare : Word)
  /-- TRANSLATION_REQUEST, R311. -/
  | translationRequest (g : IoStopId) (t : Tlp)
  /-- CONTEXT_INVALIDATION, R310. -/
  | contextInvalidation (g : IoStopId) (first : Half) (last : Half)
  /-- INVALIDATION_COMPLETION, R313. -/
  | invalidationCompletion (g : IoStopId) (rid : Half) (tenant : Half)
  /-- ATS_TIMEOUT, R314. -/
  | atsTimeout (g : IoStopId) (rid : Half) (tenant : Half)
  /-- CONTAINMENT, R315. -/
  | containment (p : PortId) (why : ContainCause)
  /-- CONTAINMENT_RELEASE, R318. -/
  | containmentRelease (p : PortId)
  /-- COMPLETION_TIMEOUT, R317. -/
  | completionTimeout (g : IoStopId) (tag : Nat)
  /-- CXL_CACHE_REQUEST, R320. -/
  | cxlCacheRequest (d : CxlId) (t : Tlp) (req : CxlReq) (value : Line)
  /-- OUTBOUND_WINDOW_ACCESS, R305. -/
  | outboundWindowAccess (m : Msg) (write : Bool) (size : Nat)
  /-- CONFIGURATION_ACCESS, R303. -/
  | configurationAccess (m : Msg) (write : Bool) (size : Nat)
  /-- BRIXNIL_FLIT, R325. -/
  | brixnilFlit (k : BrxId) (f : BrxFlit)
  /-- KEEP_ALIVE, R325. -/
  | keepAlive (k : BrxId)
  /-- BRIXNIL_LINK_TIMEOUT, R327. -/
  | brixnilLinkTimeout (k : BrxId)
  /-- BRIXNIL_RETRAIN_DONE, R327. -/
  | brixnilRetrainDone (k : BrxId) (ok : Bool)
  /-- RETRY, R328. -/
  | retry (k : BrxId) (p : BrxPacket)
  /-- RETRIED_TRANSACTION_TIMEOUT, R327. -/
  | retriedTransactionTimeout (k : BrxId) (txid : Half)
  /-- DEAD_AGENT_TIME, R329. -/
  | deadAgentTime (peer : LostPeer)
  /-- WORKER_RELEASE, R330. -/
  | workerRelease
  /-- TIME_SYNC_DRIVE, R331. -/
  | timeSyncDrive
  /-- TIME_SYNC, R331. -/
  | timeSync
  /-- BOARD_BUDGET_SPLIT, R332. -/
  | boardBudgetSplit (demand : List Nat)
  /-- ALLOCATION_TIMEOUT, R332. -/
  | allocationTimeout
  /-- COPY, R340. -/
  | engCopy (e : EngineId) (q : Quantum)
  /-- FILL, R340. -/
  | engFill (e : EngineId) (q : Quantum)
  /-- COMPARE, R340. -/
  | engCompare (e : EngineId) (q : Quantum)
  /-- ZERO, R343. -/
  | engZero (e : EngineId) (q : Quantum)
  /-- CRC32C, R474. -/
  | engCrc32c (e : EngineId) (q : Quantum)
  /-- SHA256, R340. -/
  | engSha256 (e : EngineId) (q : Quantum)
  /-- SHA512, R340. -/
  | engSha512 (e : EngineId) (q : Quantum)
  /-- GCM_ENC, R341. -/
  | engGcmEnc (e : EngineId) (q : Quantum)
  /-- GCM_DEC, R341. -/
  | engGcmDec (e : EngineId) (q : Quantum)
  /-- XTS_ENC, R341. -/
  | engXtsEnc (e : EngineId) (q : Quantum)
  /-- XTS_DEC, R341. -/
  | engXtsDec (e : EngineId) (q : Quantum)
  /-- DEFLATE, R342. -/
  | engDeflate (e : EngineId) (q : Quantum)
  /-- INFLATE, R342. -/
  | engInflate (e : EngineId) (q : Quantum)
  /-- SQTAIL, R345. -/
  | sqtail (i : InstId) (q : QId) (v : Word32)
  /-- CQHEAD, R346. -/
  | cqhead (i : InstId) (q : QId) (v : Word32)
  /-- QUANTUM_END, R348. -/
  | quantumEnd (e : EngineId) (l : Lane)
  /-- QUANTUM_REPLAY, R351. -/
  | quantumReplay (e : EngineId) (l : Lane)
  /-- ASSIGN, R352. -/
  | instAssign (i : InstId)
  /-- ENABLE, R352. -/
  | instEnable (i : InstId)
  /-- QUIESCE, R352. -/
  | instQuiesce (i : InstId)
  /-- ABORT, R352. -/
  | instAbort (i : InstId)
  /-- RESET, R352. -/
  | instReset (i : InstId)
  /-- REMOVE, R352. -/
  | instRemove (i : InstId)
  /-- TXGO, R353. -/
  | txgo (i : InstId)
  /-- TXACK, R353. -/
  | txack (i : InstId)
  /-- RXGO, R353. -/
  | rxgo (i : InstId)
  /-- RXACK, R353. -/
  | rxack (i : InstId)
  /-- EVC_MSGDB, R362. -/
  | evcMsgdb (rid : Half) (v : Word) (size : Nat)
  /-- VIRTUAL_INTERRUPT, R372. -/
  | virtualInterrupt (c : CoreId)
  /-- EVC_MTINV, R363. -/
  | evcMtinv (id : BitVec 20)
  /-- RESCAN, R368. -/
  | rescan (c : LCore)
  /-- EVC_EQ_BASE, R368. -/
  | evcEqBase (c : LCore) (v : Word)
  /-- WATERMARK_NOTICE, R373. -/
  | watermarkNotice (r : Ring)
  /-- DOMAIN_REQUEST, R379. -/
  | domainRequest (d : DomId) (st : PowerState)
  /-- AUTOMATIC_RETENTION, R379. -/
  | automaticRetention (d : DomId)
  /-- RETENTION_ENTRY, R383. -/
  | retentionEntry (d : DomId)
  /-- RETENTION_EXIT, R383. -/
  | retentionExit (d : DomId)
  /-- OFF_ENTRY, R382. -/
  | offEntry (d : DomId)
  /-- WAKE_FROM_OFF, R385. -/
  | wakeFromOff (d : DomId)
  /-- ENTRY_ABORT, R381. -/
  | entryAbort (d : DomId)
  /-- VOLTAGE_TRANSITION, R393. -/
  | voltageTransition (d : DomId) (mv : Nat)
  /-- VOLTAGE_STEP, R393. -/
  | voltageStep (d : DomId) (reading : Nat)
  /-- OPEN_WIRE_TEST, R389. -/
  | openWireTest (d : DomId) (f : SenseReport) (othersFail : Bool)
  /-- DOMAIN_FAULT_CHECK, R390. -/
  | domainFaultCheck (d : DomId) (stillWrong : Bool)
  /-- GOVERNOR_VOLTAGE, R396. -/
  | governorVoltage (c : CoreId) (mv : Nat)
  /-- GOVERNOR_PREFETCH, R397. -/
  | governorPrefetch (c : CoreId) (usedPct : Nat) (dramPct : Nat)
  /-- FAST_LOOP, R398. -/
  | fastLoop (watts : Nat) (amps : Nat)
  /-- MEDIUM_LOOP, R398. -/
  | mediumLoop (watts : Nat)
  /-- SLOW_LOOP, R398. -/
  | slowLoop (watts : Nat)
  /-- SLICE_RATE_WINDOW, R174. -/
  | sliceRateWindow (sliceRates : List Nat) (chanRates : List Nat)
  /-- REEF_N_ASSERT, R400. -/
  | reefNAssert
  /-- REEF_N_RELEASE, R400. -/
  | reefNRelease
  /-- THERMAL_CONTROL, R401. -/
  | thermalControl (d : DomId) (celsius : List Int)
  /-- THERMTRIP, R402. -/
  | thermtrip (celsius : List Int)
  /-- FORCE_OFF, R403. -/
  | forceOff
  /-- DISAGREEMENT_END, R404. -/
  | disagreementEnd (asserted : Bool)
  /-- DISCREPANCY_FAULT, R404. -/
  | discrepancyFault
  /-- FORCE_OFF_CUT, R403. -/
  | forceOffCut
  /-- STEWARD_RESTART, R391. -/
  | stewardRestart (n : StwId)
  /-- CHIEF_WATCHDOG, R391. -/
  | chiefWatchdog
  /-- OPEN, R420. -/
  | odOpen (r : OdRequest)
  /-- CLOSE, R420. -/
  | odClose (r : OdRequest)
  /-- READ, R421. -/
  | odRead (r : OdRequest)
  /-- STAGE, R421. -/
  | odStage (r : OdRequest)
  /-- COMMIT, R422. -/
  | odCommit (r : OdRequest)
  /-- DISCARD_STAGED, R421. -/
  | odDiscard (r : OdRequest)
  /-- DESCRIBE, R419. -/
  | odDescribe (r : OdRequest)
  /-- SESSION_TIMEOUT, R420. -/
  | sessionTimeout (token : Word32)
  /-- TRANSFER_STALL, R423. -/
  | transferStall (n : SockId)
  /-- HFWCLOSE, R417. -/
  | hfwclose
  /-- VAUX_UP, R22. -/
  | vauxUp
  /-- CAST_ON, R434. -/
  | castOn (k : CastOnInput)
  /-- CAST_OFF, R439. -/
  | castOff (why : CastOffCause)
  /-- RESET_N, R433. -/
  | resetN
  /-- PWR_GOOD_LOSS, R433. -/
  | pwrGoodLoss
  /-- VAUX_LOSS, R464. -/
  | vauxLoss
  /-- PERSISTENT_LOG_WRITE, R453. -/
  | persistentLogWrite (ok : Bool)
  /-- REGISTER_READ_CLEAR, R5. -/
  | registerReadClear (offset : BitVec 40) (size : Nat)
  /-- REGISTER_WRITE, R5. -/
  | registerWrite (offset : BitVec 40) (size : Nat) (v : Word)
  /-- DISAGREEMENT_BEGIN, R404. -/
  | disagreementBegin (channelB : Bool)
  /-- DEBUG_ATTACHMENT, R472. -/
  | debugAttachment (c : CoreId) (attach : Bool)
  /-- RETRAIN_DONE, R276. -/
  | retrainDone (ch : Chan) (ok : Bool)
  /-- FREQUENCY_CHANGE_DONE, R272. -/
  | frequencyChangeDone
  /-- LATE_FLIT, R250. -/
  | lateFlit (q : Quad)
  /-- ROOT_PORT_EVENT, R361. -/
  | rootPortEvent (k : Skein) (ev : RootPortEvent)
  /-- INBOUND_COMPLETION, R317. -/
  | inboundCompletion (g : IoStopId) (tag : Nat) (value : Word) (ok : Bool) (poison : Bool)
deriving DecidableEq, Repr

end Sys2Proof
end

