-- ==== Sys2Proof/WellFormed.lean ====
section
/-! DEFINITION. Well-formed commands: the terms that R52 does not call an undefined operation, and events whose operands
fit together. An ill-formed Miund term raises the undefined-operation trap when it is executed. -/

namespace Sys2Proof

/-- GP = 0 with GS = 1 is reserved (R48). -/
def Ctx.wf (x : Ctx) : Bool := !(x.guard.gp == 0 && x.guard.gs)
/-- With W = 1, every register field is even and not zero (R50, R52). -/
def OpsD.wf (o : OpsD) : Bool :=
  let even := fun (r : RegNo) => r.val % 2 == 0 && r != 0
  !o.w || (even o.rd && even o.rs1 && even o.rs2)
/-- The control registers that an owning chapter lists (R34, R35, R131, R134, R235, R374). -/
def listedCr (k : BitVec 10) : Bool :=
  [0x000, 0x001, 0x002, 0x003, 0x004, 0x008, 0x009, 0x00A, 0x00C, 0x00D, 0x00E, 0x010, 0x011, 0x014, 0x015, 0x016, 0x018,
   0x080, 0x081, 0x082, 0x083, 0x100, 0x101, 0x102, 0x103, 0x180, 0x1C0, 0x1C1, 0x1C2, 0x1C3, 0x1C4].contains k.toNat
/-- Element types of integer functions, et 0 to 3, and of floating functions, et 4 to 6 (R100). -/
def Elem.isInt : Elem → Bool
  | .i8 | .i16 | .i32 | .i64 => true
  | _ => false

/-- Whether a term is well formed. -/
def Instr.wf : Instr → Bool
  | .add x _ | .sub x _ | .and x _ | .or x _ | .xor x _ | .andn x _ | .sll x _ | .srl x _ | .sra x _ | .ror x _
  | .min x _ | .max x _ | .minu x _ | .maxu x _ | .addw x _ | .subw x _ | .sllw x _ | .srlw x _ | .sraw x _
  | .mul x _ | .mulh x _ | .mulhu x _ | .div x _ | .divu x _ | .rem x _ | .remu x _ => x.wf
  | .clz x _ _ | .ctz x _ _ | .popc x _ _ => x.wf
  | .addi x _ | .andi x _ | .ori x _ | .xori x _ | .addis x _ => x.wf
  | .shi x _ _ _ _ _ => x.wf
  | .addpc x _ _ => x.wf
  | .cmpCc x _ _ _ _ => x.wf
  | .pand x _ | .por x _ | .pxor x _ | .pandn x _ => x.wf
  | .pnot x _ _ => x.wf
  | .b x _ | .bl x _ => x.wf
  | .br x _ _ => x.wf
  | .ret x => x.wf
  | .ldb x _ | .ldbu x _ | .ldh x _ | .ldhu x _ | .ldw x _ | .ldwu x _ | .ldd x _ => x.wf
  | .stb x _ | .sth x _ | .stw x _ | .std x _ => x.wf
  | .aaddW x _ | .aaddD x _ | .aswpW x _ | .aswpD x _ | .acasW x _ | .acasD x _ => x.wf
  | .dadd x o | .dsub x o | .dadj x o | .dcmp x o | .dmul x o | .ddiv x o | .dcvb x o | .dcvd x o => x.wf && o.wf
  | .syscall x _ | .hvcall x _ => x.wf
  | .reti x | .fence x | .fenceIo x | .sbar x | .pbar x | .stbnd x => x.wf
  | .wfe x _ => x.wf
  | .pflush x _ _ => x.wf
  | .mfc x _ k | .mtc x _ k => x.wf && listedCr k
  | .tinvPage x _ | .tinvRange x _ | .tinvSegment x _ | .tinvTenant x _ | .tinvAll x _ | .tsync x _ => x.wf
  | .clean x _ | .flush x _ | .discard x _ | .prefetch x _ | .zmark x _ => x.wf
  | .ltime x _ | .psetup x _ | .pdissolve x _ => x.wf
  | .vadd x o | .vsub x o | .vmul x o | .vmulh x o | .vmin x o | .vmax x o | .vminu x o | .vmaxu x o | .vand x o
  | .vor x o | .vxor x o | .vsll x o | .vsrl x o | .vsra x o | .vadds x o | .vsubs x o
  | .vceq x o | .vcne x o | .vclt x o | .vcle x o | .vcltu x o | .vcleu x o => x.wf && o.et.isInt
  | .vfadd x o | .vfsub x o | .vfmul x o | .vfdiv x o | .vfmin x o | .vfmax x o | .vfma x o | .vfnma x o
  | .vcfeq x o | .vcflt x o | .vcfle x o | .vcfun x o => x.wf && !o.et.isInt
  | .vfsqrt x _ _ et | .vfabs x _ _ et | .vfneg x _ _ et => x.wf && !et.isInt
  | .vperm x _ | .vziplo x _ | .vziphi x _ | .vunzipe x _ | .vunzipo x _ | .vsel x _ => x.wf
  | .vbcast x _ _ _ => x.wf
  | .vcvt x _ _ _ _ => x.wf
  | .vld x _ _ _ | .vldb x _ _ _ | .vst x _ _ _ => x.wf
  | .vlds x _ | .vsts x _ => x.wf
  | .inboundWrite _ t bytes => t.len == bytes.length
  | .castOn k => k.straps.length == 3 && k.dimms.length == 16 && k.trainOk.length == 16
  | .boardBudgetSplit l => l.length == 4
  | _ => true

end Sys2Proof
end

