-- ==== Sys2Proof/Decode.lean ====
section
/-! DEFINITION. The encoding of Miund instructions (R48 to R52): the word of an instruction, which a trap's frame holds
(R43), and the instruction of a word. The table of commands gives no row any bits, so no word spells a command. -/

namespace Sys2Proof

/-! ### Codes -/

def Cond.code : Cond → Nat
  | .eq => 0 | .ne => 1 | .lt => 2 | .ge => 3 | .ltu => 4 | .geu => 5 | .gt => 6 | .le => 7
  | .gtu => 8 | .leu => 9 | .bs => 10 | .bc => 11 | .tst => 12 | .tstz => 13
def Cond.ofCode (n : Nat) : Option Cond :=
  match n with
  | 0 => some .eq | 1 => some .ne | 2 => some .lt | 3 => some .ge | 4 => some .ltu | 5 => some .geu | 6 => some .gt
  | 7 => some .le | 8 => some .gtu | 9 => some .leu | 10 => some .bs | 11 => some .bc | 12 => some .tst | 13 => some .tstz
  | _ => none
def ShiftKind.code : ShiftKind → Nat
  | .sll => 0 | .srl => 1 | .sra => 2 | .ror => 3
def ShiftKind.ofCode (n : Nat) : ShiftKind := if n = 0 then .sll else if n = 1 then .srl else if n = 2 then .sra else .ror
def Elem.code : Elem → Nat
  | .i8 => 0 | .i16 => 1 | .i32 => 2 | .i64 => 3 | .f16 => 4 | .f32 => 5 | .f64 => 6
def Elem.ofCode (n : Nat) : Option Elem :=
  match n with
  | 0 => some .i8 | 1 => some .i16 | 2 => some .i32 | 3 => some .i64 | 4 => some .f16 | 5 => some .f32 | 6 => some .f64
  | _ => none

/-! ### Formats (R49) -/

def wide (p : PredNo) : RegNo := ⟨p.val, by omega⟩
def lowR (rd rs1 rs2 : RegNo) (func : Nat) : Nat := rd.val * 2 ^ 17 + rs1.val * 2 ^ 12 + rs2.val * 2 ^ 7 + func
def lowI (rd rs1 : RegNo) (imm : BitVec 12) : Nat := rd.val * 2 ^ 17 + rs1.val * 2 ^ 12 + imm.toNat
def lowD (o : OpsD) (func : Nat) : Nat :=
  o.rd.val * 2 ^ 17 + o.rs1.val * 2 ^ 12 + o.rs2.val * 2 ^ 7 + (if o.w then 64 else 0) + func * 8 + o.pd.val
def lowV (vd vs1 vs2 : RegNo) (et : Elem) (func : Nat) : Nat :=
  vd.val * 2 ^ 17 + vs1.val * 2 ^ 12 + vs2.val * 2 ^ 7 + et.code * 16 + func
def lowX (ra : RegNo) (k : BitVec 10) (func : Nat) : Nat := ra.val * 2 ^ 17 + k.toNat * 2 ^ 7 + func

/-- The executing core and guard, the major opcode and bits [21:0] of a Miund instruction (R51, R66 to R102); a field that
the instruction does not use is 0. None for a command that is no instruction. -/
def Instr.fields : Instr → Option (Ctx × Nat × Nat)
  | .add x o => some (x, 0x1, lowR o.rd o.rs1 o.rs2 0)
  | .sub x o => some (x, 0x1, lowR o.rd o.rs1 o.rs2 1)
  | .and x o => some (x, 0x1, lowR o.rd o.rs1 o.rs2 2)
  | .or x o => some (x, 0x1, lowR o.rd o.rs1 o.rs2 3)
  | .xor x o => some (x, 0x1, lowR o.rd o.rs1 o.rs2 4)
  | .andn x o => some (x, 0x1, lowR o.rd o.rs1 o.rs2 5)
  | .sll x o => some (x, 0x1, lowR o.rd o.rs1 o.rs2 6)
  | .srl x o => some (x, 0x1, lowR o.rd o.rs1 o.rs2 7)
  | .sra x o => some (x, 0x1, lowR o.rd o.rs1 o.rs2 8)
  | .ror x o => some (x, 0x1, lowR o.rd o.rs1 o.rs2 9)
  | .min x o => some (x, 0x1, lowR o.rd o.rs1 o.rs2 10)
  | .max x o => some (x, 0x1, lowR o.rd o.rs1 o.rs2 11)
  | .minu x o => some (x, 0x1, lowR o.rd o.rs1 o.rs2 12)
  | .maxu x o => some (x, 0x1, lowR o.rd o.rs1 o.rs2 13)
  | .clz x rd rs1 => some (x, 0x1, lowR rd rs1 0 14)
  | .ctz x rd rs1 => some (x, 0x1, lowR rd rs1 0 15)
  | .popc x rd rs1 => some (x, 0x1, lowR rd rs1 0 16)
  | .addw x o => some (x, 0x2, lowR o.rd o.rs1 o.rs2 0)
  | .subw x o => some (x, 0x2, lowR o.rd o.rs1 o.rs2 1)
  | .sllw x o => some (x, 0x2, lowR o.rd o.rs1 o.rs2 6)
  | .srlw x o => some (x, 0x2, lowR o.rd o.rs1 o.rs2 7)
  | .sraw x o => some (x, 0x2, lowR o.rd o.rs1 o.rs2 8)
  | .mul x o => some (x, 0x3, lowR o.rd o.rs1 o.rs2 0)
  | .mulh x o => some (x, 0x3, lowR o.rd o.rs1 o.rs2 1)
  | .mulhu x o => some (x, 0x3, lowR o.rd o.rs1 o.rs2 2)
  | .div x o => some (x, 0x3, lowR o.rd o.rs1 o.rs2 3)
  | .divu x o => some (x, 0x3, lowR o.rd o.rs1 o.rs2 4)
  | .rem x o => some (x, 0x3, lowR o.rd o.rs1 o.rs2 5)
  | .remu x o => some (x, 0x3, lowR o.rd o.rs1 o.rs2 6)
  | .addi x o => some (x, 0x4, lowI o.rd o.rs1 o.imm)
  | .andi x o => some (x, 0x5, lowI o.rd o.rs1 o.imm)
  | .ori x o => some (x, 0x6, lowI o.rd o.rs1 o.imm)
  | .xori x o => some (x, 0x7, lowI o.rd o.rs1 o.imm)
  | .shi x rd rs1 w k n => some (x, 0x8, lowI rd rs1 (BitVec.ofNat 12 ((if w then 256 else 0) + k.code * 64 + n.toNat)))
  | .addis x o => some (x, 0x9, lowI o.rd o.rs1 o.imm)
  | .addpc x rd imm => some (x, 0xa, lowI rd 0 imm)
  | .cmpCc x pd cc rs1 (.reg rs2) => some (x, 0xb, pd.val * 2 ^ 19 + cc.code * 2 ^ 15 + rs1.val * 2 ^ 10 + rs2.val * 16)
  | .cmpCc x pd cc rs1 (.imm s) => some (x, 0xb, pd.val * 2 ^ 19 + cc.code * 2 ^ 15 + rs1.val * 2 ^ 10 + 512 + s.toNat)
  | .pand x o => some (x, 0xc, lowR (wide o.pd) (wide o.ps1) (wide o.ps2) 0)
  | .por x o => some (x, 0xc, lowR (wide o.pd) (wide o.ps1) (wide o.ps2) 1)
  | .pnot x pd ps1 => some (x, 0xc, lowR (wide pd) (wide ps1) 0 2)
  | .pxor x o => some (x, 0xc, lowR (wide o.pd) (wide o.ps1) (wide o.ps2) 3)
  | .pandn x o => some (x, 0xc, lowR (wide o.pd) (wide o.ps1) (wide o.ps2) 4)
  | .b x off => some (x, 0xd, off.toNat)
  | .bl x off => some (x, 0xe, off.toNat)
  | .br x rd rs1 => some (x, 0xf, lowR rd rs1 0 0)
  | .ret x => some (x, 0xf, lowR 0 0 0 1)
  | .ldb x o => some (x, 0x10, lowI o.rd o.rs1 o.imm)
  | .ldbu x o => some (x, 0x11, lowI o.rd o.rs1 o.imm)
  | .ldh x o => some (x, 0x12, lowI o.rd o.rs1 o.imm)
  | .ldhu x o => some (x, 0x13, lowI o.rd o.rs1 o.imm)
  | .ldw x o => some (x, 0x14, lowI o.rd o.rs1 o.imm)
  | .ldwu x o => some (x, 0x15, lowI o.rd o.rs1 o.imm)
  | .ldd x o => some (x, 0x16, lowI o.rd o.rs1 o.imm)
  | .stb x o => some (x, 0x18, lowI o.rs2 o.rs1 o.imm)
  | .sth x o => some (x, 0x19, lowI o.rs2 o.rs1 o.imm)
  | .stw x o => some (x, 0x1a, lowI o.rs2 o.rs1 o.imm)
  | .std x o => some (x, 0x1b, lowI o.rs2 o.rs1 o.imm)
  | .aaddW x o => some (x, 0x1c, lowR o.rd o.rs1 o.rs2 0)
  | .aaddD x o => some (x, 0x1c, lowR o.rd o.rs1 o.rs2 1)
  | .aswpW x o => some (x, 0x1c, lowR o.rd o.rs1 o.rs2 2)
  | .aswpD x o => some (x, 0x1c, lowR o.rd o.rs1 o.rs2 3)
  | .acasW x o => some (x, 0x1c, lowR o.rd o.rs1 o.rs2 4)
  | .acasD x o => some (x, 0x1c, lowR o.rd o.rs1 o.rs2 5)
  | .dadd x o => some (x, 0x20, lowD o 0)
  | .dsub x o => some (x, 0x20, lowD o 1)
  | .dadj x o => some (x, 0x20, lowD o 2)
  | .dcmp x o => some (x, 0x20, lowD o 3)
  | .dmul x o => some (x, 0x20, lowD o 4)
  | .ddiv x o => some (x, 0x20, lowD o 5)
  | .dcvb x o => some (x, 0x20, lowD o 6)
  | .dcvd x o => some (x, 0x20, lowD o 7)
  | .vadd x o => some (x, 0x28, lowV o.vd o.vs1 o.vs2 o.et 0)
  | .vsub x o => some (x, 0x28, lowV o.vd o.vs1 o.vs2 o.et 1)
  | .vmul x o => some (x, 0x28, lowV o.vd o.vs1 o.vs2 o.et 2)
  | .vmulh x o => some (x, 0x28, lowV o.vd o.vs1 o.vs2 o.et 3)
  | .vmin x o => some (x, 0x28, lowV o.vd o.vs1 o.vs2 o.et 4)
  | .vmax x o => some (x, 0x28, lowV o.vd o.vs1 o.vs2 o.et 5)
  | .vminu x o => some (x, 0x28, lowV o.vd o.vs1 o.vs2 o.et 6)
  | .vmaxu x o => some (x, 0x28, lowV o.vd o.vs1 o.vs2 o.et 7)
  | .vand x o => some (x, 0x28, lowV o.vd o.vs1 o.vs2 o.et 8)
  | .vor x o => some (x, 0x28, lowV o.vd o.vs1 o.vs2 o.et 9)
  | .vxor x o => some (x, 0x28, lowV o.vd o.vs1 o.vs2 o.et 10)
  | .vsll x o => some (x, 0x28, lowV o.vd o.vs1 o.vs2 o.et 11)
  | .vsrl x o => some (x, 0x28, lowV o.vd o.vs1 o.vs2 o.et 12)
  | .vsra x o => some (x, 0x28, lowV o.vd o.vs1 o.vs2 o.et 13)
  | .vadds x o => some (x, 0x28, lowV o.vd o.vs1 o.vs2 o.et 14)
  | .vsubs x o => some (x, 0x28, lowV o.vd o.vs1 o.vs2 o.et 15)
  | .vfadd x o => some (x, 0x29, lowV o.vd o.vs1 o.vs2 o.et 0)
  | .vfsub x o => some (x, 0x29, lowV o.vd o.vs1 o.vs2 o.et 1)
  | .vfmul x o => some (x, 0x29, lowV o.vd o.vs1 o.vs2 o.et 2)
  | .vfdiv x o => some (x, 0x29, lowV o.vd o.vs1 o.vs2 o.et 3)
  | .vfsqrt x vd vs1 et => some (x, 0x29, lowV vd vs1 0 et 4)
  | .vfmin x o => some (x, 0x29, lowV o.vd o.vs1 o.vs2 o.et 5)
  | .vfmax x o => some (x, 0x29, lowV o.vd o.vs1 o.vs2 o.et 6)
  | .vfma x o => some (x, 0x29, lowV o.vd o.vs1 o.vs2 o.et 7)
  | .vfnma x o => some (x, 0x29, lowV o.vd o.vs1 o.vs2 o.et 8)
  | .vfabs x vd vs1 et => some (x, 0x29, lowV vd vs1 0 et 9)
  | .vfneg x vd vs1 et => some (x, 0x29, lowV vd vs1 0 et 10)
  | .vceq x o => some (x, 0x2a, lowV o.vd o.vs1 o.vs2 o.et 0)
  | .vcne x o => some (x, 0x2a, lowV o.vd o.vs1 o.vs2 o.et 1)
  | .vclt x o => some (x, 0x2a, lowV o.vd o.vs1 o.vs2 o.et 2)
  | .vcle x o => some (x, 0x2a, lowV o.vd o.vs1 o.vs2 o.et 3)
  | .vcltu x o => some (x, 0x2a, lowV o.vd o.vs1 o.vs2 o.et 4)
  | .vcleu x o => some (x, 0x2a, lowV o.vd o.vs1 o.vs2 o.et 5)
  | .vcfeq x o => some (x, 0x2a, lowV o.vd o.vs1 o.vs2 o.et 6)
  | .vcflt x o => some (x, 0x2a, lowV o.vd o.vs1 o.vs2 o.et 7)
  | .vcfle x o => some (x, 0x2a, lowV o.vd o.vs1 o.vs2 o.et 8)
  | .vcfun x o => some (x, 0x2a, lowV o.vd o.vs1 o.vs2 o.et 9)
  | .vperm x o => some (x, 0x2b, lowV o.vd o.vs1 o.vs2 o.et 0)
  | .vbcast x vd vs1 et => some (x, 0x2b, lowV vd vs1 0 et 1)
  | .vziplo x o => some (x, 0x2b, lowV o.vd o.vs1 o.vs2 o.et 2)
  | .vziphi x o => some (x, 0x2b, lowV o.vd o.vs1 o.vs2 o.et 3)
  | .vunzipe x o => some (x, 0x2b, lowV o.vd o.vs1 o.vs2 o.et 4)
  | .vunzipo x o => some (x, 0x2b, lowV o.vd o.vs1 o.vs2 o.et 5)
  | .vsel x o => some (x, 0x2b, lowV o.vd o.vs1 o.vs2 o.et 6)
  | .vld x vd vs1 et => some (x, 0x2d, lowV vd vs1 0 et 0)
  | .vlds x o => some (x, 0x2d, lowV o.vd o.vs1 o.vs2 o.et 1)
  | .vldb x vd vs1 et => some (x, 0x2d, lowV vd vs1 0 et 2)
  | .vst x vd vs1 et => some (x, 0x2e, lowV vd vs1 0 et 0)
  | .vsts x o => some (x, 0x2e, lowV o.vd o.vs1 o.vs2 o.et 1)
  | .vcvt x vd vs1 src et => some (x, 0x2c, lowV vd vs1 0 et src.code)
  | .syscall x k => some (x, 0x30, lowX 0 k 0)
  | .hvcall x k => some (x, 0x30, lowX 0 k 1)
  | .reti x => some (x, 0x30, lowX 0 0 2)
  | .wfe x ra => some (x, 0x30, lowX ra 0 3)
  | .fence x => some (x, 0x30, lowX 0 0 4)
  | .fenceIo x => some (x, 0x30, lowX 0 0 5)
  | .sbar x => some (x, 0x30, lowX 0 0 6)
  | .pflush x ra k => some (x, 0x30, lowX ra k 7)
  | .pbar x => some (x, 0x30, lowX 0 0 8)
  | .mfc x ra k => some (x, 0x31, lowX ra k 0)
  | .mtc x ra k => some (x, 0x31, lowX ra k 1)
  | .tinvPage x ra => some (x, 0x32, lowX ra 0 0)
  | .tinvRange x ra => some (x, 0x32, lowX ra 1 0)
  | .tinvSegment x ra => some (x, 0x32, lowX ra 2 0)
  | .tinvTenant x ra => some (x, 0x32, lowX ra 3 0)
  | .tinvAll x ra => some (x, 0x32, lowX ra 4 0)
  | .tsync x ra => some (x, 0x32, lowX ra 0 1)
  | .clean x ra => some (x, 0x32, lowX ra 0 2)
  | .flush x ra => some (x, 0x32, lowX ra 1 2)
  | .discard x ra => some (x, 0x32, lowX ra 2 2)
  | .prefetch x ra => some (x, 0x32, lowX ra 3 2)
  | .zmark x ra => some (x, 0x32, lowX ra 0 3)
  | .stbnd x => some (x, 0x33, lowX 0 0 0)
  | .ltime x ra => some (x, 0x33, lowX ra 0 1)
  | .psetup x ra => some (x, 0x33, lowX ra 0 2)
  | .pdissolve x ra => some (x, 0x33, lowX ra 0 3)
  | _ => none

/-- An instruction's word (R48). -/
def Instr.encode (i : Instr) : Option Word32 :=
  i.fields.map fun p => BitVec.ofNat 32 (p.1.guard.gp.val * 2 ^ 29 + (if p.1.guard.gs then 2 ^ 28 else 0) + p.2.1 * 2 ^ 22 + p.2.2)

/-! ### Decoding -/

/-- Bits [lo + n - 1 : lo] of a word. -/
def bits (w : Word32) (lo n : Nat) : Nat := w.toNat / 2 ^ lo % 2 ^ n
def fd (w : Word32) : RegNo := Fin.ofNat 32 (bits w 17 5)
def f1 (w : Word32) : RegNo := Fin.ofNat 32 (bits w 12 5)
def f2 (w : Word32) : RegNo := Fin.ofNat 32 (bits w 7 5)
def fi (w : Word32) : BitVec 12 := BitVec.ofNat 12 (bits w 0 12)
def fk (w : Word32) : BitVec 10 := BitVec.ofNat 10 (bits w 7 10)
def fp (w : Word32) (lo : Nat) : PredNo := Fin.ofNat 8 (bits w lo 3)

/-- The ALU group (R51, R66 to R73, R82, R96). -/
def decodeAlu (x : Ctx) (w : Word32) : Option Instr :=
  match bits w 0 7 with
  | 0 => some (.add x ⟨fd w, f1 w, f2 w⟩)
  | 1 => some (.sub x ⟨fd w, f1 w, f2 w⟩)
  | 2 => some (.and x ⟨fd w, f1 w, f2 w⟩)
  | 3 => some (.or x ⟨fd w, f1 w, f2 w⟩)
  | 4 => some (.xor x ⟨fd w, f1 w, f2 w⟩)
  | 5 => some (.andn x ⟨fd w, f1 w, f2 w⟩)
  | 6 => some (.sll x ⟨fd w, f1 w, f2 w⟩)
  | 7 => some (.srl x ⟨fd w, f1 w, f2 w⟩)
  | 8 => some (.sra x ⟨fd w, f1 w, f2 w⟩)
  | 9 => some (.ror x ⟨fd w, f1 w, f2 w⟩)
  | 10 => some (.min x ⟨fd w, f1 w, f2 w⟩)
  | 11 => some (.max x ⟨fd w, f1 w, f2 w⟩)
  | 12 => some (.minu x ⟨fd w, f1 w, f2 w⟩)
  | 13 => some (.maxu x ⟨fd w, f1 w, f2 w⟩)
  | 14 => some (.clz x (fd w) (f1 w))
  | 15 => some (.ctz x (fd w) (f1 w))
  | 16 => some (.popc x (fd w) (f1 w))
  | _ => none

/-- The ALUW group (R51, R66 to R73, R82, R96). -/
def decodeAluw (x : Ctx) (w : Word32) : Option Instr :=
  match bits w 0 7 with
  | 0 => some (.addw x ⟨fd w, f1 w, f2 w⟩)
  | 1 => some (.subw x ⟨fd w, f1 w, f2 w⟩)
  | 6 => some (.sllw x ⟨fd w, f1 w, f2 w⟩)
  | 7 => some (.srlw x ⟨fd w, f1 w, f2 w⟩)
  | 8 => some (.sraw x ⟨fd w, f1 w, f2 w⟩)
  | _ => none

/-- The MULDIV group (R51, R66 to R73, R82, R96). -/
def decodeMuldiv (x : Ctx) (w : Word32) : Option Instr :=
  match bits w 0 7 with
  | 0 => some (.mul x ⟨fd w, f1 w, f2 w⟩)
  | 1 => some (.mulh x ⟨fd w, f1 w, f2 w⟩)
  | 2 => some (.mulhu x ⟨fd w, f1 w, f2 w⟩)
  | 3 => some (.div x ⟨fd w, f1 w, f2 w⟩)
  | 4 => some (.divu x ⟨fd w, f1 w, f2 w⟩)
  | 5 => some (.rem x ⟨fd w, f1 w, f2 w⟩)
  | 6 => some (.remu x ⟨fd w, f1 w, f2 w⟩)
  | _ => none

/-- The JR group (R51, R66 to R73, R82, R96). -/
def decodeJr (x : Ctx) (w : Word32) : Option Instr :=
  match bits w 0 7 with
  | 0 => some (.br x (fd w) (f1 w))
  | 1 => some (.ret x)
  | _ => none

/-- The ATOM group (R51, R66 to R73, R82, R96). -/
def decodeAtom (x : Ctx) (w : Word32) : Option Instr :=
  match bits w 0 7 with
  | 0 => some (.aaddW x ⟨fd w, f1 w, f2 w⟩)
  | 1 => some (.aaddD x ⟨fd w, f1 w, f2 w⟩)
  | 2 => some (.aswpW x ⟨fd w, f1 w, f2 w⟩)
  | 3 => some (.aswpD x ⟨fd w, f1 w, f2 w⟩)
  | 4 => some (.acasW x ⟨fd w, f1 w, f2 w⟩)
  | 5 => some (.acasD x ⟨fd w, f1 w, f2 w⟩)
  | _ => none

/-- The SYS group (R51, R66 to R73, R82, R96). -/
def decodeSys (x : Ctx) (w : Word32) : Option Instr :=
  match bits w 0 7 with
  | 0 => some (.syscall x (fk w))
  | 1 => some (.hvcall x (fk w))
  | 2 => some (.reti x)
  | 3 => some (.wfe x (fd w))
  | 4 => some (.fence x)
  | 5 => some (.fenceIo x)
  | 6 => some (.sbar x)
  | 7 => some (.pflush x (fd w) (fk w))
  | 8 => some (.pbar x)
  | _ => none

/-- The CTL group (R51, R66 to R73, R82, R96). -/
def decodeCtl (x : Ctx) (w : Word32) : Option Instr :=
  match bits w 0 7 with
  | 0 => some (.mfc x (fd w) (fk w))
  | 1 => some (.mtc x (fd w) (fk w))
  | _ => none

/-- The PANEL group (R51, R66 to R73, R82, R96). -/
def decodePanel (x : Ctx) (w : Word32) : Option Instr :=
  match bits w 0 7 with
  | 0 => some (.stbnd x)
  | 1 => some (.ltime x (fd w))
  | 2 => some (.psetup x (fd w))
  | 3 => some (.pdissolve x (fd w))
  | _ => none

/-- The VINT group (R100, R102). -/
def decodeVint (x : Ctx) (w : Word32) (e : Elem) : Option Instr :=
  match bits w 0 4 with
  | 0 => some (.vadd x ⟨fd w, f1 w, f2 w, e⟩)
  | 1 => some (.vsub x ⟨fd w, f1 w, f2 w, e⟩)
  | 2 => some (.vmul x ⟨fd w, f1 w, f2 w, e⟩)
  | 3 => some (.vmulh x ⟨fd w, f1 w, f2 w, e⟩)
  | 4 => some (.vmin x ⟨fd w, f1 w, f2 w, e⟩)
  | 5 => some (.vmax x ⟨fd w, f1 w, f2 w, e⟩)
  | 6 => some (.vminu x ⟨fd w, f1 w, f2 w, e⟩)
  | 7 => some (.vmaxu x ⟨fd w, f1 w, f2 w, e⟩)
  | 8 => some (.vand x ⟨fd w, f1 w, f2 w, e⟩)
  | 9 => some (.vor x ⟨fd w, f1 w, f2 w, e⟩)
  | 10 => some (.vxor x ⟨fd w, f1 w, f2 w, e⟩)
  | 11 => some (.vsll x ⟨fd w, f1 w, f2 w, e⟩)
  | 12 => some (.vsrl x ⟨fd w, f1 w, f2 w, e⟩)
  | 13 => some (.vsra x ⟨fd w, f1 w, f2 w, e⟩)
  | 14 => some (.vadds x ⟨fd w, f1 w, f2 w, e⟩)
  | 15 => some (.vsubs x ⟨fd w, f1 w, f2 w, e⟩)
  | _ => none

/-- The VFP group (R100, R102). -/
def decodeVfp (x : Ctx) (w : Word32) (e : Elem) : Option Instr :=
  match bits w 0 4 with
  | 0 => some (.vfadd x ⟨fd w, f1 w, f2 w, e⟩)
  | 1 => some (.vfsub x ⟨fd w, f1 w, f2 w, e⟩)
  | 2 => some (.vfmul x ⟨fd w, f1 w, f2 w, e⟩)
  | 3 => some (.vfdiv x ⟨fd w, f1 w, f2 w, e⟩)
  | 4 => some (.vfsqrt x (fd w) (f1 w) e)
  | 5 => some (.vfmin x ⟨fd w, f1 w, f2 w, e⟩)
  | 6 => some (.vfmax x ⟨fd w, f1 w, f2 w, e⟩)
  | 7 => some (.vfma x ⟨fd w, f1 w, f2 w, e⟩)
  | 8 => some (.vfnma x ⟨fd w, f1 w, f2 w, e⟩)
  | 9 => some (.vfabs x (fd w) (f1 w) e)
  | 10 => some (.vfneg x (fd w) (f1 w) e)
  | _ => none

/-- The VCMP group (R100, R102). -/
def decodeVcmp (x : Ctx) (w : Word32) (e : Elem) : Option Instr :=
  match bits w 0 4 with
  | 0 => some (.vceq x ⟨fd w, f1 w, f2 w, e⟩)
  | 1 => some (.vcne x ⟨fd w, f1 w, f2 w, e⟩)
  | 2 => some (.vclt x ⟨fd w, f1 w, f2 w, e⟩)
  | 3 => some (.vcle x ⟨fd w, f1 w, f2 w, e⟩)
  | 4 => some (.vcltu x ⟨fd w, f1 w, f2 w, e⟩)
  | 5 => some (.vcleu x ⟨fd w, f1 w, f2 w, e⟩)
  | 6 => some (.vcfeq x ⟨fd w, f1 w, f2 w, e⟩)
  | 7 => some (.vcflt x ⟨fd w, f1 w, f2 w, e⟩)
  | 8 => some (.vcfle x ⟨fd w, f1 w, f2 w, e⟩)
  | 9 => some (.vcfun x ⟨fd w, f1 w, f2 w, e⟩)
  | _ => none

/-- The VPERM group (R100, R102). -/
def decodeVperm (x : Ctx) (w : Word32) (e : Elem) : Option Instr :=
  match bits w 0 4 with
  | 0 => some (.vperm x ⟨fd w, f1 w, f2 w, e⟩)
  | 1 => some (.vbcast x (fd w) (f1 w) e)
  | 2 => some (.vziplo x ⟨fd w, f1 w, f2 w, e⟩)
  | 3 => some (.vziphi x ⟨fd w, f1 w, f2 w, e⟩)
  | 4 => some (.vunzipe x ⟨fd w, f1 w, f2 w, e⟩)
  | 5 => some (.vunzipo x ⟨fd w, f1 w, f2 w, e⟩)
  | 6 => some (.vsel x ⟨fd w, f1 w, f2 w, e⟩)
  | _ => none

/-- The VLD group (R100, R102). -/
def decodeVld (x : Ctx) (w : Word32) (e : Elem) : Option Instr :=
  match bits w 0 4 with
  | 0 => some (.vld x (fd w) (f1 w) e)
  | 1 => some (.vlds x ⟨fd w, f1 w, f2 w, e⟩)
  | 2 => some (.vldb x (fd w) (f1 w) e)
  | _ => none

/-- The VST group (R100, R102). -/
def decodeVst (x : Ctx) (w : Word32) (e : Elem) : Option Instr :=
  match bits w 0 4 with
  | 0 => some (.vst x (fd w) (f1 w) e)
  | 1 => some (.vsts x ⟨fd w, f1 w, f2 w, e⟩)
  | _ => none

/-- The PLOG group: the upper bits of every register field are 0 (R50, R52). -/
def decodePlogFunc (x : Ctx) (w : Word32) : Option Instr :=
  match bits w 0 7 with
  | 0 => some (.pand x ⟨fp w 17, fp w 12, fp w 7⟩)
  | 1 => some (.por x ⟨fp w 17, fp w 12, fp w 7⟩)
  | 2 => some (.pnot x (fp w 17) (fp w 12))
  | 3 => some (.pxor x ⟨fp w 17, fp w 12, fp w 7⟩)
  | 4 => some (.pandn x ⟨fp w 17, fp w 12, fp w 7⟩)
  | _ => none

def decodePlog (x : Ctx) (w : Word32) : Option Instr :=
  if bits w 20 2 = 0 ∧ bits w 15 2 = 0 ∧ bits w 10 2 = 0 then decodePlogFunc x w else none

/-- CMP.cc (R49, R69). -/
def decodeCmp (x : Ctx) (w : Word32) : Option Instr :=
  let b : Option CmpOperand := if w.getLsbD 9 then some (.imm (BitVec.ofNat 9 (bits w 0 9)))
    else if bits w 0 4 = 0 then some (.reg (Fin.ofNat 32 (bits w 4 5))) else none
  match Cond.ofCode (bits w 15 4), b with
  | some cc, some b => some (.cmpCc x (fp w 19) cc (Fin.ofNat 32 (bits w 10 5)) b)
  | _, _ => none

/-- The decimal group (R51). -/
def decodeDec (x : Ctx) (w : Word32) : Option Instr :=
  let o : OpsD := ⟨fd w, f1 w, f2 w, w.getLsbD 6, fp w 0⟩
  match bits w 3 3 with
  | 0 => some (.dadd x o) | 1 => some (.dsub x o) | 2 => some (.dadj x o) | 3 => some (.dcmp x o)
  | 4 => some (.dmul x o) | 5 => some (.ddiv x o) | 6 => some (.dcvb x o) | _ => some (.dcvd x o)

/-- The MEMOP group: k is part of the function of TINV and CRNG (R88). -/
def decodeMemop (x : Ctx) (w : Word32) : Option Instr :=
  match bits w 0 7 with
  | 0 => match bits w 7 10 with
    | 0 => some (.tinvPage x (fd w)) | 1 => some (.tinvRange x (fd w)) | 2 => some (.tinvSegment x (fd w))
    | 3 => some (.tinvTenant x (fd w)) | 4 => some (.tinvAll x (fd w)) | _ => none
  | 1 => some (.tsync x (fd w))
  | 2 => match bits w 7 10 with
    | 0 => some (.clean x (fd w)) | 1 => some (.flush x (fd w)) | 2 => some (.discard x (fd w)) | 3 => some (.prefetch x (fd w))
    | _ => none
  | 3 => some (.zmark x (fd w))
  | _ => none

/-- The vector groups (R100 to R102). -/
def decodeVec (x : Ctx) (w : Word32) (opc : Nat) : Option Instr :=
  match Elem.ofCode (bits w 4 3) with
  | none => none
  | some e =>
    match opc with
    | 0x28 => decodeVint x w e
    | 0x29 => decodeVfp x w e
    | 0x2A => decodeVcmp x w e
    | 0x2B => decodeVperm x w e
    | 0x2C => (Elem.ofCode (bits w 0 4)).map fun s => .vcvt x (fd w) (f1 w) s e
    | 0x2D => decodeVld x w e
    | 0x2E => decodeVst x w e
    | _ => none

/-- The instruction of a word by its major opcode (R51); the rules of R52 that a term's `wf` states are checked after. -/
def decodeForm (x : Ctx) (w : Word32) : Option Instr :=
  match bits w 22 6 with
  | 0x01 => decodeAlu x w
  | 0x02 => decodeAluw x w
  | 0x03 => decodeMuldiv x w
  | 0x0B => decodeCmp x w
  | 0x0C => decodePlog x w
  | 0x0F => decodeJr x w
  | 0x1C => decodeAtom x w
  | 0x20 => decodeDec x w
  | 0x30 => decodeSys x w
  | 0x31 => decodeCtl x w
  | 0x32 => decodeMemop x w
  | 0x33 => decodePanel x w
  | 0x4 => some (.addi x ⟨fd w, f1 w, fi w⟩)
  | 0x5 => some (.andi x ⟨fd w, f1 w, fi w⟩)
  | 0x6 => some (.ori x ⟨fd w, f1 w, fi w⟩)
  | 0x7 => some (.xori x ⟨fd w, f1 w, fi w⟩)
  | 0x8 => some (.shi x (fd w) (f1 w) (w.getLsbD 8) (ShiftKind.ofCode (bits w 6 2)) (BitVec.ofNat 6 (bits w 0 6)))
  | 0x9 => some (.addis x ⟨fd w, f1 w, fi w⟩)
  | 0xa => some (.addpc x (fd w) (fi w))
  | 0xd => some (.b x (BitVec.ofNat 22 (bits w 0 22)))
  | 0xe => some (.bl x (BitVec.ofNat 22 (bits w 0 22)))
  | 0x10 => some (.ldb x ⟨fd w, f1 w, fi w⟩)
  | 0x11 => some (.ldbu x ⟨fd w, f1 w, fi w⟩)
  | 0x12 => some (.ldh x ⟨fd w, f1 w, fi w⟩)
  | 0x13 => some (.ldhu x ⟨fd w, f1 w, fi w⟩)
  | 0x14 => some (.ldw x ⟨fd w, f1 w, fi w⟩)
  | 0x15 => some (.ldwu x ⟨fd w, f1 w, fi w⟩)
  | 0x16 => some (.ldd x ⟨fd w, f1 w, fi w⟩)
  | 0x18 => some (.stb x ⟨fd w, f1 w, fi w⟩)
  | 0x19 => some (.sth x ⟨fd w, f1 w, fi w⟩)
  | 0x1a => some (.stw x ⟨fd w, f1 w, fi w⟩)
  | 0x1b => some (.std x ⟨fd w, f1 w, fi w⟩)
  | opc => decodeVec x w opc

/-- The instruction that core `c` executes for a word; none for the undefined operations of R52. -/
def decodeWord (c : CoreId) (w : Word32) : Option Instr :=
  (decodeForm ⟨c, ⟨Fin.ofNat 8 (bits w 29 3), w.getLsbD 28⟩⟩ w).bind fun i => if i.wf then some i else none

/-- The host's question: the table of commands gives no row any bits, so a word spells no command. -/
def decodeTableWord (_nbits _w : Nat) : Option Instr := none

end Sys2Proof
end

