-- ==== Sys2Proof/Machine/State.lean ====
section
/-! DEFINITION. The state of the block: every register, queue, table and pin that the spec gives one
Nugradon socket, as plain data, and the queue of waiting commands. Control-space registers live in
`Dev.csr`, keyed by their offset (R27) and listed only where they differ from their reset value; what no
register shows has a field of its own. -/

namespace Sys2Proof.Machine

/-- A sparse table: key and value pairs with keys strictly rising; an unlisted key has its default. -/
abbrev Tbl (α : Type) := List (Nat × α)

/-- Why the machine stops with a fault. No meaning raises one: operand types rule out units that do not exist. -/
inductive Fault
  /-- For a command that names a unit the device does not have. Raised by no meaning (the operand types admit
  only units that exist), so it is safe. -/
  | noSuchUnit
deriving DecidableEq, Repr

/-- Why a command is refused. -/
inductive Refusal
  /-- Raised by an arm of `exec` for a row that has no meaning yet. Safe: the machine stops. -/
  | notModelled (mnemonic : String)
deriving DecidableEq, Repr

/-- Privilege levels, coded 0 to 3 in STATUS.PL (R36). -/
inductive Level
  | u | s | h | m
deriving DecidableEq, Repr

/-- A register value after reset that the spec does not give: zero (log entry 2). -/
abbrev unstatedReset (n : Nat) : BitVec n := 0

/-- The architectural registers of a core that software reads or writes (R30 to R36, R98, R112, R134, R374).
TCTL.ISO and JOIN, RANGE_STATUS, UCODE_ID, REPLAY, PREFETCH, PANEL and EVPEND are views of other state. -/
structure Arch where
  g        : Vector Word 32
  p        : Vector Bool 8
  v        : Vector Vec 32
  pc       : Word
  pl       : Level
  ie       : Bool
  utime    : Bool
  fpcsr    : Word
  vbarS    : Word
  vbarH    : Word
  vbarM    : Word
  fspS     : Word
  fspH     : Word
  fspM     : Word
  tdelegM  : Word
  tdelegH  : Word
  scratchS : Word
  scratchH : Word
  scratchM : Word
  predCtl  : Word
  segtabS  : Word
  segtabH  : Word
  segtabM  : Word
  mxlate   : Bool
  strap    : Bool
  primask  : Byte
  vpdesc   : Word
  vpri     : Byte
deriving DecidableEq, Repr

/-- The cold-reset value of a core's registers: level M, everything the maps give 0 at 0. -/
def Arch.reset : Arch where
  g := Vector.replicate 32 (unstatedReset 64)
  p := Vector.replicate 8 false
  v := Vector.replicate 32 (unstatedReset 256)
  pc := unstatedReset 64
  pl := .m
  ie := false
  utime := false
  fpcsr := 0
  vbarS := 0
  vbarH := 0
  vbarM := 0
  fspS := 0
  fspH := 0
  fspM := 0
  tdelegM := 0
  tdelegH := 0
  scratchS := 0
  scratchH := 0
  scratchM := 0
  predCtl := 0
  segtabS := 0
  segtabH := 0
  segtabM := 0
  mxlate := false
  strap := false
  primask := 0
  vpdesc := 0
  vpri := 0

/-- The table sets of translation (R133). -/
inductive TableSet
  | setS | setH | setM
deriving DecidableEq, Repr

/-- A leaf in a TLB (R148): its tags, the first effective page address and size of what it maps, the leaf's
address and value (for marks, R144), the fields a hit needs, and whether D was 1. -/
structure TlbEntry where
  set    : TableSet
  tenant : Half
  global : Bool
  seg    : Half
  base   : Nat
  size   : Nat
  pa     : Nat
  level  : Nat
  leafPa : Nat
  leaf   : Word
  dirty  : Bool
deriving DecidableEq, Repr

/-- A segment descriptor's four double-words, as read (R137). -/
structure Descriptor where
  d0 : Word
  d1 : Word
  d2 : Word
  d3 : Word
deriving DecidableEq, Repr

/-- An entry of the segment-descriptor cache (R148). -/
structure SdcEntry where
  set  : TableSet
  seg  : Half
  desc : Descriptor
deriving DecidableEq, Repr

/-- An entry of a walk cache (R148): a non-leaf table entry, by the offset bits above its level's region. -/
structure WalkEntry where
  set    : TableSet
  tenant : Half
  global : Bool
  seg    : Half
  level  : Nat
  index  : Nat
  entry  : Word
deriving DecidableEq, Repr

/-- The coherence states of a holder's line (R163). -/
inductive Mesi
  | modified | exclusive | shared
deriving DecidableEq, Repr

/-- A line in a core's L2 (R104, R163): line number pa[51:6], state, data, poison, key ID. -/
structure L2Line where
  line   : Nat
  st     : Mesi
  data   : Line
  poison : Bool
  key    : BitVec 11
deriving DecidableEq, Repr

/-- A store that has retired and waits in the store buffer (R54, R104): its bytes, lowest address first. -/
structure StoreEntry where
  addr  : Nat
  bytes : List Byte
  key   : BitVec 11
deriving DecidableEq, Repr

/-- The range operations (R92), coded by k[2:0]. -/
inductive RangeOp
  | clean | flush | discard | prefetch
deriving DecidableEq, Repr

/-- The range engine's operation in progress (R92): next effective address, bytes left, and the captured
level, table-set register and MXLATE; whether a poisoned line was met (R93). -/
structure Crng where
  op     : RangeOp
  next   : Word
  stop   : Nat
  level  : Level
  segtab : Word
  mxlate : Bool
  poison : Bool
deriving DecidableEq, Repr

/-- A TINV that its targets have not all acknowledged (R91). `applied` are the targets that have applied it and whose
acknowledgements are under way (R150). -/
structure OutTinv where
  serial    : Nat
  targets   : List Agent
  applied   : List Agent
  dropped   : Bool
deriving DecidableEq, Repr

/-- Micro-state of a routine between two of its microwords (R43, R45, R123): `commit` are the destinations in its commit buffer, and `fresh` says
that the microword to come runs without the micro-trap check, as after a RETI. -/
structure Routine where
  upc    : BitVec 13
  flags  : Half
  temps  : BitVec 1024
  commit : List Nat
  fresh  : Bool
deriving DecidableEq, Repr

/-- Run-ahead (R113 to R115): the checkpoint, the general registers marked invalid, the instructions run. -/
structure RunAhead where
  saved   : Arch
  invalid : List Nat
  count   : Nat
deriving DecidableEq, Repr

/-- The prediction tables (R103): the base table of two-bit counters and the eight tagged tables of the direction predictor, the
branch-target buffer, the indirect-target predictor, the memory-dependence predictor. -/
inductive PredTable
  | base
  | tagged (i : Fin 8)
  | btb
  | indirect
  | dependence
deriving DecidableEq, Repr

/-- A prediction entry (R84): its table, its place there by the instruction's address, its tags, the counter of a direction and the
target that it predicts. -/
structure PredEntry where
  table  : PredTable
  index  : Nat
  level  : Level
  tenant : Half
  ctr    : Nat
  target : Word
deriving DecidableEq, Repr

/-- Why a stitch ended (R206). -/
inductive EndCause
  | limit | writeSet | setFull | beforeStore | stbnd | call | trap | access | interrupt
deriving DecidableEq, Repr

/-- Where a load's bytes go: a general register, or the elements of a vector register. -/
inductive LoadDest
  | gpr (rd : RegNo) (signed : Bool)
  | vec (vd : RegNo)
deriving DecidableEq, Repr

/-- The operations of the atomics (R73). -/
inductive AtomOp
  | add | swap | cas
deriving DecidableEq, Repr

/-- One access at a physical address, within a page: its bytes, whether it is device memory, its key ID. -/
structure Part where
  ea     : Word
  pa     : Nat
  n      : Nat
  device : Bool
  key    : BitVec 11
deriving DecidableEq, Repr

/-- A trap to be entered: vector, CAUSE.CODE, FADDR, the PC and instruction word of the frame (R43). -/
structure TrapReq where
  vector : Nat
  code   : Nat
  faddr  : Word
  pc     : Word
  word   : Word32
deriving DecidableEq, Repr

/-- The ending access of a stitch that the boundary step performs (R206, R218); `reti` is a RETI whose frame lies in a scratchpad window. -/
inductive BoundaryAccess
  | none
  | read (parts : List Part) (dest : LoadDest)
  | write (parts : List (Part × List Byte))
  | atomic (part : Part) (op : AtomOp) (operand expect : Word) (rd : RegNo)
  | time (rd : RegNo)
  | reti
  | suspend
deriving DecidableEq, Repr

/-- A member's place in the row (R203, R213). `orphan` is a suspended member of a broken panel whose slot has become free: it takes MEMBER_LOST
at its return, and is a member no more (R204, R233). -/
inductive MemberPhase
  | named | entered | running | waitRetry | ended | committed | suspended | orphan | lost
deriving DecidableEq, Repr

/-- A speculative line of a stitch (R208): the bytes, the key ID under which the line was last stored to (R138), and its poison (R446). -/
structure SpecLine where
  data   : Line
  key    : BitVec 11
  poison : Bool
deriving DecidableEq, Repr

/-- Where a stitch is to end (R224, R231): the instructions that it retires, whether the next instruction ends it there of itself (none where
the record does not say), and the vector of the interrupt that was taken there, if any. -/
structure EndPoint where
  count  : Nat
  own    : Option Bool
  vector : Nat
deriving DecidableEq, Repr

/-- An event-queue entry that waits for step 3 of a member's boundary step (R369), and the source it stands for. -/
structure HeldEntry where
  kind   : Nat
  number : Nat
  pri    : Nat
  at_    : Word
  wired  : Bool
  source : Nat
deriving DecidableEq, Repr

/-- A member of a panel and its current stitch (R206 to R215). `first` and `firstIntr` are the trap and the interrupts whose entries began the stitch, `word` the
instruction whose access the boundary step performs, `trap` the
one that begins the next, `endAt` the end point that a stitch is given, `due` the registers at the end of a frogged stitch that an interrupt
ended, by which that interrupt is accepted, `ends` its writes of EVEOI, each with what it took off its priority's count. -/
structure Member where
  slot      : Nat
  index     : Nat
  phase     : MemberPhase
  count     : Nat
  limit     : Nat
  retry     : Bool
  frogrun   : Nat
  cause     : EndCause
  access    : BoundaryAccess
  word      : Word32
  overlay   : Tbl SpecLine
  readSig   : BitVec 4096
  fetchSig  : BitVec 4096
  saved     : Arch
  first     : Option TrapReq
  firstIntr : List (Nat × Nat)
  trap      : Option TrapReq
  intr      : List (Nat × Nat)
  endAt     : Option EndPoint
  due       : Option Arch
  held      : List HeldEntry
  ends      : List (Word × Nat)
  replaying : Bool
  resumed   : Bool
deriving DecidableEq, Repr

/-- What a core is doing. -/
inductive RunState
  | stopped
  | running
  | waiting (until? : Option Word)
deriving DecidableEq, Repr

/-- What the chief steward has chosen for a stopped core (R230); a transplant carries what the core was doing. -/
inductive Recovery
  | stitchReplay (target : Nat)
  | transplant (target : Nat) (run : RunState)
deriving DecidableEq, Repr

/-- A physical core. `l1i` and `l1d` are the lines in its L1 caches, latest first; `patch` is the image in its patch RAM, entry table
and match table (empty for ROM only); `lastLoad` is the latest load's address, which its prefetchers follow. -/
structure Core where
  arch      : Arch
  run       : RunState
  routine   : Option Routine
  runAhead  : Option RunAhead
  replays   : Nat
  hardFault : Bool
  recovery  : Option Recovery
  storeBuf  : List StoreEntry
  l1i       : List Nat
  l1d       : List Nat
  l2        : List L2Line
  itlb      : List TlbEntry
  dtlb      : List TlbEntry
  tlb2      : List TlbEntry
  sdc       : List SdcEntry
  walk      : List WalkEntry
  pred      : List PredEntry
  history   : List Bool
  retStack  : List Word
  crng      : Option Crng
  tinvs     : List OutTinv
  serial    : Nat
  isoStart  : Bool
  isoTest   : Bool
  joined    : Bool
  member    : Option Member
  debug     : Bool
  patch     : List Byte
  lastLoad  : Option Word
deriving DecidableEq, Repr

/-- An error in a protected array, of one bit or of several: what a particle or a weak cell does (R105, R158, R185). -/
inductive Upset
  | l2 (c : CoreId) (line : Nat) (multi : Bool)
  | storeBuf (c : CoreId) (multi : Bool)
  | llcData (n : SliceId) (line : Nat) (multi : Bool)
  | llcTag (n : SliceId) (set : Nat) (multi : Bool)
  | dirEntry (n : SliceId) (set : Nat) (multi : Bool)
  | spad (n : SliceId) (unit : Nat) (multi : Bool)
deriving DecidableEq, Repr

/-- A core as a cold reset leaves it: stopped, empty caches, isolated until it joins (R136, R151). -/
def Core.reset : Core where
  arch := Arch.reset
  run := .stopped
  routine := none
  runAhead := none
  replays := 0
  hardFault := false
  recovery := none
  storeBuf := []
  l1i := []
  l1d := []
  l2 := []
  itlb := []
  dtlb := []
  tlb2 := []
  sdc := []
  walk := []
  pred := []
  history := []
  retStack := []
  crng := none
  tinvs := []
  serial := 0
  isoStart := true
  isoTest := false
  joined := false
  member := none
  debug := false
  patch := []
  lastLoad := none

/-- A line of a last-level-cache slice (R155): its way, line number, dirty bit, key ID, data and poison. -/
structure LlcLine where
  line   : Nat
  set    : Nat
  way    : Nat
  dirty  : Bool
  key    : BitVec 11
  data   : Line
  poison : Bool
deriving DecidableEq, Repr

/-- A directory entry (R162, R163): its way, and whether it is exclusive (X) with its one holder, or shared (S) with its sharers. -/
structure DirEntry where
  line   : Nat
  set    : Nat
  way    : Nat
  excl   : Bool
  tiles  : List Nat
  socks  : List Nat
  cxls   : List Nat
deriving DecidableEq, Repr

/-- A request in progress at a home (R164, R165): what the home still waits for, what has come back and from which core's L2, whether a dead
owner's copy is lost, and whether a tile whose stitch holds the line has answered "no copy" (R211). -/
structure HomeTxn where
  opc      : Opc
  req      : Msg
  owner    : List Agent
  acks     : List Agent
  data     : Option (Line × Bool)
  dirty    : Bool
  supplier : Option Nat
  lost     : Bool
  spec     : Bool
  waitWb   : Bool
deriving DecidableEq, Repr

/-- A scratchpad access (R186): its port, whether it writes, its first byte and the byte after its last. -/
structure SpadAcc where
  engine : Bool
  write  : Bool
  lo     : Nat
  hi     : Nat
deriving DecidableEq, Repr

/-- Spares of an array that repairs have used (R191): rows, and columns of a data sub-array. -/
structure Spares where
  array : SliceArray
  rows  : Nat
  cols  : Nat
deriving DecidableEq, Repr

/-- A slice with its directory slice. `spadLast` is the latest access to its scratchpad. -/
structure Slice where
  llc      : List LlcLine
  dir      : List DirEntry
  txns     : List HomeTxn
  waitq    : List (Opc × Msg)
  lfsr     : Half
  spad     : Tbl Byte
  spadBad  : List Nat
  spadLast : Option SpadAcc
  walked   : Bool
deriving DecidableEq, Repr

/-- A slice at reset; its LFSR is seeded at cast-on (R157). -/
def Slice.reset : Slice where
  llc := []
  dir := []
  txns := []
  waitq := []
  lfsr := 0
  spad := []
  spadBad := []
  spadLast := none
  walked := false

/-- A slice-hash map (R171 to R173): its key, the 27 masks derived from it, and a slot table of 128 entries. -/
structure HashMap where
  key   : Word
  masks : List (BitVec 46)
  table : List Nat
deriving DecidableEq, Repr

/-- The kinds of rebuild, coded as SLC_REBUILD.KIND (R198). -/
inductive RebuildKind
  | none | rekey | powerOff | retirement | join
deriving DecidableEq, Repr

/-- A queued rebuild (R175); `auto` marks a re-key that the governor started (R174). -/
structure RebuildReq where
  kind  : RebuildKind
  slice : Nat
  auto  : Bool
deriving DecidableEq, Repr

/-- The NUMA modes (R19). -/
inductive NumaMode
  | unified | quartered
deriving DecidableEq, Repr

/-- The slice hash and the background rebuild of the socket (R171 to R178). `pausedAt` is when a reclamation paused the rebuild, `hotSecs` how long
each node has had a slice too busy. -/
structure Hash where
  old       : HashMap
  new       : HashMap
  start     : HashMap
  ptr       : Nat
  active    : RebuildKind
  slice     : Nat
  queue     : List RebuildReq
  began     : Word
  pausedAt  : Option Word
  hotSecs   : Tbl Nat
  lastAuto  : Option Word
  numa      : NumaMode
deriving DecidableEq, Repr

/-- An entry of a write queue (R266): line number, the bytes written, byte enables, key, poison, whether it has
been issued and waits for its ALERT_n window (R275), the class of service of its request (R267), and its place in the order of arrival. -/
structure WqEntry where
  line   : Nat
  data   : Line
  byteen : Word
  key    : BitVec 11
  poison : Bool
  issued : Bool
  cls    : Nat
  seq    : Nat
deriving DecidableEq, Repr

/-- An entry of a channel's lists of reads (R266): line, key of the requester if one waits for the data, what DRAM shows when the line is read
(R278), class, place in the order of arrival, and whether it has been issued and lies in its ALERT_n window (R275). -/
structure RdEntry where
  line   : Nat
  key    : Option (BitVec 11)
  att    : ReadAttempt
  cls    : Nat
  seq    : Nat
  issued : Bool
deriving DecidableEq, Repr

/-- An entry of a fill table (R285): a granule, its valid mask, the next line to fill, the fill key. -/
structure FillEntry where
  granule : Nat
  mask    : Word
  next    : Nat
  key     : BitVec 11
deriving DecidableEq, Repr

/-- A memory channel and its controller. `reads` are the reads of every bank, `arrivals` numbers reads and writes as they arrive, `zcache` is the
zero-map cache: lines of the map with their dirty marks (R284); `refBank` and `refAt` are, by rank, the next bank of a same-bank refresh and when the
last one was; `failed` outlasts a warm reset (R276); `codes` are the training's results (R273). -/
structure ChanSt where
  dimms      : Option Dimms
  accepted   : Bool
  inSet      : Bool
  trained    : Bool
  codes      : List Nat
  usable     : Nat
  writeMode  : Bool
  wq         : List WqEntry
  reads      : List RdEntry
  arrivals   : Nat
  lastBank   : Nat
  rowPasses  : Tbl Nat
  fill       : List FillEntry
  openRows   : Tbl Nat
  zcache     : List (Nat × Bool)
  refBank    : Tbl Nat
  refAt      : Tbl Word
  failed     : Bool
  fastRef    : Bool
  temps      : List Int
  alerts     : List Word
  retries    : List Word
  retrainDue : Bool
  held       : List Nat
  scrub      : Option (Nat × Nat)
  patrolLine : Nat
deriving DecidableEq, Repr

/-- A channel at reset: no memory known. -/
def ChanSt.reset : ChanSt where
  dimms := none
  accepted := false
  inSet := false
  trained := false
  codes := []
  usable := 0
  writeMode := false
  wq := []
  reads := []
  arrivals := 0
  lastBank := 0
  rowPasses := []
  fill := []
  openRows := []
  zcache := []
  refBank := []
  refAt := []
  failed := false
  fastRef := false
  temps := []
  alerts := []
  retries := []
  retrainDue := false
  held := []
  scrub := none
  patrolLine := 0

/-- A memory-encryption key slot (R288): data key and tweak key. -/
structure KeySlot where
  dataKey  : BitVec 256
  tweakKey : BitVec 256
deriving DecidableEq, Repr

/-- What DRAM holds of a line beside its bytes: the marked-lost syndrome (R277), and the keys under which its
ciphertext was made (R289). -/
structure LineMeta where
  lost : Bool
  keys : KeySlot
deriving DecidableEq, Repr

/-- A panel gate's descriptor (R219). -/
structure Gate where
  src    : Nat
  dst    : Nat
  maxAdm : Nat
  glog   : Nat
deriving DecidableEq, Repr

/-- A journal entry that waits for step 4 of the boundary step (R218, R223). -/
structure JEntry where
  b0 : Word
  b1 : Word
  b2 : Word
  b3 : Word
deriving DecidableEq, Repr

/-- The parts of a panel's row; `starting` is a row that waits for its recorded entries (R222). -/
inductive RowPhase
  | idle | starting | stitches | committed | boundary
deriving DecidableEq, Repr

/-- A panel slot's own state; its registers are PNL_ registers (R238). -/
structure Panel where
  members  : List Nat
  gates    : List Gate
  jbase    : Nat
  jlog     : Nat
  phase    : RowPhase
  wset     : List Nat
  outside  : List Nat
  jrnl     : List JEntry
  sreplays : List JEntry
  dissolve : Bool
deriving DecidableEq, Repr

/-- A free slot. -/
def Panel.reset : Panel where
  members := []
  gates := []
  jbase := 0
  jlog := 0
  phase := .idle
  wset := []
  outside := []
  jrnl := []
  sreplays := []
  dissolve := false

/-- A stopped output port of a router (R250): isolation times within the last 10 s. -/
structure PortIso where
  quad     : Nat
  stop     : Nat
  port     : Nat
  isolated : Bool
  retired  : Bool
  at_      : Word
  times    : List Word
deriving DecidableEq, Repr

/-- A transaction that an initiator has begun (R251). `keep` says that an access of the initiator waits for its answer, and `away` that the request
has crossed to another socket. -/
structure OutTxn where
  who     : Agent
  opc     : Opc
  txid    : Half
  addr    : PAddr
  began   : Word
  held    : List (Opc × Msg)
  timed   : Bool
  keep    : Bool
  away    : Bool
deriving DecidableEq, Repr

/-- What another socket has answered to an access that waits for it: the data, whether it is poisoned, and whether it is an error response. -/
structure FarAnswer where
  who    : Agent
  opc    : Opc
  addr   : PAddr
  data   : Line
  poison : Bool
  err    : Bool
deriving DecidableEq, Repr

/-- A packet that an access of this socket sends to another socket. `keep` says that the access waits for the answer. -/
structure FarAsk where
  opc  : Opc
  msg  : Msg
  keep : Bool
deriving DecidableEq, Repr

/-- A worm parked at a sleeping unit (R249). -/
structure Parked where
  dom : Nat
  opc : Opc
  msg : Msg
deriving DecidableEq, Repr

/-- The clockless fabric of the socket. `waits` counts accesses that have had to wait (R165 to R167, R177), `far` are the answers of other sockets that
an access waits for, `asks` the packets to other sockets and `seen` the packets within the socket that the present command has made, each of these with when its
request was sent, and `samples` the
matches of each observation unit. -/
structure Fabric where
  net     : List (Opc × Msg)
  ports   : List PortIso
  retries : List (Nat × Nat × Nat)
  open_   : List (Nat × Nat)
  txns    : List OutTxn
  parked  : List Parked
  waits   : Nat
  far     : List FarAnswer
  asks    : List FarAsk
  seen    : List (Opc × Msg × Word)
  samples : Tbl Nat
deriving DecidableEq, Repr

/-- A fabric in which nothing is under way. -/
def Fabric.reset : Fabric where
  net := []
  ports := []
  retries := []
  open_ := []
  txns := []
  parked := []
  waits := 0
  far := []
  asks := []
  seen := []
  samples := []

/-- A port of a skein (R298 to R301, R315): the CXL host port that it is, its link, its containment, the buses behind it, its lanes, its highest rate and
the one in force as OD 0x4002 codes them, the CXL device at it, the latest snoop sent to that (whether SnpInv, and the line), and whether Global
Persistent Flush was issued. -/
structure PortSt where
  assigned  : Bool
  cxl       : Option Nat
  up        : Bool
  contained : Bool
  subBuses  : Nat × Nat
  lanes     : Nat
  best      : Nat
  rate      : Nat
  dev       : Option CxlDev
  snoop     : Option (Bool × Nat)
  flushed   : Bool
deriving DecidableEq, Repr

/-- An unassigned port. -/
def PortSt.reset : PortSt := { assigned := false, cxl := none, up := false, contained := false, subBuses := (0, 0), lanes := 0, best := 0, rate := 0, dev := none, snoop := none, flushed := false }

/-- A cached device context (R307, R308), by requester ID. -/
structure CtxEntry where
  rid    : Half
  w0     : Word
  segtab : Word
  at_    : Nat
deriving DecidableEq, Repr

/-- An entry of a stop's holder table (R312), with the pages that its Translation Completions named: address and size (R313). -/
structure Holder where
  rid     : Half
  tenant  : Half
  port    : Nat
  waiting : List (Agent × Nat)
  reqs    : List (Nat × Nat)
  evict   : Bool
  pages   : List (Nat × Nat)
deriving DecidableEq, Repr

/-- A non-posted request that a stop has sent out of a port (R317). -/
structure OutReq where
  tag    : Nat
  port   : Nat
  who    : Agent
  txid   : Half
  config : Bool
  write  : Bool
  size   : Nat
deriving DecidableEq, Repr

/-- A request that a stop sends out of a port (R303, R305): its bus address, or the offset in ECAM of a configuration request with its
segment; by CXL.io at a CXL port. -/
structure OutTlp where
  port    : Nat
  config  : Bool
  cxlIo   : Bool
  segment : Nat
  write   : Bool
  addr    : Word
  wide    : Bool
  relaxed : Bool
  size    : Nat
  data    : Word
deriving DecidableEq, Repr

/-- An I/O stop. -/
structure IoStop where
  ctxs    : List CtxEntry
  xlate   : List TlbEntry
  holders : List Holder
  outs    : List OutReq
  nextTag : Nat
  config  : Tbl Word32
  atsWait : List Tlp
  outTlp  : Option OutTlp
deriving DecidableEq, Repr

/-- An I/O stop at reset. -/
def IoStop.reset : IoStop :=
  { ctxs := [], xlate := [], holders := [], outs := [], nextTag := 0, config := [], atsWait := [], outTlp := none }

/-- A transaction a stop has proxied for a peer, and its final response once it has one (R328). -/
structure Proxied where
  txid  : Half
  own   : Half
  opc   : Opc
  req   : Msg
  resp  : Option (Opc × Msg)
  at_   : Word
deriving DecidableEq, Repr

/-- A transaction that this side has started across a link, with its link TXID (R323, R327). -/
structure Crossing where
  txid : Half
  opc  : Opc
  req  : Msg
deriving DecidableEq, Repr

/-- A Brixnil link (R323 to R327). -/
structure BrxLink where
  up       : Bool
  peer     : Nat
  txSeq    : BitVec 12
  rxSeq    : BitVec 12
  ackSeq   : BitVec 12
  naks     : Nat
  nakSeq   : BitVec 12
  credits  : List Nat
  rate     : Nat
  buffer   : List (BitVec 12 × Option (Opc × Msg × Bool))
  partials : Nat
  proxied  : List Proxied
  started  : List Crossing
  resent   : List Half
  queue    : List (Opc × Msg × Bool)
  owed     : List Nat
  sent     : List Byte
  nextId   : Nat
  gotNaks  : Nat
  silentAt : Word
  retrain  : Bool
deriving DecidableEq, Repr

/-- A Brixnil link at reset: not trained. -/
def BrxLink.reset : BrxLink where
  up := false
  peer := 0
  txSeq := 0
  rxSeq := 0
  ackSeq := 0
  naks := 0
  nakSeq := 0
  credits := []
  rate := 0
  buffer := []
  partials := 0
  proxied := []
  started := []
  resent := []
  queue := []
  owed := []
  sent := []
  nextId := 0
  gotNaks := 0
  silentAt := 0
  retrain := false

/-- Partial state of a descriptor (R349): the hash chaining words, the bytes of an unfinished unit, the tweak
or counter, the GHASH value, the crypto block read at the first quantum, the output written so far. -/
structure EngPartial where
  chain : List Word
  ctr   : BitVec 128
  ghash : BitVec 128
  block : List Byte
  crc   : Word32
  out   : Nat
deriving DecidableEq, Repr

/-- A descriptor that its queue has started (R346, R349), with its progress in source bytes. `spilled` is the number of
the image written to the save area; `done` says that the work of its current quantum is done; `check` and
`atStart` are its progress and status as the quantum began. -/
structure EngCtx where
  index   : Word32
  desc    : List Word
  pos     : Nat
  st      : EngPartial
  status  : Option (Nat × Nat × Word)
  spilled : Option Nat
  done    : Bool
  inLane  : Option Nat
  check   : Nat × EngPartial
  atStart : Option (Nat × Nat × Word)
  fails   : Nat
  began   : Nat
deriving DecidableEq, Repr

/-- A hardware queue; its registers are Q_ registers (R358). -/
structure QueueSt where
  written   : Word32
  started   : Option EngCtx
  lastBegan : Nat
  stopped   : Bool
deriving DecidableEq, Repr

/-- A queue at reset. -/
def QueueSt.reset : QueueSt := { written := 0, started := none, lastBegan := 0, stopped := false }

/-- A data engine: what each lane runs, as share times 64 plus queue; times of lane failures; the
translation cache; a counter that orders quanta. -/
structure Engine where
  lanes  : Tbl Nat
  fails  : List (Nat × Word)
  xlate  : List TlbEntry
  order  : Nat
deriving DecidableEq, Repr

/-- An engine at reset. -/
def Engine.reset : Engine := { lanes := [], fails := [], xlate := [], order := 0 }

/-- The window of a ring's notices (R373): when the latest was sent, and whether one is held. -/
structure NoticeSt where
  sent : Option Word
  held : Bool
deriving DecidableEq, Repr

/-- The event controller's own storage (R363, R364, R366); `firedAt` holds the time base at the firing that waits under each PEND bit,
which its entry will carry (R365). -/
structure Events where
  msgAct  : List Nat
  msgPend : List Nat
  firedAt : Tbl Word
  routes  : List (Nat × Word)
  counts  : Tbl Nat
  notices : Tbl NoticeSt
deriving DecidableEq, Repr

/-- A step of a power transition (R383); `waking` is a unit in Retention that a packet wakes (R249). -/
inductive PowerStep
  | settled | drainRet | drainOff | isolated | waking
deriving DecidableEq, Repr

/-- A power domain (R377 to R384); its registers are PWR_ registers. -/
structure DomSt where
  step    : PowerStep
  latest  : Option PowerState
  idle    : Option Word
  stepMv  : Nat
  undo    : Bool
  monitor : Bool
  suspect : Option Word
  hot     : Nat
  cooling : Bool
  guard   : Bool
  owed    : Bool
  failed  : Bool
  celsius : List Int
  refusals : Tbl Nat
  aborts  : Nat
deriving DecidableEq, Repr

/-- A domain at reset. -/
def DomSt.reset : DomSt :=
  { step := .settled, latest := none, idle := none, stepMv := 0, undo := false, monitor := true,
    suspect := none, hot := 0, cooling := false, guard := false, owed := false, failed := false, celsius := [], refusals := [], aborts := 0 }

/-- An entry of the governor log (R399). -/
structure GovEntry where
  time      : Word
  behaviour : Nat
  reason    : Nat
  applied   : Nat
  object    : Nat
  oldV      : Nat
  newV      : Nat
deriving DecidableEq, Repr

/-- The governor's own state (R397 to R401): its log, the issue slots of 16 that the fast loop withholds, whether REEF_N's
limits hold, the slots withheld for heat, the loops that limit, millivolts taken off each core, the voltage chosen for a domain before
any limit, the scheduler's priorities as it sets or
advises them (WHI, WLO, then the classes, R269), by node the seconds that its busiest channel has been hot, each channel's rate as measured last,
and the hot-spots reported of it. -/
structure Governor where
  log        : List GovEntry
  fastThr    : Nat
  reef       : Bool
  hotThr     : Tbl Nat
  medOn      : Bool
  slowOn     : Bool
  lowered    : Tbl Nat
  chosen     : List (Nat × Nat)
  reefUntil  : Option Word
  allocation : Option Nat
  allocAt    : Word
  chanHot    : Tbl Nat
  chanRates  : List Nat
  maskAt     : Word
  coreErrs   : Tbl (List Word)
  sliceErrs  : Tbl (List Word)
  sched      : Tbl Nat
  chanSpots  : Tbl Nat
deriving DecidableEq, Repr

/-- A value staged in a session (R421): its entry, bytes, and the commit number when it was first staged. -/
structure Staged where
  key   : Nat
  bytes : List Byte
  since : Nat
deriving DecidableEq, Repr

/-- A dictionary session (R420). -/
structure Session where
  token  : Word32
  cls    : Path
  socket : Nat
  last   : Word
  staged : List Staged
deriving DecidableEq, Repr

/-- A dictionary response (R419). -/
structure OdResponse where
  op     : Nat
  status : Nat
  index  : Half
  sub    : Byte
  token  : Word32
  offset : Nat
  length : Nat
  data   : List Byte
deriving DecidableEq, Repr

/-- A bank of an MRAM region (R426): SEQ, validity, body. -/
structure Bank where
  seq   : Word32
  valid : Bool
  body  : List Byte
deriving DecidableEq, Repr

/-- An MRAM region with two banks (R426). -/
structure Region where
  bank0   : Bank
  bank1   : Bank
  inUse   : Option Bool
  fault   : Bool
  writes  : Nat
  ignored : Nat
  wroteAt : Option Word
deriving DecidableEq, Repr

/-- A region as Dizoval ships it (R426): bank 0 valid with SEQ 1 and an empty body, bank 1 not valid. -/
def Region.shipped : Region :=
  { bank0 := { seq := 1, valid := true, body := [] }, bank1 := { seq := 0, valid := false, body := [] },
    inUse := some false, fault := false, writes := 0, ignored := 0, wroteAt := none }

/-- An error record (R451). -/
structure Record where
  time   : Word
  seq    : Word32
  cls    : Nat
  report : Bool
  bank   : Nat
  code   : Nat
  unit   : Nat
  count  : Nat
  addr   : Option Nat
  synd   : Word
  misc   : Word
  aux    : Nat
deriving DecidableEq, Repr

/-- An error that a unit has reported and that has not yet been recorded. -/
inductive Report
  | error (bank code unit : Nat) (addr : Option Nat) (lcore : Option Nat) (aux : Nat)
  | wired (source : Nat)
  | message (id : Nat)
  | fatal
deriving DecidableEq, Repr

/-- The persistent log and the pending store (R453). -/
structure ErrorLog where
  slots   : List Record
  written : Word32
  next    : Word32
  pend    : List Record
  wroteAt : Option Word
deriving DecidableEq, Repr

/-- The object dictionary and the parameter store. `patch` is the microcode image accepted through the dictionary, `patchFw` the firmware's, and
`patches` the chief steward's copies of the images in force, by core (R116, R128). -/
structure Dict where
  num      : Tbl Nat
  long     : Tbl (List Byte)
  inForce  : Tbl Nat
  sessions : List Session
  commits  : Nat
  lastSet  : Tbl (Nat × Word32)
  resp     : Option OdResponse
  settings : Region
  training : Region
  repair   : Region
  errlog   : Region
  golden   : Option FwSource
  source   : Nat
  version  : Word32
  passed   : List (Nat × Nat)
  container : Option FwSource
  patch    : List Byte
  patchFw  : List Byte
  patches  : Tbl (List Byte)
  stwFw    : Word32 × Half × Word32 × Half
  repairs  : Tbl (List Spares)
  resetReq : Option Nat
deriving DecidableEq, Repr

/-- What the device as a whole is doing. -/
inductive Phase
  | noAux
  | waiting
  | step1Held
  | castOn
  | romDict
  | running
  | castOff
  | halted
  | cut
deriving DecidableEq, Repr

/-- The pins and the always-on safety logic (R402 to R404, R432, R433, R467). -/
structure Pins where
  vaux       : Bool
  pwrGood    : Bool
  resetN     : Bool
  reefN      : Bool
  foA        : Bool
  foB        : Bool
  disagree   : Option Word
  discLatch  : Bool
  thermTrip  : Bool
  forceCut   : Option Word
  socketId   : Nat
  isManager  : Bool
  timeSync   : Option Bool
  syncSent   : Option Word
  syncFirst  : Bool
  syncAdjust : Int
  syncPhase  : Nat
deriving DecidableEq, Repr

/-- What the manager tells another socket beside dictionary requests (R331 to R333): a dead agent, a TINV, the time of the next TIME_SYNC edge, its
share of the budget. -/
inductive BoardMsg
  | dead (a : DeadAgent)
  | tinv (v : Tinv)
  | time (t : Word)
  | share (watts : Nat)
deriving DecidableEq, Repr

/-- The other sockets as this one knows them: present and dead sockets, lost links, the manager's release, lost link-times, dead
agents with the time of death, the reclamation under way, the links refused: link, socket, reason (R178 to R181, R322, R329, R330); what
this socket has told the others, those that have completed the reclamation under way, and the shares of the budget (R331 to R333). -/
structure Board where
  present  : List Nat
  dead     : List Nat
  linkLost : List (Nat × Word)
  released : Bool
  lostAll  : List (Nat × Nat)
  deadAt   : List (DeadAgent × Word)
  reclaim  : List DeadAgent
  refused  : List (Nat × Nat × Nat)
  odSent   : List (Nat × OdRequest)
  told     : List (Nat × BoardMsg)
  doneBy   : List Nat
  shares   : Tbl Nat
deriving DecidableEq, Repr

/-- Everything but the queue of commands. -/
structure Dev where
  phase    : Phase
  pins     : Pins
  time     : Word
  freeCtr  : Nat
  csr      : Tbl Word
  cores    : Tbl Core
  slices   : Tbl Slice
  hash     : Hash
  mem      : List Host.Cell
  lines    : Tbl LineMeta
  zclear   : List Nat
  keys     : Tbl KeySlot
  chans    : Tbl ChanSt
  panels   : Tbl Panel
  fabric   : Fabric
  ports    : Tbl PortSt
  stops    : Tbl IoStop
  brx      : Tbl BrxLink
  engines  : Tbl Engine
  queues   : Tbl QueueSt
  events   : Events
  doms     : Tbl DomSt
  gov      : Governor
  dict     : Dict
  errs     : ErrorLog
  reports  : List Report
  board    : Board
  outWord  : Word
  outErr   : Bool
  outMsgs  : List (Opc × Msg)
deriving DecidableEq, Repr

/-- The block: the commands that wait, first in first out, and everything else. -/
structure State where
  pending : List Instr
  dev     : Dev
deriving DecidableEq, Repr

/-- The device with VAUX in range and nothing powered: what it is before its first cast-on (R22, R464).
Every register has the Reset column's value; what cast-on loads reads 0 until then (log entry 3). -/
def Dev.reset : Dev where
  phase := .waiting
  pins := { vaux := true, pwrGood := false, resetN := true, reefN := false, foA := false, foB := false,
            disagree := none, discLatch := false, thermTrip := false, forceCut := none, socketId := 0,
            isManager := false, timeSync := none, syncSent := none, syncFirst := false, syncAdjust := 0, syncPhase := 0 }
  time := 0
  freeCtr := 0
  csr := []
  cores := []
  slices := []
  hash := { old := ⟨0, [], []⟩, new := ⟨0, [], []⟩, start := ⟨0, [], []⟩, ptr := 0, active := .none, slice := 0,
            queue := [], began := 0, pausedAt := none, hotSecs := [], lastAuto := none, numa := .unified }
  mem := []
  lines := []
  zclear := []
  keys := []
  chans := []
  panels := []
  fabric := Fabric.reset
  ports := []
  stops := []
  brx := []
  engines := []
  queues := []
  events := { msgAct := [], msgPend := [], firedAt := [], routes := [], counts := [], notices := [] }
  doms := []
  gov := { log := [], fastThr := 0, reef := false, hotThr := [], medOn := false, slowOn := false, lowered := [], chosen := [], reefUntil := none,
           allocation := none, allocAt := 0, chanHot := [], chanRates := [], maskAt := 0, coreErrs := [], sliceErrs := [], sched := [], chanSpots := [] }
  dict := { num := [], long := [], inForce := [], sessions := [], commits := 0, lastSet := [],
            resp := none, settings := Region.shipped, training := Region.shipped, repair := Region.shipped,
            errlog := Region.shipped, golden := none, source := 3, version := 0, passed := [], container := none,
            patch := [], patchFw := [], patches := [], stwFw := (0, 0, 0, 0), repairs := [], resetReq := none }
  errs := { slots := [], written := 0, next := 0, pend := [], wroteAt := none }
  reports := []
  board := { present := [], dead := [], linkLost := [], released := false, lostAll := [], deadAt := [],
             reclaim := [], refused := [], odSent := [], told := [], doneBy := [], shares := [] }
  outWord := 0
  outErr := false
  outMsgs := []

/-- The machine right after reset, with no command waiting. -/
def State.reset : State := { pending := [], dev := Dev.reset }

end Sys2Proof.Machine
end

