-- ==== Sys2Proof/Config.lean ====
section
/-! DEFINITION. What the spec leaves open: free values (constants with no body), and the fixed choices of one
implementation. A free value is applied to a counter of the state (`Dev.freeCtr`) or to the operands it
depends on; nothing can be proved about its value. Each is named in the assumption log. -/

namespace Sys2Proof.Config

/-! ### Drawn from the on-die entropy source, or decided by no rule -/

/-- Draws of the on-die entropy source (R157, R172, R288, R420). Log entry 4. -/
opaque entropy : Nat → BitVec 512
/-- Mask j of the slice hash under a 64-bit key (R172): the derivation is not given. Log entry 4. -/
opaque hashMask : Word → Nat → BitVec 46
/-- An error in a protected array that arises in a nanosecond (R105, R158, R185), none in most. Log entry 104. -/
opaque upset : Nat → Option Machine.Upset
/-- What a scratchpad read that collides with a write receives (R187). Log entry 5. -/
opaque undefinedByte : Nat → Byte
/-- Whether two scratchpad accesses of opposite ports to one unit, one after the other, overlapped in the array (R186, R187). Log entry 57. -/
opaque spadOverlap : Nat → Bool
/-- Which way a cache with no stated replacement order gives up (R104, R148). Log entry 6. -/
opaque victim : Nat → Nat
/-- How many microwords of a routine run before an interrupt becomes pending (R40, R123): none where it is pending before the
instruction begins. Log entry 7. -/
opaque microArrival : Nat → Option Nat
/-- The contents of the micro-store and the nano-store where no patch supplies them, by address, and the entry table (R119, R124), which the
spec does not give. Log entry 7. -/
opaque microRom : BitVec 13 → Half
opaque nanoRom : BitVec 11 → BitVec 120
opaque entryRom : Nat → BitVec 13 × BitVec 13
/-- The result of a nano-operation and the conditions that it can set (R121): by OP, WID and its sources; by OP, WID, FCOND and its
sources. The codes of single operations are not given. Log entry 7. -/
opaque nanoResult : Nat → Nat → BitVec 128 → BitVec 128 → BitVec 128
opaque nanoFlag : Nat → Nat → Nat → BitVec 128 → BitVec 128 → Bool
/-- The micro-flags and micro-temporaries with which a routine begins (R122, R123). Log entry 7. -/
opaque microStart : Nat → Half × BitVec 1024
/-- What a reserved operand selector supplies (R122). Log entry 7. -/
opaque nanoReserved : Nat → BitVec 128
/-- The place in a tagged prediction table that a mispredicted branch takes (R103): table and index. Log entry 105. -/
opaque predPlace : Nat → Nat × Nat
/-- Micro-store ROM revision, from fuses (R130). -/
opaque romRev : Half
/-- Whether a patch's signature verifies (R126, R127): Dizoval's keys are not given. -/
opaque patchSigned : List Byte → List Byte → Bool
/-- Whether host firmware verifies with a key (R429): ECDSA over P-384 with SHA-384, FIPS 186-5. Key, message, signature. -/
opaque hostSigned : List Byte → List Byte → List Byte → Bool
/-- The silicon revision and the device number, from fuses (R415), and Dizoval's PCI vendor ID. -/
opaque siliconRevision : Word32
opaque deviceNumber : Word
opaque vendorId : Half
/-- IEEE 754-2019 lets an implementation detect tininess before or after rounding (R99). Log entry 9. -/
opaque tinyAfterRounding : Bool
/-- IEEE 754-2019 lets an implementation choose whether fused multiply-add of 0, infinity and a quiet NaN
signals invalid (R99). -/
opaque fmaZeroInfNanInvalid : Bool
/-- The raw DEFLATE stream of a source at a level (R342): the engine's choice of matches is not given. -/
opaque deflateStream : Nat → List Byte → List Byte
/-- The bytes of source that DEFLATE has consumed when its output exceeds the destination (R342, R347). Log entry 24. -/
opaque deflateConsumed : Nat → Nat → Nat
/-- The image of a spilled context, 2 KiB (R349): its layout is not given. Log entry 25. -/
opaque saveImage : Nat → Nat
/-- Timing-set register values of a DRAM rate (R294), chosen from the SPD data. -/
opaque timingWord : Nat → Nat → Word
/-- The device number that a root port's header carries (R303). Log entry 15. -/
opaque rootPortId : Half
/-- The governor's choices in Auto where no rule decides them (R160, R269, R396). -/
opaque governorChoice : Nat → Nat
/-- Capacity in bytes, NOR contents: the flash contents seen through the flash window (R440). -/
opaque flashByte : Nat → Nat → Byte

/-- Whether a write of an MRAM bank verifies, at once or on its one retry (R426, R428): failures of cells are not
predictable. Log entry 36. -/
opaque storeOk : Nat → Bool
/-- What a device, a caching device or another socket supplies: read data of a window (R305), a dirty line that a
snoop brings back (R164), a remote control-space register (R27). Log entry 13. -/
opaque deviceData : Nat → Word
opaque deviceLine : Nat → Line
/-- Whether the home of another socket granted a line read there alone (R164, R171). Log entry 21. -/
opaque farGrant : Nat → Bool
/-- The unit-specific syndrome of an error (R457): by bank, code and draw. Log entry 102. -/
opaque syndrome : Nat → Nat → Nat → Word

end Sys2Proof.Config
end

