-- ==== Sys2Proof/Machine/Crypto.lean ====
section
/-! DEFINITION. The ciphers, hashes and checksums that the spec takes by name: AES (FIPS 197) in XTS mode
(IEEE 1619-2018, R289, R341) and GCM mode (NIST SP 800-38D, R341), SHA-256 and SHA-512 (FIPS 180-4, R340),
and CRC-32C (R474). Byte strings are lists of bytes, lowest address first. -/

namespace Sys2Proof.Machine

/-! ### Byte strings and numbers -/

/-- The number whose little-endian bytes are given. -/
def leNat : List Byte → Nat
  | [] => 0
  | b :: t => b.toNat + 256 * leNat t

/-- The `n` low bytes of a number, lowest first. -/
def leBytes : Nat → Nat → List Byte
  | 0, _ => []
  | n + 1, x => BitVec.ofNat 8 x :: leBytes n (x / 256)

/-- The number whose big-endian bytes are given. -/
def beNat (l : List Byte) : Nat := leNat l.reverse
/-- The `n` low bytes of a number, highest first. -/
def beBytes (n x : Nat) : List Byte := (leBytes n x).reverse

def xorBytes (a b : List Byte) : List Byte := List.zipWith (· ^^^ ·) a b

/-- The first `k` chunks of `n` bytes. -/
def chunks (n : Nat) : Nat → List Byte → List (List Byte)
  | 0, _ => []
  | k + 1, l => l.take n :: chunks n k (l.drop n)

/-! ### AES -/

/-- Product in GF(2^8) modulo x^8 + x^4 + x^3 + x + 1, over the low `n` bits of `b`. -/
def gfMul : Nat → Byte → Byte → Byte
  | 0, _, _ => 0
  | n + 1, a, b =>
    let dbl := (a <<< 1) ^^^ (if a.msb then 0x1b else 0)
    (if b.getLsbD 0 then a else 0) ^^^ gfMul n dbl (b >>> 1)

def gf (a b : Byte) : Byte := gfMul 8 a b

/-- The inverse a^254 in GF(2^8); 0 for 0. -/
def gfInv (a : Byte) : Byte :=
  let a2 := gf a a
  let a4 := gf a2 a2
  let a8 := gf a4 a4
  let a16 := gf a8 a8
  let a32 := gf a16 a16
  let a64 := gf a32 a32
  let a128 := gf a64 a64
  gf a2 (gf a4 (gf a8 (gf a16 (gf a32 (gf a64 a128)))))

def aesSbox (a : Byte) : Byte :=
  let b := gfInv a
  b ^^^ b.rotateLeft 1 ^^^ b.rotateLeft 2 ^^^ b.rotateLeft 3 ^^^ b.rotateLeft 4 ^^^ 0x63

def aesInvSbox (a : Byte) : Byte := gfInv (a.rotateLeft 1 ^^^ a.rotateLeft 3 ^^^ a.rotateLeft 6 ^^^ 0x05)

/-- Key-schedule words, latest first: `k` more words after those given, word number `i` next. -/
def aesExpand (nk : Nat) : Nat → Nat → Byte → List (List Byte) → List (List Byte)
  | 0, _, _, ws => ws
  | k + 1, i, rc, ws =>
    let prev := ws.headD []
    let t :=
      if i % nk = 0 then
        match prev.rotateLeft 1 with
        | a :: r => (aesSbox a ^^^ rc) :: r.map aesSbox
        | [] => []
      else if nk > 6 ∧ i % nk = 4 then prev.map aesSbox else prev
    aesExpand nk k (i + 1) (if i % nk = 0 then gf rc 2 else rc) (xorBytes (ws.getD (nk - 1) []) t :: ws)

/-- The round keys of a 16- or 32-byte key, as 16-byte strings in order. -/
def aesKeys (key : List Byte) : List (List Byte) :=
  let nk := key.length / 4
  let words := aesExpand nk (4 * (nk + 7) - nk) nk 1 (chunks 4 nk key).reverse
  chunks 16 (nk + 7) words.reverse.flatten

def aesShift (sub : Byte → Byte) (right : Bool) (st : List Byte) : List Byte :=
  (List.range 16).map fun i =>
    let c := i / 4
    let r := i % 4
    sub (st.getD (4 * ((if right then c + 4 - r else c + r) % 4) + r) 0)

def aesMix (m : List Byte) (st : List Byte) : List Byte :=
  (List.range 16).map fun i =>
    let c := i / 4
    let r := i % 4
    (List.range 4).foldl (fun acc j => acc ^^^ gf (m.getD ((j + 4 - r) % 4) 0) (st.getD (4 * c + j) 0)) 0

/-- Encryption of one block under round keys. -/
def aesEnc (rks : List (List Byte)) (blk : List Byte) : List Byte :=
  match rks with
  | [] => blk
  | k0 :: rest =>
    let go := rest.foldl
      (fun (p : Nat × List Byte) rk =>
        let s := aesShift aesSbox false p.2
        (p.1 - 1, xorBytes (if p.1 = 1 then s else aesMix [2, 3, 1, 1] s) rk))
      (rest.length, xorBytes blk k0)
    go.2

/-- Decryption of one block under round keys. -/
def aesDec (rks : List (List Byte)) (blk : List Byte) : List Byte :=
  match rks.reverse with
  | [] => blk
  | k0 :: rest =>
    let go := rest.foldl
      (fun (p : Nat × List Byte) rk =>
        let s := xorBytes (aesShift aesInvSbox true p.2) rk
        (p.1 - 1, if p.1 = 1 then s else aesMix [14, 11, 13, 9] s))
      (rest.length, xorBytes blk k0)
    go.2

/-! ### XTS (IEEE 1619) -/

/-- A tweak times x in GF(2^128), little-endian. -/
def xtsDouble (t : BitVec 128) : BitVec 128 := (t <<< 1) ^^^ (if t.msb then 0x87 else 0)

def xtsBlocks (f : List Byte → List Byte) : BitVec 128 → List (List Byte) → List Byte
  | _, [] => []
  | t, b :: rest =>
    let tb := leBytes 16 t.toNat
    xorBytes (f (xorBytes b tb)) tb ++ xtsBlocks f (xtsDouble t) rest

/-- One data unit of whole 16-byte blocks under a data key, a tweak key and a 128-bit tweak. -/
def aesXts (encrypt : Bool) (dataKey tweakKey : List Byte) (tweak : Nat) (unit : List Byte) : List Byte :=
  let ks := aesKeys dataKey
  let t0 := leNat (aesEnc (aesKeys tweakKey) (leBytes 16 tweak))
  xtsBlocks (if encrypt then aesEnc ks else aesDec ks) (BitVec.ofNat 128 t0) (chunks 16 (unit.length / 16) unit)

/-! ### GCM (SP 800-38D) -/

/-- The product of GHASH, over the top `n` bits of `x`. -/
def ghashMul : Nat → BitVec 128 → BitVec 128 → BitVec 128 → BitVec 128
  | 0, _, _, z => z
  | n + 1, x, v, z =>
    ghashMul n (x <<< 1) ((v >>> 1) ^^^ (if v.getLsbD 0 then 0xe1000000000000000000000000000000 else 0))
      (if x.msb then z ^^^ v else z)

/-- GHASH of bytes padded with zeros to whole blocks, continued from `y`. -/
def ghashOver (h : BitVec 128) : Nat → BitVec 128 → List Byte → BitVec 128
  | 0, y, _ => y
  | n + 1, y, l =>
    let b := l.take 16
    let blk := BitVec.ofNat 128 (beNat (b ++ List.replicate (16 - b.length) 0))
    ghashOver h n (ghashMul 128 (y ^^^ blk) h 0) (l.drop 16)

def ghash (h y : BitVec 128) (l : List Byte) : BitVec 128 := ghashOver h ((l.length + 15) / 16) y l

/-- Counter-mode encryption from counter block `ctr`, whose low 32 bits advance. -/
def gcmCtr (ks : List (List Byte)) : Nat → BitVec 128 → List Byte → List Byte
  | 0, _, _ => []
  | n + 1, ctr, l =>
    let b := l.take 16
    let next : BitVec 128 := (ctr &&& ~~~ (0xffffffff : BitVec 128)) ||| ((ctr + 1) &&& 0xffffffff)
    xorBytes b (aesEnc ks (beBytes 16 ctr.toNat)) ++ gcmCtr ks n next (l.drop 16)

/-! ### SHA-2 (FIPS 180-4) -/

/-- The largest r of `k` bits, above those in `r`, with r^e at most `n`. -/
def rootBits (e n : Nat) : Nat → Nat → Nat
  | 0, r => r
  | k + 1, r => let c := r + 2 ^ k
                rootBits e n k (if c ^ e ≤ n then c else r)

/-- The first eighty primes. -/
def shaPrimes : List Nat := ((List.range 410).drop 2).filter fun n => (List.range 19).all fun i => n ≤ i + 2 || n % (i + 2) != 0 || n == i + 2

/-- The round constants: the first 64 bits of the fractional parts of cube roots of primes. -/
def shaK : List Nat := shaPrimes.map fun p => rootBits 3 (p * 2 ^ 192) 68 0 % 2 ^ 64
/-- The initial hash: the first 64 bits of the fractional parts of square roots of primes. -/
def shaH : List Nat := (shaPrimes.take 8).map fun p => rootBits 2 (p * 2 ^ 128) 68 0 % 2 ^ 64

/-- What differs between SHA-256 and SHA-512: word bits, rounds and rotation amounts. -/
structure ShaKind where
  w      : Nat
  rounds : Nat
  big0   : Nat × Nat × Nat
  big1   : Nat × Nat × Nat
  sml0   : Nat × Nat × Nat
  sml1   : Nat × Nat × Nat
deriving DecidableEq, Repr

def sha256Kind : ShaKind := ⟨32, 64, (2, 13, 22), (6, 11, 25), (7, 18, 3), (17, 19, 10)⟩
def sha512Kind : ShaKind := ⟨64, 80, (28, 34, 39), (14, 18, 41), (1, 8, 7), (19, 61, 6)⟩

def ShaKind.const (k : ShaKind) (x : Nat) : BitVec k.w := BitVec.ofNat k.w (x >>> (64 - k.w))
def ShaKind.init (k : ShaKind) : List (BitVec k.w) := shaH.map k.const

def shaSigma {n : Nat} (r : Nat × Nat × Nat) (x : BitVec n) : BitVec n :=
  x.rotateRight r.1 ^^^ x.rotateRight r.2.1 ^^^ x.rotateRight r.2.2
def shaSml {n : Nat} (r : Nat × Nat × Nat) (x : BitVec n) : BitVec n :=
  x.rotateRight r.1 ^^^ x.rotateRight r.2.1 ^^^ (x >>> r.2.2)

/-- The message schedule, latest word first: `n` more words. -/
def shaSchedule (k : ShaKind) : Nat → List (BitVec k.w) → List (BitVec k.w)
  | 0, ws => ws
  | n + 1, ws =>
    shaSchedule k n ((shaSml k.sml1 (ws.getD 1 0) + ws.getD 6 0 + shaSml k.sml0 (ws.getD 14 0) + ws.getD 15 0) :: ws)

def shaRound (k : ShaKind) (v : List (BitVec k.w)) (kw : BitVec k.w) : List (BitVec k.w) :=
  match v with
  | [a, b, c, d, e, f, g, h] =>
    let t1 := h + shaSigma k.big1 e + ((e &&& f) ^^^ (~~~ e &&& g)) + kw
    let t2 := shaSigma k.big0 a + ((a &&& b) ^^^ (a &&& c) ^^^ (b &&& c))
    [t1 + t2, a, b, c, d + t1, e, f, g]
  | v => v

/-- One block of `w / 2` bytes folded into the chaining value. -/
def shaBlock (k : ShaKind) (h : List (BitVec k.w)) (blk : List Byte) : List (BitVec k.w) :=
  let ws := (chunks (k.w / 8) 16 blk).map fun b => BitVec.ofNat k.w (beNat b)
  let sched := (shaSchedule k (k.rounds - 16) ws.reverse).reverse
  let out := (List.zipWith (· + ·) sched (shaK.map k.const)).foldl (shaRound k) h
  List.zipWith (· + ·) h out

def shaBlocks (k : ShaKind) (h : List (BitVec k.w)) (l : List Byte) : List (BitVec k.w) :=
  (chunks (2 * k.w) (l.length / (2 * k.w)) l).foldl (shaBlock k) h

/-- The padding of a message of `n` bytes, to follow its last `n mod (2 w)` bytes. -/
def shaPad (k : ShaKind) (n : Nat) : List Byte :=
  let blk := 2 * k.w
  let lenB := k.w / 4
  let z := (2 * blk - 1 - lenB - n % blk) % blk
  0x80 :: (List.replicate z 0 ++ beBytes lenB (n * 8))

def shaDigest (k : ShaKind) (h : List (BitVec k.w)) : List Byte := (h.map fun x => beBytes (k.w / 8) x.toNat).flatten

/-! ### CRC-32C (R474) -/

def crcBits : Nat → Word32 → Word32
  | 0, c => c
  | n + 1, c => crcBits n ((c >>> 1) ^^^ (if c.getLsbD 0 then 0x82f63b78 else 0))

/-- The CRC register after the bytes, inverted neither on entry nor on exit. -/
def crc32c (c : Word32) (l : List Byte) : Word32 := l.foldl (fun c b => crcBits 8 (c ^^^ b.zeroExtend 32)) c

end Sys2Proof.Machine
end

