-- ==== Sys2Proof/Machine/Deflate.lean ====
section
/-! DEFINITION. DEFLATE streams (RFC 1951, R342): the decoder, stored blocks, and the encoder's stream. -/

namespace Sys2Proof.Machine

/-- The bits of bytes, least significant first. -/
def bitsOf (l : List Byte) : List Bool := l.flatMap fun b => (List.range 8).map fun i => b.getLsbD i

/-- `n` bits as a number, first bit least significant; none where the bits run out. -/
def takeBits : Nat → List Bool → Option (Nat × List Bool)
  | 0, bs => some (0, bs)
  | _ + 1, [] => none
  | n + 1, b :: bs => (takeBits n bs).map fun p => ((if b then 1 else 0) + 2 * p.1, p.2)

/-- A code: for each symbol its length, 0 for none. -/
abbrev Lengths := List Nat

def countLen (ls : Lengths) (n : Nat) : Nat := (ls.filter (· == n)).length
/-- The symbol that is number `k` among those of length `n`. -/
def symAt (ls : Lengths) (n k : Nat) : Nat := ((ls.zipIdx.filter fun p => p.1 == n)[k]?.map (·.2)).getD 0

/-- What is left of the code space after lengths 1 to `n` (scaled by 2^n); none where it is over-subscribed. -/
def codeLeft (ls : Lengths) : Nat → Option Nat
  | 0 => some 1
  | n + 1 => match codeLeft ls n with
    | none => none
    | some left => if countLen ls (n + 1) ≤ 2 * left then some (2 * left - countLen ls (n + 1)) else none

/-- One symbol: `code` and `first` are the code read so far and the first code of its length. -/
def decodeSym (ls : Lengths) : Nat → Nat → Nat → Nat → List Bool → Option (Nat × List Bool)
  | 0, _, _, _, _ => none
  | _ + 1, _, _, _, [] => none
  | fuel + 1, len, code, first, b :: bs =>
    let c := code * 2 + (if b then 1 else 0)
    let n := countLen ls len
    if c < first + n then some (symAt ls len (c - first), bs)
    else decodeSym ls fuel (len + 1) c ((first + n) * 2) bs

def readSym (ls : Lengths) (bs : List Bool) : Option (Nat × List Bool) := decodeSym ls 15 1 0 0 bs

def lenBase : List Nat := [3, 4, 5, 6, 7, 8, 9, 10, 11, 13, 15, 17, 19, 23, 27, 31, 35, 43, 51, 59, 67, 83, 99, 115, 131, 163, 195, 227, 258]
def lenExtra : List Nat := [0, 0, 0, 0, 0, 0, 0, 0, 1, 1, 1, 1, 2, 2, 2, 2, 3, 3, 3, 3, 4, 4, 4, 4, 5, 5, 5, 5, 0]
def distBase : List Nat :=
  [1, 2, 3, 4, 5, 7, 9, 13, 17, 25, 33, 49, 65, 97, 129, 193, 257, 385, 513, 769, 1025, 1537, 2049, 3073, 4097, 6145, 8193, 12289, 16385, 24577]
def distExtra : List Nat := (List.range 30).map fun i => i / 2 - 1

def fixedLit : Lengths := List.replicate 144 8 ++ List.replicate 112 9 ++ List.replicate 24 7 ++ List.replicate 8 8
def fixedDist : Lengths := List.replicate 30 5

/-- What decoding finds. `more`: the bits run out. Output is kept latest byte first. -/
inductive Inflated
  | fin (out : List Byte) (rest : List Bool)
  | more (out : List Byte)
  | bad (out : List Byte) (rest : List Bool)
  | over (out : List Byte) (rest : List Bool)
deriving DecidableEq, Repr

/-- The byte `dist` back, `n` times. -/
def copyBack : Nat → Nat → List Byte → List Byte
  | 0, _, out => out
  | n + 1, dist, out => copyBack n dist (out.getD (dist - 1) 0 :: out)

/-- The symbols of one compressed block; output is bounded by `cap`. -/
def inflateCodes (lit dist : Lengths) (cap : Nat) : Nat → List Byte → List Bool → Inflated
  | 0, out, _ => .more out
  | fuel + 1, out, bs =>
    match readSym lit bs with
    | none => if bs.length < 15 then .more out else .bad out bs
    | some (s, b1) =>
      if s < 256 then
        if cap ≤ out.length then .over out bs else inflateCodes lit dist cap fuel (BitVec.ofNat 8 s :: out) b1
      else if s = 256 then .fin out b1
      else if 29 ≤ s - 257 then .bad out bs
      else match takeBits (lenExtra.getD (s - 257) 0) b1 with
        | none => .more out
        | some (x, b2) =>
          let n := lenBase.getD (s - 257) 0 + x
          match readSym dist b2 with
          | none => if b2.length < 15 then .more out else .bad out bs
          | some (t, b3) =>
            if 30 ≤ t then .bad out bs
            else match takeBits (distExtra.getD t 0) b3 with
              | none => .more out
              | some (y, b4) =>
                let back := distBase.getD t 0 + y
                if out.length < back then .bad out bs
                else if cap < out.length + n then .over (copyBack (cap - out.length) back out) bs
                else inflateCodes lit dist cap fuel (copyBack n back out) b4

/-- Bytes of a stored block. -/
def inflateStored (cap : Nat) : Nat → List Byte → List Bool → Inflated
  | 0, out, bs => .fin out bs
  | n + 1, out, bs =>
    match takeBits 8 bs with
    | none => .more out
    | some (x, b1) => if cap ≤ out.length then .over out bs else inflateStored cap n (BitVec.ofNat 8 x :: out) b1

def clOrder : List Nat := [16, 17, 18, 0, 8, 7, 9, 6, 10, 5, 11, 4, 12, 3, 13, 2, 14, 1, 15]

/-- `n` code-length code lengths of 3 bits. -/
def readCl : Nat → List Bool → Option (List Nat × List Bool)
  | 0, bs => some ([], bs)
  | n + 1, bs => (takeBits 3 bs).bind fun p => (readCl n p.2).map fun r => (p.1 :: r.1, r.2)

/-- The literal and distance code lengths, latest first; `none` at the end of the bits, `some none` when malformed. -/
def readLens (cl : Lengths) (total : Nat) : Nat → List Nat → List Bool → Option (Option (List Nat × List Bool))
  | 0, _, _ => some none
  | fuel + 1, acc, bs =>
    if acc.length = total then some (some (acc.reverse, bs))
    else if total < acc.length then some none
    else match readSym cl bs with
      | none => if bs.length < 7 then none else some none
      | some (s, b1) =>
        if s < 16 then readLens cl total fuel (s :: acc) b1
        else if s = 16 then
          match takeBits 2 b1, acc with
          | none, _ => none
          | some _, [] => some none
          | some (x, b2), a :: t => readLens cl total fuel (List.replicate (3 + x) a ++ (a :: t)) b2
        else
          match takeBits (if s = 17 then 3 else 7) b1 with
          | none => none
          | some (x, b2) => readLens cl total fuel (List.replicate ((if s = 17 then 3 else 11) + x) 0 ++ acc) b2

/-- A code set is usable: complete, or a single code of one bit. -/
def codeOk (ls : Lengths) : Bool :=
  match codeLeft ls 15 with
  | none => false
  | some left => left == 0 || (ls.filter (· != 0)).length ≤ 1 && ls.all (fun n => n ≤ 1)

/-- The block that a stream which began with `total` bits has next: BFINAL, its kind, and what decoding it finds. -/
def inflateBlock (cap total : Nat) (out : List Byte) (bs : List Bool) : Nat × Nat × Inflated :=
  match takeBits 1 bs with
  | none => (0, 0, .more out)
  | some (final, b1) =>
    match takeBits 2 b1 with
    | none => (final, 0, .more out)
    | some (0, b2) => (final, 0,
      -- LEN begins at the next byte boundary
      let b3 := b2.drop ((8 - (total - b2.length) % 8) % 8)
      match takeBits 16 b3 with
      | none => .more out
      | some (len, b4) => match takeBits 16 b4 with
        | none => .more out
        | some (nlen, b5) => if len + nlen = 65535 then inflateStored cap len out b5 else .bad out b3)
    | some (1, b2) => (final, 1, inflateCodes fixedLit fixedDist cap b2.length out b2)
    | some (2, b2) => (final, 2,
      match takeBits 14 b2 with
      | none => .more out
      | some (h, b3) =>
        let hlit := h % 32 + 257
        let hdist := h / 32 % 32 + 1
        let hclen := h / 1024 + 4
        if 286 < hlit then .bad out b2
        else match readCl hclen b3 with
          | none => .more out
          | some (cls, b4) =>
            let cl := (List.range 19).map fun s => ((clOrder.zip cls).find? fun p => p.1 == s).map (·.2) |>.getD 0
            if codeLeft cl 7 != some 0 then .bad out b3
            else match readLens cl (hlit + hdist) (hlit + hdist + 1) [] b4 with
              | none => .more out
              | some none => .bad out b4
              | some (some (ls, b5)) =>
                let lit := ls.take hlit
                let dist := ls.drop hlit
                if lit.getD 256 0 = 0 ∨ codeOk lit = false ∨ codeOk dist = false then .bad out b4
                else inflateCodes lit dist cap b5.length out b5)
    | some (k, _) => (final, k, .bad out bs)

/-- The blocks of a stream; each leaves fewer bits, which bound the recursion. -/
def inflateBlocks (cap total : Nat) : Nat → List Byte → List Bool → Inflated
  | 0, out, _ => .more out
  | fuel + 1, out, bs =>
    match inflateBlock cap total out bs with
    | (final, _, .fin o rest) => if final = 1 then .fin o rest else inflateBlocks cap total fuel o rest
    | (_, _, x) => x

/-- The kind of each block of a stream, and the offset in its output at which the block begins. -/
def blockStarts (cap total : Nat) : Nat → List Byte → List Bool → List (Nat × Nat)
  | 0, _, _ => []
  | fuel + 1, out, bs =>
    match inflateBlock cap total out bs with
    | (final, k, .fin o rest) => (k, out.length) :: if final = 1 then [] else blockStarts cap total fuel o rest
    | _ => []

/-- Decodes a raw stream into at most `cap` bytes. -/
def inflate (cap : Nat) (src : List Byte) : Inflated :=
  let bs := bitsOf src
  inflateBlocks cap bs.length (bs.length + 1) [] bs

/-- Source bytes touched when `rest` is left of `n` bytes. -/
def bytesTouched (n : Nat) (rest : List Bool) : Nat := n - rest.length / 8

/-- Stored blocks, each 64 KiB of source beginning a new one; a block holds at most 65,535 bytes. -/
def storedBlock (final : Bool) (l : List Byte) : List Byte :=
  [if final then 1 else 0] ++ leBytes 2 l.length ++ leBytes 2 (65535 - l.length) ++ l
def storedBlocks : Nat → List Byte → List Byte
  | 0, l => storedBlock true l
  | fuel + 1, l =>
    if l.length < 65536 then storedBlock true l
    else storedBlock false (l.take 65535) ++ storedBlock (l.length == 65536) ((l.take 65536).drop 65535) ++
      (if l.length = 65536 then [] else storedBlocks fuel (l.drop 65536))

/-! ### Blocks of literals -/

/-- The first code of a length (RFC 1951, 3.2.2). -/
def firstCode (ls : Lengths) : Nat → Nat
  | 0 => 0
  | n + 1 => (firstCode ls n + if n = 0 then 0 else countLen ls n) * 2
/-- A number's `n` bits, least significant first. -/
def numBits (n x : Nat) : List Bool := (List.range n).map x.testBit
/-- A symbol's code, its most significant bit first. -/
def symBits (ls : Lengths) (s : Nat) : List Bool :=
  let n := ls.getD s 0
  (numBits n (firstCode ls n + countLen (ls.take s) n)).reverse
/-- Bits as bytes, least significant first, the last one filled with zeros. -/
def packBits (l : List Bool) : List Byte :=
  (List.range ((l.length + 7) / 8)).map fun i => BitVec.ofNat 8 ((List.range 8).foldl (fun n j => n + (if l.getD (8 * i + j) false then 2 ^ j else 0)) 0)

/-- Complete codes of every length and distance symbol, for blocks with dynamic codes; and the code of their lengths. -/
def plainLit : Lengths := List.replicate 226 8 ++ List.replicate 60 9
def plainDist : Lengths := List.replicate 2 4 ++ List.replicate 28 5
def plainCl : Lengths := List.replicate 16 4 ++ List.replicate 3 0

/-- A block of literals with fixed or with dynamic codes. -/
def literalBlock (level : Nat) (final : Bool) (l : List Byte) : List Bool :=
  let lit := if level = 1 then fixedLit else plainLit
  let header := if level = 1 then [] else
    numBits 5 29 ++ numBits 5 29 ++ numBits 4 15 ++ (clOrder.flatMap fun s => numBits 3 (plainCl.getD s 0)) ++
      (plainLit ++ plainDist).flatMap fun n => symBits plainCl n
  numBits 1 (if final then 1 else 0) ++ numBits 2 level ++ header ++ (l.flatMap fun b => symBits lit b.toNat) ++ symBits lit 256
/-- Blocks of literals, each of 64 KiB of source but the last. -/
def literalBlocks (level : Nat) : Nat → List Byte → List Bool
  | 0, l => literalBlock level true l
  | fuel + 1, l =>
    if l.length ≤ 65536 then literalBlock level true l
    else literalBlock level false (l.take 65536) ++ literalBlocks level fuel (l.drop 65536)

/-! ### The encoder -/

/-- A stream is one that DEFLATE may write: it decodes to the source, and each 64 KiB of source begins a block, of the level's kind. -/
def streamOk (level : Nat) (src s : List Byte) : Bool :=
  let bs := bitsOf s
  (match inflate src.length s with
   | .fin out rest => out.reverse == src && decide (rest.length < 8)
   | _ => false) &&
  blockStarts src.length bs.length (bs.length + 1) [] bs == (List.range (max 1 ((src.length + 65535) / 65536))).map fun i => (level, i * 65536)

/-- The stream that DEFLATE writes (R342). The engine's choice of matches is free among the streams that the rule allows; log entry 24. -/
def deflate (level : Nat) (src : List Byte) : List Byte :=
  if level = 0 then storedBlocks (src.length / 65536 + 1) src else
  let s := Config.deflateStream level src
  if streamOk level src s then s else packBits (literalBlocks level (src.length / 65536 + 1) src)

end Sys2Proof.Machine
end

