-- ==== Sys2Proof/Machine/Tbl.lean ====
section
/-! DEFINITION. Sparse tables: reading with a default, writing in key order, and the canonical form of a
table whose entries all differ from their default. Bit fields of words, by the slices the maps give. -/

namespace Sys2Proof.Machine

/-- The entry at key `k`, or the default. -/
def Tbl.get {α : Type} (dflt : α) (k : Nat) : Tbl α → α
  | [] => dflt
  | (j, v) :: t => if j = k then v else Tbl.get dflt k t

/-- Writes the entry at key `k`, keeping keys in rising order. -/
def Tbl.set {α : Type} (k : Nat) (v : α) : Tbl α → Tbl α
  | [] => [(k, v)]
  | (j, w) :: t => if j = k then (k, v) :: t else if k < j then (k, v) :: (j, w) :: t else (j, w) :: Tbl.set k v t

/-- Removes the entries at key `k`. -/
def Tbl.del {α : Type} (k : Nat) : Tbl α → Tbl α
  | [] => []
  | (j, w) :: t => if j = k then Tbl.del k t else (j, w) :: Tbl.del k t

/-- Writes the entry at key `k` of a table whose unlisted keys read `dflt`: a default is not listed. -/
def Tbl.put {α : Type} [DecidableEq α] (dflt : α) (k : Nat) (v : α) (t : Tbl α) : Tbl α :=
  if v = dflt then Tbl.del k t else Tbl.set k v t

/-- Every key of the table is above `k`. -/
def Tbl.above {α : Type} (k : Nat) : Tbl α → Bool
  | [] => true
  | (j, _) :: _ => decide (k < j)

/-- Keys strictly rise. -/
def Tbl.sorted {α : Type} : Tbl α → Bool
  | [] => true
  | (k, _) :: t => Tbl.above k t && Tbl.sorted t

/-- The canonical form: keys strictly rise and no entry equals the default. -/
def Tbl.wf {α : Type} [DecidableEq α] (dflt : α) (t : Tbl α) : Bool :=
  Tbl.sorted t && t.all (fun e => decide (e.2 ≠ dflt))

/-- A bit slice [hi:lo] of a word (Notation, 00). -/
structure Fld where
  hi : Nat
  lo : Nat
deriving DecidableEq, Repr

/-- The width of a slice. -/
def Fld.width (f : Fld) : Nat := f.hi + 1 - f.lo

/-- The ones of a slice. -/
def Fld.mask (f : Fld) : Word := BitVec.ofNat 64 ((2 ^ f.width - 1) <<< f.lo)

/-- A slice's value. -/
def getF (w : Word) (f : Fld) : Nat := (w.toNat >>> f.lo) % 2 ^ f.width

/-- A word with a slice replaced by `x` modulo the slice's width. -/
def setF (w : Word) (f : Fld) (x : Nat) : Word :=
  (w &&& ~~~ f.mask) ||| BitVec.ofNat 64 ((x % 2 ^ f.width) <<< f.lo)

/-- One bit of a word. -/
def bitF (w : Word) (i : Nat) : Bool := w.toNat.testBit i

/-- `n` plus `k`, saturating at the largest value of `w` bits. -/
def satAdd (w n k : Nat) : Nat := min (n + k) (2 ^ w - 1)

end Sys2Proof.Machine
end

