-- ==== Sys2Proof/Machine/Regs.lean ====
section
/-! DEFINITION. The control-space registers (R27 and the register maps of every chapter): a name for each,
its offset from CSB, its fields with access code and reset value, whether it is always reachable (R29), and
the power domain of its unit. A field whose reset value is loaded at cast-on is listed with 0 here and is
written by cast-on. -/

namespace Sys2Proof.Machine

/-- The access codes of R5. Reserved bits are those no field lists. -/
inductive Acc
  | ro | rw | w1c | w1s | rc | wo
deriving DecidableEq, Repr

/-- A field of a register map: its slice, access code, reset value, and the encodings that are not reserved (R7). -/
structure FieldDesc where
  f    : Fld
  acc  : Acc
  rst  : Nat
  vmin : Nat
  vmax : Nat
deriving DecidableEq, Repr

/-- The registers of control space, by unit number and index. -/
inductive Reg
  | coreIdent (c : Nat)
  | coreState (c : Nat)
  | coreRangeStatus (c : Nat)
  | coreUcode (c : Nat)
  | coreReplay (c : Nat)
  | corePrefetch (c : Nat)
  | coreXlate (c : Nat)
  | corePnl (c : Nat)
  | corePnlStat (c : Nat)
  | slcState (n : Nat)
  | slcCos (n k : Nat)
  | slcCosCore (n k : Nat)
  | slcSpadCtl (n : Nat)
  | slcSpadStat (n : Nat)
  | slcSpadColl (n : Nat)
  | slcMarchCtl (n : Nat)
  | slcMarchStat (n : Nat)
  | slcRebuild (n : Nat)
  | dirStat (n : Nat)
  | dirEpoch (n k : Nat)
  | dirDead (n : Nat)
  | mcCtl (n : Nat)
  | mcErrcnt (n : Nat)
  | mcTimingA0 (n : Nat)
  | mcTimingA1 (n : Nat)
  | mcTimingA2 (n : Nat)
  | mcTimingA3 (n : Nat)
  | mcTimingB0 (n : Nat)
  | mcTimingB1 (n : Nat)
  | mcTimingB2 (n : Nat)
  | mcTimingB3 (n : Nat)
  | mcSwatchCtl (n : Nat)
  | mcSwatchPat (n : Nat)
  | mcSwatchScan (n : Nat)
  | mcSwatchErr (n k : Nat)
  | mcCeBucket (n : Nat)
  | mcCeOvf (n : Nat)
  | mcLastCe (n : Nat)
  | mcLastCeBits (n : Nat)
  | mcLastUe (n : Nat)
  | mcDscrubBase (n : Nat)
  | mcDscrubLen (n : Nat)
  | mcDscrubCtl (n : Nat)
  | mcDscrubSum0 (n : Nat)
  | mcDscrubSum1 (n : Nat)
  | mcDscrubFirst (n : Nat)
  | mcDscrubLast (n : Nat)
  | mcPatrol (n : Nat)
  | mcZmapStat (n : Nat)
  | fabTimeout (q : Nat)
  | fabStat (q : Nat)
  | fabStallLog (q : Nat)
  | fabSadRange (n : Nat)
  | fabSadTarget (n : Nat)
  | fabObsCtl (q u : Nat)
  | fabObsMatch (q u : Nat)
  | fabObsMask (q u : Nat)
  | fabObsRing (q u : Nat)
  | fabObsIdx (q u : Nat)
  | fabObsCnt (q u : Nat)
  | fabObsBytes (q u i : Nat)
  | fabObsHist (q u i j : Nat)
  | sknState (k : Nat)
  | sknBrx (k : Nat)
  | iosStat (g : Nat)
  | iosCtxRoot (g : Nat)
  | iosCtxInv (g : Nat)
  | iosFault (g : Nat)
  | iosFaultAddr (g : Nat)
  | iosAtsLog (g : Nat)
  | iosOwinRange (g n : Nat)
  | iosOwinXlate (g n : Nat)
  | evcCtl
  | evcMtab
  | evcPdt
  | evcMtinv
  | evcWmwin
  | evcStat
  | evcMsgdb
  | evcWroute (n : Nat)
  | evcEqBase (c : Nat)
  | evcEqIdx (c : Nat)
  | evcEqWm (c : Nat)
  | evcInstMsg (i : Nat)
  | evcRwm (r : Nat)
  | pwrStat
  | pwrSafe
  | pwrWakePc
  | pwrDom (d : Nat)
  | pwrVset (d : Nat)
  | pwrSense (d : Nat)
  | stwStat (n : Nat)
  | odmMbCtl (p : Nat)
  | odmMbReq (p i : Nat)
  | odmMbRsp (p i : Nat)
  | odmCtl
  | odmRcauseSoc
  | odmRcause (d : Nat)
  | pnlSlot (s : Nat)
  | pnlStat (s : Nat)
  | pnlJrnl (s : Nat)
  | pnlGpost (s g : Nat)
  | pnlGstat (s g : Nat)
  | gateHead (s g : Nat)
  | gateTail (s g : Nat)
  | erbGlobal
  | erbLogBase
  | erbLogIdx
  | erbLogStat
  | erbStatus (n : Nat)
  | erbAddr (n : Nat)
  | erbSynd (n : Nat)
  | erbMisc (n : Nat)
  | denStat (e : Nat)
  | denErr (e : Nat)
  | denIctl (i : Nat)
  | denIid (i : Nat)
  | denIseg (i : Nat)
  | denIsave (i : Nat)
  | denImbox (i : Nat)
  | denVtx (i j : Nat)
  | denVrx (i j : Nat)
  | instId (i : Nat)
  | instStat (i : Nat)
  | mboxCtl (i : Nat)
  | mboxTx (i j : Nat)
  | mboxRx (i j : Nat)
  | qWmstat (i q : Nat)
  | qSq (i q : Nat)
  | qCq (i q : Nat)
  | qDb (i q : Nat)
  | qStat (i q : Nat)
deriving DecidableEq, Repr

/-! ### Named fields: `Fld.<REGISTER>_<FIELD>` -/

/-- FAB_SAD_RANGE.EN. -/
def Fld.FAB_SAD_RANGE_EN : Fld := ⟨63, 63⟩
/-- FAB_SAD_RANGE.LIMIT. -/
def Fld.FAB_SAD_RANGE_LIMIT : Fld := ⟨43, 22⟩
/-- FAB_SAD_RANGE.BASE. -/
def Fld.FAB_SAD_RANGE_BASE : Fld := ⟨21, 0⟩
/-- FAB_SAD_TARGET.KIND. -/
def Fld.FAB_SAD_TARGET_KIND : Fld := ⟨7, 6⟩
/-- FAB_SAD_TARGET.SOCKET. -/
def Fld.FAB_SAD_TARGET_SOCKET : Fld := ⟨5, 4⟩
/-- FAB_SAD_TARGET.TARGET. -/
def Fld.FAB_SAD_TARGET_TARGET : Fld := ⟨3, 0⟩
/-- STATUS.UTIME. -/
def Fld.STATUS_UTIME : Fld := ⟨3, 3⟩
/-- STATUS.IE. -/
def Fld.STATUS_IE : Fld := ⟨2, 2⟩
/-- STATUS.PL. -/
def Fld.STATUS_PL : Fld := ⟨1, 0⟩
/-- ISA_VERSION.MAJOR. -/
def Fld.ISA_VERSION_MAJOR : Fld := ⟨63, 56⟩
/-- ISA_VERSION.MINOR. -/
def Fld.ISA_VERSION_MINOR : Fld := ⟨55, 48⟩
/-- ISA_VERSION.PANEL. -/
def Fld.ISA_VERSION_PANEL : Fld := ⟨8, 8⟩
/-- ISA_VERSION.ZMAP. -/
def Fld.ISA_VERSION_ZMAP : Fld := ⟨7, 7⟩
/-- ISA_VERSION.RANGE. -/
def Fld.ISA_VERSION_RANGE : Fld := ⟨6, 6⟩
/-- ISA_VERSION.VFP. -/
def Fld.ISA_VERSION_VFP : Fld := ⟨5, 5⟩
/-- ISA_VERSION.VINT. -/
def Fld.ISA_VERSION_VINT : Fld := ⟨4, 4⟩
/-- ISA_VERSION.DEC. -/
def Fld.ISA_VERSION_DEC : Fld := ⟨3, 3⟩
/-- ISA_VERSION.ATOM. -/
def Fld.ISA_VERSION_ATOM : Fld := ⟨2, 2⟩
/-- ISA_VERSION.MULDIV. -/
def Fld.ISA_VERSION_MULDIV : Fld := ⟨1, 1⟩
/-- ISA_VERSION.BASE. -/
def Fld.ISA_VERSION_BASE : Fld := ⟨0, 0⟩
/-- CAUSE.IN_ROUTINE. -/
def Fld.CAUSE_IN_ROUTINE : Fld := ⟨63, 63⟩
/-- CAUSE.CODE. -/
def Fld.CAUSE_CODE : Fld := ⟨31, 16⟩
/-- CAUSE.VECTOR. -/
def Fld.CAUSE_VECTOR : Fld := ⟨4, 0⟩
/-- CORE_IDENT.LVALID. -/
def Fld.CORE_IDENT_LVALID : Fld := ⟨24, 24⟩
/-- CORE_IDENT.LOGICAL. -/
def Fld.CORE_IDENT_LOGICAL : Fld := ⟨23, 16⟩
/-- CORE_IDENT.PHYS. -/
def Fld.CORE_IDENT_PHYS : Fld := ⟨8, 0⟩
/-- CORE_STATE.EPOCH. -/
def Fld.CORE_STATE_EPOCH : Fld := ⟨15, 8⟩
/-- CORE_STATE.POWER. -/
def Fld.CORE_STATE_POWER : Fld := ⟨5, 4⟩
/-- CORE_STATE.ROLE. -/
def Fld.CORE_STATE_ROLE : Fld := ⟨2, 0⟩
/-- CORE_RANGE_STATUS.BUSY. -/
def Fld.CORE_RANGE_STATUS_BUSY : Fld := ⟨63, 63⟩
/-- CORE_RANGE_STATUS.ERR. -/
def Fld.CORE_RANGE_STATUS_ERR : Fld := ⟨59, 56⟩
/-- CORE_RANGE_STATUS.LINES. -/
def Fld.CORE_RANGE_STATUS_LINES : Fld := ⟨31, 0⟩
/-- FPCSR.RM. -/
def Fld.FPCSR_RM : Fld := ⟨7, 5⟩
/-- FPCSR.NV. -/
def Fld.FPCSR_NV : Fld := ⟨4, 4⟩
/-- FPCSR.DZ. -/
def Fld.FPCSR_DZ : Fld := ⟨3, 3⟩
/-- FPCSR.OF. -/
def Fld.FPCSR_OF : Fld := ⟨2, 2⟩
/-- FPCSR.UF. -/
def Fld.FPCSR_UF : Fld := ⟨1, 1⟩
/-- FPCSR.NX. -/
def Fld.FPCSR_NX : Fld := ⟨0, 0⟩
/-- CORE_PREFETCH.RA_WAIT. -/
def Fld.CORE_PREFETCH_RA_WAIT : Fld := ⟨15, 12⟩
/-- CORE_PREFETCH.L2_LVL. -/
def Fld.CORE_PREFETCH_L2_LVL : Fld := ⟨9, 8⟩
/-- CORE_PREFETCH.L1_LVL. -/
def Fld.CORE_PREFETCH_L1_LVL : Fld := ⟨1, 0⟩
/-- PRED_CTL.RA_DIS. -/
def Fld.PRED_CTL_RA_DIS : Fld := ⟨2, 2⟩
/-- PRED_CTL.MDP_DIS. -/
def Fld.PRED_CTL_MDP_DIS : Fld := ⟨1, 1⟩
/-- PRED_CTL.IND_DIS. -/
def Fld.PRED_CTL_IND_DIS : Fld := ⟨0, 0⟩
/-- CORE_REPLAY.LASTSRC. -/
def Fld.CORE_REPLAY_LASTSRC : Fld := ⟨39, 32⟩
/-- CORE_REPLAY.COUNT. -/
def Fld.CORE_REPLAY_COUNT : Fld := ⟨31, 0⟩
/-- CORE_UCODE.PATCH_ID. -/
def Fld.CORE_UCODE_PATCH_ID : Fld := ⟨63, 48⟩
/-- CORE_UCODE.PENDING_ID. -/
def Fld.CORE_UCODE_PENDING_ID : Fld := ⟨47, 32⟩
/-- CORE_UCODE.ROM_REV. -/
def Fld.CORE_UCODE_ROM_REV : Fld := ⟨31, 16⟩
/-- CORE_UCODE.LOADFAIL. -/
def Fld.CORE_UCODE_LOADFAIL : Fld := ⟨1, 1⟩
/-- CORE_UCODE.PEND. -/
def Fld.CORE_UCODE_PEND : Fld := ⟨0, 0⟩
/-- SEGTAB_S.LAST. -/
def Fld.SEGTAB_S_LAST : Fld := ⟨55, 40⟩
/-- SEGTAB_S.BASE. -/
def Fld.SEGTAB_S_BASE : Fld := ⟨39, 0⟩
/-- TCTL.ISO. -/
def Fld.TCTL_ISO : Fld := ⟨3, 3⟩
/-- TCTL.JOIN. -/
def Fld.TCTL_JOIN : Fld := ⟨2, 2⟩
/-- TCTL.MXLATE. -/
def Fld.TCTL_MXLATE : Fld := ⟨1, 1⟩
/-- TCTL.STRAP. -/
def Fld.TCTL_STRAP : Fld := ⟨0, 0⟩
/-- CORE_XLATE.ISO. -/
def Fld.CORE_XLATE_ISO : Fld := ⟨40, 40⟩
/-- CORE_XLATE.JOIN. -/
def Fld.CORE_XLATE_JOIN : Fld := ⟨39, 39⟩
/-- CORE_XLATE.TINV_OUT. -/
def Fld.CORE_XLATE_TINV_OUT : Fld := ⟨31, 16⟩
/-- CORE_XLATE.W2D. -/
def Fld.CORE_XLATE_W2D : Fld := ⟨15, 0⟩
/-- SLC_STATE.SPWAYS. -/
def Fld.SLC_STATE_SPWAYS : Fld := ⟨11, 8⟩
/-- SLC_STATE.POWER. -/
def Fld.SLC_STATE_POWER : Fld := ⟨5, 4⟩
/-- SLC_STATE.ROLE. -/
def Fld.SLC_STATE_ROLE : Fld := ⟨2, 0⟩
/-- SLC_COS.MASK. -/
def Fld.SLC_COS_MASK : Fld := ⟨15, 0⟩
/-- SLC_COS_CORE.CLASS. -/
def Fld.SLC_COS_CORE_CLASS : Fld := ⟨63, 0⟩
/-- SLC_SPAD_CTL.BUSY. -/
def Fld.SLC_SPAD_CTL_BUSY : Fld := ⟨63, 63⟩
/-- SLC_SPAD_CTL.STARVE_T. -/
def Fld.SLC_SPAD_CTL_STARVE_T : Fld := ⟨31, 16⟩
/-- SLC_SPAD_CTL.WAYS. -/
def Fld.SLC_SPAD_CTL_WAYS : Fld := ⟨3, 0⟩
/-- SLC_SPAD_STAT.STARVE. -/
def Fld.SLC_SPAD_STAT_STARVE : Fld := ⟨63, 32⟩
/-- SLC_SPAD_STAT.COLLIDE. -/
def Fld.SLC_SPAD_STAT_COLLIDE : Fld := ⟨31, 0⟩
/-- SLC_SPAD_COLL.VALID. -/
def Fld.SLC_SPAD_COLL_VALID : Fld := ⟨63, 63⟩
/-- SLC_SPAD_COLL.PORT. -/
def Fld.SLC_SPAD_COLL_PORT : Fld := ⟨62, 62⟩
/-- SLC_SPAD_COLL.ADDR. -/
def Fld.SLC_SPAD_COLL_ADDR : Fld := ⟨51, 4⟩
/-- SLC_MARCH_CTL.BUSY. -/
def Fld.SLC_MARCH_CTL_BUSY : Fld := ⟨63, 63⟩
/-- SLC_MARCH_CTL.GO. -/
def Fld.SLC_MARCH_CTL_GO : Fld := ⟨4, 4⟩
/-- SLC_MARCH_CTL.MODE. -/
def Fld.SLC_MARCH_CTL_MODE : Fld := ⟨1, 0⟩
/-- SLC_MARCH_STAT.FAILS. -/
def Fld.SLC_MARCH_STAT_FAILS : Fld := ⟨63, 48⟩
/-- SLC_MARCH_STAT.REPAIRED. -/
def Fld.SLC_MARCH_STAT_REPAIRED : Fld := ⟨47, 40⟩
/-- SLC_MARCH_STAT.ROWS_LEFT. -/
def Fld.SLC_MARCH_STAT_ROWS_LEFT : Fld := ⟨39, 32⟩
/-- SLC_MARCH_STAT.COLS_LEFT. -/
def Fld.SLC_MARCH_STAT_COLS_LEFT : Fld := ⟨31, 24⟩
/-- SLC_MARCH_STAT.RESULT. -/
def Fld.SLC_MARCH_STAT_RESULT : Fld := ⟨1, 0⟩
/-- SLC_REBUILD.ACTIVE. -/
def Fld.SLC_REBUILD_ACTIVE : Fld := ⟨63, 63⟩
/-- SLC_REBUILD.KIND. -/
def Fld.SLC_REBUILD_KIND : Fld := ⟨62, 60⟩
/-- SLC_REBUILD.PTR. -/
def Fld.SLC_REBUILD_PTR : Fld := ⟨59, 48⟩
/-- SLC_REBUILD.SLICE. -/
def Fld.SLC_REBUILD_SLICE : Fld := ⟨47, 40⟩
/-- SLC_REBUILD.QUEUED. -/
def Fld.SLC_REBUILD_QUEUED : Fld := ⟨39, 36⟩
/-- SLC_REBUILD.OVERRUN. -/
def Fld.SLC_REBUILD_OVERRUN : Fld := ⟨32, 32⟩
/-- SLC_REBUILD.COUNT. -/
def Fld.SLC_REBUILD_COUNT : Fld := ⟨31, 0⟩
/-- DIR_STAT.BINV. -/
def Fld.DIR_STAT_BINV : Fld := ⟨63, 32⟩
/-- DIR_STAT.STALE. -/
def Fld.DIR_STAT_STALE : Fld := ⟨31, 16⟩
/-- DIR_STAT.QFULL. -/
def Fld.DIR_STAT_QFULL : Fld := ⟨15, 0⟩
/-- DIR_EPOCH.EPOCH. -/
def Fld.DIR_EPOCH_EPOCH : Fld := ⟨63, 0⟩
/-- DIR_DEAD.CXL. -/
def Fld.DIR_DEAD_CXL : Fld := ⟨63, 48⟩
/-- DIR_DEAD.SOCK. -/
def Fld.DIR_DEAD_SOCK : Fld := ⟨47, 44⟩
/-- DIR_DEAD.RECLAIM. -/
def Fld.DIR_DEAD_RECLAIM : Fld := ⟨43, 43⟩
/-- DIR_DEAD.LOST. -/
def Fld.DIR_DEAD_LOST : Fld := ⟨31, 0⟩
/-- PANEL.MEMBER. -/
def Fld.PANEL_MEMBER : Fld := ⟨63, 63⟩
/-- PANEL.SUSP. -/
def Fld.PANEL_SUSP : Fld := ⟨62, 62⟩
/-- PANEL.SLOT. -/
def Fld.PANEL_SLOT : Fld := ⟨11, 8⟩
/-- PANEL.INDEX. -/
def Fld.PANEL_INDEX : Fld := ⟨5, 0⟩
/-- CORE_PNL.MEMBER. -/
def Fld.CORE_PNL_MEMBER : Fld := ⟨63, 63⟩
/-- CORE_PNL.SUSP. -/
def Fld.CORE_PNL_SUSP : Fld := ⟨62, 62⟩
/-- CORE_PNL.RETRY. -/
def Fld.CORE_PNL_RETRY : Fld := ⟨61, 61⟩
/-- CORE_PNL.REPLAY. -/
def Fld.CORE_PNL_REPLAY : Fld := ⟨60, 60⟩
/-- CORE_PNL.SLOT. -/
def Fld.CORE_PNL_SLOT : Fld := ⟨59, 56⟩
/-- CORE_PNL.INDEX. -/
def Fld.CORE_PNL_INDEX : Fld := ⟨53, 48⟩
/-- CORE_PNL.FROGRUN. -/
def Fld.CORE_PNL_FROGRUN : Fld := ⟨47, 44⟩
/-- CORE_PNL.CKSLICE. -/
def Fld.CORE_PNL_CKSLICE : Fld := ⟨39, 32⟩
/-- CORE_PNL.COUNT. -/
def Fld.CORE_PNL_COUNT : Fld := ⟨20, 0⟩
/-- CORE_PNL_STAT.FROGS. -/
def Fld.CORE_PNL_STAT_FROGS : Fld := ⟨63, 32⟩
/-- CORE_PNL_STAT.SREPLAY. -/
def Fld.CORE_PNL_STAT_SREPLAY : Fld := ⟨15, 0⟩
/-- PNL_SLOT.STATE. -/
def Fld.PNL_SLOT_STATE : Fld := ⟨63, 61⟩
/-- PNL_SLOT.RECORD. -/
def Fld.PNL_SLOT_RECORD : Fld := ⟨60, 60⟩
/-- PNL_SLOT.PLAYBACK. -/
def Fld.PNL_SLOT_PLAYBACK : Fld := ⟨59, 59⟩
/-- PNL_SLOT.DIVERGED. -/
def Fld.PNL_SLOT_DIVERGED : Fld := ⟨58, 58⟩
/-- PNL_SLOT.VOID. -/
def Fld.PNL_SLOT_VOID : Fld := ⟨57, 57⟩
/-- PNL_SLOT.NMEMB. -/
def Fld.PNL_SLOT_NMEMB : Fld := ⟨54, 48⟩
/-- PNL_SLOT.LIMLOG. -/
def Fld.PNL_SLOT_LIMLOG : Fld := ⟨47, 43⟩
/-- PNL_SLOT.ROW. -/
def Fld.PNL_SLOT_ROW : Fld := ⟨36, 0⟩
/-- PNL_STAT.FROGS. -/
def Fld.PNL_STAT_FROGS : Fld := ⟨63, 32⟩
/-- PNL_STAT.OUTFROG. -/
def Fld.PNL_STAT_OUTFROG : Fld := ⟨31, 16⟩
/-- PNL_STAT.DEVACC. -/
def Fld.PNL_STAT_DEVACC : Fld := ⟨15, 8⟩
/-- PNL_STAT.SREPLAY. -/
def Fld.PNL_STAT_SREPLAY : Fld := ⟨7, 0⟩
/-- PNL_JRNL.SW. -/
def Fld.PNL_JRNL_SW : Fld := ⟨63, 32⟩
/-- PNL_JRNL.DEV. -/
def Fld.PNL_JRNL_DEV : Fld := ⟨31, 0⟩
/-- PNL_GPOST.POST. -/
def Fld.PNL_GPOST_POST : Fld := ⟨31, 0⟩
/-- PNL_GSTAT.ADMIT. -/
def Fld.PNL_GSTAT_ADMIT : Fld := ⟨63, 32⟩
/-- PNL_GSTAT.TAIL. -/
def Fld.PNL_GSTAT_TAIL : Fld := ⟨31, 0⟩
/-- GATE_HEAD.ADMIT. -/
def Fld.GATE_HEAD_ADMIT : Fld := ⟨31, 0⟩
/-- GATE_TAIL.TAIL. -/
def Fld.GATE_TAIL_TAIL : Fld := ⟨31, 0⟩
/-- FAB_TIMEOUT.E2E_US. -/
def Fld.FAB_TIMEOUT_E2E_US : Fld := ⟨63, 32⟩
/-- FAB_TIMEOUT.STALL_US. -/
def Fld.FAB_TIMEOUT_STALL_US : Fld := ⟨15, 0⟩
/-- FAB_STAT.RETRY. -/
def Fld.FAB_STAT_RETRY : Fld := ⟨63, 48⟩
/-- FAB_STAT.ISOLATE. -/
def Fld.FAB_STAT_ISOLATE : Fld := ⟨47, 32⟩
/-- FAB_STAT.LATE. -/
def Fld.FAB_STAT_LATE : Fld := ⟨31, 16⟩
/-- FAB_STAT.ABORT. -/
def Fld.FAB_STAT_ABORT : Fld := ⟨15, 0⟩
/-- FAB_STALL_LOG.VALID. -/
def Fld.FAB_STALL_LOG_VALID : Fld := ⟨63, 63⟩
/-- FAB_STALL_LOG.RETIRED. -/
def Fld.FAB_STALL_LOG_RETIRED : Fld := ⟨62, 62⟩
/-- FAB_STALL_LOG.PORT. -/
def Fld.FAB_STALL_LOG_PORT : Fld := ⟨61, 59⟩
/-- FAB_STALL_LOG.STOP. -/
def Fld.FAB_STALL_LOG_STOP : Fld := ⟨55, 50⟩
/-- FAB_STALL_LOG.VC. -/
def Fld.FAB_STALL_LOG_VC : Fld := ⟨49, 48⟩
/-- FAB_STALL_LOG.DST. -/
def Fld.FAB_STALL_LOG_DST : Fld := ⟨47, 40⟩
/-- FAB_STALL_LOG.TIME. -/
def Fld.FAB_STALL_LOG_TIME : Fld := ⟨31, 0⟩
/-- FAB_OBS_CTL.EN. -/
def Fld.FAB_OBS_CTL_EN : Fld := ⟨63, 63⟩
/-- FAB_OBS_CTL.MODE. -/
def Fld.FAB_OBS_CTL_MODE : Fld := ⟨62, 62⟩
/-- FAB_OBS_CTL.TRACE. -/
def Fld.FAB_OBS_CTL_TRACE : Fld := ⟨61, 61⟩
/-- FAB_OBS_CTL.WRAP. -/
def Fld.FAB_OBS_CTL_WRAP : Fld := ⟨60, 60⟩
/-- FAB_OBS_CTL.STOP. -/
def Fld.FAB_OBS_CTL_STOP : Fld := ⟨53, 48⟩
/-- FAB_OBS_CTL.PORT. -/
def Fld.FAB_OBS_CTL_PORT : Fld := ⟨42, 40⟩
/-- FAB_OBS_CTL.SAMPLE. -/
def Fld.FAB_OBS_CTL_SAMPLE : Fld := ⟨3, 0⟩
/-- FAB_OBS_MATCH.OPC. -/
def Fld.FAB_OBS_MATCH_OPC : Fld := ⟨63, 56⟩
/-- FAB_OBS_MATCH.VC. -/
def Fld.FAB_OBS_MATCH_VC : Fld := ⟨55, 54⟩
/-- FAB_OBS_MATCH.SRC. -/
def Fld.FAB_OBS_MATCH_SRC : Fld := ⟨53, 46⟩
/-- FAB_OBS_MATCH.DST. -/
def Fld.FAB_OBS_MATCH_DST : Fld := ⟨45, 38⟩
/-- FAB_OBS_MATCH.ADDR. -/
def Fld.FAB_OBS_MATCH_ADDR : Fld := ⟨37, 0⟩
/-- FAB_OBS_MASK.OPC. -/
def Fld.FAB_OBS_MASK_OPC : Fld := ⟨63, 56⟩
/-- FAB_OBS_MASK.VC. -/
def Fld.FAB_OBS_MASK_VC : Fld := ⟨55, 54⟩
/-- FAB_OBS_MASK.SRC. -/
def Fld.FAB_OBS_MASK_SRC : Fld := ⟨53, 46⟩
/-- FAB_OBS_MASK.DST. -/
def Fld.FAB_OBS_MASK_DST : Fld := ⟨45, 38⟩
/-- FAB_OBS_MASK.ADDR. -/
def Fld.FAB_OBS_MASK_ADDR : Fld := ⟨37, 0⟩
/-- FAB_OBS_RING.BASE. -/
def Fld.FAB_OBS_RING_BASE : Fld := ⟨51, 12⟩
/-- FAB_OBS_RING.LOG. -/
def Fld.FAB_OBS_RING_LOG : Fld := ⟨4, 0⟩
/-- FAB_OBS_IDX.SW. -/
def Fld.FAB_OBS_IDX_SW : Fld := ⟨63, 32⟩
/-- FAB_OBS_IDX.DEV. -/
def Fld.FAB_OBS_IDX_DEV : Fld := ⟨31, 0⟩
/-- FAB_OBS_CNT.MATCHED. -/
def Fld.FAB_OBS_CNT_MATCHED : Fld := ⟨63, 32⟩
/-- FAB_OBS_CNT.DROPPED. -/
def Fld.FAB_OBS_CNT_DROPPED : Fld := ⟨31, 0⟩
/-- FAB_OBS_BYTES.BYTES. -/
def Fld.FAB_OBS_BYTES_BYTES : Fld := ⟨63, 0⟩
/-- FAB_OBS_HIST.COUNT. -/
def Fld.FAB_OBS_HIST_COUNT : Fld := ⟨63, 0⟩
/-- MC_CTL.TSEL. -/
def Fld.MC_CTL_TSEL : Fld := ⟨63, 63⟩
/-- MC_CTL.STATE. -/
def Fld.MC_CTL_STATE : Fld := ⟨62, 60⟩
/-- MC_CTL.RANKS. -/
def Fld.MC_CTL_RANKS : Fld := ⟨47, 40⟩
/-- MC_CTL.CAP. -/
def Fld.MC_CTL_CAP : Fld := ⟨31, 16⟩
/-- MC_CTL.RATE. -/
def Fld.MC_CTL_RATE : Fld := ⟨15, 8⟩
/-- MC_ERRCNT.CORR. -/
def Fld.MC_ERRCNT_CORR : Fld := ⟨63, 48⟩
/-- MC_ERRCNT.UNCORR. -/
def Fld.MC_ERRCNT_UNCORR : Fld := ⟨47, 32⟩
/-- MC_ERRCNT.TRANSIENT. -/
def Fld.MC_ERRCNT_TRANSIENT : Fld := ⟨31, 16⟩
/-- MC_ERRCNT.ALERT. -/
def Fld.MC_ERRCNT_ALERT : Fld := ⟨15, 8⟩
/-- MC_ERRCNT.RETRAIN. -/
def Fld.MC_ERRCNT_RETRAIN : Fld := ⟨7, 0⟩
/-- MC_TIMING0.RATE. -/
def Fld.MC_TIMING0_RATE : Fld := ⟨63, 56⟩
/-- MC_TIMING0.CL. -/
def Fld.MC_TIMING0_CL : Fld := ⟨55, 48⟩
/-- MC_TIMING0.CWL. -/
def Fld.MC_TIMING0_CWL : Fld := ⟨47, 40⟩
/-- MC_TIMING0.TRCD. -/
def Fld.MC_TIMING0_TRCD : Fld := ⟨39, 32⟩
/-- MC_TIMING0.TRP. -/
def Fld.MC_TIMING0_TRP : Fld := ⟨31, 24⟩
/-- MC_TIMING0.TRAS. -/
def Fld.MC_TIMING0_TRAS : Fld := ⟨23, 14⟩
/-- MC_TIMING0.TRC. -/
def Fld.MC_TIMING0_TRC : Fld := ⟨13, 4⟩
/-- MC_TIMING1.TRRD_S. -/
def Fld.MC_TIMING1_TRRD_S : Fld := ⟨63, 56⟩
/-- MC_TIMING1.TRRD_L. -/
def Fld.MC_TIMING1_TRRD_L : Fld := ⟨55, 48⟩
/-- MC_TIMING1.TCCD_S. -/
def Fld.MC_TIMING1_TCCD_S : Fld := ⟨47, 40⟩
/-- MC_TIMING1.TCCD_L. -/
def Fld.MC_TIMING1_TCCD_L : Fld := ⟨39, 32⟩
/-- MC_TIMING1.TCCD_L_WR. -/
def Fld.MC_TIMING1_TCCD_L_WR : Fld := ⟨31, 24⟩
/-- MC_TIMING1.TWTR_S. -/
def Fld.MC_TIMING1_TWTR_S : Fld := ⟨23, 16⟩
/-- MC_TIMING1.TWTR_L. -/
def Fld.MC_TIMING1_TWTR_L : Fld := ⟨15, 8⟩
/-- MC_TIMING1.TRTP. -/
def Fld.MC_TIMING1_TRTP : Fld := ⟨7, 0⟩
/-- MC_TIMING2.TFAW. -/
def Fld.MC_TIMING2_TFAW : Fld := ⟨63, 56⟩
/-- MC_TIMING2.TWR. -/
def Fld.MC_TIMING2_TWR : Fld := ⟨55, 48⟩
/-- MC_TIMING2.TRFCSB. -/
def Fld.MC_TIMING2_TRFCSB : Fld := ⟨47, 32⟩
/-- MC_TIMING2.TRFC1. -/
def Fld.MC_TIMING2_TRFC1 : Fld := ⟨31, 16⟩
/-- MC_TIMING2.TREFI. -/
def Fld.MC_TIMING2_TREFI : Fld := ⟨15, 0⟩
/-- MC_TIMING3.TXS. -/
def Fld.MC_TIMING3_TXS : Fld := ⟨63, 48⟩
/-- MC_TIMING3.TMRD. -/
def Fld.MC_TIMING3_TMRD : Fld := ⟨47, 40⟩
/-- MC_TIMING3.TRTRS. -/
def Fld.MC_TIMING3_TRTRS : Fld := ⟨39, 32⟩
/-- MC_SWATCH_CTL.BUSY. -/
def Fld.MC_SWATCH_CTL_BUSY : Fld := ⟨63, 63⟩
/-- MC_SWATCH_CTL.GO. -/
def Fld.MC_SWATCH_CTL_GO : Fld := ⟨62, 62⟩
/-- MC_SWATCH_CTL.MODE. -/
def Fld.MC_SWATCH_CTL_MODE : Fld := ⟨61, 60⟩
/-- MC_SWATCH_CTL.PAT. -/
def Fld.MC_SWATCH_CTL_PAT : Fld := ⟨59, 58⟩
/-- MC_SWATCH_CTL.SUB. -/
def Fld.MC_SWATCH_CTL_SUB : Fld := ⟨57, 56⟩
/-- MC_SWATCH_CTL.RANK. -/
def Fld.MC_SWATCH_CTL_RANK : Fld := ⟨55, 53⟩
/-- MC_SWATCH_CTL.BURSTS. -/
def Fld.MC_SWATCH_CTL_BURSTS : Fld := ⟨31, 0⟩
/-- MC_SWATCH_PAT.PATTERN. -/
def Fld.MC_SWATCH_PAT_PATTERN : Fld := ⟨63, 0⟩
/-- MC_SWATCH_SCAN.EN. -/
def Fld.MC_SWATCH_SCAN_EN : Fld := ⟨63, 63⟩
/-- MC_SWATCH_SCAN.TARGET. -/
def Fld.MC_SWATCH_SCAN_TARGET : Fld := ⟨62, 60⟩
/-- MC_SWATCH_SCAN.BIT. -/
def Fld.MC_SWATCH_SCAN_BIT : Fld := ⟨54, 48⟩
/-- MC_SWATCH_SCAN.CODE. -/
def Fld.MC_SWATCH_SCAN_CODE : Fld := ⟨6, 0⟩
/-- MC_SWATCH_ERR.COUNT. -/
def Fld.MC_SWATCH_ERR_COUNT : Fld := ⟨63, 0⟩
/-- MC_CE_BUCKET.LEVEL. -/
def Fld.MC_CE_BUCKET_LEVEL : Fld := ⟨63, 0⟩
/-- MC_CE_OVF.ARMED. -/
def Fld.MC_CE_OVF_ARMED : Fld := ⟨15, 8⟩
/-- MC_CE_OVF.OVF. -/
def Fld.MC_CE_OVF_OVF : Fld := ⟨7, 0⟩
/-- MC_LAST_CE.VALID. -/
def Fld.MC_LAST_CE_VALID : Fld := ⟨63, 63⟩
/-- MC_LAST_CE.DEVICE. -/
def Fld.MC_LAST_CE_DEVICE : Fld := ⟨61, 58⟩
/-- MC_LAST_CE.RANK. -/
def Fld.MC_LAST_CE_RANK : Fld := ⟨57, 55⟩
/-- MC_LAST_CE.SUB. -/
def Fld.MC_LAST_CE_SUB : Fld := ⟨54, 54⟩
/-- MC_LAST_CE.LINE. -/
def Fld.MC_LAST_CE_LINE : Fld := ⟨45, 0⟩
/-- MC_LAST_CE_BITS.BITS. -/
def Fld.MC_LAST_CE_BITS_BITS : Fld := ⟨63, 0⟩
/-- MC_LAST_UE.VALID. -/
def Fld.MC_LAST_UE_VALID : Fld := ⟨63, 63⟩
/-- MC_LAST_UE.KIND. -/
def Fld.MC_LAST_UE_KIND : Fld := ⟨62, 60⟩
/-- MC_LAST_UE.RANK. -/
def Fld.MC_LAST_UE_RANK : Fld := ⟨57, 55⟩
/-- MC_LAST_UE.SUB. -/
def Fld.MC_LAST_UE_SUB : Fld := ⟨54, 54⟩
/-- MC_LAST_UE.LINE. -/
def Fld.MC_LAST_UE_LINE : Fld := ⟨45, 0⟩
/-- MC_DSCRUB_BASE.BASE. -/
def Fld.MC_DSCRUB_BASE_BASE : Fld := ⟨51, 6⟩
/-- MC_DSCRUB_LEN.LINES. -/
def Fld.MC_DSCRUB_LEN_LINES : Fld := ⟨39, 0⟩
/-- MC_DSCRUB_CTL.BUSY. -/
def Fld.MC_DSCRUB_CTL_BUSY : Fld := ⟨63, 63⟩
/-- MC_DSCRUB_CTL.GO. -/
def Fld.MC_DSCRUB_CTL_GO : Fld := ⟨62, 62⟩
/-- MC_DSCRUB_CTL.ABORT. -/
def Fld.MC_DSCRUB_CTL_ABORT : Fld := ⟨61, 61⟩
/-- MC_DSCRUB_CTL.RESULT. -/
def Fld.MC_DSCRUB_CTL_RESULT : Fld := ⟨3, 0⟩
/-- MC_DSCRUB_SUM0.READ. -/
def Fld.MC_DSCRUB_SUM0_READ : Fld := ⟨63, 32⟩
/-- MC_DSCRUB_SUM0.ZERO. -/
def Fld.MC_DSCRUB_SUM0_ZERO : Fld := ⟨31, 0⟩
/-- MC_DSCRUB_SUM1.CORR. -/
def Fld.MC_DSCRUB_SUM1_CORR : Fld := ⟨63, 48⟩
/-- MC_DSCRUB_SUM1.UNCORR. -/
def Fld.MC_DSCRUB_SUM1_UNCORR : Fld := ⟨47, 32⟩
/-- MC_DSCRUB_SUM1.LOST. -/
def Fld.MC_DSCRUB_SUM1_LOST : Fld := ⟨31, 16⟩
/-- MC_DSCRUB_FIRST.VALID. -/
def Fld.MC_DSCRUB_FIRST_VALID : Fld := ⟨63, 63⟩
/-- MC_DSCRUB_FIRST.LINE. -/
def Fld.MC_DSCRUB_FIRST_LINE : Fld := ⟨51, 6⟩
/-- MC_DSCRUB_LAST.VALID. -/
def Fld.MC_DSCRUB_LAST_VALID : Fld := ⟨63, 63⟩
/-- MC_DSCRUB_LAST.LINE. -/
def Fld.MC_DSCRUB_LAST_LINE : Fld := ⟨51, 6⟩
/-- MC_PATROL.PASSES. -/
def Fld.MC_PATROL_PASSES : Fld := ⟨63, 32⟩
/-- MC_PATROL.POS. -/
def Fld.MC_PATROL_POS : Fld := ⟨31, 0⟩
/-- MC_ZMAP_STAT.FILLS. -/
def Fld.MC_ZMAP_STAT_FILLS : Fld := ⟨63, 56⟩
/-- MC_ZMAP_STAT.WAITS. -/
def Fld.MC_ZMAP_STAT_WAITS : Fld := ⟨47, 32⟩
/-- MC_ZMAP_STAT.ZREADS. -/
def Fld.MC_ZMAP_STAT_ZREADS : Fld := ⟨31, 0⟩
/-- SKN_STATE.FUNC. -/
def Fld.SKN_STATE_FUNC : Fld := ⟨63, 62⟩
/-- SKN_STATE.WIDTH. -/
def Fld.SKN_STATE_WIDTH : Fld := ⟨61, 60⟩
/-- SKN_STATE.UP. -/
def Fld.SKN_STATE_UP : Fld := ⟨59, 56⟩
/-- SKN_STATE.CXLV. -/
def Fld.SKN_STATE_CXLV : Fld := ⟨55, 52⟩
/-- SKN_STATE.CXLNUM. -/
def Fld.SKN_STATE_CXLNUM : Fld := ⟨47, 32⟩
/-- SKN_STATE.PVALID. -/
def Fld.SKN_STATE_PVALID : Fld := ⟨26, 26⟩
/-- SKN_STATE.PEER. -/
def Fld.SKN_STATE_PEER : Fld := ⟨25, 24⟩
/-- SKN_BRX.GEN. -/
def Fld.SKN_BRX_GEN : Fld := ⟨63, 60⟩
/-- SKN_BRX.RETRAIN. -/
def Fld.SKN_BRX_RETRAIN : Fld := ⟨55, 48⟩
/-- SKN_BRX.REPLAY. -/
def Fld.SKN_BRX_REPLAY : Fld := ⟨47, 32⟩
/-- SKN_BRX.LATE. -/
def Fld.SKN_BRX_LATE : Fld := ⟨31, 16⟩
/-- SKN_BRX.RETRY. -/
def Fld.SKN_BRX_RETRY : Fld := ⟨15, 0⟩
/-- IOS_STAT.FAULTS. -/
def Fld.IOS_STAT_FAULTS : Fld := ⟨63, 32⟩
/-- IOS_STAT.ATSTO. -/
def Fld.IOS_STAT_ATSTO : Fld := ⟨31, 16⟩
/-- IOS_STAT.CONTAIN. -/
def Fld.IOS_STAT_CONTAIN : Fld := ⟨15, 0⟩
/-- IOS_CTX_ROOT.EN. -/
def Fld.IOS_CTX_ROOT_EN : Fld := ⟨63, 63⟩
/-- IOS_CTX_ROOT.ROOT. -/
def Fld.IOS_CTX_ROOT_ROOT : Fld := ⟨51, 11⟩
/-- IOS_CTX_INV.BUSY. -/
def Fld.IOS_CTX_INV_BUSY : Fld := ⟨63, 63⟩
/-- IOS_CTX_INV.GO. -/
def Fld.IOS_CTX_INV_GO : Fld := ⟨62, 62⟩
/-- IOS_CTX_INV.LAST. -/
def Fld.IOS_CTX_INV_LAST : Fld := ⟨31, 16⟩
/-- IOS_CTX_INV.FIRST. -/
def Fld.IOS_CTX_INV_FIRST : Fld := ⟨15, 0⟩
/-- IOS_FAULT.VALID. -/
def Fld.IOS_FAULT_VALID : Fld := ⟨63, 63⟩
/-- IOS_FAULT.REASON. -/
def Fld.IOS_FAULT_REASON : Fld := ⟨62, 59⟩
/-- IOS_FAULT.WCODE. -/
def Fld.IOS_FAULT_WCODE : Fld := ⟨58, 48⟩
/-- IOS_FAULT.RID. -/
def Fld.IOS_FAULT_RID : Fld := ⟨47, 32⟩
/-- IOS_FAULT_ADDR.ADDR. -/
def Fld.IOS_FAULT_ADDR_ADDR : Fld := ⟨63, 0⟩
/-- IOS_ATS_LOG.VALID. -/
def Fld.IOS_ATS_LOG_VALID : Fld := ⟨63, 63⟩
/-- IOS_ATS_LOG.PORT. -/
def Fld.IOS_ATS_LOG_PORT : Fld := ⟨46, 40⟩
/-- IOS_ATS_LOG.TENANT. -/
def Fld.IOS_ATS_LOG_TENANT : Fld := ⟨31, 16⟩
/-- IOS_ATS_LOG.RID. -/
def Fld.IOS_ATS_LOG_RID : Fld := ⟨15, 0⟩
/-- IOS_OWIN_RANGE.EN. -/
def Fld.IOS_OWIN_RANGE_EN : Fld := ⟨63, 63⟩
/-- IOS_OWIN_RANGE.RELAX. -/
def Fld.IOS_OWIN_RANGE_RELAX : Fld := ⟨62, 62⟩
/-- IOS_OWIN_RANGE.PORT. -/
def Fld.IOS_OWIN_RANGE_PORT : Fld := ⟨61, 58⟩
/-- IOS_OWIN_RANGE.LIMIT. -/
def Fld.IOS_OWIN_RANGE_LIMIT : Fld := ⟨51, 26⟩
/-- IOS_OWIN_RANGE.BASE. -/
def Fld.IOS_OWIN_RANGE_BASE : Fld := ⟨25, 0⟩
/-- IOS_OWIN_XLATE.BUSBASE. -/
def Fld.IOS_OWIN_XLATE_BUSBASE : Fld := ⟨63, 16⟩
/-- INST_ID.STATE. -/
def Fld.INST_ID_STATE : Fld := ⟨63, 61⟩
/-- INST_ID.NQ. -/
def Fld.INST_ID_NQ : Fld := ⟨22, 16⟩
/-- INST_ID.INSTANCE. -/
def Fld.INST_ID_INSTANCE : Fld := ⟨11, 0⟩
/-- INST_STAT.BADDB. -/
def Fld.INST_STAT_BADDB : Fld := ⟨63, 32⟩
/-- INST_STAT.QERR. -/
def Fld.INST_STAT_QERR : Fld := ⟨15, 0⟩
/-- MBOX_CTL.TXFULL. -/
def Fld.MBOX_CTL_TXFULL : Fld := ⟨63, 63⟩
/-- MBOX_CTL.TXGO. -/
def Fld.MBOX_CTL_TXGO : Fld := ⟨62, 62⟩
/-- MBOX_CTL.RXFULL. -/
def Fld.MBOX_CTL_RXFULL : Fld := ⟨61, 61⟩
/-- MBOX_CTL.RXACK. -/
def Fld.MBOX_CTL_RXACK : Fld := ⟨60, 60⟩
/-- Q_WMSTAT.LEVEL. -/
def Fld.Q_WMSTAT_LEVEL : Fld := ⟨63, 63⟩
/-- Q_WMSTAT.CROSSED. -/
def Fld.Q_WMSTAT_CROSSED : Fld := ⟨62, 62⟩
/-- Q_WMSTAT.COUNT. -/
def Fld.Q_WMSTAT_COUNT : Fld := ⟨15, 0⟩
/-- Q_SQ.BASE. -/
def Fld.Q_SQ_BASE : Fld := ⟨63, 12⟩
/-- Q_SQ.EN. -/
def Fld.Q_SQ_EN : Fld := ⟨11, 11⟩
/-- Q_SQ.CLASS. -/
def Fld.Q_SQ_CLASS : Fld := ⟨10, 8⟩
/-- Q_SQ.SLOG. -/
def Fld.Q_SQ_SLOG : Fld := ⟨4, 0⟩
/-- Q_CQ.BASE. -/
def Fld.Q_CQ_BASE : Fld := ⟨63, 12⟩
/-- Q_CQ.CLOG. -/
def Fld.Q_CQ_CLOG : Fld := ⟨4, 0⟩
/-- Q_DB.CQHEAD. -/
def Fld.Q_DB_CQHEAD : Fld := ⟨63, 32⟩
/-- Q_DB.SQTAIL. -/
def Fld.Q_DB_SQTAIL : Fld := ⟨31, 0⟩
/-- Q_STAT.CQWM. -/
def Fld.Q_STAT_CQWM : Fld := ⟨63, 48⟩
/-- Q_STAT.QSTATE. -/
def Fld.Q_STAT_QSTATE : Fld := ⟨47, 46⟩
/-- Q_STAT.SQHEAD. -/
def Fld.Q_STAT_SQHEAD : Fld := ⟨31, 0⟩
/-- DEN_STAT.LANES. -/
def Fld.DEN_STAT_LANES : Fld := ⟨63, 56⟩
/-- DEN_STAT.SLOTS. -/
def Fld.DEN_STAT_SLOTS : Fld := ⟨40, 32⟩
/-- DEN_STAT.SPILLS. -/
def Fld.DEN_STAT_SPILLS : Fld := ⟨31, 0⟩
/-- DEN_ERR.REPLAY. -/
def Fld.DEN_ERR_REPLAY : Fld := ⟨63, 48⟩
/-- DEN_ERR.FAILED. -/
def Fld.DEN_ERR_FAILED : Fld := ⟨47, 32⟩
/-- DEN_ICTL.STATE. -/
def Fld.DEN_ICTL_STATE : Fld := ⟨63, 61⟩
/-- DEN_ICTL.CSTAT. -/
def Fld.DEN_ICTL_CSTAT : Fld := ⟨55, 48⟩
/-- DEN_ICTL.NQ. -/
def Fld.DEN_ICTL_NQ : Fld := ⟨38, 32⟩
/-- DEN_ICTL.CMD. -/
def Fld.DEN_ICTL_CMD : Fld := ⟨2, 0⟩
/-- DEN_IID.KEYID. -/
def Fld.DEN_IID_KEYID : Fld := ⟨26, 16⟩
/-- DEN_IID.TENANT. -/
def Fld.DEN_IID_TENANT : Fld := ⟨15, 0⟩
/-- DEN_ISAVE.ADDR. -/
def Fld.DEN_ISAVE_ADDR : Fld := ⟨51, 11⟩
/-- DEN_IMBOX.TXFULL. -/
def Fld.DEN_IMBOX_TXFULL : Fld := ⟨63, 63⟩
/-- DEN_IMBOX.TXACK. -/
def Fld.DEN_IMBOX_TXACK : Fld := ⟨62, 62⟩
/-- DEN_IMBOX.RXFULL. -/
def Fld.DEN_IMBOX_RXFULL : Fld := ⟨61, 61⟩
/-- DEN_IMBOX.RXGO. -/
def Fld.DEN_IMBOX_RXGO : Fld := ⟨60, 60⟩
/-- DEN_IMBOX.SPOOF. -/
def Fld.DEN_IMBOX_SPOOF : Fld := ⟨31, 0⟩
/-- EVC_CTL.FALLBACK. -/
def Fld.EVC_CTL_FALLBACK : Fld := ⟨7, 0⟩
/-- EVC_MTAB.EN. -/
def Fld.EVC_MTAB_EN : Fld := ⟨63, 63⟩
/-- EVC_MTAB.BASE. -/
def Fld.EVC_MTAB_BASE : Fld := ⟨51, 12⟩
/-- EVC_PDT.EN. -/
def Fld.EVC_PDT_EN : Fld := ⟨63, 63⟩
/-- EVC_PDT.BASE. -/
def Fld.EVC_PDT_BASE : Fld := ⟨51, 12⟩
/-- EVC_EQ_BASE.EN. -/
def Fld.EVC_EQ_BASE_EN : Fld := ⟨63, 63⟩
/-- EVC_EQ_BASE.BASE. -/
def Fld.EVC_EQ_BASE_BASE : Fld := ⟨51, 12⟩
/-- EVC_EQ_BASE.LOG. -/
def Fld.EVC_EQ_BASE_LOG : Fld := ⟨4, 0⟩
/-- EVC_MTINV.ID. -/
def Fld.EVC_MTINV_ID : Fld := ⟨19, 0⟩
/-- EVC_WMWIN.EQ. -/
def Fld.EVC_WMWIN_EQ : Fld := ⟨59, 48⟩
/-- EVC_WMWIN.CQ. -/
def Fld.EVC_WMWIN_CQ : Fld := ⟨47, 36⟩
/-- EVC_WMWIN.JRNL. -/
def Fld.EVC_WMWIN_JRNL : Fld := ⟨35, 24⟩
/-- EVC_WMWIN.TRACE. -/
def Fld.EVC_WMWIN_TRACE : Fld := ⟨23, 12⟩
/-- EVC_WMWIN.ELOG. -/
def Fld.EVC_WMWIN_ELOG : Fld := ⟨11, 0⟩
/-- EVC_STAT.BADMSG. -/
def Fld.EVC_STAT_BADMSG : Fld := ⟨63, 48⟩
/-- EVC_STAT.DISABLED. -/
def Fld.EVC_STAT_DISABLED : Fld := ⟨47, 32⟩
/-- EVC_STAT.SRCFAIL. -/
def Fld.EVC_STAT_SRCFAIL : Fld := ⟨31, 16⟩
/-- EVC_STAT.BADEOI. -/
def Fld.EVC_STAT_BADEOI : Fld := ⟨15, 0⟩
/-- EVC_EQ_IDX.HEAD. -/
def Fld.EVC_EQ_IDX_HEAD : Fld := ⟨63, 32⟩
/-- EVC_EQ_IDX.TAIL. -/
def Fld.EVC_EQ_IDX_TAIL : Fld := ⟨31, 0⟩
/-- EVC_EQ_WM.LEVEL. -/
def Fld.EVC_EQ_WM_LEVEL : Fld := ⟨63, 63⟩
/-- EVC_EQ_WM.CROSSED. -/
def Fld.EVC_EQ_WM_CROSSED : Fld := ⟨62, 62⟩
/-- EVC_EQ_WM.OVF. -/
def Fld.EVC_EQ_WM_OVF : Fld := ⟨61, 61⟩
/-- EVC_EQ_WM.RESCAN. -/
def Fld.EVC_EQ_WM_RESCAN : Fld := ⟨60, 60⟩
/-- EVC_EQ_WM.THRESH. -/
def Fld.EVC_EQ_WM_THRESH : Fld := ⟨47, 32⟩
/-- EVC_EQ_WM.COUNT. -/
def Fld.EVC_EQ_WM_COUNT : Fld := ⟨15, 0⟩
/-- EVC_RWM.LEVEL. -/
def Fld.EVC_RWM_LEVEL : Fld := ⟨63, 63⟩
/-- EVC_RWM.CROSSED. -/
def Fld.EVC_RWM_CROSSED : Fld := ⟨62, 62⟩
/-- EVC_RWM.THRESH. -/
def Fld.EVC_RWM_THRESH : Fld := ⟨47, 32⟩
/-- EVC_RWM.COUNT. -/
def Fld.EVC_RWM_COUNT : Fld := ⟨15, 0⟩
/-- EVC_INST_MSG.EN. -/
def Fld.EVC_INST_MSG_EN : Fld := ⟨63, 63⟩
/-- EVC_INST_MSG.BASE. -/
def Fld.EVC_INST_MSG_BASE : Fld := ⟨19, 0⟩
/-- EVC_MSGDB.DB. -/
def Fld.EVC_MSGDB_DB : Fld := ⟨63, 0⟩
/-- PWR_DOM.STATE. -/
def Fld.PWR_DOM_STATE : Fld := ⟨63, 62⟩
/-- PWR_DOM.REQ. -/
def Fld.PWR_DOM_REQ : Fld := ⟨61, 60⟩
/-- PWR_DOM.AUTO. -/
def Fld.PWR_DOM_AUTO : Fld := ⟨59, 59⟩
/-- PWR_DOM.HOLD. -/
def Fld.PWR_DOM_HOLD : Fld := ⟨58, 58⟩
/-- PWR_DOM.SFAULT. -/
def Fld.PWR_DOM_SFAULT : Fld := ⟨57, 57⟩
/-- PWR_DOM.LASTREF. -/
def Fld.PWR_DOM_LASTREF : Fld := ⟨51, 48⟩
/-- PWR_DOM.REFUSED. -/
def Fld.PWR_DOM_REFUSED : Fld := ⟨31, 16⟩
/-- PWR_DOM.ABORTED. -/
def Fld.PWR_DOM_ABORTED : Fld := ⟨15, 0⟩
/-- PWR_VSET.BUSY. -/
def Fld.PWR_VSET_BUSY : Fld := ⟨63, 63⟩
/-- PWR_VSET.ROLLBACK. -/
def Fld.PWR_VSET_ROLLBACK : Fld := ⟨62, 62⟩
/-- PWR_VSET.PREV. -/
def Fld.PWR_VSET_PREV : Fld := ⟨41, 32⟩
/-- PWR_VSET.THR. -/
def Fld.PWR_VSET_THR : Fld := ⟨31, 28⟩
/-- PWR_VSET.TARGET. -/
def Fld.PWR_VSET_TARGET : Fld := ⟨25, 16⟩
/-- PWR_VSET.NOW. -/
def Fld.PWR_VSET_NOW : Fld := ⟨9, 0⟩
/-- PWR_SENSE.SFAULT. -/
def Fld.PWR_SENSE_SFAULT : Fld := ⟨63, 63⟩
/-- PWR_SENSE.KIND. -/
def Fld.PWR_SENSE_KIND : Fld := ⟨62, 60⟩
/-- PWR_SENSE.DMON. -/
def Fld.PWR_SENSE_DMON : Fld := ⟨59, 50⟩
/-- PWR_SENSE.SENSE. -/
def Fld.PWR_SENSE_SENSE : Fld := ⟨41, 32⟩
/-- PWR_SENSE.TESTFAIL. -/
def Fld.PWR_SENSE_TESTFAIL : Fld := ⟨31, 16⟩
/-- PWR_SENSE.TJ. -/
def Fld.PWR_SENSE_TJ : Fld := ⟨7, 0⟩
/-- PWR_STAT.REEF. -/
def Fld.PWR_STAT_REEF : Fld := ⟨63, 63⟩
/-- PWR_STAT.REEFPIN. -/
def Fld.PWR_STAT_REEFPIN : Fld := ⟨62, 62⟩
/-- PWR_STAT.REASON. -/
def Fld.PWR_STAT_REASON : Fld := ⟨55, 48⟩
/-- PWR_STAT.LIMIT. -/
def Fld.PWR_STAT_LIMIT : Fld := ⟨47, 32⟩
/-- PWR_STAT.P100. -/
def Fld.PWR_STAT_P100 : Fld := ⟨31, 16⟩
/-- PWR_STAT.TJMAX. -/
def Fld.PWR_STAT_TJMAX : Fld := ⟨15, 8⟩
/-- PWR_SAFE.FOA. -/
def Fld.PWR_SAFE_FOA : Fld := ⟨63, 63⟩
/-- PWR_SAFE.FOB. -/
def Fld.PWR_SAFE_FOB : Fld := ⟨62, 62⟩
/-- PWR_SAFE.DISAGREE. -/
def Fld.PWR_SAFE_DISAGREE : Fld := ⟨61, 61⟩
/-- PWR_SAFE.NEAR. -/
def Fld.PWR_SAFE_NEAR : Fld := ⟨47, 32⟩
/-- PWR_SAFE.DTIME. -/
def Fld.PWR_SAFE_DTIME : Fld := ⟨4, 0⟩
/-- PWR_WAKE_PC.PC. -/
def Fld.PWR_WAKE_PC_PC : Fld := ⟨51, 2⟩
/-- STW_STAT.RUN. -/
def Fld.STW_STAT_RUN : Fld := ⟨63, 63⟩
/-- STW_STAT.VERSION. -/
def Fld.STW_STAT_VERSION : Fld := ⟨47, 32⟩
/-- STW_STAT.RESTART. -/
def Fld.STW_STAT_RESTART : Fld := ⟨31, 16⟩
/-- STW_STAT.SFAULTS. -/
def Fld.STW_STAT_SFAULTS : Fld := ⟨15, 0⟩
/-- ODM_MB_CTL.BUSY. -/
def Fld.ODM_MB_CTL_BUSY : Fld := ⟨63, 63⟩
/-- ODM_MB_CTL.GO. -/
def Fld.ODM_MB_CTL_GO : Fld := ⟨62, 62⟩
/-- ODM_MB_CTL.DONE. -/
def Fld.ODM_MB_CTL_DONE : Fld := ⟨61, 61⟩
/-- ODM_MB_CTL.IE. -/
def Fld.ODM_MB_CTL_IE : Fld := ⟨60, 60⟩
/-- ODM_CTL.BADTOK. -/
def Fld.ODM_CTL_BADTOK : Fld := ⟨63, 48⟩
/-- ODM_CTL.HFWLOCKED. -/
def Fld.ODM_CTL_HFWLOCKED : Fld := ⟨1, 1⟩
/-- ODM_CTL.HFWCLOSE. -/
def Fld.ODM_CTL_HFWCLOSE : Fld := ⟨0, 0⟩
/-- ODM_RCAUSE_SOC.PWRGOOD. -/
def Fld.ODM_RCAUSE_SOC_PWRGOOD : Fld := ⟨15, 15⟩
/-- ODM_RCAUSE_SOC.PIN. -/
def Fld.ODM_RCAUSE_SOC_PIN : Fld := ⟨14, 14⟩
/-- ODM_RCAUSE_SOC.REQCOLD. -/
def Fld.ODM_RCAUSE_SOC_REQCOLD : Fld := ⟨13, 13⟩
/-- ODM_RCAUSE_SOC.REQWARM. -/
def Fld.ODM_RCAUSE_SOC_REQWARM : Fld := ⟨12, 12⟩
/-- ODM_RCAUSE_SOC.PREV_CASTOFF. -/
def Fld.ODM_RCAUSE_SOC_PREV_CASTOFF : Fld := ⟨4, 4⟩
/-- ODM_RCAUSE_SOC.PREV_FATAL. -/
def Fld.ODM_RCAUSE_SOC_PREV_FATAL : Fld := ⟨3, 3⟩
/-- ODM_RCAUSE_SOC.PREV_THERMTRIP. -/
def Fld.ODM_RCAUSE_SOC_PREV_THERMTRIP : Fld := ⟨2, 2⟩
/-- ODM_RCAUSE_SOC.PREV_FORCEOFF. -/
def Fld.ODM_RCAUSE_SOC_PREV_FORCEOFF : Fld := ⟨1, 1⟩
/-- ODM_RCAUSE_SOC.PREV_CUT. -/
def Fld.ODM_RCAUSE_SOC_PREV_CUT : Fld := ⟨0, 0⟩
/-- ODM_RCAUSE.REPAIR. -/
def Fld.ODM_RCAUSE_REPAIR : Fld := ⟨3, 3⟩
/-- ODM_RCAUSE.WAKE. -/
def Fld.ODM_RCAUSE_WAKE : Fld := ⟨2, 2⟩
/-- ODM_RCAUSE.WARM. -/
def Fld.ODM_RCAUSE_WARM : Fld := ⟨1, 1⟩
/-- ODM_RCAUSE.COLD. -/
def Fld.ODM_RCAUSE_COLD : Fld := ⟨0, 0⟩
/-- ERB_GLOBAL.PIN_FATAL. -/
def Fld.ERB_GLOBAL_PIN_FATAL : Fld := ⟨63, 63⟩
/-- ERB_GLOBAL.PIN_UC. -/
def Fld.ERB_GLOBAL_PIN_UC : Fld := ⟨62, 62⟩
/-- ERB_GLOBAL.PIN_CE. -/
def Fld.ERB_GLOBAL_PIN_CE : Fld := ⟨61, 61⟩
/-- ERB_GLOBAL.RECORDS. -/
def Fld.ERB_GLOBAL_RECORDS : Fld := ⟨31, 0⟩
/-- ERB_LOG_BASE.EN. -/
def Fld.ERB_LOG_BASE_EN : Fld := ⟨63, 63⟩
/-- ERB_LOG_BASE.CE. -/
def Fld.ERB_LOG_BASE_CE : Fld := ⟨62, 62⟩
/-- ERB_LOG_BASE.BASE. -/
def Fld.ERB_LOG_BASE_BASE : Fld := ⟨51, 12⟩
/-- ERB_LOG_BASE.LOG. -/
def Fld.ERB_LOG_BASE_LOG : Fld := ⟨4, 0⟩
/-- ERB_LOG_IDX.SW. -/
def Fld.ERB_LOG_IDX_SW : Fld := ⟨63, 32⟩
/-- ERB_LOG_IDX.DEV. -/
def Fld.ERB_LOG_IDX_DEV : Fld := ⟨31, 0⟩
/-- ERB_LOG_STAT.DROPPED. -/
def Fld.ERB_LOG_STAT_DROPPED : Fld := ⟨63, 32⟩
/-- ERB_LOG_STAT.PLOST. -/
def Fld.ERB_LOG_STAT_PLOST : Fld := ⟨31, 16⟩
/-- ERB_STATUS.VALID. -/
def Fld.ERB_STATUS_VALID : Fld := ⟨63, 63⟩
/-- ERB_STATUS.OVER. -/
def Fld.ERB_STATUS_OVER : Fld := ⟨62, 62⟩
/-- ERB_STATUS.CLASS. -/
def Fld.ERB_STATUS_CLASS : Fld := ⟨61, 59⟩
/-- ERB_STATUS.AVALID. -/
def Fld.ERB_STATUS_AVALID : Fld := ⟨58, 58⟩
/-- ERB_STATUS.CODE. -/
def Fld.ERB_STATUS_CODE : Fld := ⟨47, 32⟩
/-- ERB_STATUS.COUNT. -/
def Fld.ERB_STATUS_COUNT : Fld := ⟨31, 16⟩
/-- ERB_STATUS.UNIT. -/
def Fld.ERB_STATUS_UNIT : Fld := ⟨8, 0⟩
/-- ERB_ADDR.ADDR. -/
def Fld.ERB_ADDR_ADDR : Fld := ⟨51, 0⟩
/-- ERB_SYND.SYND. -/
def Fld.ERB_SYND_SYND : Fld := ⟨63, 0⟩
/-- ERB_MISC.LVALID. -/
def Fld.ERB_MISC_LVALID : Fld := ⟨15, 15⟩
/-- ERB_MISC.LOGICAL. -/
def Fld.ERB_MISC_LOGICAL : Fld := ⟨7, 0⟩
/-- EVC_WROUTE.EN. -/
def Fld.EVC_WROUTE_EN : Fld := ⟨63, 63⟩
/-- EVC_WROUTE.PEND. -/
def Fld.EVC_WROUTE_PEND : Fld := ⟨62, 62⟩
/-- EVC_WROUTE.ACT. -/
def Fld.EVC_WROUTE_ACT : Fld := ⟨61, 61⟩
/-- EVC_WROUTE.VIRT. -/
def Fld.EVC_WROUTE_VIRT : Fld := ⟨60, 60⟩
/-- EVC_WROUTE.SRCCHK. -/
def Fld.EVC_WROUTE_SRCCHK : Fld := ⟨59, 59⟩
/-- EVC_WROUTE.PRI. -/
def Fld.EVC_WROUTE_PRI : Fld := ⟨55, 48⟩
/-- EVC_WROUTE.RID. -/
def Fld.EVC_WROUTE_RID : Fld := ⟨47, 32⟩
/-- EVC_WROUTE.GVEC. -/
def Fld.EVC_WROUTE_GVEC : Fld := ⟨31, 24⟩
/-- EVC_WROUTE.TARGET. -/
def Fld.EVC_WROUTE_TARGET : Fld := ⟨19, 0⟩
/-- DEN_ISEG.LAST. -/
def Fld.DEN_ISEG_LAST : Fld := ⟨55, 40⟩
/-- DEN_ISEG.BASE. -/
def Fld.DEN_ISEG_BASE : Fld := ⟨39, 0⟩
/-- MBOX_TX.DATA. -/
def Fld.MBOX_TX_DATA : Fld := ⟨63, 0⟩
/-- MBOX_RX.DATA. -/
def Fld.MBOX_RX_DATA : Fld := ⟨63, 0⟩
/-- ODM_MB_REQ.DATA. -/
def Fld.ODM_MB_REQ_DATA : Fld := ⟨63, 0⟩
/-- DEN_VTX.DATA. -/
def Fld.DEN_VTX_DATA : Fld := ⟨63, 0⟩
/-- DEN_VRX.DATA. -/
def Fld.DEN_VRX_DATA : Fld := ⟨63, 0⟩
/-- ODM_MB_RSP.DATA. -/
def Fld.ODM_MB_RSP_DATA : Fld := ⟨63, 0⟩

/-- The offset of a register from the control-space base CSB (R27). -/
def Reg.offset : Reg → Nat
  | .coreIdent c => 0x0 + c * 0x8000
  | .coreState c => 0x8 + c * 0x8000
  | .coreRangeStatus c => 0x10 + c * 0x8000
  | .coreUcode c => 0x100 + c * 0x8000
  | .coreReplay c => 0x108 + c * 0x8000
  | .corePrefetch c => 0x110 + c * 0x8000
  | .coreXlate c => 0x2000 + c * 0x8000
  | .corePnl c => 0x3000 + c * 0x8000
  | .corePnlStat c => 0x3008 + c * 0x8000
  | .slcState n => 0x1000000 + n * 0x10000
  | .slcCos n k => 0x1000100 + n * 0x10000 + k * 0x8
  | .slcCosCore n k => 0x1000200 + n * 0x10000 + k * 0x8
  | .slcSpadCtl n => 0x1000300 + n * 0x10000
  | .slcSpadStat n => 0x1000308 + n * 0x10000
  | .slcSpadColl n => 0x1000310 + n * 0x10000
  | .slcMarchCtl n => 0x1000400 + n * 0x10000
  | .slcMarchStat n => 0x1000408 + n * 0x10000
  | .slcRebuild n => 0x1000500 + n * 0x10000
  | .dirStat n => 0x1008000 + n * 0x10000
  | .dirEpoch n k => 0x1008100 + n * 0x10000 + k * 0x8
  | .dirDead n => 0x1008300 + n * 0x10000
  | .mcCtl n => 0x2000000 + n * 0x100000
  | .mcErrcnt n => 0x2000008 + n * 0x100000
  | .mcTimingA0 n => 0x2000100 + n * 0x100000
  | .mcTimingA1 n => 0x2000108 + n * 0x100000
  | .mcTimingA2 n => 0x2000110 + n * 0x100000
  | .mcTimingA3 n => 0x2000118 + n * 0x100000
  | .mcTimingB0 n => 0x2000120 + n * 0x100000
  | .mcTimingB1 n => 0x2000128 + n * 0x100000
  | .mcTimingB2 n => 0x2000130 + n * 0x100000
  | .mcTimingB3 n => 0x2000138 + n * 0x100000
  | .mcSwatchCtl n => 0x2000200 + n * 0x100000
  | .mcSwatchPat n => 0x2000208 + n * 0x100000
  | .mcSwatchScan n => 0x2000210 + n * 0x100000
  | .mcSwatchErr n k => 0x2000280 + n * 0x100000 + k * 0x8
  | .mcCeBucket n => 0x2000400 + n * 0x100000
  | .mcCeOvf n => 0x2000408 + n * 0x100000
  | .mcLastCe n => 0x2000410 + n * 0x100000
  | .mcLastCeBits n => 0x2000418 + n * 0x100000
  | .mcLastUe n => 0x2000420 + n * 0x100000
  | .mcDscrubBase n => 0x2000500 + n * 0x100000
  | .mcDscrubLen n => 0x2000508 + n * 0x100000
  | .mcDscrubCtl n => 0x2000510 + n * 0x100000
  | .mcDscrubSum0 n => 0x2000518 + n * 0x100000
  | .mcDscrubSum1 n => 0x2000520 + n * 0x100000
  | .mcDscrubFirst n => 0x2000528 + n * 0x100000
  | .mcDscrubLast n => 0x2000530 + n * 0x100000
  | .mcPatrol n => 0x2000540 + n * 0x100000
  | .mcZmapStat n => 0x2000600 + n * 0x100000
  | .fabTimeout q => 0x3000000 + q * 0x400000
  | .fabStat q => 0x3000008 + q * 0x400000
  | .fabStallLog q => 0x3000010 + q * 0x400000
  | .fabSadRange n => 0x3010000 + n * 0x10
  | .fabSadTarget n => 0x3010008 + n * 0x10
  | .fabObsCtl q u => 0x3020000 + q * 0x400000 + u * 0x100
  | .fabObsMatch q u => 0x3020008 + q * 0x400000 + u * 0x100
  | .fabObsMask q u => 0x3020010 + q * 0x400000 + u * 0x100
  | .fabObsRing q u => 0x3020018 + q * 0x400000 + u * 0x100
  | .fabObsIdx q u => 0x3020020 + q * 0x400000 + u * 0x100
  | .fabObsCnt q u => 0x3020028 + q * 0x400000 + u * 0x100
  | .fabObsBytes q u i => 0x3020040 + q * 0x400000 + u * 0x100 + i * 0x8
  | .fabObsHist q u i j => 0x3020080 + q * 0x400000 + u * 0x100 + i * 0x20 + j * 0x8
  | .sknState k => 0x4000000 + k * 0x10000
  | .sknBrx k => 0x4000008 + k * 0x10000
  | .iosStat g => 0x4800000 + g * 0x10000
  | .iosCtxRoot g => 0x4800010 + g * 0x10000
  | .iosCtxInv g => 0x4800018 + g * 0x10000
  | .iosFault g => 0x4800020 + g * 0x10000
  | .iosFaultAddr g => 0x4800028 + g * 0x10000
  | .iosAtsLog g => 0x4800030 + g * 0x10000
  | .iosOwinRange g n => 0x4801000 + g * 0x10000 + n * 0x10
  | .iosOwinXlate g n => 0x4801008 + g * 0x10000 + n * 0x10
  | .evcCtl => 0x6000000
  | .evcMtab => 0x6000008
  | .evcPdt => 0x6000010
  | .evcMtinv => 0x6000018
  | .evcWmwin => 0x6000020
  | .evcStat => 0x6000028
  | .evcMsgdb => 0x6100000
  | .evcWroute n => 0x6000800 + n * 0x8
  | .evcEqBase c => 0x6010000 + c * 0x20
  | .evcEqIdx c => 0x6010008 + c * 0x20
  | .evcEqWm c => 0x6010010 + c * 0x20
  | .evcInstMsg i => 0x6020000 + i * 0x8
  | .evcRwm r => 0x6030000 + r * 0x8
  | .pwrStat => 0x7000000
  | .pwrSafe => 0x7000008
  | .pwrWakePc => 0x7000010
  | .pwrDom d => 0x7010000 + d * 0x20
  | .pwrVset d => 0x7010008 + d * 0x20
  | .pwrSense d => 0x7010010 + d * 0x20
  | .stwStat n => 0x7100000 + n * 0x100
  | .odmMbCtl p => 0x8000000 + p * 0x1000
  | .odmMbReq p i => 0x8000100 + p * 0x1000 + i * 0x8
  | .odmMbRsp p i => 0x8000200 + p * 0x1000 + i * 0x8
  | .odmCtl => 0x8002000
  | .odmRcauseSoc => 0x8003000
  | .odmRcause d => 0x8010000 + d * 0x8
  | .pnlSlot s => 0x9000000 + s * 0x100
  | .pnlStat s => 0x9000008 + s * 0x100
  | .pnlJrnl s => 0x9000010 + s * 0x100
  | .pnlGpost s g => 0x9000040 + s * 0x100 + g * 0x8
  | .pnlGstat s g => 0x9000080 + s * 0x100 + g * 0x8
  | .gateHead s g => 0x9100000 + s * 0x1000 + g * 0x10
  | .gateTail s g => 0x9100008 + s * 0x1000 + g * 0x10
  | .erbGlobal => 0xa000000
  | .erbLogBase => 0xa000008
  | .erbLogIdx => 0xa000010
  | .erbLogStat => 0xa000018
  | .erbStatus n => 0xa010000 + n * 0x20
  | .erbAddr n => 0xa010008 + n * 0x20
  | .erbSynd n => 0xa010010 + n * 0x20
  | .erbMisc n => 0xa010018 + n * 0x20
  | .denStat e => 0x10000000 + e * 0x1000000
  | .denErr e => 0x10000008 + e * 0x1000000
  | .denIctl i => 0x10010000 + i / 1024 * 0x1000000 + i % 1024 * 0x40
  | .denIid i => 0x10010008 + i / 1024 * 0x1000000 + i % 1024 * 0x40
  | .denIseg i => 0x10010010 + i / 1024 * 0x1000000 + i % 1024 * 0x40
  | .denIsave i => 0x10010018 + i / 1024 * 0x1000000 + i % 1024 * 0x40
  | .denImbox i => 0x10010020 + i / 1024 * 0x1000000 + i % 1024 * 0x40
  | .denVtx i j => 0x10020000 + i / 1024 * 0x1000000 + i % 1024 * 0x80 + j * 0x8
  | .denVrx i j => 0x10020040 + i / 1024 * 0x1000000 + i % 1024 * 0x80 + j * 0x8
  | .instId i => 0x10800000 + i / 1024 * 0x1000000 + i % 1024 * 0x1000
  | .instStat i => 0x10800008 + i / 1024 * 0x1000000 + i % 1024 * 0x1000
  | .mboxCtl i => 0x10800010 + i / 1024 * 0x1000000 + i % 1024 * 0x1000
  | .mboxTx i j => 0x10800100 + i / 1024 * 0x1000000 + i % 1024 * 0x1000 + j * 0x8
  | .mboxRx i j => 0x10800140 + i / 1024 * 0x1000000 + i % 1024 * 0x1000 + j * 0x8
  | .qWmstat i q => 0x10800200 + i / 1024 * 0x1000000 + i % 1024 * 0x1000 + q * 0x8
  | .qSq i q => 0x10800800 + i / 1024 * 0x1000000 + i % 1024 * 0x1000 + q * 0x20
  | .qCq i q => 0x10800808 + i / 1024 * 0x1000000 + i % 1024 * 0x1000 + q * 0x20
  | .qDb i q => 0x10800810 + i / 1024 * 0x1000000 + i % 1024 * 0x1000 + q * 0x20
  | .qStat i q => 0x10800818 + i / 1024 * 0x1000000 + i % 1024 * 0x1000 + q * 0x20
/-- The fields of CORE_IDENT. -/
def Reg.coreIdentFields : List FieldDesc :=
  [⟨.CORE_IDENT_LVALID, .ro, 0, 0, 2 ^ 64⟩,
   ⟨.CORE_IDENT_LOGICAL, .ro, 0, 0, 2 ^ 64⟩,
   ⟨.CORE_IDENT_PHYS, .ro, 0, 0, 2 ^ 64⟩]
/-- The fields of CORE_STATE. -/
def Reg.coreStateFields : List FieldDesc :=
  [⟨.CORE_STATE_EPOCH, .ro, 0, 0, 2 ^ 64⟩,
   ⟨.CORE_STATE_POWER, .ro, 0, 0, 2 ^ 64⟩,
   ⟨.CORE_STATE_ROLE, .ro, 0, 0, 2 ^ 64⟩]
/-- The fields of CORE_RANGE_STATUS. -/
def Reg.coreRangeStatusFields : List FieldDesc :=
  [⟨.CORE_RANGE_STATUS_BUSY, .ro, 0, 0, 2 ^ 64⟩,
   ⟨.CORE_RANGE_STATUS_ERR, .ro, 0, 0, 2 ^ 64⟩,
   ⟨.CORE_RANGE_STATUS_LINES, .ro, 0, 0, 2 ^ 64⟩]
/-- The fields of CORE_UCODE. -/
def Reg.coreUcodeFields : List FieldDesc :=
  [⟨.CORE_UCODE_PATCH_ID, .ro, 0, 0, 2 ^ 64⟩,
   ⟨.CORE_UCODE_PENDING_ID, .ro, 0, 0, 2 ^ 64⟩,
   ⟨.CORE_UCODE_ROM_REV, .ro, 0, 0, 2 ^ 64⟩,
   ⟨.CORE_UCODE_LOADFAIL, .ro, 0, 0, 2 ^ 64⟩,
   ⟨.CORE_UCODE_PEND, .ro, 0, 0, 2 ^ 64⟩]
/-- The fields of CORE_REPLAY. -/
def Reg.coreReplayFields : List FieldDesc :=
  [⟨.CORE_REPLAY_LASTSRC, .ro, 0, 0, 2 ^ 64⟩,
   ⟨.CORE_REPLAY_COUNT, .ro, 0, 0, 2 ^ 64⟩]
/-- The fields of CORE_PREFETCH. -/
def Reg.corePrefetchFields : List FieldDesc :=
  [⟨.CORE_PREFETCH_RA_WAIT, .ro, 0, 0, 2 ^ 64⟩,
   ⟨.CORE_PREFETCH_L2_LVL, .ro, 0, 0, 2 ^ 64⟩,
   ⟨.CORE_PREFETCH_L1_LVL, .ro, 0, 0, 2 ^ 64⟩]
/-- The fields of CORE_XLATE. -/
def Reg.coreXlateFields : List FieldDesc :=
  [⟨.CORE_XLATE_ISO, .ro, 1, 0, 2 ^ 64⟩,
   ⟨.CORE_XLATE_JOIN, .ro, 0, 0, 2 ^ 64⟩,
   ⟨.CORE_XLATE_TINV_OUT, .ro, 0, 0, 2 ^ 64⟩,
   ⟨.CORE_XLATE_W2D, .ro, 0, 0, 2 ^ 64⟩]
/-- The fields of CORE_PNL. -/
def Reg.corePnlFields : List FieldDesc :=
  [⟨.CORE_PNL_MEMBER, .ro, 0, 0, 2 ^ 64⟩,
   ⟨.CORE_PNL_SUSP, .ro, 0, 0, 2 ^ 64⟩,
   ⟨.CORE_PNL_RETRY, .ro, 0, 0, 2 ^ 64⟩,
   ⟨.CORE_PNL_REPLAY, .ro, 0, 0, 2 ^ 64⟩,
   ⟨.CORE_PNL_SLOT, .ro, 0, 0, 2 ^ 64⟩,
   ⟨.CORE_PNL_INDEX, .ro, 0, 0, 2 ^ 64⟩,
   ⟨.CORE_PNL_FROGRUN, .ro, 0, 0, 2 ^ 64⟩,
   ⟨.CORE_PNL_CKSLICE, .ro, 0, 0, 2 ^ 64⟩,
   ⟨.CORE_PNL_COUNT, .ro, 0, 0, 2 ^ 64⟩]
/-- The fields of CORE_PNL_STAT. -/
def Reg.corePnlStatFields : List FieldDesc :=
  [⟨.CORE_PNL_STAT_FROGS, .rc, 0, 0, 2 ^ 64⟩,
   ⟨.CORE_PNL_STAT_SREPLAY, .rc, 0, 0, 2 ^ 64⟩]
/-- The fields of SLC_STATE. -/
def Reg.slcStateFields : List FieldDesc :=
  [⟨.SLC_STATE_SPWAYS, .ro, 0, 0, 2 ^ 64⟩,
   ⟨.SLC_STATE_POWER, .ro, 0, 0, 2 ^ 64⟩,
   ⟨.SLC_STATE_ROLE, .ro, 0, 0, 2 ^ 64⟩]
/-- The fields of SLC_COS. -/
def Reg.slcCosFields : List FieldDesc :=
  [⟨.SLC_COS_MASK, .ro, 0, 0, 2 ^ 64⟩]
/-- The fields of SLC_COS_CORE. -/
def Reg.slcCosCoreFields : List FieldDesc :=
  [⟨.SLC_COS_CORE_CLASS, .ro, 0, 0, 2 ^ 64⟩]
/-- The fields of SLC_SPAD_CTL. A write of STARVE_T above 1,000 leaves it (log entry 111). -/
def Reg.slcSpadCtlFields : List FieldDesc :=
  [⟨.SLC_SPAD_CTL_BUSY, .ro, 0, 0, 2 ^ 64⟩,
   ⟨.SLC_SPAD_CTL_STARVE_T, .rw, 16, 0, 1000⟩,
   ⟨.SLC_SPAD_CTL_WAYS, .rw, 0, 0, 8⟩]
/-- The fields of SLC_SPAD_STAT. -/
def Reg.slcSpadStatFields : List FieldDesc :=
  [⟨.SLC_SPAD_STAT_STARVE, .rc, 0, 0, 2 ^ 64⟩,
   ⟨.SLC_SPAD_STAT_COLLIDE, .rc, 0, 0, 2 ^ 64⟩]
/-- The fields of SLC_SPAD_COLL. -/
def Reg.slcSpadCollFields : List FieldDesc :=
  [⟨.SLC_SPAD_COLL_VALID, .w1c, 0, 0, 2 ^ 64⟩,
   ⟨.SLC_SPAD_COLL_PORT, .ro, 0, 0, 2 ^ 64⟩,
   ⟨.SLC_SPAD_COLL_ADDR, .ro, 0, 0, 2 ^ 64⟩]
/-- The fields of SLC_MARCH_CTL. -/
def Reg.slcMarchCtlFields : List FieldDesc :=
  [⟨.SLC_MARCH_CTL_BUSY, .ro, 0, 0, 2 ^ 64⟩,
   ⟨.SLC_MARCH_CTL_GO, .w1s, 0, 0, 2 ^ 64⟩,
   ⟨.SLC_MARCH_CTL_MODE, .rw, 0, 0, 2⟩]
/-- The fields of SLC_MARCH_STAT. -/
def Reg.slcMarchStatFields : List FieldDesc :=
  [⟨.SLC_MARCH_STAT_FAILS, .ro, 0, 0, 2 ^ 64⟩,
   ⟨.SLC_MARCH_STAT_REPAIRED, .ro, 0, 0, 2 ^ 64⟩,
   ⟨.SLC_MARCH_STAT_ROWS_LEFT, .ro, 0, 0, 2 ^ 64⟩,
   ⟨.SLC_MARCH_STAT_COLS_LEFT, .ro, 0, 0, 2 ^ 64⟩,
   ⟨.SLC_MARCH_STAT_RESULT, .ro, 0, 0, 2 ^ 64⟩]
/-- The fields of SLC_REBUILD. -/
def Reg.slcRebuildFields : List FieldDesc :=
  [⟨.SLC_REBUILD_ACTIVE, .ro, 0, 0, 2 ^ 64⟩,
   ⟨.SLC_REBUILD_KIND, .ro, 0, 0, 2 ^ 64⟩,
   ⟨.SLC_REBUILD_PTR, .ro, 0, 0, 2 ^ 64⟩,
   ⟨.SLC_REBUILD_SLICE, .ro, 0, 0, 2 ^ 64⟩,
   ⟨.SLC_REBUILD_QUEUED, .ro, 0, 0, 2 ^ 64⟩,
   ⟨.SLC_REBUILD_OVERRUN, .w1c, 0, 0, 2 ^ 64⟩,
   ⟨.SLC_REBUILD_COUNT, .ro, 0, 0, 2 ^ 64⟩]
/-- The fields of DIR_STAT. -/
def Reg.dirStatFields : List FieldDesc :=
  [⟨.DIR_STAT_BINV, .rc, 0, 0, 2 ^ 64⟩,
   ⟨.DIR_STAT_STALE, .rc, 0, 0, 2 ^ 64⟩,
   ⟨.DIR_STAT_QFULL, .rc, 0, 0, 2 ^ 64⟩]
/-- The fields of DIR_EPOCH. -/
def Reg.dirEpochFields : List FieldDesc :=
  [⟨.DIR_EPOCH_EPOCH, .ro, 0, 0, 2 ^ 64⟩]
/-- The fields of DIR_DEAD. -/
def Reg.dirDeadFields : List FieldDesc :=
  [⟨.DIR_DEAD_CXL, .ro, 0, 0, 2 ^ 64⟩,
   ⟨.DIR_DEAD_SOCK, .ro, 0, 0, 2 ^ 64⟩,
   ⟨.DIR_DEAD_RECLAIM, .ro, 0, 0, 2 ^ 64⟩,
   ⟨.DIR_DEAD_LOST, .rc, 0, 0, 2 ^ 64⟩]
/-- The fields of MC_CTL. -/
def Reg.mcCtlFields : List FieldDesc :=
  [⟨.MC_CTL_TSEL, .ro, 0, 0, 2 ^ 64⟩,
   ⟨.MC_CTL_STATE, .ro, 0, 0, 2 ^ 64⟩,
   ⟨.MC_CTL_RANKS, .ro, 0, 0, 2 ^ 64⟩,
   ⟨.MC_CTL_CAP, .ro, 0, 0, 2 ^ 64⟩,
   ⟨.MC_CTL_RATE, .ro, 0, 0, 2 ^ 64⟩]
/-- The fields of MC_ERRCNT. -/
def Reg.mcErrcntFields : List FieldDesc :=
  [⟨.MC_ERRCNT_CORR, .rc, 0, 0, 2 ^ 64⟩,
   ⟨.MC_ERRCNT_UNCORR, .rc, 0, 0, 2 ^ 64⟩,
   ⟨.MC_ERRCNT_TRANSIENT, .rc, 0, 0, 2 ^ 64⟩,
   ⟨.MC_ERRCNT_ALERT, .rc, 0, 0, 2 ^ 64⟩,
   ⟨.MC_ERRCNT_RETRAIN, .rc, 0, 0, 2 ^ 64⟩]
/-- The fields of MC_TIMING0. -/
def Reg.mcTimingA0Fields : List FieldDesc :=
  [⟨.MC_TIMING0_RATE, .ro, 0, 0, 2 ^ 64⟩,
   ⟨.MC_TIMING0_CL, .ro, 0, 0, 2 ^ 64⟩,
   ⟨.MC_TIMING0_CWL, .ro, 0, 0, 2 ^ 64⟩,
   ⟨.MC_TIMING0_TRCD, .ro, 0, 0, 2 ^ 64⟩,
   ⟨.MC_TIMING0_TRP, .ro, 0, 0, 2 ^ 64⟩,
   ⟨.MC_TIMING0_TRAS, .ro, 0, 0, 2 ^ 64⟩,
   ⟨.MC_TIMING0_TRC, .ro, 0, 0, 2 ^ 64⟩]
/-- The fields of MC_TIMING1. -/
def Reg.mcTimingA1Fields : List FieldDesc :=
  [⟨.MC_TIMING1_TRRD_S, .ro, 0, 0, 2 ^ 64⟩,
   ⟨.MC_TIMING1_TRRD_L, .ro, 0, 0, 2 ^ 64⟩,
   ⟨.MC_TIMING1_TCCD_S, .ro, 0, 0, 2 ^ 64⟩,
   ⟨.MC_TIMING1_TCCD_L, .ro, 0, 0, 2 ^ 64⟩,
   ⟨.MC_TIMING1_TCCD_L_WR, .ro, 0, 0, 2 ^ 64⟩,
   ⟨.MC_TIMING1_TWTR_S, .ro, 0, 0, 2 ^ 64⟩,
   ⟨.MC_TIMING1_TWTR_L, .ro, 0, 0, 2 ^ 64⟩,
   ⟨.MC_TIMING1_TRTP, .ro, 0, 0, 2 ^ 64⟩]
/-- The fields of MC_TIMING2. -/
def Reg.mcTimingA2Fields : List FieldDesc :=
  [⟨.MC_TIMING2_TFAW, .ro, 0, 0, 2 ^ 64⟩,
   ⟨.MC_TIMING2_TWR, .ro, 0, 0, 2 ^ 64⟩,
   ⟨.MC_TIMING2_TRFCSB, .ro, 0, 0, 2 ^ 64⟩,
   ⟨.MC_TIMING2_TRFC1, .ro, 0, 0, 2 ^ 64⟩,
   ⟨.MC_TIMING2_TREFI, .ro, 0, 0, 2 ^ 64⟩]
/-- The fields of MC_TIMING3. -/
def Reg.mcTimingA3Fields : List FieldDesc :=
  [⟨.MC_TIMING3_TXS, .ro, 0, 0, 2 ^ 64⟩,
   ⟨.MC_TIMING3_TMRD, .ro, 0, 0, 2 ^ 64⟩,
   ⟨.MC_TIMING3_TRTRS, .ro, 0, 0, 2 ^ 64⟩]
/-- The fields of MC_TIMING0. -/
def Reg.mcTimingB0Fields : List FieldDesc :=
  [⟨.MC_TIMING0_RATE, .ro, 0, 0, 2 ^ 64⟩,
   ⟨.MC_TIMING0_CL, .ro, 0, 0, 2 ^ 64⟩,
   ⟨.MC_TIMING0_CWL, .ro, 0, 0, 2 ^ 64⟩,
   ⟨.MC_TIMING0_TRCD, .ro, 0, 0, 2 ^ 64⟩,
   ⟨.MC_TIMING0_TRP, .ro, 0, 0, 2 ^ 64⟩,
   ⟨.MC_TIMING0_TRAS, .ro, 0, 0, 2 ^ 64⟩,
   ⟨.MC_TIMING0_TRC, .ro, 0, 0, 2 ^ 64⟩]
/-- The fields of MC_TIMING1. -/
def Reg.mcTimingB1Fields : List FieldDesc :=
  [⟨.MC_TIMING1_TRRD_S, .ro, 0, 0, 2 ^ 64⟩,
   ⟨.MC_TIMING1_TRRD_L, .ro, 0, 0, 2 ^ 64⟩,
   ⟨.MC_TIMING1_TCCD_S, .ro, 0, 0, 2 ^ 64⟩,
   ⟨.MC_TIMING1_TCCD_L, .ro, 0, 0, 2 ^ 64⟩,
   ⟨.MC_TIMING1_TCCD_L_WR, .ro, 0, 0, 2 ^ 64⟩,
   ⟨.MC_TIMING1_TWTR_S, .ro, 0, 0, 2 ^ 64⟩,
   ⟨.MC_TIMING1_TWTR_L, .ro, 0, 0, 2 ^ 64⟩,
   ⟨.MC_TIMING1_TRTP, .ro, 0, 0, 2 ^ 64⟩]
/-- The fields of MC_TIMING2. -/
def Reg.mcTimingB2Fields : List FieldDesc :=
  [⟨.MC_TIMING2_TFAW, .ro, 0, 0, 2 ^ 64⟩,
   ⟨.MC_TIMING2_TWR, .ro, 0, 0, 2 ^ 64⟩,
   ⟨.MC_TIMING2_TRFCSB, .ro, 0, 0, 2 ^ 64⟩,
   ⟨.MC_TIMING2_TRFC1, .ro, 0, 0, 2 ^ 64⟩,
   ⟨.MC_TIMING2_TREFI, .ro, 0, 0, 2 ^ 64⟩]
/-- The fields of MC_TIMING3. -/
def Reg.mcTimingB3Fields : List FieldDesc :=
  [⟨.MC_TIMING3_TXS, .ro, 0, 0, 2 ^ 64⟩,
   ⟨.MC_TIMING3_TMRD, .ro, 0, 0, 2 ^ 64⟩,
   ⟨.MC_TIMING3_TRTRS, .ro, 0, 0, 2 ^ 64⟩]
/-- The fields of MC_SWATCH_CTL. -/
def Reg.mcSwatchCtlFields : List FieldDesc :=
  [⟨.MC_SWATCH_CTL_BUSY, .ro, 0, 0, 2 ^ 64⟩,
   ⟨.MC_SWATCH_CTL_GO, .ro, 0, 0, 2 ^ 64⟩,
   ⟨.MC_SWATCH_CTL_MODE, .ro, 0, 0, 2 ^ 64⟩,
   ⟨.MC_SWATCH_CTL_PAT, .ro, 0, 0, 2 ^ 64⟩,
   ⟨.MC_SWATCH_CTL_SUB, .ro, 0, 0, 2 ^ 64⟩,
   ⟨.MC_SWATCH_CTL_RANK, .ro, 0, 0, 2 ^ 64⟩,
   ⟨.MC_SWATCH_CTL_BURSTS, .ro, 0, 0, 2 ^ 64⟩]
/-- The fields of MC_SWATCH_PAT. -/
def Reg.mcSwatchPatFields : List FieldDesc :=
  [⟨.MC_SWATCH_PAT_PATTERN, .ro, 0, 0, 2 ^ 64⟩]
/-- The fields of MC_SWATCH_SCAN. -/
def Reg.mcSwatchScanFields : List FieldDesc :=
  [⟨.MC_SWATCH_SCAN_EN, .ro, 0, 0, 2 ^ 64⟩,
   ⟨.MC_SWATCH_SCAN_TARGET, .ro, 0, 0, 2 ^ 64⟩,
   ⟨.MC_SWATCH_SCAN_BIT, .ro, 0, 0, 2 ^ 64⟩,
   ⟨.MC_SWATCH_SCAN_CODE, .ro, 0, 0, 2 ^ 64⟩]
/-- The fields of MC_SWATCH_ERR. -/
def Reg.mcSwatchErrFields : List FieldDesc :=
  [⟨.MC_SWATCH_ERR_COUNT, .ro, 0, 0, 2 ^ 64⟩]
/-- The fields of MC_CE_BUCKET. -/
def Reg.mcCeBucketFields : List FieldDesc :=
  [⟨.MC_CE_BUCKET_LEVEL, .ro, 0, 0, 2 ^ 64⟩]
/-- The fields of MC_CE_OVF. -/
def Reg.mcCeOvfFields : List FieldDesc :=
  [⟨.MC_CE_OVF_ARMED, .ro, 255, 0, 2 ^ 64⟩,
   ⟨.MC_CE_OVF_OVF, .w1c, 0, 0, 2 ^ 64⟩]
/-- The fields of MC_LAST_CE. -/
def Reg.mcLastCeFields : List FieldDesc :=
  [⟨.MC_LAST_CE_VALID, .w1c, 0, 0, 2 ^ 64⟩,
   ⟨.MC_LAST_CE_DEVICE, .ro, 0, 0, 2 ^ 64⟩,
   ⟨.MC_LAST_CE_RANK, .ro, 0, 0, 2 ^ 64⟩,
   ⟨.MC_LAST_CE_SUB, .ro, 0, 0, 2 ^ 64⟩,
   ⟨.MC_LAST_CE_LINE, .ro, 0, 0, 2 ^ 64⟩]
/-- The fields of MC_LAST_CE_BITS. -/
def Reg.mcLastCeBitsFields : List FieldDesc :=
  [⟨.MC_LAST_CE_BITS_BITS, .ro, 0, 0, 2 ^ 64⟩]
/-- The fields of MC_LAST_UE. -/
def Reg.mcLastUeFields : List FieldDesc :=
  [⟨.MC_LAST_UE_VALID, .w1c, 0, 0, 2 ^ 64⟩,
   ⟨.MC_LAST_UE_KIND, .ro, 0, 0, 2 ^ 64⟩,
   ⟨.MC_LAST_UE_RANK, .ro, 0, 0, 2 ^ 64⟩,
   ⟨.MC_LAST_UE_SUB, .ro, 0, 0, 2 ^ 64⟩,
   ⟨.MC_LAST_UE_LINE, .ro, 0, 0, 2 ^ 64⟩]
/-- The fields of MC_DSCRUB_BASE. -/
def Reg.mcDscrubBaseFields : List FieldDesc :=
  [⟨.MC_DSCRUB_BASE_BASE, .rw, 0, 0, 2 ^ 64⟩]
/-- The fields of MC_DSCRUB_LEN. -/
def Reg.mcDscrubLenFields : List FieldDesc :=
  [⟨.MC_DSCRUB_LEN_LINES, .rw, 0, 0, 2 ^ 64⟩]
/-- The fields of MC_DSCRUB_CTL. -/
def Reg.mcDscrubCtlFields : List FieldDesc :=
  [⟨.MC_DSCRUB_CTL_BUSY, .ro, 0, 0, 2 ^ 64⟩,
   ⟨.MC_DSCRUB_CTL_GO, .w1s, 0, 0, 2 ^ 64⟩,
   ⟨.MC_DSCRUB_CTL_ABORT, .w1s, 0, 0, 2 ^ 64⟩,
   ⟨.MC_DSCRUB_CTL_RESULT, .ro, 0, 0, 2 ^ 64⟩]
/-- The fields of MC_DSCRUB_SUM0. -/
def Reg.mcDscrubSum0Fields : List FieldDesc :=
  [⟨.MC_DSCRUB_SUM0_READ, .ro, 0, 0, 2 ^ 64⟩,
   ⟨.MC_DSCRUB_SUM0_ZERO, .ro, 0, 0, 2 ^ 64⟩]
/-- The fields of MC_DSCRUB_SUM1. -/
def Reg.mcDscrubSum1Fields : List FieldDesc :=
  [⟨.MC_DSCRUB_SUM1_CORR, .ro, 0, 0, 2 ^ 64⟩,
   ⟨.MC_DSCRUB_SUM1_UNCORR, .ro, 0, 0, 2 ^ 64⟩,
   ⟨.MC_DSCRUB_SUM1_LOST, .ro, 0, 0, 2 ^ 64⟩]
/-- The fields of MC_DSCRUB_FIRST. -/
def Reg.mcDscrubFirstFields : List FieldDesc :=
  [⟨.MC_DSCRUB_FIRST_VALID, .ro, 0, 0, 2 ^ 64⟩,
   ⟨.MC_DSCRUB_FIRST_LINE, .ro, 0, 0, 2 ^ 64⟩]
/-- The fields of MC_DSCRUB_LAST. -/
def Reg.mcDscrubLastFields : List FieldDesc :=
  [⟨.MC_DSCRUB_LAST_VALID, .ro, 0, 0, 2 ^ 64⟩,
   ⟨.MC_DSCRUB_LAST_LINE, .ro, 0, 0, 2 ^ 64⟩]
/-- The fields of MC_PATROL. -/
def Reg.mcPatrolFields : List FieldDesc :=
  [⟨.MC_PATROL_PASSES, .ro, 0, 0, 2 ^ 64⟩,
   ⟨.MC_PATROL_POS, .ro, 0, 0, 2 ^ 64⟩]
/-- The fields of MC_ZMAP_STAT. -/
def Reg.mcZmapStatFields : List FieldDesc :=
  [⟨.MC_ZMAP_STAT_FILLS, .ro, 0, 0, 2 ^ 64⟩,
   ⟨.MC_ZMAP_STAT_WAITS, .rc, 0, 0, 2 ^ 64⟩,
   ⟨.MC_ZMAP_STAT_ZREADS, .rc, 0, 0, 2 ^ 64⟩]
/-- The fields of FAB_TIMEOUT. -/
def Reg.fabTimeoutFields : List FieldDesc :=
  [⟨.FAB_TIMEOUT_E2E_US, .ro, 0, 0, 2 ^ 64⟩,
   ⟨.FAB_TIMEOUT_STALL_US, .ro, 0, 0, 2 ^ 64⟩]
/-- The fields of FAB_STAT. -/
def Reg.fabStatFields : List FieldDesc :=
  [⟨.FAB_STAT_RETRY, .rc, 0, 0, 2 ^ 64⟩,
   ⟨.FAB_STAT_ISOLATE, .rc, 0, 0, 2 ^ 64⟩,
   ⟨.FAB_STAT_LATE, .rc, 0, 0, 2 ^ 64⟩,
   ⟨.FAB_STAT_ABORT, .rc, 0, 0, 2 ^ 64⟩]
/-- The fields of FAB_STALL_LOG. -/
def Reg.fabStallLogFields : List FieldDesc :=
  [⟨.FAB_STALL_LOG_VALID, .w1c, 0, 0, 2 ^ 64⟩,
   ⟨.FAB_STALL_LOG_RETIRED, .ro, 0, 0, 2 ^ 64⟩,
   ⟨.FAB_STALL_LOG_PORT, .ro, 0, 0, 2 ^ 64⟩,
   ⟨.FAB_STALL_LOG_STOP, .ro, 0, 0, 2 ^ 64⟩,
   ⟨.FAB_STALL_LOG_VC, .ro, 0, 0, 2 ^ 64⟩,
   ⟨.FAB_STALL_LOG_DST, .ro, 0, 0, 2 ^ 64⟩,
   ⟨.FAB_STALL_LOG_TIME, .ro, 0, 0, 2 ^ 64⟩]
/-- The fields of FAB_SAD_RANGE. -/
def Reg.fabSadRangeFields : List FieldDesc :=
  [⟨.FAB_SAD_RANGE_EN, .rw, 0, 0, 2 ^ 64⟩,
   ⟨.FAB_SAD_RANGE_LIMIT, .rw, 0, 0, 2 ^ 64⟩,
   ⟨.FAB_SAD_RANGE_BASE, .rw, 0, 0, 2 ^ 64⟩]
/-- The fields of FAB_SAD_TARGET. -/
def Reg.fabSadTargetFields : List FieldDesc :=
  [⟨.FAB_SAD_TARGET_KIND, .rw, 0, 0, 2⟩,
   ⟨.FAB_SAD_TARGET_SOCKET, .rw, 0, 0, 2 ^ 64⟩,
   ⟨.FAB_SAD_TARGET_TARGET, .rw, 0, 0, 2 ^ 64⟩]
/-- The fields of FAB_OBS_CTL. -/
def Reg.fabObsCtlFields : List FieldDesc :=
  [⟨.FAB_OBS_CTL_EN, .rw, 0, 0, 2 ^ 64⟩,
   ⟨.FAB_OBS_CTL_MODE, .rw, 0, 0, 2 ^ 64⟩,
   ⟨.FAB_OBS_CTL_TRACE, .rw, 0, 0, 2 ^ 64⟩,
   ⟨.FAB_OBS_CTL_WRAP, .rw, 0, 0, 2 ^ 64⟩,
   ⟨.FAB_OBS_CTL_STOP, .rw, 0, 0, 39⟩,
   ⟨.FAB_OBS_CTL_PORT, .rw, 0, 0, 6⟩,
   ⟨.FAB_OBS_CTL_SAMPLE, .rw, 0, 0, 2 ^ 64⟩]
/-- The fields of FAB_OBS_MATCH. -/
def Reg.fabObsMatchFields : List FieldDesc :=
  [⟨.FAB_OBS_MATCH_OPC, .rw, 0, 0, 2 ^ 64⟩,
   ⟨.FAB_OBS_MATCH_VC, .rw, 0, 0, 2 ^ 64⟩,
   ⟨.FAB_OBS_MATCH_SRC, .rw, 0, 0, 2 ^ 64⟩,
   ⟨.FAB_OBS_MATCH_DST, .rw, 0, 0, 2 ^ 64⟩,
   ⟨.FAB_OBS_MATCH_ADDR, .rw, 0, 0, 2 ^ 64⟩]
/-- The fields of FAB_OBS_MASK. -/
def Reg.fabObsMaskFields : List FieldDesc :=
  [⟨.FAB_OBS_MASK_OPC, .rw, 0, 0, 2 ^ 64⟩,
   ⟨.FAB_OBS_MASK_VC, .rw, 0, 0, 2 ^ 64⟩,
   ⟨.FAB_OBS_MASK_SRC, .rw, 0, 0, 2 ^ 64⟩,
   ⟨.FAB_OBS_MASK_DST, .rw, 0, 0, 2 ^ 64⟩,
   ⟨.FAB_OBS_MASK_ADDR, .rw, 0, 0, 2 ^ 64⟩]
/-- The fields of FAB_OBS_RING. -/
def Reg.fabObsRingFields : List FieldDesc :=
  [⟨.FAB_OBS_RING_BASE, .rw, 0, 0, 2 ^ 64⟩,
   ⟨.FAB_OBS_RING_LOG, .rw, 0, 7, 24⟩]
/-- The fields of FAB_OBS_IDX. -/
def Reg.fabObsIdxFields : List FieldDesc :=
  [⟨.FAB_OBS_IDX_SW, .rw, 0, 0, 2 ^ 64⟩,
   ⟨.FAB_OBS_IDX_DEV, .ro, 0, 0, 2 ^ 64⟩]
/-- The fields of FAB_OBS_CNT. -/
def Reg.fabObsCntFields : List FieldDesc :=
  [⟨.FAB_OBS_CNT_MATCHED, .rc, 0, 0, 2 ^ 64⟩,
   ⟨.FAB_OBS_CNT_DROPPED, .rc, 0, 0, 2 ^ 64⟩]
/-- The fields of FAB_OBS_BYTES. -/
def Reg.fabObsBytesFields : List FieldDesc :=
  [⟨.FAB_OBS_BYTES_BYTES, .rc, 0, 0, 2 ^ 64⟩]
/-- The fields of FAB_OBS_HIST. -/
def Reg.fabObsHistFields : List FieldDesc :=
  [⟨.FAB_OBS_HIST_COUNT, .rc, 0, 0, 2 ^ 64⟩]
/-- The fields of SKN_STATE. -/
def Reg.sknStateFields : List FieldDesc :=
  [⟨.SKN_STATE_FUNC, .ro, 0, 0, 2 ^ 64⟩,
   ⟨.SKN_STATE_WIDTH, .ro, 0, 0, 2 ^ 64⟩,
   ⟨.SKN_STATE_UP, .ro, 0, 0, 2 ^ 64⟩,
   ⟨.SKN_STATE_CXLV, .ro, 0, 0, 2 ^ 64⟩,
   ⟨.SKN_STATE_CXLNUM, .ro, 0, 0, 2 ^ 64⟩,
   ⟨.SKN_STATE_PVALID, .ro, 0, 0, 2 ^ 64⟩,
   ⟨.SKN_STATE_PEER, .ro, 0, 0, 2 ^ 64⟩]
/-- The fields of SKN_BRX. -/
def Reg.sknBrxFields : List FieldDesc :=
  [⟨.SKN_BRX_GEN, .ro, 0, 0, 2 ^ 64⟩,
   ⟨.SKN_BRX_RETRAIN, .rc, 0, 0, 2 ^ 64⟩,
   ⟨.SKN_BRX_REPLAY, .rc, 0, 0, 2 ^ 64⟩,
   ⟨.SKN_BRX_LATE, .rc, 0, 0, 2 ^ 64⟩,
   ⟨.SKN_BRX_RETRY, .rc, 0, 0, 2 ^ 64⟩]
/-- The fields of IOS_STAT. -/
def Reg.iosStatFields : List FieldDesc :=
  [⟨.IOS_STAT_FAULTS, .rc, 0, 0, 2 ^ 64⟩,
   ⟨.IOS_STAT_ATSTO, .rc, 0, 0, 2 ^ 64⟩,
   ⟨.IOS_STAT_CONTAIN, .rc, 0, 0, 2 ^ 64⟩]
/-- The fields of IOS_CTX_ROOT. -/
def Reg.iosCtxRootFields : List FieldDesc :=
  [⟨.IOS_CTX_ROOT_EN, .rw, 0, 0, 2 ^ 64⟩,
   ⟨.IOS_CTX_ROOT_ROOT, .rw, 0, 0, 2 ^ 64⟩]
/-- The fields of IOS_CTX_INV. -/
def Reg.iosCtxInvFields : List FieldDesc :=
  [⟨.IOS_CTX_INV_BUSY, .ro, 0, 0, 2 ^ 64⟩,
   ⟨.IOS_CTX_INV_GO, .w1s, 0, 0, 2 ^ 64⟩,
   ⟨.IOS_CTX_INV_LAST, .rw, 0, 0, 2 ^ 64⟩,
   ⟨.IOS_CTX_INV_FIRST, .rw, 0, 0, 2 ^ 64⟩]
/-- The fields of IOS_FAULT. -/
def Reg.iosFaultFields : List FieldDesc :=
  [⟨.IOS_FAULT_VALID, .w1c, 0, 0, 2 ^ 64⟩,
   ⟨.IOS_FAULT_REASON, .ro, 0, 0, 2 ^ 64⟩,
   ⟨.IOS_FAULT_WCODE, .ro, 0, 0, 2 ^ 64⟩,
   ⟨.IOS_FAULT_RID, .ro, 0, 0, 2 ^ 64⟩]
/-- The fields of IOS_FAULT_ADDR. -/
def Reg.iosFaultAddrFields : List FieldDesc :=
  [⟨.IOS_FAULT_ADDR_ADDR, .ro, 0, 0, 2 ^ 64⟩]
/-- The fields of IOS_ATS_LOG. -/
def Reg.iosAtsLogFields : List FieldDesc :=
  [⟨.IOS_ATS_LOG_VALID, .w1c, 0, 0, 2 ^ 64⟩,
   ⟨.IOS_ATS_LOG_PORT, .ro, 0, 0, 2 ^ 64⟩,
   ⟨.IOS_ATS_LOG_TENANT, .ro, 0, 0, 2 ^ 64⟩,
   ⟨.IOS_ATS_LOG_RID, .ro, 0, 0, 2 ^ 64⟩]
/-- The fields of IOS_OWIN_RANGE. -/
def Reg.iosOwinRangeFields : List FieldDesc :=
  [⟨.IOS_OWIN_RANGE_EN, .rw, 0, 0, 2 ^ 64⟩,
   ⟨.IOS_OWIN_RANGE_RELAX, .rw, 0, 0, 2 ^ 64⟩,
   ⟨.IOS_OWIN_RANGE_PORT, .rw, 0, 0, 2 ^ 64⟩,
   ⟨.IOS_OWIN_RANGE_LIMIT, .rw, 0, 0, 2 ^ 64⟩,
   ⟨.IOS_OWIN_RANGE_BASE, .rw, 0, 0, 2 ^ 64⟩]
/-- The fields of IOS_OWIN_XLATE. -/
def Reg.iosOwinXlateFields : List FieldDesc :=
  [⟨.IOS_OWIN_XLATE_BUSBASE, .rw, 0, 0, 2 ^ 64⟩]
/-- The fields of EVC_CTL. -/
def Reg.evcCtlFields : List FieldDesc :=
  [⟨.EVC_CTL_FALLBACK, .rw, 0, 0, 2 ^ 64⟩]
/-- The fields of EVC_MTAB. -/
def Reg.evcMtabFields : List FieldDesc :=
  [⟨.EVC_MTAB_EN, .rw, 0, 0, 2 ^ 64⟩,
   ⟨.EVC_MTAB_BASE, .rw, 0, 0, 2 ^ 64⟩]
/-- The fields of EVC_PDT. -/
def Reg.evcPdtFields : List FieldDesc :=
  [⟨.EVC_PDT_EN, .rw, 0, 0, 2 ^ 64⟩,
   ⟨.EVC_PDT_BASE, .rw, 0, 0, 2 ^ 64⟩]
/-- The fields of EVC_MTINV. -/
def Reg.evcMtinvFields : List FieldDesc :=
  [⟨.EVC_MTINV_ID, .wo, 0, 0, 2 ^ 64⟩]
/-- The fields of EVC_WMWIN. -/
def Reg.evcWmwinFields : List FieldDesc :=
  [⟨.EVC_WMWIN_EQ, .rw, 100, 0, 2 ^ 64⟩,
   ⟨.EVC_WMWIN_CQ, .rw, 100, 0, 2 ^ 64⟩,
   ⟨.EVC_WMWIN_JRNL, .rw, 100, 0, 2 ^ 64⟩,
   ⟨.EVC_WMWIN_TRACE, .rw, 100, 0, 2 ^ 64⟩,
   ⟨.EVC_WMWIN_ELOG, .rw, 100, 0, 2 ^ 64⟩]
/-- The fields of EVC_STAT. -/
def Reg.evcStatFields : List FieldDesc :=
  [⟨.EVC_STAT_BADMSG, .rc, 0, 0, 2 ^ 64⟩,
   ⟨.EVC_STAT_DISABLED, .rc, 0, 0, 2 ^ 64⟩,
   ⟨.EVC_STAT_SRCFAIL, .rc, 0, 0, 2 ^ 64⟩,
   ⟨.EVC_STAT_BADEOI, .rc, 0, 0, 2 ^ 64⟩]
/-- The fields of EVC_MSGDB. -/
def Reg.evcMsgdbFields : List FieldDesc :=
  [⟨.EVC_MSGDB_DB, .wo, 0, 0, 2 ^ 64⟩]
/-- The fields of EVC_WROUTE. -/
def Reg.evcWrouteFields : List FieldDesc :=
  [⟨.EVC_WROUTE_EN, .rw, 0, 0, 2 ^ 64⟩,
   ⟨.EVC_WROUTE_PEND, .ro, 0, 0, 2 ^ 64⟩,
   ⟨.EVC_WROUTE_ACT, .ro, 0, 0, 2 ^ 64⟩,
   ⟨.EVC_WROUTE_VIRT, .rw, 0, 0, 2 ^ 64⟩,
   ⟨.EVC_WROUTE_SRCCHK, .rw, 0, 0, 2 ^ 64⟩,
   ⟨.EVC_WROUTE_PRI, .rw, 0, 0, 2 ^ 64⟩,
   ⟨.EVC_WROUTE_RID, .rw, 0, 0, 2 ^ 64⟩,
   ⟨.EVC_WROUTE_GVEC, .rw, 0, 0, 2 ^ 64⟩,
   ⟨.EVC_WROUTE_TARGET, .rw, 0, 0, 2 ^ 64⟩]
/-- The fields of EVC_EQ_BASE. -/
def Reg.evcEqBaseFields : List FieldDesc :=
  [⟨.EVC_EQ_BASE_EN, .rw, 0, 0, 2 ^ 64⟩,
   ⟨.EVC_EQ_BASE_BASE, .rw, 0, 0, 2 ^ 64⟩,
   ⟨.EVC_EQ_BASE_LOG, .rw, 0, 6, 20⟩]
/-- The fields of EVC_EQ_IDX. -/
def Reg.evcEqIdxFields : List FieldDesc :=
  [⟨.EVC_EQ_IDX_HEAD, .rw, 0, 0, 2 ^ 64⟩,
   ⟨.EVC_EQ_IDX_TAIL, .ro, 0, 0, 2 ^ 64⟩]
/-- The fields of EVC_EQ_WM. -/
def Reg.evcEqWmFields : List FieldDesc :=
  [⟨.EVC_EQ_WM_LEVEL, .ro, 0, 0, 2 ^ 64⟩,
   ⟨.EVC_EQ_WM_CROSSED, .w1c, 0, 0, 2 ^ 64⟩,
   ⟨.EVC_EQ_WM_OVF, .w1c, 0, 0, 2 ^ 64⟩,
   ⟨.EVC_EQ_WM_RESCAN, .w1s, 0, 0, 2 ^ 64⟩,
   ⟨.EVC_EQ_WM_THRESH, .rw, 0, 0, 2 ^ 64⟩,
   ⟨.EVC_EQ_WM_COUNT, .rc, 0, 0, 2 ^ 64⟩]
/-- The fields of EVC_INST_MSG. A write of BASE above 1,048,511 leaves it (log entry 111). -/
def Reg.evcInstMsgFields : List FieldDesc :=
  [⟨.EVC_INST_MSG_EN, .rw, 0, 0, 2 ^ 64⟩,
   ⟨.EVC_INST_MSG_BASE, .rw, 0, 0, 1048511⟩]
/-- The fields of EVC_RWM. -/
def Reg.evcRwmFields : List FieldDesc :=
  [⟨.EVC_RWM_LEVEL, .ro, 0, 0, 2 ^ 64⟩,
   ⟨.EVC_RWM_CROSSED, .w1c, 0, 0, 2 ^ 64⟩,
   ⟨.EVC_RWM_THRESH, .rw, 0, 0, 2 ^ 64⟩,
   ⟨.EVC_RWM_COUNT, .rc, 0, 0, 2 ^ 64⟩]
/-- The fields of PWR_STAT. -/
def Reg.pwrStatFields : List FieldDesc :=
  [⟨.PWR_STAT_REEF, .ro, 0, 0, 2 ^ 64⟩,
   ⟨.PWR_STAT_REEFPIN, .ro, 0, 0, 2 ^ 64⟩,
   ⟨.PWR_STAT_REASON, .ro, 0, 0, 2 ^ 64⟩,
   ⟨.PWR_STAT_LIMIT, .ro, 0, 0, 2 ^ 64⟩,
   ⟨.PWR_STAT_P100, .ro, 0, 0, 2 ^ 64⟩,
   ⟨.PWR_STAT_TJMAX, .ro, 128, 0, 2 ^ 64⟩]
/-- The fields of PWR_SAFE. -/
def Reg.pwrSafeFields : List FieldDesc :=
  [⟨.PWR_SAFE_FOA, .ro, 0, 0, 2 ^ 64⟩,
   ⟨.PWR_SAFE_FOB, .ro, 0, 0, 2 ^ 64⟩,
   ⟨.PWR_SAFE_DISAGREE, .ro, 0, 0, 2 ^ 64⟩,
   ⟨.PWR_SAFE_NEAR, .ro, 0, 0, 2 ^ 64⟩,
   ⟨.PWR_SAFE_DTIME, .ro, 0, 0, 2 ^ 64⟩]
/-- The fields of PWR_WAKE_PC. -/
def Reg.pwrWakePcFields : List FieldDesc :=
  [⟨.PWR_WAKE_PC_PC, .rw, 0, 0, 2 ^ 64⟩]
/-- The fields of PWR_DOM. -/
def Reg.pwrDomFields : List FieldDesc :=
  [⟨.PWR_DOM_STATE, .ro, 0, 0, 2 ^ 64⟩,
   ⟨.PWR_DOM_REQ, .rw, 0, 0, 2⟩,
   ⟨.PWR_DOM_AUTO, .rw, 1, 0, 2 ^ 64⟩,
   ⟨.PWR_DOM_HOLD, .ro, 0, 0, 2 ^ 64⟩,
   ⟨.PWR_DOM_SFAULT, .ro, 0, 0, 2 ^ 64⟩,
   ⟨.PWR_DOM_LASTREF, .ro, 0, 0, 2 ^ 64⟩,
   ⟨.PWR_DOM_REFUSED, .rc, 0, 0, 2 ^ 64⟩,
   ⟨.PWR_DOM_ABORTED, .rc, 0, 0, 2 ^ 64⟩]
/-- The fields of PWR_VSET. -/
def Reg.pwrVsetFields : List FieldDesc :=
  [⟨.PWR_VSET_BUSY, .ro, 0, 0, 2 ^ 64⟩,
   ⟨.PWR_VSET_ROLLBACK, .ro, 0, 0, 2 ^ 64⟩,
   ⟨.PWR_VSET_PREV, .ro, 0, 0, 2 ^ 64⟩,
   ⟨.PWR_VSET_THR, .ro, 0, 0, 2 ^ 64⟩,
   ⟨.PWR_VSET_TARGET, .ro, 0, 0, 2 ^ 64⟩,
   ⟨.PWR_VSET_NOW, .ro, 0, 0, 2 ^ 64⟩]
/-- The fields of PWR_SENSE. -/
def Reg.pwrSenseFields : List FieldDesc :=
  [⟨.PWR_SENSE_SFAULT, .ro, 0, 0, 2 ^ 64⟩,
   ⟨.PWR_SENSE_KIND, .ro, 0, 0, 2 ^ 64⟩,
   ⟨.PWR_SENSE_DMON, .ro, 0, 0, 2 ^ 64⟩,
   ⟨.PWR_SENSE_SENSE, .ro, 0, 0, 2 ^ 64⟩,
   ⟨.PWR_SENSE_TESTFAIL, .rc, 0, 0, 2 ^ 64⟩,
   ⟨.PWR_SENSE_TJ, .ro, 128, 0, 2 ^ 64⟩]
/-- The fields of STW_STAT. -/
def Reg.stwStatFields : List FieldDesc :=
  [⟨.STW_STAT_RUN, .ro, 0, 0, 2 ^ 64⟩,
   ⟨.STW_STAT_VERSION, .ro, 0, 0, 2 ^ 64⟩,
   ⟨.STW_STAT_RESTART, .rc, 0, 0, 2 ^ 64⟩,
   ⟨.STW_STAT_SFAULTS, .ro, 0, 0, 2 ^ 64⟩]
/-- The fields of ODM_MB_CTL. -/
def Reg.odmMbCtlFields : List FieldDesc :=
  [⟨.ODM_MB_CTL_BUSY, .ro, 0, 0, 2 ^ 64⟩,
   ⟨.ODM_MB_CTL_GO, .w1s, 0, 0, 2 ^ 64⟩,
   ⟨.ODM_MB_CTL_DONE, .w1c, 0, 0, 2 ^ 64⟩,
   ⟨.ODM_MB_CTL_IE, .rw, 0, 0, 2 ^ 64⟩]
/-- The fields of ODM_MB_REQ. -/
def Reg.odmMbReqFields : List FieldDesc :=
  [⟨.ODM_MB_REQ_DATA, .rw, 0, 0, 2 ^ 64⟩]
/-- The fields of ODM_MB_RSP. -/
def Reg.odmMbRspFields : List FieldDesc :=
  [⟨.ODM_MB_RSP_DATA, .ro, 0, 0, 2 ^ 64⟩]
/-- The fields of ODM_CTL. -/
def Reg.odmCtlFields : List FieldDesc :=
  [⟨.ODM_CTL_BADTOK, .ro, 0, 0, 2 ^ 64⟩,
   ⟨.ODM_CTL_HFWLOCKED, .ro, 0, 0, 2 ^ 64⟩,
   ⟨.ODM_CTL_HFWCLOSE, .w1s, 0, 0, 2 ^ 64⟩]
/-- The fields of ODM_RCAUSE_SOC. -/
def Reg.odmRcauseSocFields : List FieldDesc :=
  [⟨.ODM_RCAUSE_SOC_PWRGOOD, .ro, 0, 0, 2 ^ 64⟩,
   ⟨.ODM_RCAUSE_SOC_PIN, .ro, 0, 0, 2 ^ 64⟩,
   ⟨.ODM_RCAUSE_SOC_REQCOLD, .ro, 0, 0, 2 ^ 64⟩,
   ⟨.ODM_RCAUSE_SOC_REQWARM, .ro, 0, 0, 2 ^ 64⟩,
   ⟨.ODM_RCAUSE_SOC_PREV_CASTOFF, .ro, 0, 0, 2 ^ 64⟩,
   ⟨.ODM_RCAUSE_SOC_PREV_FATAL, .ro, 0, 0, 2 ^ 64⟩,
   ⟨.ODM_RCAUSE_SOC_PREV_THERMTRIP, .ro, 0, 0, 2 ^ 64⟩,
   ⟨.ODM_RCAUSE_SOC_PREV_FORCEOFF, .ro, 0, 0, 2 ^ 64⟩,
   ⟨.ODM_RCAUSE_SOC_PREV_CUT, .ro, 0, 0, 2 ^ 64⟩]
/-- The fields of ODM_RCAUSE. -/
def Reg.odmRcauseFields : List FieldDesc :=
  [⟨.ODM_RCAUSE_REPAIR, .ro, 0, 0, 2 ^ 64⟩,
   ⟨.ODM_RCAUSE_WAKE, .ro, 0, 0, 2 ^ 64⟩,
   ⟨.ODM_RCAUSE_WARM, .ro, 0, 0, 2 ^ 64⟩,
   ⟨.ODM_RCAUSE_COLD, .ro, 0, 0, 2 ^ 64⟩]
/-- The fields of PNL_SLOT. -/
def Reg.pnlSlotFields : List FieldDesc :=
  [⟨.PNL_SLOT_STATE, .ro, 0, 0, 2 ^ 64⟩,
   ⟨.PNL_SLOT_RECORD, .ro, 0, 0, 2 ^ 64⟩,
   ⟨.PNL_SLOT_PLAYBACK, .ro, 0, 0, 2 ^ 64⟩,
   ⟨.PNL_SLOT_DIVERGED, .w1c, 0, 0, 2 ^ 64⟩,
   ⟨.PNL_SLOT_VOID, .w1c, 0, 0, 2 ^ 64⟩,
   ⟨.PNL_SLOT_NMEMB, .ro, 0, 0, 2 ^ 64⟩,
   ⟨.PNL_SLOT_LIMLOG, .ro, 0, 0, 2 ^ 64⟩,
   ⟨.PNL_SLOT_ROW, .ro, 0, 0, 2 ^ 64⟩]
/-- The fields of PNL_STAT. -/
def Reg.pnlStatFields : List FieldDesc :=
  [⟨.PNL_STAT_FROGS, .rc, 0, 0, 2 ^ 64⟩,
   ⟨.PNL_STAT_OUTFROG, .rc, 0, 0, 2 ^ 64⟩,
   ⟨.PNL_STAT_DEVACC, .rc, 0, 0, 2 ^ 64⟩,
   ⟨.PNL_STAT_SREPLAY, .rc, 0, 0, 2 ^ 64⟩]
/-- The fields of PNL_JRNL. -/
def Reg.pnlJrnlFields : List FieldDesc :=
  [⟨.PNL_JRNL_SW, .rw, 0, 0, 2 ^ 64⟩,
   ⟨.PNL_JRNL_DEV, .ro, 0, 0, 2 ^ 64⟩]
/-- The fields of PNL_GPOST. -/
def Reg.pnlGpostFields : List FieldDesc :=
  [⟨.PNL_GPOST_POST, .rw, 0, 0, 2 ^ 64⟩]
/-- The fields of PNL_GSTAT. -/
def Reg.pnlGstatFields : List FieldDesc :=
  [⟨.PNL_GSTAT_ADMIT, .ro, 0, 0, 2 ^ 64⟩,
   ⟨.PNL_GSTAT_TAIL, .ro, 0, 0, 2 ^ 64⟩]
/-- The fields of GATE_HEAD. -/
def Reg.gateHeadFields : List FieldDesc :=
  [⟨.GATE_HEAD_ADMIT, .ro, 0, 0, 2 ^ 64⟩]
/-- The fields of GATE_TAIL. -/
def Reg.gateTailFields : List FieldDesc :=
  [⟨.GATE_TAIL_TAIL, .rw, 0, 0, 2 ^ 64⟩]
/-- The fields of ERB_GLOBAL. -/
def Reg.erbGlobalFields : List FieldDesc :=
  [⟨.ERB_GLOBAL_PIN_FATAL, .ro, 0, 0, 2 ^ 64⟩,
   ⟨.ERB_GLOBAL_PIN_UC, .w1c, 0, 0, 2 ^ 64⟩,
   ⟨.ERB_GLOBAL_PIN_CE, .w1c, 0, 0, 2 ^ 64⟩,
   ⟨.ERB_GLOBAL_RECORDS, .ro, 0, 0, 2 ^ 64⟩]
/-- The fields of ERB_LOG_BASE. -/
def Reg.erbLogBaseFields : List FieldDesc :=
  [⟨.ERB_LOG_BASE_EN, .rw, 0, 0, 2 ^ 64⟩,
   ⟨.ERB_LOG_BASE_CE, .rw, 0, 0, 2 ^ 64⟩,
   ⟨.ERB_LOG_BASE_BASE, .rw, 0, 0, 2 ^ 64⟩,
   ⟨.ERB_LOG_BASE_LOG, .rw, 0, 6, 20⟩]
/-- The fields of ERB_LOG_IDX. -/
def Reg.erbLogIdxFields : List FieldDesc :=
  [⟨.ERB_LOG_IDX_SW, .rw, 0, 0, 2 ^ 64⟩,
   ⟨.ERB_LOG_IDX_DEV, .ro, 0, 0, 2 ^ 64⟩]
/-- The fields of ERB_LOG_STAT. -/
def Reg.erbLogStatFields : List FieldDesc :=
  [⟨.ERB_LOG_STAT_DROPPED, .rc, 0, 0, 2 ^ 64⟩,
   ⟨.ERB_LOG_STAT_PLOST, .rc, 0, 0, 2 ^ 64⟩]
/-- The fields of ERB_STATUS. -/
def Reg.erbStatusFields : List FieldDesc :=
  [⟨.ERB_STATUS_VALID, .w1c, 0, 0, 2 ^ 64⟩,
   ⟨.ERB_STATUS_OVER, .w1c, 0, 0, 2 ^ 64⟩,
   ⟨.ERB_STATUS_CLASS, .ro, 0, 0, 2 ^ 64⟩,
   ⟨.ERB_STATUS_AVALID, .ro, 0, 0, 2 ^ 64⟩,
   ⟨.ERB_STATUS_CODE, .ro, 0, 0, 2 ^ 64⟩,
   ⟨.ERB_STATUS_COUNT, .rc, 0, 0, 2 ^ 64⟩,
   ⟨.ERB_STATUS_UNIT, .ro, 0, 0, 2 ^ 64⟩]
/-- The fields of ERB_ADDR. -/
def Reg.erbAddrFields : List FieldDesc :=
  [⟨.ERB_ADDR_ADDR, .ro, 0, 0, 2 ^ 64⟩]
/-- The fields of ERB_SYND. -/
def Reg.erbSyndFields : List FieldDesc :=
  [⟨.ERB_SYND_SYND, .ro, 0, 0, 2 ^ 64⟩]
/-- The fields of ERB_MISC. -/
def Reg.erbMiscFields : List FieldDesc :=
  [⟨.ERB_MISC_LVALID, .ro, 0, 0, 2 ^ 64⟩,
   ⟨.ERB_MISC_LOGICAL, .ro, 0, 0, 2 ^ 64⟩]
/-- The fields of DEN_STAT. -/
def Reg.denStatFields : List FieldDesc :=
  [⟨.DEN_STAT_LANES, .ro, 255, 0, 2 ^ 64⟩,
   ⟨.DEN_STAT_SLOTS, .ro, 0, 0, 2 ^ 64⟩,
   ⟨.DEN_STAT_SPILLS, .rc, 0, 0, 2 ^ 64⟩]
/-- The fields of DEN_ERR. -/
def Reg.denErrFields : List FieldDesc :=
  [⟨.DEN_ERR_REPLAY, .rc, 0, 0, 2 ^ 64⟩,
   ⟨.DEN_ERR_FAILED, .rc, 0, 0, 2 ^ 64⟩]
/-- The fields of DEN_ICTL. -/
def Reg.denIctlFields : List FieldDesc :=
  [⟨.DEN_ICTL_STATE, .ro, 0, 0, 2 ^ 64⟩,
   ⟨.DEN_ICTL_CSTAT, .ro, 0, 0, 2 ^ 64⟩,
   ⟨.DEN_ICTL_NQ, .rw, 0, 0, 64⟩,
   ⟨.DEN_ICTL_CMD, .wo, 0, 0, 2 ^ 64⟩]
/-- The fields of DEN_IID. -/
def Reg.denIidFields : List FieldDesc :=
  [⟨.DEN_IID_KEYID, .rw, 0, 0, 2 ^ 64⟩,
   ⟨.DEN_IID_TENANT, .rw, 0, 0, 2 ^ 64⟩]
/-- The fields of DEN_ISEG. -/
def Reg.denIsegFields : List FieldDesc :=
  [⟨.DEN_ISEG_LAST, .rw, 0, 0, 2 ^ 64⟩,
   ⟨.DEN_ISEG_BASE, .rw, 0, 0, 2 ^ 64⟩]
/-- The fields of DEN_ISAVE. -/
def Reg.denIsaveFields : List FieldDesc :=
  [⟨.DEN_ISAVE_ADDR, .rw, 0, 0, 2 ^ 64⟩]
/-- The fields of DEN_IMBOX. -/
def Reg.denImboxFields : List FieldDesc :=
  [⟨.DEN_IMBOX_TXFULL, .ro, 0, 0, 2 ^ 64⟩,
   ⟨.DEN_IMBOX_TXACK, .w1s, 0, 0, 2 ^ 64⟩,
   ⟨.DEN_IMBOX_RXFULL, .ro, 0, 0, 2 ^ 64⟩,
   ⟨.DEN_IMBOX_RXGO, .w1s, 0, 0, 2 ^ 64⟩,
   ⟨.DEN_IMBOX_SPOOF, .rc, 0, 0, 2 ^ 64⟩]
/-- The fields of DEN_VTX. -/
def Reg.denVtxFields : List FieldDesc :=
  [⟨.DEN_VTX_DATA, .ro, 0, 0, 2 ^ 64⟩]
/-- The fields of DEN_VRX. -/
def Reg.denVrxFields : List FieldDesc :=
  [⟨.DEN_VRX_DATA, .rw, 0, 0, 2 ^ 64⟩]
/-- The fields of INST_ID. -/
def Reg.instIdFields : List FieldDesc :=
  [⟨.INST_ID_STATE, .ro, 0, 0, 2 ^ 64⟩,
   ⟨.INST_ID_NQ, .ro, 0, 0, 2 ^ 64⟩,
   ⟨.INST_ID_INSTANCE, .ro, 0, 0, 2 ^ 64⟩]
/-- The fields of INST_STAT. -/
def Reg.instStatFields : List FieldDesc :=
  [⟨.INST_STAT_BADDB, .rc, 0, 0, 2 ^ 64⟩,
   ⟨.INST_STAT_QERR, .rc, 0, 0, 2 ^ 64⟩]
/-- The fields of MBOX_CTL. -/
def Reg.mboxCtlFields : List FieldDesc :=
  [⟨.MBOX_CTL_TXFULL, .ro, 0, 0, 2 ^ 64⟩,
   ⟨.MBOX_CTL_TXGO, .w1s, 0, 0, 2 ^ 64⟩,
   ⟨.MBOX_CTL_RXFULL, .ro, 0, 0, 2 ^ 64⟩,
   ⟨.MBOX_CTL_RXACK, .w1s, 0, 0, 2 ^ 64⟩]
/-- The fields of MBOX_TX. -/
def Reg.mboxTxFields : List FieldDesc :=
  [⟨.MBOX_TX_DATA, .rw, 0, 0, 2 ^ 64⟩]
/-- The fields of MBOX_RX. -/
def Reg.mboxRxFields : List FieldDesc :=
  [⟨.MBOX_RX_DATA, .ro, 0, 0, 2 ^ 64⟩]
/-- The fields of Q_WMSTAT. -/
def Reg.qWmstatFields : List FieldDesc :=
  [⟨.Q_WMSTAT_LEVEL, .ro, 0, 0, 2 ^ 64⟩,
   ⟨.Q_WMSTAT_CROSSED, .w1c, 0, 0, 2 ^ 64⟩,
   ⟨.Q_WMSTAT_COUNT, .rc, 0, 0, 2 ^ 64⟩]
/-- The fields of Q_SQ. -/
def Reg.qSqFields : List FieldDesc :=
  [⟨.Q_SQ_BASE, .rw, 0, 0, 2 ^ 64⟩,
   ⟨.Q_SQ_EN, .rw, 0, 0, 2 ^ 64⟩,
   ⟨.Q_SQ_CLASS, .rw, 0, 0, 3⟩,
   ⟨.Q_SQ_SLOG, .rw, 0, 6, 16⟩]
/-- The fields of Q_CQ. -/
def Reg.qCqFields : List FieldDesc :=
  [⟨.Q_CQ_BASE, .rw, 0, 0, 2 ^ 64⟩,
   ⟨.Q_CQ_CLOG, .rw, 0, 7, 17⟩]
/-- The fields of Q_DB. -/
def Reg.qDbFields : List FieldDesc :=
  [⟨.Q_DB_CQHEAD, .rw, 0, 0, 2 ^ 64⟩,
   ⟨.Q_DB_SQTAIL, .rw, 0, 0, 2 ^ 64⟩]
/-- The fields of Q_STAT. -/
def Reg.qStatFields : List FieldDesc :=
  [⟨.Q_STAT_CQWM, .rw, 0, 0, 2 ^ 64⟩,
   ⟨.Q_STAT_QSTATE, .ro, 3, 0, 2 ^ 64⟩,
   ⟨.Q_STAT_SQHEAD, .ro, 0, 0, 2 ^ 64⟩]

/-- The fields that a register's map lists (R5). Swatch-helper fields are RO to software (R292). -/
def Reg.fields : Reg → List FieldDesc
  | .coreIdent _ => Reg.coreIdentFields
  | .coreState _ => Reg.coreStateFields
  | .coreRangeStatus _ => Reg.coreRangeStatusFields
  | .coreUcode _ => Reg.coreUcodeFields
  | .coreReplay _ => Reg.coreReplayFields
  | .corePrefetch _ => Reg.corePrefetchFields
  | .coreXlate _ => Reg.coreXlateFields
  | .corePnl _ => Reg.corePnlFields
  | .corePnlStat _ => Reg.corePnlStatFields
  | .slcState _ => Reg.slcStateFields
  | .slcCos _ _ => Reg.slcCosFields
  | .slcCosCore _ _ => Reg.slcCosCoreFields
  | .slcSpadCtl _ => Reg.slcSpadCtlFields
  | .slcSpadStat _ => Reg.slcSpadStatFields
  | .slcSpadColl _ => Reg.slcSpadCollFields
  | .slcMarchCtl _ => Reg.slcMarchCtlFields
  | .slcMarchStat _ => Reg.slcMarchStatFields
  | .slcRebuild _ => Reg.slcRebuildFields
  | .dirStat _ => Reg.dirStatFields
  | .dirEpoch _ _ => Reg.dirEpochFields
  | .dirDead _ => Reg.dirDeadFields
  | .mcCtl _ => Reg.mcCtlFields
  | .mcErrcnt _ => Reg.mcErrcntFields
  | .mcTimingA0 _ => Reg.mcTimingA0Fields
  | .mcTimingA1 _ => Reg.mcTimingA1Fields
  | .mcTimingA2 _ => Reg.mcTimingA2Fields
  | .mcTimingA3 _ => Reg.mcTimingA3Fields
  | .mcTimingB0 _ => Reg.mcTimingB0Fields
  | .mcTimingB1 _ => Reg.mcTimingB1Fields
  | .mcTimingB2 _ => Reg.mcTimingB2Fields
  | .mcTimingB3 _ => Reg.mcTimingB3Fields
  | .mcSwatchCtl _ => Reg.mcSwatchCtlFields
  | .mcSwatchPat _ => Reg.mcSwatchPatFields
  | .mcSwatchScan _ => Reg.mcSwatchScanFields
  | .mcSwatchErr _ _ => Reg.mcSwatchErrFields
  | .mcCeBucket _ => Reg.mcCeBucketFields
  | .mcCeOvf _ => Reg.mcCeOvfFields
  | .mcLastCe _ => Reg.mcLastCeFields
  | .mcLastCeBits _ => Reg.mcLastCeBitsFields
  | .mcLastUe _ => Reg.mcLastUeFields
  | .mcDscrubBase _ => Reg.mcDscrubBaseFields
  | .mcDscrubLen _ => Reg.mcDscrubLenFields
  | .mcDscrubCtl _ => Reg.mcDscrubCtlFields
  | .mcDscrubSum0 _ => Reg.mcDscrubSum0Fields
  | .mcDscrubSum1 _ => Reg.mcDscrubSum1Fields
  | .mcDscrubFirst _ => Reg.mcDscrubFirstFields
  | .mcDscrubLast _ => Reg.mcDscrubLastFields
  | .mcPatrol _ => Reg.mcPatrolFields
  | .mcZmapStat _ => Reg.mcZmapStatFields
  | .fabTimeout _ => Reg.fabTimeoutFields
  | .fabStat _ => Reg.fabStatFields
  | .fabStallLog _ => Reg.fabStallLogFields
  | .fabSadRange _ => Reg.fabSadRangeFields
  | .fabSadTarget _ => Reg.fabSadTargetFields
  | .fabObsCtl _ _ => Reg.fabObsCtlFields
  | .fabObsMatch _ _ => Reg.fabObsMatchFields
  | .fabObsMask _ _ => Reg.fabObsMaskFields
  | .fabObsRing _ _ => Reg.fabObsRingFields
  | .fabObsIdx _ _ => Reg.fabObsIdxFields
  | .fabObsCnt _ _ => Reg.fabObsCntFields
  | .fabObsBytes _ _ _ => Reg.fabObsBytesFields
  | .fabObsHist _ _ _ _ => Reg.fabObsHistFields
  | .sknState _ => Reg.sknStateFields
  | .sknBrx _ => Reg.sknBrxFields
  | .iosStat _ => Reg.iosStatFields
  | .iosCtxRoot _ => Reg.iosCtxRootFields
  | .iosCtxInv _ => Reg.iosCtxInvFields
  | .iosFault _ => Reg.iosFaultFields
  | .iosFaultAddr _ => Reg.iosFaultAddrFields
  | .iosAtsLog _ => Reg.iosAtsLogFields
  | .iosOwinRange _ _ => Reg.iosOwinRangeFields
  | .iosOwinXlate _ _ => Reg.iosOwinXlateFields
  | .evcCtl => Reg.evcCtlFields
  | .evcMtab => Reg.evcMtabFields
  | .evcPdt => Reg.evcPdtFields
  | .evcMtinv => Reg.evcMtinvFields
  | .evcWmwin => Reg.evcWmwinFields
  | .evcStat => Reg.evcStatFields
  | .evcMsgdb => Reg.evcMsgdbFields
  | .evcWroute _ => Reg.evcWrouteFields
  | .evcEqBase _ => Reg.evcEqBaseFields
  | .evcEqIdx _ => Reg.evcEqIdxFields
  | .evcEqWm _ => Reg.evcEqWmFields
  | .evcInstMsg _ => Reg.evcInstMsgFields
  | .evcRwm _ => Reg.evcRwmFields
  | .pwrStat => Reg.pwrStatFields
  | .pwrSafe => Reg.pwrSafeFields
  | .pwrWakePc => Reg.pwrWakePcFields
  | .pwrDom _ => Reg.pwrDomFields
  | .pwrVset _ => Reg.pwrVsetFields
  | .pwrSense _ => Reg.pwrSenseFields
  | .stwStat _ => Reg.stwStatFields
  | .odmMbCtl _ => Reg.odmMbCtlFields
  | .odmMbReq _ _ => Reg.odmMbReqFields
  | .odmMbRsp _ _ => Reg.odmMbRspFields
  | .odmCtl => Reg.odmCtlFields
  | .odmRcauseSoc => Reg.odmRcauseSocFields
  | .odmRcause _ => Reg.odmRcauseFields
  | .pnlSlot _ => Reg.pnlSlotFields
  | .pnlStat _ => Reg.pnlStatFields
  | .pnlJrnl _ => Reg.pnlJrnlFields
  | .pnlGpost _ _ => Reg.pnlGpostFields
  | .pnlGstat _ _ => Reg.pnlGstatFields
  | .gateHead _ _ => Reg.gateHeadFields
  | .gateTail _ _ => Reg.gateTailFields
  | .erbGlobal => Reg.erbGlobalFields
  | .erbLogBase => Reg.erbLogBaseFields
  | .erbLogIdx => Reg.erbLogIdxFields
  | .erbLogStat => Reg.erbLogStatFields
  | .erbStatus _ => Reg.erbStatusFields
  | .erbAddr _ => Reg.erbAddrFields
  | .erbSynd _ => Reg.erbSyndFields
  | .erbMisc _ => Reg.erbMiscFields
  | .denStat _ => Reg.denStatFields
  | .denErr _ => Reg.denErrFields
  | .denIctl _ => Reg.denIctlFields
  | .denIid _ => Reg.denIidFields
  | .denIseg _ => Reg.denIsegFields
  | .denIsave _ => Reg.denIsaveFields
  | .denImbox _ => Reg.denImboxFields
  | .denVtx _ _ => Reg.denVtxFields
  | .denVrx _ _ => Reg.denVrxFields
  | .instId _ => Reg.instIdFields
  | .instStat _ => Reg.instStatFields
  | .mboxCtl _ => Reg.mboxCtlFields
  | .mboxTx _ _ => Reg.mboxTxFields
  | .mboxRx _ _ => Reg.mboxRxFields
  | .qWmstat _ _ => Reg.qWmstatFields
  | .qSq _ _ => Reg.qSqFields
  | .qCq _ _ => Reg.qCqFields
  | .qDb _ _ => Reg.qDbFields
  | .qStat _ _ => Reg.qStatFields

/-- Registers that answer in every power state of their unit (R29). -/
def Reg.alwaysReachable : Reg → Bool
  | .coreIdent _ => true
  | .coreState _ => true
  | .coreRangeStatus _ => false
  | .coreUcode _ => true
  | .coreReplay _ => false
  | .corePrefetch _ => false
  | .coreXlate _ => true
  | .corePnl _ => true
  | .corePnlStat _ => true
  | .slcState _ => true
  | .slcCos _ _ => false
  | .slcCosCore _ _ => false
  | .slcSpadCtl _ => false
  | .slcSpadStat _ => false
  | .slcSpadColl _ => false
  | .slcMarchCtl _ => false
  | .slcMarchStat _ => false
  | .slcRebuild _ => true
  | .dirStat _ => false
  | .dirEpoch _ _ => false
  | .dirDead _ => false
  | .mcCtl _ => true
  | .mcErrcnt _ => true
  | .mcTimingA0 _ => false
  | .mcTimingA1 _ => false
  | .mcTimingA2 _ => false
  | .mcTimingA3 _ => false
  | .mcTimingB0 _ => false
  | .mcTimingB1 _ => false
  | .mcTimingB2 _ => false
  | .mcTimingB3 _ => false
  | .mcSwatchCtl _ => false
  | .mcSwatchPat _ => false
  | .mcSwatchScan _ => false
  | .mcSwatchErr _ _ => false
  | .mcCeBucket _ => false
  | .mcCeOvf _ => false
  | .mcLastCe _ => true
  | .mcLastCeBits _ => true
  | .mcLastUe _ => true
  | .mcDscrubBase _ => false
  | .mcDscrubLen _ => false
  | .mcDscrubCtl _ => false
  | .mcDscrubSum0 _ => false
  | .mcDscrubSum1 _ => false
  | .mcDscrubFirst _ => false
  | .mcDscrubLast _ => false
  | .mcPatrol _ => false
  | .mcZmapStat _ => false
  | .fabTimeout _ => true
  | .fabStat _ => true
  | .fabStallLog _ => true
  | .fabSadRange _ => false
  | .fabSadTarget _ => false
  | .fabObsCtl _ _ => false
  | .fabObsMatch _ _ => false
  | .fabObsMask _ _ => false
  | .fabObsRing _ _ => false
  | .fabObsIdx _ _ => false
  | .fabObsCnt _ _ => false
  | .fabObsBytes _ _ _ => false
  | .fabObsHist _ _ _ _ => false
  | .sknState _ => true
  | .sknBrx _ => true
  | .iosStat _ => true
  | .iosCtxRoot _ => true
  | .iosCtxInv _ => true
  | .iosFault _ => true
  | .iosFaultAddr _ => true
  | .iosAtsLog _ => true
  | .iosOwinRange _ _ => true
  | .iosOwinXlate _ _ => true
  | .evcCtl => true
  | .evcMtab => true
  | .evcPdt => true
  | .evcMtinv => true
  | .evcWmwin => true
  | .evcStat => true
  | .evcMsgdb => true
  | .evcWroute _ => true
  | .evcEqBase _ => true
  | .evcEqIdx _ => true
  | .evcEqWm _ => true
  | .evcInstMsg _ => true
  | .evcRwm _ => true
  | .pwrStat => true
  | .pwrSafe => true
  | .pwrWakePc => true
  | .pwrDom _ => true
  | .pwrVset _ => true
  | .pwrSense _ => true
  | .stwStat _ => true
  | .odmMbCtl _ => true
  | .odmMbReq _ _ => true
  | .odmMbRsp _ _ => true
  | .odmCtl => true
  | .odmRcauseSoc => true
  | .odmRcause _ => true
  | .pnlSlot _ => true
  | .pnlStat _ => true
  | .pnlJrnl _ => true
  | .pnlGpost _ _ => true
  | .pnlGstat _ _ => true
  | .gateHead _ _ => true
  | .gateTail _ _ => true
  | .erbGlobal => true
  | .erbLogBase => true
  | .erbLogIdx => true
  | .erbLogStat => true
  | .erbStatus _ => true
  | .erbAddr _ => true
  | .erbSynd _ => true
  | .erbMisc _ => true
  | .denStat _ => true
  | .denErr _ => true
  | .denIctl _ => false
  | .denIid _ => false
  | .denIseg _ => false
  | .denIsave _ => false
  | .denImbox _ => false
  | .denVtx _ _ => false
  | .denVrx _ _ => false
  | .instId _ => false
  | .instStat _ => false
  | .mboxCtl _ => false
  | .mboxTx _ _ => false
  | .mboxRx _ _ => false
  | .qWmstat _ _ => false
  | .qSq _ _ => false
  | .qCq _ _ => false
  | .qDb _ _ => false
  | .qStat _ _ => false

/-- The power domain of a register's unit (R377); none for the always-on blocks, and none for the IOS_ registers, which R377 places in no domain
and which are reachable always (log entry 123). -/
def Reg.domain : Reg → Option Nat
  | .coreIdent c => some c
  | .coreState c => some c
  | .coreRangeStatus c => some c
  | .coreUcode c => some c
  | .coreReplay c => some c
  | .corePrefetch c => some c
  | .coreXlate c => some c
  | .corePnl c => some c
  | .corePnlStat c => some c
  | .slcState n => some (264 + n)
  | .slcCos n _ => some (264 + n)
  | .slcCosCore n _ => some (264 + n)
  | .slcSpadCtl n => some (264 + n)
  | .slcSpadStat n => some (264 + n)
  | .slcSpadColl n => some (264 + n)
  | .slcMarchCtl n => some (264 + n)
  | .slcMarchStat n => some (264 + n)
  | .slcRebuild n => some (264 + n)
  | .dirStat n => some (264 + n)
  | .dirEpoch n _ => some (264 + n)
  | .dirDead n => some (264 + n)
  | .mcCtl n => some (396 + n)
  | .mcErrcnt n => some (396 + n)
  | .mcTimingA0 n => some (396 + n)
  | .mcTimingA1 n => some (396 + n)
  | .mcTimingA2 n => some (396 + n)
  | .mcTimingA3 n => some (396 + n)
  | .mcTimingB0 n => some (396 + n)
  | .mcTimingB1 n => some (396 + n)
  | .mcTimingB2 n => some (396 + n)
  | .mcTimingB3 n => some (396 + n)
  | .mcSwatchCtl n => some (396 + n)
  | .mcSwatchPat n => some (396 + n)
  | .mcSwatchScan n => some (396 + n)
  | .mcSwatchErr n _ => some (396 + n)
  | .mcCeBucket n => some (396 + n)
  | .mcCeOvf n => some (396 + n)
  | .mcLastCe n => some (396 + n)
  | .mcLastCeBits n => some (396 + n)
  | .mcLastUe n => some (396 + n)
  | .mcDscrubBase n => some (396 + n)
  | .mcDscrubLen n => some (396 + n)
  | .mcDscrubCtl n => some (396 + n)
  | .mcDscrubSum0 n => some (396 + n)
  | .mcDscrubSum1 n => some (396 + n)
  | .mcDscrubFirst n => some (396 + n)
  | .mcDscrubLast n => some (396 + n)
  | .mcPatrol n => some (396 + n)
  | .mcZmapStat n => some (396 + n)
  | .fabTimeout q => some (448 + q)
  | .fabStat q => some (448 + q)
  | .fabStallLog q => some (448 + q)
  | .fabSadRange _ => some 448
  | .fabSadTarget _ => some 448
  | .fabObsCtl q _ => some (448 + q)
  | .fabObsMatch q _ => some (448 + q)
  | .fabObsMask q _ => some (448 + q)
  | .fabObsRing q _ => some (448 + q)
  | .fabObsIdx q _ => some (448 + q)
  | .fabObsCnt q _ => some (448 + q)
  | .fabObsBytes q _ _ => some (448 + q)
  | .fabObsHist q _ _ _ => some (448 + q)
  | .sknState k => some (412 + k)
  | .sknBrx k => some (412 + k)
  | .iosStat _ => none
  | .iosCtxRoot _ => none
  | .iosCtxInv _ => none
  | .iosFault _ => none
  | .iosFaultAddr _ => none
  | .iosAtsLog _ => none
  | .iosOwinRange _ _ => none
  | .iosOwinXlate _ _ => none
  | .evcCtl => none
  | .evcMtab => none
  | .evcPdt => none
  | .evcMtinv => none
  | .evcWmwin => none
  | .evcStat => none
  | .evcMsgdb => none
  | .evcWroute _ => none
  | .evcEqBase _ => none
  | .evcEqIdx _ => none
  | .evcEqWm _ => none
  | .evcInstMsg _ => none
  | .evcRwm _ => none
  | .pwrStat => none
  | .pwrSafe => none
  | .pwrWakePc => none
  | .pwrDom _ => none
  | .pwrVset _ => none
  | .pwrSense _ => none
  | .stwStat _ => none
  | .odmMbCtl _ => none
  | .odmMbReq _ _ => none
  | .odmMbRsp _ _ => none
  | .odmCtl => none
  | .odmRcauseSoc => none
  | .odmRcause _ => none
  | .pnlSlot _ => none
  | .pnlStat _ => none
  | .pnlJrnl _ => none
  | .pnlGpost _ _ => none
  | .pnlGstat _ _ => none
  | .gateHead _ _ => none
  | .gateTail _ _ => none
  | .erbGlobal => none
  | .erbLogBase => none
  | .erbLogIdx => none
  | .erbLogStat => none
  | .erbStatus _ => none
  | .erbAddr _ => none
  | .erbSynd _ => none
  | .erbMisc _ => none
  | .denStat e => some (444 + e)
  | .denErr e => some (444 + e)
  | .denIctl i => some (444 + i / 1024)
  | .denIid i => some (444 + i / 1024)
  | .denIseg i => some (444 + i / 1024)
  | .denIsave i => some (444 + i / 1024)
  | .denImbox i => some (444 + i / 1024)
  | .denVtx i _ => some (444 + i / 1024)
  | .denVrx i _ => some (444 + i / 1024)
  | .instId i => some (444 + i / 1024)
  | .instStat i => some (444 + i / 1024)
  | .mboxCtl i => some (444 + i / 1024)
  | .mboxTx i _ => some (444 + i / 1024)
  | .mboxRx i _ => some (444 + i / 1024)
  | .qWmstat i _ => some (444 + i / 1024)
  | .qSq i _ => some (444 + i / 1024)
  | .qCq i _ => some (444 + i / 1024)
  | .qDb i _ => some (444 + i / 1024)
  | .qStat i _ => some (444 + i / 1024)

/-- The value of a field list after a cold reset. -/
def resetOf : List FieldDesc → Word
  | [] => 0
  | d :: t => setF (resetOf t) d.f d.rst

/-- The register's value after a cold reset, before what cast-on loads. -/
def Reg.reset (r : Reg) : Word := resetOf r.fields

/-- `n` when it is below `count`. -/
def below (count n : Nat) : Option Nat := if n < count then some n else none

/-- The register at offset `o` of a core's block. -/
def regInCore (c o : Nat) : Option Reg :=
  if o = 0x0 then some (.coreIdent c)
  else if o = 0x8 then some (.coreState c)
  else if o = 0x10 then some (.coreRangeStatus c)
  else if o = 0x100 then some (.coreUcode c)
  else if o = 0x108 then some (.coreReplay c)
  else if o = 0x110 then some (.corePrefetch c)
  else if o = 0x2000 then some (.coreXlate c)
  else if o = 0x3000 then some (.corePnl c)
  else if o = 0x3008 then some (.corePnlStat c)
  else none

/-- The register at offset `o` of a slice's block. -/
def regInSlice (n o : Nat) : Option Reg :=
  if o = 0x0 then some (.slcState n)
  else if 0x100 ≤ o ∧ o < 0x180 ∧ (o - 0x100) % 0x8 = 0 then some (.slcCos n ((o - 0x100) / 0x8))
  else if 0x200 ≤ o ∧ o < 0x288 ∧ (o - 0x200) % 0x8 = 0 then some (.slcCosCore n ((o - 0x200) / 0x8))
  else if o = 0x300 then some (.slcSpadCtl n)
  else if o = 0x308 then some (.slcSpadStat n)
  else if o = 0x310 then some (.slcSpadColl n)
  else if o = 0x400 then some (.slcMarchCtl n)
  else if o = 0x408 then some (.slcMarchStat n)
  else if o = 0x500 then some (.slcRebuild n)
  else if o = 0x8000 then some (.dirStat n)
  else if 0x8100 ≤ o ∧ o < 0x8208 ∧ (o - 0x8100) % 0x8 = 0 then some (.dirEpoch n ((o - 0x8100) / 0x8))
  else if o = 0x8300 then some (.dirDead n)
  else none

/-- The register at offset `o` of a channel's block. -/
def regInMc (n o : Nat) : Option Reg :=
  if o = 0x0 then some (.mcCtl n)
  else if o = 0x8 then some (.mcErrcnt n)
  else if o = 0x100 then some (.mcTimingA0 n)
  else if o = 0x108 then some (.mcTimingA1 n)
  else if o = 0x110 then some (.mcTimingA2 n)
  else if o = 0x118 then some (.mcTimingA3 n)
  else if o = 0x120 then some (.mcTimingB0 n)
  else if o = 0x128 then some (.mcTimingB1 n)
  else if o = 0x130 then some (.mcTimingB2 n)
  else if o = 0x138 then some (.mcTimingB3 n)
  else if o = 0x200 then some (.mcSwatchCtl n)
  else if o = 0x208 then some (.mcSwatchPat n)
  else if o = 0x210 then some (.mcSwatchScan n)
  else if 0x280 ≤ o ∧ o < 0x320 ∧ (o - 0x280) % 0x8 = 0 then some (.mcSwatchErr n ((o - 0x280) / 0x8))
  else if o = 0x400 then some (.mcCeBucket n)
  else if o = 0x408 then some (.mcCeOvf n)
  else if o = 0x410 then some (.mcLastCe n)
  else if o = 0x418 then some (.mcLastCeBits n)
  else if o = 0x420 then some (.mcLastUe n)
  else if o = 0x500 then some (.mcDscrubBase n)
  else if o = 0x508 then some (.mcDscrubLen n)
  else if o = 0x510 then some (.mcDscrubCtl n)
  else if o = 0x518 then some (.mcDscrubSum0 n)
  else if o = 0x520 then some (.mcDscrubSum1 n)
  else if o = 0x528 then some (.mcDscrubFirst n)
  else if o = 0x530 then some (.mcDscrubLast n)
  else if o = 0x540 then some (.mcPatrol n)
  else if o = 0x600 then some (.mcZmapStat n)
  else none

/-- The register at offset `o` of an observation unit's registers. -/
def regInObs (q u o : Nat) : Option Reg :=
  if o = 0x0 then some (.fabObsCtl q u)
  else if o = 0x8 then some (.fabObsMatch q u)
  else if o = 0x10 then some (.fabObsMask q u)
  else if o = 0x18 then some (.fabObsRing q u)
  else if o = 0x20 then some (.fabObsIdx q u)
  else if o = 0x28 then some (.fabObsCnt q u)
  else if 0x40 ≤ o ∧ o < 0x60 ∧ o % 8 = 0 then some (.fabObsBytes q u ((o - 0x40) / 8))
  else if 0x80 ≤ o ∧ o < 0x100 ∧ o % 8 = 0 then some (.fabObsHist q u ((o - 0x80) / 0x20) ((o - 0x80) % 0x20 / 8))
  else none

/-- The register at offset `o` of a quadrant's fabric block (R255): the address decoder is quadrant 0's alone. -/
def regInFab (q o : Nat) : Option Reg :=
  if o = 0x0 then some (.fabTimeout q)
  else if o = 0x8 then some (.fabStat q)
  else if o = 0x10 then some (.fabStallLog q)
  else if q = 0 ∧ 0x10000 ≤ o ∧ o < 0x10800 ∧ o % 0x10 = 0 then some (.fabSadRange ((o - 0x10000) / 0x10))
  else if q = 0 ∧ 0x10000 ≤ o ∧ o < 0x10800 ∧ o % 0x10 = 8 then some (.fabSadTarget ((o - 0x10000) / 0x10))
  else if 0x20000 ≤ o ∧ o < 0x20400 then regInObs q ((o - 0x20000) / 0x100) ((o - 0x20000) % 0x100)
  else none

/-- The register at offset `o` of an I/O stop's block. -/
def regInIos (g o : Nat) : Option Reg :=
  if o = 0x0 then some (.iosStat g)
  else if o = 0x10 then some (.iosCtxRoot g)
  else if o = 0x18 then some (.iosCtxInv g)
  else if o = 0x20 then some (.iosFault g)
  else if o = 0x28 then some (.iosFaultAddr g)
  else if o = 0x30 then some (.iosAtsLog g)
  else if 0x1000 ≤ o ∧ o < 0x1400 ∧ (o - 0x1000) % 0x10 = 0 then some (.iosOwinRange g ((o - 0x1000) / 0x10))
  else if 0x1008 ≤ o ∧ o < 0x1408 ∧ (o - 0x1008) % 0x10 = 0 then some (.iosOwinXlate g ((o - 0x1008) / 0x10))
  else none

/-- The register at offset `o` of the event controller's block. -/
def regInEvc (o : Nat) : Option Reg :=
  if o = 0x0 then some (.evcCtl)
  else if o = 0x8 then some (.evcMtab)
  else if o = 0x10 then some (.evcPdt)
  else if o = 0x18 then some (.evcMtinv)
  else if o = 0x20 then some (.evcWmwin)
  else if o = 0x28 then some (.evcStat)
  else if o = 0x100000 then some (.evcMsgdb)
  else if 0x800 ≤ o ∧ o < 0x8c00 ∧ (o - 0x800) % 0x8 = 0 then some (.evcWroute ((o - 0x800) / 0x8))
  else if 0x20000 ≤ o ∧ o < 0x28000 ∧ (o - 0x20000) % 0x8 = 0 then some (.evcInstMsg ((o - 0x20000) / 0x8))
  else if 0x30000 ≤ o ∧ o < 0x30108 ∧ (o - 0x30000) % 0x8 = 0 then some (.evcRwm ((o - 0x30000) / 0x8))
  else if 0x10000 ≤ o ∧ o < 0x12000 ∧ o % 0x20 = 0x0 then some (.evcEqBase ((o - 0x10000) / 0x20))
  else if 0x10000 ≤ o ∧ o < 0x12000 ∧ o % 0x20 = 0x8 then some (.evcEqIdx ((o - 0x10000) / 0x20))
  else if 0x10000 ≤ o ∧ o < 0x12000 ∧ o % 0x20 = 0x10 then some (.evcEqWm ((o - 0x10000) / 0x20))
  else none

/-- The register at offset `o` of the power block. -/
def regInPwr (o : Nat) : Option Reg :=
  if o = 0x0 then some .pwrStat
  else if o = 0x8 then some .pwrSafe
  else if o = 0x10 then some .pwrWakePc
  else if 0x10000 ≤ o ∧ o < 0x13880 ∧ o % 0x20 = 0x0 then some (.pwrDom ((o - 0x10000) / 0x20))
  else if 0x10000 ≤ o ∧ o < 0x13880 ∧ o % 0x20 = 0x8 then some (.pwrVset ((o - 0x10000) / 0x20))
  else if 0x10000 ≤ o ∧ o < 0x13880 ∧ o % 0x20 = 0x10 then some (.pwrSense ((o - 0x10000) / 0x20))
  else if 0x100000 ≤ o ∧ o < 0x104100 ∧ o % 0x100 = 0 then some (.stwStat ((o - 0x100000) / 0x100))
  else none

/-- The register at offset `o` of the dictionary block, less the flash window. -/
def regInOdm (o : Nat) : Option Reg :=
  if o = 0x2000 then some .odmCtl
  else if o = 0x3000 then some .odmRcauseSoc
  else if 0x10000 ≤ o ∧ o < 0x10e20 ∧ o % 8 = 0 then some (.odmRcause ((o - 0x10000) / 8))
  else if o < 0x2000 ∧ o % 0x1000 = 0 then some (.odmMbCtl (o / 0x1000))
  else if o < 0x2000 ∧ 0x100 ≤ o % 0x1000 ∧ o % 0x1000 < 0x200 ∧ o % 8 = 0 then some (.odmMbReq (o / 0x1000) ((o % 0x1000 - 0x100) / 8))
  else if o < 0x2000 ∧ 0x200 ≤ o % 0x1000 ∧ o % 0x1000 < 0x300 ∧ o % 8 = 0 then some (.odmMbRsp (o / 0x1000) ((o % 0x1000 - 0x200) / 8))
  else none

/-- The register at offset `o` of the panel block. -/
def regInPnl (o : Nat) : Option Reg :=
  if o < 0x1000 ∧ o % 0x100 = 0x0 then some (.pnlSlot (o / 0x100))
  else if o < 0x1000 ∧ o % 0x100 = 0x8 then some (.pnlStat (o / 0x100))
  else if o < 0x1000 ∧ o % 0x100 = 0x10 then some (.pnlJrnl (o / 0x100))
  else if o < 0x1000 ∧ 0x40 ≤ o % 0x100 ∧ o % 0x100 < 0x80 ∧ o % 8 = 0 then some (.pnlGpost (o / 0x100) ((o % 0x100 - 0x40) / 8))
  else if o < 0x1000 ∧ 0x80 ≤ o % 0x100 ∧ o % 0x100 < 0xc0 ∧ o % 8 = 0 then some (.pnlGstat (o / 0x100) ((o % 0x100 - 0x80) / 8))
  else if 0x100000 ≤ o ∧ o < 0x110000 ∧ o % 0x1000 < 0x80 ∧ o % 0x10 = 0 then some (.gateHead ((o - 0x100000) / 0x1000) (o % 0x1000 / 0x10))
  else if 0x100000 ≤ o ∧ o < 0x110000 ∧ o % 0x1000 < 0x80 ∧ o % 0x10 = 8 then some (.gateTail ((o - 0x100000) / 0x1000) (o % 0x1000 / 0x10))
  else none

/-- The register at offset `o` of the error block. -/
def regInErb (o : Nat) : Option Reg :=
  if o = 0x0 then some .erbGlobal
  else if o = 0x8 then some .erbLogBase
  else if o = 0x10 then some .erbLogIdx
  else if o = 0x18 then some .erbLogStat
  else if 0x10000 ≤ o ∧ o < 0x135e0 ∧ o % 0x20 = 0x0 then some (.erbStatus ((o - 0x10000) / 0x20))
  else if 0x10000 ≤ o ∧ o < 0x135e0 ∧ o % 0x20 = 0x8 then some (.erbAddr ((o - 0x10000) / 0x20))
  else if 0x10000 ≤ o ∧ o < 0x135e0 ∧ o % 0x20 = 0x10 then some (.erbSynd ((o - 0x10000) / 0x20))
  else if 0x10000 ≤ o ∧ o < 0x135e0 ∧ o % 0x20 = 0x18 then some (.erbMisc ((o - 0x10000) / 0x20))
  else none

/-- The register at offset `o` of a tenant page. -/
def regInPage (i o : Nat) : Option Reg :=
  if o = 0x0 then some (.instId i)
  else if o = 0x8 then some (.instStat i)
  else if o = 0x10 then some (.mboxCtl i)
  else if 0x100 ≤ o ∧ o < 0x140 ∧ o % 8 = 0 then some (.mboxTx i ((o - 0x100) / 8))
  else if 0x140 ≤ o ∧ o < 0x180 ∧ o % 8 = 0 then some (.mboxRx i ((o - 0x140) / 8))
  else if 0x200 ≤ o ∧ o < 0x400 ∧ o % 8 = 0 then some (.qWmstat i ((o - 0x200) / 8))
  else if 0x800 ≤ o ∧ o < 0x1000 ∧ o % 0x20 = 0x0 then some (.qSq i ((o - 0x800) / 0x20))
  else if 0x800 ≤ o ∧ o < 0x1000 ∧ o % 0x20 = 0x8 then some (.qCq i ((o - 0x800) / 0x20))
  else if 0x800 ≤ o ∧ o < 0x1000 ∧ o % 0x20 = 0x10 then some (.qDb i ((o - 0x800) / 0x20))
  else if 0x800 ≤ o ∧ o < 0x1000 ∧ o % 0x20 = 0x18 then some (.qStat i ((o - 0x800) / 0x20))
  else none

/-- The register at offset `o` of an engine's block. -/
def regInDen (e o : Nat) : Option Reg :=
  if o = 0x0 then some (.denStat e)
  else if o = 0x8 then some (.denErr e)
  else if 0x10000 ≤ o ∧ o < 0x20000 ∧ o % 0x40 = 0x0 then some (.denIctl (e * 1024 + (o - 0x10000) / 0x40))
  else if 0x10000 ≤ o ∧ o < 0x20000 ∧ o % 0x40 = 0x8 then some (.denIid (e * 1024 + (o - 0x10000) / 0x40))
  else if 0x10000 ≤ o ∧ o < 0x20000 ∧ o % 0x40 = 0x10 then some (.denIseg (e * 1024 + (o - 0x10000) / 0x40))
  else if 0x10000 ≤ o ∧ o < 0x20000 ∧ o % 0x40 = 0x18 then some (.denIsave (e * 1024 + (o - 0x10000) / 0x40))
  else if 0x10000 ≤ o ∧ o < 0x20000 ∧ o % 0x40 = 0x20 then some (.denImbox (e * 1024 + (o - 0x10000) / 0x40))
  else if 0x20000 ≤ o ∧ o < 0x40000 ∧ o % 0x80 < 0x40 ∧ o % 8 = 0 then some (.denVtx (e * 1024 + (o - 0x20000) / 0x80) (o % 0x80 / 8))
  else if 0x20000 ≤ o ∧ o < 0x40000 ∧ 0x40 ≤ o % 0x80 ∧ o % 8 = 0 then some (.denVrx (e * 1024 + (o - 0x20000) / 0x80) ((o % 0x80 - 0x40) / 8))
  else if 0x800000 ≤ o ∧ o < 0xc00000 then regInPage (e * 1024 + (o - 0x800000) / 0x1000) (o % 0x1000)
  else none

/-- The register at an offset from CSB (R27, R28); none where no chapter lists one. -/
def Reg.ofOffset (o : Nat) : Option Reg :=
  if o < 264 * 0x8000 then regInCore (o / 0x8000) (o % 0x8000)
  else if 0x1000000 ≤ o ∧ o < 0x1000000 + 132 * 0x10000 then regInSlice ((o - 0x1000000) / 0x10000) (o % 0x10000)
  else if 0x2000000 ≤ o ∧ o < 0x3000000 then regInMc ((o - 0x2000000) / 0x100000) (o % 0x100000)
  else if 0x3000000 ≤ o ∧ o < 0x4000000 then regInFab ((o - 0x3000000) / 0x400000) (o % 0x400000)
  else if 0x4000000 ≤ o ∧ o < 0x4200000 ∧ o % 0x10000 = 0 then some (.sknState ((o - 0x4000000) / 0x10000))
  else if 0x4000000 ≤ o ∧ o < 0x4200000 ∧ o % 0x20000 = 8 then some (.sknBrx ((o - 0x4000000) / 0x10000))
  else if 0x4800000 ≤ o ∧ o < 0x4880000 then regInIos ((o - 0x4800000) / 0x10000) (o % 0x10000)
  else if 0x6000000 ≤ o ∧ o < 0x7000000 then regInEvc (o - 0x6000000)
  else if 0x7000000 ≤ o ∧ o < 0x8000000 then regInPwr (o - 0x7000000)
  else if 0x8000000 ≤ o ∧ o < 0x8800000 then regInOdm (o - 0x8000000)
  else if 0x9000000 ≤ o ∧ o < 0xa000000 then regInPnl (o - 0x9000000)
  else if 0xa000000 ≤ o ∧ o < 0xb000000 then regInErb (o - 0xa000000)
  else if 0x10000000 ≤ o ∧ o < 0x14000000 then regInDen ((o - 0x10000000) / 0x1000000) (o % 0x1000000)
  else none

end Sys2Proof.Machine
end

