-- ==== Sys2Proof/Machine/Acc.lean ====
section
/-! DEFINITION. Access to the parts of the device: units by number, registers and fields by name, the numbering
rules of R13 to R18, power states of units, reports, and free values. -/

namespace Sys2Proof.Machine

/-- Answers a next state whose queue is unchanged. -/
def State.next (s : State) (d : Dev) : Host.Outcome State Fault Refusal := .next { s with dev := d }

/-! ### Units by number -/

def Dev.core (d : Dev) (c : Nat) : Core := Tbl.get Core.reset c d.cores
def Dev.setCore (d : Dev) (c : Nat) (k : Core) : Dev := { d with cores := Tbl.put Core.reset c k d.cores }
def Dev.modCore (d : Dev) (c : Nat) (f : Core → Core) : Dev := d.setCore c (f (d.core c))
def Dev.arch (d : Dev) (c : Nat) : Arch := (d.core c).arch
def Dev.modArch (d : Dev) (c : Nat) (f : Arch → Arch) : Dev := d.modCore c fun k => { k with arch := f k.arch }
def Dev.slice (d : Dev) (n : Nat) : Slice := Tbl.get Slice.reset n d.slices
def Dev.modSlice (d : Dev) (n : Nat) (f : Slice → Slice) : Dev :=
  { d with slices := Tbl.put Slice.reset n (f (d.slice n)) d.slices }
def Dev.chan (d : Dev) (n : Nat) : ChanSt := Tbl.get ChanSt.reset n d.chans
def Dev.modChan (d : Dev) (n : Nat) (f : ChanSt → ChanSt) : Dev :=
  { d with chans := Tbl.put ChanSt.reset n (f (d.chan n)) d.chans }
def Dev.panel (d : Dev) (n : Nat) : Panel := Tbl.get Panel.reset n d.panels
def Dev.modPanel (d : Dev) (n : Nat) (f : Panel → Panel) : Dev :=
  { d with panels := Tbl.put Panel.reset n (f (d.panel n)) d.panels }
def Dev.port (d : Dev) (n : Nat) : PortSt := Tbl.get PortSt.reset n d.ports
def Dev.modPort (d : Dev) (n : Nat) (f : PortSt → PortSt) : Dev :=
  { d with ports := Tbl.put PortSt.reset n (f (d.port n)) d.ports }
def Dev.stop (d : Dev) (n : Nat) : IoStop := Tbl.get IoStop.reset n d.stops
def Dev.modStop (d : Dev) (n : Nat) (f : IoStop → IoStop) : Dev :=
  { d with stops := Tbl.put IoStop.reset n (f (d.stop n)) d.stops }
def Dev.link (d : Dev) (n : Nat) : BrxLink := Tbl.get BrxLink.reset n d.brx
def Dev.modLink (d : Dev) (n : Nat) (f : BrxLink → BrxLink) : Dev :=
  { d with brx := Tbl.put BrxLink.reset n (f (d.link n)) d.brx }
def Dev.engine (d : Dev) (n : Nat) : Engine := Tbl.get Engine.reset n d.engines
def Dev.modEngine (d : Dev) (n : Nat) (f : Engine → Engine) : Dev :=
  { d with engines := Tbl.put Engine.reset n (f (d.engine n)) d.engines }
/-- Queue `q` of share `i` of an engine, keyed 64 i + q. -/
def Dev.queue (d : Dev) (n : Nat) : QueueSt := Tbl.get QueueSt.reset n d.queues
def Dev.modQueue (d : Dev) (n : Nat) (f : QueueSt → QueueSt) : Dev :=
  { d with queues := Tbl.put QueueSt.reset n (f (d.queue n)) d.queues }
def Dev.dom (d : Dev) (n : Nat) : DomSt := Tbl.get DomSt.reset n d.doms
def Dev.modDom (d : Dev) (n : Nat) (f : DomSt → DomSt) : Dev :=
  { d with doms := Tbl.put DomSt.reset n (f (d.dom n)) d.doms }

/-! ### Registers -/

/-- The stored value of a control-space register. -/
def Dev.reg (d : Dev) (r : Reg) : Word := Tbl.get r.reset r.offset d.csr
def Dev.setReg (d : Dev) (r : Reg) (v : Word) : Dev := { d with csr := Tbl.put r.reset r.offset v d.csr }
/-- A field of a stored register. -/
def Dev.fld (d : Dev) (r : Reg) (f : Fld) : Nat := getF (d.reg r) f
def Dev.bit (d : Dev) (r : Reg) (f : Fld) : Bool := d.fld r f != 0
def Dev.setFld (d : Dev) (r : Reg) (f : Fld) (x : Nat) : Dev := d.setReg r (setF (d.reg r) f x)
def Dev.setFlds (d : Dev) (r : Reg) (fs : List (Fld × Nat)) : Dev :=
  d.setReg r (fs.foldl (fun w p => setF w p.1 p.2) (d.reg r))
/-- A saturating counter field. -/
def Dev.countFld (d : Dev) (r : Reg) (f : Fld) (k : Nat) : Dev := d.setFld r f (satAdd f.width (d.fld r f) k)
/-- A counter field that wraps. -/
def Dev.wrapFld (d : Dev) (r : Reg) (f : Fld) (k : Nat) : Dev := d.setFld r f (d.fld r f + k)

/-! ### Free values, reports and time -/

/-- The next free-value index; the counter advances. -/
def Dev.draw (d : Dev) : Nat × Dev := (d.freeCtr, { d with freeCtr := d.freeCtr + 1 })
def Dev.report (d : Dev) (r : Report) : Dev := { d with reports := d.reports ++ [r] }
/-- An error with no address or AUX. -/
def Dev.err (d : Dev) (bank code unit : Nat) : Dev := d.report (.error bank code unit none none 0)
def Dev.errAux (d : Dev) (bank code unit aux : Nat) : Dev := d.report (.error bank code unit none none aux)
def Dev.errAt (d : Dev) (bank code unit addr : Nat) : Dev := d.report (.error bank code unit (some addr) none 0)
def Dev.wire (d : Dev) (source : Nat) : Dev := d.report (.wired source)
/-- Microseconds and milliseconds of the time base. -/
def us (n : Nat) : Nat := n * 1000
def ms (n : Nat) : Nat := n * 1000000
/-- Whether at least `ns` nanoseconds have passed since `t0`. -/
def Dev.past (d : Dev) (t0 : Word) (ns : Nat) : Bool := decide (t0.toNat + ns ≤ d.time.toNat)

/-! ### Dictionary values in force, keyed 256 index + subindex -/

def odKey (index sub : Nat) : Nat := index * 256 + sub
/-- The value of a numeric entry, or `dflt` where none is stored. -/
def Dev.od (d : Dev) (index sub dflt : Nat) : Nat := Tbl.get dflt (odKey index sub) d.dict.num
/-- The value in force of an entry that takes effect at a cast-on. -/
def Dev.odForce (d : Dev) (index sub dflt : Nat) : Nat := Tbl.get dflt (odKey index sub) d.dict.inForce
def Dev.setOd (d : Dev) (index sub v : Nat) : Dev :=
  { d with dict := { d.dict with num := Tbl.set (odKey index sub) v d.dict.num } }
def Dev.setForce (d : Dev) (index sub v : Nat) : Dev :=
  { d with dict := { d.dict with inForce := Tbl.set (odKey index sub) v d.dict.inForce } }

/-! ### Numbering (R13, R18, R377) -/

def quadOfCore (c : Nat) : Nat := c / 66
def tileOfCore (c : Nat) : Nat := c / 2
def quadOfTile (t : Nat) : Nat := t / 33
def domOfSlice (n : Nat) : Nat := 264 + n
def domOfChan (n : Nat) : Nat := 396 + n
def domOfSkein (k : Nat) : Nat := 412 + k
def domOfEngine (e : Nat) : Nat := 444 + e
def domOfFabric (q : Nat) : Nat := 448 + q
/-- The stop number of tile `t` of a quadrant (R11). -/
def stopOfTile (t : Nat) : Nat :=
  if t < 6 then 1 + t else if t < 13 then 3 + t else if t < 17 then 3 + t
  else if t < 20 then 4 + t else if t < 27 then 4 + t else 6 + t
/-- The stop number of local memory channel `n` (R11). -/
def stopOfMc (n : Nat) : Nat := if n = 0 then 0 else if n = 1 then 7 else if n = 2 then 32 else 39
def stopOfIo (n : Nat) : Nat := if n = 0 then 8 else 31
def stopOfService : Nat := 20
/-- The tile at a stop, if a tile stands there. -/
def tileAtStop (s : Nat) : Option Nat := (List.range 33).find? fun t => stopOfTile t == s
/-- The domain steward of a tile of a quadrant (R18). -/
def stewardOfTile (t : Nat) : Nat := quadOfTile t * 16 + min (t % 33 / 2) 15
/-- The steward of a domain: 64 is the chief steward (R18, R377). -/
def stewardOfDom (k : Nat) : Nat :=
  if k < 264 then stewardOfTile (tileOfCore k) else if k < 396 then stewardOfTile (k - 264) else 64
def bitNat (b : Bool) : Nat := if b then 1 else 0
def minNat (a b : Nat) : Nat := if a ≤ b then a else b

/-! ### Power states of domains (R377): 0 On, 1 Retention, 2 Off -/

def Dev.power (d : Dev) (k : Nat) : Nat := d.fld (.pwrDom k) .PWR_DOM_STATE
def Dev.isOn (d : Dev) (k : Nat) : Bool := d.power k == 0
def Dev.isOff (d : Dev) (k : Nat) : Bool := d.power k == 2
/-- Domains with a regulator of their own; memory controllers and skeins are switched (R377). -/
def ivrDom (k : Nat) : Bool := decide (k < 396) || decide (444 ≤ k)
/-- The voltage of a domain in a state: its setpoint On, 0.50 V in Retention, nothing behind an open switch (R378, R383). -/
def Dev.setNow (d : Dev) (k x : Nat) : Dev :=
  if ivrDom k then
    d.setFld (.pwrVset k) .PWR_VSET_NOW (if x = 0 then d.fld (.pwrVset k) .PWR_VSET_PREV else if x = 1 then 500 else 0)
  else d
def Dev.setPower (d : Dev) (k x : Nat) : Dev := (d.setNow k x).setFld (.pwrDom k) .PWR_DOM_STATE x

/-! ### Cores, logical numbers and roles (R14 to R16) -/

def Dev.lvalid (d : Dev) (c : Nat) : Bool := d.bit (.coreIdent c) .CORE_IDENT_LVALID
def Dev.logical (d : Dev) (c : Nat) : Nat := d.fld (.coreIdent c) .CORE_IDENT_LOGICAL
def Dev.lcore? (d : Dev) (c : Nat) : Option Nat := if d.lvalid c then some (d.logical c) else none
/-- The physical core that holds a logical number. -/
def Dev.phys (d : Dev) (l : Nat) : Option Nat := (List.range 264).find? fun c => d.lvalid c && d.logical c == l
def Dev.coreRole (d : Dev) (c : Nat) : Nat := d.fld (.coreState c) .CORE_STATE_ROLE
def Dev.sliceRole (d : Dev) (n : Nat) : Nat := d.fld (.slcState n) .SLC_STATE_ROLE
/-- A core that can execute: it is running (or waiting in WFE) and its domain is On. -/
def Dev.coreLive (d : Dev) (c : Nat) : Bool := d.isOn c && (d.core c).run != .stopped
def Dev.socket (d : Dev) : Nat := d.pins.socketId
def Dev.epoch (d : Dev) (c : Nat) : Nat := d.fld (.coreState c) .CORE_STATE_EPOCH
/-- The running panel member on a core: named, and not suspended or lost. -/
def Dev.inPanel (d : Dev) (c : Nat) : Option Member :=
  match (d.core c).member with
  | some m => match m.phase with
    | .named | .suspended | .orphan | .lost => none
    | _ => some m
  | none => none
def Dev.modMember (d : Dev) (c : Nat) (f : Member → Member) : Dev :=
  d.modCore c fun k => { k with member := k.member.map f }

/-! ### Levels -/

def Level.num : Level → Nat
  | .u => 0 | .s => 1 | .h => 2 | .m => 3
def Level.dec (n : Nat) : Level := if n = 0 then .u else if n = 1 then .s else if n = 2 then .h else .m
def Level.le (a b : Level) : Bool := decide (a.num ≤ b.num)
def Level.lt (a b : Level) : Bool := decide (a.num < b.num)

/-! ### Registers of a core -/

def Arch.getG (a : Arch) (r : Fin 32) : Word := if r = 0 then 0 else a.g[r]
def Arch.setG (a : Arch) (r : Fin 32) (v : Word) : Arch := if r = 0 then a else { a with g := a.g.set r v }
def Arch.getP (a : Arch) (r : Fin 8) : Bool := if r = 0 then true else a.p[r]
def Arch.setP (a : Arch) (r : Fin 8) (v : Bool) : Arch := if r = 0 then a else { a with p := a.p.set r v }
def Arch.getV (a : Arch) (r : Fin 32) : Vec := a.v[r]
def Arch.setV (a : Arch) (r : Fin 32) (v : Vec) : Arch := { a with v := a.v.set r v }
/-- STATUS (R36). -/
def Arch.status (a : Arch) : Word :=
  BitVec.ofNat 64 (a.pl.num + (if a.ie then 4 else 0) + (if a.utime then 8 else 0))
def Arch.setStatus (a : Arch) (w : Word) : Arch :=
  { a with pl := Level.dec (w.toNat % 4), ie := bitF w 2, utime := bitF w 3 }
/-- p1 to p7 in bits [7:1], bit 0 written as 1 (R43). -/
def Arch.pred (a : Arch) : Word :=
  BitVec.ofNat 64 ((List.range 7).foldr (fun i n => n * 2 + (if a.p.toList.getD (i + 1) false then 1 else 0)) 0 * 2 + 1)
def Arch.setPred (a : Arch) (w : Word) : Arch :=
  { a with p := Vector.ofFn fun i : Fin 8 => if i = 0 then a.p[i] else bitF w i.val }

end Sys2Proof.Machine
end

