-- ==== Sys2Proof/Machine/Mem.lean ====
section
/-! DEFINITION. The physical address map (R24 to R26, R262 to R265, R304), and the memory behind it: plaintext
bytes in canonical form, the controllers' write queues (R266 to R268), zero map and fill tables (R284 to R286),
line marks (R277, R280) and memory encryption (R288, R289). -/

namespace Sys2Proof.Machine

/-! ### Bytes and lines -/

/-- Memory is in canonical form: addresses rise and no listed byte is 0, what an unlisted address reads as. -/
def Memory.wf (m : List Host.Cell) : Bool := Tbl.wf (0 : Byte) m
def Memory.byte (m : List Host.Cell) (a : Nat) : Byte := Tbl.get 0 a m
def Memory.write (m : List Host.Cell) (a : Nat) (b : Byte) : List Host.Cell := Tbl.put 0 a b m
/-- Writes consecutive bytes, lowest address first. -/
def Memory.writeBytes (m : List Host.Cell) (a : Nat) : List Byte → List Host.Cell
  | [] => m
  | b :: t => Memory.writeBytes (Memory.write m a b) (a + 1) t
/-- The `n` bytes from `a` up. -/
def Memory.bytes (m : List Host.Cell) (a : Nat) : Nat → List Byte
  | 0 => []
  | n + 1 => Memory.byte m a :: Memory.bytes m (a + 1) n

/-- A line of 64 bytes as a number: byte i in bits [8i+7:8i]. -/
def lineOfBytes (l : List Byte) : Line := BitVec.ofNat 512 (leNat l)
def bytesOfLine (x : Line) : List Byte := leBytes 64 x.toNat
def Line.slice (x : Line) (i n : Nat) : List Byte := leBytes n (x.toNat >>> (8 * i))
def Memory.line (m : List Host.Cell) (ln : Nat) : Line := lineOfBytes (Memory.bytes m (ln * 64) 64)
def Memory.putLine (m : List Host.Cell) (ln : Nat) (x : Line) : List Host.Cell :=
  Memory.writeBytes m (ln * 64) (bytesOfLine x)

/-- The bits of the bytes that a byte-enable word selects. -/
def expandMask : Nat → Nat → Nat
  | 0, _ => 0
  | n + 1, be => (if be % 2 = 1 then 255 else 0) + 256 * expandMask n (be / 2)
def Line.mask (be : Word) : Line := BitVec.ofNat 512 (expandMask 64 be.toNat)
/-- `old` with the enabled bytes of `new`. -/
def Line.merge (old new : Line) (be : Word) : Line := (old &&& ~~~ Line.mask be) ||| (new &&& Line.mask be)
def fullMask : Word := BitVec.allOnes 64
/-- A line holding bytes from offset `i`, and their byte enables. -/
def lineAt (i : Nat) (l : List Byte) : Line × Word :=
  (BitVec.ofNat 512 (leNat l <<< (8 * i)), BitVec.ofNat 64 ((2 ^ l.length - 1) <<< i))

/-! ### The address map -/

/-- What a physical address names. -/
inductive Place
  | dram (ch : Nat) (localLine : Nat)
  | remote (s : Nat)
  | cxl (hostPort : Nat)
  | spad (n way off : Nat)
  | remoteSpad (s : Nat)
  | mmio (s g off : Nat)
  | control (s off : Nat)
  | nothing
deriving DecidableEq, Repr

/-- Control space, an MMIO window or a scratchpad window by R24: the fixed ranges of the map. -/
def inMmio (pa : Nat) : Bool := decide (0xF000000000000 ≤ pa) && decide (pa < 0xF800000000000)
def inSpad (pa : Nat) : Bool := decide (0xF800000000000 ≤ pa) && decide (pa < 0xFC00000000000)
def inControl (pa : Nat) : Bool := decide (0xFC00000000000 ≤ pa)
/-- Device memory whatever the table entry says (R53). -/
def deviceRange (pa : Nat) : Bool := inMmio pa || inControl pa

/-- The control-space base of a socket (R24). -/
def csb (s : Nat) : Nat := 0xFC00000000000 + s * 0x10000000000
def spadBase (s : Nat) : Nat := 0xF800000000000 + s * 0x4000000000

def Dev.quartered (d : Dev) : Bool := d.hash.numa == .quartered
/-- The channels of a node's interleave set, ascending (R261). -/
def Dev.nodeSet (d : Dev) (q : Nat) : List Nat :=
  (List.range 16).filter fun ch => (d.chan ch).inSet && (!d.quartered || ch / 4 == q)
def Dev.nodeBase (d : Dev) (q : Nat) : Nat := d.socket * 0x100000000000 + (if d.quartered then q * 0x20000000000 else 0)
/-- The usable bytes U of the channels of a node (R262). -/
def Dev.nodeUsable (d : Dev) (q : Nat) : Nat := ((d.nodeSet q).head?.map fun ch => (d.chan ch).usable).getD 0

def log2Of (n : Nat) : Nat := if n ≤ 1 then 0 else if n ≤ 2 then 1 else if n ≤ 4 then 2 else if n ≤ 8 then 3 else 4

/-- The XOR of `k` successive `b`-bit fields of a number. -/
def xorFields (b : Nat) : Nat → Nat → Nat
  | 0, _ => 0
  | k + 1, o => (o % 2 ^ b) ^^^ xorFields b k (o >>> b)

/-- place(pa) of R264, from the node offset. -/
def Dev.placeIn (d : Dev) (q o : Nat) : Place :=
  let set := d.nodeSet q
  let b := log2Of set.length
  let c := xorFields b ((40 + b - 1) / b) ((o % 2 ^ 52) >>> 12)
  match set[c]? with
  | some ch => .dram ch ((o >>> (12 + b)) * 64 + o / 64 % 64)
  | none => .nothing

/-- The physical line of a local line of a channel: the inverse of R264. -/
def Dev.lineOfLocal (d : Dev) (ch n : Nat) : Nat :=
  let q := if d.quartered then ch / 4 else 0
  let set := d.nodeSet q
  let b := log2Of set.length
  let idx := (set.findIdx? (· == ch)).getD 0
  let g := n / 64
  let low := idx ^^^ xorFields b ((40 + b - 1) / b - 1) g
  (d.nodeBase q + (((g <<< b) + low) <<< 12)) / 64 + n % 64

/-- The lowest enabled decoder entry that covers an address (R26), searched over the next `k` entries from `n`. -/
def Dev.decoder (d : Dev) (pa : Nat) : Option Nat :=
  (List.range 128).find? fun n =>
    d.bit (.fabSadRange n) .FAB_SAD_RANGE_EN && decide (d.fld (.fabSadRange n) .FAB_SAD_RANGE_BASE ≤ pa >>> 30) &&
      decide (pa >>> 30 ≤ d.fld (.fabSadRange n) .FAB_SAD_RANGE_LIMIT)

def Dev.present (d : Dev) (s : Nat) : Bool := s == d.socket || d.board.present.contains s
def Dev.sockDead (d : Dev) (s : Nat) : Bool := d.board.dead.contains s

/-- What an address names, under R24 to R26, R184, R263 and R304. -/
def Dev.place (d : Dev) (pa : Nat) : Place :=
  if inControl pa then
    let s := (pa - 0xFC00000000000) / 0x10000000000
    if d.present s then .control s ((pa - 0xFC00000000000) % 0x10000000000) else .nothing
  else if inSpad pa then
    let o := pa - 0xF800000000000
    let s := o / 0x4000000000
    let n := o % 0x4000000000 / 0x200000
    let j := o % 0x200000 / 0x30000
    if !d.present s then .nothing
    else if s != d.socket then .remoteSpad s
    else if n < 132 ∧ j < d.fld (.slcState n) .SLC_STATE_SPWAYS ∧ [0, 3, 4, 5].contains (d.sliceRole n) then
      .spad n j (o % 0x200000 % 0x30000)
    else .nothing
  else if inMmio pa then
    let o := pa - 0xF000000000000
    .mmio (o / 0x200000000000) (o % 0x200000000000 / 0x40000000000) (o % 0x40000000000)
  else match d.decoder pa with
    | none => .nothing
    | some n =>
      let k := d.fld (.fabSadTarget n) .FAB_SAD_TARGET_KIND
      let t := d.fld (.fabSadTarget n) .FAB_SAD_TARGET_TARGET
      if k = 1 then .remote (d.fld (.fabSadTarget n) .FAB_SAD_TARGET_SOCKET)
      else if k = 2 then .cxl t
      else
        let q := if d.quartered then t % 4 else 0
        let base := d.nodeBase q
        if base ≤ pa ∧ pa - base < (d.nodeSet q).length * d.nodeUsable q then d.placeIn q (pa - base) else .nothing

/-- Normal memory that a table walk may read (R145, table_read): memory under an enabled decoder entry, or a
scratchpad window. -/
def Dev.walkable (d : Dev) (pa : Nat) : Bool :=
  if deviceRange pa then false else if inSpad pa then true else (d.decoder pa).isSome

/-! ### Memory controllers -/

/-- What a line read delivers. -/
structure Got where
  data   : Line
  poison : Bool
  err    : Bool
deriving DecidableEq, Repr

def Got.ok (x : Line) : Got := ⟨x, false, false⟩
/-- An error response; a read carries poisoned data (R181). -/
def Got.error : Got := ⟨0, true, true⟩

def Dev.keySlot (d : Dev) (k : Nat) : Option KeySlot := (d.keys.find? fun e => e.1 == k).map (·.2)
def KeySlot.data (k : KeySlot) : List Byte := leBytes 32 k.dataKey.toNat
def KeySlot.tweak (k : KeySlot) : List Byte := leBytes 32 k.tweakKey.toNat
/-- The ciphertext of a line, and a line from its ciphertext (R289). -/
def KeySlot.crypt (k : KeySlot) (encrypt : Bool) (ln : Nat) (x : Line) : Line :=
  lineOfBytes (aesXts encrypt k.data k.tweak ln (bytesOfLine x))
def Dev.lineMeta (d : Dev) (ln : Nat) : Option LineMeta := (d.lines.find? fun e => e.1 == ln).map (·.2)
def Dev.zeroBit (d : Dev) (granule : Nat) : Bool := !d.zclear.contains granule
def Dev.fillOf (d : Dev) (ch granule : Nat) : Option FillEntry := (d.chan ch).fill.find? fun e => e.granule == granule
def Dev.chanState (d : Dev) (ch : Nat) : Nat := d.fld (.mcCtl ch) .MC_CTL_STATE
def Dev.chanFailed (d : Dev) (ch : Nat) : Bool := d.chanState ch == 6 || d.chanState ch == 5
/-- The rank of a local line (R265): the rank field lies above the bank bits. -/
def Dev.rankOf (d : Dev) (ch n : Nat) : Nat :=
  let ranks := match (d.chan ch).dimms with
    | some x => x.ranks * x.count
    | none => 1
  n >>> 13 % (if ranks = 0 then 1 else ranks)

/-- MC_LAST_UE captures an event whatever VALID holds, and fires the channel's source (R296, R361). -/
def Dev.lastUe (d : Dev) (ch kind ln n : Nat) : Dev :=
  (d.setFlds (.mcLastUe ch) [(.MC_LAST_UE_VALID, 1), (.MC_LAST_UE_KIND, kind), (.MC_LAST_UE_RANK, d.rankOf ch n),
    (.MC_LAST_UE_SUB, n % 2), (.MC_LAST_UE_LINE, ln)]).wire (4097 + 2 * ch)

/-- Stores a line's plaintext, its mark and its keys. -/
def Dev.store (d : Dev) (ln : Nat) (x : Line) (m : LineMeta) : Dev :=
  { d with mem := Memory.putLine d.mem ln x, lines := Tbl.set ln m d.lines }

/-- The plaintext of a stored line as a reader with keys `ks` sees it (R289). -/
def Dev.plain (d : Dev) (ln : Nat) (ks : KeySlot) : Line :=
  let x := Memory.line d.mem ln
  match d.lineMeta ln with
  | some m => if m.keys = ks then x else ks.crypt false ln (m.keys.crypt true ln x)
  | none => x

/-- The line that an existing zero-map bit or fill mask makes read as zero (R284, R285). -/
def Dev.readsZero (d : Dev) (ch ln : Nat) : Bool :=
  match d.fillOf ch (ln / 64) with
  | some e => !e.mask.getLsbD (ln % 64)
  | none => d.zeroBit (ln / 64)

/-- Writes one line of DRAM under a key ID: encryption or the marked-lost syndrome (R280, R289). -/
def Dev.dramPut (d : Dev) (ln : Nat) (x : Line) (key : Nat) (poison : Bool) : Dev :=
  match d.keySlot key with
  | some ks => d.store ln x ⟨poison, ks⟩
  | none => d.store ln x ⟨true, ⟨0, 0⟩⟩

/-- Completes a fill entry: zeros into every other line, then the map bit clears (R285 steps 3 and 4). -/
def Dev.fillLines (d : Dev) (e : FillEntry) : Nat → Nat → Dev
  | 0, _ => d
  | k + 1, i =>
    let d1 := if e.mask.getLsbD i then d else d.dramPut (e.granule * 64 + i) 0 e.key.toNat false
    d1.fillLines e k (i + 1)
def Dev.fillFinish (d : Dev) (ch : Nat) (e : FillEntry) : Dev :=
  let d1 := d.fillLines e (64 - e.next) e.next
  { d1.modChan ch (fun c => { c with fill := c.fill.filter fun f => f.granule != e.granule }) with
    zclear := (e.granule :: d1.zclear) }

/-- A first write into a marked granule is held while the fill table is full (R285). -/
def Dev.wqHeld (d : Dev) (ch : Nat) (w : WqEntry) : Bool :=
  (d.fillOf ch (w.line / 64)).isNone && d.zeroBit (w.line / 64) && decide (64 ≤ (d.chan ch).fill.length)

/-- The first writes that now wait for the fill table are counted, each once (R285, R297). -/
def Dev.noteHeld (d : Dev) (ch : Nat) : Dev :=
  let c := d.chan ch
  let waiting := c.wq.filter fun w => !w.issued
  let fresh := (waiting.filter fun w => d.wqHeld ch w && !c.held.contains w.line).map (·.line)
  let keep := c.held.filter fun l => waiting.any fun w => w.line == l
  (d.modChan ch fun k => { k with held := keep ++ fresh }).countFld (.mcZmapStat ch) .MC_ZMAP_STAT_WAITS fresh.length

/-- Performs a write-queue entry on DRAM (R280, R285). A first write into a marked granule takes a fill entry;
where the table is full the oldest fill completes first. -/
def Dev.mcPerform (d : Dev) (ch : Nat) (w : WqEntry) : Dev :=
  let g := w.line / 64
  let i := w.line % 64
  let full := w.byteen == fullMask
  if (d.fillOf ch g).isNone && d.zeroBit g then
    let d1 := if (d.chan ch).fill.length < 64 then d else match (d.chan ch).fill with
      | e :: _ => d.fillFinish ch e
      | [] => d
    let d2 := d1.dramPut w.line (Line.merge 0 w.data w.byteen) w.key.toNat w.poison
    d2.modChan ch fun c => { c with fill := c.fill ++ [{ granule := g, mask := BitVec.ofNat 64 (2 ^ i), next := 0, key := w.key }] }
  else
    let d1 := d.modChan ch fun c => { c with fill := c.fill.map fun e =>
      if e.granule = g then { e with mask := e.mask ||| BitVec.ofNat 64 (2 ^ i) } else e }
    if full || w.poison then d1.dramPut w.line w.data w.key.toNat w.poison
    else if d.readsZero ch w.line then d1.dramPut w.line (Line.merge 0 w.data w.byteen) w.key.toNat false
    else match d.lineMeta w.line, d.keySlot w.key.toNat with
      | some m, some ks =>
        if m.lost then d1.errAt (396 + ch) 0x27 ch (w.line * 64)
        else d1.store w.line (Line.merge (d.plain w.line ks) w.data w.byteen) ⟨false, ks⟩
      | none, some ks => d1.store w.line (Line.merge (d.plain w.line ks) w.data w.byteen) ⟨false, ks⟩
      | _, none => d1.dramPut w.line w.data w.key.toNat true

/-- Issues one entry of the write queue, which then leaves it. -/
def Dev.mcIssueLine (d : Dev) (ch : Nat) (w : WqEntry) : Dev :=
  (if w.issued then d else d.mcPerform ch w).modChan ch fun c => { c with wq := c.wq.erase w }

/-- Issues every entry of a line, in order, that the fill table does not hold: a read of the line waits for them (R268). -/
def Dev.mcFlushLine (d : Dev) (ch ln : Nat) : Dev :=
  ((d.chan ch).wq.filter fun e => e.line == ln && !d.wqHeld ch e).foldl (fun x w => x.mcIssueLine ch w) d

/-! ### CXL ports and other sockets -/

/-- The port behind a CXL host port. -/
def Dev.cxlPort (d : Dev) (h : Nat) : Option Nat := (List.range 128).find? fun p => (d.port p).cxl == some h && (d.port p).assigned

def Dev.cxlDown (d : Dev) (h : Nat) : Bool := match d.cxlPort h with
  | some p => (d.port p).contained || !(d.port p).up
  | none => true

/-- Another socket can be reached: it is present and not dead (R25, R181). -/
def Dev.sockUp (d : Dev) (s : Nat) : Bool := d.present s && !d.sockDead s

/-! ### Scratchpad (R185) -/

/-- The byte's key in its slice's scratchpad table. -/
def spadKey (way off : Nat) : Nat := way * 0x30000 + off
def Dev.spadRead (d : Dev) (n way off len : Nat) : Got × List Byte :=
  let s := d.slice n
  let k := spadKey way off
  let bad := (List.range len).any fun i => s.spadBad.contains ((k + i) / 16)
  (⟨0, bad, false⟩, (List.range len).map fun i => Tbl.get 0 (k + i) s.spad)
/-- Stores the bytes that a write enables: a unit written whole is poisoned no longer. -/
def Dev.spadStore (d : Dev) (n way off : Nat) (l : List (Option Byte)) : Dev :=
  d.modSlice n fun s =>
    let k := spadKey way off
    let all := fun (u : Nat) => (List.range 16).all fun i => decide (k ≤ u * 16 + i) && ((l.getD (u * 16 + i - k) none).isSome)
    { s with
      spad := l.zipIdx.foldl (fun t b => match b.1 with
        | some x => Tbl.put 0 (k + b.2) x t
        | none => t) s.spad,
      spadBad := s.spadBad.filter fun u => !all u }
def Dev.spadWrite (d : Dev) (n way off : Nat) (l : List Byte) : Dev := d.spadStore n way off (l.map some)

/-- The units of 16 bytes that an access reaches. -/
def SpadAcc.units (a : SpadAcc) : List Nat := (List.range ((a.hi + 15) / 16 - a.lo / 16)).map (· + a.lo / 16)

/-- Notes an access at its slice, and answers the units that it shares with the access before it, where one of them is a write, they are of
opposite ports and may have overlapped in the array (R186, R187, log entry 57). -/
def Dev.spadMeet (d : Dev) (n : Nat) (now : SpadAcc) : Dev × List Nat :=
  let noted := fun (x : Dev) => x.modSlice n fun s => { s with spadLast := some now }
  match (d.slice n).spadLast with
  | none => (noted d, [])
  | some p =>
    let both := now.units.filter p.units.contains
    if p.engine == now.engine || !(p.write || now.write) || both.isEmpty then (noted d, []) else
    let (i, d1) := d.draw
    (noted d1, if Config.spadOverlap i then both else [])

/-- A collision is counted, and recorded against the port whose access began second. -/
def Dev.spadCollide (d : Dev) (n unit : Nat) (engine : Bool) : Dev :=
  (d.countFld (.slcSpadStat n) .SLC_SPAD_STAT_COLLIDE 1).setFlds (.slcSpadColl n)
    [(.SLC_SPAD_COLL_VALID, 1), (.SLC_SPAD_COLL_PORT, if engine then 1 else 0),
     (.SLC_SPAD_COLL_ADDR, (spadBase d.socket + n * 0x200000) / 16 + unit)]

/-- A read through a port: a unit that collides with a write gives undefined data and no machine check, and the response carries
COLLIDE (R187). -/
def Dev.spadGetMark (d : Dev) (engine : Bool) (n way off len : Nat) : Dev × Got × List Byte × Bool :=
  let k := spadKey way off
  let (d1, units) := d.spadMeet n ⟨engine, false, k, k + len⟩
  let (g, l) := d1.spadRead n way off len
  match units with
  | [] => (d1, g, l, false)
  | u :: _ =>
    let bad := (List.range len).any fun i => (d1.slice n).spadBad.contains ((k + i) / 16) && !units.contains ((k + i) / 16)
    let (i, d2) := (d1.spadCollide n u engine).draw
    (d2, { g with poison := bad },
     (List.range len).map (fun j => if units.contains ((k + j) / 16) then Config.undefinedByte (64 * i + j) else l.getD j 0), true)

def Dev.spadGet (d : Dev) (engine : Bool) (n way off len : Nat) : Dev × Got × List Byte :=
  let (d1, g, l, _) := d.spadGetMark engine n way off len
  (d1, g, l)

/-- A write through a port of the bytes that it enables, one array access. Two writes of one unit that overlap are ordered core first: the bytes
that the data engine wrote remain (R186). A write that overlaps a read that began before it carries COLLIDE (R187). -/
def Dev.spadPutMark (d : Dev) (engine : Bool) (n way off : Nat) (l : List (Option Byte)) : Dev × Bool :=
  let k := spadKey way off
  let before := (d.slice n).spadLast
  let (d1, units) := d.spadMeet n ⟨engine, true, k, k + l.length⟩
  let twice := before.any (·.write)
  let keeps := fun (a : Nat) => twice && !engine && units.contains (a / 16) && before.any fun p => decide (p.lo ≤ a) && decide (a < p.hi)
  let d2 := d1.spadStore n way off (l.zipIdx.map fun b => if keeps (k + b.2) then none else b.1)
  match units with
  | u :: _ => if twice then (d2, false) else (d2.spadCollide n u engine, true)
  | [] => (d2, false)

def Dev.spadPut (d : Dev) (engine : Bool) (n way off : Nat) (l : List Byte) : Dev := (d.spadPutMark engine n way off (l.map some)).1

end Sys2Proof.Machine
end

