-- ==== Sys2Proof/Machine/Channel.lean ====
section
/-! DEFINITION. A memory controller's reads and writes: the correctable-error bucket (R281), reads with retry (R277, R278), the lists of reads
and the write queue (R266), their order of issue (R265, R267, R268), and the zero-map cache (R284). A read of the home is issued within the
command that makes it: the controller issues what comes before it first, by the same rules. -/

namespace Sys2Proof.Machine

def Dev.setFabric (d : Dev) (f : Fabric) : Dev := { d with fabric := f }
/-- An access, or a packet, has to wait for another transaction. -/
def Dev.wait (d : Dev) : Dev := d.setFabric { d.fabric with waits := d.fabric.waits + 1 }

/-! ### The bucket (R281) -/

def Dev.ceLevel (d : Dev) (ch r : Nat) : Nat := getF (d.reg (.mcCeBucket ch)) ⟨8 * r + 7, 8 * r⟩
def Dev.setCeLevel (d : Dev) (ch r x : Nat) : Dev := d.setReg (.mcCeBucket ch) (setF (d.reg (.mcCeBucket ch)) ⟨8 * r + 7, 8 * r⟩ x)
def Dev.ceArmed (d : Dev) (ch r : Nat) : Bool := bitF (d.reg (.mcCeOvf ch)) (8 + r)
def Dev.setCeArmed (d : Dev) (ch r : Nat) (v : Bool) : Dev := d.setReg (.mcCeOvf ch) (setF (d.reg (.mcCeOvf ch)) ⟨8 + r, 8 + r⟩ (bitNat v))
def Dev.ceCap (d : Dev) : Nat := d.od 0x3020 1 32

/-- A corrected error in rank `r` of a channel. -/
def Dev.bucket (d : Dev) (ch r : Nat) : Dev :=
  if d.ceLevel ch r = d.ceCap then
    let d1 := (d.setReg (.mcCeOvf ch) (setF (d.reg (.mcCeOvf ch)) ⟨r, r⟩ 1)).report (.error (396 + ch) 0x26 ch none none 0)
    if d1.ceArmed ch r then (d1.setCeArmed ch r false).wire (4096 + 2 * ch) else d1
  else d.setCeLevel ch r (d.ceLevel ch r + 1)

/-- Times within the last `n` nanoseconds, with the present one. -/
def Dev.recent (d : Dev) (n : Nat) (l : List Word) : List Word := d.time :: l.filter fun t => !d.past t (n + 1)

/-! ### Reads with retry (R277, R278, R287) -/

/-- What handling a line showed. -/
inductive LineRes
  | clean | corrected | uncorrectable | lost | zero
deriving DecidableEq, Repr

def Dev.lastCe (d : Dev) (ch ln n dev : Nat) (bits : Word) : Dev :=
  (d.setFlds (.mcLastCe ch) [(.MC_LAST_CE_VALID, 1), (.MC_LAST_CE_DEVICE, dev), (.MC_LAST_CE_RANK, d.rankOf ch n),
    (.MC_LAST_CE_SUB, n % 2), (.MC_LAST_CE_LINE, ln)]).setReg (.mcLastCeBits ch) bits

/-- A line is written with the marked-lost syndrome. -/
def Dev.loseLine (d : Dev) (ln : Nat) : Dev :=
  let keys := ((d.lineMeta ln).map (·.keys)).getD ⟨0, 0⟩
  { d with lines := Tbl.set ln ⟨true, keys⟩ d.lines }

/-- A retry read clean: it may make a retrain due. -/
def Dev.retryClean (d : Dev) (ch : Nat) : Dev :=
  let d1 := d.countFld (.mcErrcnt ch) .MC_ERRCNT_TRANSIENT 1
  let l := d1.recent (ms 1) (d1.chan ch).retries
  d1.modChan ch fun c => { c with retries := l, retrainDue := c.retrainDue || decide (16 ≤ l.length) }

/-- One line read by its controller: local line `n`, physical line `ln`. -/
def Dev.checkLine (d : Dev) (ch ln n : Nat) (f : ReadAttempt) : Dev × LineRes :=
  if d.readsZero ch ln then (d, .zero)
  else if ((d.lineMeta ln).map (·.lost)).getD false then (d.lastUe ch 2 ln n, .lost)
  else match f.first with
    | .clean => (d, .clean)
    | _ => match f.retry with
      | .clean => (d.retryClean ch, .clean)
      | .correctable dev bits =>
        let d1 := (d.lastCe ch ln n dev.val bits).countFld (.mcErrcnt ch) .MC_ERRCNT_CORR 1
        ((d1.report (.error (396 + ch) 0x20 ch (some (ln * 64)) none 0)).bucket ch (d1.rankOf ch n), .corrected)
      | .uncorrectable =>
        let d1 := ((d.loseLine ln).lastUe ch 1 ln n).countFld (.mcErrcnt ch) .MC_ERRCNT_UNCORR 1
        (d1.errAt (396 + ch) 0x21 ch (ln * 64), .uncorrectable)

/-- The data that a read of a line delivers to a requester with a key (R278, R284, R285, R289). -/
def Dev.mcReadNow (d : Dev) (ch ln n : Nat) (key : Option (BitVec 11)) (f : ReadAttempt) : Dev × Got :=
  let noKey := key.any fun k => (d.keySlot k.toNat).isNone
  if noKey && !d.readsZero ch ln then ((d.lastUe ch 3 ln n).errAt (396 + ch) 0x23 ch (ln * 64), ⟨0, true, false⟩)
  else match d.checkLine ch ln n f with
    | (d1, .zero) => (d1.countFld (.mcZmapStat ch) .MC_ZMAP_STAT_ZREADS 1, Got.ok 0)
    | (d1, .lost) => (d1, ⟨Memory.line d1.mem ln, true, false⟩)
    | (d1, .uncorrectable) => (d1, ⟨Memory.line d1.mem ln, true, false⟩)
    | (d1, _) => (d1, Got.ok (match key.bind fun k => d1.keySlot k.toNat with
      | some ks => d1.plain ln ks
      | none => Memory.line d1.mem ln))

/-! ### The order of issue (R265, R267, R268, R269) -/

/-- The bank of a local line: subchannel, rank and DIMM, bank group, bank; and its row. -/
def Dev.bankOf (d : Dev) (ch n : Nat) : Nat × Nat :=
  let ranks := match (d.chan ch).dimms with
    | some x => x.ranks * x.count
    | none => 1
  let rb := log2Of ranks
  let row := n >>> (13 + rb)
  let rank := n >>> 13 % 2 ^ rb
  (((n % 2 * 2 ^ rb + rank) * 8 + n / 2 % 8) * 4 + ((n / 2048 % 4) ^^^ (row % 4)), row)

def Dev.localOf (d : Dev) (ln : Nat) : Nat := match d.place (ln * 64) with
  | .dram _ n => n
  | _ => 0

/-- A parameter of the scheduler (R269): WHI, WLO, or a class's priority. In Auto it is the governor's, in Fixed and Advise the operator's. -/
def Dev.sched (d : Dev) (i dflt operator : Nat) : Nat := if d.od 0x3040 0 0 = 0 then Tbl.get dflt i d.gov.sched else operator
def Dev.priorityOf (d : Dev) (cls : Nat) : Nat := d.sched (2 + cls) 1 (d.od 0x3041 cls 1)

/-- A request that waits, as the scheduler sees it: its number, line and class. -/
structure Req where
  seq  : Nat
  line : Nat
  cls  : Nat
deriving DecidableEq, Repr

/-- A request's bank and row. -/
def Dev.reqBank (d : Dev) (ch : Nat) (r : Req) : Nat × Nat := d.bankOf ch (d.localOf r.line)

/-- The request that a bank serves next: highest class priority, then a row hit, then the oldest; a row hit passes one
older request at most four times. -/
def Dev.pickInBank (d : Dev) (ch : Nat) (l : List Req) : Option Req :=
  let top := l.foldl (fun m w => max m (d.priorityOf w.cls)) 0
  let best := l.filter fun w => d.priorityOf w.cls == top
  match best with
  | [] => none
  | w :: _ =>
    if 4 ≤ Tbl.get 0 w.seq (d.chan ch).rowPasses then some w
    else match best.find? fun w => (d.chan ch).openRows.any fun r => r == d.reqBank ch w with
      | some h => some h
      | none => some w

/-- The request that issues next among those that are ready: of the next bank after the last one picked, wrapping. -/
def Dev.pickReq (d : Dev) (ch : Nat) (ready : List Req) : Option Req :=
  let bank := fun (w : Req) => (d.reqBank ch w).1
  let banks := ready.map bank
  let lowest := fun (l : List Nat) => l.foldl (fun m b => match m with
    | none => some b
    | some x => some (min x b)) none
  match (match lowest (banks.filter fun b => decide ((d.chan ch).lastBank < b)) with
    | some b => some b
    | none => lowest banks) with
  | none => none
  | some b => d.pickInBank ch (ready.filter fun w => bank w == b)

/-- Writes that can issue: none that the fill table holds, or that an older read of its line comes before (R268, R285). -/
def Dev.readyWrites (d : Dev) (ch : Nat) : List WqEntry :=
  (d.chan ch).wq.filter fun w => !w.issued && !d.wqHeld ch w && !((d.chan ch).reads.any fun r => !r.issued && r.line == w.line && decide (r.seq < w.seq))
/-- Reads that can issue: none that an older write of its line comes before (R268). -/
def Dev.readyReads (d : Dev) (ch : Nat) : List RdEntry :=
  (d.chan ch).reads.filter fun r => !r.issued && !((d.chan ch).wq.any fun w => !w.issued && w.line == r.line && decide (w.seq < r.seq))

/-- The modes of R267, from the number of writes that wait. -/
def Dev.writeModeNext (d : Dev) (ch : Nat) : Bool :=
  let n := ((d.chan ch).wq.filter fun w => !w.issued).length
  if d.sched 0 48 (d.od 0x3040 1 48) ≤ n then true else if n ≤ d.sched 1 16 (d.od 0x3040 2 16) then false else (d.chan ch).writeMode

/-- The controller's cache of its zero map, of 1,024 lines, takes in the line that holds a granule's bit; the line that it gives up goes back to
the map (R284). -/
def Dev.zTouch (d : Dev) (ch g : Nat) (dirty : Bool) : Dev :=
  let z := d.localOf (g * 64) / 64 / 512
  let l := (d.chan ch).zcache
  let rest := l.filter fun e => e.1 != z
  let e := (z, dirty || l.any fun e => e.1 == z && e.2)
  if rest.length < 1024 then d.modChan ch fun c => { c with zcache := e :: rest }
  else
    let (i, d1) := d.draw
    d1.modChan ch fun c => { c with zcache := e :: rest.eraseIdx (Config.victim i % rest.length) }

/-- A request has issued: its bank and row, and the older requests of its bank that it passes. -/
def Dev.noteIssue (d : Dev) (ch : Nat) (ready : List Req) (r : Req) : Dev :=
  let (b, row) := d.reqBank ch r
  let older := ready.filter fun x => decide (x.seq < r.seq) && (d.reqBank ch x).1 == b && d.priorityOf x.cls == d.priorityOf r.cls
  d.modChan ch fun c => { c with
    lastBank := b,
    openRows := Tbl.set b row c.openRows,
    rowPasses := (older.foldl (fun t x => Tbl.put 0 x.seq (Tbl.get 0 x.seq t + 1) t) c.rowPasses).filter fun e => e.1 != r.seq }

/-- A write issues. The read that a partial write makes meets what DRAM shows of the line (R280). -/
def Dev.issueWrite (d : Dev) (ch : Nat) (w : WqEntry) : Dev :=
  let att := ((d.chan ch).reads.find? fun r => !r.issued && r.line == w.line).map (·.att)
  let merges := w.byteen != fullMask && !w.poison && !d.readsZero ch w.line
  let d1 := match att with
    | some f => if merges then ((d.checkLine ch w.line (d.localOf w.line) f).1.modChan ch fun c => { c with
        reads := c.reads.map fun (r : RdEntry) => if !r.issued && r.line == w.line then { r with att := ⟨.clean, .clean⟩ } else r }) else d
    | none => d
  ((d1.zTouch ch (w.line / 64) false).mcPerform ch w).modChan ch fun c => { c with wq := c.wq.map fun (x : WqEntry) => if x.seq = w.seq then { x with issued := true } else x }

/-- A read issues. -/
def Dev.issueRead (d : Dev) (ch : Nat) (r : RdEntry) : Dev × Got :=
  let (d1, g) := (d.zTouch ch (r.line / 64) false).mcReadNow ch r.line (d.localOf r.line) r.key r.att
  (d1.modChan ch fun c => { c with reads := c.reads.map fun (x : RdEntry) => if x.seq = r.seq then { x with issued := true } else x }, g)

/-- The controller's next command (R267): what issued before leaves, its ALERT_n window having passed (R275); then one request issues, of the
mode's kind where one is ready. The read that issued, if any, and what it delivers. -/
def Dev.mcStep (d : Dev) (ch : Nat) : Dev × Option (Nat × Got) :=
  let mode := d.writeModeNext ch
  let d0 := d.modChan ch fun c => { c with wq := c.wq.filter (fun (w : WqEntry) => !w.issued), reads := c.reads.filter (fun (r : RdEntry) => !r.issued), writeMode := mode }
  let ws := (d0.readyWrites ch).map fun w => (⟨w.seq, w.line, w.cls⟩ : Req)
  let rs := (d0.readyReads ch).map fun r => (⟨r.seq, r.line, r.cls⟩ : Req)
  let ready := if ws.isEmpty || (!mode && !rs.isEmpty) then rs else ws
  match d0.pickReq ch ready with
  | none => (d0, none)
  | some q =>
    let d1 := d0.noteIssue ch ready q
    match (d0.chan ch).wq.find? fun w => w.seq == q.seq, (d0.chan ch).reads.find? fun r => r.seq == q.seq with
    | some w, _ => ((d1.issueWrite ch w).noteHeld ch, none)
    | none, some r => let (d2, g) := d1.issueRead ch r
                      (d2, some (r.seq, g))
    | none, none => (d1, none)

/-- A read enters its bank's list. -/
def Dev.addRead (d : Dev) (ch ln : Nat) (key : Option (BitVec 11)) (f : ReadAttempt) (cls : Nat) : Dev :=
  d.modChan ch fun c => { c with reads := c.reads ++ [⟨ln, key, f, cls, c.arrivals, false⟩], arrivals := c.arrivals + 1 }
/-- The lists take no read: they hold 128. -/
def Dev.readsFull (d : Dev) (ch : Nat) : Bool := decide (128 ≤ ((d.chan ch).reads.filter fun r => !r.issued).length)

/-- The controller goes on until a read has issued. -/
def Dev.mcUntil (ch seq : Nat) : Nat → Dev → Dev × Got
  | 0, d => (d.wait, Got.error)
  | n + 1, d =>
    match d.mcStep ch with
    | (d1, some (i, g)) => if i = seq then (d1, g) else Dev.mcUntil ch seq n d1
    | (d1, none) => Dev.mcUntil ch seq n d1

/-- A home's read of a line (R266 to R268, R278): the read that MC_READ has entered for the line, else a new one that DRAM answers cleanly. -/
def Dev.mcReadLine (d : Dev) (ch ln : Nat) (key : BitVec 11) (cls : Nat) : Dev × Got :=
  if d.chanFailed ch then (d, Got.error) else
  match (d.chan ch).reads.find? fun r => !r.issued && r.line == ln with
  | some r => Dev.mcUntil ch r.seq 200 (d.modChan ch fun c => { c with reads := c.reads.map fun (x : RdEntry) => if x.seq = r.seq then { x with key := some key } else x })
  | none =>
    if d.readsFull ch then (d.wait, Got.error)
    else Dev.mcUntil ch (d.chan ch).arrivals 200 (d.addRead ch ln (some key) ⟨.clean, .clean⟩ cls)

/-- The write queue takes no write of a line: it is full, and holds none that the write merges into (R266). -/
def Dev.mcFull (d : Dev) (ch ln : Nat) : Bool :=
  decide (64 ≤ (d.chan ch).wq.length) && !((d.chan ch).wq.any fun e => e.line == ln && !e.issued)

/-- Accepts a write into the write queue (R266): it merges into an entry of the line, and waits for room in the fabric. -/
def Dev.mcWriteLine (d : Dev) (ch ln : Nat) (x : Line) (be : Word) (key : BitVec 11) (poison : Bool) (cls : Nat) : Dev :=
  if d.chanFailed ch then d else
  match (d.chan ch).wq.find? fun e => e.line == ln && !e.issued with
  | some _ => d.modChan ch fun c => { c with wq := c.wq.map fun (e : WqEntry) =>
      if e.line == ln && !e.issued then
        { e with data := Line.merge e.data x be, byteen := e.byteen ||| be, key := key,
                 poison := (if be == fullMask then poison else e.poison || poison) }
      else e }
  | none =>
    if d.mcFull ch ln then d.wait else
    (d.modChan ch fun c => { c with wq := c.wq ++ [⟨ln, x, be, key, poison, false, cls, c.arrivals⟩], arrivals := c.arrivals + 1 }).noteHeld ch

/-- Marks a granule zero at its controller (R286). -/
def Dev.mcZero (d : Dev) (ch granule : Nat) : Dev :=
  let d1 := (d.zTouch ch granule true).modChan ch fun c => { c with
    wq := c.wq.filter (fun (e : WqEntry) => e.line / 64 != granule), fill := c.fill.filter fun e => e.granule != granule }
  { d1 with zclear := d1.zclear.filter (· != granule),
            mem := d1.mem.filter (fun e => e.1 / 4096 != granule),
            lines := d1.lines.filter fun e => e.1 / 64 != granule }

end Sys2Proof.Machine
end

