-- ==== Sys2Proof/Machine/Flits.lean ====
section
/-! DEFINITION. What crosses a link: the opcodes and flits of the fabric (R242 to R244), and the Brixnil link's flit of 256 bytes
(R324). -/

namespace Sys2Proof.Machine

/-! ### Opcodes -/

/-- Header opcode (R244). -/
def opcCode : Opc → Nat
  | .rds => 0x01 | .rdo => 0x02 | .upg => 0x03 | .rdna => 0x04 | .iow => 0x05 | .csrrd => 0x06 | .csrwr => 0x07
  | .devrd => 0x08 | .devwr => 0x09 | .msg => 0x0A | .snp => 0x20 | .snpinv => 0x21 | .backinv => 0x22
  | .setflush => 0x23 | .xlateinv => 0x24 | .grant => 0x40 | .ack => 0x41 | .nocopy => 0x42 | .copylost => 0x43
  | .cmp => 0x44 | .err => 0x45 | .xlateack => 0x46 | .data => 0x60 | .wbd => 0x61 | .evc => 0x62 | .snpdata => 0x63
/-- The virtual channel of an opcode. -/
def opcVc (o : Opc) : Nat := opcCode o / 32
/-- A control-space or device access, whose data is the header's SDATA in a packet of one flit (R243). -/
def oneFlit (m : Msg) : Bool := inControl m.addr.toNat || inMmio m.addr.toNat
/-- The data flits of a packet (LEN). -/
def opcLen (o : Opc) (m : Msg) : Nat :=
  match o with
  | .data => if oneFlit m then 0 else 2
  | .wbd | .evc | .snpdata | .iow => 2
  | _ => 0
def nodeCode (n : Node) : Nat := n.quad.val * 64 + n.stop.val

/-! ### Flits (R242, R243) -/

/-- The header in a head flit's data bits: [127:0] with the fields of a message, then BYTEEN and SDATA. -/
def obsHeader (o : Opc) (m : Msg) : Nat :=
  m.addr.toNat + m.epoch.toNat * 2 ^ 52 + opcLen o m * 2 ^ 60 + opcCode o * 2 ^ 64 + m.txid.toNat * 2 ^ 72 + m.key.toNat * 2 ^ 88 +
    bitNat m.poison * 2 ^ 99 + bitNat m.collide * 2 ^ 100 + m.rstat.toNat * 2 ^ 101 + m.src.unit.val * 2 ^ 104
def headData (o : Opc) (m : Msg) : Nat := obsHeader o m + m.byteen.toNat * 2 ^ 128 + m.sdata.toNat * 2 ^ 192
def obsControl (o : Opc) (m : Msg) : Nat :=
  (if opcLen o m = 0 then 3 else 1) * 2 ^ 30 + opcVc o * 2 ^ 28 + nodeCode m.dst * 2 ^ 20 + nodeCode m.src * 2 ^ 12
/-- The CRC-12 of R242 over the low `k` bits of `x`, the highest first; it begins at 0 (log entry 34). -/
def crc12 : Nat → Nat → BitVec 12 → BitVec 12
  | 0, _, c => c
  | k + 1, x, c => crc12 k x ((c <<< 1) ^^^ (if c.msb != x.testBit k then 0x80F else 0))
/-- The CRC of a flit over its bits 287 to 12: 256 data bits above 32 control bits. -/
def flitCrc (data control : Nat) : Nat := (crc12 276 ((data * 2 ^ 32 + control) / 2 ^ 12) 0).toNat
/-- A flit with its CRC. -/
def sealFlit (data control : Nat) : BitVec 288 := BitVec.ofNat 288 (data * 2 ^ 32 + control + flitCrc data control)
/-- Whether a flit passes the check of a link (R248). -/
def flitOk (f : BitVec 288) : Bool := f.toNat % 2 ^ 12 == flitCrc (f.toNat / 2 ^ 32) (f.toNat % 2 ^ 32 / 2 ^ 12 * 2 ^ 12)
/-- The head flit of a packet. -/
def headFlit (o : Opc) (m : Msg) : BitVec 288 := sealFlit (headData o m) (obsControl o m)
/-- A data flit: body or tail, the first 32 bytes of the line first. -/
def dataFlit (o : Opc) (m : Msg) (i : Nat) : BitVec 288 :=
  sealFlit (m.data.toNat / 2 ^ (256 * i) % 2 ^ 256) ((if i + 1 = opcLen o m then 2 else 0) * 2 ^ 30 + opcVc o * 2 ^ 28)
/-- The worm of a packet. -/
def packetFlits (o : Opc) (m : Msg) : List (BitVec 288) := headFlit o m :: (List.range (opcLen o m)).map (dataFlit o m)
/-- The tail with which a router closes a worm downstream (R250). -/
def abortFlit (vc : Nat) : BitVec 288 := sealFlit 0 (2 * 2 ^ 30 + vc * 2 ^ 28 + 2 ^ 27)

/-! ### The Brixnil flit (R324) -/

/-- The CRC-64 of R324 over bytes, each from its highest bit; it begins at 0 (log entry 34). -/
def crc64 (l : List Byte) : BitVec 64 :=
  l.foldl (fun c b => (List.range 8).foldl (fun (c : BitVec 64) i =>
    (c <<< 1) ^^^ (if c.msb != b.getLsbD (7 - i) then 0x42F0E1EBA9EA3693 else 0)) c) 0
/-- A packet's flits as they cross a link: a retried one has bit [63] of its header set (R327). -/
def linkFlits (o : Opc) (m : Msg) (retry : Bool) : List (BitVec 288) :=
  sealFlit (headData o m + bitNat retry * 2 ^ 63) (obsControl o m) :: (packetFlits o m).tail
/-- A product in GF(2^8) by x^8 + x^4 + x^3 + x^2 + 1. -/
def fecMul (a b : Nat) : Nat :=
  ((List.range 8).foldl (fun (p : Nat × Nat) i =>
    let t := p.2 * 2
    (if b.testBit i then p.1 ^^^ p.2 else p.1, if 256 ≤ t then t ^^^ 0x11D else t)) (0, a)).1
/-- The coefficients, below the leading one and highest first, of the generator of RS(128,120), whose roots are the powers 0 to 7 of x (log entry
116). -/
def rsGenerator : List Nat :=
  let mulRoot := fun (g : List Nat) (r : Nat) => List.zipWith (fun a b => a ^^^ b) (g ++ [0]) (0 :: g.map (fecMul r))
  (((List.range 8).foldl (fun (p : List Nat × Nat) _ => (mulRoot p.1 p.2, fecMul p.2 2)) ([1], 1)).1).tail
/-- The eight check symbols of a codeword. -/
def rsCheck (l : List Nat) : List Nat :=
  l.foldl (fun s x =>
    let f := x ^^^ s.headD 0
    List.zipWith (fun a g => a ^^^ fecMul f g) (s.tail ++ [0]) rsGenerator) (List.replicate 8 0)
/-- Bytes 240 to 255 of a flit: even bytes are codeword 0, odd ones codeword 1. -/
def fecBytes (l : List Byte) : List Byte :=
  let half := fun (r : Nat) => rsCheck ((List.range 120).map fun i => (l.getD (2 * i + r) 0).toNat)
  (List.zip (half 0) (half 1)).flatMap fun p => [BitVec.ofNat 8 p.1, BitVec.ofNat 8 p.2]

/-- A flit: up to six slots, the sequence fields, the credits returned, the CRC, and the forward error correction. -/
def brxBytes (seq ack : BitVec 12) (gen : Nat) (nak : Bool) (credits : List Nat) (slots : List (BitVec 288)) : List Byte :=
  let slot := fun (x : BitVec 288) => leBytes 32 (x.toNat / 2 ^ 32) ++ leBytes 4 (x.toNat % 2 ^ 32)
  let body := ((slots.flatMap slot) ++ List.replicate 216 0).take 216 ++ leBytes 2 (seq.toNat + gen % 16 * 2 ^ 12) ++
    leBytes 2 (ack.toNat + bitNat nak * 2 ^ 12) ++ leBytes 1 (2 ^ slots.length - 1) ++ [0] ++
    ((List.range 4).flatMap fun c => leBytes 1 (credits.getD c 0)) ++ List.replicate 6 0
  let l := body ++ leBytes 8 (crc64 body).toNat
  l ++ fecBytes l

end Sys2Proof.Machine
end

