-- ==== Sys2Proof/Machine/Links.lean ====
section
/-! DEFINITION. Nodes, routes and packets of the fabric (R11, R245), the sending side of the Brixnil links (R323 to R326), and the accesses of
this socket to another one (R25, R27, R304). An access to another socket sends its packet when its command ends, and waits: the
command changes nothing else, and is made again when the answer is there (log entry 106). -/

namespace Sys2Proof.Machine

def stopOfPort (p : Nat) : Nat := p / 16
def skeinOfLink (k : Nat) : Nat := 2 * k
def stopOfLink (k : Nat) : Nat := k / 2

/-! ### Nodes -/

def coreNode (c : Nat) : Node := ⟨Fin.ofNat 4 (quadOfCore c), Fin.ofNat 64 (stopOfTile (tileOfCore c % 33)), Fin.ofNat 4 (c % 2)⟩
def sliceNode (n : Nat) : Node := ⟨Fin.ofNat 4 (n / 33), Fin.ofNat 64 (stopOfTile (n % 33)), 2⟩
def ioNode (g : Nat) : Node := ⟨Fin.ofNat 4 (g / 2), Fin.ofNat 64 (stopOfIo (g % 2)), 3⟩
/-- The node by which an agent sends and receives. -/
def Dev.agentNode (d : Dev) (a : Agent) : Node :=
  match a with
  | .core c => coreNode c.val
  | .io g => ioNode g.val
  | .engine e => ⟨e, 20, 3⟩
  | .socket s => ioNode (stopOfLink (((List.range 16).find? fun k => (d.link k).up && (d.link k).peer == s.val).getD 0))
  | .cxl h => ioNode (stopOfPort ((d.cxlPort h.val).getD 0))

/-! ### Routes (R245) -/

/-- A step of a route: quadrant, stop and output port (0 north, 1 east, 2 south, 3 west, 4 local, 5 bridge). -/
abbrev Hop := Nat × Nat × Nat

/-- Along the row, then along the column. -/
def meshRoute (q : Nat) : Nat → Nat → Nat → List Hop
  | 0, _, _ => []
  | fuel + 1, s, t =>
    if s % 8 < t % 8 then (q, s, 1) :: meshRoute q fuel (s + 1) t
    else if t % 8 < s % 8 then (q, s, 3) :: meshRoute q fuel (s - 1) t
    else if s / 8 < t / 8 then (q, s, 2) :: meshRoute q fuel (s + 8) t
    else if t / 8 < s / 8 then (q, s, 0) :: meshRoute q fuel (s - 8) t
    else []

/-- The stop of bridge link i (R12). -/
def bridgeStop (vertical : Bool) (i : Nat) : Nat := if vertical then 32 + 2 + i else i * 8 + 7

/-- Whether the port at a bridge's stop has been retired. -/
def Dev.linkRetired (d : Dev) (vertical : Bool) (q i : Nat) : Bool :=
  let mate := if vertical then (q + 2) % 4 else if q % 2 = 0 then q + 1 else q - 1
  d.fabric.ports.any fun p => p.retired && p.port == 5 && p.stop == bridgeStop vertical i && (p.quad == q || p.quad == mate)

/-- The live link that index k takes on a bridge (R250). -/
def Dev.liveLink (d : Dev) (vertical : Bool) (q k : Nat) : Nat :=
  let l := (List.range 4).filter fun i => !d.linkRetired vertical q i
  l.getD (k % max 1 l.length) k

def Dev.route3 (d : Dev) (a b : Node) : List Hop :=
  let q := a.quad.val
  let q' := b.quad.val
  let k := (a.stop.val + b.stop.val) % 4
  let last := [(q', b.stop.val, 4)]
  if q = q' then meshRoute q 16 a.stop.val b.stop.val ++ last
  else if q % 2 != q' % 2 && q / 2 == q' / 2 then
    let s := bridgeStop false (d.liveLink false q k)
    meshRoute q 16 a.stop.val s ++ [(q, s, 5)] ++ meshRoute q' 16 s b.stop.val ++ last
  else if q % 2 == q' % 2 then
    let s := bridgeStop true (d.liveLink true q k)
    meshRoute q 16 a.stop.val s ++ [(q, s, 5)] ++ meshRoute q' 16 s b.stop.val ++ last
  else
    let m := if q % 2 = 0 then q + 1 else q - 1
    let s := bridgeStop false (d.liveLink false q k)
    let t := bridgeStop true (d.liveLink true m k)
    meshRoute q 16 a.stop.val s ++ [(q, s, 5)] ++ meshRoute m 16 s t ++ [(m, t, 5)] ++ meshRoute q' 16 t b.stop.val ++ last

/-- Whether a packet's route uses an output port. -/
def Dev.uses (d : Dev) (m : Msg) (q s p : Nat) : Bool := (d.route3 m.src m.dst).any fun h => h == (q, s, p)
/-- A packet whose route meets an isolated port is discarded (R250). -/
def Dev.blocked (d : Dev) (m : Msg) : Bool := d.fabric.ports.any fun p => p.isolated && d.uses m p.quad p.stop p.port

/-- The quadrants that a route crosses (R245): a diagonal one goes by the horizontal neighbour of its source. -/
def routeQuads (a b : Node) : List Nat :=
  let q := a.quad.val
  let q' := b.quad.val
  if q % 2 != q' % 2 && q / 2 != q' / 2 then [q, if q % 2 = 0 then q + 1 else q - 1, q'] else [q, q']

/-! ### Packets -/

def isRequest (o : Opc) : Bool := opcVc o == 0
/-- A packet that begins a transaction of its sender, which a final response ends (R251). -/
def begins (o : Opc) : Bool := (isRequest o && o != .msg) || o == .wbd || o == .evc
def isResponse (o : Opc) : Bool :=
  [Opc.grant, .ack, .nocopy, .copylost, .cmp, .err, .xlateack, .data, .snpdata].contains o

/-- Sends a packet into the fabric. -/
def Dev.send (d : Dev) (o : Opc) (m : Msg) : Dev := d.setFabric { d.fabric with net := d.fabric.net ++ [(o, m)] }
/-- The response to a packet: its ends exchanged, no data. -/
def backOf (m : Msg) : Msg :=
  { m with src := m.dst, dst := m.src, epoch := 0, poison := false, collide := false, rstat := 0, byteen := 0, sdata := 0, data := 0 }

def txnOf (d : Dev) (m : Msg) (o : Opc) : Fabric :=
  let l := d.fabric.txns.filter fun x => !(x.timed && d.past x.began (us (2 * d.od 0x4010 2 2000)))
  if l.any fun x => x.who == m.who && x.txid == m.txid then { d.fabric with txns := l }
  else { d.fabric with txns := l ++ [⟨m.who, o, m.txid, m.addr, d.time, [], false, false, false⟩] }
/-- The initiator of a packet times its transaction; the number of one that timed out is free again after twice the timeout (R251). -/
def Dev.beginTxn (d : Dev) (m : Msg) (o : Opc) : Dev := d.setFabric (txnOf d m o)

/-! ### Links -/

/-- A flit goes out: what it carries, the credits owed and the sequence number last received in order (R324). -/
def Dev.putFlit (d : Dev) (k : Nat) (seq : BitVec 12) (nak : Bool) (p : Option (Opc × Msg × Bool)) : Dev :=
  let l := d.link k
  let slots := match p with
    | some (o, m, again) => linkFlits o m again
    | none => []
  let b := brxBytes seq (l.rxSeq - 1) (d.fld (.sknBrx (skeinOfLink k)) .SKN_BRX_GEN) nak l.owed slots
  let d1 := d.modLink k fun x => { x with owed := [], sent := b }
  match p with
  | some (o, m, _) => { d1 with outMsgs := d1.outMsgs ++ [(o, m)] }
  | none => d1

/-- A new flit is sent; the last 256 are kept (R325). -/
def Dev.sendFlit (d : Dev) (k : Nat) (nak : Bool) (p : Option (Opc × Msg × Bool)) : Dev :=
  let seq := (d.link k).txSeq
  (d.putFlit k seq nak p).modLink k fun x => { x with txSeq := x.txSeq + 1, buffer := (x.buffer ++ [(seq, p)]).drop (x.buffer.length + 1 - 256) }

/-- The flits that the far end has not acknowledged are sent again, in order (R325). -/
def Dev.replayFlits (d : Dev) (k : Nat) : Dev :=
  ((d.link k).buffer.foldl (fun x e => x.putFlit k e.1 false e.2) d).countFld (.sknBrx (skeinOfLink k)) .SKN_BRX_REPLAY (d.link k).buffer.length

/-- The packets that wait at a link are sent in order, each whole, while there are credits of its class (R325, R326). -/
def Dev.brxPump (k : Nat) : Nat → Dev → Dev
  | 0, d => d
  | n + 1, d =>
    let l := d.link k
    match l.queue with
    | [] => d
    | (o, m, again) :: rest =>
      let need := 1 + opcLen o m
      if !l.up || l.retrain || decide (l.credits.getD (opcVc o) 0 < need) then d else
      let d1 := d.modLink k fun x => { x with
        queue := rest, credits := (List.range 4).map fun c => x.credits.getD c 0 - (if c = opcVc o then need else 0) }
      Dev.brxPump k n (d1.sendFlit k false (some (o, m, again)))

/-- A packet is to cross a link. -/
def Dev.brxSend (d : Dev) (k : Nat) (o : Opc) (m : Msg) (again : Bool) : Dev :=
  (d.modLink k fun x => { x with queue := x.queue ++ [(o, m, again)] }).brxPump k ((d.link k).queue.length + 1)

/-- A fresh TXID of a link's proxy; those of different links differ. -/
def Dev.linkId (d : Dev) (k : Nat) : Dev × Half :=
  let n := (d.link k).nextId
  (d.modLink k fun x => { x with nextId := (n + 1) % 4096 }, BitVec.ofNat 16 (n * 16 + k))

/-- The link to a peer that a request or snoop crosses (R323): by address bits 6 and 12 when two are live. -/
def Dev.linkFor (d : Dev) (s : Nat) (m : Msg) : Option Nat :=
  let l := (List.range 16).filter fun k => (d.link k).up && (d.link k).peer == s
  l[(if m.addr.getLsbD 6 != m.addr.getLsbD 12 then 1 else 0) % max 1 l.length]?

/-- The transaction of a packet is one that has crossed to another socket. -/
def Dev.noteAway (d : Dev) (m : Msg) : Dev :=
  d.setFabric { d.fabric with txns := d.fabric.txns.map fun t => if t.who == m.who && t.txid == m.txid then { t with away := true } else t }

/-- A request or snoop crosses to another socket. Without a live link it stays unanswered, and ends under R251. -/
def Dev.cross (d : Dev) (s : Nat) (o : Opc) (m : Msg) : Dev :=
  let d := d.noteAway m
  match d.linkFor s m with
  | none => d
  | some k =>
    let (d1, id) := d.linkId k
    (if o = .msg then d1 else d1.modLink k fun x => { x with started := x.started ++ [⟨id, o, m⟩] }).brxSend k o { m with txid := id } false

/-- The manager tells every other live socket (R331, R333). -/
def Dev.tellAll (d : Dev) (m : BoardMsg) : Dev :=
  if !d.pins.isManager then d else
  { d with board := { d.board with told := d.board.told ++ (((List.range 4).filter fun s => s != d.socket && d.sockUp s).map fun s => (s, m)) } }

/-! ### Accesses to another socket -/

/-- The other socket that an address names, when it can be reached (R25, R27, R304). -/
def Dev.socketOf (d : Dev) (pa : Nat) : Option Nat :=
  let s := match d.place pa with
    | .control s _ => some s
    | .mmio s _ _ => some s
    | .remoteSpad s => some s
    | .remote s => some s
    | _ => none
  s.filter fun s => s != d.socket && d.sockUp s

/-- The packet of an agent's access; a core's carries its epoch (R182). -/
def Dev.packetTo (d : Dev) (who : Agent) (pa : Nat) (key : BitVec 11) (be : Word) (sdata : Word) (data : Line) (poison : Bool) : Msg :=
  { src := d.agentNode who, dst := ((d.socketOf pa).map fun s => d.agentNode (.socket (Fin.ofNat 4 s))).getD (d.agentNode who), who := who,
    addr := BitVec.ofNat 52 pa,
    epoch := (match who with
      | .core c => BitVec.ofNat 8 (d.epoch c.val)
      | _ => 0),
    txid := 0, key := key, poison := poison, collide := false, rstat := 0, byteen := be, sdata := sdata, data := data }

/-- An access that another socket answers: its answer, once that has come, else the access waits for it. -/
def Dev.farGet (d : Dev) (o : Opc) (m : Msg) : Dev × Option FarAnswer :=
  let f := d.fabric
  match f.far.find? fun a => a.who == m.who && a.opc == o && a.addr == m.addr with
  | some a => (d.setFabric { f with far := f.far.erase a }, some a)
  | none =>
    let under := (f.txns.any fun t => t.keep && !t.timed && t.who == m.who && t.opc == o && t.addr == m.addr) ||
      f.asks.any fun a => a.keep && a.opc == o && a.msg == m
    (d.setFabric { f with waits := f.waits + 1, asks := if under then f.asks else f.asks ++ [⟨o, m, true⟩] }, none)

/-- A write, a write-back or an eviction that another socket takes, for which nothing waits. -/
def Dev.farPost (d : Dev) (o : Opc) (m : Msg) : Dev := d.setFabric { d.fabric with asks := d.fabric.asks ++ [⟨o, m, false⟩] }

/-- A request for a line of another socket is under way there: later ones for the line wait (R165). -/
def Dev.crossing (d : Dev) (ln : Nat) : Bool :=
  d.fabric.txns.any fun t => (t.keep || t.away) && !t.timed && t.addr.toNat / 64 == ln

/-- What is left of a command that has had to wait: the state before it, with the packets to other sockets on whose answers it waits. -/
def Dev.orWait (d e : Dev) : Dev :=
  if e.fabric.waits = d.fabric.waits then e
  else d.setFabric { d.fabric with asks := d.fabric.asks ++ e.fabric.asks.filter fun a => a.keep && !d.fabric.asks.contains a }

/-- A packet to another socket leaves, with a TXID that its initiator does not use (R251). -/
def Dev.sendAsk (d : Dev) (a : FarAsk) : Dev :=
  match d.socketOf a.msg.addr.toNat with
  | none => d
  | some s =>
    let used := (d.fabric.txns.filter fun t => t.who == a.msg.who).map (·.txid.toNat)
    let m := { a.msg with txid := BitVec.ofNat 16 (used.foldl max 0 + 1) }
    let t : OutTxn := ⟨m.who, a.opc, m.txid, m.addr, d.time, [], false, a.keep, true⟩
    (d.setFabric { d.fabric with txns := d.fabric.txns ++ [t] }).cross s a.opc m

/-- The packets to other sockets that a command has made leave at its end. -/
def Dev.sendAsks (d : Dev) : Dev := d.fabric.asks.foldl Dev.sendAsk (d.setFabric { d.fabric with asks := [] })

/-! ### CXL.mem -/

/-- A line of memory outside local DRAM: plain bytes with the poison mark; key IDs are ignored (R321). -/
def Dev.farRead (d : Dev) (ln : Nat) : Got :=
  match d.lineMeta ln with
  | some m => ⟨Memory.line d.mem ln, m.lost, false⟩
  | none => Got.ok (Memory.line d.mem ln)

def Dev.farWrite (d : Dev) (ln : Nat) (x : Line) (be : Word) (poison : Bool) : Dev :=
  let old := Memory.line d.mem ln
  let was := ((d.lineMeta ln).map (·.lost)).getD false
  let p := if be == fullMask then poison else was || poison
  let d1 := { d with mem := Memory.putLine d.mem ln (Line.merge old x be) }
  { d1 with lines := if p then Tbl.set ln ⟨true, ⟨0, 0⟩⟩ d1.lines else Tbl.del ln d1.lines }

end Sys2Proof.Machine
end

