-- ==== Sys2Proof/Machine/Coh.lean ====
section
/-! DEFINITION. Caches, directory and coherence: the slice hash (R171 to R173, R177), the last-level cache (R155
to R159), the directory (R162 to R168), a core's L2, and what the home does with each request (R164). A request
of an access is served whole in one step, or the access waits (log entry 106); the message commands serve it in parts, through the
same operations. -/

namespace Sys2Proof.Machine

/-! ### Signatures (R209, R210) -/

def rot10 (x n : Nat) : Nat := (x * 2 ^ n + x / 2 ^ (10 - n)) % 1024
/-- h_k of a line number. -/
def sigHash (k x : Nat) : Nat :=
  let c := fun (i : Nat) => x / 2 ^ (10 * i) % 1024
  (c 0) ^^^ rot10 (c 1) k ^^^ rot10 (c 2) (2 * k % 10) ^^^ rot10 (c 3) (3 * k % 10) ^^^ rot10 (x / 2 ^ 40 % 64) (4 * k % 10)
def sigBits (ln : Nat) : BitVec 4096 := BitVec.ofNat 4096 ((List.range 4).foldl (fun n k => n ||| 2 ^ (k * 1024 + sigHash k ln)) 0)
def sigTest (s : BitVec 4096) (ln : Nat) : Bool := (s &&& sigBits ln) == sigBits ln

/-! ### The slice hash -/

/-- The parity of the low `k` bits of `x and m`. -/
def maskParity : Nat → Nat → Nat → Bool
  | 0, _, _ => false
  | k + 1, x, m => (x % 2 == 1 && m % 2 == 1) != maskParity k (x / 2) (m / 2)

/-- Bit j of the hash value formed by masks from `i` on. -/
def hashBits (m : HashMap) (x : Nat) : Nat → Nat → Nat
  | 0, _ => 0
  | k + 1, i => (if maskParity 46 x ((m.masks.getD i 0).toNat) then 1 else 0) + 2 * hashBits m x k (i + 1)

/-- The quadrant of the node that holds a physical address (R263). -/
def Dev.quadOf (d : Dev) (pa : Nat) : Nat := (pa - d.socket * 0x100000000000) / 0x20000000000 % 4

/-- home(pa, m) of R171: physical slice and set index. -/
def Dev.homeIn (d : Dev) (m : HashMap) (ln : Nat) : Nat × Nat :=
  let i := hashBits m ln 7 0
  let v := hashBits m ln 20 7
  let slot := if d.quartered then 32 * d.quadOf (ln * 64) + i % 32 else i
  (m.table.getD slot 0, v % 3072)

/-- The home in force for a line (R177). -/
def Dev.home (d : Dev) (ln : Nat) : Nat × Nat :=
  let o := d.homeIn d.hash.old ln
  if d.hash.active != .none && decide (o.2 < d.hash.ptr) then d.homeIn d.hash.new ln else o

/-- The node at which a domain's unit stands: the service stop of the first quadrant for what has no domain of its own. -/
def nodeOfDom (k : Nat) : Node :=
  if k < 264 then coreNode k
  else if k < 396 then sliceNode (k - 264)
  else if k < 412 then ⟨Fin.ofNat 4 ((k - 396) / 4), Fin.ofNat 64 (stopOfMc ((k - 396) % 4)), 3⟩
  else if k < 444 then ioNode ((k - 412) / 4)
  else if k < 448 then ⟨Fin.ofNat 4 (k - 444), 20, 3⟩
  else ⟨0, 20, 3⟩

/-- The node of this socket at which an address is served (R12, R13, R242): a line's home, a scratchpad's slice, the I/O stop of a window, a
register's unit, or the I/O stop that leads to another socket. -/
def Dev.destOf (d : Dev) (pa : Nat) : Node :=
  match d.socketOf pa with
  | some s => d.agentNode (.socket (Fin.ofNat 4 s))
  | none => match d.place pa with
    | .spad n _ _ => sliceNode n
    | .mmio _ g _ => ioNode g
    | .control _ o => nodeOfDom (((Reg.ofOffset (o - o % 8)).bind Reg.domain).getD 448)
    | _ => sliceNode (d.home (pa / 64)).1

/-- The set of a line under the old map, by which a rebuild routes. -/
def Dev.oldSet (d : Dev) (ln : Nat) : Nat := (d.homeIn d.hash.old ln).2

/-! ### Waking units -/

/-- A little-endian field of an image. -/
def imageW (b : List Byte) (o n : Nat) : Nat := leNat ((b.drop o).take n)
/-- PATCH_ID of a microcode patch image (R126). -/
def patchId (img : List Byte) : Nat := imageW img 4 2

/-- A pending microcode patch is applied at a core's wake (R128): the chief steward's accepted image is loaded into patch RAM. -/
def Dev.applyPatch (d : Dev) (c : Nat) : Dev :=
  if d.bit (.coreUcode c) .CORE_UCODE_PEND then
    let d1 := (d.setFlds (.coreUcode c) [(.CORE_UCODE_PATCH_ID, d.fld (.coreUcode c) .CORE_UCODE_PENDING_ID), (.CORE_UCODE_PENDING_ID, 0),
      (.CORE_UCODE_PEND, 0)]).modCore c fun k => { k with patch := d.dict.patch }
    { d1 with dict := { d1.dict with patches := Tbl.set c d.dict.patch d1.dict.patches } }
  else d

/-- What follows the end of a unit's Retention: a core applies its pending patch, and a controller's ranks leave
self-refresh (R128, R290). -/
def Dev.onWake (d : Dev) (k : Nat) : Dev :=
  if k < 264 then d.applyPatch k
  else if 396 ≤ k ∧ k < 412 ∧ d.fld (.mcCtl (k - 396)) .MC_CTL_STATE = 3 then d.setFld (.mcCtl (k - 396)) .MC_CTL_STATE 0
  else d

/-- A domain in Retention wakes with its state intact, and packets parked for it are delivered (R249, R378). -/
def Dev.wake (d : Dev) (k : Nat) : Dev :=
  if d.power k = 1 then
    let mine := (d.fabric.parked.filter fun p => p.dom == k).map fun p => (p.opc, p.msg)
    let fab := { d.fabric with parked := d.fabric.parked.filter (fun p => p.dom != k), net := d.fabric.net ++ mine }
    ((({ d with fabric := fab }.setPower k 0).modDom k fun x => if x.step = PowerStep.waking then { x with step := PowerStep.settled } else x)).onWake k
  else d

/-- The fabrics along a route wake (R247). -/
def Dev.wakeRoute (d : Dev) (a b : Node) : Dev := (routeQuads a b).foldl (fun x q => x.wake (domOfFabric q)) d

/-! ### Memory as the home sees it: DRAM, CXL.mem, and the memory of another socket -/

/-- The controller cannot read a line now: its channel changes frequency or retrains (R272, R276), or a write of the line is held for the fill
table (R285). -/
def Dev.mcBusy (d : Dev) (ch ln : Nat) : Bool :=
  d.chanState ch == 1 || d.chanState ch == 2 || (d.chan ch).wq.any fun w => w.line == ln && !w.issued && d.wqHeld ch w
/-- Reads a line of memory for a request of a class; a channel in Retention wakes (R290). -/
def Dev.memRead (d : Dev) (ln : Nat) (key : BitVec 11) (cls : Nat) : Dev × Got :=
  match d.place (ln * 64) with
  | .dram ch _ =>
    let d := d.wake (domOfChan ch)
    if d.mcBusy ch ln then (d.wait, Got.error) else d.mcReadLine ch ln key cls
  | .cxl h => (d, if d.cxlDown h then Got.error else d.farRead ln)
  | _ => (d, Got.error)

/-- Writes enabled bytes of a line to memory; true when the write meets an error response. -/
def Dev.memWrite (d : Dev) (ln : Nat) (x : Line) (be : Word) (key : BitVec 11) (poison : Bool) : Dev × Bool :=
  match d.place (ln * 64) with
  | .dram ch _ =>
    if d.chanFailed ch then (d, true) else
    let d := d.wake (domOfChan ch)
    if d.mcFull ch ln then (d.wait, false) else (d.mcWriteLine ch ln x be key poison 0, false)
  | .remote s => if d.sockUp s then (d.farPost .wbd (d.packetTo (.io 0) (ln * 64) key be 0 x poison), false) else (d, true)
  | .cxl h => if d.cxlDown h then (d, true) else (d.farWrite ln x be poison, false)
  | _ => (d, true)

/-- A write that memory has to take: an error response leaves it dropped and recorded against the slice's socket
(R447 names the core's bank for stores; a victim's loss has no consumer yet). -/
def Dev.victimOut (d : Dev) (ln : Nat) (x : Line) (key : BitVec 11) (poison : Bool) : Dev :=
  (d.memWrite ln x fullMask key poison).1

/-- Every controller whose write queue is all but full issues requests, as it does meanwhile when a unit writes back many lines. -/
def Dev.makeRoom (d : Dev) : Dev :=
  (d.chans.map (·.1)).foldl (fun x ch => if (x.chan ch).wq.length < 60 then x else
    (List.range 8).foldl (fun y _ => (y.mcStep ch).1) x) d

/-- Marks a line lost in memory (R180 step 3): a poisoned write of it, after the writes that the controller has already accepted (R280). -/
def Dev.markLost (d : Dev) (ln : Nat) : Dev :=
  match d.place (ln * 64) with
  | .dram ch _ =>
    let d := d.makeRoom.wake (domOfChan ch)
    if !d.mcFull ch ln then d.mcWriteLine ch ln 0 fullMask 0 true 0 else
    let d1 := (d.mcFlushLine ch ln).mcPerform ch ⟨ln, 0, fullMask, 0, true, false, 0, 0⟩
    { d1 with lines := Tbl.set ln ⟨true, ((d1.lineMeta ln).map (·.keys)).getD ⟨0, 0⟩⟩ d1.lines }
  | .remote _ => d.victimOut ln 0 0 true
  | _ => { d with lines := Tbl.set ln ⟨true, ⟨0, 0⟩⟩ d.lines }

/-! ### Packets of an access within the socket (R245 to R253) -/

/-- A discarded packet is counted (R250). -/
def Dev.lateAt (d : Dev) (q : Nat) : Dev := d.countFld (.fabStat q) .FAB_STAT_LATE 1
/-- Some observation unit is enabled (R253). -/
def Dev.observing (d : Dev) : Bool := (List.range 16).any fun i => d.bit (.fabObsCtl (i / 4) (i % 4)) .FAB_OBS_CTL_EN
/-- The observation units see a packet; `began` is when its request was sent. -/
def Dev.see (d : Dev) (o : Opc) (m : Msg) (began : Word) : Dev :=
  if d.observing then d.setFabric { d.fabric with seen := d.fabric.seen ++ [(o, m, began)] } else d

/-- The packet of an access to a unit of this socket goes its route: the fabrics there wake (R247). Where it meets an isolated port it is
discarded and counted, and the access ends with an error response (R250, R251). -/
def Dev.reach (d : Dev) (o : Opc) (m : Msg) : Dev × Bool :=
  let d1 := (d.wakeRoute m.src m.dst).see o m d.time
  if d1.blocked m then (d1.lateAt m.src.quad.val, false) else (d1, true)

/-- The response to an access is seen. -/
def Dev.seeBack (d : Dev) (o : Opc) (m : Msg) (x : Line) (poison : Bool) : Dev := d.see o { backOf m with data := x, poison := poison } d.time

/-! ### The last-level cache -/

/-- The LFSR of R157, x^16 + x^14 + x^13 + x^11 + 1, advanced once. -/
def lfsrNext (l : Half) : Half :=
  let b := l ^^^ (l >>> 2) ^^^ (l >>> 3) ^^^ (l >>> 5)
  (l >>> 1) ||| ((b &&& 1) <<< 15)

def Slice.llcLine (s : Slice) (ln : Nat) : Option LlcLine := s.llc.find? fun e => e.line == ln
def Slice.dirEntry (s : Slice) (ln : Nat) : Option DirEntry := s.dir.find? fun e => e.line == ln
def Dev.dropLlc (d : Dev) (n ln : Nat) : Dev := d.modSlice n fun s => { s with llc := s.llc.filter fun e => e.line != ln }
/-- The lowest way of a directory set that holds no entry; 24 where all do (log entry 106). -/
def Slice.freeWay (s : Slice) (set : Nat) : Nat :=
  ((List.range 24).find? fun w => s.dir.all fun x => x.set != set || x.way != w).getD 24
/-- An entry is written: a line's own entry keeps its way, a new one takes a free way of its set. -/
def Dev.setDir (d : Dev) (n : Nat) (e : DirEntry) : Dev :=
  d.modSlice n fun s =>
    let way := match s.dirEntry e.line with
      | some x => if x.set = e.set then x.way else s.freeWay e.set
      | none => s.freeWay e.set
    { s with dir := { e with way := way } :: s.dir.filter fun x => x.line != e.line }
def Dev.dropDir (d : Dev) (n ln : Nat) : Dev := d.modSlice n fun s => { s with dir := s.dir.filter fun x => x.line != ln }

/-- The class of a core (R160). -/
def Dev.coreClass (d : Dev) (c : Nat) : Nat :=
  getF (d.reg (.slcCosCore 0 (c / 16))) ⟨c % 16 * 4 + 3, c % 16 * 4⟩

/-- The ways a class may fill: its mask, less the converted ways (R159, R184). -/
def Dev.fillWays (d : Dev) (n cls : Nat) : List Nat :=
  let m := d.fld (.slcCos n cls) .SLC_COS_MASK
  let lim := 16 - d.fld (.slcState n) .SLC_STATE_SPWAYS
  (List.range 16).filter fun w => m.testBit w && decide (w < lim)

/-- A line whose home is another socket's (R171): that socket's slices cache it, and not this socket's. -/
def Dev.homedAway (d : Dev) (ln : Nat) : Bool :=
  match d.place (ln * 64) with
  | .remote _ => true
  | _ => false

/-- Allocates a line in the last-level cache (R156, R157, R159); where no way remains, dirty data goes to memory. -/
def Dev.allocLlc (d : Dev) (n set ln cls : Nat) (x : Line) (dirty : Bool) (key : BitVec 11) (poison : Bool) : Dev :=
  let s := d.slice n
  match s.llcLine ln with
  | some e => d.modSlice n fun s => { s with llc := s.llc.map fun f =>
      if f.line == ln then { e with data := x, dirty := dirty || e.dirty, key := key, poison := poison } else f }
  | none =>
    let ways := d.fillWays n cls
    let used := s.llc.filter fun e => e.set == set
    match ways.find? fun w => used.all fun e => e.way != w with
    | some w => d.modSlice n fun s => { s with llc := { line := ln, set := set, way := w, dirty := dirty, key := key, data := x, poison := poison } :: s.llc }
    | none =>
      match ways[s.lfsr.toNat % ways.length]? with
      | none => if dirty || poison then d.victimOut ln x key poison else d
      | some w =>
        let d1 := d.modSlice n fun s => { s with
          lfsr := lfsrNext s.lfsr,
          llc := { line := ln, set := set, way := w, dirty := dirty, key := key, data := x, poison := poison } ::
            s.llc.filter fun e => !(e.set == set && e.way == w) }
        match used.find? fun e => e.way == w with
        | some v => if v.dirty || v.poison then d1.victimOut v.line v.data v.key v.poison else d1
        | none => d1

/-! ### Holders -/

/-- The snoops a home sends: to S, to I, or for data only. -/
inductive SnoopKind
  | share | inval | peek
deriving DecidableEq, Repr

/-- A copy that a holder supplies, and the core in whose L2 it was. -/
structure Copy where
  line : L2Line
  core : Option Nat
deriving DecidableEq, Repr

/-- What holders answer: a copy that one held; `lost` when a dead owner's copy is lost (R180 step 2); `spec` when a tile answers "no
copy" of a line that is stitch-speculative there, so that the home has the committed data (R208, R211). -/
structure SnoopAns where
  held : Option Copy
  lost : Bool
  spec : Bool
deriving DecidableEq, Repr

def SnoopAns.none : SnoopAns := ⟨Option.none, false, false⟩

def Core.l2Line (k : Core) (ln : Nat) : Option L2Line := k.l2.find? fun e => e.line == ln
/-- The L2 gets new contents. The L2 includes both L1s: a line that leaves it leaves them (R104). -/
def Core.setL2 (k : Core) (l : List L2Line) : Core :=
  let holds := fun (ln : Nat) => l.any fun e => e.line == ln
  { k with l2 := l, l1i := k.l1i.filter holds, l1d := k.l1d.filter holds }
/-- A line leaves the L2. -/
def Core.dropLine (k : Core) (ln : Nat) : Core := k.setL2 (k.l2.filter fun e => e.line != ln)
/-- The line is stitch-speculative in the core (R208). -/
def Core.speculates (k : Core) (ln : Nat) : Bool := k.member.any fun m => m.overlay.any fun (x : Nat × SpecLine) => x.1 == ln

/-- What a snoop does to a core's copy (R163, R164). -/
def Core.snooped (q : Core) (ln : Nat) (k : SnoopKind) : Core :=
  match k with
  | .share => { q with l2 := q.l2.map fun f => if f.line == ln then { f with st := .shared } else f }
  | .inval => q.dropLine ln
  | .peek => q

/-- A core answers a snoop (R163, R166), which wakes its L2 (R170). A stitch-speculative line is answered "no copy" (R211): its committed
copy is treated as the snoop asks, and the speculative bytes stay. The committed copy is clean, but for a line that another socket homes, which
gets it then. -/
def Dev.snoopCore (d : Dev) (c ln : Nat) (k : SnoopKind) : Dev × SnoopAns :=
  let d1 := d.wake c
  match (d1.core c).l2Line ln with
  | none => (d1, ⟨none, false, (d1.core c).speculates ln⟩)
  | some e => (d1.modCore c fun q => q.snooped ln k, if (d1.core c).speculates ln then ⟨if e.st = Mesi.modified then some ⟨e, some c⟩ else none, false, true⟩ else ⟨some ⟨e, some c⟩, false, false⟩)

/-- The agent by which a tile is named as a holder: its first core. -/
def tileAgent (t : Nat) : Agent := .core (Fin.ofNat 264 (2 * t))

/-- The better of two copies: a modified one, else any. -/
def bestCopy (a b : Option Copy) : Option Copy :=
  match a, b with
  | some x, some y => if y.line.st = Mesi.modified then some y else some x
  | some x, none => some x
  | none, y => y
/-- The answers of two holders together. -/
def SnoopAns.and (a b : SnoopAns) : SnoopAns := ⟨bestCopy a.held b.held, a.lost || b.lost, a.spec || b.spec⟩

/-- A caching device or another socket that is reached answers a snoop: an owner supplies data of its own. -/
def Dev.snoopAfar (d : Dev) (ln : Nat) (owner : Bool) : Dev × SnoopAns :=
  if owner then
    let (i, d1) := d.draw
    (d1, ⟨some ⟨{ line := ln, st := .modified, data := Config.deviceLine i, poison := false, key := 0 }, none⟩, false, false⟩)
  else (d, SnoopAns.none)

/-- The snoop that a caching device receives (R320): SnpData, or SnpInv. -/
def Dev.snoopDevice (d : Dev) (h ln : Nat) (k : SnoopKind) : Dev :=
  match d.cxlPort h with
  | some p => d.modPort p fun x => { x with snoop := some (k == .inval, ln) }
  | none => d

/-- A dead agent, for which its home answers (R180 step 2). -/
def Dev.deadHolder (d : Dev) (a : Agent) : Bool :=
  match a with
  | .core c => d.board.deadAt.any fun x => x.1 == .tile (Fin.ofNat 132 (c.val / 2))
  | .socket s => d.sockDead s
  | .cxl h => d.cxlDown h.val
  | _ => false

/-- A holder answers a snoop. A caching device or another socket that owns the line supplies data of its own
(Config.deviceLine). `owner` says that the directory records it as the owner. -/
def Dev.snoop (d : Dev) (a : Agent) (except : Option Nat) (ln : Nat) (k : SnoopKind) (owner : Bool) : Dev × SnoopAns :=
  match a with
  | .core c =>
    let t := c.val / 2
    if d.deadHolder a then (d, ⟨none, owner, false⟩) else
    let (d1, x) := if except = some (2 * t) then (d, SnoopAns.none) else d.snoopCore (2 * t) ln k
    let (d2, y) := if except = some (2 * t + 1) then (d1, SnoopAns.none) else d1.snoopCore (2 * t + 1) ln k
    (d2, x.and y)
  | .socket s => if d.sockDead s then (d, ⟨none, owner, false⟩) else d.snoopAfar ln owner
  | .cxl h => if d.cxlDown h.val then (d, ⟨none, owner, false⟩) else (d.snoopDevice h.val ln k).snoopAfar ln owner
  | _ => (d, SnoopAns.none)

/-! ### The home (R164, R167) -/

/-- The holders that a directory entry tracks. -/
def DirEntry.holders (e : DirEntry) : List Agent :=
  e.tiles.map tileAgent ++ e.socks.map (fun s => Agent.socket (Fin.ofNat 4 s)) ++ e.cxls.map fun h => Agent.cxl (Fin.ofNat 16 h)

/-- Which snoops a request needs, from the entry found. The owner of a line that another socket homes (`away`) hands it on (log entry 21). -/
def homeTargets (e : Option DirEntry) (opc : Opc) (away : Bool) : List Agent × SnoopKind :=
  match e with
  | none => ([], .peek)
  | some e =>
    match opc with
    | .rds => (if e.excl then e.holders else [], if away then .inval else .share)
    | .rdo | .upg | .iow => (e.holders, .inval)
    | .rdna => (if e.excl then e.holders else [], .peek)
    | _ => ([], .peek)

/-- An entry with no holder. -/
def DirEntry.blank (ln set : Nat) : DirEntry := { line := ln, set := set, way := 0, excl := false, tiles := [], socks := [], cxls := [] }
def insertNat (n : Nat) (l : List Nat) : List Nat := if l.contains n then l else n :: l
def DirEntry.add (e : DirEntry) (a : Agent) : DirEntry :=
  match a with
  | .core c => { e with tiles := insertNat (c.val / 2) e.tiles }
  | .socket s => { e with socks := insertNat s.val e.socks }
  | .cxl h => { e with cxls := insertNat h.val e.cxls }
  | _ => e

/-- Data from the last-level cache, else memory. -/
def Dev.homeData (d : Dev) (n ln : Nat) (key : BitVec 11) (cls : Nat) : Dev × Got :=
  match (d.slice n).llcLine ln with
  | some e => (d, ⟨e.data, e.poison, false⟩)
  | none => d.memRead ln key cls

/-- A line that its owner no longer has is lost (R180, R251): the cache copy is dropped and memory marked. -/
def Dev.lineLost (d : Dev) (n ln : Nat) : Dev := ((d.dropLlc n ln).markLost ln).countFld (.dirDead n) .DIR_DEAD_LOST 1

/-- A recorded owner answers "no copy" and no write-back of it is on its way (R251). -/
def ownerGone (e : DirEntry) (r : SnoopAns) : Bool := e.excl && r.held.isNone && !r.spec && !r.lost

/-- What is lost with its owner is marked and counted, and an owner that has no copy is an error of the directory. -/
def Dev.noteLost (d : Dev) (n : Nat) (e : DirEntry) (r : SnoopAns) : Dev :=
  if r.lost then d.lineLost n e.line else if ownerGone e r then (d.lineLost n e.line).errAux (264 + n) 0x16 n 1 else d

/-- Every copy of a victim's line is invalidated; a dirty copy goes straight to memory, and the cache copy is
dropped (R167). The owner of a line that another socket homes evicts it there. -/
def Dev.backInvalidate (d : Dev) (n : Nat) (e : DirEntry) : Dev :=
  let (d1, r) := e.holders.foldl
    (fun (p : Dev × SnoopAns) a =>
      let (q, r) := p.1.snoop a none e.line .inval e.excl
      (q, p.2.and r))
    (d, SnoopAns.none)
  let d2 := match r.held.filter fun b => b.line.st == Mesi.modified || b.line.poison with
    | some b => d1.victimOut e.line b.line.data b.line.key b.line.poison
    | none => match (d1.slice n).llcLine e.line with
      | some v => if v.dirty || v.poison then d1.victimOut e.line v.data v.key v.poison else d1
      | none => match r.held with
        | some b => if e.excl && d1.homedAway e.line then d1.farPost .evc (d1.packetTo (.io 0) (e.line * 64) b.line.key fullMask 0 b.line.data false) else d1
        | none => d1
  (((d2.noteLost n e r).dropLlc n e.line).dropDir n e.line)

/-- The stitch that runs on a core has read, written or fetched a line (R211). -/
def Core.tracks (k : Core) (ln : Nat) : Bool :=
  k.speculates ln || k.member.any fun m => (m.phase == .running || m.phase == .ended) && (sigTest m.readSig ln || sigTest m.fetchSig ln)
/-- Agents of one tile, which the directory does not tell apart (R162). -/
def sameTile (a b : Agent) : Bool :=
  match a, b with
  | .core x, .core y => x.val / 2 == y.val / 2
  | x, y => x == y

/-- A holder of an entry waits for its own grant of the line (R166). -/
def Dev.grantComing (d : Dev) (e : DirEntry) : Bool :=
  d.fabric.txns.any fun t => !t.timed && t.addr.toNat / 64 == e.line && (t.opc == .rds || t.opc == .rdo || t.opc == .upg) && e.holders.any (sameTile t.who)
/-- A write-back of a line is on its way to its home (R164). -/
def Dev.writeBackComing (d : Dev) (ln : Nat) : Bool :=
  d.fabric.net.any fun p => (p.1 == .wbd || p.1 == .evc) && p.2.addr.toNat / 64 == ln
/-- A directory entry that is no victim (R167, R211): a request for its line is in progress, a holder waits for its grant or writes it back, or a
stitch tracks the line. -/
def Dev.entryBusy (d : Dev) (n : Nat) (e : DirEntry) : Bool :=
  ((d.slice n).txns.any fun t => t.req.addr.toNat / 64 == e.line) || d.grantComing e || d.writeBackComing e.line ||
    e.tiles.any fun t => (d.core (2 * t)).tracks e.line || (d.core (2 * t + 1)).tracks e.line
/-- The entries of a set, in ascending way order. -/
def Slice.dirSet (s : Slice) (set : Nat) : List DirEntry := (List.range 25).filterMap fun w => s.dir.find? fun e => e.set == set && e.way == w
/-- A new entry has room in a set: a free way or a victim (R167). -/
def Dev.dirHasRoom (d : Dev) (n set : Nat) : Bool :=
  let l := (d.slice n).dirSet set
  decide (l.length < 24) || l.any fun e => !d.entryBusy n e

/-- Makes room for a new entry in a set of 24 ways (R167): the victim is the ((L mod k) + 1)-th of the k ways that may be given up, by
the rule of R157. -/
def Dev.dirRoom (d : Dev) (n set : Nat) : Dev :=
  let s := d.slice n
  let inSet := s.dirSet set
  if inSet.length < 24 then d else
    let free := inSet.filter fun e => !d.entryBusy n e
    match free[s.lfsr.toNat % free.length]? with
    | none => d
    | some v =>
      let d1 := d.modSlice n fun s => { s with lfsr := lfsrNext s.lfsr }
      (d1.backInvalidate n v).countFld (.dirStat n) .DIR_STAT_BINV 1

/-- What a request's completion hands the requester. -/
structure HomeRes where
  got   : Got
  grant : Option Mesi
deriving DecidableEq, Repr

/-- Nothing answers for a line: no decoder entry covers it, or the socket that homes it is dead (R25, R181). Every request for it ends with an
error response. -/
def Dev.unreachable (d : Dev) (ln : Nat) : Bool :=
  match d.place (ln * 64) with
  | .remote s => !d.sockUp s
  | .dram _ _ | .cxl _ => false
  | _ => true

/-- The class that an allocation carries (R159): that of the core whose L2 supplied the data; data of no L2 of this socket carries class 0 (log
entry 123). -/
def Dev.classOf (d : Dev) (c : Option Nat) : Nat := (c.map d.coreClass).getD 0

/-- The data of a line whose owner has answered `r`, for a request that reads it: the owner's, else what the home holds. -/
def Dev.ownerData (d : Dev) (n ln : Nat) (key : BitVec 11) (cls : Nat) (r : SnoopAns) : Dev × Got :=
  match r.held with
  | some b => (d, ⟨b.line.data, b.line.poison, false⟩)
  | none => d.homeData n ln key cls

/-- A write-back or an eviction arrives (R156, R164): a core's and another socket's data is allocated, with the class of the core that supplied
it; a caching device's, which no L2 has supplied, goes to memory where it is dirty. A line of another socket goes there. Data that no core of this
socket supplied has class 0 (log entry 123). -/
def Dev.homeEvict (d : Dev) (n set : Nat) (who : Agent) (from_ : Option Nat) (ln : Nat) (key : BitVec 11) (x : Line) (dirty poison : Bool) : Dev :=
  (if d.homedAway ln then d.farPost (if dirty || poison then .wbd else .evc) (d.packetTo who (ln * 64) key fullMask 0 x poison)
   else match who with
   | .cxl _ => if dirty || poison then (d.dropLlc n ln).victimOut ln x key poison else d
   | _ => d.allocLlc n set ln (d.classOf from_) x dirty key poison).dropDir n ln

/-- The core by which an agent is named. -/
def coreOfAgent : Agent → Option Nat
  | .core c => some c.val
  | _ => none

/-- A requester that is a sharer needs no data (R164). -/
def DirEntry.shares (e : DirEntry) (a : Agent) : Bool := !e.excl && e.holders.any (sameTile a)

/-- The entry in which an agent owns a line. -/
def ownedBy (who : Agent) (ln set : Nat) : DirEntry := { (DirEntry.blank ln set).add who with excl := true }

/-- Completes a request for a line that another socket homes, once every holder of this socket has answered `r` (R162, R171): the directory of
this socket tracks its own holders, and what they do not have comes from the home (log entry 21). A core's line arrives with the answer's
packet; a caching device takes it here. -/
def Dev.farFinish (d : Dev) (n set : Nat) (opc : Opc) (who : Agent) (ln : Nat) (key : BitVec 11) (x : Line)
    (be : Word) (poison : Bool) (r : SnoopAns) : Dev × HomeRes :=
  let send := d.packetTo who (ln * 64) key be 0
  let ask := fun (o : Opc) => match d.farGet o (send x poison) with
    | (d1, none) => (d1, Got.error)
    | (d1, some a) => (d1, ⟨a.data, a.poison, a.err⟩)
  let grants := opc == .rds || opc == .rdo || opc == .upg
  match r.held.filter fun b => b.line.st != Mesi.shared with
  | some b =>
    if grants then
      (d.setDir n (ownedBy who ln set),
       ⟨⟨b.line.data, b.line.poison, false⟩, some (if opc = .rds ∧ b.line.st = Mesi.exclusive then .exclusive else .modified)⟩)
    else if opc = .iow then
      let old := if b.line.st = Mesi.modified ∨ b.line.poison = true then some b else none
      let m := match old with
        | some b => send (Line.merge b.line.data x be) (if be == fullMask then poison else b.line.poison || poison)
        | none => send x poison
      ((d.dropDir n ln).farPost .iow { m with byteen := if old.isSome then fullMask else be }, ⟨Got.ok 0, none⟩)
    else (d, ⟨⟨b.line.data, b.line.poison, false⟩, none⟩)
  | none =>
    if opc = .iow then ((d.dropDir n ln).farPost .iow (send x poison), ⟨Got.ok 0, none⟩) else
    let (d1, g) := ask opc
    if g.err || !grants then (d1, ⟨g, none⟩)
    else if opc = .rds then
      (d1.setDir n ({ ((d.slice n).dirEntry ln).getD (DirEntry.blank ln set) with excl := false }.add who), ⟨g, some .shared⟩)
    else (d1.setDir n (ownedBy who ln set), ⟨g, some .modified⟩)

/-- Completes a request for a line of this socket at home `n` once every snoop has answered `r` (R164). -/
def Dev.nearFinish (d : Dev) (n set : Nat) (opc : Opc) (who : Agent) (ln : Nat) (key : BitVec 11) (x : Line)
    (be : Word) (poison : Bool) (r : SnoopAns) : Dev × HomeRes :=
  let fresh := ownedBy who ln set
  let cls := d.classOf (coreOfAgent who)
  let e := (d.slice n).dirEntry ln
  match opc with
  | .rds =>
    match e with
    | some e =>
      if e.excl then
        match r.held with
        | some b =>
          let dirty := b.line.st = Mesi.modified || b.line.poison
          let d1 := d.allocLlc n set ln (d.classOf b.core) b.line.data dirty b.line.key b.line.poison
          (d1.setDir n ({ e with excl := false }.add who), ⟨⟨b.line.data, b.line.poison, false⟩, some .shared⟩)
        | none =>
          let (d1, g) := d.homeData n ln key cls
          if g.err then (d1, ⟨g, none⟩)
          else if r.spec then (d1.setDir n ({ e with excl := false }.add who), ⟨g, some .shared⟩)
          else ((d1.dropDir n ln).setDir n fresh, ⟨g, some .exclusive⟩)
      else
        let (d1, g) := d.homeData n ln key cls
        if g.err then (d1, ⟨g, none⟩) else (d1.setDir n (e.add who), ⟨g, some .shared⟩)
    | none =>
      let (d1, g) := d.homeData n ln key cls
      if g.err then (d1, ⟨g, none⟩) else ((d1.dirRoom n set).setDir n fresh, ⟨g, some .exclusive⟩)
  | .rdo | .upg =>
    if opc = .upg ∧ e.any (fun y => y.shares who) = true then ((d.dropLlc n ln).setDir n fresh, ⟨Got.ok 0, some .modified⟩) else
    let (d1, g) := d.ownerData n ln key cls { r with held := r.held.filter fun b => b.line.st != Mesi.shared }
    if g.err then (d1, ⟨g, none⟩)
    else (((if e.isNone then d1.dirRoom n set else d1).dropLlc n ln).setDir n fresh, ⟨g, some .modified⟩)
  | .rdna =>
    let (d1, g) := d.ownerData n ln key cls r
    (d1, ⟨g, none⟩)
  | .iow =>
    let old : Option (Line × Bool) := match r.held.filter fun b => b.line.st == Mesi.modified || b.line.poison with
      | some b => some (b.line.data, b.line.poison)
      | none => ((d.slice n).llcLine ln).bind fun v => if v.dirty || v.poison then some (v.data, v.poison) else none
    let d1 := (d.dropLlc n ln).dropDir n ln
    let full := be == fullMask
    let (d2, er) := match old with
      | some (o, p) => d1.memWrite ln (Line.merge o x be) fullMask key (if full then poison else p || poison)
      | none => d1.memWrite ln x be key poison
    (d2, ⟨⟨0, false, er⟩, none⟩)
  | _ => (d, ⟨Got.ok 0, none⟩)

/-- Completes a request at home `n` once every snoop has answered `r` (R164). An owner that has no copy, with no committed copy at the
home and no write-back on its way, has lost the line (R251); the data of a lost line of another socket is poisoned. -/
def Dev.homeFinish (d : Dev) (n set : Nat) (opc : Opc) (who : Agent) (ln : Nat) (key : BitVec 11) (x : Line)
    (be : Word) (poison : Bool) (r : SnoopAns) : Dev × HomeRes :=
  if d.unreachable ln then (if opc = .wbd ∨ opc = .evc then d.dropDir n ln else d, ⟨Got.error, none⟩) else
  match opc with
  | .wbd => (d.homeEvict n set who (coreOfAgent who) ln key x true poison, ⟨Got.ok 0, none⟩)
  | .evc => (d.homeEvict n set who (coreOfAgent who) ln key x false poison, ⟨Got.ok 0, none⟩)
  | _ =>
    let others := ((d.slice n).dirEntry ln).filter fun e => !e.holders.all (sameTile who)
    let gone := others.any fun e => ownerGone e r
    let d1 := match others with
      | some e => d.noteLost n e r
      | none => d
    if !d.homedAway ln then d1.nearFinish n set opc who ln key x be poison r
    else if (r.lost || gone) && opc != .iow then (d1.dropDir n ln, ⟨⟨0, true, false⟩, none⟩)
    else d1.farFinish n set opc who ln key x be poison r

/-- The packets that a snoop and its answer are. -/
def Dev.seeSnoop (d : Dev) (m : Msg) (a : Agent) (k : SnoopKind) (r : SnoopAns) : Dev :=
  let s : Msg := { m with dst := d.agentNode a, who := a, epoch := 0, data := 0, byteen := 0 }
  let o : Opc := match k with
    | .inval => .snpinv
    | _ => .snp
  let b := backOf s
  let d1 := d.see o s d.time
  if r.lost then d1.see .copylost { b with rstat := 2 } d.time
  else match r.held with
    | none => d1.see .nocopy { b with rstat := 3 } d.time
    | some x => if x.line.st = Mesi.shared then d1.see .ack b d.time else d1.see .snpdata { b with data := x.line.data, poison := x.line.poison } d.time

/-- Runs the snoops of a request one after the other and gathers their answers. -/
def Dev.snoopAll (d : Dev) (m : Msg) (ts : List Agent) (except : Option Nat) (k : SnoopKind) (owner : Bool) : Dev × SnoopAns :=
  ts.foldl (fun (p : Dev × SnoopAns) a =>
    let (q, r) := p.1.snoop a except (m.addr.toNat / 64) k owner
    (q.seeSnoop m a k r, p.2.and r)) (d, SnoopAns.none)

/-- A request for a line has to wait at its home: another for the line is in progress or waits there, or is under way to the socket that homes it
(R165); a holder waits for its own grant of the line, or its write-back is on its way (R164, R166); the line's old set is the one that a
rebuild migrates (R177); or a new entry finds every way of the set busy (R167). -/
def Dev.mustWait (d : Dev) (opc : Opc) (ln : Nat) : Bool :=
  let (n, set) := d.home ln
  let s := d.slice n
  let e := s.dirEntry ln
  (s.txns.any fun t => t.req.addr.toNat / 64 == ln) || (s.waitq.any fun p => p.2.addr.toNat / 64 == ln) || d.crossing ln ||
    e.any d.grantComing || (e.isSome && d.writeBackComing ln) ||
    (d.hash.active != .none && d.oldSet ln == d.hash.ptr) ||
    ((opc == .rds || opc == .rdo || opc == .upg) && e.isNone && !d.dirHasRoom n set)

/-- The opcode of a response that completes a request. -/
def backOpc (opc : Opc) (r : HomeRes) : Opc :=
  if r.got.err then .err else match opc with
    | .iow | .wbd | .evc => .cmp
    | .upg => .grant
    | _ => .data

/-- Serves one request whole at its home. Where it would have to wait, that is counted, and what made it is not executed yet (log
entry 106). -/
def Dev.homeServe (d : Dev) (opc : Opc) (who : Agent) (ln : Nat) (key : BitVec 11) (x : Line) (be : Word)
    (poison : Bool) : Dev × HomeRes :=
  let (n, set) := d.home ln
  let m := { d.packetTo who (ln * 64) key be 0 x poison with dst := sliceNode n }
  match d.reach opc m with
  | (d, false) => (d, ⟨Got.error, none⟩)
  | (d, true) =>
    let d := if d.mustWait opc ln then d.wait else d.wake (domOfSlice n)
    let e := (d.slice n).dirEntry ln
    let except := match opc with
      | .rds | .rdo | .upg => coreOfAgent who
      | _ => none
    let (ts, k) := homeTargets e opc (d.homedAway ln)
    let (d1, r) := d.snoopAll { m with src := sliceNode n } ts except k (e.any (·.excl))
    let (d2, y) := d1.homeFinish n set opc who ln key x be poison r
    (d2.seeBack (backOpc opc y) m y.got.data y.got.poison, y)

/-! ### Outside writes to panels (R216) -/

/-- Notes a line written by an agent that is not a running member of panel `except`. -/
def Dev.noteOutside (d : Dev) (except : Option Nat) (ln : Nat) : Dev :=
  { d with panels := d.panels.map fun e =>
      if some e.1 = except || e.2.phase == .idle || e.2.outside.contains ln then e else (e.1, { e.2 with outside := ln :: e.2.outside }) }

/-! ### Prediction tables (R84, R103) -/

/-- An entry takes its place in its table. -/
def Core.learn (k : Core) (e : PredEntry) : Core :=
  { k with pred := e :: k.pred.filter fun x => !(x.table == e.table && x.index == e.index) }

/-! ### A core's L2 (R104, R163) -/

/-- A line that the core's stitch tracks leaves its L2 with a notice that keeps the tile's bit set (R211). -/
def Dev.keepBit (d : Dev) (c ln : Nat) : Dev :=
  if (d.core c).tracks ln then
    let (n, set) := d.home ln
    d.setDir n (((d.slice n).dirEntry ln).getD (DirEntry.blank ln set) |>.add (.core (Fin.ofNat 264 c)))
  else d

/-- Gives up a line of a core's L2: dirty lines are written back, exclusive ones evicted with their data, shared ones dropped (R163). -/
def Dev.evictL2 (d : Dev) (c : Nat) (e : L2Line) : Dev :=
  let d1 := d.modCore c fun k => k.dropLine e.line
  match e.st with
  | .modified => (d1.homeServe .wbd (.core (Fin.ofNat 264 c)) e.line e.key e.data fullMask e.poison).1.keepBit c e.line
  | .exclusive => (d1.homeServe .evc (.core (Fin.ofNat 264 c)) e.line e.key e.data fullMask e.poison).1.keepBit c e.line
  | .shared => d1

/-- The slot of the panel whose running member a core is. -/
def Dev.panelOf (d : Dev) (c : Nat) : Option Nat := (d.inPanel c).map (·.slot)

/-- Puts a line into a core's L2 of 8-way sets indexed by pa[16:6]; a speculative line is never evicted (R208). -/
def Dev.fillL2 (d : Dev) (c : Nat) (e : L2Line) : Dev :=
  let others := (d.core c).l2.filter fun f => f.line != e.line
  let spec := match (d.core c).member with
    | some m => m.overlay.map fun (x : Nat × SpecLine) => x.1
    | none => []
  let inSet := others.filter fun f => f.line % 2048 == e.line % 2048
  let d0 := if inSet.length < 8 then d else
    let (i, d1) := d.draw
    let free := inSet.filter fun f => !spec.contains f.line
    match free[Config.victim i % free.length]? with
    | some v => d1.evictL2 c v
    | none => d1
  d0.modCore c fun k => k.setL2 (e :: k.l2.filter fun f => f.line != e.line)

/-- Brings a line into a core's L2 for reading. -/
def Dev.l2Read (d : Dev) (c ln : Nat) (key : BitVec 11) : Dev × Got :=
  match (d.core c).l2Line ln with
  | some e => (d, ⟨e.data, e.poison, false⟩)
  | none =>
    let (d1, r) := d.homeServe .rds (.core (Fin.ofNat 264 c)) ln key 0 0 false
    match r.grant with
    | some st => (d1.fillL2 c { line := ln, st := st, data := r.got.data, poison := r.got.poison, key := key }, r.got)
    | none => (d1, r.got)

/-- Brings a line into a core's L2 for writing; true when it meets an error response. -/
def Dev.l2Own (d : Dev) (c ln : Nat) (key : BitVec 11) : Dev × Bool :=
  match (d.core c).l2Line ln with
  | some e =>
    match e.st with
    | .modified => (d, false)
    | .exclusive => (d.fillL2 c { e with st := .modified }, false)
    | .shared =>
      let (d1, r) := d.homeServe .upg (.core (Fin.ofNat 264 c)) ln key 0 0 false
      if r.grant.isSome then (d1.fillL2 c { e with st := .modified }, false) else (d1, true)
  | none =>
    let (d1, r) := d.homeServe .rdo (.core (Fin.ofNat 264 c)) ln key 0 0 false
    match r.grant with
    | some _ => (d1.fillL2 c { line := ln, st := .modified, data := r.got.data, poison := r.got.poison, key := key }, false)
    | none => (d1, true)

/-- Writes bytes of one line as a core, once it owns the line. A full-line write clears poison (R446). True
when the write meets an error response. -/
def Dev.l2Write (d : Dev) (c ln : Nat) (x : Line) (be : Word) (key : BitVec 11) : Dev × Bool :=
  let (d1, er) := d.l2Own c ln key
  if er then (d1, true) else
    (((d1.modCore c fun k => { k with l2 := k.l2.map fun e =>
        if e.line == ln then { e with data := Line.merge e.data x be, key := key, poison := (if be == fullMask then false else e.poison) }
        else e }).noteOutside (d.panelOf c) ln), false)

/-! ### A core's L1 caches (R103, R104) -/

/-- A line that an L1 of `ways` ways and `sets` sets takes in, latest first; the line given up follows no stated order. -/
def l1Put (sets ways i ln : Nat) (l : List Nat) : List Nat :=
  let rest := l.filter (· != ln)
  let inSet := rest.filter fun x => x % sets == ln % sets
  if inSet.length < ways then ln :: rest
  else match inSet[Config.victim i % inSet.length]? with
    | some v => ln :: rest.filter (· != v)
    | none => rest

/-- A fetch or a load leaves a line of its L2 in the L1: 256 sets of 4 ways for instructions, 128 of 8 for data. -/
def Dev.fillL1 (d : Dev) (c ln : Nat) (fetch : Bool) : Dev :=
  if ((d.core c).l2Line ln).isNone then d else
  d.modCore c fun k => if fetch then { k with l1i := l1Put 256 4 d.freeCtr ln k.l1i } else { k with l1d := l1Put 128 8 d.freeCtr ln k.l1d }

/-! ### Accesses of the other agents: RdNA and IoW (R169) -/

def Dev.rdNa (d : Dev) (who : Agent) (ln : Nat) (key : BitVec 11) : Dev × Got :=
  let (d1, r) := d.homeServe .rdna who ln key 0 0 false
  (d1, r.got)

/-- Non-allocating write of enabled bytes; true on an error response. -/
def Dev.ioW (d : Dev) (who : Agent) (ln : Nat) (x : Line) (be : Word) (key : BitVec 11) (poison : Bool) : Dev × Bool :=
  let (d1, r) := d.homeServe .iow who ln key x be poison
  (if r.got.err then d1 else d1.noteOutside none ln, r.got.err)

/-- A data engine, which has the scratchpad's other port (R186). -/
def isEngine : Agent → Bool
  | .engine _ => true
  | _ => false

/-- A read of scratchpad bytes by an agent, at their slice (R185). -/
def Dev.spadLoad (d : Dev) (who : Agent) (n way off len : Nat) : Dev × Got × List Byte :=
  let m := { d.packetTo who (spadBase d.socket + n * 0x200000 + way * 0x30000 + off) 0 0 0 0 false with dst := sliceNode n }
  match d.reach .rdna m with
  | (d1, false) => (d1, Got.error, List.replicate len 0)
  | (d1, true) =>
    let (d2, g, l) := (d1.wake (domOfSlice n)).spadGet (isEngine who) n way off len
    (d2.seeBack .data m 0 g.poison, g, l)
/-- A write of scratchpad bytes by an agent; true on an error response. -/
def Dev.spadSave (d : Dev) (who : Agent) (n way off : Nat) (l : List Byte) : Dev × Bool :=
  let m := { d.packetTo who (spadBase d.socket + n * 0x200000 + way * 0x30000 + off) 0 0 0 0 false with dst := sliceNode n }
  match d.reach .iow m with
  | (d1, false) => (d1, true)
  | (d1, true) => (((d1.wake (domOfSlice n)).spadPut (isEngine who) n way off l).seeBack .cmp m 0 false, false)

/-- A read and a write within a line of another socket's scratchpad: the read waits for its answer. -/
def Dev.farLoad (d : Dev) (who : Agent) (pa len : Nat) : Dev × Got × List Byte :=
  if (d.socketOf pa).isNone then (d, Got.error, List.replicate len 0) else
  match d.farGet .rdna (d.packetTo who (pa / 64 * 64) 0 0 0 0 false) with
  | (d1, none) => (d1, Got.error, List.replicate len 0)
  | (d1, some a) => (d1, ⟨a.data, a.poison, a.err⟩, Line.slice a.data (pa % 64) len)
def Dev.farSave (d : Dev) (who : Agent) (pa : Nat) (l : List Byte) : Dev × Bool :=
  if (d.socketOf pa).isNone then (d, true) else
  let (x, be) := lineAt (pa % 64) l
  if d.crossing (pa / 64) then (d.wait, false) else (d.farPost .iow (d.packetTo who (pa / 64 * 64) 0 be 0 x false), false)

/-- Reads `n` bytes at a physical address, line by line, by non-allocating reads or at the scratchpad's slice. -/
def Dev.readBytes (d : Dev) (who : Agent) (key : BitVec 11) : Nat → Nat → Nat → Dev × List Byte × Bool × Bool
  | 0, _, _ => (d, [], false, false)
  | _ + 1, _, 0 => (d, [], false, false)
  | fuel + 1, pa, n =>
    let k := min n (64 - pa % 64)
    let (d1, g, l) := match d.place pa with
      | .spad s w o => d.spadLoad who s w o k
      | .remoteSpad _ => d.farLoad who pa k
      | _ => let (d1, g) := d.rdNa who (pa / 64) key
             (d1, g, Line.slice g.data (pa % 64) k)
    let (d2, r, p, e) := d1.readBytes who key fuel (pa + k) (n - k)
    (d2, l ++ r, g.poison || p, g.err || e)

/-- Writes bytes at a physical address, line by line; true when any write meets an error response. -/
def Dev.writeBytesAs (d : Dev) (who : Agent) (key : BitVec 11) : Nat → Nat → List Byte → Dev × Bool
  | 0, _, _ => (d, false)
  | _ + 1, _, [] => (d, false)
  | fuel + 1, pa, l =>
    let k := 64 - pa % 64
    let now := l.take k
    let (d1, e) := match d.place pa with
      | .spad s w o => d.spadSave who s w o now
      | .remoteSpad _ => d.farSave who pa now
      | _ => let (x, be) := lineAt (pa % 64) now
             d.ioW who (pa / 64) x be key false
    let (d2, e2) := d1.writeBytesAs who key fuel (pa + k) (l.drop k)
    (d2, e || e2)

/-- A double-word of normal memory read or written by the device itself, under a key ID. -/
def Dev.readD (d : Dev) (who : Agent) (key : BitVec 11) (pa : Nat) : Dev × Word × Bool :=
  let (d1, l, p, e) := d.readBytes who key 2 pa 8
  (d1, BitVec.ofNat 64 (leNat l), p || e)
def Dev.writeD (d : Dev) (who : Agent) (key : BitVec 11) (pa : Nat) (v : Word) : Dev × Bool :=
  d.writeBytesAs who key 2 pa (leBytes 8 v.toNat)

/-! ### Errors in protected arrays (R105, R158, R185) -/

/-- A core's L2 finds an error of a line (R105): one bit is corrected; a clean line is refetched, and a dirty one poisoned. -/
def Dev.upsetL2 (d : Dev) (c ln : Nat) (multi : Bool) : Dev :=
  match (d.core c).l2Line ln with
  | none => d
  | some e =>
    if !multi then d.errAt c 0x01 c (ln * 64)
    else if e.st = Mesi.modified then
      (d.modCore c fun k => { k with l2 := k.l2.map fun f => if f.line == ln then { f with poison := true } else f }).errAt c 0x03 c (ln * 64)
    else
      let (d1, g) := (d.modCore c fun k => k.dropLine ln).rdNa (.core (Fin.ofNat 264 c)) ln e.key
      (d1.fillL2 c { e with data := g.data, poison := g.poison }).errAt c 0x02 c (ln * 64)

/-- A slice finds an error of its data or of its tags (R158): a clean line is dropped, a dirty one poisoned; a set whose tags cannot
be read is dropped, and its dirty lines are lost. -/
def Dev.upsetLlc (d : Dev) (n ln : Nat) (multi : Bool) : Dev :=
  match (d.slice n).llcLine ln with
  | none => d
  | some e =>
    if !multi then d.errAt (264 + n) 0x10 n (ln * 64)
    else if e.dirty then
      (d.modSlice n fun s => { s with llc := s.llc.map fun f => if f.line == ln then { f with poison := true } else f }).errAt (264 + n) 0x12 n (ln * 64)
    else (d.dropLlc n ln).errAt (264 + n) 0x11 n (ln * 64)
def Dev.upsetTag (d : Dev) (n set : Nat) (multi : Bool) : Dev :=
  if !multi then d.err (264 + n) 0x13 n else
  let mine := (d.slice n).llc.filter fun e => e.set == set
  (mine.foldl (fun x e => if e.dirty || e.poison then x.lineLost n e.line else x.dropLlc n e.line) d).err (264 + n) 0x14 n

/-- A scratchpad unit with an error of several bits is poisoned (R185). -/
def Dev.upsetSpad (d : Dev) (n unit : Nat) (multi : Bool) : Dev :=
  if !multi then d.err (264 + n) 0x10 n
  else if unit * 16 / 0x30000 < d.fld (.slcState n) .SLC_STATE_SPWAYS then
    (d.modSlice n fun s => { s with spadBad := insertNat unit s.spadBad }).err (264 + n) 0x18 n
  else d

/-- One recipient of a set-flush snoop (R168): for every line of the set that it holds, dirty ones are written back and clean ones
dropped. What a dead or unreachable owner cannot write back is lost (R180). -/
def Dev.flushHolder (d : Dev) (n set : Nat) (a : Agent) : Dev :=
  let mine := (d.slice n).dir.filter fun e => e.set == set && e.holders.any (sameTile a)
  mine.foldl (fun x e =>
    let (y, r) := x.makeRoom.snoop a none e.line .inval e.excl
    let z := match r.held.filter fun b => b.line.st == Mesi.modified || b.line.poison || (e.excl && y.homedAway e.line) with
      | some b => y.homeEvict n set a b.core e.line b.line.key b.line.data (b.line.st == Mesi.modified) b.line.poison
      | none => y.noteLost n e r
    let left := e.holders.filter fun h => !sameTile a h
    if left.isEmpty then z.dropDir n e.line
    else z.setDir n { e with tiles := left.filterMap (fun h => match h with | .core c => some (c.val / 2) | _ => none),
                             socks := left.filterMap (fun h => match h with | .socket s => some s.val | _ => none),
                             cxls := left.filterMap (fun h => match h with | .cxl k => some k.val | _ => none) }) d

/-- SETFLUSH at one agent (R168): the lines of the set that it holds are written back or dropped, those that the directory tracks and any
other of the tile's L2s. -/
def Dev.setFlush (d : Dev) (n set : Nat) (a : Agent) : Dev :=
  let d1 := d.flushHolder n set a
  match a with
  | .core c =>
    [c.val / 2 * 2, c.val / 2 * 2 + 1].foldl (fun x k =>
      let mine := ((x.wake k).core k).l2.filter fun e => x.home e.line == (n, set)
      mine.foldl (fun y e => (if e.st = Mesi.modified || e.poison then y.makeRoom.homeEvict n set a (some k) e.line e.key e.data true e.poison else y).modCore k fun q =>
        q.dropLine e.line) (x.wake k)) d1
  | _ => d1

/-- Every tile that is not Off, other socket and caching device. -/
def Dev.flushList (d : Dev) : List Agent :=
  ((List.range 132).filter fun t => !(d.isOff (2 * t) && d.isOff (2 * t + 1))).map tileAgent ++
    ((List.range 4).filter fun s => s != d.socket && d.present s).map (fun s => Agent.socket (Fin.ofNat 4 s)) ++
    ((List.range 16).filter fun h => (d.cxlPort h).isSome).map fun h => Agent.cxl (Fin.ofNat 16 h)

/-- A line of a set is in a request in progress, or some agent waits for its grant. -/
def Dev.setBusy (d : Dev) (n set : Nat) : Bool :=
  ((d.slice n).txns.any fun t => d.home (t.req.addr.toNat / 64) == (n, set)) || d.fabric.txns.any fun t => !t.timed && d.home (t.addr.toNat / 64) == (n, set)

/-- A directory entry has an error (R158): of one bit, corrected; of several, a set-flush goes to every tile, socket and caching
device, after which the set holds no entries (R168). It waits for the requests in progress of the set's lines. -/
def Dev.upsetDir (d : Dev) (n set : Nat) (multi : Bool) : Dev :=
  if !multi then d.err (264 + n) 0x13 n
  else if d.setBusy n set then d.wait else
  let d1 := d.flushList.foldl (fun x a => x.setFlush n set a) d
  (d1.modSlice n fun s => { s with dir := s.dir.filter fun e => e.set != set }).err (264 + n) 0x15 n

/-- An error arises in a protected array of a unit that is On, which finds it. Of a store buffer, one bit is corrected, and an error of
several is a hard fault that loses what the buffer holds (R105, R117). -/
def Dev.upset (d : Dev) (u : Upset) : Dev :=
  match u with
  | .l2 c ln multi => if d.isOn c.val then d.upsetL2 c.val ln multi else d
  | .storeBuf c multi =>
    if !d.isOn c.val || (d.core c.val).storeBuf.isEmpty then d
    else if multi then d.modCore c.val fun k => { k with hardFault := true, storeBuf := [] }
    else d.err c.val 0x04 c.val
  | .llcData n ln multi => if d.isOn (domOfSlice n.val) then d.upsetLlc n.val ln multi else d
  | .llcTag n set multi => if d.isOn (domOfSlice n.val) && decide (set < 3072) then d.upsetTag n.val set multi else d
  | .dirEntry n set multi => if d.isOn (domOfSlice n.val) && decide (set < 3072) then d.upsetDir n.val set multi else d
  | .spad n unit multi => if d.isOn (domOfSlice n.val) then d.upsetSpad n.val unit multi else d

end Sys2Proof.Machine
end

