-- ==== Sys2Proof/Machine/Xlate.lean ====
section
/-! DEFINITION. Translation (R133 to R153): the walk, the translation structures, accessed and dirty marks, and
what an invalidation removes. One walk serves cores, the range engine, device DMA (R309) and engines (R338). -/

namespace Sys2Proof.Machine

inductive AccKind
  | fetch | load | store
deriving DecidableEq, Repr

/-- A core's table-set register by set. -/
def Arch.segtab (a : Arch) (s : TableSet) : Word :=
  match s with
  | .setS => a.segtabS
  | .setH => a.segtabH
  | .setM => a.segtabM

/-- Fields of SEGTAB (R135). -/
def segLast (w : Word) : Nat := getF w ⟨55, 40⟩
def segBase (w : Word) : Nat := getF w ⟨39, 0⟩

/-! ### Descriptors and entries (R137, R140) -/

def Descriptor.v (x : Descriptor) : Bool := bitF x.d0 63
def Descriptor.g (x : Descriptor) : Bool := bitF x.d0 62
def Descriptor.adm (x : Descriptor) : Nat := getF x.d0 ⟨61, 60⟩
def Descriptor.mr (x : Descriptor) : Bool := bitF x.d0 59
def Descriptor.mw (x : Descriptor) : Bool := bitF x.d0 58
def Descriptor.mx (x : Descriptor) : Bool := bitF x.d0 57
def Descriptor.mu (x : Descriptor) : Bool := bitF x.d0 56
def Descriptor.limit (x : Descriptor) : Nat := getF x.d0 ⟨31, 0⟩
def Descriptor.root (x : Descriptor) : Nat := getF x.d1 ⟨51, 12⟩
def Descriptor.key (x : Descriptor) : BitVec 11 := BitVec.ofNat 11 (getF x.d2 ⟨26, 16⟩)
def Descriptor.tenant (x : Descriptor) : Half := BitVec.ofNat 16 (getF x.d2 ⟨15, 0⟩)
def Descriptor.malformed (x : Descriptor) : Bool :=
  getF x.d0 ⟨55, 32⟩ != 0 || getF x.d1 ⟨63, 52⟩ != 0 || getF x.d1 ⟨11, 0⟩ != 0 || getF x.d2 ⟨63, 27⟩ != 0 ||
    x.d3 != 0 || x.adm == 3 || (x.mw && !x.mr)

def entPa (e : Word) : Nat := getF e ⟨51, 12⟩ * 4096
def entCont (e : Word) : Bool := bitF e 11
def entMt (e : Word) : Bool := bitF e 10
def entD (e : Word) : Bool := bitF e 9
def entA (e : Word) : Bool := bitF e 8
def entU (e : Word) : Bool := bitF e 7
def entX (e : Word) : Bool := bitF e 6
def entW (e : Word) : Bool := bitF e 5
def entR (e : Word) : Bool := bitF e 4
def entLeaf (e : Word) : Bool := bitF e 1
def entV (e : Word) : Bool := bitF e 0
/-- Bytes that an entry of a level covers. -/
def levelSize (l : Nat) : Nat := 2 ^ (12 + 9 * (l - 1))
def entMalformed (e : Word) (l : Nat) : Bool :=
  bitF e 63 || getF e ⟨59, 52⟩ != 0 || getF e ⟨3, 2⟩ != 0 || (entLeaf e && l == 4) || (!entLeaf e && l == 1) ||
    (!entLeaf e && getF e ⟨11, 4⟩ != 0) || (entLeaf e && entW e && !entR e) || (entCont e && l != 1) ||
    (entLeaf e && entPa e % levelSize l != 0)

/-! ### What a walk works with -/

/-- Whose accesses are translated and how: the table set's register, the level for the U rule, the changes that
R309 makes for devices and engines, and whether marks are tested (R92). -/
structure WalkBy where
  who     : Agent
  set     : TableSet
  segtab  : Word
  level   : Level
  uRule   : Bool
  fixed   : Option (Half × BitVec 11)
  marks   : Bool
deriving DecidableEq, Repr

/-- A successful translation. `mark` is the leaf to rewrite with its new value; `fill` the leaf to install. -/
structure Trans where
  pa     : Nat
  device : Bool
  tenant : Half
  key    : BitVec 11
  size   : Nat
  mark   : Option (Nat × Word × Word)
  fill   : Option TlbEntry
  walks  : List WalkEntry
  desc   : Option SdcEntry
deriving DecidableEq, Repr

/-- What a translation comes to. A walk whose read fails meets poison, or an error response, or an empty key slot, which R344 counts with errors. -/
inductive XRes
  | ok (t : Trans)
  | fault (code : Nat)
  | poison (error : Bool)
deriving DecidableEq, Repr

/-- CAUSE.CODE of a translation fault (R145). -/
def xcode (l r : Nat) : Nat := l * 256 + r

/-- The speculative copy of a line that the core's running stitch has (R208). -/
def Core.specLine (k : Core) (ln : Nat) : Option SpecLine :=
  k.member.bind fun m => if m.phase = .running then (m.overlay.find? fun e => e.1 == ln).map (·.2) else none

/-- Whether a read is one of an empty key slot (R289, R344). -/
def Dev.emptySlot (d : Dev) (pa : Nat) (key : BitVec 11) : Bool :=
  match d.place pa with
  | .dram _ _ => (d.keySlot key.toNat).isNone
  | _ => false

/-- How a read fails, if it does: true by an error response or an empty key slot, false by poison. -/
def Dev.readFails (d : Dev) (pa : Nat) (key : BitVec 11) (poison err : Bool) : Option Bool :=
  if err then some true else if poison then some (d.emptySlot pa key) else none

/-- Reads a double-word as a normal load of the walker (R146): a core's through its L2, with its stitch's own stores (R208). -/
def Dev.loadD (d : Dev) (who : Agent) (key : BitVec 11) (pa : Nat) : Dev × Word × Option Bool :=
  let word := fun (l : List Byte) => BitVec.ofNat 64 (leNat l)
  match who, d.place pa with
  | _, .spad s w o => let (d1, g, l) := d.spadLoad who s w o 8
                      (d1, word l, d1.readFails pa key g.poison g.err)
  | _, .remoteSpad _ => let (d1, g, l) := d.farLoad who pa 8
                        (d1, word l, d1.readFails pa key g.poison g.err)
  | .core c, _ =>
    match (d.core c.val).specLine (pa / 64) with
    | some x => (d, word (Line.slice x.data (pa % 64) 8), if x.poison then some false else none)
    | none =>
      let (d1, g) := d.l2Read c.val (pa / 64) key
      (d1, word (Line.slice g.data (pa % 64) 8), d1.readFails pa key g.poison g.err)
  | _, _ =>
    let (d1, l, p, e) := d.readBytes who key 2 pa 8
    (d1, word l, d1.readFails pa key p e)

/-- table_read of R145: a fault's code, or how the read failed, or the entry. -/
def Dev.tableRead (d : Dev) (who : Agent) (pa l : Nat) (key : BitVec 11) : Dev × (Nat ⊕ (Bool ⊕ Word)) :=
  if d.walkable pa then
    let (d1, w, bad) := d.loadD who key pa
    (d1, .inr (match bad with
      | some e => .inl e
      | none => .inr w))
  else (d, .inl (xcode l 7))

/-! ### The translation structures of a walker -/

/-- The structures a walker looks in. -/
structure Caches where
  leaves : List TlbEntry
  sdc    : List SdcEntry
  walk   : List WalkEntry
deriving DecidableEq, Repr

def Dev.caches (d : Dev) (who : Agent) (kind : AccKind) : Caches :=
  match who with
  | .core c =>
    let k := d.core c.val
    ⟨(if kind = .fetch then k.itlb else k.dtlb) ++ k.tlb2, k.sdc, k.walk⟩
  | .io g => ⟨(d.stop g.val).xlate, [], []⟩
  | .engine e => ⟨(d.engine e.val).xlate, [], []⟩
  | _ => ⟨[], [], []⟩

def TlbEntry.hits (e : TlbEntry) (set : TableSet) (seg : Half) (tenant : Half) (off : Nat) : Bool :=
  e.set == set && e.seg == seg && (e.global || e.tenant == tenant) && decide (e.base ≤ off) && decide (off < e.base + e.size)

/-- A walk's table-set register is the one its core now holds. -/
def Dev.segtabIs (d : Dev) (b : WalkBy) : Bool :=
  match b.who with
  | .core c => (d.arch c.val).segtab b.set == b.segtab
  | _ => true

/-- The deepest walk-cache entry that matches (R145). -/
def deepestWalk (w : List WalkEntry) (set : TableSet) (seg tenant : Half) (off : Nat) : Option WalkEntry :=
  let hit := fun (l : Nat) => w.find? fun e => e.set == set && e.seg == seg && (e.global || e.tenant == tenant) &&
    e.level == l && e.index == off / levelSize l
  match hit 2 with
  | some e => some e
  | none => match hit 3 with
    | some e => some e
    | none => hit 4

/-- What the walk finds: the leaf with its level, its address, and the non-leaf entries read. -/
inductive Found
  | leaf (l pa : Nat) (e : Word) (ws : List WalkEntry)
  | fault (code : Nat)
  | poison (error : Bool)
deriving DecidableEq, Repr

/-- The walk from level `l` with table at `a` (R145); `fuel` counts the levels left. -/
def Dev.walkFrom (d : Dev) (b : WalkBy) (key : BitVec 11) (x : Descriptor) (seg tenant : Half) (off : Nat) :
    Nat → Nat → Nat → List WalkEntry → Dev × Found
  | 0, l, _, _ => (d, .fault (xcode l 6))
  | fuel + 1, l, a, ws =>
    let pa := a + off / levelSize l % 512 * 8
    match d.tableRead b.who pa l key with
    | (d1, .inl code) => (d1, .fault code)
    | (d1, .inr (.inl bad)) => (d1, .poison bad)
    | (d1, .inr (.inr e)) =>
      if !entV e then (d1, .fault (xcode l 5))
      else if entMalformed e l then (d1, .fault (xcode l 6))
      else if entLeaf e then (d1, .leaf l pa e ws)
      else d1.walkFrom b key x seg tenant off fuel (l - 1) (entPa e)
        ({ set := b.set, tenant := tenant, global := x.g, seg := seg, level := l, index := off / levelSize l, entry := e } :: ws)

/-- Reads the 16 entries of a 64 KiB group (R142), or answers how a read fails. -/
def Dev.readGroup (d : Dev) (who : Agent) (key : BitVec 11) (pa : Nat) : Nat → Dev × (Bool ⊕ List Word)
  | 0 => (d, .inr [])
  | n + 1 =>
    let (d1, w, bad) := d.loadD who key pa
    match bad with
    | some e => (d1, .inl e)
    | none => match d1.readGroup who key (pa + 8) n with
      | (d2, .inr l) => (d2, .inr (w :: l))
      | r => r

/-- A group is one 64 KiB page (R142). -/
def groupWhole (es : List Word) : Bool :=
  match es with
  | [] => false
  | e0 :: _ =>
    entPa e0 % 65536 == 0 && (es.zipIdx.all fun p =>
      entV p.1 && entLeaf p.1 && entCont p.1 && entA p.1 && getF p.1 ⟨10, 4⟩ == getF e0 ⟨10, 4⟩ && entPa p.1 == entPa e0 + p.2 * 4096)

/-- The checks on a leaf at level `l` (R143, R145): the code of the first that fails. -/
def leafFault (b : WalkBy) (x : Descriptor) (kind : AccKind) (l : Nat) (e : Word) : Option Nat :=
  let u := entU e && x.mu
  if b.uRule && b.level == .u && !u then some (xcode l 9)
  else if b.uRule && kind == .fetch && b.level != .u && u then some (xcode l 9)
  else if (kind == .fetch && !(entX e && x.mx)) || (kind == .load && !(entR e && x.mr)) || (kind == .store && !(entW e && x.mw))
  then some (xcode l 8)
  else none

def markFault (b : WalkBy) (x : Descriptor) (kind : AccKind) (l : Nat) (e : Word) : Option Nat :=
  if !b.marks then none
  else if !entA e && x.adm == 0 then some (xcode l 10)
  else if kind == .store && !entD e && x.adm != 2 then some (xcode l 11)
  else none

/-- The leaf with the marks that hardware sets (R144). -/
def markedLeaf (kind : AccKind) (e : Word) : Word := e ||| 0x100 ||| (if kind = .store then 0x200 else 0)

/-- Finishes a translation from a leaf. `dirty` is D as the entry found records it; a mark that is set now makes the entry of one leaf
dirty, and that of a 64 KiB group not (R142, R144). -/
def leafResult (b : WalkBy) (x : Descriptor) (seg tenant : Half) (key : BitVec 11) (kind : AccKind) (off l leafPa base size pa : Nat)
    (e : Word) (dirty group : Bool) (fresh : Bool) (ws : List WalkEntry) : XRes :=
  match leafFault b x kind l e with
  | some c => .fault c
  | none =>
    let p := pa + (off - base)
    let dev := entMt e || deviceRange p
    if kind = .fetch && dev then .fault (xcode l 13) else
    match markFault b x kind l e with
    | some c => .fault c
    | none =>
      let need := b.marks && (!entA e || (kind = .store && !entD e))
      let e' := if need then markedLeaf kind e else e
      let entry : TlbEntry := ⟨b.set, tenant, x.g, seg, base, size, pa, l, leafPa, e', dirty || (!group && kind = .store && need)⟩
      .ok ⟨p, dev, tenant, key, size, if need then some (leafPa, e, e') else none, if fresh then some entry else none, ws,
        if fresh then some ⟨b.set, seg, x⟩ else none⟩

/-- An entry of a 64 KiB group (R142). -/
def l1Group (e : TlbEntry) : Bool := e.level == 1 && e.size == 65536

/-- Reads a segment descriptor, from the descriptor cache when it holds it. The descriptor cache of a core is that of the table-set
register it now holds: a walk under another, captured, register reads memory (R92, R134). -/
def Dev.descriptor (d : Dev) (b : WalkBy) (seg : Nat) : Dev × (Nat ⊕ (Bool ⊕ Descriptor)) :=
  match (if d.segtabIs b then (d.caches b.who .load).sdc else []).find? fun e => e.set == b.set && e.seg.toNat == seg with
  | some e => (d, .inr (.inr e.desc))
  | none =>
    let pa := segBase b.segtab * 4096 + seg * 32
    match d.tableRead b.who pa 0 0 with
    | (d1, .inl c) => (d1, .inl c)
    | (d1, .inr (.inl e)) => (d1, .inr (.inl e))
    | (d1, .inr (.inr w0)) =>
      match d1.tableRead b.who (pa + 8) 0 0, d1.tableRead b.who (pa + 16) 0 0, d1.tableRead b.who (pa + 24) 0 0 with
      | (d2, .inr (.inr w1)), (_, .inr (.inr w2)), (_, .inr (.inr w3)) => (d2, .inr (.inr ⟨w0, w1, w2, w3⟩))
      | (d2, .inr (.inl e)), _, _ => (d2, .inr (.inl e))
      | _, _, _ => (d1, .inr (.inl false))

/-- The translation of an effective address by its tables (R145). -/
def Dev.walk (d : Dev) (b : WalkBy) (ea : Word) (kind : AccKind) : Dev × XRes :=
  let seg := ea.toNat / 2 ^ 48
  let off := ea.toNat % 2 ^ 48
  if segLast b.segtab < seg then (d, .fault (xcode 0 1)) else
  match d.descriptor b seg with
  | (d1, .inl c) => (d1, .fault c)
  | (d1, .inr (.inl e)) => (d1, .poison e)
  | (d1, .inr (.inr x)) =>
    if !x.v then (d1, .fault (xcode 0 2))
    else if x.malformed then (d1, .fault (xcode 0 3))
    else if x.limit < off / 65536 then (d1, .fault (xcode 0 4)) else
    let sg := BitVec.ofNat 16 seg
    let tenant := (b.fixed.map (·.1)).getD x.tenant
    let key := (b.fixed.map (·.2)).getD x.key
    let cs := d1.caches b.who kind
    match cs.leaves.find? fun e => e.hits b.set sg tenant off && entA e.leaf && (kind != .store || e.dirty) with
    | some e => (d1, leafResult b x sg tenant key kind off e.level e.leafPa e.base e.size e.pa e.leaf e.dirty (l1Group e) false [])
    | none =>
      let (l0, a0) := match deepestWalk cs.walk b.set sg tenant off with
        | some w => (w.level - 1, entPa w.entry)
        | none => (4, x.root * 4096)
      match d1.walkFrom b key x sg tenant off 4 l0 a0 [] with
      | (d2, .fault c) => (d2, .fault c)
      | (d2, .poison e) => (d2, .poison e)
      | (d2, .leaf l pa e ws) =>
        let base := off / levelSize l * levelSize l
        let plain := leafResult b x sg tenant key kind off l pa base (levelSize l) (entPa e) e (entD e) false true ws
        if entCont e then
          match d2.readGroup b.who key (pa / 128 * 128) 16 with
          | (d3, .inl bad) => (d3, .poison bad)
          | (d3, .inr es) =>
            (d3, if groupWhole es then
              leafResult b x sg tenant key kind off l pa (off / 65536 * 65536) 65536 (entPa (es.headD 0)) e (es.all entD) true true ws
            else plain)
        else (d2, plain)

/-! ### Filling and marking -/

/-- Adds an entry to a structure of `n` entries; the one given up follows no order software can rely on. -/
def addEntry {α : Type} (n i : Nat) (x : α) (l : List α) : List α :=
  if l.length < n then x :: l else x :: l.eraseIdx (Config.victim i % l.length)

/-- An entry of the same page as another: a fresh walk's entry takes its place. -/
def TlbEntry.samePage (e f : TlbEntry) : Bool :=
  e.set == f.set && e.seg == f.seg && e.tenant == f.tenant && e.base == f.base && e.size == f.size
/-- Adds a leaf to a structure of `n` entries. -/
def addLeaf (n i : Nat) (e : TlbEntry) (l : List TlbEntry) : List TlbEntry := addEntry n i e (l.filter fun f => !e.samePage f)

/-- Discards the translations that were made from a leaf at an address (R144). -/
def Dev.forgetLeaf (d : Dev) (who : Agent) (leafPa : Nat) : Dev :=
  let keep := fun (l : List TlbEntry) => l.filter fun e => e.leafPa != leafPa
  match who with
  | .core c => d.modCore c.val fun k => { k with itlb := keep k.itlb, dtlb := keep k.dtlb, tlb2 := keep k.tlb2 }
  | .io g => d.modStop g.val fun s => { s with xlate := keep s.xlate }
  | .engine n => d.modEngine n.val fun s => { s with xlate := keep s.xlate }
  | _ => d

/-- Installs what a successful translation found (R147, R148). -/
def Dev.fillXlate (d : Dev) (who : Agent) (kind : AccKind) (t : Trans) : Dev :=
  match t.fill with
  | none => d
  | some e =>
    let (i, d1) := d.draw
    match who with
    | .core c => d1.modCore c.val fun k =>
      let k1 := if kind = .fetch then { k with itlb := addLeaf 64 i e k.itlb } else { k with dtlb := addLeaf 96 i e k.dtlb }
      { k1 with
        tlb2 := addLeaf 3072 i e k1.tlb2,
        sdc := (match t.desc with
          | some s => if k1.sdc.any fun f => f.set == s.set && f.seg == s.seg then k1.sdc else addEntry 64 i s k1.sdc
          | none => k1.sdc),
        walk := t.walks.foldl (fun l w => l.filter (fun e => e.level != w.level) ++ addEntry 32 i w (l.filter fun e => e.level == w.level)) k1.walk }
    | .io g => d1.modStop g.val fun s => { s with xlate := addLeaf 2048 i e s.xlate }
    | .engine n => d1.modEngine n.val fun s => { s with xlate := addLeaf 512 i e s.xlate }
    | _ => d1

/-- The atomic update of a leaf's marks (R144). -/
inductive MarkRes
  | done | changed
  | poison (error : Bool)
deriving DecidableEq, Repr

/-- Sets marks in a leaf of a core's committed memory; true on an error response. -/
def Dev.markLine (d : Dev) (c : Nat) (key : BitVec 11) (pa : Nat) (v : Word) : Dev × Bool :=
  let (x, be) := lineAt (pa % 64) (leBytes 8 v.toNat)
  d.l2Write c (pa / 64) x be key

/-- Where a core's stitch has stored in the leaf's line, the mark is set in its own copy, and in the committed one too if that still holds the
leaf from which the translation was made: a mark is no store of the stitch. -/
def Dev.markSpec (d : Dev) (c : Nat) (key : BitVec 11) (pa : Nat) (old v : Word) (y : SpecLine) : Dev × Bool :=
  let (x, be) := lineAt (pa % 64) (leBytes 8 v.toNat)
  let d1 := d.modMember c fun m => { m with overlay := Tbl.set (pa / 64) { y with data := Line.merge y.data x be } m.overlay }
  let (d2, g) := d1.l2Read c (pa / 64) key
  let w := BitVec.ofNat 64 (leNat (Line.slice g.data (pa % 64) 8))
  if g.poison || g.err || w &&& ~~~ (0x300 : Word) != old &&& ~~~ (0x300 : Word) then (d2, false) else d2.markLine c key pa (w ||| (v &&& 0x300))

def Dev.setMarks (d : Dev) (who : Agent) (key : BitVec 11) (m : Option (Nat × Word × Word)) : Dev × MarkRes :=
  match m with
  | none => (d, .done)
  | some (pa, old, new) =>
    let (d1, w, bad) := d.loadD who key pa
    match bad with
    | some e => (d1, .poison e)
    | none =>
    if w &&& ~~~ (0x300 : Word) != old &&& ~~~ (0x300 : Word) then (d1, .changed)
    else
      let v := w ||| (new &&& 0x300)
      let (d2, er) := match who, d1.place pa with
        | _, .spad s wy o => d1.spadSave who s wy o (leBytes 8 v.toNat)
        | _, .remoteSpad _ => d1.farSave who pa (leBytes 8 v.toNat)
        | .core c, _ => match (d1.core c.val).specLine (pa / 64) with
          | some y => d1.markSpec c.val key pa old v y
          | none => d1.markLine c.val key pa v
        | _, _ => d1.writeD who key pa v
      (d2, if er then .poison true else .done)

/-- A translation that an access is about to use: the marks that it needs are set and what the walk found is installed. A leaf that has
changed is discarded and walked again, at most `n` times (R144). -/
def Dev.settleTrans (who : Agent) (kind : AccKind) (go : Dev → Dev × XRes) : Nat → Dev → Dev × XRes
  | 0, d => go d
  | n + 1, d =>
    match go d with
    | (d1, .ok t) => match d1.setMarks who t.key t.mark with
      | (d2, .done) => (d2.fillXlate who kind t, .ok t)
      | (d2, .poison e) => (d2, .poison e)
      | (d2, .changed) => Dev.settleTrans who kind go n (d2.forgetLeaf who ((t.mark.map (·.1)).getD 0))
    | r => r

/-! ### A core's translations -/

def Dev.segtabOf (d : Dev) (c : Nat) (lvl : Level) : TableSet × Word :=
  let a := d.arch c
  match lvl with
  | .u | .s => (.setS, a.segtabS)
  | .h => (.setH, a.segtabH)
  | .m => (.setM, a.segtabM)

/-- translate(ea, kind, lvl) of R145. -/
def Dev.translate (d : Dev) (c : Nat) (lvl : Level) (mxlate : Bool) (segtab : Word) (marks : Bool) (ea : Word) (kind : AccKind) :
    Dev × XRes :=
  if lvl == .m && !mxlate then
    if getF ea ⟨63, 52⟩ != 0 then (d, .fault (xcode 0 12))
    else
      let dev := deviceRange ea.toNat
      if kind = .fetch && dev then (d, .fault (xcode 0 13))
      else (d, .ok { pa := ea.toNat, device := dev, tenant := 0, key := 0, size := 2 ^ 52, mark := none, fill := none, walks := [], desc := none })
  else
    let b : WalkBy := { who := .core (Fin.ofNat 264 c), set := (d.segtabOf c lvl).1, segtab := segtab, level := lvl,
                        uRule := true, fixed := none, marks := marks }
    d.walk b ea kind

def Dev.translateNow (d : Dev) (c : Nat) (ea : Word) (kind : AccKind) : Dev × XRes :=
  let a := d.arch c
  d.translate c a.pl a.mxlate (d.segtabOf c a.pl).2 true ea kind

/-! ### Invalidation (R89, R90, R148, R149) -/

/-- The effective addresses, as 64-bit numbers, that a scope covers; none for scopes without an address. Page covers its one address, which
a leaf of any size that holds it meets (log entry 113). -/
def tinvSpan (v : Tinv) : Option (Nat × Nat) :=
  match v.scope with
  | .page => some (v.operand.toNat, v.operand.toNat + 1)
  | .range => some (v.operand.toNat / 4096 * 4096, v.operand.toNat / 4096 * 4096 + (v.operand.toNat % 4096 + 1) * 4096)
  | .segment => some (v.operand.toNat / 2 ^ 48 * 2 ^ 48, (v.operand.toNat / 2 ^ 48 + 1) * 2 ^ 48)
  | .tenant | .all => none

/-- Whether a TINV removes an entry with these tags that covers these addresses. -/
def tinvRemoves (v : Tinv) (set : TableSet) (global : Bool) (tenant : Half) (lo hi : Nat) : Bool :=
  (v.allSets || set == .setS) &&
    match tinvSpan v with
    | some (a, b) => (global || tenant == v.tenant) && decide (lo < b) && decide (a < hi)
    | none => v.scope == TinvScope.all || (!global && tenant == v.tenant)

def tinvRemovesLeaf (v : Tinv) (e : TlbEntry) : Bool :=
  tinvRemoves v e.set e.global e.tenant (e.seg.toNat * 2 ^ 48 + e.base) (e.seg.toNat * 2 ^ 48 + e.base + e.size)
def tinvRemovesWalk (v : Tinv) (e : WalkEntry) : Bool :=
  tinvRemoves v e.set e.global e.tenant (e.seg.toNat * 2 ^ 48 + e.index * levelSize e.level)
    (e.seg.toNat * 2 ^ 48 + (e.index + 1) * levelSize e.level)
def tinvRemovesDesc (v : Tinv) (e : SdcEntry) : Bool :=
  match v.scope with
  | .page | .range => false
  | _ => tinvRemoves v e.set e.desc.g e.desc.tenant (e.seg.toNat * 2 ^ 48) ((e.seg.toNat + 1) * 2 ^ 48)

def Core.applyTinv (k : Core) (v : Tinv) : Core :=
  { k with
    itlb := k.itlb.filter fun e => !tinvRemovesLeaf v e,
    dtlb := k.dtlb.filter fun e => !tinvRemovesLeaf v e,
    tlb2 := k.tlb2.filter fun e => !tinvRemovesLeaf v e,
    walk := k.walk.filter fun e => !tinvRemovesWalk v e,
    sdc := k.sdc.filter fun e => !tinvRemovesDesc v e }

/-- Removes every translation of a core (R151). -/
def Core.dropXlate (k : Core) : Core := { k with itlb := [], dtlb := [], tlb2 := [], walk := [], sdc := [] }

/-- A core is in the isolated state (R151): at start-up, under test, or while a reclamation runs on its socket. -/
def Dev.isolated (d : Dev) (c : Nat) : Bool := (d.core c).isoStart || (d.core c).isoTest || !d.board.reclaim.isEmpty

end Sys2Proof.Machine
end

