-- ==== Sys2Proof/Machine/Events.lean ====
section
/-! DEFINITION. The event controller (R361 to R376): routes, firings, event queues, posted delivery, ends of
entries, watermarks and their notices. Firings that an operation causes go to `Dev.reports`, and the controller
takes them in order when the command's effect is complete (`Dev.settle`). -/

namespace Sys2Proof.Machine

/-! ### Looking at memory without an access -/

/-- The bytes of a line as a coherent read would return them, with no effect on any state: a modified or exclusive
copy in an L2, else the last-level cache, else a queued write over memory. -/
def Dev.peekLine (d : Dev) (ln : Nat) : Line :=
  match d.cores.findSome? fun e => (e.2.l2Line ln).bind fun x => if x.st = Mesi.shared then none else some x.data with
  | some x => x
  | none => match (d.slice (d.home ln).1).llcLine ln with
    | some e => e.data
    | none =>
      let base := Memory.line d.mem ln
      match d.place (ln * 64) with
      | .dram ch _ => ((d.chan ch).wq.filter fun e => e.line == ln).foldl (fun x e => Line.merge x e.data e.byteen) base
      | _ => base

/-- One byte of normal memory or of a scratchpad window as a coherent read returns it. -/
def Dev.peek (d : Dev) (pa : Nat) : Byte :=
  match d.place pa with
  | .spad n w o => Tbl.get 0 (spadKey w o) (d.slice n).spad
  | _ => BitVec.ofNat 8 ((d.peekLine (pa / 64)).toNat >>> (8 * (pa % 64)))

def Dev.peekBytes (d : Dev) (pa n : Nat) : List Byte := (List.range n).map fun i => d.peek (pa + i)
def Dev.peekD (d : Dev) (pa : Nat) : Word := BitVec.ofNat 64 (leNat (d.peekBytes pa 8))

/-! ### Watermarks and notices (R373) -/

/-- The key of a ring's notice window. -/
def ringKey : Ring → Nat
  | .eventQueue c => c.val
  | .completion i q => 0x1000 + i.val * 64 + q.val
  | .journal s => 0x100000 + s.val
  | .trace q u => 0x200000 + 4 * q.val + u.val
  | .errorLog => 0x300000

/-- The window W of a ring, in microseconds. -/
def Dev.ringWindow (d : Dev) (r : Ring) : Nat :=
  d.fld .evcWmwin (match r with
    | .eventQueue _ => .EVC_WMWIN_EQ
    | .completion _ _ => .EVC_WMWIN_CQ
    | .journal _ => .EVC_WMWIN_JRNL
    | .trace _ _ => .EVC_WMWIN_TRACE
    | .errorLog => .EVC_WMWIN_ELOG)

/-- Sends a ring's notice. -/
def Dev.sendNotice (d : Dev) (r : Ring) : Dev :=
  match r with
  | .eventQueue _ => d.wire 4221
  | .completion i q =>
    if d.bit (.evcInstMsg i.val) .EVC_INST_MSG_EN then d.report (.message (d.fld (.evcInstMsg i.val) .EVC_INST_MSG_BASE + q.val)) else d
  | .journal s => d.wire (4184 + s.val)
  | .trace q u => d.wire (4200 + 4 * q.val + u.val)
  | .errorLog => d.wire 4216

def Dev.setNotice (d : Dev) (r : Ring) (n : NoticeSt) : Dev :=
  { d with events := { d.events with notices := Tbl.put ⟨none, false⟩ (ringKey r) n d.events.notices } }
def Dev.notice (d : Dev) (r : Ring) : NoticeSt := Tbl.get ⟨none, false⟩ (ringKey r) d.events.notices

/-- A crossing, or a completion with NOTIFY: the notice goes at once when none went within the window, and
otherwise one is held. -/
def Dev.raiseNotice (d : Dev) (r : Ring) : Dev :=
  let n := d.notice r
  let w := us (d.ringWindow r)
  match n.sent with
  | some t => if d.past t w then (d.sendNotice r).setNotice r ⟨some d.time, false⟩ else d.setNotice r ⟨n.sent, true⟩
  | none => (d.sendNotice r).setNotice r ⟨some d.time, false⟩

/-- The register that holds a ring's CROSSED and COUNT, its threshold, and the two fields. -/
def Dev.ringState (d : Dev) (r : Ring) : Reg × Nat × Fld × Fld :=
  match r with
  | .eventQueue c => (.evcEqWm c.val, d.fld (.evcEqWm c.val) .EVC_EQ_WM_THRESH, .EVC_EQ_WM_CROSSED, .EVC_EQ_WM_COUNT)
  | .completion i q => (.qWmstat i.val q.val, d.fld (.qStat i.val q.val) .Q_STAT_CQWM, .Q_WMSTAT_CROSSED, .Q_WMSTAT_COUNT)
  | .journal s => (.evcRwm s.val, d.fld (.evcRwm s.val) .EVC_RWM_THRESH, .EVC_RWM_CROSSED, .EVC_RWM_COUNT)
  | .trace q u => (.evcRwm (16 + 4 * q.val + u.val), d.fld (.evcRwm (16 + 4 * q.val + u.val)) .EVC_RWM_THRESH, .EVC_RWM_CROSSED, .EVC_RWM_COUNT)
  | .errorLog => (.evcRwm 32, d.fld (.evcRwm 32) .EVC_RWM_THRESH, .EVC_RWM_CROSSED, .EVC_RWM_COUNT)

/-- A ring's level moves from `l0` to `l1`: an upward crossing is counted and noticed. -/
def Dev.ringLevel (d : Dev) (r : Ring) (l0 l1 : Nat) : Dev :=
  let (reg, t, crossed, count) := d.ringState r
  if t ≠ 0 ∧ l0 < t ∧ t ≤ l1 then ((d.setFld reg crossed 1).countFld reg count 1).raiseNotice r else d

/-- WATERMARK_NOTICE: the window of a ring has passed, and the notice that is held goes (log entry 27). -/
def Dev.windowEnd (d : Dev) (r : Ring) : Dev :=
  if (d.notice r).held then (d.sendNotice r).setNotice r ⟨some d.time, false⟩ else d.setNotice r ⟨none, false⟩

/-! ### Sources: ACT and PEND (R364) -/

def Dev.act (d : Dev) (wired : Bool) (n : Nat) : Bool :=
  if wired then d.bit (.evcWroute n) .EVC_WROUTE_ACT else d.events.msgAct.contains n
def Dev.pend (d : Dev) (wired : Bool) (n : Nat) : Bool :=
  if wired then d.bit (.evcWroute n) .EVC_WROUTE_PEND else d.events.msgPend.contains n
def putMember (n : Nat) (on : Bool) (l : List Nat) : List Nat := if on then insertNat n l else l.filter (· != n)
def Dev.setAct (d : Dev) (wired : Bool) (n : Nat) (v : Bool) : Dev :=
  if wired then d.setFld (.evcWroute n) .EVC_WROUTE_ACT (bitNat v)
  else { d with events := { d.events with msgAct := putMember n v d.events.msgAct } }
def Dev.setPend (d : Dev) (wired : Bool) (n : Nat) (v : Bool) : Dev :=
  if wired then d.setFld (.evcWroute n) .EVC_WROUTE_PEND (bitNat v)
  else { d with events := { d.events with msgPend := putMember n v d.events.msgPend } }

def firingKey (wired : Bool) (n : Nat) : Nat := 2 * n + bitNat wired
/-- A firing waits under PEND with its time; a later one coalesces into it (R364). -/
def Dev.setWaiting (d : Dev) (wired : Bool) (n : Nat) (at_ : Word) : Dev :=
  if d.pend wired n then d else
  let d1 := d.setPend wired n true
  { d1 with events := { d1.events with firedAt := Tbl.put 0 (firingKey wired n) at_ d1.events.firedAt } }
/-- A waiting firing is taken up, with its time. -/
def Dev.takeWaiting (d : Dev) (wired : Bool) (n : Nat) : Dev × Word :=
  let d1 := d.setPend wired n false
  ({ d1 with events := { d1.events with firedAt := Tbl.del (firingKey wired n) d1.events.firedAt } }, Tbl.get 0 (firingKey wired n) d.events.firedAt)

/-! ### Event queues (R365, R366, R368, R369) -/

def evAgent : Agent := .io 0

/-- The queue a target's entries go to (R369). -/
def Dev.queueOf (d : Dev) (target : Nat) : Nat := if (d.phys target).isSome then target else d.fld .evcCtl .EVC_CTL_FALLBACK

def Dev.eqLog (d : Dev) (l : Nat) : Nat := d.fld (.evcEqBase l) .EVC_EQ_BASE_LOG
def Dev.eqInUse (d : Dev) (l : Nat) : Bool :=
  d.bit (.evcEqBase l) .EVC_EQ_BASE_EN && decide (6 ≤ d.eqLog l) && decide (d.eqLog l ≤ 20)
def idxLevel (a b : Nat) : Nat := (a + 2 ^ 32 - b) % 2 ^ 32
def Dev.eqLevel (d : Dev) (l : Nat) : Nat := idxLevel (d.fld (.evcEqIdx l) .EVC_EQ_IDX_TAIL) (d.fld (.evcEqIdx l) .EVC_EQ_IDX_HEAD)
def Dev.evCount (d : Dev) (l p : Nat) : Nat := Tbl.get 0 (l * 256 + p) d.events.counts
def Dev.setEvCount (d : Dev) (l p n : Nat) : Dev :=
  { d with events := { d.events with counts := Tbl.put 0 (l * 256 + p) n d.events.counts } }

/-! ### What is pending for a core (R366, R372) -/

/-- The highest priority with a non-zero count. -/
def Dev.evTop (d : Dev) (l : Nat) : Option Nat := (List.range 256).reverse.find? fun p => decide (0 < d.evCount l p)
def Dev.evAny (d : Dev) (l : Nat) : Bool := d.events.counts.any fun e => e.1 / 256 == l && decide (0 < e.2)
/-- Vector 0x10: the priority that is pending above PRIMASK. -/
def Dev.evPending (d : Dev) (c : Nat) : Option Nat :=
  match d.lcore? c with
  | none => none
  | some l => if d.evAny l then (d.evTop l).bind fun p => if (d.arch c).primask.toNat < p then some p else none else none
/-- The address of a core's running descriptor, when enabled. -/
def Dev.vpAddr (d : Dev) (c : Nat) : Option Nat :=
  let w := (d.arch c).vpdesc
  if bitF w 63 then some (getF w ⟨51, 6⟩ * 64) else none
/-- Vector 0x11: the guest vector that is pending above VPRI. -/
def Dev.vpPending (d : Dev) (c : Nat) : Option Nat :=
  (d.vpAddr c).bind fun pa =>
    let pir := leNat (d.peekBytes pa 32)
    ((List.range 256).reverse.find? fun v => pir.testBit v).bind fun v =>
      if (d.arch c).vpri.toNat < v then some v else none

/-! ### Power entries that an arrival aborts (R379, R381) -/

/-- Kinds of domains that software may request states of (R379). -/
def requestable (k : Nat) : Bool := decide (k < 396) || (decide (444 ≤ k) && decide (k < 448))
def coreDom (k : Nat) : Bool := decide (k < 264)
def sliceDom (k : Nat) : Bool := decide (264 ≤ k) && decide (k < 396)
def engineDom (k : Nat) : Bool := decide (444 ≤ k) && decide (k < 448)

/-- An entry that isolation has not yet sealed is aborted: code 0 (R381). -/
def Dev.abortEntry (d : Dev) (k : Nat) : Dev :=
  match (d.dom k).step with
  | .drainRet | .drainOff =>
    if sliceDom k && d.hash.active == .powerOff && d.hash.slice == k - 264 then d else
    let d1 := if sliceDom k then { d with hash := { d.hash with queue := d.hash.queue.filter fun r => !(r.kind == .powerOff && r.slice == k - 264) } } else d
    ((d1.modDom k fun x => { x with step := .settled, aborts := x.aborts + 1 }).setFld (.pwrDom k) .PWR_DOM_LASTREF 0).countFld (.pwrDom k) .PWR_DOM_ABORTED 1
  | _ => d

/-! ### Appending an entry -/

/-- A core evaluates what is pending for it: a pending interrupt wakes it from Retention, and aborts an entry (R369, R371, R381). -/
def Dev.evaluate (d : Dev) (l : Nat) : Dev :=
  match d.phys l with
  | none => d
  | some c => if (d.evPending c).isNone && (d.vpPending c).isNone then d else if d.power c = 1 then d.wake c else d.abortEntry c

/-- A core that an entry is appended for: the pending interrupt ends Retention, and a core that is Off is asked On (R369). -/
def Dev.rouse (d : Dev) (l : Nat) : Dev :=
  match d.phys l with
  | none => d
  | some c => if d.power c = 2 then d.modDom c fun k => { k with latest := some .on } else d.evaluate l

/-- Ways an entry is taken. -/
inductive Taken
  | appended | full | unused | failed
deriving DecidableEq, Repr

/-- Writes one entry into a queue, its second double-word last (R365), and counts it (R366). -/
def Dev.eqWrite (d : Dev) (l kind number pri : Nat) (at_ : Word) : Dev × Taken :=
  if !d.eqInUse l then (d, .unused) else
  let log := d.eqLog l
  let tail := d.fld (.evcEqIdx l) .EVC_EQ_IDX_TAIL
  if d.eqLevel l = 2 ^ log then (d.setFld (.evcEqWm l) .EVC_EQ_WM_OVF 1, .full) else
  let pa := d.fld (.evcEqBase l) .EVC_EQ_BASE_BASE * 4096 + tail % 2 ^ log * 16
  let w := bitNat (!tail.testBit log) * 2 ^ 63 + kind * 2 ^ 60 + pri * 2 ^ 48 + number
  let (d1, e1) := d.writeD evAgent 0 pa at_
  let (d2, e2) := d1.writeD evAgent 0 (pa + 8) (BitVec.ofNat 64 w)
  if e1 || e2 then (d2.err 428 0x58 0, .failed) else
  let l0 := d2.eqLevel l
  let d3 := d2.wrapFld (.evcEqIdx l) .EVC_EQ_IDX_TAIL 1
  let d4 := d3.setEvCount l pri (d3.evCount l pri + 1)
  (((d4.ringLevel (.eventQueue (Fin.ofNat 256 l)) l0 (l0 + 1)).rouse l), .appended)

/-- Appends an entry of a firing at a time for a target core: for a running panel member it waits for step 3 of the boundary step (R369). -/
def Dev.eqAppend (d : Dev) (target kind number pri : Nat) (at_ : Word) (wired : Bool) (source : Nat) : Dev × Taken :=
  let l := d.queueOf target
  match (d.phys l).bind fun c => (d.inPanel c).map fun _ => c with
  | some c => (d.modMember c fun m => { m with held := m.held ++ [⟨kind, number, pri, at_, wired, source⟩] }, .appended)
  | none => d.eqWrite l kind number pri at_

/-! ### Firings (R364, R371) -/

/-- A source's route (R363): a register for a wired source; a cached or read table entry for an identifier. -/
inductive Route
  | entry (w : Word)
  | off
  | failed
deriving DecidableEq, Repr

def Dev.route (d : Dev) (wired : Bool) (n : Nat) : Dev × Route :=
  if wired then (d, .entry (d.reg (.evcWroute n)))
  else if !d.bit .evcMtab .EVC_MTAB_EN then (d, .off)
  else match d.events.routes.find? fun e => e.1 == n with
    | some e => (d, .entry e.2)
    | none =>
      let (d1, w, bad) := d.readD evAgent 0 (d.fld .evcMtab .EVC_MTAB_BASE * 4096 + n * 8)
      if bad then (d1, .failed) else ({ d1 with events := { d1.events with routes := (n, w) :: d1.events.routes } }, .entry w)

/-- The last part of post(n, v): the running vCPU's core evaluates, or the descriptor's wake entry is appended for the source that fired; the
second part says whether that entry was not taken. -/
def Dev.postWake (d : Dev) (n : Nat) (on at_ : Word) (wired : Bool) (source : Nat) : Dev × Bool :=
  if bitF on 62 then (d.evaluate (on.toNat % 256), false) else
  let (d1, wk, bad) := d.readD evAgent 0 (d.fld .evcPdt .EVC_PDT_BASE * 4096 + n * 64 + 0x28)
  if bad then (d1.err 428 0x58 0, false) else
  let (d2, t) := d1.eqAppend (wk.toNat % 256) 2 n (wk.toNat / 256 % 256) at_ wired source
  (d2, t == .full || t == .unused)

/-- post(n, v) of R371; the second part says whether an entry that it needed was not taken. -/
def Dev.postVirtual (d : Dev) (n v : Nat) (at_ : Word) (wired : Bool) (source : Nat) : Dev × Bool :=
  let pa := d.fld .evcPdt .EVC_PDT_BASE * 4096 + n * 64
  let (d1, pir, bad1) := d.readD evAgent 0 (pa + v / 64 * 8)
  let (d2, on, bad2) := d1.readD evAgent 0 (pa + 0x20)
  if bad1 || bad2 then (d2.err 428 0x58 0, false) else
  let (d3, _) := d2.writeD evAgent 0 (pa + v / 64 * 8) (pir ||| BitVec.ofNat 64 (2 ^ (v % 64)))
  if bitF on 63 then (d3, false) else
  let (d4, _) := d3.writeD evAgent 0 (pa + 0x20) (on ||| BitVec.ofNat 64 (2 ^ 63))
  d4.postWake n on at_ wired source

/-- A firing at a time, with its route read. -/
def Dev.fireRoute (d : Dev) (wired : Bool) (n : Nat) (rid : Option Nat) (at_ w : Word) : Dev :=
  let srcBad := match rid with
    | some r => bitF w 59 && r != getF w .EVC_WROUTE_RID
    | none => false
  if srcBad then d.countFld .evcStat .EVC_STAT_SRCFAIL 1
  else if !bitF w 63 || (bitF w 60 && !d.bit .evcPdt .EVC_PDT_EN) then (if wired then d.setWaiting wired n at_ else d.countFld .evcStat .EVC_STAT_DISABLED 1)
  else if bitF w 60 then
    let (d1, missed) := d.postVirtual (getF w .EVC_WROUTE_TARGET) (getF w .EVC_WROUTE_GVEC) at_ wired n
    if missed then d1.setWaiting wired n at_ else d1
  else if d.act wired n then d.setWaiting wired n at_
  else
    let (d1, t) := d.eqAppend (getF w .EVC_WROUTE_TARGET % 256) (bitNat wired) n (getF w .EVC_WROUTE_PRI) at_ wired n
    match t with
    | .appended => d1.setAct wired n true
    | .full | .unused => d1.setWaiting wired n at_
    | .failed => d1

/-- A source fires, or a firing at an earlier time is offered again (R364). -/
def Dev.fireFrom (d : Dev) (wired : Bool) (n : Nat) (rid : Option Nat) (at_ : Word) : Dev :=
  if wired && decide (4222 ≤ n) then d else
  match d.route wired n with
  | (d1, .entry w) => d1.fireRoute wired n rid at_ w
  | (d1, .off) => d1.countFld .evcStat .EVC_STAT_DISABLED 1
  | (d1, .failed) => d1.err 428 0x58 0
def Dev.fire (d : Dev) (wired : Bool) (n : Nat) (rid : Option Nat) : Dev := d.fireFrom wired n rid d.time

/-- A waiting source is offered again, with the time of its firing. -/
def Dev.reoffer (d : Dev) (wired : Bool) (n : Nat) : Dev :=
  if d.pend wired n then
    let (d1, at_) := d.takeWaiting wired n
    d1.fireFrom wired n none at_
  else d

/-- RESCAN offers a source with PEND = 1 again when its route is one of the core's: a virtual route's wake entry, and any other
route's own (R368). -/
def Dev.rescanSource (l : Nat) (wired : Bool) (d : Dev) (n : Nat) : Dev :=
  match d.route wired n with
  | (d1, .entry w) =>
    let t := getF w .EVC_WROUTE_TARGET
    if !bitF w 63 then d
    else if !bitF w 60 then (if d.queueOf (t % 256) = l then d.reoffer wired n else d)
    else
      let pd := d1.fld .evcPdt .EVC_PDT_BASE * 4096 + t * 64
      if !d1.bit .evcPdt .EVC_PDT_EN || d1.queueOf ((d1.peekD (pd + 0x28)).toNat % 256) != l then d else
      let (d2, at_) := d1.takeWaiting wired n
      let (d3, missed) := d2.postWake t (d1.peekD (pd + 0x20)) at_ wired n
      if missed then d3.setWaiting wired n at_ else d3
  | _ => d

/-- RESCAN of a logical core's sources, the wired ones first, each kind by rising number (R368). -/
def Dev.rescan (d : Dev) (l : Nat) : Dev :=
  let d1 := ((List.range 4222).filter fun n => d.pend true n).foldl (Dev.rescanSource l true) d
  d1.events.msgPend.foldl (Dev.rescanSource l false) d1

/-- A word write of `v` to EVC_MSGDB by requester `rid` (R362). -/
def Dev.msgDoorbell (d : Dev) (rid : Nat) (v : Word) (size : Nat) : Dev :=
  if size ≠ 4 ∨ v.toNat % 2 ^ 32 ≥ 2 ^ 20 then d.countFld .evcStat .EVC_STAT_BADMSG 1
  else d.fire false (v.toNat % 2 ^ 20) (some rid)

/-- A write of EVEOI by a core (R367). -/
def Dev.endEntry (d : Dev) (l : Nat) (v : Word) : Dev :=
  let kind := getF v ⟨61, 60⟩
  let pri := getF v ⟨55, 48⟩
  let n := getF v ⟨19, 0⟩
  let dec := fun (x : Dev) => x.setEvCount l pri (x.evCount l pri - 1)
  if kind = 3 then d.countFld .evcStat .EVC_STAT_BADEOI 1
  else if kind = 2 then dec d
  else
    let wired := kind == 1
    if !(d.act wired n) || (wired && decide (4224 ≤ n)) then d.countFld .evcStat .EVC_STAT_BADEOI 1
    else ((dec d).setAct wired n false).reoffer wired n

/-- A write of EVEOI in a stitch belongs to the stitch, and ends its entry when the stitch commits (R213, R214); until then only the count of its
priority is lower, by which the member's own interrupts are accepted (R206, R366). A second end of one source finds nothing more. -/
def Dev.holdEnd (d : Dev) (c l : Nat) (m : Member) (v : Word) : Dev :=
  let kind := getF v ⟨61, 60⟩
  let pri := getF v ⟨55, 48⟩
  let n := getF v ⟨19, 0⟩
  let again := m.ends.any fun e => getF e.1 ⟨61, 60⟩ == kind && getF e.1 ⟨19, 0⟩ == n
  let good := kind == 2 || kind != 3 && !again && d.act (kind == 1) n
  let k := if good then min 1 (d.evCount l pri) else 0
  (d.setEvCount l pri (d.evCount l pri - k)).modMember c fun q => { q with ends := q.ends ++ [(v, k)] }

/-- What a stitch's ends took off the counts is given back. -/
def Dev.giveEnds (d : Dev) (c : Nat) : Dev :=
  match d.lcore? c, (d.core c).member with
  | some l, some m =>
    (m.ends.foldl (fun x e => let p := getF e.1 ⟨55, 48⟩; x.setEvCount l p (x.evCount l p + e.2)) d).modMember c fun q => { q with ends := [] }
  | _, _ => d

/-- The ends that a committed stitch wrote act, in order. -/
def Dev.commitEnds (d : Dev) (c : Nat) (m : Member) : Dev :=
  match d.lcore? c with
  | some l => m.ends.foldl (fun x e => x.endEntry l e.1) (d.giveEnds c)
  | none => d

/-! ### Taking a posted interrupt (R372) -/

/-- Clears PIR[v], and ON when PIR has become empty (R372). -/
def Dev.vpTake (d : Dev) (c v : Nat) : Dev :=
  match d.vpAddr c with
  | none => d
  | some pa =>
    let (d1, pir, _) := d.readD (.core (Fin.ofNat 264 c)) 0 (pa + v / 64 * 8)
    let (d2, _) := d1.writeD (.core (Fin.ofNat 264 c)) 0 (pa + v / 64 * 8) (pir &&& ~~~ BitVec.ofNat 64 (2 ^ (v % 64)))
    if leNat (d2.peekBytes pa 32) = 0 then
      let (d3, on, _) := d2.readD (.core (Fin.ofNat 264 c)) 0 (pa + 0x20)
      (d3.writeD (.core (Fin.ofNat 264 c)) 0 (pa + 0x20) (on &&& ~~~ BitVec.ofNat 64 (2 ^ 63))).1
    else d2

/-- A virtual interrupt that was taken and not delivered is pending again: PIR[v] and ON are set. -/
def Dev.vpGive (d : Dev) (c v : Nat) : Dev :=
  match d.vpAddr c with
  | none => d
  | some pa =>
    let me : Agent := .core (Fin.ofNat 264 c)
    let (d1, pir, _) := d.readD me 0 (pa + v / 64 * 8)
    let (d2, _) := d1.writeD me 0 (pa + v / 64 * 8) (pir ||| BitVec.ofNat 64 (2 ^ (v % 64)))
    let (d3, on, _) := d2.readD me 0 (pa + 0x20)
    (d3.writeD me 0 (pa + 0x20) (on ||| BitVec.ofNat 64 (2 ^ 63))).1

end Sys2Proof.Machine
end

