-- ==== Sys2Proof/Machine/Observe.lean ====
section
/-! DEFINITION. The observation units of the fabric (R253, R254, R257). -/

namespace Sys2Proof.Machine

/-- The fields of a head as FAB_OBS_MATCH lays them out. -/
def obsWord (o : Opc) (m : Msg) : Word :=
  BitVec.ofNat 64 (opcCode o * 2 ^ 56 + opcVc o * 2 ^ 54 + nodeCode m.src * 2 ^ 46 + nodeCode m.dst * 2 ^ 38 + m.addr.toNat / 2 ^ 14)

/-- A trace ring must lie in normal memory: DRAM or a scratchpad window of some socket (R254). -/
def Dev.obsRingOk (d : Dev) (pa : Nat) : Bool :=
  match d.place pa with
  | .dram _ _ | .remote _ | .spad _ _ _ | .remoteSpad _ => true
  | _ => false

/-- A trace ring that does not wrap and is full (R254). -/
def Dev.obsFull (d : Dev) (q u : Nat) : Bool :=
  !d.bit (.fabObsCtl q u) .FAB_OBS_CTL_WRAP &&
    idxLevel (d.fld (.fabObsIdx q u) .FAB_OBS_IDX_DEV) (d.fld (.fabObsIdx q u) .FAB_OBS_IDX_SW) == 2 ^ d.fld (.fabObsRing q u) .FAB_OBS_RING_LOG

/-- Writes one trace entry; none while LOG is a reserved value (log entry 118). -/
def Dev.obsTrace (d : Dev) (q u port : Nat) (o : Opc) (m : Msg) : Dev :=
  let log := d.fld (.fabObsRing q u) .FAB_OBS_RING_LOG
  let dev := d.fld (.fabObsIdx q u) .FAB_OBS_IDX_DEV
  let lvl := idxLevel dev (d.fld (.fabObsIdx q u) .FAB_OBS_IDX_SW)
  if log < 7 ∨ 24 < log then d
  else
    let a := d.fld (.fabObsRing q u) .FAB_OBS_RING_BASE * 4096 + dev % 2 ^ log * 32
    let b := leBytes 8 d.time.toNat ++ leBytes 4 ((headFlit o m).toNat % 2 ^ 32) ++ leBytes 4 port ++ leBytes 16 (obsHeader o m % 2 ^ 128)
    let fail := fun (x : Dev) => (x.setFld (.fabObsCtl q u) .FAB_OBS_CTL_TRACE 0).countFld (.fabObsCnt q u) .FAB_OBS_CNT_DROPPED 1
    if !d.obsRingOk a then fail d else
    let (d1, e) := d.writeBytesAs (.engine (Fin.ofNat 4 q)) 0 32 a b
    if e then fail d1
    else (d1.wrapFld (.fabObsIdx q u) .FAB_OBS_IDX_DEV 1).ringLevel (.trace (Fin.ofNat 4 q) (Fin.ofNat 4 u)) lvl (lvl + 1)

/-- A histogram bucket of a latency in nanoseconds. -/
def obsBucket (ns : Nat) : Nat := ((List.range 15).find? fun b => decide (ns < 2 ^ (b + 4))).getD 15

/-- The data bytes that a packet carries: its data flits, or the enabled bytes of SDATA. -/
def dataBytes (o : Opc) (m : Msg) : Nat :=
  if o = .csrwr ∨ o = .devwr ∨ (o = .data ∧ oneFlit m) then (if m.byteen = 0 then 8 else (List.range 64).countP fun i => m.byteen.toNat.testBit i)
  else opcLen o m * 32

/-- Statistics (R253): the bytes of requests issued and of data received at the unit's stop, and the latency of a request up to the head of its
first response. -/
def Dev.observeStats (d : Dev) (q u stop : Nat) (o : Opc) (m : Msg) (began : Word) : Dev :=
  let d1 := if m.src.quad.val = q ∧ m.src.stop.val = stop ∧ isRequest o then
    d.countFld (.fabObsBytes q u m.src.unit.val) .FAB_OBS_BYTES_BYTES (dataBytes o m) else d
  if m.dst.quad.val = q ∧ m.dst.stop.val = stop ∧ [Opc.grant, .data, .cmp, .err].contains o then
    let d2 := if o = .data then d1.countFld (.fabObsBytes q u m.dst.unit.val) .FAB_OBS_BYTES_BYTES (dataBytes o m) else d1
    let b := obsBucket (d.time.toNat - began.toNat)
    d2.countFld (Reg.fabObsHist q u m.dst.unit.val (b / 4)) ⟨b % 4 * 16 + 15, b % 4 * 16⟩ 1
  else d1

/-- The matches of an observation unit, by which it samples. -/
def Dev.sampled (d : Dev) (q u : Nat) : Nat := Tbl.get 0 (4 * q + u) d.fabric.samples

/-- Probe (R253, R254): a match is counted, and one in 2^SAMPLE is traced. A trace that is on and whose ring is full counts each match as
dropped (log entry 118). -/
def Dev.observeProbe (d : Dev) (q u stop : Nat) (o : Opc) (m : Msg) : Dev :=
  let w := d.reg (.fabObsCtl q u)
  let want := getF w .FAB_OBS_CTL_PORT
  match (d.route3 m.src m.dst).find? fun h => h.1 == q && h.2.1 == stop && (want == 6 || h.2.2 == want) with
  | none => d
  | some h =>
    if ((obsWord o m ^^^ d.reg (.fabObsMatch q u)) &&& d.reg (.fabObsMask q u)) != 0 then d else
    let n := d.sampled q u
    let d1 := (d.setFabric { d.fabric with samples := Tbl.put 0 (4 * q + u) (n + 1) d.fabric.samples }).countFld (.fabObsCnt q u) .FAB_OBS_CNT_MATCHED 1
    if getF w .FAB_OBS_CTL_TRACE = 0 then d1
    else if d.obsFull q u then d1.countFld (.fabObsCnt q u) .FAB_OBS_CNT_DROPPED 1
    else if n % 2 ^ getF w .FAB_OBS_CTL_SAMPLE = 0 then d1.obsTrace q u h.2.2 o m else d1

/-- What an observation unit notes of a packet that moves from its source to its destination. -/
def Dev.observeBy (d : Dev) (q u : Nat) (o : Opc) (m : Msg) (began : Word) : Dev :=
  let w := d.reg (.fabObsCtl q u)
  if getF w .FAB_OBS_CTL_EN = 0 then d
  else if getF w .FAB_OBS_CTL_MODE = 0 then d.observeStats q u (getF w .FAB_OBS_CTL_STOP) o m began
  else d.observeProbe q u (getF w .FAB_OBS_CTL_STOP) o m

/-- Every unit looks at one packet. -/
def Dev.observe (d : Dev) (o : Opc) (m : Msg) (began : Word) : Dev :=
  (List.range 16).foldl (fun x i => x.observeBy (i / 4) (i % 4) o m began) d

/-- The units look at the packets of a command, at its end; the trace's own writes are not observed. A packet whose trace entry has to wait is looked
at again at the end of a later command. -/
def Dev.observeSeen : Nat → Dev → Dev
  | 0, d => d
  | n + 1, d =>
    match d.fabric.seen with
    | [] => d
    | (o, m, t) :: rest =>
      let e := (d.setFabric { d.fabric with seen := [] }).observe o m t
      if e.fabric.waits = d.fabric.waits then Dev.observeSeen n (e.setFabric { e.fabric with seen := rest }) else d.orWait e

end Sys2Proof.Machine
end

