-- ==== Sys2Proof/Machine/Errors.lean ====
section
/-! DEFINITION. Cleaning and cutting units (R382, R403, R433, R439), and error reporting (R444 to R454): classes,
banks, records, the error-log ring, the persistent log, the pins, and the settling of what an operation reported. -/

namespace Sys2Proof.Machine

/-! ### Cleaning -/

/-- Writes back and drops every line of a core's L2 (R382). -/
def Dev.cleanCore (d : Dev) (c : Nat) : Dev := (d.core c).l2.foldl (fun x e => x.makeRoom.evictL2 c e) d

/-- Writes every dirty line of a slice to memory, then drops its lines and entries. -/
def Dev.cleanSlice (d : Dev) (n : Nat) : Dev :=
  let d1 := (d.slice n).llc.foldl (fun x e => if e.dirty || e.poison then x.makeRoom.victimOut e.line e.data e.key e.poison else x) d
  d1.modSlice n fun s => { s with llc := [], dir := [] }

/-- Drains a controller: its requests and its fill table; its zero-map cache is written back (R290). -/
def Dev.drainChan (d : Dev) (ch : Nat) : Dev :=
  let d0 := (List.range 200).foldl (fun x _ => if (x.chan ch).reads.isEmpty && (x.chan ch).wq.isEmpty then x else (x.mcStep ch).1) d
  let d1 := (d0.chan ch).wq.foldl (fun x w => x.mcIssueLine ch w) d0
  ((d1.chan ch).fill.foldl (fun x e => (x.zTouch ch e.granule true).fillFinish ch e) d1).modChan ch fun c => { c with
    zcache := c.zcache.map fun e => (e.1, false) }

/-- A store into one line of a core's memory, at its home (R54); true on an error response. -/
def Dev.storeLine (d : Dev) (c pa : Nat) (l : List Byte) (key : BitVec 11) : Dev × Bool :=
  match d.place pa with
  | .spad s w o => d.spadSave (.core (Fin.ofNat 264 c)) s w o l
  | .remoteSpad _ => d.farSave (.core (Fin.ofNat 264 c)) pa l
  | _ =>
    let (x, be) := lineAt (pa % 64) l
    d.l2Write c (pa / 64) x be key

/-- Performs a core's retired stores; a store that meets an error response is dropped and recorded (R447). -/
def Dev.performStore (d : Dev) (c : Nat) (e : StoreEntry) : Dev :=
  let k := 64 - e.addr % 64
  let (d1, er1) := d.storeLine c e.addr (e.bytes.take k) e.key
  let rest := e.bytes.drop k
  let (d2, er2) := if rest.isEmpty then (d1, false) else d1.storeLine c (e.addr + k) rest e.key
  if er1 || er2 then d2.report (.error c 0x08 c (some e.addr) (d2.lcore? c) 0) else d2

/-- Performs every store of a core's store buffer, oldest first (R54, R104). -/
def Dev.drainStores (d : Dev) (c : Nat) : Dev :=
  let l := (d.core c).storeBuf
  l.foldl (fun x e => x.performStore c e) (d.modCore c fun k => { k with storeBuf := [] })

/-- Performs the oldest store of a core's store buffer. -/
def Dev.drainOne (d : Dev) (c : Nat) : Dev :=
  match (d.core c).storeBuf with
  | [] => d
  | e :: t => (d.modCore c fun k => { k with storeBuf := t }).performStore c e

def coreList : List Nat := List.range 264
def Dev.liveCores (d : Dev) : List Nat := d.cores.map (·.1)
def Dev.cleanAll (d : Dev) : Dev :=
  let d1 := d.liveCores.foldl (fun x c => (x.makeRoom.drainStores c).cleanCore c) d
  (d1.slices.map (·.1)).foldl (fun x n => x.cleanSlice n) d1

/-! ### Cutting -/

/-- Offsets of the blocks that stay powered in the always-on domain: PWR_, STW_, ODM_ and ERB_ (R27, R377). -/
def alwaysOn (o : Nat) : Bool :=
  (decide (0x7000000 ≤ o) && decide (o < 0x9000000)) || (decide (0xA000000 ≤ o) && decide (o < 0xB000000))

/-- Every domain but the always-on one loses power (R402, R403, R433): units return to their reset state, and
every domain reads Off. -/
def Dev.cutDomains (d : Dev) : Dev :=
  let d1 := { d with
    cores := [], slices := [], chans := [], panels := [], engines := [], queues := [], brx := [], stops := [],
    ports := d.ports.map (fun e => (e.1, { e.2 with up := false })),
    fabric := { Fabric.reset with waits := d.fabric.waits },
    events := { msgAct := [], msgPend := [], firedAt := [], routes := [], counts := [], notices := [] },
    doms := [],
    csr := d.csr.filter fun e => alwaysOn e.1 }
  (List.range 452).foldl (fun x k => x.setPower k 2) d1

/-! ### Classes and codes (R444, R449) -/

/-- The class of a code: 1 corrected, 2 deferred, 3 uncorrected-contained, 4 fatal, 5 an event record. -/
def errClass (code : Nat) : Nat :=
  if [0x03, 0x12, 0x16, 0x18, 0x21, 0x23, 0x25, 0x27].contains code then 2
  else if [0x06, 0x07, 0x08, 0x14, 0x15, 0x19, 0x24, 0x30, 0x33, 0x34, 0x35, 0x37, 0x40, 0x41, 0x52, 0x58, 0x61].contains code then 3
  else if [0x09, 0x36, 0x42, 0x62, 0x65, 0x66, 0x67].contains code then 4
  else if [0x80, 0x81, 0x82, 0x83].contains code then 5 else 1

/-- A corrected error is reportable unless it is a DRAM correction without overflow (R445). -/
def errReportable (code : Nat) : Bool := errClass code == 1 && code != 0x20

/-! ### Banks (R450) -/

def Dev.bankTake (d : Dev) (bank code unit : Nat) (addr : Option Nat) (synd : Word) (lcore : Option Nat) : Dev :=
  let cls := errClass code
  let s := Reg.erbStatus bank
  let d1 :=
    if !d.bit s .ERB_STATUS_VALID || decide (d.fld s .ERB_STATUS_CLASS < cls) then
      (((d.setFlds s [(.ERB_STATUS_VALID, 1), (.ERB_STATUS_CLASS, cls), (.ERB_STATUS_AVALID, bitNat addr.isSome),
          (.ERB_STATUS_CODE, code), (.ERB_STATUS_UNIT, unit)]).setReg (.erbAddr bank) (BitVec.ofNat 64 (addr.getD 0))).setReg
        (.erbSynd bank) synd).setFlds (.erbMisc bank) [(.ERB_MISC_LVALID, bitNat lcore.isSome), (.ERB_MISC_LOGICAL, lcore.getD 0)]
    else d.setFld s .ERB_STATUS_OVER 1
  d1.countFld s .ERB_STATUS_COUNT 1

/-! ### Records (R451 to R453) -/

/-- The 64 bytes of a record at ring index `i` of 2^log entries. -/
def Dev.recordBytes (d : Dev) (r : Record) (log i : Nat) : List Byte :=
  leBytes 8 r.time.toNat ++ leBytes 4 r.seq.toNat ++
    [BitVec.ofNat 8 r.cls, BitVec.ofNat 8 (d.socket + 4 * bitNat (r.report || decide (2 ≤ r.cls)))] ++
    leBytes 2 r.bank ++ leBytes 2 r.code ++ leBytes 2 r.unit ++ leBytes 4 r.count ++
    leBytes 8 (bitNat r.addr.isSome * 2 ^ 63 + r.addr.getD 0) ++ leBytes 8 r.synd.toNat ++ leBytes 8 r.misc.toNat ++
    leBytes 8 r.aux ++ leBytes 8 (bitNat (!i.testBit log) * 2 ^ 63)

def Dev.logLevel (d : Dev) : Nat := idxLevel (d.fld .erbLogIdx .ERB_LOG_IDX_DEV) (d.fld .erbLogIdx .ERB_LOG_IDX_SW)

/-- Offers a record to the error-log ring (R452). -/
def Dev.ringTake (d : Dev) (r : Record) : Dev :=
  let log := d.fld .erbLogBase .ERB_LOG_BASE_LOG
  let used := d.bit .erbLogBase .ERB_LOG_BASE_EN && decide (6 ≤ log) && decide (log ≤ 20)
  let wanted := r.cls != 1 || r.report || d.bit .erbLogBase .ERB_LOG_BASE_CE
  if !used || !wanted then d
  else if d.logLevel = 2 ^ log then d.countFld .erbLogStat .ERB_LOG_STAT_DROPPED 1
  else
    let i := d.fld .erbLogIdx .ERB_LOG_IDX_DEV
    let pa := d.fld .erbLogBase .ERB_LOG_BASE_BASE * 4096 + i % 2 ^ log * 64
    let b := d.recordBytes r log i
    let (d1, e1) := d.writeBytesAs evAgent 0 2 pa (b.take 56)
    let (d2, e2) := d1.writeBytesAs evAgent 0 2 (pa + 56) (b.drop 56)
    if e1 || e2 then (d2.countFld .erbLogStat .ERB_LOG_STAT_DROPPED 1).setFld .erbLogBase .ERB_LOG_BASE_EN 0
    else
      let l0 := d2.logLevel
      let d3 := (d2.wrapFld .erbLogIdx .ERB_LOG_IDX_DEV 1).ringLevel .errorLog l0 (l0 + 1)
      if r.cls = 1 then d3.wire 4217 else d3

/-- Inserts a record into the pending store of 64 (R453). -/
def Dev.pendTake (d : Dev) (r : Record) : Dev :=
  if decide (r.cls = 1) && !r.report then d else
  let p := d.errs.pend
  if decide (p.length < 64) || r.cls == 5 then { d with errs := { d.errs with pend := p ++ [r] } }
  else
    let lower := p.findIdx? fun x => decide (x.cls < r.cls)
    let d1 := d.countFld .erbLogStat .ERB_LOG_STAT_PLOST 1
    match lower with
    | some i => { d1 with errs := { d1.errs with pend := p.eraseIdx i ++ [r] } }
    | none => d1

/-- Makes a record: its bank, SEQ, the ring, the persistent log and the pins (R450 to R454). Event and cast-off
records (class 5) are placed in the pending store as others are; the steps that write them at once flush it. -/
def Dev.makeRecord (d : Dev) (bank code unit : Nat) (addr : Option Nat) (lcore : Option Nat) (aux : Nat) : Dev :=
  let (i, d0) := d.draw
  let synd := Config.syndrome bank code i
  let d1 := d0.bankTake bank code unit addr synd lcore
  let cls := errClass code
  let rec_ : Record := ⟨d1.time, d1.errs.next, cls, errReportable code, bank, code, unit,
    d1.fld (.erbStatus bank) .ERB_STATUS_COUNT, addr, synd, d1.reg (.erbMisc bank), aux⟩
  let d2 := { d1 with errs := { d1.errs with next := d1.errs.next + 1 } }
  let d3 := (d2.countFld .erbGlobal .ERB_GLOBAL_RECORDS 1).ringTake rec_
  let d4 := d3.pendTake rec_
  let d5 := if cls = 2 ∨ cls = 3 then (d4.setFld .erbGlobal .ERB_GLOBAL_PIN_UC 1).wire 4218 else d4
  let d6 := if errReportable code then d5.setFld .erbGlobal .ERB_GLOBAL_PIN_CE 1 else d5
  let d7 := if cls = 4 then (d6.setFld .erbGlobal .ERB_GLOBAL_PIN_FATAL 1).report .fatal else d6
  -- R455: the governor's sliding windows
  if bank < 264 && (errReportable code) then
    { d7 with gov := { d7.gov with coreErrs := Tbl.set unit (d7.time :: Tbl.get [] unit d7.gov.coreErrs) d7.gov.coreErrs } }
  else if decide (264 ≤ bank) && decide (bank < 396) && cls == 1 then
    { d7 with gov := { d7.gov with sliceErrs := Tbl.set unit (d7.time :: Tbl.get [] unit d7.gov.sliceErrs) d7.gov.sliceErrs } }
  else d7

/-- A bank is written and, once it has verified, comes into use (R426). -/
def Region.writeBank (r : Region) (body : List Byte) (now : Word) : Region :=
  let use1 := match r.inUse with
    | some b => !b
    | none => false
  let seq := if r.inUse.isNone then 1 else (if use1 then r.bank0.seq else r.bank1.seq) + 1
  let bank : Bank := { seq := seq, valid := true, body := body }
  { r with bank0 := (if use1 then r.bank0 else bank), bank1 := (if use1 then bank else r.bank1), inUse := some use1,
           writes := r.writes + 1, wroteAt := some now }

/-- Whether a write of an MRAM region verifies, at once or in its one retry (R426, R428). -/
def Dev.storeWorks (d : Dev) : Dev × Bool :=
  let (i, d1) := d.draw
  (d1, Config.storeOk i)

/-- Writes the pending records to the persistent log of 2,047 slots (R453). `ok` is false when the region's write
fails its retry: the region is marked faulted and nothing moves, and records of codes 0x82 and 0x83, which are never held, are lost. -/
def Dev.persist (d : Dev) (ok : Bool) : Dev :=
  if d.errs.pend.isEmpty then d
  else if !ok then
    ({ d with dict := { d.dict with errlog := { d.dict.errlog with fault := true } },
              errs := { d.errs with wroteAt := some d.time, pend := d.errs.pend.filter fun r => r.code != 0x82 && r.code != 0x83 } }).err 430 0x70 0
  else
    let e := d.errs.pend.foldl (fun (x : ErrorLog) r =>
      let k := x.written.toNat % 2047
      { x with slots := if k < x.slots.length then x.slots.set k r else x.slots ++ [r], written := x.written + 1 }) d.errs
    { d with errs := { e with pend := [], wroteAt := some d.time },
             dict := { d.dict with errlog := d.dict.errlog.writeBank (leBytes 4 e.next.toNat ++ leBytes 4 e.written.toNat) d.time } }

/-- Writes the pending records outside the once-per-second limit. -/
def Dev.persistNow (d : Dev) : Dev :=
  let (d1, ok) := d.storeWorks
  d1.persist ok

/-! ### Halts and cast-off (R434, R439) -/

/-- A halt of cast-on (R434): ERROR_N[2], and record 0x81 with the step. -/
def Dev.castHalt (d : Dev) (step : Nat) (ph : Phase) : Dev :=
  let d1 := (d.setFld .erbGlobal .ERB_GLOBAL_PIN_FATAL 1).makeRecord 430 0x81 0 none none step
  { d1.persistNow with phase := ph }

def castOffAux : CastOffCause → Nat
  | .forceOff => 1 | .discrepancy => 2 | .fatal => 3 | .managerLost => 4 | .coldReset => 5 | .powerDown => 6

/-- Cast-off, its steps in order; what the device waits for afterwards is its phase. -/
def Dev.castOffRun (d : Dev) (why : CastOffCause) : Dev :=
  -- steps 1 and 2: cores stop; every dirty line goes to memory; scratchpad contents are discarded
  let d1 := d.cleanAll
  let d2 : Dev := { d1 with
    cores := d1.cores.map (fun (e : Nat × Core) => (e.1, { e.2 with run := RunState.stopped })),
    slices := d1.slices.map (fun (e : Nat × Slice) => (e.1, { e.2 with spad := [], spadBad := [] })),
    queues := d1.queues.map (fun (e : Nat × QueueSt) => (e.1, { e.2 with started := none })) }
  -- step 4: controllers drain and enter self-refresh
  let d3 := (d2.chans.map (·.1)).foldl (fun x ch => (x.drainChan ch).setFld (.mcCtl ch) .MC_CTL_STATE 3) d2
  -- step 5: the cast-off record
  let d4 := (d3.makeRecord 430 0x80 0 none none (castOffAux why)).persistNow
  -- step 6: links down, domains Off
  let d5 := d4.cutDomains
  { d5 with
    ports := d5.ports.map (fun (e : Nat × PortSt) => (e.1, { e.2 with flushed := e.2.flushed || (e.2.cxl.isSome && e.2.up && !e.2.contained) })),
    fabric := { d5.fabric with waits := d.fabric.waits },
    phase := (match why with
      | .forceOff | .discrepancy => Phase.cut
      | .coldReset => Phase.waiting
      | _ => Phase.halted),
    dict := { d5.dict with resetReq := (match why with
      | .coldReset => some 1
      | _ => none) } }

/-! ### Settling -/

/-- Whether the device is up: cast-on has completed and nothing has ended the run. -/
def Dev.up (d : Dev) : Bool := d.phase == .running

/-- Takes one report: an error makes a record; a source or identifier fires; a fatal error runs cast-off, except
during cast-off (R454) and, during cast-on, which waits in no step but 1 and 11, is a halt. -/
def Dev.settleOne (d : Dev) (r : Report) : Dev :=
  match r with
  | .error b c u a l x => d.makeRecord b c u a l x
  | .wired n => if d.phase == .running then d.fire true n none else d
  | .message i => if d.phase == .running then d.fire false i none else d
  | .fatal =>
    match d.phase with
    | .running => d.castOffRun .fatal
    | .castOn => d.castHalt 11 .halted
    | .step1Held | .romDict => { d with phase := .halted }
    | _ => d

/-- Takes the reports that are waiting, oldest first, at most `fuel` of them. A report whose writes have to wait is taken at the end of a later
command. -/
def Dev.settleN : Nat → Dev → Dev
  | 0, d => d
  | n + 1, d =>
    match d.reports with
    | [] => d
    | r :: t =>
      let e := { d with reports := t }.settleOne r
      if e.fabric.waits = d.fabric.waits then Dev.settleN n e else d.orWait e

/-- What a command leaves once the errors it made are recorded and the sources it raised have fired. -/
def Dev.settle (d : Dev) : Dev := Dev.settleN 256 d

/-! ### The end of a command -/

/-- What a command that makes the device `d` into `e` leaves: where it has had to wait, nothing but its packets to other sockets (log entry
106); else its effect, settled, with its packets to other sockets sent and those within the socket observed. -/
def Dev.close (d e : Dev) : Dev :=
  let x := (d.orWait e).settle
  (x.observeSeen x.fabric.seen.length).sendAsks

/-- Answers the state that a command leaves. -/
def State.done (s : State) (e : Dev) : Host.Outcome State Fault Refusal := s.next (s.dev.close e)

end Sys2Proof.Machine
end

