-- ==== Sys2Proof/Machine/Slices.lean ====
section
/-! DEFINITION. Slices: slot tables (R173), re-keys (R172, R174), the background rebuild (R175 to R178), the
scratchpad carve-out (R184 to R188) and the march test (R189 to R191). -/

namespace Sys2Proof.Machine

/-! ### Maps -/

/-- Enabled slices that are powered: a slice that is Off has left the map. -/
def Dev.enabledSlices (d : Dev) : List Nat := (List.range 132).filter fun n => d.sliceRole n == 0 && !d.isOff (domOfSlice n)
def Dev.sliceQuad (n : Nat) : Nat := n / 33

/-- Slot i names the (i mod n)-th of the listed slices. -/
def cycleSlots (l : List Nat) (k : Nat) : List Nat := (List.range k).map fun i => l.getD (i % l.length) 0

/-- The slot table that cast-on fills (R173), from the enabled slices. -/
def slotTable (quartered : Bool) (l : List Nat) : List Nat :=
  if quartered then
    (List.range 4).flatMap fun q =>
      let mine := l.filter fun n => n / 33 == q
      cycleSlots (if mine.isEmpty then l else mine) 32
  else cycleSlots l 128

/-- The number of bits set below bit `k`. -/
def popNat : Nat → Nat → Nat
  | 0, _ => 0
  | k + 1, x => x % 2 + popNat k (x / 2)

/-- Whether rows are linearly independent, at most `n` of them: each leaves its highest bit in no later row. -/
def independent : Nat → List Nat → Bool
  | 0, _ => true
  | _ + 1, [] => true
  | n + 1, x :: t => x != 0 && independent n (t.map fun y => if y.testBit x.log2 then y ^^^ x else y)

/-- Every mask has at least 16 bits set and the masks are independent (R172). -/
def goodMasks (l : List (BitVec 46)) : Bool :=
  (l.all fun m => decide (16 ≤ popNat 46 m.toNat)) && independent l.length (l.map (·.toNat))

/-- The 27 masks that a 64-bit key derives (R172). -/
def masksOf (key : Word) : List (BitVec 46) := (List.range 27).map (Config.hashMask key)

/-- The key of draw `i` of the entropy source, or of the first one after it whose masks are good (R172). -/
def drawKey : Nat → Nat → Nat × Word
  | 0, i => (i + 1, (Config.entropy i).truncate 64)
  | k + 1, i => let key := (Config.entropy i).truncate 64
                if goodMasks (masksOf key) then (i + 1, key) else drawKey k (i + 1)

/-- A new key, whose masks are good within 2^64 draws (log entry 4). -/
def Dev.newKey (d : Dev) : Dev × Word :=
  let (i, key) := drawKey (2 ^ 64) d.freeCtr
  ({ d with freeCtr := i }, key)

/-- The slices that take the entries of slice `n` (R173): the others of its node, ascending, starting after it; where a quadrant has no
other, those of the whole socket, ascending. -/
def Dev.nodeAfter (d : Dev) (n : Nat) : List Nat :=
  let others := d.enabledSlices.filter (· != n)
  let l := others.filter fun k => !d.quartered || k / 33 == n / 33
  if l.isEmpty then others else l.filter (fun k => decide (n < k)) ++ l.filter fun k => decide (k < n)

/-- A slice's entries given one by one to a list of slices. -/
def giveAway (n : Nat) (dest : List Nat) : Nat → List Nat → List Nat
  | _, [] => []
  | i, s :: t => if s = n then dest.getD (i % dest.length) s :: giveAway n dest (i + 1) t else s :: giveAway n dest i t

/-- The spare slice of a retirement (R173). -/
def Dev.spareSlice (d : Dev) (n : Nat) : Option Nat :=
  (List.range 132).find? fun k => d.sliceRole k == 1 && (!d.quartered || k / 33 == n / 33)

/-! ### A unit that enters Off (R378, R382, R183) -/

/-- Registers that a unit's own Off does not clear: the always-reachable ones, epochs, the mirrors that the chief
steward keeps in every slice (R194), and the patch in force (R128). -/
def Reg.keptOff (r : Reg) : Bool :=
  r.alwaysReachable || match r with
    | .coreUcode _ | .dirEpoch _ _ | .slcCos _ _ | .slcCosCore _ _ | .dirDead _ => true
    | _ => false

/-- Nothing of the unit is kept: its arrays empty and its registers return to reset. -/
def Dev.unitOff (d : Dev) (k : Nat) : Dev :=
  let d1 : Dev := { d with csr := d.csr.filter fun e => match Reg.ofOffset e.1 with
    | some r => r.domain != some k || r.keptOff
    | none => true }
  let d2 := if k < 264 then d1.modCore k fun q => { Core.reset with
    joined := q.joined, isoStart := q.isoStart, serial := q.serial, isoTest := q.isoTest, patch := q.patch }
    else if k < 396 then d1.modSlice (k - 264) fun _ => Slice.reset
    else if k < 412 then d1
    else if k < 444 then d1
    else if k < 448 then { d1 with
      engines := Tbl.del (k - 444) d1.engines,
      queues := d1.queues.filter fun e => e.1 / 65536 != k - 444 }
    else d1
  let d3 := d2.modDom k fun x => { x with step := .settled }
  d3.setPower k 2

/-! ### The rebuild -/

def RebuildKind.code : RebuildKind → Nat
  | .none => 0 | .rekey => 1 | .powerOff => 2 | .retirement => 3 | .join => 4
/-- Retirements first, then joins, power-offs and re-keys (R175). -/
def RebuildKind.rank : RebuildKind → Nat
  | .retirement => 0 | .join => 1 | .powerOff => 2 | .rekey => 3 | .none => 4

def Dev.setHash (d : Dev) (h : Hash) : Dev := { d with hash := h }

/-- Queues a rebuild behind those of its kind. -/
def Dev.queueReq (d : Dev) (r : RebuildReq) : Dev :=
  let q := d.hash.queue
  d.setHash { d.hash with queue := q.filter (fun x => decide (x.kind.rank ≤ r.kind.rank)) ++ [r] ++ q.filter fun x => decide (r.kind.rank < x.kind.rank) }
def Dev.queueRebuild (d : Dev) (k : RebuildKind) (n : Nat) : Dev := d.queueReq ⟨k, n, false⟩

/-- Ways of a slice are carved out, or being carved out or given back (R184). -/
def Dev.carved (d : Dev) (n : Nat) : Bool :=
  d.fld (.slcSpadCtl n) .SLC_SPAD_CTL_WAYS != 0 || d.fld (.slcState n) .SLC_STATE_SPWAYS != 0

/-- A request to retire a slice whose WAYS is not 0 is held (R188). -/
def Dev.rebuildReady (d : Dev) (r : RebuildReq) : Bool :=
  !(r.kind == .retirement || r.kind == .powerOff) || !d.carved r.slice

def Dev.setSliceRole (d : Dev) (n x : Nat) : Dev := d.setFld (.slcState n) .SLC_STATE_ROLE x

/-! ### Checkpoint places (R212) -/

def Dev.ckOf (d : Dev) (t : Nat) : Nat := d.fld (.corePnl (2 * t)) .CORE_PNL_CKSLICE
/-- An enabled slice with a free pair of its four. -/
def Dev.ckFree (d : Dev) (n : Nat) : Bool :=
  d.sliceRole n == 0 && !d.isOff (domOfSlice n) && decide (((List.range 132).filter fun t => d.ckOf t == n).length < 4)
/-- The slice that takes a pair: the first after tile `t` in its quadrant, wrapping; else the lowest of the socket; else none. -/
def Dev.ckPlace (d : Dev) (t : Nat) : Nat :=
  let q := t / 33 * 33
  ((((List.range 33).map fun i => q + (t % 33 + 1 + i) % 33) ++ List.range 132).find? d.ckFree).getD 0xFF
def Dev.ckAssign (d : Dev) (t from_ : Nat) : Dev :=
  let n := d.ckPlace from_
  (d.setFld (.corePnl (2 * t)) .CORE_PNL_CKSLICE n).setFld (.corePnl (2 * t + 1)) .CORE_PNL_CKSLICE n
/-- Moves the pairs of the tiles chosen whose slice has left the map, counting from that slice's tile. -/
def Dev.ckMove (d : Dev) (which : Nat → Bool) : Dev :=
  ((List.range 132).filter which).foldl (fun x t =>
    let n := x.ckOf t
    if n ≠ 0xFF ∧ (x.sliceRole n ≠ 0 ∨ x.isOff (domOfSlice n)) then x.ckAssign t n else x) d
/-- The placement of cast-on, tile by tile. -/
def Dev.ckInit (d : Dev) : Dev :=
  (List.range 132).foldl (fun x t => x.ckAssign t t)
    ((List.range 264).foldl (fun x c => x.setFld (.corePnl c) .CORE_PNL_CKSLICE 0xFF) d)
/-- A tile no core of which belongs to a panel. -/
def Dev.ckLoose (d : Dev) (t : Nat) : Bool := (d.core (2 * t)).member.isNone && (d.core (2 * t + 1)).member.isNone

/-- REBUILD_START (R175): the first queued rebuild that is not held begins. -/
def Dev.rebuildPick (d : Dev) : Dev :=
  if d.hash.active != .none then d else
  match d.hash.queue.find? d.rebuildReady with
  | none => d
  | some r =>
    let old := d.hash.old
    let rest := d.hash.queue.erase r
    let base := fun (x : Dev) (m : HashMap) =>
      x.setHash { x.hash with
        new := m, active := r.kind, slice := r.slice, queue := rest, ptr := 0, began := x.time, pausedAt := none,
        lastAuto := if r.auto then some x.time else x.hash.lastAuto }
    match r.kind with
    | .rekey => let (d1, key) := d.newKey
                base d1 { old with key := key, masks := masksOf key }
    | .powerOff => base (d.setSliceRole r.slice 4) { old with table := giveAway r.slice (d.nodeAfter r.slice) 0 old.table }
    | .retirement =>
      let d0 := if d.sliceRole r.slice = 2 then d else d.setSliceRole r.slice 4
      match d.spareSlice r.slice with
      | some s => base (((d0.setSliceRole s 0).setPower (domOfSlice s) 0).setReg (.odmRcause (domOfSlice s)) (setF 0 .ODM_RCAUSE_WAKE 1)) { old with table := old.table.map fun x => if x = r.slice then s else x }
      | none => base d0 { old with table := giveAway r.slice (d.nodeAfter r.slice) 0 old.table }
    | .join =>
      base ((d.setSliceRole r.slice 5).setPower (domOfSlice r.slice) 0)
        { old with table := (List.zipWith (fun s0 s => if s0 = r.slice then s0 else s) d.hash.start.table old.table) }
    | .none => d

/-- A rebuild begins, and checkpoint pairs of a slice that leaves the map move; a panel's own move at its row boundary. -/
def Dev.rebuildBegin (d : Dev) : Dev := d.rebuildPick.ckMove d.ckLoose

/-- A request for a line of the old set that a rebuild migrates is in progress at some home (R176). -/
def Dev.setInUse (d : Dev) : Bool :=
  d.slices.any fun e => e.2.txns.any fun t => d.oldSet (t.req.addr.toNat / 64) == d.hash.ptr

/-- Moves the lines and entries of old set `p` of slice `s` whose home changes (R176). It waits while every entry of a new set is in use
(R167). -/
def Dev.migrate (d : Dev) (s p : Nat) : Dev :=
  let sl := d.slice s
  let leaves := fun (ln : Nat) => d.homeIn d.hash.old ln == (s, p) && d.homeIn d.hash.new ln != (s, p)
  let d1 := sl.llc.foldl (fun x e =>
    if e.set == p && leaves e.line then
      (if e.dirty || e.poison then x.makeRoom.victimOut e.line e.data e.key e.poison else x).dropLlc s e.line
    else x) d
  sl.dir.foldl (fun x e =>
    if e.set == p && leaves e.line then
      let (n2, s2) := x.homeIn x.hash.new e.line
      let y := x.makeRoom.dropDir s e.line
      ((if y.dirHasRoom n2 s2 then y.dirRoom n2 s2 else y.wait).setDir n2 { e with set := s2 })
    else x) d1

/-- What a completed rebuild does to the slice concerned; one that has failed meanwhile stays failed, and a power-off is its retirement. KIND, PTR and SLICE then show 0 (log entry 115). -/
def Dev.rebuildEnd (d : Dev) : Dev :=
  let h := d.hash
  let d1 := (d.setHash { h with old := h.new, active := .none, ptr := 0, slice := 0 }).wrapFld (.slcRebuild 0) .SLC_REBUILD_COUNT 1
  let failed := d.sliceRole h.slice = 2
  match h.active with
  | .powerOff =>
    if failed then ((d1.setHash { d1.hash with queue := d1.hash.queue.filter fun r => !(r.slice == h.slice && r.kind == .retirement) }).err
      (264 + h.slice) 0x17 h.slice).unitOff (domOfSlice h.slice)
    else (d1.setSliceRole h.slice 0).unitOff (domOfSlice h.slice)
  | .retirement =>
    let d2 := d1.err (264 + h.slice) 0x17 h.slice
    if failed then d2.unitOff (domOfSlice h.slice) else d2.setSliceRole h.slice 3
  | .join => if failed then d1 else d1.setSliceRole h.slice 0
  | _ => d1

/-- REBUILD_SET (R176): the set at the pointer migrates in every slice, and the pointer advances; it waits for requests in progress on
the set, and for a reclamation (R178). `late` says that the set finished after its bound (R177). -/
def Dev.rebuildStep (d : Dev) (late : Bool) : Dev :=
  if d.hash.active == .none || d.hash.pausedAt.isSome || d.setInUse then d else
  let d1 := (d.slices.map (·.1)).foldl (fun x s => x.migrate s d.hash.ptr) d
  let d2 := d1.setHash { d1.hash with ptr := d1.hash.ptr + 1 }
  let d3 := if late && !d2.bit (.slcRebuild 0) .SLC_REBUILD_OVERRUN then
    (d2.setFld (.slcRebuild 0) .SLC_REBUILD_OVERRUN 1).err (264 + d2.hash.slice) 0x1B d2.hash.slice else d2
  if d3.hash.ptr < 3072 then d3 else d3.rebuildEnd

/-! ### Scratchpad -/

/-- Whether a slice may carve out ways (R184). -/
def Dev.canCarve (d : Dev) (n : Nat) : Bool := [0, 3, 4, 5].contains (d.sliceRole n)

/-- A write of SLC_SPAD_CTL.WAYS (R184): reserved values and writes while BUSY change nothing. -/
def Dev.spadConvert (d : Dev) (n w : Nat) : Dev :=
  if !d.canCarve n || decide (8 < w) || d.bit (.slcSpadCtl n) .SLC_SPAD_CTL_BUSY then d
  else if w = d.fld (.slcState n) .SLC_STATE_SPWAYS then d.setFld (.slcSpadCtl n) .SLC_SPAD_CTL_WAYS w
  else d.setFlds (.slcSpadCtl n) [(.SLC_SPAD_CTL_WAYS, w), (.SLC_SPAD_CTL_BUSY, 1)]

/-- CONVERSION_DONE (R184): dirty lines of new ways are written, their lines dropped, their units read as zero;
contents of released ways are discarded. -/
def Dev.spadDone (d : Dev) (n : Nat) : Dev :=
  if !d.bit (.slcSpadCtl n) .SLC_SPAD_CTL_BUSY then d else
  if !d.canCarve n then d.setFld (.slcSpadCtl n) .SLC_SPAD_CTL_BUSY 0 else
  let w := d.fld (.slcSpadCtl n) .SLC_SPAD_CTL_WAYS
  let w0 := d.fld (.slcState n) .SLC_STATE_SPWAYS
  let out := fun (e : LlcLine) => decide (16 - w ≤ e.way)
  let d1 := (d.slice n).llc.foldl (fun x e => if out e && (e.dirty || e.poison) then x.makeRoom.victimOut e.line e.data e.key e.poison else x) d
  let keep := min w w0
  let d2 := d1.modSlice n fun s => { s with
    llc := s.llc.filter (fun e => !out e),
    spad := s.spad.filter (fun e => decide (e.1 / 0x30000 < keep)),
    spadBad := s.spadBad.filter fun u => decide (u * 16 / 0x30000 < keep) }
  (d2.setFld (.slcState n) .SLC_STATE_SPWAYS w).setFld (.slcSpadCtl n) .SLC_SPAD_CTL_BUSY 0

/-- A failed slice carves out nothing (R184); what a carve-out held is lost, and logged (R188). -/
def Dev.loseSpad (d : Dev) (n : Nat) : Dev :=
  let had := d.fld (.slcSpadCtl n) .SLC_SPAD_CTL_WAYS != 0
  let d1 := ((d.setFld (.slcState n) .SLC_STATE_SPWAYS 0).setFlds (.slcSpadCtl n) [(.SLC_SPAD_CTL_WAYS, 0), (.SLC_SPAD_CTL_BUSY, 0)]).modSlice n fun s =>
    { s with spad := [], spadBad := [] }
  if had then d1.err (264 + n) 0x19 n else d1

/-- A slice fails (R14, R178): one that the map names stays in service until its retirement, which may be running, has run; any other is Off at
once. -/
def Dev.failSlice (d : Dev) (n : Nat) : Dev :=
  let mapped := [0, 4, 5].contains (d.sliceRole n)
  let d1 := (d.setSliceRole n 2).loseSpad n
  let d2 := d1.setHash { d1.hash with queue := d1.hash.queue.filter fun r => !(r.slice == n && r.kind != .rekey) }
  if mapped then (if d.hash.active == .retirement && d.hash.slice == n then d2 else d2.queueRebuild .retirement n)
  else (d2.err (264 + n) 0x17 n).unitOff (domOfSlice n)

/-! ### March test (R189 to R191) -/

def MarchMode.code : MarchMode → Nat
  | .cMinus => 0 | .lr => 1 | .preserving => 2
def MarchMode.ofCode (n : Nat) : MarchMode := if n = 0 then .cMinus else if n = 1 then .lr else .preserving

/-- A requested test (R190): it needs a slice under test, which comes On for it (R14), and WAYS = 0 for a destructive mode. A GO while a test
runs changes nothing (log entry 123). -/
def Dev.marchStart (d : Dev) (n : Nat) (m : MarchMode) : Dev :=
  if d.bit (.slcMarchCtl n) .SLC_MARCH_CTL_BUSY then d
  else if d.sliceRole n != 3 || (m != .preserving && d.carved n) then
    d.setFld (.slcMarchStat n) .SLC_MARCH_STAT_RESULT 3
  else
    let d1 := (if d.isOff (domOfSlice n) then d.setPower (domOfSlice n) 0 else d.wake (domOfSlice n)).setFld (.slcMarchCtl n) .SLC_MARCH_CTL_BUSY 1
    if m == .preserving then d1 else d1.modSlice n fun s => { s with llc := [], dir := [] }

/-- The failing rows and columns that a march test reports: of the data sub-arrays, by sub-array, and of the tag and directory arrays, each
as rows and columns (R191). -/
def faultsOf (dataRows dataCols : List (Nat × Nat)) (tag directory : Nat × Nat) : List ArrayFault :=
  let found : List ArrayFault := dataRows.map (fun r => ⟨.data r.1, r.2, 0⟩) ++ dataCols.map (fun c => ⟨.data c.1, 0, c.2⟩) ++
    [⟨.tag, tag.1, tag.2⟩, ⟨.directory, directory.1, directory.2⟩]
  found.filter fun f => f.rows + f.cols != 0

/-- The spare rows and columns of an array (R191). -/
def spareRows : SliceArray → Nat
  | .data _ => 8 | .tag => 4 | .directory => 4
def spareCols : SliceArray → Nat
  | .data _ => 4 | .tag => 0 | .directory => 0

/-- Spares that repairs have used, listed by array: those of one array. -/
def usedOf (l : List Spares) (a : SliceArray) : Spares := (l.find? fun x => x.array == a).getD ⟨a, 0, 0⟩
/-- Failing rows and columns are replaced while spares last: the spares then used, and how many were replaced. -/
def repairOne (l : List Spares) (f : ArrayFault) : List Spares × Nat :=
  let u := usedOf l f.array
  let r := min f.rows (spareRows f.array - u.rows)
  let c := min f.cols (spareCols f.array - u.cols)
  (⟨f.array, u.rows + r, u.cols + c⟩ :: l.filter (fun x => x.array != f.array), r + c)
def repairAll (l : List Spares) (found : List ArrayFault) : List Spares × Nat :=
  found.foldl (fun p f => let (l1, k) := repairOne p.1 f
                          (l1, p.2 + k)) (l, 0)
/-- Spare rows left, fewest in any array, and spare columns left, fewest in any data sub-array (R197). -/
def rowsLeft (l : List Spares) : Nat := l.foldl (fun m x => min m (spareRows x.array - x.rows)) 4
def colsLeft (l : List Spares) : Nat := (l.filter fun x => spareCols x.array != 0).foldl (fun m x => min m (spareCols x.array - x.cols)) 4

def Dev.spares (d : Dev) (n : Nat) : List Spares := Tbl.get [] n d.dict.repairs
/-- An array by number: data sub-arrays first. -/
def arrayCode : SliceArray → Nat
  | .data i => i
  | .tag => 0xFE
  | .directory => 0xFF
/-- The repairs as the repair region and OD 0x3031:00 hold them: slice, array, spare rows and columns in use. -/
def Dev.repairBytes (d : Dev) : List Byte := d.dict.repairs.flatMap fun e => e.2.flatMap fun (s : Spares) =>
  leBytes 1 e.1 ++ leBytes 1 (arrayCode s.array) ++ leBytes 1 s.rows ++ leBytes 1 s.cols
/-- The repairs that a body of the repair region holds. -/
def repairsOf (b : List Byte) : Tbl (List Spares) :=
  (List.range (b.length / 4)).foldl (fun t i =>
    let n := fun (k : Nat) => (b.getD (4 * i + k) 0).toNat
    Tbl.set (n 0) (Tbl.get [] (n 0) t ++ [⟨if n 1 = 0xFE then .tag else if n 1 = 0xFF then .directory else .data (n 1), n 2, n 3⟩]) t) []
/-- ROWS_LEFT and COLS_LEFT follow the repair table. -/
def Dev.showSpares (d : Dev) (n : Nat) : Dev :=
  d.setFlds (.slcMarchStat n) [(.SLC_MARCH_STAT_ROWS_LEFT, rowsLeft (d.spares n)), (.SLC_MARCH_STAT_COLS_LEFT, colsLeft (d.spares n))]

/-- The repairs are written to their region (R191, R428). -/
def Dev.storeRepairs (d : Dev) : Dev :=
  match d.storeWorks with
  | (d1, true) => { d1 with dict := { d1.dict with repair := d1.dict.repair.writeBank d1.repairBytes d1.time } }
  | (d1, false) => ({ d1 with dict := { d1.dict with repair := { d1.dict.repair with fault := true } } } : Dev).err 430 0x70 0

/-- The end of a test that found failing cells, in the rows and columns listed (R191): the repairs, which the repair table records, the
counts and RESULT; true where the spares ran out. -/
def Dev.marchRepair (d : Dev) (n cells : Nat) (found : List ArrayFault) : Dev × Bool :=
  let (l, done) := repairAll (d.spares n) found
  let need := found.foldl (fun k f => k + f.rows + f.cols) 0
  let res := if done < need then 2 else if need = 0 then 0 else 1
  let d1 := if done = 0 then d else ({ d with dict := { d.dict with repairs := Tbl.set n l d.dict.repairs } } : Dev).storeRepairs
  ((d1.setFlds (.slcMarchStat n)
    [(.SLC_MARCH_STAT_FAILS, min cells (2 ^ 16 - 1)), (.SLC_MARCH_STAT_REPAIRED, min done 255), (.SLC_MARCH_STAT_RESULT, res)]).showSpares n,
   decide (done < need))

/-- MARCH_TEST_DONE: a requested test ends; a slice whose spares have run out is failed under R14, and RESULT stays. -/
def Dev.marchEnd (d : Dev) (n cells : Nat) (found : List ArrayFault) : Dev :=
  if !d.bit (.slcMarchCtl n) .SLC_MARCH_CTL_BUSY then d else
  match (d.setFld (.slcMarchCtl n) .SLC_MARCH_CTL_BUSY 0).marchRepair n cells found with
  | (d1, false) => d1
  | (d1, true) => (d1.failSlice n).setReg (.slcMarchStat n) (d1.reg (.slcMarchStat n))

end Sys2Proof.Machine
end

