-- ==== Sys2Proof/Machine/Inst.lean ====
section
/-! DEFINITION. Tenant instances of the data engines (R337, R345 to R349, R352, R353): lifecycle, mailboxes, doorbells,
queues, completions, context slots, and which queue a lane runs next. -/

namespace Sys2Proof.Machine

/-! ### Instances -/

def instState (d : Dev) (i : Nat) : Nat := d.fld (.denIctl i) .DEN_ICTL_STATE
/-- Queues granted: none before ASSIGN. -/
def instNq (d : Dev) (i : Nat) : Nat := if instState d i = 0 then 0 else d.fld (.denIctl i) .DEN_ICTL_NQ
def Dev.instCstat (d : Dev) (i x : Nat) : Dev := d.setFld (.denIctl i) .DEN_ICTL_CSTAT x
def Dev.instGo (d : Dev) (i x c : Nat) : Dev := d.setFlds (.denIctl i) [(.DEN_ICTL_STATE, x), (.DEN_ICTL_CSTAT, c)]
/-- Queues of an instance with a started descriptor. -/
def Dev.instStarted (d : Dev) (i : Nat) : List Nat := (d.queues.filter fun e => e.1 / 64 == i && e.2.started.isSome).map (·.1)
/-- A quiescing or aborting instance becomes QUIESCED once it has no started descriptor (R352). -/
def Dev.instDrained (d : Dev) (i : Nat) : Dev :=
  if (instState d i = 3 ∨ instState d i = 4) ∧ d.instStarted i = [] then d.instGo i 1 0 else d

/-- The offset of an instance page. -/
def pageOffset (i : Nat) : Nat := 0x10800000 + i / 1024 * 0x1000000 + i % 1024 * 0x1000

/-! ### Queues (R345, R346) -/

def sqHead (d : Dev) (i q : Nat) : Nat := d.fld (.qStat i q) .Q_STAT_SQHEAD
def sqTail (d : Dev) (i q : Nat) : Nat := d.fld (.qDb i q) .Q_DB_SQTAIL
def cqHead (d : Dev) (i q : Nat) : Nat := d.fld (.qDb i q) .Q_DB_CQHEAD
def sLog (d : Dev) (i q : Nat) : Nat := d.fld (.qSq i q) .Q_SQ_SLOG
def cLog (d : Dev) (i q : Nat) : Nat := d.fld (.qCq i q) .Q_CQ_CLOG
/-- Ring sizes that are not reserved; a queue with a reserved size is not served (log entry 26). -/
def ringsOk (d : Dev) (i q : Nat) : Bool :=
  decide (6 ≤ sLog d i q) && decide (sLog d i q ≤ 16) && decide (7 ≤ cLog d i q) && decide (cLog d i q ≤ 17)
/-- Entries written and not consumed. -/
def cqLevel (d : Dev) (i q : Nat) : Nat := idxLevel (d.queue (64 * i + q)).written.toNat (cqHead d i q)
def cqRoom (d : Dev) (i q : Nat) : Bool := decide (cqLevel d i q < 2 ^ cLog d i q)

/-- A new descriptor may start on this queue. -/
def newReady (d : Dev) (key : Nat) : Bool :=
  let i := key / 64
  let q := key % 64
  instState d i == 2 && decide (q < instNq d i) && d.bit (.qSq i q) .Q_SQ_EN && ringsOk d i q &&
    sqHead d i q != sqTail d i q && cqRoom d i q

/-- A ready queue: a descriptor started and not running, or a new one with room for its completion (R348). -/
def queueReady (d : Dev) (key : Nat) : Bool :=
  let s := d.queue key
  !s.stopped && match s.started with
    | some c => c.inLane.isNone
    | none => newReady d key

/-- The queues of an engine whose registers or state are not at reset. -/
def Dev.engKeys (d : Dev) (e : Nat) : List Nat :=
  let near := d.csr.filter fun x => decide (0x10800000 + e * 0x1000000 ≤ x.1) && decide (x.1 < 0x10c00000 + e * 0x1000000)
  ((d.queues.map (·.1)).filter (fun k => k / 65536 == e) ++ near.filterMap fun x => match Reg.ofOffset x.1 with
    | some (.qDb i q) => some (64 * i + q)
    | _ => none).eraseDups

/-- A write of SQTAIL (R345). -/
def Dev.writeTail (d : Dev) (i q v : Nat) : Dev :=
  if instNq d i ≤ q then d
  else if 2 ^ sLog d i q < idxLevel v (sqHead d i q) then d.countFld (.instStat i) .INST_STAT_BADDB 1
  else d.setFld (.qDb i q) .Q_DB_SQTAIL v

/-- A write of CQHEAD (R345). -/
def Dev.writeHead (d : Dev) (i q v : Nat) : Dev :=
  if instNq d i ≤ q then d else
  let l0 := cqLevel d i q
  let d1 := d.setFld (.qDb i q) .Q_DB_CQHEAD v
  d1.ringLevel (.completion (Fin.ofNat 4096 i) (Fin.ofNat 64 q)) l0 (cqLevel d1 i q)

/-- A fault stops the queue until the instance is reset (R346). -/
def Dev.queueStop (d : Dev) (key : Nat) : Dev :=
  (d.modQueue key fun s => { s with stopped := true, started := none }).countFld (.instStat (key / 64)) .INST_STAT_QERR 1

/-! ### Accesses of an engine (R338) -/

/-- The translation of an instance's addresses: its own segment table, TENANT and KEYID, and no U rule (R309). -/
def engBy (d : Dev) (e i : Nat) : WalkBy where
  who := .engine (Fin.ofNat 4 e)
  set := .setS
  segtab := d.reg (.denIseg i)
  level := .u
  uRule := false
  fixed := some (BitVec.ofNat 16 (d.fld (.denIid i) .DEN_IID_TENANT), BitVec.ofNat 11 (d.fld (.denIid i) .DEN_IID_KEYID))
  marks := true

def engKey (d : Dev) (i : Nat) : BitVec 11 := BitVec.ofNat 11 (d.fld (.denIid i) .DEN_IID_KEYID)

/-- STATUS, SUB and RESULT of a failure (R344). -/
abbrev EngEnd := Nat × Nat × Word

def lineEa (ea : Word) : Word := ea &&& ~~~ (63 : Word)

/-- Normal memory that an engine may reach: DRAM, CXL.mem or a scratchpad window (R309, R338). -/
def Dev.engTarget (d : Dev) (pa : Nat) : Bool :=
  match d.place pa with
  | .dram _ _ | .remote _ | .cxl _ | .spad _ _ _ | .remoteSpad _ => true
  | _ => false

/-- Translates one address for an engine (R309, R338). A failed walk gives its CAUSE.CODE. -/
def Dev.engXlate (d : Dev) (e i : Nat) (ea : Word) (kind : AccKind) : Dev × (Nat ⊕ EngEnd) :=
  let high := ea &&& ~~~ (0xffff : Word)
  let go := fun (x : Dev) => match x.walk (engBy d e i) ea kind with
    | (y, .ok t) => (y, .ok (if t.device || !y.engTarget t.pa then { t with mark := none, fill := none } else t))
    | r => r
  match Dev.settleTrans (.engine (Fin.ofNat 4 e)) kind go 4 d with
  | (d1, .fault c) => (d1, .inr (4, 1, high ||| BitVec.ofNat 64 c))
  | (d1, .poison error) => (d1, .inr (5, (if error then 2 else 1), lineEa ea))
  | (d1, .ok t) => (d1, if d1.engTarget t.pa && !t.device then .inl t.pa else .inr (4, 2, high))

/-- Reads bytes, line by line; stops at the first failure. -/
def Dev.engRead (d : Dev) (e i : Nat) : Nat → Word → Nat → Dev × List Byte × Option EngEnd
  | 0, _, _ => (d, [], none)
  | _ + 1, _, 0 => (d, [], none)
  | fuel + 1, ea, n =>
    let k := min n (64 - ea.toNat % 64)
    match d.engXlate e i ea .load with
    | (d1, .inr x) => (d1, [], some x)
    | (d1, .inl pa) =>
      match d1.readBytes (.engine (Fin.ofNat 4 e)) (engKey d i) 2 pa k with
      | (d2, l, poison, er) =>
        if er then (d2, [], some (5, 2, lineEa ea))
        else if poison then (d2, [], some (5, (if d2.emptySlot pa (engKey d i) then 2 else 1), lineEa ea))
        else
          let (d3, r, x) := d2.engRead e i fuel (ea + BitVec.ofNat 64 k) (n - k)
          (d3, l ++ r, x)

/-- Writes bytes, line by line; stops at the first failure. -/
def Dev.engWrite (d : Dev) (e i : Nat) : Nat → Word → List Byte → Dev × Option EngEnd
  | 0, _, _ => (d, none)
  | _ + 1, _, [] => (d, none)
  | fuel + 1, ea, l =>
    let k := 64 - ea.toNat % 64
    match d.engXlate e i ea .store with
    | (d1, .inr x) => (d1, some x)
    | (d1, .inl pa) =>
      match d1.writeBytesAs (.engine (Fin.ofNat 4 e)) (engKey d i) 2 pa (l.take k) with
      | (d2, true) => (d2, some (5, 2, lineEa ea))
      | (d2, false) => d2.engWrite e i fuel (ea + BitVec.ofNat 64 k) (l.drop k)

/-! ### Completions (R346, R347) -/

/-- The 32 bytes of a completion entry. -/
def completionBytes (c : EngCtx) (x : EngEnd) (written clog : Nat) : List Byte :=
  leBytes 8 (c.desc.getD 6 0).toNat ++ leBytes 8 x.2.2.toNat ++
    leBytes 8 (c.index.toNat % 2 ^ 16 * 2 ^ 32 + x.2.1 * 256 + x.1) ++
    leBytes 8 (bitNat (!written.testBit clog) * 2 ^ 63 + c.pos % 2 ^ 40)

/-- Ends a queue's descriptor: its completion is written, its double-word at 0x18 last, and its slot is free. -/
def Dev.engComplete (d : Dev) (key : Nat) (c : EngCtx) (x : EngEnd) : Dev :=
  let i := key / 64
  let q := key % 64
  let e := i / 1024
  let w := (d.queue key).written.toNat
  let clog := cLog d i q
  let ea := BitVec.ofNat 64 (d.fld (.qCq i q) .Q_CQ_BASE * 4096 + w % 2 ^ clog * 32)
  let b := completionBytes c x w clog
  match d.engWrite e i 2 ea (b.take 24) with
  | (d1, some _) => d1.queueStop key
  | (d1, none) =>
    match d1.engWrite e i 2 (ea + 24) (b.drop 24) with
    | (d2, some _) => d2.queueStop key
    | (d2, none) =>
      let l0 := cqLevel d2 i q
      let d3 := d2.modQueue key fun s => { s with started := none, written := s.written + 1 }
      let ring := Ring.completion (Fin.ofNat 4096 i) (Fin.ofNat 64 q)
      let d4 := d3.ringLevel ring l0 (cqLevel d3 i q)
      if bitF (c.desc.getD 0 0) 9 then d4.raiseNotice ring else d4

/-! ### Context slots (R349) -/

def engStarted (d : Dev) (e : Nat) : List (Nat × EngCtx) :=
  d.queues.filterMap fun x => if x.1 / 65536 == e then x.2.started.map fun c => (x.1, c) else none
/-- Slots in use. -/
def engSlots (d : Dev) (e : Nat) : Nat := ((engStarted d e).filter fun x => x.2.spilled.isNone).length

/-- The context to spill: the least recently run that is not running, whose instance's save area is empty, and
which is not being aborted. -/
def engVictim (d : Dev) (e : Nat) : Option (Nat × EngCtx) :=
  let ok := (engStarted d e).filter fun x => x.2.spilled.isNone && x.2.inLane.isNone && instState d (x.1 / 64) != 4 &&
    (engStarted d e).all fun y => y.1 / 64 != x.1 / 64 || y.2.spilled.isNone
  ok.foldl (fun best x => match best with
    | none => some x
    | some b => if (d.queue x.1).lastBegan < (d.queue b.1).lastBegan then some x else some b) none

def Dev.modCtx (d : Dev) (key : Nat) (f : EngCtx → EngCtx) : Dev :=
  d.modQueue key fun s => { s with started := s.started.map f }

/-- Writes a context to its instance's save area. -/
def Dev.engSpill (d : Dev) (e key : Nat) : Dev :=
  let i := key / 64
  let (n, d1) := d.draw
  let pa := d.fld (.denIsave i) .DEN_ISAVE_ADDR * 2048
  let (d2, _) := d1.writeBytesAs (.engine (Fin.ofNat 4 e)) (engKey d i) 33 pa (leBytes 2048 (Config.saveImage n))
  (d2.modCtx key fun c => { c with spilled := some n }).countFld (.denStat e) .DEN_STAT_SPILLS 1

/-- Restores a spilled context: a save area that no longer holds the image ends the descriptor with SAVE_FAULT. -/
def Dev.engRestore (d : Dev) (e key n : Nat) : Dev :=
  let i := key / 64
  let (d1, l, p, er) := d.readBytes (.engine (Fin.ofNat 4 e)) (engKey d i) 33 (d.fld (.denIsave i) .DEN_ISAVE_ADDR * 2048) 2048
  let bad := p || er || l != leBytes 2048 (Config.saveImage n)
  d1.modCtx key fun c => { c with spilled := none, status := if bad then some (0x0c, 0, 0) else c.status, done := bad }

/-! ### The choice of a lane (R348) -/

def qClass (d : Dev) (key : Nat) : Nat := d.fld (.qSq (key / 64) (key % 64)) .Q_SQ_CLASS

/-- A queue can have a slot for its next quantum. -/
def slotFor (d : Dev) (e key : Nat) : Bool :=
  match (d.queue key).started with
  | some c => c.spilled.isNone || decide (engSlots d e < 256) || (engVictim d e).isSome
  | none => decide (engSlots d e < 256) || (engVictim d e).isSome

/-- The next queue of a lane: the highest class first, within a class the least recently begun. -/
def engChoose (d : Dev) (e : Nat) : Option Nat :=
  ((d.engKeys e).filter fun k => queueReady d k && slotFor d e k).foldl (fun best k => match best with
    | none => some k
    | some b =>
      if qClass d b < qClass d k ∨ (qClass d b = qClass d k ∧ (d.queue k).lastBegan < (d.queue b).lastBegan) then some k else some b) none

def laneQueue (d : Dev) (e l : Nat) : Option Nat := ((d.engine e).lanes.find? fun x => x.1 == l).map (·.2)
def laneUp (d : Dev) (e l : Nat) : Bool := (d.fld (.denStat e) .DEN_STAT_LANES).testBit l

/-- An engine is idle: no lane runs and no queue is ready (R355). -/
def engIdle (d : Dev) (e : Nat) : Bool := (d.engine e).lanes.isEmpty && (d.engKeys e).all fun k => !queueReady d k

/-- An engine may enter Off: every share FREE or QUIESCED and no slot in use (R355). -/
def engOffOk (d : Dev) (e : Nat) : Bool :=
  engSlots d e == 0 && (d.csr.filter fun x => decide (0x10010000 + e * 0x1000000 ≤ x.1) && decide (x.1 < 0x10020000 + e * 0x1000000)).all fun x =>
    match Reg.ofOffset x.1 with
    | some (.denIctl i) => decide (instState d i ≤ 1)
    | _ => true

def EngPartial.empty : EngPartial := { chain := [], ctr := 0, ghash := 0, block := [], crc := 0, out := 0 }

/-- A lane leaves a queue's context in its slot. -/
def Dev.laneFree (d : Dev) (e l : Nat) : Dev :=
  let d1 := match laneQueue d e l with
    | some k => d.modCtx k fun c => { c with inLane := none }
    | none => d
  d1.modEngine e fun g => { g with lanes := Tbl.del l g.lanes }

/-! ### Lifecycle (R352) -/

/-- ASSIGN. -/
def Dev.instAssign (d : Dev) (i : Nat) : Dev :=
  if instState d i != 0 then d.instCstat i 2
  else if 64 < d.fld (.denIctl i) .DEN_ICTL_NQ ∨ deviceRange (d.fld (.denIsave i) .DEN_ISAVE_ADDR * 2048) = true ∨
      deviceRange (segBase (d.reg (.denIseg i)) * 4096) = true then d.instCstat i 3
  else d.instGo i 1 0

/-- ENABLE. -/
def Dev.instEnable (d : Dev) (i : Nat) : Dev := if instState d i != 1 then d.instCstat i 2 else d.instGo i 2 0
/-- QUIESCE. -/
def Dev.instQuiesce (d : Dev) (i : Nat) : Dev := if instState d i != 2 then d.instCstat i 2 else (d.instGo i 3 4).instDrained i

/-- Ends a started descriptor with ABORTED: its completion is written when there is room, else dropped. -/
def Dev.engAbort (d : Dev) (key : Nat) : Dev :=
  match (d.queue key).started with
  | none => d
  | some c =>
    if cqRoom d (key / 64) (key % 64) then d.engComplete key c (0x0a, 0, 0)
    else d.modQueue key fun s => { s with started := none }

/-- ABORT: contexts that no lane runs are at a quantum boundary already. -/
def Dev.instAbort (d : Dev) (i : Nat) : Dev :=
  if instState d i != 2 && instState d i != 3 then d.instCstat i 2 else
  let d1 := d.instGo i 4 4
  let still := (d1.instStarted i).filter fun k => match (d1.queue k).started with
    | some c => c.inLane.isNone
    | none => false
  (still.foldl (fun x k => x.engAbort k) d1).instDrained i

/-- What RESET clears. -/
def Dev.instClear (d : Dev) (i : Nat) : Dev :=
  let o := pageOffset i
  let lo := 0x1000 + i * 64
  ({ d with
      csr := d.csr.filter (fun x => !(decide (o ≤ x.1) && decide (x.1 < o + 0x1000))),
      queues := d.queues.filter (fun x => x.1 / 64 != i),
      events := { d.events with notices := d.events.notices.filter fun x => !(decide (lo ≤ x.1) && decide (x.1 < lo + 64)) } }).setFld
    (.denImbox i) .DEN_IMBOX_SPOOF 0

/-- RESET. -/
def Dev.instReset (d : Dev) (i : Nat) : Dev :=
  if instState d i = 1 then (d.instClear i).instCstat i 0 else d.instCstat i 1

/-- REMOVE. -/
def Dev.instRemove (d : Dev) (i : Nat) : Dev :=
  if instState d i = 1 then
    ((((d.instClear i).setReg (.denIid i) 0).setReg (.denIseg i) 0).setReg (.denIsave i) 0).setReg (.denIctl i) 0
  else d.instCstat i 1

/-! ### Mailboxes (R353) -/

/-- The tenant's mailbox source fires (R373). -/
def Dev.tenantMail (d : Dev) (i : Nat) : Dev :=
  if d.bit (.evcInstMsg i) .EVC_INST_MSG_EN then d.report (.message (d.fld (.evcInstMsg i) .EVC_INST_MSG_BASE + 64)) else d
def Dev.mailTxGo (d : Dev) (i : Nat) : Dev := (d.setFld (.mboxCtl i) .MBOX_CTL_TXFULL 1).wire i
def Dev.mailTxAck (d : Dev) (i : Nat) : Dev := (d.setFld (.mboxCtl i) .MBOX_CTL_TXFULL 0).tenantMail i
def Dev.mailRxGo (d : Dev) (i : Nat) : Dev := (d.setFld (.mboxCtl i) .MBOX_CTL_RXFULL 1).tenantMail i
def Dev.mailRxAck (d : Dev) (i : Nat) : Dev := (d.setFld (.mboxCtl i) .MBOX_CTL_RXFULL 0).wire i

end Sys2Proof.Machine
end

