-- ==== Sys2Proof/Machine/Eng.lean ====
section
/-! DEFINITION. Data-engine operations (R339 to R344, R348, R351, R474): descriptor checks, one quantum of each
operation, the end of a quantum and its replay. A quantum ends at its byte bound, after the units that fit in its 4 µs, or at the end
of the descriptor; results do not depend on where quanta end (R350). -/

namespace Sys2Proof.Machine

/-! ### Discarding cached copies and marking granules zero (R92, R95, R286, R343) -/

/-- Removes every cached copy of a line without write-back. -/
def Dev.purgeLine (d : Dev) (ln : Nat) : Dev :=
  let (n, _) := d.home ln
  let d0 := if d.mustWait .iow ln then d.wait else d
  let m := { d.packetTo (.io 0) (ln * 64) 0 0 0 0 false with src := sliceNode n }
  let d1 := match (d0.slice n).dirEntry ln with
    | some e => (d0.snoopAll m e.holders none .inval e.excl).1
    | none => d0
  (d1.dropLlc n ln).dropDir n ln

/-- Whether an address lies in DRAM of some socket, and can be reached: none where it does not. -/
def Dev.dramReach (d : Dev) (pa : Nat) : Option Bool :=
  match d.place pa with
  | .dram ch _ => some (!d.chanFailed ch)
  | .remote s => some (d.sockUp s)
  | _ => none

/-- Zeros go to the lines of a granule of another socket's memory, as full-line writes. -/
def Dev.farZero (d : Dev) (g : Nat) : Dev :=
  (List.range 64).foldl (fun x i => x.farPost .iow (x.packetTo (.io 0) ((g * 64 + i) * 64) 0 fullMask 0 0 false)) d

/-- Marks the granule of `pa` zero in its home channel's map, discarding every cached copy. -/
def Dev.zeroGranule (d : Dev) (pa : Nat) : Dev :=
  let g := pa / 4096
  let d1 := (List.range 64).foldl (fun x i => (x.purgeLine (g * 64 + i)).noteOutside none (g * 64 + i)) d
  match d1.place pa with
  | .dram ch _ => (d1.wake (domOfChan ch)).mcZero ch g
  | .remote _ => d1.farZero g
  | _ => { d1 with mem := d1.mem.filter (fun e => e.1 / 4096 != g), lines := d1.lines.filter fun e => e.1 / 64 != g }

/-! ### Descriptors (R339, R340, R344) -/

abbrev Desc := List Word
def Desc.w (x : Desc) (n : Nat) : Word := x.getD n 0
def descOp (x : Desc) : Nat := getF (Desc.w x 0) ⟨7, 0⟩
def descSrc (x : Desc) : Word := Desc.w x 1
def descDst (x : Desc) : Word := Desc.w x 2
def descDlen (x : Desc) : Nat := getF (Desc.w x 3) ⟨63, 32⟩
def descLen (x : Desc) : Nat := getF (Desc.w x 3) ⟨31, 0⟩
def descArg0 (x : Desc) : Word := Desc.w x 4

/-- Whether two ranges share an effective address. -/
def overlap (a : Word) (n : Nat) (b : Word) (m : Nat) : Bool :=
  decide (0 < n) && decide (0 < m) && (decide ((b - a).toNat < n) || decide ((a - b).toNat < m))

def gcmOp (op : Nat) : Bool := op == 8 || op == 9
def xtsOp (op : Nat) : Bool := op == 10 || op == 11
def cryptoOp (op : Nat) : Bool := gcmOp op || xtsOp op

/-- Bytes that an operation writes at DST, as far as overlap is concerned. -/
def destLen (x : Desc) : Nat :=
  match descOp x with
  | 6 => 32
  | 7 => 64
  | 12 | 13 => descDlen x
  | _ => descLen x

/-- Reserved fields, unused fields, overlap and alignment (R340, R341, R344). -/
def badField (x : Desc) : Bool :=
  let op := descOp x
  let w0 := Desc.w x 0
  let usesSrc := !(op == 2 || op == 4)
  let usesDst := !(op == 3 || op == 5)
  let usesDlen := op == 12 || op == 13
  getF w0 ⟨63, 60⟩ != 0 || getF w0 ⟨31, 27⟩ != 0 || getF w0 ⟨15, 10⟩ != 0 || bitF w0 8 || Desc.w x 7 != 0 || Desc.w x 5 != 0 ||
    (!usesSrc && descSrc x != 0) || (!usesDst && descDst x != 0) || (!usesDlen && descDlen x != 0) ||
    (match op with
     | 2 | 3 | 8 | 9 | 10 | 11 => false
     | 5 => getF (descArg0 x) ⟨63, 32⟩ != 0
     | 12 => decide (2 < (descArg0 x).toNat)
     | _ => descArg0 x != 0) ||
    (cryptoOp op && getF (descArg0 x) ⟨6, 0⟩ != 0) ||
    (usesSrc && usesDst && overlap (descSrc x) (descLen x) (descDst x) (destLen x)) ||
    (op == 3 && overlap (descSrc x) (descLen x) (descArg0 x) (descLen x))

/-- The checks of R344, in order; R341's follow when the crypto block has been read. -/
def descEnd (d : Dev) (i : Nat) (x : Desc) : Option EngEnd :=
  let w0 := Desc.w x 0
  if getF w0 ⟨59, 48⟩ != i then some (1, 1, 0)
  else if getF w0 ⟨47, 32⟩ != d.fld (.denIid i) .DEN_IID_TENANT then some (1, 2, 0)
  else if getF w0 ⟨26, 16⟩ != d.fld (.denIid i) .DEN_IID_KEYID then some (1, 3, 0)
  else if descOp x = 0 ∨ 13 < descOp x then some (2, 0, 0)
  else if badField x then some (3, 0, 0)
  else none

/-! ### Crypto blocks (R341) -/

def blkByte (b : List Byte) (n : Nat) : Nat := (b.getD n 0).toNat
def blkKey (b : List Byte) (o : Nat) : List Byte := (b.drop o).take (if blkByte b 0x5c = 0 then 16 else 32)
def blkZero (b : List Byte) (o n : Nat) : Bool := ((b.drop o).take n).all (· == 0)
def blkAadLen (b : List Byte) : Nat := leNat ((b.drop 0x58).take 4)
def blkAad (b : List Byte) : Word := BitVec.ofNat 64 (leNat ((b.drop 0x50).take 8))

/-- R341's constraints. -/
def badBlock (x : Desc) (b : List Byte) : Bool :=
  decide (1 < blkByte b 0x5c) || !blkZero b 0x5e 2 || !blkZero b 0x70 16 ||
    if gcmOp (descOp x) then
      !blkZero b 0x20 32 || !blkZero b 0x4c 4 || decide (2 ^ 20 < blkAadLen b) || blkByte b 0x5d != 0
    else
      let du := blkByte b 0x5d
      decide (du < 9) || decide (12 < du) || blkKey b 0 == blkKey b 0x20 || descLen x % 2 ^ du != 0

/-- The hash subkey, and the block whose low 32 bits count (SP 800-38D with a 12-byte IV). -/
def gcmH (b : List Byte) : BitVec 128 := BitVec.ofNat 128 (beNat (aesEnc (aesKeys (blkKey b 0)) (List.replicate 16 0)))
def gcmJ0 (b : List Byte) : BitVec 128 := BitVec.ofNat 128 (beNat ((b.drop 0x40).take 12) * 2 ^ 32 + 1)
def inc32 (c : BitVec 128) : BitVec 128 := (c &&& ~~~ (0xffffffff : BitVec 128)) ||| ((c + 1) &&& 0xffffffff)

/-! ### Starting a descriptor -/

/-- Reads the crypto block, and GCM's additional data, at the first quantum. -/
def Dev.engCrypto (d : Dev) (e i : Nat) (c : EngCtx) : Dev × EngCtx :=
  match d.engRead e i 3 (descArg0 c.desc) 128 with
  | (d1, _, some x) => (d1, { c with status := some x })
  | (d1, b, none) =>
    if badBlock c.desc b then (d1, { c with status := some (3, 0, 0) })
    else if gcmOp (descOp c.desc) then
      match d1.engRead e i (blkAadLen b / 64 + 2) (blkAad b) (blkAadLen b) with
      | (d2, _, some x) => (d2, { c with status := some x })
      | (d2, a, none) => (d2, { c with st := { c.st with block := b, ctr := inc32 (gcmJ0 b), ghash := ghash (gcmH b) 0 a } })
    else (d1, { c with st := { c.st with block := b } })

/-- A slot is made free by a spill where none is (R349). -/
def Dev.engRoom (d : Dev) (e : Nat) : Dev :=
  if engSlots d e < 256 then d else match engVictim d e with
    | some v => d.engSpill e v.1
    | none => d

/-- A lane begins a quantum of queue `key`: a new descriptor is read and checked, a spilled one restored. -/
def Dev.engBegin (d : Dev) (e l key : Nat) : Dev :=
  let i := key / 64
  let q := key % 64
  let d0 := (d.modEngine e fun g => { g with order := g.order + 1 }).modQueue key fun s => { s with lastBegan := (d.engine e).order + 1 }
  let held := fun (c : EngCtx) => { c with inLane := some l, check := (c.pos, c.st), atStart := c.status, fails := 0, done := c.status.isSome }
  let hold := fun (x : Dev) => (x.modCtx key held).modEngine e fun g => { g with lanes := Tbl.set l key g.lanes }
  match (d0.queue key).started with
  | some c => match c.spilled with
    | some n => hold ((d0.engRoom e).engRestore e key n)
    | none => hold d0
  | none =>
    let head := sqHead d0 i q
    let ea := BitVec.ofNat 64 (d0.fld (.qSq i q) .Q_SQ_BASE * 4096 + head % 2 ^ sLog d0 i q * 64)
    match (d0.engRoom e).engRead e i 2 ea 64 with
    | (d1, _, some _) => d1.queueStop key
    | (d1, b, none) =>
      let desc : Desc := (chunks 8 8 b).map fun x => BitVec.ofNat 64 (leNat x)
      let st := descEnd d1 i desc
      let st0 := { EngPartial.empty with crc := BitVec.ofNat 32 (descArg0 desc).toNat }
      let c : EngCtx := {
        index := BitVec.ofNat 32 head, desc := desc, pos := 0, st := st0, status := st, spilled := none, done := false,
        inLane := none, check := (0, EngPartial.empty), atStart := none, fails := 0, began := d.time.toNat }
      let d2 := match st with
        | some (1, _, _) => d1.countFld (.denImbox i) .DEN_IMBOX_SPOOF 1
        | _ => d1
      let (d3, c3) := if st.isNone && cryptoOp (descOp desc) then d2.engCrypto e i c else (d2, c)
      hold ((d3.wrapFld (.qStat i q) .Q_STAT_SQHEAD 1).modQueue key fun s => { s with started := some c3 })

/-! ### Units of each operation -/

abbrev EngStep := Dev → EngCtx → Dev × EngCtx

def EngCtx.finish (c : EngCtx) (r : Word) : EngCtx := { c with status := some (0, 0, r) }
def EngCtx.fail (c : EngCtx) (x : EngEnd) : EngCtx := { c with status := some x }
/-- Advances by `k` bytes, and ends with RESULT `r` at the last byte. -/
def EngCtx.advance (c : EngCtx) (k : Nat) (r : Word) : EngCtx :=
  let c1 := { c with pos := c.pos + k }
  if c1.pos = descLen c.desc then c1.finish r else c1

def eaPlus (a : Word) (n : Nat) : Word := a + BitVec.ofNat 64 n

/-- One unit read at SRC: its bytes reach `f`. -/
def readUnit (e i : Nat) (unit : Nat) (f : Dev → EngCtx → List Byte → Dev × EngCtx) : EngStep := fun d c =>
  let k := min unit (descLen c.desc - c.pos)
  match d.engRead e i (k / 64 + 2) (eaPlus (descSrc c.desc) c.pos) k with
  | (d1, _, some x) => (d1, c.fail x)
  | (d1, b, none) => f d1 c b

/-- Bytes written at DST and the present offset; the unit ends. -/
def writeUnit (e i : Nat) (d : Dev) (c : EngCtx) (b : List Byte) (r : Word) : Dev × EngCtx :=
  match d.engWrite e i (b.length / 64 + 2) (eaPlus (descDst c.desc) c.pos) b with
  | (d1, some x) => (d1, c.fail x)
  | (d1, none) => (d1, c.advance b.length r)

def copyStep (e i : Nat) : EngStep := readUnit e i 64 fun d c b => writeUnit e i d c b 0

def fillStep (e i : Nat) : EngStep := fun d c =>
  let k := min 64 (descLen c.desc - c.pos)
  let pat := leBytes 8 (descArg0 c.desc).toNat
  writeUnit e i d c ((List.range k).map fun j => pat.getD ((c.pos + j) % 8) 0) 0

/-- The offset of the first difference of two lists of equal length. -/
def firstDiff : List Byte → List Byte → Nat → Option Nat
  | x :: xs, y :: ys, n => if x = y then firstDiff xs ys (n + 1) else some n
  | _, _, _ => none

def compareStep (e i : Nat) : EngStep := readUnit e i 64 fun d c b =>
  match d.engRead e i 3 (eaPlus (descArg0 c.desc) c.pos) b.length with
  | (d1, _, some x) => (d1, c.fail x)
  | (d1, b2, none) =>
    match firstDiff b b2 c.pos with
    | some n => (d1, { c with pos := c.pos + b.length, status := some (0, 0, BitVec.ofNat 64 n) })
    | none => (d1, c.advance b.length (BitVec.allOnes 64))

/-- ZERO: a whole granule in DRAM is marked, every other byte is written (R343). -/
def zeroStep (e i : Nat) : EngStep := fun d c =>
  let a := eaPlus (descDst c.desc) c.pos
  let left := descLen c.desc - c.pos
  let bytes := fun (x : Dev) => writeUnit e i x c (List.replicate (min (min 64 left) (4096 - a.toNat % 4096)) 0) 0
  if a.toNat % 4096 = 0 ∧ 4096 ≤ left then
    match d.engXlate e i a .store with
    | (d1, .inr x) => (d1, c.fail x)
    | (d1, .inl pa) => match d1.dramReach pa with
      | some true => (d1.zeroGranule pa, c.advance 4096 0)
      | some false => (d1, c.fail (5, 2, lineEa a))
      | none => bytes d1
  else bytes d

def crcStep (e i : Nat) : EngStep := readUnit e i 64 fun d c b =>
  let r := crc32c c.st.crc b
  (d, { c with st := { c.st with crc := r } }.advance b.length (r.zeroExtend 64))

def shaChain (k : ShaKind) (c : EngCtx) : List (BitVec k.w) :=
  if c.st.chain.isEmpty then k.init else c.st.chain.map fun x => BitVec.ofNat k.w x.toNat

/-- The digest written at DST. -/
def shaEnd (e i : Nat) (k : ShaKind) (d : Dev) (c : EngCtx) (h : List (BitVec k.w)) (tail : List Byte) : Dev × EngCtx :=
  let out := shaDigest k (shaBlocks k h (tail ++ shaPad k (descLen c.desc)))
  match d.engWrite e i 3 (descDst c.desc) out with
  | (d1, some x) => (d1, c.fail x)
  | (d1, none) => (d1, { c with pos := descLen c.desc }.finish 0)

def shaStep (e i : Nat) (k : ShaKind) : EngStep := readUnit e i (2 * k.w) fun d c b =>
  let h := shaChain k c
  if b.length < 2 * k.w then shaEnd e i k d c h b
  else
    let h1 := shaBlocks k h b
    let c1 := { c with pos := c.pos + b.length, st := { c.st with chain := h1.map fun x => x.zeroExtend 64 } }
    if c1.pos = descLen c.desc then shaEnd e i k d c1 h1 [] else (d, c1)

/-- The GCM tag once the last unit is done. -/
def gcmTag (c : EngCtx) : List Byte :=
  let b := c.st.block
  let lens := beBytes 8 (blkAadLen b * 8) ++ beBytes 8 (descLen c.desc * 8)
  let s := ghash (gcmH b) c.st.ghash lens
  xorBytes (beBytes 16 s.toNat) (aesEnc (aesKeys (blkKey b 0)) (beBytes 16 (gcmJ0 b).toNat))

def gcmEnd (e i : Nat) (enc : Bool) (d : Dev) (c : EngCtx) : Dev × EngCtx :=
  if enc then
    match d.engWrite e i 2 (eaPlus (descArg0 c.desc) 0x60) (gcmTag c) with
    | (d1, some x) => (d1, c.fail x)
    | (d1, none) => (d1, c.finish 0)
  else (d, if gcmTag c = (c.st.block.drop 0x60).take 16 then c.finish 0 else c.fail (7, 0, 0))

def gcmStep (e i : Nat) (enc : Bool) : EngStep := fun d c =>
  if c.pos = descLen c.desc then gcmEnd e i enc d c else
  readUnit e i 16 (fun d c b =>
    let out := gcmCtr (aesKeys (blkKey c.st.block 0)) 1 c.st.ctr b
    match d.engWrite e i 2 (eaPlus (descDst c.desc) c.pos) out with
    | (d1, some x) => (d1, c.fail x)
    | (d1, none) =>
      let st1 := { c.st with ctr := inc32 c.st.ctr, ghash := ghash (gcmH c.st.block) c.st.ghash (if enc then out else b) }
      let c1 := { c with pos := c.pos + b.length, st := st1 }
      if c1.pos = descLen c.desc then gcmEnd e i enc d1 c1 else (d1, c1)) d c

def xtsStep (e i : Nat) (enc : Bool) : EngStep := fun d c =>
  let b := c.st.block
  let unit := 2 ^ blkByte b 0x5d
  if c.pos = descLen c.desc then (d, c.finish 0) else
  readUnit e i unit (fun d c x =>
    let tweak := (leNat ((b.drop 0x40).take 16) + c.pos / unit) % 2 ^ 128
    writeUnit e i d c (aesXts enc (blkKey b 0) (blkKey b 0x20) tweak x) 0) d c

/-- Output written from DST up; the descriptor ends with `x` unless the writing fails. -/
def streamEnd (e i : Nat) (d : Dev) (c : EngCtx) (out : List Byte) (pos : Nat) (x : EngEnd) : Dev × EngCtx :=
  match d.engWrite e i (out.length / 64 + 2) (descDst c.desc) out with
  | (d1, some y) => (d1, c.fail y)
  | (d1, none) => (d1, { c with pos := pos, status := some x, st := { c.st with out := out.length } })

def deflateStep (e i : Nat) : EngStep := readUnit e i 64 fun d c b =>
  let c1 := { c with pos := c.pos + b.length, st := { c.st with block := c.st.block ++ b } }
  if c1.pos < descLen c.desc then (d, c1) else
    let level := (descArg0 c.desc).toNat
    let out := deflate level c1.st.block
    let cap := descDlen c.desc
    if cap < out.length then
      streamEnd e i d c1 (out.take cap) (min (Config.deflateConsumed level cap) c1.pos) (8, 0, BitVec.ofNat 64 cap)
    else streamEnd e i d c1 out c1.pos (0, 0, BitVec.ofNat 64 out.length)

def inflateStep (e i : Nat) : EngStep := readUnit e i 64 fun d c b =>
  let src := c.st.block ++ b
  let n := src.length
  let cap := descDlen c.desc
  let c1 := { c with pos := n, st := { c.st with block := src } }
  match inflate cap src with
  | .fin out rest => streamEnd e i d c1 out.reverse (bytesTouched n rest) (0, 0, BitVec.ofNat 64 out.length)
  | .over out rest => streamEnd e i d c1 out.reverse (bytesTouched n rest) (8, 0, BitVec.ofNat 64 cap)
  | .bad out rest =>
    let off := n - (rest.length + 7) / 8
    streamEnd e i d c1 out.reverse off (9, 0, BitVec.ofNat 64 off)
  | .more out => if n < descLen c.desc then (d, c1) else streamEnd e i d c1 out.reverse n (9, 0, BitVec.ofNat 64 n)

/-! ### Quanta (R348) -/

/-- Units until the descriptor ends or 16 KiB are consumed. -/
def quantumLoop (step : EngStep) (start : Nat) : Nat → Dev → EngCtx → Dev × EngCtx
  | 0, d, c => (d, c)
  | n + 1, d, c =>
    if c.status.isSome || decide (start + 16384 ≤ c.pos) then (d, c) else
      let (d1, c1) := step d c
      quantumLoop step start n d1 c1

/-- Runs the quantum of the descriptor that queue `key` has on a lane: at least one of the units that fit in its time. -/
def Dev.quantum (d : Dev) (key units : Nat) (step : EngStep) : Dev :=
  match (d.queue key).started with
  | none => d
  | some c =>
    let (d1, c1) := quantumLoop step c.pos (min (max 1 units) 1025) d c
    d1.modCtx key fun _ => { c1 with done := true }

/-- A quantum of an operation on a lane: the lane goes on with its descriptor, or takes a queue whose next
descriptor has this operation. Where the lane has none to run, nothing happens. -/
def Dev.engRun (d : Dev) (e l op units : Nat) (step : Nat → EngStep) : Dev :=
  if !d.isOn (domOfEngine e) || !laneUp d e l then d else
  let runs := fun (x : Dev) (key : Nat) => match (x.queue key).started with
    | some c => descOp c.desc == op && c.inLane == some l
    | none => false
  match laneQueue d e l with
  | some key => match (d.queue key).started with
    | some c => if c.done || descOp c.desc != op then d else d.quantum key units (step (key / 64))
    | none => d
  | none => match engChoose d e with
    | none => d
    | some key =>
      let d1 := d.engBegin e l key
      if runs d1 key then d1.quantum key units (step (key / 64)) else d

/-- The lane takes its next queue, if there is one. -/
def Dev.laneNext (d : Dev) (e l : Nat) : Dev :=
  if !laneUp d e l then d else match engChoose d e with
    | some key => d.engBegin e l key
    | none => d

/-- QUANTUM_END: the descriptor completes, is switched, or goes on (R346, R348, R352). -/
def Dev.quantumEnd (d : Dev) (e l : Nat) : Dev :=
  if !d.isOn (domOfEngine e) then d else
  match laneQueue d e l with
  | none => d.laneNext e l
  | some key => match (d.queue key).started with
    | none => (d.laneFree e l).laneNext e l
    | some c =>
      if !c.done then d else
      match c.status with
      | some x => (((d.laneFree e l).engComplete key c x).instDrained (key / 64)).laneNext e l
      | none =>
        if instState d (key / 64) = 4 then (((d.laneFree e l).engAbort key).instDrained (key / 64)).laneNext e l
        else
          let go := match engChoose d e with
            | some k => decide (qClass d key ≤ qClass d k)
            | none => false
          if go || !laneUp d e l then (d.laneFree e l).laneNext e l
          else (d.modCtx key fun c => { c with done := false, check := (c.pos, c.st), atStart := none, fails := 0 }).modEngine e (fun g => { g with order := g.order + 1 })
            |>.modQueue key fun s => { s with lastBegan := (d.engine e).order + 1 }

/-- SCRATCHPAD_STARVE: a lane's access at `ea` has waited for the scratchpad of slice `n` (R186). Beyond STARVE_T it is counted, and at the
end-to-end timeout it ends with an error response, which ends the descriptor. -/
def Dev.spadStarve (d : Dev) (n us e l : Nat) (ea : Word) : Dev :=
  let t := d.fld (.slcSpadCtl n) .SLC_SPAD_CTL_STARVE_T
  let d1 := if (if t = 0 then 16 else t) < us then d.countFld (.slcSpadStat n) .SLC_SPAD_STAT_STARVE 1 else d
  if us < d.od 0x4010 2 2000 then d1 else
  match laneQueue d1 e l with
  | some key => d1.modCtx key fun c => { c with status := some (5, 2, lineEa ea), done := true }
  | none => d1

/-! ### Checks that fail (R351) -/

/-- The last lane has left: every started descriptor ends, every queue stops, the error is uncorrected-contained. -/
def Dev.engDead (d : Dev) (e : Nat) : Dev :=
  let d1 := (engStarted d e).foldl (fun x p =>
    ((x.modCtx p.1 fun c => { c with inLane := none }).countFld (.denErr e) .DEN_ERR_FAILED 1).engComplete p.1 p.2 (0x0b, 0, 0)) d
  let d2 := d1.modEngine e fun g => { g with lanes := [] }
  let d3 := (d2.engKeys e).foldl (fun x k => if (x.queue k).stopped then x else x.queueStop k) d2
  (d3.setFld (.denStat e) .DEN_STAT_LANES 0).err (424 + e) 0x52 e

/-- A lane leaves service. -/
def Dev.laneOut (d : Dev) (e l : Nat) : Dev :=
  let m := d.fld (.denStat e) .DEN_STAT_LANES
  let d1 := ((d.laneFree e l).setFld (.denStat e) .DEN_STAT_LANES (m - if m.testBit l then 2 ^ l else 0)).wire (4180 + e)
  let d2 := d1.err (424 + e) 0x51 e
  if d2.fld (.denStat e) .DEN_STAT_LANES = 0 then d2.engDead e else d2

/-- QUANTUM_REPLAY: a check failed within the lane's quantum, which runs again from where it began; what refused the descriptor before it still does. -/
def Dev.quantumReplay (d : Dev) (e l : Nat) : Dev :=
  match laneQueue d e l with
  | none => d
  | some key => match (d.queue key).started with
    | none => d
    | some c =>
      if c.fails = 0 then
        let recent := ((l, d.time) :: (d.engine e).fails).filter fun x => !d.past x.2 (ms 10000) || x.2 == d.time
        let d1 := (d.modCtx key fun c => { c with pos := c.check.1, st := c.check.2, status := c.atStart, fails := 1, done := c.atStart.isSome }).countFld
          (.denErr e) .DEN_ERR_REPLAY 1
        let d2 := d1.modEngine e fun g => { g with fails := recent }
        if 3 ≤ (recent.filter fun x => x.1 == l).length then d2.laneOut e l else d2
      else ((d.modCtx key fun c => { c with status := some (0x0b, 0, 0), fails := c.fails + 1, done := true }).countFld
        (.denErr e) .DEN_ERR_FAILED 1).err (424 + e) 0x50 e

end Sys2Proof.Machine
end

