-- ==== Sys2Proof/Machine/Power.lean ====
section
/-! DEFINITION. Power domains (R377 to R385): requests, refusals, the entries to Retention and Off, wakes. An event that
a duration governs carries the passing of that duration (log entry 27). -/

namespace Sys2Proof.Machine

/-- A domain is idle (R379). -/
def Dev.domIdle (d : Dev) (k : Nat) : Bool :=
  if coreDom k then match (d.core k).run with
    | .waiting _ => true
    | _ => false
  else if sliceDom k then (d.slice (k - 264)).txns.isEmpty && (d.slice (k - 264)).waitq.isEmpty
  else if engineDom k then engIdle d (k - 444)
  else true

/-- A core that has joined its panel and is not lost to it (R205, CORE_PNL.MEMBER). -/
def Dev.isPanelMember (d : Dev) (c : Nat) : Bool :=
  match (d.core c).member with
  | some m => m.phase != .named && m.phase != .orphan && m.phase != .lost
  | none => false

/-- The first refuser of an entry, in code order (R380). -/
def Dev.refuser (d : Dev) (k : Nat) (off : Bool) : Option Nat :=
  let lc := d.lcore? k
  if coreDom k && (((lc.map fun l => d.evAny l).getD false) || (d.evPending k).isSome || (d.vpPending k).isSome) then some 1
  else if sliceDom k && off && d.carved (k - 264) then some 2
  else if coreDom k && d.isPanelMember k then some 3
  else if engineDom k && off && !engOffOk d (k - 444) then some 4
  else if coreDom k && (d.core k).debug then some 5
  else if d.bit (.pwrDom k) .PWR_DOM_HOLD then some 6
  else if d.bit (.pwrDom k) .PWR_DOM_SFAULT then some 7
  else none

def Dev.refused (d : Dev) (k code : Nat) : Dev :=
  ((d.modDom k fun x => { x with refusals := Tbl.put 0 code (Tbl.get 0 code x.refusals + 1) x.refusals }).setFld (.pwrDom k) .PWR_DOM_LASTREF code).countFld
    (.pwrDom k) .PWR_DOM_REFUSED 1

/-- An entry begins: it is refused, or its drain starts. A core that runs is waited for (R379). -/
def Dev.beginEntry (d : Dev) (k : Nat) (off : Bool) : Dev :=
  if coreDom k && !d.domIdle k then d else
  match d.refuser k off with
  | some code => d.refused k code
  | none =>
    let d1 := d.modDom k fun x => { x with step := if off then .drainOff else .drainRet, latest := none }
    if sliceDom k && off then d1.queueRebuild .powerOff (k - 264) else d1

/-- The latest request is acted on when the domain is settled. -/
def Dev.actLatest (d : Dev) (k : Nat) : Dev :=
  if (d.dom k).step != .settled then d else
  match (d.dom k).latest with
  | none | some .on => d
  | some .retention => if d.isOn k then d.beginEntry k false else d
  | some .off =>
    if d.isOff k then d
    else (d.wake k).beginEntry k true

/-- A slice under test that software wants in service again is queued for a join, once its test has ended (R190, log entry 107). -/
def Dev.returnSlice (d : Dev) (n : Nat) : Dev :=
  if d.sliceRole n != 3 || d.bit (.slcMarchCtl n) .SLC_MARCH_CTL_BUSY || d.hash.queue.any (fun r => r.kind == .join && r.slice == n) ||
    (d.hash.active == .join && d.hash.slice == n) then d
  else d.queueRebuild .join n

/-- DOMAIN_REQUEST: a write of REQ (R379, R381). -/
def Dev.requestDomain (d : Dev) (k : Nat) (st : PowerState) : Dev :=
  if !requestable k then d else
  let code := match st with
    | .on => 0
    | .retention => 1
    | .off => 2
  let d1 := (d.setFld (.pwrDom k) .PWR_DOM_REQ code).modDom k fun x => { x with latest := some st }
  match (d1.dom k).step, st with
  | .settled, .on => if sliceDom k then d1.returnSlice (k - 264) else d1
  | .settled, _ => d1.actLatest k
  | _, .on => d1.abortEntry k
  | _, _ => d1

/-- A tile is no longer a holder of lines that neither of its cores holds (R382). -/
def Dev.forgetCore (d : Dev) (c : Nat) : Dev :=
  let t := tileOfCore c
  let keeps := fun (ln : Nat) => ((d.core (2 * t)).l2Line ln).isSome || ((d.core (2 * t + 1)).l2Line ln).isSome
  { d with slices := d.slices.map fun (e : Nat × Slice) =>
      (e.1, { e.2 with dir := (e.2.dir.map fun x =>
        if keeps x.line then x else { x with tiles := x.tiles.filter (· != t) }).filter fun x => !x.holders.isEmpty }) }

/-- AUTOMATIC_RETENTION: a domain that has been idle for its idle time enters Retention, unless refused. -/
def Dev.autoRetention (d : Dev) (k : Nat) : Dev :=
  if d.bit (.pwrDom k) .PWR_DOM_AUTO && requestable k && d.isOn k && d.domIdle k && (d.dom k).step == .settled then
    match d.refuser k false with
    | some code => d.refused k code
    | none => d.setPower k 1
  else d

/-- The conditions under which the chief steward lets one of its own domains enter Retention (R247, R290). A skein's ports are down or
in L1, in which no request of theirs is outstanding (R383). -/
def Dev.chiefRetains (d : Dev) (k : Nat) : Bool :=
  if 396 ≤ k ∧ k < 412 then
    let c := d.chan (k - 396)
    c.wq.isEmpty && (c.reads.all (·.issued)) && c.fill.isEmpty && c.scrub.isNone && d.fld (.mcCtl (k - 396)) .MC_CTL_STATE == 0
  else if 448 ≤ k then
    (d.fabric.net.all fun p => !(routeQuads p.2.src p.2.dst).contains (k - 448)) &&
      d.fabric.parked.all fun p => !(routeQuads p.msg.src p.msg.dst).contains (k - 448)
  else
    let ports := (List.range 4).map fun j => (k - 412) * 4 + j
    ports.all fun p => (d.stop (p / 16)).outs.all fun r => r.port != p

/-- RETENTION_ENTRY (R383). -/
def Dev.enterRetention (d : Dev) (k : Nat) : Dev :=
  if !d.isOn k then d
  else if requestable k then
    let d1 := d.actLatest k
    if (d1.dom k).step == .drainRet && d1.domIdle k then
      ((d1.modDom k fun x => { x with step := .settled }).setPower k 1).actLatest k
    else if (d1.dom k).step == .drainRet then d1.abortEntry k
    else d1
  else if !d.chiefRetains k then d
  else match d.refuser k false with
    | some code => d.refused k code
    | none =>
      let d1 := d.setPower k 1
      if 396 ≤ k ∧ k < 412 then d1.setFld (.mcCtl (k - 396)) .MC_CTL_STATE 3 else d1

/-- The quadrant whose fabric reaches a domain. -/
def quadOfDom (k : Nat) : Nat :=
  if k < 264 then k / 66 else if k < 396 then (k - 264) / 33 else if k < 412 then (k - 396) / 4
  else if k < 444 then (k - 412) / 8 else if k < 448 then k - 444 else k - 448

/-- RETENTION_EXIT (R383): the fabric of the quadrant wakes first (R384). -/
def Dev.exitRetention (d : Dev) (k : Nat) : Dev :=
  if d.power k = 1 then ((d.wake (domOfFabric (quadOfDom k))).wake k).actLatest k else d

/-- OFF_ENTRY (R382, R290, R299). -/
def Dev.enterOff (d : Dev) (k : Nat) : Dev :=
  let d1 := if requestable k then d.actLatest k else d
  let ready := (d1.dom k).step == .drainOff
  if ready && !sliceDom k && !d1.domIdle k then d1.abortEntry k
  else if coreDom k then
    if ready then ((d1.drainStores k).cleanCore k).forgetCore k |>.unitOff k else d1
  else if engineDom k then
    if ready && engOffOk d1 (k - 444) then d1.unitOff k else d1
  else if 396 ≤ k ∧ k < 412 then
    if !(d1.chan (k - 396)).inSet || d1.chanFailed (k - 396) then d1.unitOff k else d1
  else if 412 ≤ k ∧ k < 444 then
    if (List.range 4).all fun j => !(d1.port ((k - 412) * 4 + j)).assigned then d1.unitOff k else d1
  else d1

/-- A core begins at M at the wake address (R385): at a start, JOIN and any pending patch are the chief steward's. A panel that has named
the core still waits for it (R203). -/
def Dev.startCore (d : Dev) (c : Nat) (pc : Word) : Dev :=
  (d.modCore c fun q => { Core.reset with
    arch := { Arch.reset with pc := pc }, run := .running, joined := q.joined, isoStart := !q.joined,
    isoTest := q.isoTest, serial := q.serial, member := q.member, debug := q.debug, patch := q.patch }).applyPatch c

/-- CORE_PREFETCH as the chief steward loads it (R107): the default in Auto, the operator's setting else. -/
def Dev.prefetchStart (d : Dev) : Word := BitVec.ofNat 64 (if d.od 0x2200 0 0 = 0 then 0x4202 else d.od 0x2201 0 0x4202)

def Dev.wakePc (d : Dev) : Word := BitVec.ofNat 64 (d.fld .pwrWakePc .PWR_WAKE_PC_PC * 4)

/-- A domain that may leave Off: spare and failed units, unassigned skeins and unused channels are held there (R14, R290, R299). -/
def Dev.wakeable (d : Dev) (k : Nat) : Bool :=
  if coreDom k then d.coreRole k == 0
  else if sliceDom k then d.sliceRole (k - 264) == 0
  else if 412 ≤ k ∧ k < 444 then (List.range 4).any fun j => (d.port ((k - 412) * 4 + j)).assigned
  else if 396 ≤ k ∧ k < 412 then (d.chan (k - 396)).inSet && !d.chanFailed (k - 396)
  else true

/-- The order in which a steward ramps domains (R384). -/
def wakeRank (k : Nat) : Nat := (if 448 ≤ k then 0 else if sliceDom k then 1 else if engineDom k then 2 else if coreDom k then 3 else 4) * 512 + k

/-- No other domain of the same steward that is asked On comes before this one. -/
def Dev.wakesNext (d : Dev) (k : Nat) : Bool :=
  d.doms.all fun e => !(stewardOfDom e.1 == stewardOfDom k && decide (wakeRank e.1 < wakeRank k) && e.2.latest == some .on && d.isOff e.1 && d.wakeable e.1)

/-- WAKE_FROM_OFF (R384, R385). -/
def Dev.wakeOff (d : Dev) (k : Nat) : Dev :=
  if !d.isOff k || !d.wakeable k || !d.wakesNext k then d else
  let on := fun (x : Dev) => (((x.wake (domOfFabric (quadOfDom k))).setPower k 0).setReg (.odmRcause k) (setF 0 .ODM_RCAUSE_WAKE 1)).modDom k fun s =>
    { s with latest := none }
  if coreDom k then
    let d1 := (on d).startCore k d.wakePc
    let d2 := d1.setReg (.coreReplay k) 0
    d2.setReg (.corePrefetch k) d2.prefetchStart
  else if sliceDom k then
    let n := k - 264
    let (i, d1) := (on d).draw
    ((d1.modSlice n fun s => { s with lfsr := (Config.entropy i).truncate 16 }).showSpares n).queueRebuild .join n
  else on d

end Sys2Proof.Machine
end

