-- ==== Sys2Proof/Machine/Dram.lean ====
section
/-! DEFINITION. The memory controllers (R258 to R297): ECC and retry, the correctable-error bucket, scrubbing, scheduling,
refresh, frequency change, write replay and retraining, zero fill, and the swatch helpers. -/

namespace Sys2Proof.Machine

/-! ### The bucket (R281) -/

/-- BUCKET_LEAK. -/
def Dev.leak (d : Dev) : Dev :=
  (List.range 16).foldl (fun x ch => (List.range 8).foldl (fun y r =>
    let l := y.ceLevel ch r
    let y1 := if 0 < l then y.setCeLevel ch r (l - 1) else y
    if 2 * (y1.ceLevel ch r) < y1.ceCap then y1.setCeArmed ch r true else y1) x) d

/-! ### A channel fails, and retraining (R276) -/

/-- The channel fails: its lines are lost and every later access completes with an error response, after a warm reset too. A demand scrub of it ends as aborted
(log entry 109). -/
def Dev.chanFail (d : Dev) (ch : Nat) : Dev :=
  let d1 := if (d.chan ch).scrub.isSome then d.setFlds (.mcDscrubCtl ch) [(.MC_DSCRUB_CTL_BUSY, 0), (.MC_DSCRUB_CTL_RESULT, 1)] else d
  (((d1.modChan ch fun c => { c with wq := [], reads := [], fill := [], held := [], scrub := none, retrainDue := false, failed := true }).setFld (.mcCtl ch) .MC_CTL_STATE 6).lastUe
    ch 4 0 0).err (396 + ch) 0x24 ch

/-- RETRAIN: begins when due, unless a frequency change runs. -/
def Dev.retrainBegin (d : Dev) (ch : Nat) : Dev :=
  if (d.chan ch).retrainDue && d.chanState ch == 0 then
    ((d.modChan ch fun c => { c with retrainDue := false, alerts := [], retries := [] }).setFld (.mcCtl ch) .MC_CTL_STATE 2).countFld
      (.mcErrcnt ch) .MC_ERRCNT_RETRAIN 1
  else d

/-- RETRAIN_DONE. -/
def Dev.retrainEnd (d : Dev) (ch : Nat) (ok : Bool) : Dev :=
  if d.chanState ch != 2 then d
  else if ok then
    let d1 := ((d.chan ch).wq.filter (·.issued)).foldl (fun x w => x.mcPerform ch w) d
    (d1.setFld (.mcCtl ch) .MC_CTL_STATE 0).err (396 + ch) 0x28 ch
  else d.chanFail ch

/-! ### Reads of lines (R277, R278, R287) -/

/-- The granules of a channel that physical addresses reach (R262). -/
def Dev.channelGranules (d : Dev) (ch : Nat) : Nat := (d.chan ch).usable / 4096

/-- A zero-map line is lost: the granules it covers, 512 less those in reserved DRAM, are marked lost and their bits clear (R287). -/
def Dev.loseZeroLine (d : Dev) (ch z : Nat) : Dev :=
  let d1 := (List.range 512).foldl (fun x i =>
    if x.channelGranules ch ≤ 512 * z + i then x else
    let g := x.lineOfLocal ch ((512 * z + i) * 64) / 64
    let y := (List.range 64).foldl (fun y j => y.loseLine (g * 64 + j)) x
    let y1 := y.modChan ch fun c => { c with fill := c.fill.filter fun e => e.granule != g }
    { y1 with zclear := insertNat g y1.zclear }) d
  (d1.lastUe ch 1 0 0).err (396 + ch) 0x25 ch

/-- MC_READ: a read of a line enters its bank's list, with what DRAM will show; the lists full, it waits. A line of the zero map is read at once. -/
def Dev.mcRead (d : Dev) (ch : Nat) (l : McLine) (f : ReadAttempt) : Dev :=
  if d.chanFailed ch then d else
  let d := d.wake (domOfChan ch)
  match l with
  | .phys ln => match d.place (ln.toNat * 64) with
    | .dram c _ => if c != ch then d else if d.readsFull ch then d.wait else d.addRead ch ln.toNat none f 0
    | _ => d
  | .zmap z =>
    if !(d.chan ch).inSet || decide ((d.chan ch).usable / 2097152 + 256 ≤ z) then d else
    match f.first, f.retry with
    | .clean, _ => d
    | _, .clean => d.retryClean ch
    | _, .correctable dev bits =>
      (((d.lastCe ch 0 0 dev.val bits).countFld (.mcErrcnt ch) .MC_ERRCNT_CORR 1).report (.error (396 + ch) 0x20 ch none none 0)).bucket ch 0
    | _, .uncorrectable => (d.countFld (.mcErrcnt ch) .MC_ERRCNT_UNCORR 1).loseZeroLine ch z

/-! ### Scheduling (R267, R270) -/

/-- MC_ISSUE: the controller's next command, while it issues any. -/
def Dev.mcIssue (d : Dev) (ch : Nat) : Dev := if d.chanState ch != 0 || !d.isOn (domOfChan ch) then d else (d.mcStep ch).1

/-- The refresh interval of the timing set in force, in nanoseconds; half of it above 85 °C (R270). -/
def Dev.refInterval (d : Dev) (ch : Nat) : Nat :=
  let low := d.bit (.mcCtl ch) .MC_CTL_TSEL
  let t := if low then d.fld (.mcTimingB2 ch) .MC_TIMING2_TREFI else d.fld (.mcTimingA2 ch) .MC_TIMING2_TREFI
  let rate := max 1 (d.fld (.mcCtl ch) .MC_CTL_RATE)
  t * 20 / rate / (if (d.chan ch).fastRef then 2 else 1)

/-- REFRESH: a rank whose interval has passed has its next bank of each bank group refreshed, whose rows close; a refresh is not postponed (log entry
28). -/
def Dev.refreshRank (d : Dev) (ch r : Nat) : Dev :=
  let ranks := match (d.chan ch).dimms with
    | some x => x.ranks * x.count
    | none => 1
  let c := d.chan ch
  let b := Tbl.get 0 r c.refBank
  if d.chanState ch != 0 || (c.refAt.any fun e => e.1 == r && !d.past e.2 (d.refInterval ch)) then d else
  d.modChan ch fun c => { c with
    openRows := c.openRows.filter (fun e => !(e.1 / 32 % 2 ^ log2Of ranks == r && e.1 % 4 == b)),
    refBank := Tbl.put 0 r ((b + 1) % 4) c.refBank, refAt := Tbl.set r d.time c.refAt }

/-- DIMM_TEMPERATURE_READ (R260, R270). -/
def Dev.dimmTemps (d : Dev) (ch : Nat) (t : List Int) : Dev :=
  d.modChan ch fun c => { c with temps := t, fastRef := t.any fun x => decide (85 < x) }

/-- MC_WRITE (R266). -/
def Dev.mcAccept (d : Dev) (ch : Nat) (m : Msg) : Dev :=
  let ln := m.addr.toNat / 64
  let cls := match m.who with
    | .core c => d.coreClass c.val
    | _ => 0
  match d.place (ln * 64) with
  | .dram c _ => if c != ch then d else (d.wake (domOfChan ch)).mcWriteLine ch ln m.data m.byteen m.key m.poison cls
  | _ => d

/-! ### Frequency change (R272) -/

def Dev.setChannels (d : Dev) : List Nat := (List.range 16).filter fun ch => (d.chan ch).inSet && !d.chanFailed ch

/-- FREQUENCY_CHANGE to the high or the low point: all banks precharge, and no request issues until it is done. -/
def Dev.freqBegin (d : Dev) (low : Bool) : Dev :=
  let chs := d.setChannels
  if chs.any fun ch => d.chanState ch == 2 || d.chanState ch == 4 then d.setOd 0x3010 3 2
  else if d.od 0x4010 2 2000 < 500 then d.setOd 0x3010 3 1
  else if chs.any fun ch => d.chanState ch == 1 then d
  else if chs.all fun ch => d.bit (.mcCtl ch) .MC_CTL_TSEL == low then (d.setOd 0x3010 3 0).setOd 0x3010 0 (bitNat low)
  else ((chs.foldl (fun x ch => ((x.wake (domOfChan ch)).modChan ch fun c => { c with openRows := [] }).setFld (.mcCtl ch) .MC_CTL_STATE 1) d).setOd 0x3010 3 3).setOd 0x3010 0 (bitNat low)

/-- FREQUENCY_CHANGE_DONE. -/
def Dev.freqEnd (d : Dev) : Dev :=
  let chs := (List.range 16).filter fun ch => d.chanState ch == 1
  if chs.isEmpty then d else
  (chs.foldl (fun x ch =>
    let low := d.od 0x3010 0 0
    let rate := x.fld (if low = 1 then .mcTimingB0 ch else .mcTimingA0 ch) .MC_TIMING0_RATE
    (x.setFlds (.mcCtl ch) [(.MC_CTL_TSEL, low), (.MC_CTL_STATE, 0), (.MC_CTL_RATE, rate)]).retrainBegin ch) d).setOd 0x3010 3 0

/-- A read that was issued within the ALERT_n window is issued again: what its first issue found stays found. -/
def Dev.readAgain (d : Dev) (ch : Nat) (r : RdEntry) : Dev := (d.mcReadNow ch r.line (d.localOf r.line) r.key ⟨.clean, .clean⟩).1

/-- ALERT_N (R275): the writes still held, and the reads issued within the window, are reissued in order. -/
def Dev.alert (d : Dev) (ch : Nat) : Dev :=
  if d.chanFailed ch then d else
  let ws := (d.chan ch).wq.filter (·.issued)
  let rs := (d.chan ch).reads.filter (·.issued)
  let early := rs.filter fun r => ws.all fun w => decide (r.seq < w.seq)
  let d0 := early.foldl (fun x r => x.readAgain ch r) d
  let d1 := (rs.filter fun r => !early.contains r).foldl (fun x r => x.readAgain ch r) (ws.foldl (fun x w => x.mcPerform ch w) d0)
  let l := d1.recent (ms 1) (d1.chan ch).alerts
  (d1.modChan ch fun c => { c with alerts := l, retrainDue := c.retrainDue || decide (4 ≤ l.length) }).countFld (.mcErrcnt ch) .MC_ERRCNT_ALERT 1

/-! ### Scrubbing (R282, R283) -/

/-- GO of a demand scrub. -/
def Dev.scrubGo (d : Dev) (ch : Nat) : Dev :=
  if d.bit (.mcDscrubCtl ch) .MC_DSCRUB_CTL_BUSY then d.setFld (.mcDscrubCtl ch) .MC_DSCRUB_CTL_RESULT 2
  else
    let d1 := (((d.setReg (.mcDscrubSum0 ch) 0).setReg (.mcDscrubSum1 ch) 0).setReg (.mcDscrubFirst ch) 0).setReg (.mcDscrubLast ch) 0
    (d1.setFlds (.mcDscrubCtl ch) [(.MC_DSCRUB_CTL_BUSY, 1), (.MC_DSCRUB_CTL_RESULT, 0)]).modChan ch fun c =>
      { c with scrub := some (d.fld (.mcDscrubBase ch) .MC_DSCRUB_BASE_BASE, d.fld (.mcDscrubLen ch) .MC_DSCRUB_LEN_LINES) }

/-- A failing line enters the summary's lowest and highest. -/
def Dev.scrubMark (d : Dev) (ch ln : Nat) : Dev :=
  let first := if d.bit (.mcDscrubFirst ch) .MC_DSCRUB_FIRST_VALID then d else
    d.setFlds (.mcDscrubFirst ch) [(.MC_DSCRUB_FIRST_VALID, 1), (.MC_DSCRUB_FIRST_LINE, ln)]
  first.setFlds (.mcDscrubLast ch) [(.MC_DSCRUB_LAST_VALID, 1), (.MC_DSCRUB_LAST_LINE, ln)]

/-- The lines of the range that the channel holds, in ascending order; `found` gives what each line read shows. -/
def Dev.scrubRange (d : Dev) (ch : Nat) : Nat → Nat → List ReadAttempt → Dev
  | 0, _, _ => d
  | k + 1, ln, found =>
    match d.place (ln * 64) with
    | .dram c n =>
      if c != ch then d.scrubRange ch k (ln + 1) found else
      match (d.mcFlushLine ch ln).checkLine ch ln n (found.headD ⟨.clean, .clean⟩) with
      | (d1, .zero) => (d1.countFld (.mcDscrubSum0 ch) .MC_DSCRUB_SUM0_ZERO 1).scrubRange ch k (ln + 1) found
      | (d1, r) =>
        let d2 := d1.countFld (.mcDscrubSum0 ch) .MC_DSCRUB_SUM0_READ 1
        let d3 := match r with
          | .corrected => (d2.countFld (.mcDscrubSum1 ch) .MC_DSCRUB_SUM1_CORR 1).scrubMark ch ln
          | .uncorrectable => (d2.countFld (.mcDscrubSum1 ch) .MC_DSCRUB_SUM1_UNCORR 1).scrubMark ch ln
          | .lost => (d2.countFld (.mcDscrubSum1 ch) .MC_DSCRUB_SUM1_LOST 1).scrubMark ch ln
          | _ => d2
        d3.scrubRange ch k (ln + 1) found.tail
    | _ => d.scrubRange ch k (ln + 1) found

/-- A pass ends after at most `lines` lines of its range, which is the one that held at GO. -/
def Dev.scrubStop (d : Dev) (ch result lines : Nat) (found : List ReadAttempt) : Dev :=
  match (d.chan ch).scrub with
  | none => d
  | some (base, len) =>
    ((d.scrubRange ch (min lines len) base found).setFlds (.mcDscrubCtl ch) [(.MC_DSCRUB_CTL_BUSY, 0), (.MC_DSCRUB_CTL_RESULT, result)]).modChan
      ch fun c => { c with scrub := none }

/-- ABORT: the pass has handled `lines` lines of its range. -/
def Dev.scrubAbort (d : Dev) (ch lines : Nat) (found : List ReadAttempt) : Dev := d.scrubStop ch 1 lines found
/-- DEMAND_SCRUB_DONE. -/
def Dev.scrubEnd (d : Dev) (ch : Nat) (found : List ReadAttempt) : Dev := d.scrubStop ch 0 (2 ^ 40) found

/-- PATROL_SCRUB: the next local line of the channel (R283). -/
def Dev.patrol (d : Dev) (ch : Nat) (found : List ReadAttempt) : Dev :=
  let c := d.chan ch
  if d.od 0x3021 0 1 = 0 || c.scrub.isSome || d.chanState ch != 0 || !d.isOn (domOfChan ch) || !c.inSet || decide (c.usable < 64) then d else
  let n := c.patrolLine
  let d1 := ((d.mcFlushLine ch (d.lineOfLocal ch n)).checkLine ch (d.lineOfLocal ch n) n (found.headD ⟨.clean, .clean⟩)).1
  let next := if (n + 1) * 64 < c.usable then n + 1 else 0
  let d2 := (d1.modChan ch fun c => { c with patrolLine := next }).setFld (.mcPatrol ch) .MC_PATROL_POS (next / 64)
  if next = 0 then d2.wrapFld (.mcPatrol ch) .MC_PATROL_PASSES 1 else d2

/-! ### Zero fill (R285) -/

/-- ZERO_FILL_WRITE: at most eight writes of zeros for the oldest entry of the fill table. -/
def Dev.zeroFill (d : Dev) (ch : Nat) : Dev :=
  if d.chanState ch != 0 then d else
  match (d.chan ch).fill with
  | [] => d
  | e :: _ =>
    let next := e.next + 8
    if next < 64 then
      let d1 := d.fillLines e 8 e.next
      d1.modChan ch fun c => { c with fill := c.fill.map fun f => if f.granule = e.granule then { f with
        mask := f.mask ||| BitVec.ofNat 64 (255 * 2 ^ e.next), next := next } else f }
    else (d.zTouch ch e.granule true).fillFinish ch e

/-! ### Swatch helpers (R274, R295) -/

/-- SWATCH_RUN: the chief steward writes the helpers' registers; a reserved encoding leaves its field as it was (R7). GO clears the counters and
starts a run; without it the fields alone change. -/
def Dev.swatchGo (d : Dev) (ch : Nat) (ctl pat scan : Word) : Dev :=
  if d.bit (.mcSwatchCtl ch) .MC_SWATCH_CTL_BUSY then d else
  let put := fun (x : Dev) (r : Reg) (w : Word) (ok : Fld → Nat → Bool) (l : List Fld) =>
    l.foldl (fun (y : Dev) f => if ok f (getF w f) then y.setFld r f (getF w f) else y) x
  let d1 := put d (.mcSwatchCtl ch) ctl (fun f v => !((f == .MC_SWATCH_CTL_MODE || f == .MC_SWATCH_CTL_SUB) && v == 3))
    [.MC_SWATCH_CTL_MODE, .MC_SWATCH_CTL_PAT, .MC_SWATCH_CTL_SUB, .MC_SWATCH_CTL_RANK, .MC_SWATCH_CTL_BURSTS]
  let d2 := put (d1.setReg (.mcSwatchPat ch) pat) (.mcSwatchScan ch) scan (fun f v => !(f == .MC_SWATCH_SCAN_TARGET && decide (5 ≤ v)))
    [.MC_SWATCH_SCAN_EN, .MC_SWATCH_SCAN_TARGET, .MC_SWATCH_SCAN_BIT, .MC_SWATCH_SCAN_CODE]
  if !bitF ctl 62 then d2 else
  ((List.range 20).foldl (fun x i => x.setReg (.mcSwatchErr ch i) 0) d2).setFld (.mcSwatchCtl ch) .MC_SWATCH_CTL_BUSY 1

/-- The bits of a generator, most significant first: a shift register of `w` bits with feedback from its bits `w` and `t`, advanced once per beat
(log entry 125). -/
def prbs (w t : Nat) : Nat → Nat → List Bool
  | 0, _ => []
  | n + 1, s =>
    let top := s.testBit (w - 1)
    top :: prbs w t n ((s * 2 + bitNat (top != s.testBit (t - 1))) % 2 ^ w)

/-- What the pattern generators drive on DQ bit `k` for `n` beats. -/
def Dev.swatchBits (d : Dev) (ch k n : Nat) : List Bool :=
  match d.fld (.mcSwatchCtl ch) .MC_SWATCH_CTL_PAT with
  | 0 => prbs 7 6 n (k + 1)
  | 1 => prbs 15 14 n (k + 1)
  | 2 => prbs 23 18 n (k + 1)
  | _ => (List.range n).map fun i => (d.reg (.mcSwatchPat ch)).getLsbD (i % 64)

/-- SWATCH_RUN_DONE: each DQ bit's comparator has counted the beats received that differ from those driven. -/
def Dev.swatchEnd (d : Dev) (ch : Nat) (received : List (List Bool)) : Dev :=
  if !d.bit (.mcSwatchCtl ch) .MC_SWATCH_CTL_BUSY then d else
  let errors := fun (k : Nat) => let l := received.getD k []
    ((l.zip (d.swatchBits ch k l.length)).filter fun p => p.1 != p.2).length
  ((List.range 20).foldl (fun x i =>
    x.setReg (.mcSwatchErr ch i) ((List.range 4).foldl (fun w k => setF w ⟨16 * k + 15, 16 * k⟩ (min (errors (4 * i + k)) 65535)) 0)) d).setFld
    (.mcSwatchCtl ch) .MC_SWATCH_CTL_BUSY 0

/-- The runs of codes without errors that a sweep counted: the first and the last code of each. -/
def cleanRuns : List Nat → Nat → Option Nat → List (Nat × Nat)
  | [], n, some a => [(a, n - 1)]
  | [], _, none => []
  | 0 :: t, n, open_ => cleanRuns t (n + 1) (some (open_.getD n))
  | (_ + 1) :: t, n, some a => (a, n - 1) :: cleanRuns t (n + 1) none
  | (_ + 1) :: t, n, none => cleanRuns t (n + 1) none

/-- The code at which the chief steward centres a bit: the middle of the widest run of codes without errors, rounded down; none where that run is
narrower than 12 codes (R274). -/
def centreOf (sweep : List Nat) : Option Nat :=
  match (cleanRuns sweep 0 none).foldl (fun (m : Option (Nat × Nat)) r => match m with
    | some x => if x.2 - x.1 < r.2 - r.1 then some r else m
    | none => some r) none with
  | some (a, b) => if b + 1 - a < 12 then none else some ((a + b) / 2)
  | none => none

end Sys2Proof.Machine
end

