-- ==== Sys2Proof/Machine/Gov.lean ====
section
/-! DEFINITION. Voltage transitions, sensing, stewards, the governor's loops, and the always-on safety logic (R386 to
R404, R174, R269). An event that a duration governs carries the passing of that duration (log entry 27); where the
spec leaves the amount of a change to the governor, the amount is a free value (log entry 30). -/

namespace Sys2Proof.Machine

/-! ### Voltage transitions (R393, R394) -/

def Dev.vBusy (d : Dev) (k : Nat) : Bool := d.bit (.pwrVset k) .PWR_VSET_BUSY
def Dev.vPrev (d : Dev) (k : Nat) : Nat := d.fld (.pwrVset k) .PWR_VSET_PREV

/-- A transaction from PREV to `mv` begins: its record is written before the first step. A domain that is not On has nothing to step, and
takes the setpoint for its next ramp. -/
def Dev.vBegin (d : Dev) (k mv : Nat) : Dev :=
  if d.vBusy k || mv == d.vPrev k then d
  else if !d.isOn k then d.setFlds (.pwrVset k) [(.PWR_VSET_PREV, mv), (.PWR_VSET_TARGET, mv)]
  else (d.setFlds (.pwrVset k) [(.PWR_VSET_BUSY, 1), (.PWR_VSET_ROLLBACK, 0), (.PWR_VSET_TARGET, mv)]).modDom k fun x =>
    { x with stepMv := d.vPrev k, undo := false }

/-- A running transaction turns back to PREV. -/
def Dev.vUndo (d : Dev) (k : Nat) : Dev := if d.vBusy k then d.modDom k fun x => { x with undo := true } else d

/-- A transaction toward a setpoint, 25 mV higher under a sense fault (R390). -/
def Dev.vAim (d : Dev) (k mv : Nat) : Dev := d.vBegin k (mv + if (d.dom k).guard then 25 else 0)
/-- The setpoint a domain has or moves to, without that guardband. -/
def Dev.vGoal (d : Dev) (k : Nat) : Nat :=
  (if d.vBusy k && !(d.dom k).undo then d.fld (.pwrVset k) .PWR_VSET_TARGET else d.vPrev k) - if (d.dom k).guard then 25 else 0

/-! ### The setpoint that the limits leave -/

def Dev.lowered (d : Dev) (c : Nat) : Nat := Tbl.get 0 c d.gov.lowered

/-- All four diodes of a core's tile are invalid (R401). -/
def Dev.blind (d : Dev) (c : Nat) : Bool :=
  [2 * (c / 2), 2 * (c / 2) + 1, 264 + c / 2].any fun k => decide (4 ≤ (d.dom k).celsius.length) && (d.dom k).celsius.all fun t => decide (t < -40) || decide (150 < t)

/-- The highest setpoint that REEF_N, the Fixed ceiling and a blind tile leave a core. -/
def Dev.coreCap (d : Dev) (c : Nat) : Nat :=
  if d.blind c then 600 else
  min (if d.gov.reef then d.od 0x2020 2 650 else 1023) (if d.od 0x2000 0 0 = 1 then d.od 0x2000 3 950 else 1023)

/-- The setpoint of a core whose chosen voltage is `mv`, under the limits: lowered by the loops and held by the caps, then lowered for heat. -/
def Dev.coreTarget (d : Dev) (c mv : Nat) : Nat := max 600 (min (max 600 (mv - d.lowered c)) (d.coreCap c) - (d.dom c).hot)

/-- The voltage chosen for a domain before any limit: what the governor or the operator chose last, else what it has. -/
def Dev.chosenMv (d : Dev) (k : Nat) : Nat :=
  match d.gov.chosen.find? fun p => p.1 == k with
  | some p => p.2
  | none => d.vGoal k + d.lowered k
def Dev.choose (d : Dev) (k mv : Nat) : Dev := { d with gov := { d.gov with chosen := Tbl.set k mv d.gov.chosen } }
/-- The choices in force for cores are kept before a limit moves them. -/
def Dev.keepChosen (d : Dev) : Dev := d.liveCores.foldl (fun x c => x.choose c (x.chosenMv c)) d

/-- The setpoint that a domain is to have. -/
def Dev.wantMv (d : Dev) (k : Nat) : Nat :=
  if k < 264 then d.coreTarget k (d.chosenMv k) else max 600 (d.od 0x2001 4 750 - (d.dom k).hot)

/-- What waits for the end of a domain's transaction follows it: the steps for heat and a guardband, and the REEF_N target (R390, R394,
R401). -/
def Dev.vFollow (d : Dev) (k : Nat) : Dev :=
  if (d.dom k).cooling || (d.dom k).owed then (d.modDom k fun x => { x with owed := false }).vAim k (d.wantMv k)
  else if decide (k < 264) && d.gov.reef then d.vAim k (d.od 0x2020 2 650) else d

/-- The distance between two readings. -/
def natDist (a b : Nat) : Nat := a - b + (b - a)

/-- VOLTAGE_STEP: one step of 5 mV, the last one shorter where the distance asks for it (log entry 112), its reading, and the check within 15 mV. The output is clamped to the lower of
setpoint + 100 mV and 1.00 V (R386). -/
def Dev.vStep (d : Dev) (k reading : Nat) : Dev :=
  if !d.vBusy k then d else
  let x := d.dom k
  let goal := if x.undo then d.vPrev k else d.fld (.pwrVset k) .PWR_VSET_TARGET
  let nxt := if x.stepMv < goal then min goal (x.stepMv + 5) else max goal (x.stepMv - 5)
  let now := min reading (min (nxt + 100) 1000)
  let ok := decide (natDist now nxt ≤ 15)
  let meter := if d.bit (.pwrSense k) .PWR_SENSE_SFAULT then Fld.PWR_SENSE_DMON else Fld.PWR_SENSE_SENSE
  let d1 := ((d.setFld (.pwrSense k) meter now).setFld (.pwrVset k) .PWR_VSET_NOW now).modDom k fun s => { s with stepMv := nxt }
  let back := fun (r : Dev) => r.setFlds (.pwrVset k) [(.PWR_VSET_BUSY, 0), (.PWR_VSET_ROLLBACK, 1)]
  if !ok then
    if x.undo then (back d1).modDom k fun s => { s with undo := false, suspect := some d.time }
    else d1.modDom k fun s => { s with undo := true }
  else if nxt == goal then
    if x.undo then ((back d1).modDom k fun s => { s with undo := false }).vFollow k
    else (d1.setFlds (.pwrVset k) [(.PWR_VSET_BUSY, 0), (.PWR_VSET_PREV, goal)]).vFollow k
  else d1

/-! ### The governor log (R399) -/

def Dev.setGov (d : Dev) (g : Governor) : Dev := { d with gov := g }

/-- Writes a decision; four reasons also raise source 4,220. The latest 1,024 entries are kept. -/
def Dev.govLog (d : Dev) (behaviour reason applied obj old new : Nat) : Dev :=
  let l := d.gov.log ++ [⟨d.time, behaviour, reason, applied, obj, old, new⟩]
  let d1 := (d.setGov { d.gov with log := l.drop (l.length - 1024) }).setFld .pwrStat .PWR_STAT_REASON reason
  if [0x03, 0x04, 0x05, 0x07].contains reason then d1.wire 4220 else d1

/-- The limit in force: the lower of OD 0x2000:01 and the manager's allocation (R398). -/
def Dev.govLimit (d : Dev) : Nat := min (d.od 0x2000 1 700) (d.gov.allocation.getD (d.od 0x2000 1 700))

/-! ### Limits on cores -/

/-- Issue slots of 16 withheld from a core: the most that any limit withholds. -/
def Dev.coreThr (d : Dev) (c : Nat) : Nat :=
  max (max d.gov.fastThr (if d.gov.reef then 16 - d.od 0x2020 1 8 else 0)) (Tbl.get 0 c d.gov.hotThr)

/-- Any limiting of R398, R400 or R401 is in force. -/
def Dev.limiting (d : Dev) : Bool :=
  d.gov.fastThr != 0 || d.gov.reef || d.gov.medOn || d.gov.slowOn || d.doms.any fun e => e.2.cooling || (decide (e.1 < 264) && d.blind e.1)

/-- Places the limits in the registers that show them. -/
def Dev.showLimits (d : Dev) : Dev :=
  (d.liveCores.foldl (fun x c => x.setFld (.pwrVset c) .PWR_VSET_THR (d.coreThr c)) d).setFld .pwrStat .PWR_STAT_REEF (bitNat d.limiting)

/-- Reef class of a core (OD 0x2002); a core with no logical number has the default class 1. -/
def Dev.reefClass (d : Dev) (c : Nat) : Nat :=
  match d.lcore? c with
  | some l => d.od 0x2002 l 1
  | none => 1

/-- One 5 mV step off every core of the lowest class that has a core above 600 mV (R398). -/
def Dev.lowerStep (d : Dev) : Dev :=
  let above := d.liveCores.filter fun c => decide (600 < d.chosenMv c - d.lowered c)
  let cls := [0, 1, 2, 3].find? fun k => above.any fun c => d.reefClass c == k
  match cls with
  | none => d
  | some k =>
    let t1 := (above.filter fun c => d.reefClass c == k).foldl (fun t c => Tbl.set c (Tbl.get 0 c t + 5) t) d.gov.lowered
    d.setGov { d.gov with lowered := t1 }

def Dev.lowerSteps (d : Dev) : Nat → Dev
  | 0 => d
  | n + 1 => d.lowerStep.lowerSteps n

/-- One step of release, on the highest class that is lowered. -/
def Dev.raiseStep (d : Dev) : Dev :=
  let low := d.liveCores.filter fun c => d.lowered c != 0
  match [3, 2, 1, 0].find? fun k => low.any fun c => d.reefClass c == k with
  | none => d
  | some k =>
    let t1 := (low.filter fun c => d.reefClass c == k).foldl (fun t c => Tbl.put 0 c (Tbl.get 0 c t - 5) t) d.gov.lowered
    d.setGov { d.gov with lowered := t1 }

def Dev.raiseSteps (d : Dev) : Nat → Dev
  | 0 => d
  | n + 1 => d.raiseStep.raiseSteps n

/-- A free number from 1 to `n`: how far the governor goes in one decision. -/
def Dev.amount (d : Dev) (n : Nat) : Dev × Nat :=
  let (i, d1) := d.draw
  (d1, Config.governorChoice i % n + 1)

/-- Voltages follow a change of the limits. -/
def Dev.moveCores (d : Dev) : Dev := d.liveCores.foldl (fun x c => x.vAim c (x.wantMv c)) d

/-! ### The loops (R398) -/

/-- The DRAM low point is taken with the reef limits when OD 0x3010:02 = 1. -/
def Dev.dramLow (d : Dev) (low : Bool) : Dev := if d.od 0x3010 2 0 = 1 then d.freqBegin low else d

/-- A REEF_N limit whose 1 ms after release has passed is given up by the loops (R400): the cores follow, and DRAM leaves the low point
unless the medium loop holds it there. -/
def Dev.reefOver (d : Dev) : Dev :=
  match d.gov.reefUntil with
  | some t =>
    if d.past t 0 then
      let d1 := (d.setGov { d.gov with reef := false, reefUntil := none }).moveCores
      if d1.gov.medOn then d1 else d1.dramLow false
    else d
  | none => d

/-- How a decision of power limiting that acts in every mode was applied: 1 in Fixed, else 0 (R399). -/
def Dev.applied (d : Dev) : Nat := bitNat (d.od 0x2000 0 0 == 1)

/-- FAST_LOOP: it acts in every mode. -/
def Dev.fastLoop (d : Dev) (watts amps : Nat) : Dev :=
  let l := d.govLimit
  let cap := d.od 0x2000 2 480
  if decide (125 * l < 100 * watts) || decide (cap < amps) then
    if 12 ≤ d.gov.fastThr then d.showLimits else
    let (d1, n) := d.amount (12 - d.gov.fastThr)
    ((d1.setGov { d1.gov with fastThr := d.gov.fastThr + n }).govLog 2 0x03 d.applied 0 d.gov.fastThr (d.gov.fastThr + n)).showLimits
  else if decide (10000 * watts < 95 * 125 * l) && decide (100 * amps < 95 * cap) then
    let d0 := d.reefOver
    if d0.gov.fastThr = 0 then d0.showLimits else
    let (d1, n) := d0.amount d0.gov.fastThr
    ((d1.setGov { d1.gov with fastThr := d0.gov.fastThr - n }).govLog 2 0x06 d.applied 0 d0.gov.fastThr (d0.gov.fastThr - n)).showLimits
  else d.showLimits

/-- A loop that acts on core voltages: its reason, bound in percent of L, and whether it takes the DRAM low point. -/
def Dev.voltLoop (d : Dev) (watts pct reason : Nat) (medium : Bool) : Dev :=
  let l := d.govLimit
  let mode := d.od 0x2000 0 0
  let on := if medium then d.gov.medOn else d.gov.slowOn
  let setOn := fun (x : Dev) (v : Bool) => x.setGov (if medium then { x.gov with medOn := v } else { x.gov with slowOn := v })
  if mode = 1 then (d.keepChosen.moveCores.govLog 2 0xF0 1 0 (d.od 0x2000 3 950) (d.od 0x2000 3 950)).showLimits
  else if pct * l < 100 * watts then
    if mode = 2 then d.govLog 2 reason 2 0 watts l else
    let (d1, n) := d.keepChosen.amount 70
    let d2 := setOn (d1.lowerSteps n) true
    let d3 := if medium then d2.dramLow true else d2
    (d3.moveCores.govLog 2 reason 0 0 watts l).showLimits
  else if decide (10000 * watts < 95 * pct * l) then
    let d0 := d.reefOver
    if !on then d0.showLimits else
    let (d1, n) := d0.amount 70
    let d2 := d1.raiseSteps n
    let done := d2.liveCores.all fun c => d2.lowered c == 0
    let d3 := if done then (if medium && !d2.gov.reef then (setOn d2 false).dramLow false else setOn d2 false) else d2
    (d3.moveCores.govLog 2 0x06 0 0 watts l).showLimits
  else d.showLimits

/-- MEDIUM_LOOP: package power over the last 100 ms. -/
def Dev.mediumLoop (d : Dev) (watts : Nat) : Dev := (d.setFld .pwrStat .PWR_STAT_P100 watts).voltLoop watts 110 0x02 true
/-- SLOW_LOOP. -/
def Dev.slowLoop (d : Dev) (watts : Nat) : Dev := d.voltLoop watts 100 0x01 false

/-! ### Voltage, pace and prefetch behaviours (R396, R397) -/

/-- The advice or setting in force of a core (OD 0x2003). -/
def Dev.setVoltageShown (d : Dev) (c mv : Nat) : Dev :=
  match d.lcore? c with
  | some l => d.setOd 0x2003 l mv
  | none => d

/-- GOVERNOR_VOLTAGE: the governor's choice `mv` for a core, held between the Auto floor and ceiling. -/
def Dev.govVoltage (d : Dev) (c mv : Nat) : Dev :=
  if !d.isOn c || d.coreRole c != 0 then d else
  let choice := min (max mv (d.od 0x2001 2 600)) (d.od 0x2001 3 950)
  let mode := d.od 0x2001 0 0
  let mine := if mode = 0 then choice else d.od 0x2001 1 750
  let l := (d.lcore? c).getD 0
  let d1 := (d.choose c mine).vAim c (d.coreTarget c mine)
  if mode = 0 then (d1.setVoltageShown c (d.coreTarget c mine)).govLog 1 0x08 0 l (d.vPrev c) (d.coreTarget c mine)
  else if mode = 1 then d1.govLog 1 0xF0 1 l (d.vPrev c) (d.coreTarget c mine)
  else (d1.setVoltageShown c choice).govLog 1 0x08 2 l (d.vPrev c) choice

/-- The levels of CORE_PREFETCH moved by one, within 0 to 3. -/
def prefetchMoved (w : Word) (up : Bool) : Word :=
  let f := fun (x : Nat) => if up then min 3 (x + 1) else x - 1
  setF (setF w .CORE_PREFETCH_L2_LVL (f (getF w .CORE_PREFETCH_L2_LVL))) .CORE_PREFETCH_L1_LVL (f (getF w .CORE_PREFETCH_L1_LVL))

/-- GOVERNOR_PREFETCH: the share of a core's prefetched lines that were used, and its node's DRAM traffic against peak. -/
def Dev.govPrefetch (d : Dev) (c usedPct dramPct : Nat) : Dev :=
  if !d.isOn c || d.coreRole c != 0 then d else
  let w := d.reg (.corePrefetch c)
  let mode := d.od 0x2200 0 0
  let l := (d.lcore? c).getD 0
  let op := setF w ⟨15, 0⟩ (d.od 0x2201 0 0x4202)
  if mode = 1 then (d.setReg (.corePrefetch c) op).govLog 5 0xF0 1 l w.toNat op.toNat else
  let choice := if usedPct < 40 then some (prefetchMoved w false)
    else if 70 < usedPct ∧ dramPct < 80 then some (prefetchMoved w true) else none
  match choice with
  | none => if mode = 2 then d.setReg (.corePrefetch c) op else d
  | some v =>
    if mode = 0 then (d.setReg (.corePrefetch c) v).govLog 5 0x20 0 l w.toNat v.toNat
    else (d.setReg (.corePrefetch c) op).govLog 5 0x20 2 l w.toNat v.toNat

/-! ### Slice and channel rates (R174, R269) -/

/-- Whether the busiest of a node's rates exceeds `ratio` times their mean. -/
def hotIn (ratio : Nat) (l : List Nat) : Bool := decide (ratio * l.foldl (· + ·) 0 < l.foldl max 0 * l.length)

/-- The rates of the nodes' units that `live` names: all of them together, or by quadrant. -/
def Dev.byNode (d : Dev) (n : Nat) (live : Nat → Bool) (l : List Nat) : List (List Nat) :=
  let rates := fun (k : Nat) => ((List.range (4 * n)).filter fun i => live i && (!d.quartered || i / n == k)).map fun i => l.getD i 0
  (List.range (if d.quartered then 4 else 1)).map rates

/-- An automatic or requested re-key (R174, R175). -/
def Dev.reKey (d : Dev) (requested : Bool) : Dev :=
  if requested then (d.queueRebuild .rekey 0).govLog 4 0x12 0 0 0 0
  else if d.od 0x2110 0 0 != 0 || d.hash.queue.any (·.auto) then d
  else
    let due := match d.hash.lastAuto with
      | some t => d.past t (d.od 0x2110 3 10 * ms 60000)
      | none => true
    if due then (d.queueReq ⟨.rekey, 0, true⟩).govLog 4 0x11 0 0 0 0 else d

/-- The governor's choice of the scheduler's parameters (R269), within the ranges of OD 0x3040 and OD 0x3041: which values it takes is open
(log entry 108). In Auto they are in force, in Advise they are reported, in Fixed it makes none. -/
def Dev.chooseSched (d : Dev) : Dev :=
  if d.od 0x3040 0 0 = 1 then d else
  let (i, d1) := d.draw
  let pick := fun (k lo n : Nat) => lo + Config.governorChoice (i * 32 + k) % n
  let hi := pick 0 32 29
  let l := [(0, hi), (1, pick 1 4 (hi - 11))] ++ (List.range 16).map fun c => (2 + c, pick (2 + c) 0 4)
  d1.setGov { d1.gov with sched := l }

/-- The busiest channel of a node is reported as a hot-spot, with its reason. -/
def Dev.spotChannel (d : Dev) (chans : List Nat) (live : Nat → Bool) (node : Nat) : Dev :=
  let l := (List.range 16).filter fun i => live i && (!d.quartered || i / 4 == node)
  let top := (l.map fun i => chans.getD i 0).foldl max 0
  let ch := (l.find? fun i => chans.getD i 0 == top).getD 0
  (d.setGov { d.gov with chanSpots := Tbl.put 0 ch (Tbl.get 0 ch d.gov.chanSpots + 1) d.gov.chanSpots }).govLog 6 0x30
    (if d.od 0x3040 0 0 = 0 then 0 else 2) ch 0 0

/-- SLICE_RATE_WINDOW: the rates over one second. A slice that persists hot re-keys or is reported; a channel that does
is reported in OD 0x3042:00 with its reason, and in Auto and Advise the governor chooses priorities. -/
def Dev.rateWindow (d : Dev) (slices chans : List Nat) : Dev :=
  let ratio := d.od 0x2110 1 4
  let secs := d.od 0x2110 2 10
  let on := fun (n : Nat) => d.sliceRole n == 0 && !d.isOff (domOfSlice n)
  let runs := (d.byNode 33 on slices).zipIdx.map fun p => (p.2, if hotIn ratio p.1 then Tbl.get 0 p.2 d.hash.hotSecs + 1 else 0)
  let n := runs.foldl (fun m p => max m p.2) 0
  let d1 := d.setHash { d.hash with hotSecs := runs.foldl (fun t p => Tbl.put 0 p.1 p.2 t) [] }
  let mode := d.od 0x2110 0 0
  let d2 := if n < secs then d1
    else if mode = 0 then d1.reKey false
    else if mode = 2 then d1.govLog 4 0x11 2 0 0 0 else d1
  let live := fun (ch : Nat) => (d.chan ch).inSet
  let hot := (d.byNode 4 live chans).zipIdx.map fun p => (p.2, if hotIn ratio p.1 then Tbl.get 0 p.2 d.gov.chanHot + 1 else 0)
  let d3 := d2.setGov { d2.gov with chanRates := chans, chanHot := hot.foldl (fun t p => Tbl.put 0 p.1 p.2 t) [] }
  match hot.filter fun p => decide (secs ≤ p.2) with
  | [] => d3
  | l => (l.foldl (fun x p => x.spotChannel chans live p.1) d3).chooseSched

/-- WAY_MASK_UPDATE: in Auto the governor sets the masks, at most once per 100 ms; in Advise it reports its choice (R160). -/
def Dev.wayMask (d : Dev) (cls : Nat) (mask : Half) : Dev :=
  let old := d.fld (.slcCos 0 cls) .SLC_COS_MASK
  match d.od 0x2100 0 0 with
  | 0 =>
    if !d.past d.gov.maskAt (ms 100) && d.gov.maskAt != 0 then d else
    let d1 := (List.range 132).foldl (fun x n => x.setFld (.slcCos n cls) .SLC_COS_MASK mask.toNat) d
    ((d1.setGov { d1.gov with maskAt := d.time }).setOd 0x2103 cls mask.toNat).govLog 3 0x10 0 cls old mask.toNat
  | 2 => (d.setOd 0x2103 cls mask.toNat).govLog 3 0x10 2 cls old mask.toNat
  | _ => d

/-! ### REEF_N (R400) and heat (R401, R402) -/

/-- REEF_N_ASSERT: the filtered pin is asserted. A rise in progress rolls back; a fall finishes (R394). -/
def Dev.reefAssert (d : Dev) : Dev :=
  if d.phase != .running then { d with pins := { d.pins with reefN := true } } else
  let d0 := d.keepChosen
  let d1 := (({ d0 with pins := { d0.pins with reefN := true } }.setFld .pwrStat .PWR_STAT_REEFPIN 1).setGov
    { d0.gov with reef := true, reefUntil := none })
  let goal := d.od 0x2020 2 650
  let d2 := d1.liveCores.foldl (fun x c =>
    if x.vBusy c then (if x.vPrev c < x.fld (.pwrVset c) .PWR_VSET_TARGET then x.vUndo c else x) else x.vAim c goal) d1
  ((d2.dramLow true).govLog 2 0x04 d.applied 0 0 goal).showLimits

/-- REEF_N_RELEASE: the limits hold for 1 ms more. -/
def Dev.reefRelease (d : Dev) : Dev :=
  ({ d with pins := { d.pins with reefN := false } }.setFld .pwrStat .PWR_STAT_REEFPIN 0).setGov
    { d.gov with reefUntil := if d.gov.reef then some (d.time + BitVec.ofNat 64 (ms 1)) else none }

/-- A diode reading that may be used (R387). -/
def validDiode (t : Int) : Bool := decide (-40 ≤ t) && decide (t ≤ 150)

/-- The hottest valid reading, or 0x80 where none is valid. -/
def tjOf (l : List Int) : Nat :=
  match l.filter validDiode with
  | [] => 0x80
  | x :: t => ((t.foldl max x) % 256).toNat

/-- The domains of a tile: its cores and its slice. -/
def tileDomains (t : Nat) : List Nat := [2 * t, 2 * t + 1, 264 + t]

/-- THERMAL_CONTROL: the readings of a domain's diodes over a millisecond. -/
def Dev.thermal (d : Dev) (k : Nat) (l : List Int) : Dev :=
  let d0 := (d.modDom k fun x => { x with celsius := l }).setFld (.pwrSense k) .PWR_SENSE_TJ (tjOf l)
  let d1 := d0.setFld .pwrStat .PWR_STAT_TJMAX (tjOf (d0.doms.flatMap fun e => e.2.celsius))
  let v := l.filter validDiode
  let cp : Int := (d.od 0x1030 0 100 : Nat)
  if v.isEmpty then
    if k < 396 ∧ l.length = 4 then
      let t := if k < 264 then k / 2 else k - 264
      let held := [2 * t, 2 * t + 1].foldl (fun x c => (x.choose c (d.chosenMv c)).vAim c 600) d1
      if d.blind (2 * t) then held else (held.govLog 2 0x05 d.applied k 0 600).showLimits
    else d1
  else if v.any (fun t => decide (cp ≤ t)) || ((d.dom k).cooling && v.any fun t => decide (cp - 3 < t)) then
    if !ivrDom k then d1 else
    let p := d.vGoal k
    let low := max 600 (p - 25)
    let d2 := (if coreDom k then d1.choose k (d.chosenMv k) else d1).modDom k fun x => { x with cooling := true, hot := if p ≤ 600 then x.hot else x.hot + 25 }
    let d3 := if coreDom k && decide (p ≤ 600) then
        let (e, n) := d2.amount 12
        e.setGov { e.gov with hotThr := Tbl.set k (max n (Tbl.get 0 k e.gov.hotThr)) e.gov.hotThr }
      else d2.vAim k (d2.wantMv k)
    (d3.govLog 2 0x05 d.applied k p low).showLimits
  else if (d.dom k).cooling then
    let d2 := (d1.modDom k fun x => { x with cooling := false, hot := 0 }).setGov { d1.gov with hotThr := Tbl.del k d1.gov.hotThr }
    (d2.vAim k (d2.wantMv k)).showLimits
  else d1

/-- Every domain is cut without cast-off, after a fatal record is written to the persistent log at once. -/
def Dev.cutNow (d : Dev) (code : Nat) (ph : Phase) : Dev :=
  let d1 := ((d.makeRecord 429 code 0 none none 0).persistNow).cutDomains
  { d1 with phase := ph, reports := [] }

/-- THERMTRIP: a valid diode at or above 125 °C in three consecutive samples (R402). -/
def Dev.thermTrip (d : Dev) (l : List Int) : Dev :=
  if d.pins.vaux && l.any (fun t => validDiode t && decide (125 ≤ t)) && !d.pins.thermTrip then
    let d1 := { d with pins := { d.pins with thermTrip := true } }
    (d1.setOd 0x8002 0 ((d1.od 0x8002 0 0 + 1) % 2 ^ 32)).cutNow 0x65 .cut
  else d

/-! ### FORCE_OFF (R403, R404) -/

/-- D in force, in nanoseconds. -/
def Dev.discTime (d : Dev) : Nat := ms (d.fld .pwrSafe .PWR_SAFE_DTIME)

def Dev.setFo (d : Dev) (a b : Bool) : Dev :=
  { d with pins := { d.pins with foA := a, foB := b } }.setFlds .pwrSafe [(.PWR_SAFE_FOA, bitNat a), (.PWR_SAFE_FOB, bitNat b)]

/-- Cast-off for a safety cause, with every domain cut 1 ms later; a device that is not up stays or becomes cut. -/
def Dev.forceOffRun (d : Dev) (why : CastOffCause) : Dev :=
  let d1 := { d with pins := { d.pins with forceCut := some d.time } }
  match d.phase with
  | .running | .castOff => d1.castOffRun why
  | .castOn | .romDict => { d1.cutDomains with phase := .cut }
  | _ => d1

/-- FORCE_OFF: both filtered channels are asserted. -/
def Dev.forceOff (d : Dev) : Dev := if d.pins.vaux then (d.setFo true true).forceOffRun .forceOff else d

/-- FORCE_OFF_CUT: 1 ms after the agreement every domain is cut, whether or not cast-off has finished. -/
def Dev.forceOffCut (d : Dev) : Dev :=
  if d.pins.forceCut.isSome then
    { d.cutDomains with phase := .cut, reports := [], pins := { d.pins with forceCut := none } }
  else d

/-- DISAGREEMENT_BEGIN: one channel is asserted and the other is not. -/
def Dev.disagreeBegin (d : Dev) (b : Bool) : Dev :=
  if !d.pins.vaux then d else
  let d1 := d.setFo (!b) b
  ({ d1 with pins := { d1.pins with disagree := some d.time } }).setFld .pwrSafe .PWR_SAFE_DISAGREE 1

/-- DISAGREEMENT_END: both channels agree again, asserted or not. -/
def Dev.disagreeEnd (d : Dev) (asserted : Bool) : Dev :=
  match d.pins.disagree with
  | none => d
  | some t =>
    let dur := d.time.toNat - t.toNat
    let near := decide (3 * d.discTime ≤ 4 * dur) && decide (dur < d.discTime)
    let d1 := d.setFo asserted asserted
    let d2 := ({ d1 with pins := { d1.pins with disagree := none } }).setFld .pwrSafe .PWR_SAFE_DISAGREE 0
    let d3 := if near then
        let n := (d2.od 0x8001 0 0 + 1) % 2 ^ 32
        (d2.setOd 0x8001 0 n).setFld .pwrSafe .PWR_SAFE_NEAR n
      else d2
    if asserted then d3.forceOffRun .forceOff else d3

/-- DISCREPANCY_FAULT: the disagreement's duration reaches D. Its record goes to the persistent log with the cast-off that it begins, or at once
where there is nothing to cast off. -/
def Dev.discFault (d : Dev) : Dev :=
  if d.pins.disagree.isSome && !d.pins.discLatch then
    let d1 := ({ d with pins := { d.pins with discLatch := true } }).setOd 0x8001 1 1
    let d2 := d1.makeRecord 429 0x67 0 none none 0
    let d3 := if d.phase == .running then d2 else d2.persistNow
    { d3 with reports := [] }.forceOffRun .discrepancy
  else d

/-! ### Sensing (R387 to R390) -/

/-- The domains whose sense loops share a return wire (R388). -/
def returnMates (k : Nat) : List Nat :=
  if k < 396 then
    let t := if k < 264 then k / 2 else k - 264
    let q := t / 33 * 33
    if t % 33 = 32 then tileDomains t
    else tileDomains (q + t % 33 / 2 * 2) ++ tileDomains (q + t % 33 / 2 * 2 + 1)
  else [k]

/-- Adds an entry to OD 0x1020:00: domain, kind, time. -/
def Dev.noteFault (d : Dev) (k kind : Nat) : Dev :=
  let key := odKey 0x1020 0
  { d with dict := { d.dict with long := Tbl.set key (Tbl.get [] key d.dict.long ++ leBytes 2 k ++ leBytes 1 kind ++ leBytes 8 d.time.toNat) d.dict.long } }

/-- The unit of a domain is failed (R390). -/
def Dev.failUnit (d : Dev) (k : Nat) : Dev :=
  if 448 ≤ k then d.err 429 0x62 k else
  let d1 := (d.modDom k fun x => { x with failed := true }).err 429 0x61 k
  if k < 264 then d1.modCore k fun c => { c with hardFault := true }
  else if k < 396 then d1.failSlice (k - 264)
  else if k < 412 then d1.chanFail (k - 396)
  else if k < 444 then d1
  else d1.engDead (k - 444)

/-- A sense fault of one domain: it is regulated on its delay monitor 25 mV higher; without a monitor in use its unit
is failed. -/
def Dev.senseFault (d : Dev) (kind k : Nat) : Dev :=
  if !(d.dom k).monitor then (d.setFld (.pwrSense k) .PWR_SENSE_KIND kind).failUnit k
  else if d.bit (.pwrSense k) .PWR_SENSE_SFAULT then d else
  let d1 := d.exitRetention k
  let d2 := (d1.setFld (.pwrDom k) .PWR_DOM_SFAULT 1).setFlds (.pwrSense k) [(.PWR_SENSE_SFAULT, 1), (.PWR_SENSE_KIND, kind)]
  let d3 := d2.countFld (.stwStat (stewardOfDom k)) .STW_STAT_SFAULTS 1
  let d4 := d3.modDom k fun x => { x with guard := true, owed := d3.vBusy k }
  (((d4.vBegin k (d3.vPrev k + 25)).noteFault k kind).err 429 0x60 k).govLog 1 0x07 (bitNat (d.od 0x2001 0 0 == 1)) k (d3.vPrev k) (d3.vPrev k + 25)

/-- How far a reading may lie from the setpoint and agree with it: the 40 mV of R389 (log entry 31). -/
def agrees (a b : Nat) : Bool := decide (natDist a b ≤ 40)

/-- The voltage that a domain which is not Off is set to: the step of its transition, 0.50 V in Retention (R383), else its setpoint. -/
def Dev.setpoint (d : Dev) (k : Nat) : Nat := if d.vBusy k then (d.dom k).stepMv else if d.power k = 1 then 500 else d.vPrev k

/-- OPEN_WIRE_TEST: the readings and the test of a domain's positive wire; `others` says that the tests of every other
wire of its return fail with it. -/
def Dev.senseTest (d : Dev) (k : Nat) (f : SenseReport) (others : Bool) : Dev :=
  if !ivrDom k then d else
  let d0 := ((d.setFlds (.pwrSense k) [(.PWR_SENSE_SENSE, f.senseMv), (.PWR_SENSE_DMON, f.dmonMv)]).setFld (.pwrVset k) .PWR_VSET_NOW
    (if d.bit (.pwrSense k) .PWR_SENSE_SFAULT then f.dmonMv else f.senseMv)).modDom k fun x => { x with suspect := none }
  let sp := d.setpoint k
  if f.wireFail then
    let d1 := d0.countFld (.pwrSense k) .PWR_SENSE_TESTFAIL 1
    if others && decide (1 < (returnMates k).length) then (returnMates k).foldl (Dev.senseFault · 2) d1
    else d1.senseFault 1 k
  else if d.isOff k then d0
  else if !agrees f.senseMv sp && !agrees f.dmonMv sp && agrees f.senseMv f.dmonMv then
    (((d0.setFld (.pwrSense k) .PWR_SENSE_KIND 3).noteFault k 3).vUndo k).modDom k fun x => { x with suspect := some d.time }
  else if agrees f.senseMv sp && !agrees f.dmonMv sp && (d.dom k).monitor then
    (((d0.setFld (.pwrSense k) .PWR_SENSE_KIND 4).noteFault k 4).err 429 0x63 k).modDom k fun x => { x with monitor := false }
  else d0

/-- DOMAIN_FAULT_CHECK: 1 ms after a domain fault returned the domain to its previous setpoint. -/
def Dev.faultCheck (d : Dev) (k : Nat) (stillWrong : Bool) : Dev :=
  if (d.dom k).suspect.isSome && d.fld (.pwrSense k) .PWR_SENSE_KIND == 3 then
    let d1 := d.modDom k fun x => { x with suspect := none }
    if stillWrong then d1.failUnit k else d1.setFld (.pwrSense k) .PWR_SENSE_KIND 0
  else d

/-! ### Stewards (R391) -/

/-- STEWARD_RESTART: a domain steward is restarted by the chief steward, and returns a domain in transition to PREV. -/
def Dev.stewardRestart (d : Dev) (n : Nat) : Dev :=
  if 64 ≤ n then d else
  let d1 := (d.countFld (.stwStat n) .STW_STAT_RESTART 1).err 429 0x64 n
  (List.range 396).foldl (fun x k => if stewardOfDom k == n then x.vUndo k else x) d1

/-- CHIEF_WATCHDOG: fatal, and every domain is cut without cast-off. -/
def Dev.chiefWatchdog (d : Dev) : Dev := if d.pins.vaux then d.cutNow 0x66 .cut else d

/-! ### The commands -/

def execDomainRequest (k : DomId) (st : PowerState) (s : State) : Host.Outcome State Fault Refusal := s.done (s.dev.requestDomain k.val st)
def execAutomaticRetention (k : DomId) (s : State) : Host.Outcome State Fault Refusal := s.done (s.dev.autoRetention k.val)
def execRetentionEntry (k : DomId) (s : State) : Host.Outcome State Fault Refusal := s.done (s.dev.enterRetention k.val)
def execRetentionExit (k : DomId) (s : State) : Host.Outcome State Fault Refusal := s.done (s.dev.exitRetention k.val)
def execOffEntry (k : DomId) (s : State) : Host.Outcome State Fault Refusal := s.done (s.dev.enterOff k.val)
def execWakeFromOff (k : DomId) (s : State) : Host.Outcome State Fault Refusal := s.done (s.dev.wakeOff k.val)
def execEntryAbort (k : DomId) (s : State) : Host.Outcome State Fault Refusal := s.done (s.dev.abortEntry k.val)
def execVoltageTransition (k : DomId) (mv : Nat) (s : State) : Host.Outcome State Fault Refusal := s.next ((s.dev.choose k.val mv).vBegin k.val mv)
def execVoltageStep (k : DomId) (reading : Nat) (s : State) : Host.Outcome State Fault Refusal := s.next (s.dev.vStep k.val reading)
def execOpenWireTest (k : DomId) (f : SenseReport) (others : Bool) (s : State) : Host.Outcome State Fault Refusal :=
  s.done (s.dev.senseTest k.val f others)
def execDomainFaultCheck (k : DomId) (stillWrong : Bool) (s : State) : Host.Outcome State Fault Refusal :=
  s.done (s.dev.faultCheck k.val stillWrong)
def execGovernorVoltage (c : CoreId) (mv : Nat) (s : State) : Host.Outcome State Fault Refusal := s.done (s.dev.govVoltage c.val mv)
def execGovernorPrefetch (c : CoreId) (usedPct dramPct : Nat) (s : State) : Host.Outcome State Fault Refusal :=
  s.done (s.dev.govPrefetch c.val usedPct dramPct)
def execFastLoop (watts amps : Nat) (s : State) : Host.Outcome State Fault Refusal := s.done (s.dev.fastLoop watts amps)
def execMediumLoop (watts : Nat) (s : State) : Host.Outcome State Fault Refusal := s.done (s.dev.mediumLoop watts)
def execSlowLoop (watts : Nat) (s : State) : Host.Outcome State Fault Refusal := s.done (s.dev.slowLoop watts)
def execSliceRateWindow (slices chans : List Nat) (s : State) : Host.Outcome State Fault Refusal := s.done (s.dev.rateWindow slices chans)
def execReKey (requested : Bool) (s : State) : Host.Outcome State Fault Refusal := s.done (s.dev.reKey requested)
def execWayMaskUpdate (cls : Fin 16) (mask : Half) (s : State) : Host.Outcome State Fault Refusal := s.done (s.dev.wayMask cls.val mask)
def execReefNAssert (s : State) : Host.Outcome State Fault Refusal := s.done s.dev.reefAssert
def execReefNRelease (s : State) : Host.Outcome State Fault Refusal := s.next s.dev.reefRelease
def execThermalControl (k : DomId) (l : List Int) (s : State) : Host.Outcome State Fault Refusal := s.done (s.dev.thermal k.val l)
def execThermtrip (l : List Int) (s : State) : Host.Outcome State Fault Refusal := s.next (s.dev.thermTrip l)
def execForceOff (s : State) : Host.Outcome State Fault Refusal := s.next s.dev.forceOff
def execDisagreementBegin (channelB : Bool) (s : State) : Host.Outcome State Fault Refusal := s.next (s.dev.disagreeBegin channelB)
def execDisagreementEnd (asserted : Bool) (s : State) : Host.Outcome State Fault Refusal := s.next (s.dev.disagreeEnd asserted)
def execDiscrepancyFault (s : State) : Host.Outcome State Fault Refusal := s.next s.dev.discFault
def execForceOffCut (s : State) : Host.Outcome State Fault Refusal := s.next s.dev.forceOffCut
def execStewardRestart (n : StwId) (s : State) : Host.Outcome State Fault Refusal := s.done (s.dev.stewardRestart n.val)
def execChiefWatchdog (s : State) : Host.Outcome State Fault Refusal := s.next s.dev.chiefWatchdog

end Sys2Proof.Machine
end

