-- ==== Sys2Proof/Machine/Mgmt.lean ====
section
/-! DEFINITION. Dead agents, reclamation and readmission (R179 to R183), the broadcast of translation invalidations
(R89 to R91, R151), and the commands of slices and their rebuild (R174 to R191). -/

namespace Sys2Proof.Machine

/-! ### Translation invalidations in flight (R91) -/

/-- One target of an issuer's TINV has acknowledged it, or was dropped instead. -/
def Core.ackTinv (k : Core) (serial : Nat) (target : Agent) (dropped : Bool) : Core :=
  { k with tinvs := k.tinvs.map fun x =>
      if x.serial == serial && x.targets.contains target then
        { x with targets := x.targets.filter (· != target), dropped := x.dropped || dropped } else x }

def Dev.ackTinv (d : Dev) (issuer : Agent) (serial : Nat) (target : Agent) (dropped : Bool) : Dev :=
  match issuer with
  | .core c => d.modCore c.val fun k => k.ackTinv serial target dropped
  | _ => d

/-- A target of an issuer's TINV has applied it (R150). -/
def Dev.noteApplied (d : Dev) (issuer : Agent) (serial : Nat) (target : Agent) : Dev :=
  match issuer with
  | .core c => d.modCore c.val fun k => { k with tinvs := k.tinvs.map fun x =>
      if x.serial == serial && x.targets.contains target then { x with applied := target :: x.applied.filter (· != target) } else x }
  | _ => d
/-- A device behind a target did not acknowledge: the target counts as dropped, whatever its other devices do (R91). -/
def Dev.noteDropped (d : Dev) (issuer : Agent) (serial : Nat) : Dev :=
  match issuer with
  | .core c => d.modCore c.val fun k => { k with tinvs := k.tinvs.map fun x => if x.serial == serial then { x with dropped := true } else x }
  | _ => d

/-- XLATEACK: an acknowledgement arrives. A core, an engine or a stop sends one only when it has applied the invalidation, and a stop only
when no device of it is waited for (R150, R313); a device or a socket may have been dropped instead. -/
def Dev.xlateAck (d : Dev) (issuer : CoreId) (serial : Nat) (target : Agent) (dropped : Bool) : Dev :=
  let done := (d.core issuer.val).tinvs.any fun x => x.serial == serial && x.applied.contains target
  match target with
  | .socket _ | .cxl _ => d.ackTinv (.core issuer) serial target dropped
  | .io g =>
    if done && (d.stop g.val).holders.all fun h => !h.waiting.contains (.core issuer, serial) then d.ackTinv (.core issuer) serial target dropped else d
  | _ => if done then d.ackTinv (.core issuer) serial target false else d

/-- An agent is dropped from every TINV that is outstanding (R91). -/
def Dev.dropTarget (d : Dev) (a : Agent) : Dev :=
  { d with cores := d.cores.map fun (e : Nat × Core) =>
      (e.1, { e.2 with tinvs := e.2.tinvs.map fun x =>
        if x.targets.contains a then { x with targets := x.targets.filter (· != a), dropped := true } else x }) }

/-- A core that has been declared dead, alone or with its tile, and has not been readmitted (R91). -/
def Dev.coreDead (d : Dev) (c : Nat) : Bool :=
  d.board.deadAt.any fun x => x.1 == .core (Fin.ofNat 264 c) || x.1 == .tile (Fin.ofNat 132 (c / 2))

/-- The targets of a broadcast by core `c`: every other core that is neither Off nor dead, every engine and I/O stop, and every
other live socket (R89, R91, R313). -/
def Dev.tinvTargets (d : Dev) (c : Nat) : List Agent :=
  (((List.finRange 264).filter fun x => x.val != c && !d.isOff x.val && !d.coreDead x.val).map Agent.core) ++
    ((List.finRange 4).filter fun e => !d.isOff (444 + e.val)).map Agent.engine ++
    ((List.finRange 8).map Agent.io) ++
    (((List.finRange 4).filter fun s => s.val != d.socket && d.sockUp s.val).map Agent.socket)

/-! ### Dead agents (R179, R180) -/

/-- Every home slice's mirror of a core's epoch. -/
def Dev.setDirEpoch (d : Dev) (c x : Nat) : Dev :=
  (List.range 132).foldl (fun y n => y.setFld (.dirEpoch n (c / 8)) ⟨c % 8 * 8 + 7, c % 8 * 8⟩ x) d
def Dev.dirEpoch (d : Dev) (n c : Nat) : Nat := d.fld (.dirEpoch n (c / 8)) ⟨c % 8 * 8 + 7, c % 8 * 8⟩

/-- A member is lost with its core: its panel is broken, unless the member is only named and has not entered. -/
def Dev.loseMember (d : Dev) (c : Nat) : Dev :=
  let d := d.giveEnds c
  match (d.core c).member with
  | none => d
  | some m =>
    let gone := fun (x : Dev) (y : Option Member) => x.modCore c fun k => { k with member := y }
    if m.phase == .named || m.phase == .orphan then gone d none
    else (gone d (some { m with phase := .lost, overlay := [] })).setFld (.pnlSlot m.slot) .PNL_SLOT_STATE 4

/-- A core's lines, stores and operations are gone, and it is under repair. Its epoch is marked out in DIR_EPOCH, so
that its messages are discarded (log entry 32). A logical number that it held is lost, and the panel of a member is broken (R233, log entry
123). -/
def Dev.loseCore (d : Dev) (c : Nat) : Dev :=
  let d0 := (d.modCore c fun k => { k.setL2 [] with
    run := .stopped, storeBuf := [], isoTest := true, crng := none, runAhead := none, routine := none, recovery := none }).loseMember c
  let d1 := d0
  let d2 := d1.setFld (.coreState c) .CORE_STATE_ROLE 3
  let d3 := d2.setDirEpoch c ((d.epoch c + 1) % 256)
  match d.lcore? c with
  | some l => { d3.setFlds (.coreIdent c) [(.CORE_IDENT_LVALID, 0), (.CORE_IDENT_LOGICAL, 0)] with board := { d3.board with lostAll := d3.board.lostAll ++ [(l, c)] } }
  | none => d3

def setBit (n i : Nat) (v : Bool) : Nat := if v then n ||| 2 ^ i else n - (if n.testBit i then 2 ^ i else 0)

/-- A field of DIR_DEAD in every slice. -/
def Dev.setDead (d : Dev) (f : Fld) (i : Nat) (v : Bool) : Dev :=
  (List.range 132).foldl (fun y n => y.setFld (.dirDead n) f (setBit (y.fld (.dirDead n) f) i v)) d

/-- A dead agent's messages: a core's, a tile's, a socket's or a device's. -/
def deadSent (a : DeadAgent) (who : Agent) : Bool :=
  match a, who with
  | .core c, .core x => x == c
  | .tile t, .core x => x.val / 2 == t.val
  | .socket s, .socket x => x == s
  | .cxl h, .cxl x => x == h
  | _, _ => false

/-- DEAD_AGENT_DECLARATION: step 1 of R180, and the discarding of the agent's queued requests in step 2. A rebuild that runs pauses (R178); the
manager forwards the declaration (R333). -/
def Dev.declareDead (d : Dev) (a : DeadAgent) : Dev :=
  let d1 := match a with
    | .core c => (d.loseCore c.val).dropTarget (.core c)
    | .tile t => (((d.loseCore (2 * t.val)).loseCore (2 * t.val + 1)).dropTarget (.core (Fin.ofNat 264 (2 * t.val)))).dropTarget
        (.core (Fin.ofNat 264 (2 * t.val + 1)))
    | .socket s => (({ d with board := { d.board with dead := insertNat s.val d.board.dead } }).setDead .DIR_DEAD_SOCK s.val true).dropTarget (.socket s)
    | .cxl h => (d.setDead .DIR_DEAD_CXL h.val true).dropTarget (.cxl h)
  let d2 := { d1 with
    board := { d1.board with reclaim := a :: d1.board.reclaim.filter (· != a), deadAt := (a, d.time) :: d1.board.deadAt.filter fun x => x.1 != a },
    hash := { d1.hash with pausedAt := if d1.hash.active = RebuildKind.none then none else some (d1.hash.pausedAt.getD d.time) },
    slices := d1.slices.map (fun (e : Nat × Slice) => (e.1, { e.2 with walked := false, waitq := e.2.waitq.filter fun p => !deadSent a p.2.who })) }
  (({ d2 with board := { d2.board with doneBy := [] } } : Dev).setDead .DIR_DEAD_RECLAIM 0 true).tellAll (.dead a)

/-- The tiles, sockets or devices that an agent's death takes out of an entry: none where the tile's other core holds the line. -/
def Dev.entryLoses (d : Dev) (a : DeadAgent) (e : DirEntry) : Bool :=
  let gone := fun (t : Nat) => e.tiles.contains t && ((d.core (2 * t)).l2Line e.line).isNone && ((d.core (2 * t + 1)).l2Line e.line).isNone
  match a with
  | .core c => gone (c.val / 2)
  | .tile t => gone t.val
  | .socket s => e.socks.contains s.val
  | .cxl h => e.cxls.contains h.val

def DirEntry.without (e : DirEntry) (a : DeadAgent) : DirEntry :=
  match a with
  | .core c => { e with tiles := e.tiles.filter (· != c.val / 2) }
  | .tile t => { e with tiles := e.tiles.filter (· != t.val) }
  | .socket s => { e with socks := e.socks.filter (· != s.val) }
  | .cxl h => { e with cxls := e.cxls.filter (· != h.val) }

/-- A slice clears what one dead agent held, and discards its queued requests (R180, steps 2 and 3); how many lines it marked lost. -/
def Dev.walkFor (d : Dev) (n : Nat) (a : DeadAgent) : Dev × Nat :=
  let mine := (d.slice n).dir.filter fun e => d.entryLoses a e
  let (d1, k) := mine.foldl (fun (p : Dev × Nat) e =>
    if e.excl then ((p.1.lineLost n e.line).dropDir n e.line, p.2 + 1)
    else
      let x := e.without a
      (if x.holders.isEmpty then p.1.dropDir n e.line else p.1.setDir n x, p.2)) (d, 0)
  (d1.modSlice n fun s => { s with waitq := s.waitq.filter fun p => !deadSent a p.2.who }, k)

/-- RECLAMATION_WALK: step 3 of R180 in one slice, for every agent that is being reclaimed. -/
def Dev.reclaimWalk (d : Dev) (n : Nat) : Dev :=
  if d.board.reclaim.isEmpty || (d.slice n).walked then d else
  let (d1, k) := d.board.reclaim.foldl (fun (p : Dev × Nat) a =>
    let (x, m) := p.1.walkFor n a
    (x, p.2 + m)) (d, 0)
  let d2 := d1.modSlice n fun s => { s with walked := true }
  if k = 0 then d2 else d2.errAux (264 + n) 0x16 n k

/-- A slice that has entries to walk: one that the map names, or that still holds entries or requests. -/
def Dev.walkDue (d : Dev) (n : Nat) : Bool :=
  !(d.slice n).walked && (([0, 2, 4, 5].contains (d.sliceRole n) && !d.isOff (domOfSlice n)) || !(d.slice n).dir.isEmpty || !(d.slice n).waitq.isEmpty)

/-- RECLAMATION_WALK: step 3 of R180 is complete in a slice, or on another socket. -/
def Dev.walkDone (d : Dev) (w : Walker) : Dev :=
  match w with
  | .slice n => d.reclaimWalk n.val
  | .socket s => if d.board.reclaim.isEmpty then d else { d with board := { d.board with doneBy := insertNat s.val d.board.doneBy } }

/-- Another live socket has not completed the reclamation (R333). -/
def Dev.othersDue (d : Dev) : Bool := (List.range 4).any fun s => s != d.socket && d.sockUp s && !d.board.doneBy.contains s

/-- RECLAMATION_END: step 4 of R180, once every slice of every live socket has walked. A paused rebuild goes on, and the pause does not count (R178). -/
def Dev.reclaimEnd (d : Dev) : Dev :=
  if d.board.reclaim.isEmpty || (List.range 132).any d.walkDue || d.othersDue then d else
  let h := match d.hash.pausedAt with
    | some t => { d.hash with pausedAt := none, began := d.hash.began + (d.time - t) }
    | none => d.hash
  ({ d with board := { d.board with reclaim := [] }, hash := h }).setDead .DIR_DEAD_RECLAIM 0 false

/-- A repaired core returns under a new epoch, with empty caches; the logical number that it held stays lost until the
next cast-on, so it returns as a spare (R182, R233). -/
def Dev.readmitCore (d : Dev) (c : Nat) : Dev :=
  if d.coreRole c != 3 then d else
  let e := (d.epoch c + 1) % 256
  let d1 := ((d.setFld (.coreState c) .CORE_STATE_EPOCH e).setDirEpoch c e).setReg (.odmRcause c) (setF 0 .ODM_RCAUSE_REPAIR 1)
  let d2 := d1.modCore c fun k => { Core.reset with joined := k.joined, isoStart := k.isoStart, serial := k.serial, patch := k.patch }
  if d.lvalid c then d2.setFld (.coreState c) .CORE_STATE_ROLE 0
  else (d2.setFld (.coreState c) .CORE_STATE_ROLE 1).setPower c 2

/-- READMISSION (R182), no earlier than twice the end-to-end timeout after the declaration. A dead socket rejoins only at a cold reset
(R181), a caching device once its port is enabled again. -/
def Dev.readmit (d : Dev) (a : DeadAgent) : Dev :=
  let due := d.board.deadAt.any fun x => x.1 == a && d.past x.2 (us (2 * d.od 0x4010 2 2000))
  if !due || d.board.reclaim.contains a then d else
  let gone := { d with board := { d.board with deadAt := d.board.deadAt.filter fun x => x.1 != a } }
  match a with
  | .core c => gone.readmitCore c.val
  | .tile t => (gone.readmitCore (2 * t.val)).readmitCore (2 * t.val + 1)
  | .socket _ => d
  | .cxl h => if !d.cxlDown h.val then gone.setDead .DIR_DEAD_CXL h.val false else d

/-- A range in the fewest naturally aligned power-of-two blocks: their addresses and the logarithms of their sizes. -/
def alignedBlocks : Nat → Nat → Nat → List (Nat × Nat)
  | 0, _, _ => []
  | fuel + 1, lo, len =>
    if len = 0 then [] else
    let k := ((List.range 65).filter fun k => lo % 2 ^ k == 0 && decide (2 ^ k ≤ len)).length - 1
    (lo, k) :: alignedBlocks fuel (lo + 2 ^ k) (len - 2 ^ k)
/-- The size of the leaf of a TINV's page, as the holder's Translation Completions gave it or the stop caches it; else 4 KiB (log entry 116). -/
def IoStop.leafSize (x : IoStop) (h : Holder) (v : Tinv) : Nat :=
  match h.pages.find? fun p => decide (p.1 ≤ v.operand.toNat) && decide (v.operand.toNat < p.1 + p.2) with
  | some p => p.2
  | none => ((x.xlate.find? fun e => e.tenant == v.tenant && e.seg.toNat == v.operand.toNat / 2 ^ 48 && decide (e.base ≤ v.operand.toNat % 2 ^ 48) &&
    decide (v.operand.toNat % 2 ^ 48 < e.base + e.size)).map (·.size)).getD 4096
/-- The ATS Invalidation Requests that a stop sends to a holder for a TINV (R313). -/
def tinvRequests (v : Tinv) (leaf : Nat) : List (Nat × Nat) :=
  match v.scope, tinvSpan v with
  | .page, _ => alignedBlocks 1 (v.operand.toNat / leaf * leaf) leaf
  | .tenant, _ | .all, _ | _, none => [(0, 64)]
  | _, some (lo, hi) => alignedBlocks 64 lo (hi - lo)

/-- XLATEINV: a TINV arrives at a target, which applies it and owes an acknowledgement (R150, R313). Walks in progress are whole within a
command. The manager forwards it to another socket (R333). -/
def Dev.xlateInv (d : Dev) (target : Agent) (v : Tinv) : Dev :=
  let d := d.noteApplied v.issuer v.serial target
  match target with
  | .core c => d.modCore c.val fun k => k.applyTinv v
  | .engine e => d.modEngine e.val fun x => { x with xlate := x.xlate.filter fun t => !tinvRemovesLeaf v t }
  | .io g => d.modStop g.val fun x => { x with
      xlate := x.xlate.filter (fun t => !tinvRemovesLeaf v t),
      holders := x.holders.map fun h =>
        if v.scope == .all || h.tenant == v.tenant then
          { h with waiting := h.waiting ++ [(v.issuer, v.serial)], reqs := h.reqs ++ tinvRequests v (x.leafSize h v),
                   evict := h.evict || v.scope == .all || v.scope == .tenant } else h }
  | .socket s => if d.pins.isManager && d.sockUp s.val && s.val != d.socket then { d with board := { d.board with told := d.board.told ++ [(s.val, .tinv v)] } } else d
  | .cxl _ => d

/-! ### The commands -/

def execDeadAgentDeclaration (a : DeadAgent) (s : State) : Host.Outcome State Fault Refusal := s.done (s.dev.declareDead a)
def execReclamationEnd (s : State) : Host.Outcome State Fault Refusal := s.next s.dev.reclaimEnd
def execReadmission (a : DeadAgent) (s : State) : Host.Outcome State Fault Refusal := s.done (s.dev.readmit a)
def execXlateinv (target : Agent) (v : Tinv) (s : State) : Host.Outcome State Fault Refusal := s.done (s.dev.xlateInv target v)
def execXlateack (issuer : CoreId) (serial : Nat) (target : Agent) (dropped : Bool) (s : State) : Host.Outcome State Fault Refusal :=
  s.next (s.dev.xlateAck issuer serial target dropped)
def execRebuildStart (s : State) : Host.Outcome State Fault Refusal := s.done s.dev.rebuildBegin
def execScratchpadConversion (n : SliceId) (w : Fin 16) (s : State) : Host.Outcome State Fault Refusal := s.done (s.dev.spadConvert n.val w.val)
def execConversionDone (n : SliceId) (s : State) : Host.Outcome State Fault Refusal := s.done (s.dev.spadDone n.val)
def execScratchpadStarve (a : StarvedAccess) (s : State) : Host.Outcome State Fault Refusal :=
  s.done (s.dev.spadStarve a.slice.val a.waitedUs a.engine.val a.lane.val a.ea)
def execMarchTest (n : SliceId) (m : MarchMode) (s : State) : Host.Outcome State Fault Refusal := s.done (s.dev.marchStart n.val m)
def execMarchTestDone (n : SliceId) (cells : Nat) (dr dc : List (Nat × Nat)) (tag dir : Nat × Nat) (s : State) :
    Host.Outcome State Fault Refusal :=
  s.done (s.dev.marchEnd n.val cells (faultsOf dr dc tag dir))

/-! ### Memory controllers (R258 to R287) -/

def execMcRead (ch : Chan) (l : McLine) (f : ReadAttempt) (s : State) : Host.Outcome State Fault Refusal := s.done (s.dev.mcRead ch.val l f)
def execMcWrite (ch : Chan) (m : Msg) (s : State) : Host.Outcome State Fault Refusal := s.done (s.dev.mcAccept ch.val m)
def execMcIssue (ch : Chan) (s : State) : Host.Outcome State Fault Refusal := s.done (s.dev.mcIssue ch.val)
def execRefresh (ch : Chan) (r : Fin 8) (s : State) : Host.Outcome State Fault Refusal := s.next (s.dev.refreshRank ch.val r.val)
def execDimmTemperatureRead (ch : Chan) (t : List Int) (s : State) : Host.Outcome State Fault Refusal := s.next (s.dev.dimmTemps ch.val t)
def execFrequencyChange (low : Bool) (s : State) : Host.Outcome State Fault Refusal := s.next (s.dev.freqBegin low)
def execFrequencyChangeDone (s : State) : Host.Outcome State Fault Refusal := s.next s.dev.freqEnd
def execAlertN (ch : Chan) (s : State) : Host.Outcome State Fault Refusal := s.done (s.dev.alert ch.val)
def execRetrain (ch : Chan) (s : State) : Host.Outcome State Fault Refusal := s.done (s.dev.retrainBegin ch.val)
def execRetrainDone (ch : Chan) (ok : Bool) (s : State) : Host.Outcome State Fault Refusal := s.done (s.dev.retrainEnd ch.val ok)
def execBucketLeak (s : State) : Host.Outcome State Fault Refusal := s.next s.dev.leak
def execDemandScrub (ch : Chan) (s : State) : Host.Outcome State Fault Refusal := s.next (s.dev.scrubGo ch.val)
def execDemandScrubAbort (a : ScrubAborted) (s : State) : Host.Outcome State Fault Refusal :=
  s.done (s.dev.scrubAbort a.chan.val a.lines a.found)
def execDemandScrubDone (ch : Chan) (f : List ReadAttempt) (s : State) : Host.Outcome State Fault Refusal := s.done (s.dev.scrubEnd ch.val f)
def execPatrolScrub (ch : Chan) (f : List ReadAttempt) (s : State) : Host.Outcome State Fault Refusal := s.done (s.dev.patrol ch.val f)
def execZeroFillWrite (ch : Chan) (s : State) : Host.Outcome State Fault Refusal := s.next (s.dev.zeroFill ch.val)
def execSwatchRun (g : SwatchGo) (s : State) : Host.Outcome State Fault Refusal := s.next (s.dev.swatchGo g.chan.val g.ctl g.pat g.scan)
def execSwatchRunDone (ch : Chan) (e : List (List Bool)) (s : State) : Host.Outcome State Fault Refusal := s.next (s.dev.swatchEnd ch.val e)

/-! ### Data engines (R337 to R353) -/

def execEngCopy (e : EngineId) (q : Quantum) (s : State) : Host.Outcome State Fault Refusal :=
  s.done (s.dev.engRun e.val q.lane.val 1 q.units (copyStep e.val))
def execEngFill (e : EngineId) (q : Quantum) (s : State) : Host.Outcome State Fault Refusal :=
  s.done (s.dev.engRun e.val q.lane.val 2 q.units (fillStep e.val))
def execEngCompare (e : EngineId) (q : Quantum) (s : State) : Host.Outcome State Fault Refusal :=
  s.done (s.dev.engRun e.val q.lane.val 3 q.units (compareStep e.val))
def execEngZero (e : EngineId) (q : Quantum) (s : State) : Host.Outcome State Fault Refusal :=
  s.done (s.dev.engRun e.val q.lane.val 4 q.units (zeroStep e.val))
def execEngCrc32c (e : EngineId) (q : Quantum) (s : State) : Host.Outcome State Fault Refusal :=
  s.done (s.dev.engRun e.val q.lane.val 5 q.units (crcStep e.val))
def execEngSha256 (e : EngineId) (q : Quantum) (s : State) : Host.Outcome State Fault Refusal :=
  s.done (s.dev.engRun e.val q.lane.val 6 q.units (shaStep e.val · sha256Kind))
def execEngSha512 (e : EngineId) (q : Quantum) (s : State) : Host.Outcome State Fault Refusal :=
  s.done (s.dev.engRun e.val q.lane.val 7 q.units (shaStep e.val · sha512Kind))
def execEngGcmEnc (e : EngineId) (q : Quantum) (s : State) : Host.Outcome State Fault Refusal :=
  s.done (s.dev.engRun e.val q.lane.val 8 q.units (gcmStep e.val · true))
def execEngGcmDec (e : EngineId) (q : Quantum) (s : State) : Host.Outcome State Fault Refusal :=
  s.done (s.dev.engRun e.val q.lane.val 9 q.units (gcmStep e.val · false))
def execEngXtsEnc (e : EngineId) (q : Quantum) (s : State) : Host.Outcome State Fault Refusal :=
  s.done (s.dev.engRun e.val q.lane.val 10 q.units (xtsStep e.val · true))
def execEngXtsDec (e : EngineId) (q : Quantum) (s : State) : Host.Outcome State Fault Refusal :=
  s.done (s.dev.engRun e.val q.lane.val 11 q.units (xtsStep e.val · false))
def execEngDeflate (e : EngineId) (q : Quantum) (s : State) : Host.Outcome State Fault Refusal :=
  s.done (s.dev.engRun e.val q.lane.val 12 q.units (deflateStep e.val))
def execEngInflate (e : EngineId) (q : Quantum) (s : State) : Host.Outcome State Fault Refusal :=
  s.done (s.dev.engRun e.val q.lane.val 13 q.units (inflateStep e.val))
def execQuantumEnd (e : EngineId) (l : Lane) (s : State) : Host.Outcome State Fault Refusal := s.done (s.dev.quantumEnd e.val l.val)
def execQuantumReplay (e : EngineId) (l : Lane) (s : State) : Host.Outcome State Fault Refusal := s.done (s.dev.quantumReplay e.val l.val)
/-- A doorbell or a register access reaches an engine that is not Off, and wakes it (R249, R355). -/
def Dev.atEngine (d : Dev) (i : Nat) (f : Dev → Dev) : Dev :=
  let k := domOfEngine (i / 1024)
  if d.isOff k then d else f (d.wake k)

def execSqtail (i : InstId) (q : QId) (v : Word32) (s : State) : Host.Outcome State Fault Refusal := s.next (s.dev.atEngine i.val fun d => d.writeTail i.val q.val v.toNat)
def execCqhead (i : InstId) (q : QId) (v : Word32) (s : State) : Host.Outcome State Fault Refusal := s.done (s.dev.atEngine i.val fun d => d.writeHead i.val q.val v.toNat)
def execInstAssign (i : InstId) (s : State) : Host.Outcome State Fault Refusal := s.done (s.dev.atEngine i.val fun d => d.instAssign i.val)
def execInstEnable (i : InstId) (s : State) : Host.Outcome State Fault Refusal := s.done (s.dev.atEngine i.val fun d => d.instEnable i.val)
def execInstQuiesce (i : InstId) (s : State) : Host.Outcome State Fault Refusal := s.done (s.dev.atEngine i.val fun d => d.instQuiesce i.val)
def execInstAbort (i : InstId) (s : State) : Host.Outcome State Fault Refusal := s.done (s.dev.atEngine i.val fun d => d.instAbort i.val)
def execInstReset (i : InstId) (s : State) : Host.Outcome State Fault Refusal := s.done (s.dev.atEngine i.val fun d => d.instReset i.val)
def execInstRemove (i : InstId) (s : State) : Host.Outcome State Fault Refusal := s.done (s.dev.atEngine i.val fun d => d.instRemove i.val)
def execTxgo (i : InstId) (s : State) : Host.Outcome State Fault Refusal := s.done (s.dev.atEngine i.val fun d => d.mailTxGo i.val)
def execTxack (i : InstId) (s : State) : Host.Outcome State Fault Refusal := s.done (s.dev.atEngine i.val fun d => d.mailTxAck i.val)
def execRxgo (i : InstId) (s : State) : Host.Outcome State Fault Refusal := s.done (s.dev.atEngine i.val fun d => d.mailRxGo i.val)
def execRxack (i : InstId) (s : State) : Host.Outcome State Fault Refusal := s.done (s.dev.atEngine i.val fun d => d.mailRxAck i.val)

end Sys2Proof.Machine
end

