-- ==== Sys2Proof/Machine/Ports.lean ====
section
/-! DEFINITION. The configuration space of a root port (R302, R303, R315, R317, R318): a Type 1 header, and the capabilities of the options that R302
lists and of no other. The spec names the options; their registers are those of the PCI Express Base Specification, at offsets that this
model gives them (log entry 15). -/

namespace Sys2Proof.Machine

/-- A double-word of configuration space: the bits that it shows of the port, those that software writes with their reset value, and those that a
written 1 clears. -/
structure CfgWord where
  off  : Nat
  show_ : Word32
  rw   : Word32
  w1c  : Word32
  init : Word32
deriving DecidableEq, Repr

/-- The speed code of a rate (R298): 0 is 64 GT/s, 3 is 8 GT/s. -/
def speedCode (rate : Nat) : Nat := 6 - rate

/-- The header, the PCI Express capability, and power management. -/
def headerWords (dev : Nat) (x : PortSt) : List CfgWord :=
  let w := fun (n : Nat) => BitVec.ofNat 32 n
  let link := if x.up then speedCode x.rate + x.lanes * 16 + 2 ^ 13 else 0
  [⟨0x000, w (Config.vendorId.toNat + Config.rootPortId.toNat * 2 ^ 16), 0, 0, 0⟩, ⟨0x004, 0x00100000, 0x0547, 0xF9000000, 0⟩,
   ⟨0x008, 0x06040000, 0, 0, 0⟩, ⟨0x00C, 0x00010000, 0xFF, 0, 0⟩, ⟨0x018, 0, 0x00FFFFFF, 0, 0⟩, ⟨0x01C, 0, 0, 0xF9000000, 0⟩,
   ⟨0x020, 0, 0xFFF0FFF0, 0, 0⟩, ⟨0x024, 0x00010001, 0xFFF0FFF0, 0, 0⟩, ⟨0x028, 0, 0xFFFFFFFF, 0, 0⟩, ⟨0x02C, 0, 0xFFFFFFFF, 0, 0⟩,
   ⟨0x034, 0x40, 0, 0, 0⟩, ⟨0x03C, 0, 0x004300FF, 0, 0⟩,
   ⟨0x040, 0x01428010, 0, 0, 0⟩, ⟨0x044, 0x00008022, 0, 0, 0⟩, ⟨0x048, 0, 0x79FF, 0x000F0000, 0x2810⟩,
   ⟨0x04C, w (speedCode x.best + x.lanes * 16 + 0x800 + 2 ^ 19 + 2 ^ 20 + dev * 2 ^ 24), 0, 0, 0⟩,
   ⟨0x050, w ((link + 2 ^ 12) * 2 ^ 16), 0x00D3, 0xC0000000, 0⟩, ⟨0x054, 0x40, 0, 0, 0⟩,
   ⟨0x058, w (bitNat x.up * 2 ^ 22), 0x1FFF, 0x01080000, 0⟩, ⟨0x05C, 0, 0x1F, 0, 0⟩, ⟨0x060, 0, 0, 0x00010000, 0⟩,
   ⟨0x064, 0x00030180, 0, 0, 0⟩, ⟨0x068, 0, 0x105F, 0, 0⟩, ⟨0x06C, w ((2 ^ speedCode x.best - 1) * 2), 0, 0, 0⟩,
   ⟨0x070, 0, 0xF, 0, w (speedCode x.best)⟩, ⟨0x080, 0x00030001, 0, 0, 0⟩, ⟨0x084, 0, 0x3, 0, 0⟩]

/-- The extended capabilities: AER, ACS, DPC, PTM, Device 3 (tags of 14 bits, L0p), link IDE. -/
def extendedWords : List CfgWord :=
  [⟨0x100, 0x15020001, 0, 0, 0⟩, ⟨0x104, 0, 0, 0x03FFF030, 0⟩, ⟨0x108, 0, 0x03FFF030, 0, 0⟩, ⟨0x10C, 0, 0x03FFF030, 0, 0x00462030⟩,
   ⟨0x110, 0, 0, 0xF1C1, 0⟩, ⟨0x114, 0, 0xF1C1, 0, 0x2000⟩, ⟨0x118, 0xA0, 0x140, 0, 0⟩, ⟨0x12C, 0, 0x7, 0, 0⟩, ⟨0x130, 0, 0, 0x7F, 0⟩,
   ⟨0x150, 0x1601000D, 0, 0, 0⟩, ⟨0x154, 0x1F, 0x001F0000, 0, 0⟩,
   ⟨0x160, 0x1901001D, 0, 0, 0⟩, ⟨0x164, 0x10A0, 0x001F0000, 0, 0⟩, ⟨0x168, 0, 0, 0x9, 0⟩, ⟨0x16C, 0, 0, 0x00070707, 0⟩,
   ⟨0x170, 0, 0x00070707, 0, 0x00070707⟩, ⟨0x174, 0, 0x00070707, 0, 0⟩,
   ⟨0x190, 0x1A01001F, 0, 0, 0⟩, ⟨0x194, 0x106, 0, 0, 0⟩, ⟨0x198, 0, 0x3, 0, 0⟩,
   ⟨0x1A0, 0x1B01002F, 0, 0, 0⟩, ⟨0x1A4, 0xE, 0, 0, 0⟩, ⟨0x1A8, 0, 0xC, 0, 0⟩,
   ⟨0x1B0, 0x00010030, 0, 0, 0⟩, ⟨0x1B4, 0x1, 0, 0, 0⟩, ⟨0x1BC, 0, 0x1, 0, 0⟩]

/-- The double-word at an offset of a root port; one that the port does not have reads as 0 and takes no write. -/
def Dev.cfgWord (d : Dev) (g dev off : Nat) : CfgWord :=
  ((headerWords dev (d.port (g * 16 + dev)) ++ extendedWords).find? fun w => w.off == off).getD ⟨off, 0, 0, 0, 0⟩

/-- What is held of a double-word: the bits that software or the port sets. -/
def Dev.cfgHeld (d : Dev) (g dev off : Nat) : Word32 := Tbl.get (d.cfgWord g dev off).init (dev * 4096 + off) (d.stop g).config
def Dev.cfgRead (d : Dev) (g dev off : Nat) : Word32 := (d.cfgWord g dev off).show_ ||| d.cfgHeld g dev off
def Dev.cfgPut (d : Dev) (g dev off : Nat) (v : Word32) : Dev := d.modStop g fun s => { s with config := Tbl.set (dev * 4096 + off) v s.config }

/-- Status bits of a port's configuration space are set. -/
def Dev.cfgSet (d : Dev) (p off bits : Nat) : Dev :=
  d.cfgPut (stopOfPort p) (p % 16) off (d.cfgHeld (stopOfPort p) (p % 16) off ||| BitVec.ofNat 32 bits)

/-- A read of `size` bytes, naturally aligned. -/
def Dev.headerRead (d : Dev) (g dev r size : Nat) : Word :=
  BitVec.ofNat 64 ((d.cfgRead g dev (r / 4 * 4)).toNat >>> (8 * (r % 4)) % 2 ^ (8 * size))

/-- The bytes written, in their place, and their mask. -/
def cfgLanes (r size : Nat) (v : Word) : Word32 × Word32 :=
  let m := BitVec.ofNat 32 ((2 ^ (8 * size) - 1) <<< (8 * (r % 4)))
  (BitVec.ofNat 32 (v.toNat <<< (8 * (r % 4))) &&& m, m)

/-- A write's effect on the double-word that it reaches. -/
def Dev.cfgWrite (d : Dev) (g dev r size : Nat) (v : Word) : Dev :=
  let off := r / 4 * 4
  let w := d.cfgWord g dev off
  let (x, m) := cfgLanes r size v
  d.cfgPut g dev off ((d.cfgHeld g dev off &&& ~~~(w.rw &&& m) ||| (x &&& w.rw)) &&& ~~~(x &&& w.w1c))

/-! ### AER and DPC status -/

/-- What a containment leaves in the AER and DPC status of its port (R315): a surprise link-down is an uncorrectable error. -/
def Dev.dpcRecord (d : Dev) (p : Nat) (why : ContainCause) : Dev :=
  match why with
  | .linkDown => (d.cfgSet p 0x104 (2 ^ 5)).cfgSet p 0x168 1
  | .rpPio => d.cfgSet p 0x168 (1 + 3 * 2)
  | .software => d.cfgSet p 0x168 (1 + 3 * 2 + 1 * 2 ^ 5)
  | _ => d.cfgSet p 0x168 1

end Sys2Proof.Machine
end

