-- ==== Sys2Proof/Machine/Io.lean ====
section
/-! DEFINITION. I/O stops: DMA translation and its faults, ATS, containment, CXL caching devices, outbound windows and
configuration space, and the Brixnil links of a board (R298 to R333). What a request returns to a device is shown in
`Dev.outWord` and `Dev.outErr` (log entry 33). -/

namespace Sys2Proof.Machine

/-! ### Packets -/

/-- Answers a control-space or device access: Data for a read, Cmp for a write, Err for an error response. -/
def Dev.answer (d : Dev) (m : Msg) (write : Bool) (v : Word) (err : Bool) : Dev :=
  if err then d.send .err { backOf m with rstat := 1 }
  else if write then d.send .cmp (backOf m) else d.send .data { backOf m with sdata := v }
def Dev.out (d : Dev) (v : Word) (err : Bool) : Dev := { d with outWord := v, outErr := err }

/-! ### Ports and windows (R303 to R305, R317) -/

/-- Sends a non-posted request out of a port. -/
def Dev.outBegin (d : Dev) (g p : Nat) (m : Msg) (config write : Bool) (size : Nat) : Dev :=
  d.modStop g fun s => { s with
    outs := s.outs ++ [⟨s.nextTag, p, m.who, m.txid, config, write, size⟩], nextTag := (s.nextTag + 1) % 16384 }

/-- The enabled window entry with the lowest number whose range contains an offset. -/
def Dev.window (d : Dev) (g o : Nat) : Option Nat :=
  (List.range 64).find? fun n => d.bit (.iosOwinRange g n) .IOS_OWIN_RANGE_EN &&
    decide (d.fld (.iosOwinRange g n) .IOS_OWIN_RANGE_BASE ≤ o / 65536) && decide (o / 65536 ≤ d.fld (.iosOwinRange g n) .IOS_OWIN_RANGE_LIMIT)

/-- The socket, stop and offset of an address in the MMIO range (R304). -/
def mmioOf (pa : Nat) : Nat × Nat × Nat :=
  let o := pa - 0xF000000000000
  (o / 0x200000000000, o % 0x200000000000 / 0x40000000000, o % 0x40000000000)
def inEcam (o : Nat) : Bool := decide (0x3FFF0000000 ≤ o)

/-- The port whose subordinate range holds a bus. -/
def Dev.portOfBus (d : Dev) (g bus : Nat) : Option Nat :=
  ((List.range 16).map (g * 16 + ·)).find? fun p => (d.port p).assigned && decide ((d.port p).subBuses.1 ≤ bus) &&
    decide (bus ≤ (d.port p).subBuses.2) && decide (0 < bus)

/-- What an access in a stop's range comes to: an error response, all ones from a contained port or an absent device, a
register of a root port's header (its device and offset), or a request out of a port. -/
inductive MmioRes
  | err
  | ones
  | header (dev r : Nat)
  | out (p : Nat) (config : Bool)
deriving DecidableEq, Repr

/-- Decodes an access at offset `o` of a stop's range (R303 to R305, R315). -/
def Dev.mmioRes (d : Dev) (g o size : Nat) : MmioRes :=
  if inEcam o then
    let e := o - 0x3FFF0000000
    let bus := e / 0x100000
    let dev := e % 0x100000 / 0x8000
    if !(size == 1 || size == 2 || size == 4) || e % size != 0 then .err
    else if bus = 0 then (if dev < 16 ∧ e % 0x8000 / 0x1000 = 0 ∧ (d.port (g * 16 + dev)).assigned then .header dev (e % 0x1000) else .ones)
    else match d.portOfBus g bus with
      | none => .ones
      | some p => if (d.port p).contained then .ones else .out p true
  else match d.window g o with
    | none => .err
    | some n =>
      let p := g * 16 + d.fld (.iosOwinRange g n) .IOS_OWIN_RANGE_PORT
      if !(d.port p).assigned then .err else if (d.port p).contained then .ones else .out p false

/-- The request that leaves by a port for an access at offset `o` of a stop's range (R303, R305). -/
def Dev.emit (d : Dev) (g o p : Nat) (config write : Bool) (size : Nat) (v : Word) : Dev :=
  let n := (d.window g o).getD 0
  let bus := BitVec.ofNat 64 (d.fld (.iosOwinXlate g n) .IOS_OWIN_XLATE_BUSBASE * 65536 + o) -
    BitVec.ofNat 64 (d.fld (.iosOwinRange g n) .IOS_OWIN_RANGE_BASE * 65536)
  let io := (d.port p).cxl.isSome
  let t : OutTlp := if config then ⟨p, true, io, d.socket * 8 + g, write, BitVec.ofNat 64 (o - 0x3FFF0000000), false, false, size, v⟩
    else ⟨p, false, io, 0, write, bus, decide (2 ^ 32 ≤ bus.toNat), write && d.bit (.iosOwinRange g n) .IOS_OWIN_RANGE_RELAX, size, v⟩
  d.modStop g fun s => { s with outTlp := some t }

/-- A device's access to an MMIO window (R309): what the window's port sends, or why there is none. -/
def Dev.peerAccess (d : Dev) (g o size : Nat) (write : Bool) (v answer : Word) : Dev :=
  match d.mmioRes g o size with
  | .out p config => let x := d.emit g o p config write size v
                     if write then x else x.out answer false
  | .ones => if write then d else d.out (BitVec.allOnes 64) false
  | _ => if write then d else d.out (BitVec.allOnes 64) true

/-! ### Device contexts (R307, R308) -/

def CtxEntry.valid (c : CtxEntry) : Bool := bitF c.w0 63
def CtxEntry.mode (c : CtxEntry) : Nat := getF c.w0 ⟨62, 61⟩
def CtxEntry.ats (c : CtxEntry) : Bool := bitF c.w0 60
def CtxEntry.p2p (c : CtxEntry) : Bool := bitF c.w0 59
def CtxEntry.cache (c : CtxEntry) : Bool := bitF c.w0 58
def CtxEntry.key (c : CtxEntry) : BitVec 11 := BitVec.ofNat 11 (getF c.w0 ⟨26, 16⟩)
def CtxEntry.tenant (c : CtxEntry) : Half := BitVec.ofNat 16 (getF c.w0 ⟨15, 0⟩)

def ioAgent (g : Nat) : Agent := .io (Fin.ofNat 8 g)

/-- The context of a requester, from the stop's cache or the table in memory. -/
def Dev.context (d : Dev) (g : Nat) (rid : Half) : Dev × Option CtxEntry :=
  match (d.stop g).ctxs.find? fun c => c.rid == rid with
  | some c => (d, some c)
  | none =>
    let root := d.fld (.iosCtxRoot g) .IOS_CTX_ROOT_ROOT * 2048
    let (d1, r, bad) := d.readD (ioAgent g) 0 (root + rid.toNat / 256 * 8)
    if bad || !bitF r 63 then (d1, none) else
    let a := getF r ⟨51, 13⟩ * 8192 + rid.toNat % 256 * 32
    let (d2, w0, b0) := d1.readD (ioAgent g) 0 a
    let (d3, w1, b1) := d2.readD (ioAgent g) 0 (a + 8)
    let c : CtxEntry := ⟨rid, w0, w1, a⟩
    if b0 || b1 || !c.valid then (d3, none)
    else (d3.modStop g fun s => { s with ctxs := (c :: s.ctxs).take 128 }, some c)

/-- Records a DMA fault and raises the stop's source (R309): the first fault since clearing is kept. -/
def Dev.dmaFault (d : Dev) (g reason code : Nat) (rid : Half) (addr : Word) : Dev :=
  let d1 := d.countFld (.iosStat g) .IOS_STAT_FAULTS 1
  let d2 := if d1.bit (.iosFault g) .IOS_FAULT_VALID then d1 else
    (d1.setFlds (.iosFault g) [(.IOS_FAULT_VALID, 1), (.IOS_FAULT_REASON, reason), (.IOS_FAULT_WCODE, code), (.IOS_FAULT_RID, rid.toNat)]).setReg
      (.iosFaultAddr g) addr
  d2.wire (4128 + 2 * g)

/-- How a stop's walk differs from a core's (R309). -/
def ioBy (g : Nat) (c : CtxEntry) : WalkBy where
  who := ioAgent g
  set := .setS
  segtab := c.segtab
  level := .u
  uRule := false
  fixed := some (c.tenant, c.key)
  marks := true

/-- What a DMA address comes to. -/
inductive DmaRes
  | ok (pa : Nat) (key : BitVec 11) (size : Nat)
  | fault (reason code : Nat)
deriving DecidableEq, Repr

/-- A target that DMA may reach: memory or a scratchpad window, or an MMIO window of a context with P2P. -/
def Dev.dmaTarget (d : Dev) (p2p plain : Bool) (pa : Nat) : Bool :=
  match d.place pa with
  | .dram _ _ | .remote _ => true
  | .cxl _ | .spad _ _ _ | .remoteSpad _ => !plain
  | .mmio _ _ o => p2p && !plain && decide (o < 0x3FFF0000000)
  | _ => false

/-- Translates a DMA address under its context (R307 to R311). -/
def Dev.dmaXlate (d : Dev) (g : Nat) (t : Tlp) (kind : AccKind) : Dev × DmaRes :=
  let pa := t.addr.toNat % 2 ^ 52
  if t.pasid then (d, .fault 7 0)
  else if !d.bit (.iosCtxRoot g) .IOS_CTX_ROOT_EN then
    if t.translated then (d, .fault 5 0)
    else if d.dmaTarget false true pa then (d, .ok pa 0 4096) else (d, .fault 4 0)
  else
    let (d1, c) := d.context g t.rid
    match c with
    | none => (d1, .fault 1 0)
    | some c =>
      if c.mode = 2 ∨ c.mode = 3 then (d1, .fault 2 0)
      else if t.translated then
        if !c.ats then (d1, .fault 5 0)
        else if d1.dmaTarget c.p2p false pa then (d1, .ok pa c.key 4096) else (d1, .fault 4 0)
      else if c.mode = 1 then
        if d1.dmaTarget c.p2p false pa then (d1, .ok pa c.key 4096) else (d1, .fault 4 0)
      else match Dev.settleTrans (ioAgent g) kind (fun x => x.walk (ioBy g c) t.addr kind) 4 d1 with
        | (d2, .fault code) => (d2, .fault 3 code)
        | (d2, .poison _) => (d2, .fault 3 0)
        | (d4, .ok x) =>
          if d4.dmaTarget c.p2p false x.pa then (d4, .ok x.pa c.key x.size) else (d4, .fault 4 0)

/-- A port discards what it receives while it is contained (R315). -/
def Dev.portDead (d : Dev) (p : Nat) : Bool := (d.port p).contained || !(d.port p).assigned || !(d.port p).up

def msgdbPa (d : Dev) : Nat := csb d.socket + 0x6100000

/-- INBOUND_READ (R306, R309). Reads stay behind earlier writes of their requester, since every command is whole. -/
def Dev.inboundRead (d : Dev) (g : Nat) (t : Tlp) : Dev :=
  if d.portDead t.port.val then d else
  match d.dmaXlate g t .load with
  | (d1, .fault r c) => (d1.dmaFault g r c t.rid t.addr).out (BitVec.allOnes 64) true
  | (d1, .ok pa key _) =>
    match d1.place pa with
    | .mmio s g' o =>
      if s == d1.socket then (let (i, d2) := d1.draw; d2.peerAccess g' o t.len false 0 (Config.deviceData i))
      else if !d1.sockUp s then d1.out (BitVec.allOnes 64) true
      else (match d1.farGet .devrd (d1.packetTo (ioAgent g) pa 0 (BitVec.ofNat 64 (2 ^ t.len - 1)) 0 0 false) with
        | (d2, none) => d2
        | (d2, some a) => d2.out (a.data.truncate 64) (a.err || a.poison))
    | _ => let (d2, l, poison, err) := d1.readBytes (ioAgent g) key t.len pa t.len
           d2.out (BitVec.ofNat 64 (leNat (l.take 8))) (err || poison)

/-- Why a write to EVC_MSGDB is refused, if it is (R309, R311, R362): no context, a blocking one, or one without ATS for a translated write. -/
def Dev.msgRefused (d : Dev) (g : Nat) (t : Tlp) (c : Option CtxEntry) : Option Nat :=
  if !d.bit (.iosCtxRoot g) .IOS_CTX_ROOT_EN then (if t.translated then some 5 else none) else
  match c with
  | none => some 1
  | some c => if c.mode = 2 ∨ c.mode = 3 then some 2 else if t.translated && !c.ats then some 5 else none

/-- INBOUND_WRITE. A word write to EVC_MSGDB fires an identifier (R362). -/
def Dev.inboundWrite (d : Dev) (g : Nat) (t : Tlp) (b : List Byte) : Dev :=
  if d.portDead t.port.val then d
  else if t.addr.toNat = msgdbPa d && !t.pasid then
    let (d1, c) := if d.bit (.iosCtxRoot g) .IOS_CTX_ROOT_EN then d.context g t.rid else (d, none)
    match d1.msgRefused g t c with
    | some r => d1.dmaFault g r 0 t.rid t.addr
    | none => d1.msgDoorbell t.rid.toNat (BitVec.ofNat 64 (leNat (b.take 8))) b.length
  else match d.dmaXlate g t .store with
    | (d1, .fault r c) => d1.dmaFault g r c t.rid t.addr
    | (d1, .ok pa key _) =>
      match d1.place pa with
      | .mmio s g' o =>
        let v := BitVec.ofNat 64 (leNat (b.take 8))
        if s == d1.socket then d1.peerAccess g' o b.length true v 0
        else if d1.sockUp s then d1.farPost .devwr (d1.packetTo (ioAgent g) pa 0 (BitVec.ofNat 64 (2 ^ b.length - 1)) v 0 false) else d1
      | _ => let (d2, err) := d1.writeBytesAs (ioAgent g) key b.length pa b
             if err then d2.errAt (412 + g) 0x37 g pa else d2

def atomicRun (k : AtomicKind) (n old operand compare : Nat) : Nat :=
  match k with
  | .fetchAdd => (old + operand) % 2 ^ (8 * n)
  | .swap => operand
  | .cas => if old = compare % 2 ^ (8 * n) then operand else old

/-- ATOMICOP: one single-copy-atomic operation at the home; the old value is returned. -/
def Dev.inboundAtomic (d : Dev) (g : Nat) (t : Tlp) (k : AtomicKind) (operand compare : Word) : Dev :=
  if d.portDead t.port.val || !(t.len == 4 || t.len == 8) then d else
  match d.dmaXlate g t .store with
  | (d1, .fault r c) => (d1.dmaFault g r c t.rid t.addr).out (BitVec.allOnes 64) true
  | (d1, .ok pa key _) =>
    let (d2, l, poison, err) := d1.readBytes (ioAgent g) key t.len pa t.len
    if err || poison then d2.out (BitVec.allOnes 64) true else
    let old := leNat l
    let (d3, bad) := d2.writeBytesAs (ioAgent g) key t.len pa (leBytes t.len (atomicRun k t.len old operand.toNat compare.toNat))
    (if bad then d3.errAt (412 + g) 0x37 g pa else d3).out (BitVec.ofNat 64 old) false

/-! ### ATS (R311 to R314) -/

/-- TRANSLATION_REQUEST: the answer names the page and, in its low bits, the logarithm of its size, at most 1 GiB (log entry 33); a new
holder may first need the least recently used one to be invalidated (R312). -/
def Dev.translationRequest (d : Dev) (g : Nat) (t : Tlp) : Dev :=
  if d.portDead t.port.val then d
  else if t.pasid then (d.dmaFault g 7 0 t.rid t.addr).out 0 true
  else if !d.bit (.iosCtxRoot g) .IOS_CTX_ROOT_EN then (d.dmaFault g 5 0 t.rid t.addr).out 0 true
  else
    let (d1, c) := d.context g t.rid
    match c with
    | none => (d1.dmaFault g 1 0 t.rid t.addr).out 0 true
    | some c =>
      if !c.ats then (d1.dmaFault g 5 0 t.rid t.addr).out 0 true else
      match d1.dmaXlate g { t with translated := false } .load with
      | (d2, .fault r code) => (d2.dmaFault g r code t.rid t.addr).out 0 true
      | (d2, .ok pa _ size) =>
        let hs := (d2.stop g).holders
        let mine := fun (h : Holder) => h.rid == t.rid && h.tenant == c.tenant
        let page := pa - pa % min size (2 ^ 30) + Nat.log2 (min size (2 ^ 30))
        let named := (t.addr.toNat - t.addr.toNat % size, size)
        match hs.find? mine with
        | some h => (d2.modStop g fun s => { s with
            holders := { h with pages := named :: h.pages.filter (· != named) } :: s.holders.filter fun x => !mine x }).out (BitVec.ofNat 64 page) false
        | none =>
          if hs.length < 256 then
            (d2.modStop g fun s => { s with holders := ⟨t.rid, c.tenant, t.port.val, [], [], false, [named]⟩ :: s.holders }).out (BitVec.ofNat 64 page) false
          else
            let victim := hs.reverse.find? fun (h : Holder) => !h.evict
            d2.modStop g fun s => { s with
              holders := s.holders.map fun (h : Holder) => if some h = victim then { h with evict := true, reqs := h.reqs ++ [(0, 64)] } else h,
              atsWait := s.atsWait ++ [t] }

/-- The TINVs that waited on a holder and on no other holder of the stop are acknowledged; a holder that was dropped makes the stop a
dropped target (R91). -/
def Dev.holderDone (d : Dev) (g : Nat) (l : List (Agent × Nat)) (dropped : Bool) : Dev :=
  l.foldl (fun x w =>
    let y := if dropped then x.noteDropped w.1 w.2 else x
    if (y.stop g).holders.any fun h => h.waiting.contains w then y else y.ackTinv w.1 w.2 (ioAgent g) dropped) d

/-- Requests that waited for an entry of the holder table are taken again, the oldest first. -/
def Dev.atsRetry (d : Dev) (g : Nat) : Dev :=
  match (d.stop g).atsWait with
  | [] => d
  | t :: rest => (d.modStop g fun s => { s with atsWait := rest }).translationRequest g t
/-- As many of them as entries have become free. -/
def Dev.atsRetries (d : Dev) (g n : Nat) : Dev := (List.range n).foldl (fun x _ => x.atsRetry g) d

/-- INVALIDATION_COMPLETION (R312, R313) of a holder's oldest request. With its last one the holder of a full invalidation is freed. -/
def Dev.invalCompletion (d : Dev) (g : Nat) (rid tenant : Half) : Dev :=
  match (d.stop g).holders.find? fun h => h.rid == rid && h.tenant == tenant with
  | none => d
  | some h =>
    let hs := (d.stop g).holders
    if 2 ≤ h.reqs.length then
      d.modStop g fun s => { s with holders := hs.map fun (x : Holder) => if x == h then { x with reqs := x.reqs.tail } else x }
    else
    let hs' : List Holder := if h.evict then hs.filter (fun x => x != h) else hs.map fun (x : Holder) =>
      if x == h then { x with waiting := [], reqs := [] } else x
    let d1 := d.modStop g fun s => { s with holders := hs' }
    let d2 := d1.holderDone g h.waiting false
    if h.evict then d2.atsRetry g else d2

/-! ### Containment (R315 to R318) -/

def containCode : ContainCause → Nat
  | .linkDown => 1 | .aer => 2 | .rpPio => 3 | .atsTimeout => 4 | .abandoned => 5 | .software => 6

/-- Completes a request that a stop had sent out of a port. -/
def Dev.outDone (d : Dev) (g : Nat) (r : OutReq) (v : Word) (err : Bool) : Dev :=
  let d1 := d.modStop g fun s => { s with outs := s.outs.filter fun x => x.tag != r.tag }
  let m := d.fabric.txns.find? fun x => x.who == r.who && x.txid == r.txid
  match m with
  | some t =>
    let base : Msg := { src := ioNode g, dst := d.agentNode r.who, who := r.who, addr := t.addr, epoch := 0, txid := r.txid, key := 0,
                        poison := false, collide := false, rstat := if err then 1 else 0, byteen := 0, sdata := v, data := 0 }
    d1.send (if err then .err else if r.write then .cmp else .data) base
  | none => d1.out v err

/-- A caching device is attached: one of type 1 or 2, directly (R319). -/
def PortSt.caches (x : PortSt) : Bool := x.dev.any fun v => (v.type == 1 || v.type == 2) && !v.switched

/-- CONTAINMENT of a port. Its AER and DPC status record it. Its holders are dropped after an ATS timeout and where the device is declared dead; else they count as having
acknowledged (log entry 113). -/
def Dev.contain (d : Dev) (p : Nat) (why : ContainCause) : Dev :=
  let x := d.port p
  if !x.assigned || x.contained then d else
  let g := stopOfPort p
  let down := why = .linkDown ∨ why = .abandoned
  let d1 := d.modPort p fun y => { y with contained := true, up := if down then false else y.up }
  let d2 := if down then d1.setFld (.sknState (p / 4)) .SKN_STATE_UP (setBit (d1.fld (.sknState (p / 4)) .SKN_STATE_UP) (p % 4) false) else d1
  let freed := (d2.stop g).holders.filter fun h => h.port == p
  let d3 := d2.modStop g fun s => { s with holders := s.holders.filter (fun h => h.port != p), atsWait := s.atsWait.filter fun t => t.port.val != p }
  let d4 := freed.foldl (fun y h => y.holderDone g h.waiting (why == .atsTimeout || x.caches)) d3
  let d4 := d4.atsRetries g freed.length
  let d5 := ((d4.stop g).outs.filter fun r => r.port == p).foldl (fun y r => y.outDone g r (BitVec.ofNat 64 (2 ^ (8 * r.size) - 1)) false) d4
  let d6 := match x.cxl with
    | some h => if x.caches then d5.declareDead (.cxl (Fin.ofNat 16 h)) else d5
    | none => d5
  ((((d6.dpcRecord p why).countFld (.iosStat g) .IOS_STAT_CONTAIN 1).errAux (412 + g) 0x30 p (containCode why)).wire (4129 + 2 * g)).wire (4144 + p / 4)

/-- CONTAINMENT_RELEASE: the DPC trigger status is cleared, and the port trains again, from its highest rate (R316, R318). -/
def Dev.containRelease (d : Dev) (p : Nat) : Dev :=
  if !(d.port p).contained then d else
  let d1 := d.cfgPut (stopOfPort p) (p % 16) 0x168 (d.cfgHeld (stopOfPort p) (p % 16) 0x168 &&& ~~~0x7F)
  (d1.modPort p fun y => { y with contained := false, up := true, rate := y.best }).setFld (.sknState (p / 4)) .SKN_STATE_UP
    (setBit (d.fld (.sknState (p / 4)) .SKN_STATE_UP) (p % 4) true)

/-- A write of a root port's configuration space (R303): the bus numbers of its Type 1 header set its subordinate range, a software trigger contains the
port where DPC is enabled, and clearing the trigger status releases it (R315, R318). -/
def Dev.headerWrite (d : Dev) (g dev r size : Nat) (v : Word) : Dev :=
  let p := g * 16 + dev
  let d1 := d.cfgWrite g dev r size v
  let x := (cfgLanes r size v).1
  match r / 4 with
  | 6 => let w := (d1.cfgHeld g dev 0x18).toNat
         d1.modPort p fun y => { y with subBuses := (w / 2 ^ 8 % 256, w / 2 ^ 16 % 256) }
  | 0x59 => if x.getLsbD 22 && d1.cfgHeld g dev 0x164 &&& 0x30000 != 0 then d1.contain p .software else d1
  | 0x5A => if x.getLsbD 0 then d1.containRelease p else d1
  | _ => d1

/-- ATS_TIMEOUT of a holder (R314). -/
def Dev.atsTimeout (d : Dev) (g : Nat) (rid tenant : Half) : Dev :=
  match (d.stop g).holders.find? fun h => h.rid == rid && h.tenant == tenant with
  | none => d
  | some h =>
    let (d1, c) := d.context g rid
    let d2 := match c with
      | none => d1
      | some c =>
        let (d1, now, bad) := d1.readD (ioAgent g) 0 c.at_
        let cs := (d1.stop g).ctxs.map fun (x : CtxEntry) => if x.rid == rid then { x with w0 := setF x.w0 ⟨60, 60⟩ 0 } else x
        (if bad then d1 else (d1.writeD (ioAgent g) 0 c.at_ (setF now ⟨60, 60⟩ 0)).1).modStop g fun s => { s with ctxs := cs }
    let d3 := d2.modStop g fun s => { s with holders := s.holders.filter fun x => !(x.rid == rid && x.tenant == tenant) }
    let d4 := (d3.setFlds (.iosAtsLog g) [(.IOS_ATS_LOG_VALID, 1), (.IOS_ATS_LOG_PORT, h.port), (.IOS_ATS_LOG_TENANT, tenant.toNat),
      (.IOS_ATS_LOG_RID, rid.toNat)]).countFld (.iosStat g) .IOS_STAT_ATSTO 1
    let d5 := (d4.holderDone g h.waiting true).wire (4129 + 2 * g)
    (if h.evict then d5.atsRetry g else d5).contain h.port .atsTimeout

/-! ### Invalidation of contexts (R310) -/

/-- A write of IOS_CTX_INV.GO: the invalidation of FIRST to LAST is under way. -/
def Dev.ctxInvGo (d : Dev) (g : Nat) : Dev := d.setFld (.iosCtxInv g) .IOS_CTX_INV_BUSY 1

/-- CONTEXT_INVALIDATION: the invalidation of FIRST to LAST that software has asked for is done. The cached contexts of the requester IDs are gone, and
every cached translation of the stop with them, which a cache may give up at any time. -/
def Dev.ctxInval (d : Dev) (g : Nat) (first last : Half) : Dev :=
  if !d.bit (.iosCtxInv g) .IOS_CTX_INV_BUSY || d.fld (.iosCtxInv g) .IOS_CTX_INV_FIRST != first.toNat ||
    d.fld (.iosCtxInv g) .IOS_CTX_INV_LAST != last.toNat then d else
  (d.modStop g fun s => { s with
    ctxs := s.ctxs.filter (fun c => !(decide (first.toNat ≤ c.rid.toNat) && decide (c.rid.toNat ≤ last.toNat))),
    xlate := [] }).setFld (.iosCtxInv g) .IOS_CTX_INV_BUSY 0

/-! ### Outbound accesses -/

/-- An access to a stop's range by packet. A write through a window is posted; the rest wait for their completion. -/
def Dev.mmioAccess (d : Dev) (m : Msg) (write : Bool) (size g o : Nat) : Dev :=
  let d := d.beginTxn m (if write then .devwr else .devrd)
  match d.mmioRes g o size with
  | .err => d.answer m write 0 true
  | .ones => d.answer m write (BitVec.ofNat 64 (2 ^ (8 * size) - 1)) false
  | .header dev r => if write then (d.headerWrite g dev r size m.sdata).answer m true 0 false
                     else d.answer m false (d.headerRead g dev r size) false
  | .out p config =>
    let d := d.emit g o p config write size (if write then m.sdata else 0)
    if write && !config then d.answer m true 0 false else d.outBegin g p m config write size

/-- OUTBOUND_WINDOW_ACCESS. -/
def Dev.windowAccess (d : Dev) (m : Msg) (write : Bool) (size : Nat) : Dev :=
  let (s, g, o) := mmioOf m.addr.toNat
  if !inMmio m.addr.toNat || s != d.socket || 8 ≤ g || inEcam o then d else d.mmioAccess m write size g o

/-- CONFIGURATION_ACCESS (R303): byte, half-word or word, naturally aligned. -/
def Dev.configAccess (d : Dev) (m : Msg) (write : Bool) (size : Nat) : Dev :=
  let (s, g, o) := mmioOf m.addr.toNat
  if !inMmio m.addr.toNat || s != d.socket || 8 ≤ g || !inEcam o then d else d.mmioAccess m write size g o

/-- INBOUND_COMPLETION of an outbound request: a configuration request that no device answers reads all ones. -/
def Dev.inboundCompletion (d : Dev) (g tag : Nat) (v : Word) (ok poison : Bool) : Dev :=
  match (d.stop g).outs.find? fun r => r.tag == tag with
  | none => d
  | some r =>
    if ok && !poison then d.outDone g r (BitVec.ofNat 64 (v.toNat % 2 ^ (8 * r.size))) false
    else if r.config then d.outDone g r (BitVec.ofNat 64 (2 ^ (8 * r.size) - 1)) false
    else d.outDone g r v true

/-- COMPLETION_TIMEOUT (R317), an uncorrectable error under AER that does not contain the port. -/
def Dev.completionTimeout (d : Dev) (g tag : Nat) : Dev :=
  match (d.stop g).outs.find? fun r => r.tag == tag with
  | none => d
  | some r => (((d.outDone g r (BitVec.ofNat 64 (2 ^ (8 * r.size) - 1)) false).cfgSet r.port 0x104 (2 ^ 14)).err (412 + g) 0x31 g).wire (4144 + r.port / 4)

/-! ### CXL caching devices (R320) -/

def cxlOpc : CxlReq → Option Opc
  | .rdShared | .rdAny => some .rds
  | .rdOwn => some .rdo
  | .rdOwnNoData => some .upg
  | .rdCurr => some .rdna
  | .itoMWr | .wrCur | .wrInv => some .iow
  | .dirtyEvict => some .wbd
  | .cleanEvict => some .evc
  | .cleanEvictNoData => none

/-- CXL_CACHE_REQUEST. -/
def Dev.cxlRequest (d : Dev) (h : CxlId) (t : Tlp) (q : CxlReq) (x : Line) : Dev :=
  match d.cxlPort h.val with
  | none => d
  | some p =>
    let g := stopOfPort p
    if d.portDead p || !(d.port p).caches then d
    else if !d.bit (.iosCtxRoot g) .IOS_CTX_ROOT_EN then (d.dmaFault g 6 0 t.rid t.addr).out 0 true
    else
      let (d1, c) := d.context g t.rid
      match c with
      | none => (d1.dmaFault g 1 0 t.rid t.addr).out 0 true
      | some c =>
        let pa := t.addr.toNat % 2 ^ 52
        if !(c.cache && (c.mode == 1 || c.ats)) || c.mode == 2 then (d1.dmaFault g 6 0 t.rid t.addr).out 0 true
        else if !d1.walkable pa then (d1.dmaFault g 4 0 t.rid t.addr).out 0 true
        else match cxlOpc q with
          | none => d1
          | some o =>
            let (d2, r) := d1.homeServe o (.cxl h) (pa / 64) c.key x fullMask false
            let writes := o == .iow || o == .rdo || o == .upg
            (if writes && !r.got.err then d2.noteOutside none (pa / 64) else d2).out (r.got.data.truncate 64) r.got.err

/-! ### Brixnil links (R323 to R328) -/

/-- The other socket whose EVC_MSGDB a DMA address names. -/
def Dev.peerMsgdb (d : Dev) (a : Nat) : Option Nat :=
  (List.range 4).find? fun s => s != d.socket && d.present s && a == csb s + 0x6100000

/-- INBOUND_WRITE: a write to another socket's EVC_MSGDB that its context does not block is forwarded over Brixnil (R362). -/
def Dev.inboundWriteFrom (d : Dev) (g : Nat) (t : Tlp) (b : List Byte) : Dev :=
  match d.peerMsgdb t.addr.toNat with
  | none => d.inboundWrite g t b
  | some s =>
    if t.pasid || d.portDead t.port.val then d.inboundWrite g t b else
    let (d1, c) := if d.bit (.iosCtxRoot g) .IOS_CTX_ROOT_EN then d.context g t.rid else (d, none)
    match d1.msgRefused g t c with
    | some r => d1.dmaFault g r 0 t.rid t.addr
    | none =>
    if b.length ≠ 4 then d1.countFld .evcStat .EVC_STAT_BADMSG 1
    else d1.cross s .msg (d1.packetTo (ioAgent g) t.addr.toNat 0 0 (BitVec.ofNat 64 (t.rid.toNat * 2 ^ 48 + leNat b)) 0 false)

/-- A peer's snoop is resolved by this socket's own directories (R162, R323): what its holders answer together. -/
def Dev.proxySnoop (d : Dev) (o : Opc) (m : Msg) : Dev × Opc × Msg :=
  let ln := m.addr.toNat / 64
  let (n, _) := d.home ln
  match (d.slice n).dirEntry ln with
  | none => (d, .nocopy, { backOf m with rstat := 3 })
  | some e =>
    let (d1, a) := d.snoopAll { m with src := sliceNode n } e.holders none (if o = .snp then .share else .inval) e.excl
    let d2 := if o = .snp then d1.setDir n { e with excl := false } else (d1.dropLlc n ln).dropDir n ln
    if a.lost then (d2, .copylost, { backOf m with rstat := 2 }) else
    match a.held with
    | none => (d2, .ack, backOf m)
    | some b =>
      if b.line.st = Mesi.shared then (d2, .ack, backOf m)
      else (d2, .snpdata, { backOf m with data := b.line.data, poison := b.line.poison, key := b.line.key,
                                          byteen := if b.line.st = Mesi.modified then fullMask else 0 })

/-- The final response of a transaction that this side has proxied is kept, and returns over its link under the link TXID (R323, R328). -/
def Dev.proxyDone (d : Dev) (o : Opc) (own : Half) (m : Msg) : Dev :=
  let k := own.toNat % 16
  match (d.link k).proxied.find? fun y => y.own == own && y.resp.isNone with
  | none => d
  | some y =>
    let r : Msg := { m with txid := y.txid }
    (d.modLink k fun x => { x with
      proxied := x.proxied.map fun (z : Proxied) => if z == y then { z with resp := some (o, r), at_ := d.time } else z }).brxSend k o r false

/-- A whole packet from the link is injected (R323, R326): a request is reissued by the stop, as the peer's, with a TXID of this side, by which the
stop times it; a snoop is resolved here, and a response returns to the transaction that this side started. -/
def Dev.inject (d : Dev) (k : Nat) (p : BrxPacket) : Dev :=
  let l := d.link k
  if isResponse p.opc then
    match l.started.find? fun s => s.txid == p.packet.txid with
    | some c => (d.modLink k fun x => { x with
        started := x.started.filter (fun s => s.txid != c.txid),
        resent := x.resent.filter (· != c.txid) }).send p.opc { p.packet with who := c.req.who, txid := c.req.txid, dst := c.req.src }
    | none => d
  else
    let m := { p.packet with
      who := Agent.socket (Fin.ofNat 4 l.peer), src := ioNode (stopOfLink k), dst := d.destOf p.packet.addr.toNat, epoch := 0 }
    if p.opc = .msg then d.send p.opc m else
    let (d1, own) := d.linkId k
    let d2 := d1.modLink k fun x => { x with
      proxied := ⟨m.txid, own, p.opc, m, none, d.time⟩ :: x.proxied.filter fun y => y.txid != m.txid }
    if [Opc.snp, .snpinv, .backinv].contains p.opc then
      let (d3, o, r) := d2.proxySnoop p.opc m
      d3.proxyDone o own r
    else (d2.send p.opc { m with txid := own }).beginTxn { m with txid := own } p.opc

/-- What the stop of a link has proxied for its peer, over either of its links (R327, R328). -/
def Dev.proxiedBy (d : Dev) (k : Nat) (txid : Half) : Option Proxied :=
  ([k, k / 2 * 2, k / 2 * 2 + 1].filter fun j => (d.link j).peer == (d.link k).peer).findSome? fun j => (d.link j).proxied.find? fun y => y.txid == txid

/-- RETRY of a transaction (R328): a stored response is kept for eight times the link timeout. -/
def Dev.brxRetry (d : Dev) (k : Nat) (p : BrxPacket) : Dev :=
  match d.proxiedBy k p.packet.txid with
  | none => d.inject k p
  | some y => match y.resp with
    | some r => if d.past y.at_ (us (8 * d.od 0x4010 5 50)) then d.inject k p else d.brxSend k r.1 r.2 false
    | none => d

/-- A retrain begins: partial packets and the retry buffer are discarded and GEN is incremented (R327 step 1). -/
def Dev.brxRetrain (d : Dev) (k : Nat) : Dev :=
  (((d.modLink k fun x => { x with partials := 0, buffer := [], retrain := true, naks := 0, gotNaks := 0 }).wrapFld
    (.sknBrx (skeinOfLink k)) .SKN_BRX_GEN 1)).countFld (.sknBrx (skeinOfLink k)) .SKN_BRX_RETRAIN 1

/-- A flit that fails its CRC or comes out of sequence is answered with NAK; the eighth in succession of one SEQ starts a retrain. -/
def Dev.brxNak (d : Dev) (k : Nat) : Dev :=
  let l := d.link k
  let n := if l.nakSeq == l.rxSeq then l.naks + 1 else 1
  let d1 := (d.modLink k fun x => { x with naks := n, nakSeq := x.rxSeq }).sendFlit k true none
  if 8 ≤ n then d1.brxRetrain k else d1

/-- BRIXNIL_FLIT: a flit arrives (R325 to R327). -/
def Dev.brxFlit (d : Dev) (k : Nat) (f : BrxFlit) : Dev :=
  let l := d.link k
  let sk := Reg.sknBrx (skeinOfLink k)
  if !l.up && !l.retrain then d
  else if f.crcOk && f.gen.toNat != d.fld sk .SKN_BRX_GEN then d.countFld sk .SKN_BRX_LATE 1
  else if !f.crcOk || f.seq != l.rxSeq then d.brxNak k
  else
    let took := fun (c : Nat) => (f.packets.filter fun p => opcVc p.opc == c).foldl (fun n p => n + 1 + opcLen p.opc p.packet) 0
    let again := if !f.nak then 0 else if f.ack == l.ackSeq then l.gotNaks + 1 else 1
    let d1 := d.modLink k fun x => { x with
      rxSeq := x.rxSeq + 1, silentAt := d.time, naks := 0, ackSeq := f.ack, partials := f.partials, gotNaks := again,
      buffer := x.buffer.filter (fun q => decide (0 < (q.1 - f.ack).toNat) && decide ((q.1 - f.ack).toNat < 2048)),
      credits := (List.range 4).map (fun i => min 64 (x.credits.getD i 0 + f.credits.getD i 0)),
      owed := (List.range 4).map fun i => min 64 (x.owed.getD i 0 + took i) }
    let d2 := if f.nak then d1.replayFlits k else d1
    let d3 := f.packets.foldl (fun y p => if p.retry then y.brxRetry k p else y.inject k p) d2
    let d4 := d3.brxPump k (d3.link k).queue.length
    if 8 ≤ again then d4.brxRetrain k else d4

/-- KEEP_ALIVE: a flit is sent at least every microsecond. -/
def Dev.keepAlive (d : Dev) (k : Nat) : Dev := if !(d.link k).up || (d.link k).retrain then d else d.sendFlit k false none

/-- BRIXNIL_LINK_TIMEOUT (R327). -/
def Dev.brxTimeout (d : Dev) (k : Nat) : Dev := if (d.link k).up && !(d.link k).retrain then d.brxRetrain k else d

/-- Transactions started across a link are re-sent once with RETRY = 1. -/
def Dev.resend (d : Dev) (k : Nat) (l : List Crossing) : Dev :=
  let d1 := (d.modLink k fun x => { x with
    resent := x.resent ++ l.map (·.txid), queue := x.queue.filter fun q => !l.any fun c => c.txid == q.2.1.txid && !isResponse q.1 }).countFld
      (.sknBrx (skeinOfLink k)) .SKN_BRX_RETRY l.length
  l.foldl (fun x c => x.brxSend k c.opc { c.req with txid := c.txid } true) d1

/-- A transaction ends with an error response, a read also with poison (R327 step 5). -/
def Dev.brxFail (d : Dev) (k : Nat) (c : Crossing) : Dev :=
  ((d.modLink k fun x => { x with
    started := x.started.filter (fun s => s.txid != c.txid), resent := x.resent.filter (· != c.txid),
    queue := x.queue.filter fun q => isResponse q.1 || q.2.1.txid != c.txid }).send .err { backOf c.req with rstat := 1, poison := true }).err
      (412 + stopOfLink k) 0x35 (stopOfLink k)

/-- BRIXNIL_RETRAIN_DONE (R327 steps 2 to 5). -/
def Dev.brxRetrained (d : Dev) (k : Nat) (ok : Bool) : Dev :=
  let l := d.link k
  if !l.retrain then d else
  let todo := l.started.filter fun s => !l.resent.contains s.txid
  if ok then
    let d1 := d.modLink k fun x => { x with
      retrain := false, up := true, credits := [64, 64, 64, 64], owed := [], silentAt := d.time, rxSeq := 0, txSeq := 0 }
    let d2 := (d1.err (412 + stopOfLink k) 0x32 (stopOfLink k)).resend k todo
    d2.brxPump k (d2.link k).queue.length
  else
    let d1 := (d.modLink k fun x => { x with retrain := false, up := false, started := [], resent := [], queue := [] }).err
      (412 + stopOfLink k) 0x33 (stopOfLink k)
    let d1 := d1.setFld (.sknState (skeinOfLink k)) .SKN_STATE_UP 0
    let d2 := if d1.board.linkLost.any (fun p => p.1 == l.peer) then d1
      else { d1 with board := { d1.board with linkLost := (l.peer, l.silentAt) :: d1.board.linkLost } }
    match (List.range 16).find? fun j => j != k && (d2.link j).up && (d2.link j).peer == l.peer with
    | some j =>
      let d3 := (l.started.filter fun s => l.resent.contains s.txid).foldl (fun x c => x.brxFail k c) d2
      (d3.modLink j fun x => { x with started := x.started ++ todo }).resend j todo
    | none => l.started.foldl (fun x c => x.brxFail k c) d2

/-- RETRIED_TRANSACTION_TIMEOUT, by link TXID. -/
def Dev.retriedTimeout (d : Dev) (k : Nat) (txid : Half) : Dev :=
  match (d.link k).started.find? fun s => s.txid == txid && (d.link k).resent.contains txid with
  | some c => d.brxFail k c
  | none => d

/-- DEAD_AGENT_TIME: no live link to a peer for OD 0x4010:06 (R329). The manager declares a worker dead; of two workers that lose each other, the
higher-numbered one. -/
def Dev.peerLost (d : Dev) (w : LostPeer) : Dev :=
  let declare_ := fun (s : SockId) => (d.errAux 412 0x34 s.val s.val).declareDead (.socket s)
  match w with
  | .peer s =>
    let linked := (List.range 16).any fun j => (d.link j).up && (d.link j).peer == s.val
    if linked || s.val == d.socket || !d.present s.val || d.sockDead s.val then d
    else if d.pins.isManager then declare_ s
    else if s.val = 0 then d.err 412 0x36 0
    else d
  | .workers a b =>
    let s := if a.val < b.val then b else a
    if !d.pins.isManager || a == b || a.val == d.socket || b.val == d.socket || !d.sockUp a.val || !d.sockUp b.val then d else declare_ s

/-! ### Time and budget of a board (R331, R332) -/

/-- The time after a given one at which bits [29:0] of the time base wrap. -/
def nextWrap (t : Word) : Word := BitVec.ofNat 64 ((t.toNat / 2 ^ 30 + 1) * 2 ^ 30)

/-- The manager sends the workers the time of its next edge. -/
def Dev.sendSync (d : Dev) : Dev :=
  ({ d with pins := { d.pins with syncSent := some (nextWrap d.time) } } : Dev).tellAll (.time (nextWrap d.time))

/-- TIME_SYNC_DRIVE: the manager drives an edge when its time base equals the time that it has sent, and sends the next. -/
def Dev.syncDrive (d : Dev) : Dev :=
  if !d.pins.isManager || d.pins.syncSent != some d.time then d
  else ({ d with pins := { d.pins with timeSync := some true } } : Dev).sendSync

/-- TIME_SYNC: an edge arrives at a worker. The time T that the manager sent is a free value where none is held. -/
def Dev.syncEdge (d : Dev) : Dev :=
  if d.pins.isManager then d else
  let (i, d0) := d.draw
  let (t, d1) := match d.pins.syncSent with
    | some t => (t, d)
    | none => (Config.deviceData i, d0)
  let e := t + BitVec.ofNat 64 (d.od 0x4020 0 0)
  let nxt := some (nextWrap t)
  if !d.pins.syncFirst then { d1 with time := e, pins := { d1.pins with syncFirst := true, syncSent := nxt, syncAdjust := 0 } }
  else { d1 with pins := { d1.pins with syncSent := nxt, syncAdjust := (e.toNat : Int) - (d.time.toNat : Int) } }

/-- One nanosecond of the time base (R22). A worker that has counts to gain or to lose takes two counts or none in one
nanosecond of every 1,024 (R331). -/
def Dev.count (d : Dev) : Dev :=
  let a := d.pins.syncAdjust
  let n := (d.pins.syncPhase + 1) % 1024
  if a = 0 then { d with time := d.time + 1 }
  else if n ≠ 0 then { d with time := d.time + 1, pins := { d.pins with syncPhase := n } }
  else if 0 < a then { d with time := d.time + 2, pins := { d.pins with syncPhase := 0, syncAdjust := a - 1 } }
  else { d with pins := { d.pins with syncPhase := 0, syncAdjust := a + 1 } }

/-- A nanosecond in which no command arrives: the time base counts while VAUX is present, and each core performs the oldest store
of its store buffer, unless its line has to wait (R54, R104; log entries 1 and 106). -/
def Dev.tick (d : Dev) : Dev :=
  if d.pins.vaux then d.count.close (d.liveCores.foldl (fun x c => x.orWait (x.drainOne c)) d.count) else d

/-- A nanosecond of a device that runs: an error may arise in a protected array (log entry 104), then time passes. -/
def Dev.idle (d : Dev) : Dev :=
  if d.phase != .running then d.tick else
  let (n, d1) := d.draw
  match Config.upset n with
  | some u => (d1.orWait (d1.upset u)).tick
  | none => d1.tick

def Dev.liveSockets (d : Dev) : Nat := ((List.range 4).filter fun s => s == d.socket || d.sockUp s).length

/-- The limit in force is shown in PWR_STAT. -/
def Dev.setAllocation (d : Dev) (a : Nat) : Dev :=
  let d1 := d.setGov { d.gov with allocation := some a, allocAt := d.time }
  d1.setFld .pwrStat .PWR_STAT_LIMIT d1.govLimit

/-- The shares of some sockets, within what is left of the budget: which, is the governor's choice. -/
def Dev.shareOut : List Nat → Nat → Dev → Dev
  | [], _, d => d
  | s :: t, left, d =>
    let (d1, x) := d.amount left
    let n := min x left
    let d2 : Dev := { d1 with board := { d1.board with
      shares := Tbl.put 0 s n d1.board.shares, told := if s = d1.socket then d1.board.told else d1.board.told ++ [(s, .share n)] } }
    Dev.shareOut t (left - n) (if s = d2.socket then (d2.setAllocation n).govLog 8 0x50 0 0 (d.gov.allocation.getD 0) n else d2)

/-- BOARD_BUDGET_SPLIT: the manager's governor splits the budget among the live sockets, of which each has named its demand; at a worker, the share of
each socket arrives. -/
def Dev.budgetSplit (d : Dev) (watts : List Nat) : Dev :=
  if d.pins.isManager then
    Dev.shareOut ((List.range 4).filter fun s => s == d.socket || d.sockUp s) (d.od 0x4022 0 2800) d
  else match watts[d.socket]? with
    | some n => (d.setAllocation n).govLog 8 0x50 0 0 (d.gov.allocation.getD 0) n
    | none => d

/-- ALLOCATION_TIMEOUT: a worker without an allocation for 1 s. -/
def Dev.allocTimeout (d : Dev) : Dev :=
  if d.pins.isManager then d else
  let n := min (d.od 0x2000 1 700) (d.od 0x4022 0 2800 / max 1 d.liveSockets)
  (d.setAllocation n).govLog 8 0x50 0 0 (d.gov.allocation.getD 0) n

/-- ROOT_PORT_EVENT (R361). -/
def Dev.rootPort (d : Dev) (k : Nat) : Dev :=
  if (List.range 4).any fun j => (d.port (4 * k + j)).assigned then d.wire (4144 + k) else d

/-! ### The commands -/

def execInboundRead (g : IoStopId) (t : Tlp) (s : State) : Host.Outcome State Fault Refusal := s.done (s.dev.inboundRead g.val t)
def execInboundWrite (g : IoStopId) (t : Tlp) (b : List Byte) (s : State) : Host.Outcome State Fault Refusal :=
  s.done (s.dev.inboundWriteFrom g.val t b)
def execAtomicop (g : IoStopId) (t : Tlp) (k : AtomicKind) (operand compare : Word) (s : State) : Host.Outcome State Fault Refusal :=
  s.done (s.dev.inboundAtomic g.val t k operand compare)
def execTranslationRequest (g : IoStopId) (t : Tlp) (s : State) : Host.Outcome State Fault Refusal := s.done (s.dev.translationRequest g.val t)
def execContextInvalidation (g : IoStopId) (first last : Half) (s : State) : Host.Outcome State Fault Refusal := s.next (s.dev.ctxInval g.val first last)
def execInvalidationCompletion (g : IoStopId) (rid tenant : Half) (s : State) : Host.Outcome State Fault Refusal :=
  s.done (s.dev.invalCompletion g.val rid tenant)
def execAtsTimeout (g : IoStopId) (rid tenant : Half) (s : State) : Host.Outcome State Fault Refusal := s.done (s.dev.atsTimeout g.val rid tenant)
def execContainment (p : PortId) (why : ContainCause) (s : State) : Host.Outcome State Fault Refusal := s.done (s.dev.contain p.val why)
def execContainmentRelease (p : PortId) (s : State) : Host.Outcome State Fault Refusal := s.next (s.dev.containRelease p.val)
def execCompletionTimeout (g : IoStopId) (tag : Nat) (s : State) : Host.Outcome State Fault Refusal := s.done (s.dev.completionTimeout g.val tag)
def execInboundCompletion (g : IoStopId) (tag : Nat) (v : Word) (ok poison : Bool) (s : State) : Host.Outcome State Fault Refusal :=
  s.next (s.dev.inboundCompletion g.val tag v ok poison)
def execCxlCacheRequest (h : CxlId) (t : Tlp) (q : CxlReq) (x : Line) (s : State) : Host.Outcome State Fault Refusal :=
  s.done (s.dev.cxlRequest h t q x)
def execOutboundWindowAccess (m : Msg) (write : Bool) (size : Nat) (s : State) : Host.Outcome State Fault Refusal := s.next (s.dev.windowAccess m write size)
def execConfigurationAccess (m : Msg) (write : Bool) (size : Nat) (s : State) : Host.Outcome State Fault Refusal := s.done (s.dev.configAccess m write size)
def execBrixnilFlit (k : BrxId) (f : BrxFlit) (s : State) : Host.Outcome State Fault Refusal := s.done (s.dev.brxFlit k.val f)
def execKeepAlive (k : BrxId) (s : State) : Host.Outcome State Fault Refusal := s.next (s.dev.keepAlive k.val)
def execBrixnilLinkTimeout (k : BrxId) (s : State) : Host.Outcome State Fault Refusal := s.next (s.dev.brxTimeout k.val)
def execBrixnilRetrainDone (k : BrxId) (ok : Bool) (s : State) : Host.Outcome State Fault Refusal := s.done (s.dev.brxRetrained k.val ok)
def execRetry (k : BrxId) (p : BrxPacket) (s : State) : Host.Outcome State Fault Refusal := s.done (s.dev.brxRetry k.val p)
def execRetriedTransactionTimeout (k : BrxId) (txid : Half) (s : State) : Host.Outcome State Fault Refusal := s.done (s.dev.retriedTimeout k.val txid)
def execDeadAgentTime (peer : LostPeer) (s : State) : Host.Outcome State Fault Refusal := s.done (s.dev.peerLost peer)
def execTimeSyncDrive (s : State) : Host.Outcome State Fault Refusal := s.next s.dev.syncDrive
def execTimeSync (s : State) : Host.Outcome State Fault Refusal := s.next s.dev.syncEdge
def execBoardBudgetSplit (demand : List Nat) (s : State) : Host.Outcome State Fault Refusal := s.done (s.dev.budgetSplit demand)
def execAllocationTimeout (s : State) : Host.Outcome State Fault Refusal := s.done s.dev.allocTimeout
def execRootPortEvent (k : Skein) (_ev : RootPortEvent) (s : State) : Host.Outcome State Fault Refusal := s.done (s.dev.rootPort k.val)

end Sys2Proof.Machine
end

