-- ==== Sys2Proof/Machine/Csr.lean ====
section
/-! DEFINITION. Reads and writes of control-space registers (R5 to R8, R27 to R29): the access codes, the registers that
show other state, and what a write of a command field does. -/

namespace Sys2Proof.Machine

/-! ### Masks -/

/-- The bits that an access of `size` bytes at offset `o` reaches. -/
def reachMask (o size : Nat) : Word := if size = 8 then BitVec.allOnes 64 else if o % 8 = 0 then 0xFFFFFFFF else 0xFFFFFFFF00000000
/-- The bits of the fields with an access code. -/
def accMask (l : List FieldDesc) (a : Acc) : Word := (l.filter fun x => x.acc == a).foldl (fun w x => w ||| x.f.mask) 0

/-! ### What a register shows -/

/-- CORE_PNL from the member's state; CKSLICE is the register's own. -/
def Dev.showPnl (d : Dev) (c : Nat) : Word :=
  let w := d.reg (.corePnl c)
  match (d.core c).member.filter fun m => m.phase != .orphan with
  | none => w
  | some m =>
    let susp := bitNat (m.phase == .suspended)
    let mem := bitNat (m.phase != .named && m.phase != .lost)
    [(Fld.CORE_PNL_MEMBER, mem), (Fld.CORE_PNL_SUSP, susp), (Fld.CORE_PNL_RETRY, bitNat m.retry), (Fld.CORE_PNL_REPLAY, bitNat m.replaying),
     (Fld.CORE_PNL_SLOT, m.slot), (Fld.CORE_PNL_INDEX, m.index), (Fld.CORE_PNL_FROGRUN, m.frogrun), (Fld.CORE_PNL_COUNT, m.count)].foldl
      (fun x p => setF x p.1 p.2) w

/-- SLC_REBUILD of every slice shows the socket's one rebuild (R198). -/
def Dev.showRebuild (d : Dev) : Word :=
  let h := d.hash
  [(Fld.SLC_REBUILD_ACTIVE, bitNat (h.active != .none)), (Fld.SLC_REBUILD_KIND, h.active.code), (Fld.SLC_REBUILD_PTR, h.ptr),
   (Fld.SLC_REBUILD_SLICE, h.slice), (Fld.SLC_REBUILD_QUEUED, min 15 h.queue.length)].foldl (fun x p => setF x p.1 p.2)
    (d.reg (.slcRebuild 0))

/-- The present level of a trace ring, the error log or a journal against its threshold. -/
def Dev.rwmLevel (d : Dev) (r : Nat) : Bool :=
  let t := d.fld (.evcRwm r) .EVC_RWM_THRESH
  let l := if r < 16 then idxLevel (d.fld (.pnlJrnl r) .PNL_JRNL_DEV) (d.fld (.pnlJrnl r) .PNL_JRNL_SW)
    else if r < 32 then idxLevel (d.fld (.fabObsIdx ((r - 16) / 4) ((r - 16) % 4)) .FAB_OBS_IDX_DEV) (d.fld (.fabObsIdx ((r - 16) / 4) ((r - 16) % 4)) .FAB_OBS_IDX_SW)
    else idxLevel (d.fld .erbLogIdx .ERB_LOG_IDX_DEV) (d.fld .erbLogIdx .ERB_LOG_IDX_SW)
  t != 0 && decide (t ≤ l)

/-- The state of a hardware queue (R358). -/
def Dev.qState (d : Dev) (i q : Nat) : Nat :=
  let s := d.queue (i * 64 + q)
  if s.stopped then 2
  else if !d.bit (.qSq i q) .Q_SQ_EN || instNq d i ≤ q then 3
  else if s.started.isSome || newReady d (i * 64 + q) then 1 else 0

/-- The value of a register as a read returns it, its unit being powered. -/
def Dev.view (d : Dev) (r : Reg) : Word :=
  let w := d.reg r
  match r with
  | .coreState c => setF w .CORE_STATE_POWER (d.power c)
  | .coreXlate c =>
    let k := d.core c
    setF (setF (setF w .CORE_XLATE_ISO (bitNat (d.isolated c))) .CORE_XLATE_JOIN (bitNat k.joined)) .CORE_XLATE_TINV_OUT
      (min 0xFFFF (k.tinvs.filter fun x => !x.targets.isEmpty).length)
  | .corePnl c => d.showPnl c
  | .slcState n => setF w .SLC_STATE_POWER (d.power (264 + n))
  | .slcRebuild _ => d.showRebuild
  | .mcZmapStat n => setF w .MC_ZMAP_STAT_FILLS (d.chan n).fill.length
  | .evcEqWm c => setF w .EVC_EQ_WM_LEVEL (bitNat (d.fld (.evcEqWm c) .EVC_EQ_WM_THRESH != 0 && decide (d.fld (.evcEqWm c) .EVC_EQ_WM_THRESH ≤ d.eqLevel c)))
  | .evcRwm n => setF w .EVC_RWM_LEVEL (bitNat (d.rwmLevel n))
  | .qWmstat i q =>
    let t := d.fld (.qStat i q) .Q_STAT_CQWM
    setF w .Q_WMSTAT_LEVEL (bitNat (t != 0 && decide (t ≤ cqLevel d i q)))
  | .qStat i q => setF w .Q_STAT_QSTATE (d.qState i q)
  | .gateHead s g => BitVec.ofNat 64 (d.fld (.pnlGstat s g) .PNL_GSTAT_ADMIT)
  | .gateTail s g => BitVec.ofNat 64 (d.fld (.pnlGstat s g) .PNL_GSTAT_TAIL)
  | .denStat e => setF w .DEN_STAT_SLOTS (engSlots d e)
  | .denImbox i =>
    setF (setF w .DEN_IMBOX_TXFULL (d.fld (.mboxCtl i) .MBOX_CTL_TXFULL)) .DEN_IMBOX_RXFULL (d.fld (.mboxCtl i) .MBOX_CTL_RXFULL)
  | .denVtx i j => d.reg (.mboxTx i j)
  | .denVrx i j => d.reg (.mboxRx i j)
  | .instId i => setF (setF (setF w .INST_ID_STATE (instState d i)) .INST_ID_NQ (instNq d i)) .INST_ID_INSTANCE i
  | _ => w

/-- A queue register above the number granted reads 0 and ignores writes. -/
def Dev.absent (d : Dev) (r : Reg) : Bool :=
  match r with
  | .qSq i q | .qCq i q | .qDb i q | .qStat i q | .qWmstat i q => decide (instNq d i ≤ q)
  | _ => false

/-- Whether the unit of a register is Off and the register is not always reachable (R29). -/
def Dev.dark (d : Dev) (r : Reg) : Bool :=
  match r.domain with
  | some k => d.isOff k && !r.alwaysReachable
  | none => false

/-- An access to a register of a unit in Retention wakes the unit (R29). -/
def Dev.wakeFor (d : Dev) (r : Reg) : Dev :=
  match r.domain with
  | some k => if r.alwaysReachable then d else d.wake k
  | none => d

/-- Whether a register is listed for its block (R28): SKN_BRX only in the even skein of a Brixnil pair (R335). -/
def Dev.listed (d : Dev) (r : Reg) : Bool :=
  match r with
  | .sknBrx k => k % 2 == 0 && d.fld (.sknState k) .SKN_STATE_FUNC == 3
  | _ => true

def csrAligned (o size : Nat) : Bool := (size == 4 || size == 8) && o % size == 0
def inFlash (o : Nat) : Bool := decide (0x8800000 ≤ o) && decide (o < 0x9000000)

/-- A byte of the flash window (R440): all ones when the container came from the golden copy. Bytes past those that cast-on read are free. -/
def Dev.flash (d : Dev) (a : Nat) : Byte :=
  if 2 ≤ d.dict.source then 0xFF else
  match d.dict.container with
  | some s => if a < s.len then BitVec.ofNat 8 (s.image >>> (8 * a)) else Config.flashByte d.dict.source a
  | none => Config.flashByte d.dict.source a

/-- What the reached bits of a value give in an access of `size` bytes. -/
def laneOf (o size : Nat) (w : Word) : Word :=
  if size = 8 then w else BitVec.ofNat 64 (w.toNat / (if o % 8 = 0 then 1 else 2 ^ 32) % 2 ^ 32)
def laneIn (o size : Nat) (v : Word) : Word :=
  if size = 8 then v else if o % 8 = 0 then BitVec.ofNat 64 (v.toNat % 2 ^ 32) else BitVec.ofNat 64 (v.toNat % 2 ^ 32 * 2 ^ 32)

/-- REGISTER_READ_CLEAR: a read, which clears the RC bits that it returns; none is an error response. -/
def Dev.csrRead (d : Dev) (o size : Nat) : Dev × Option Word :=
  if !csrAligned o size then (d, none)
  else if inFlash o then (d, some (BitVec.ofNat 64 (leNat ((List.range size).map fun i => d.flash (o - 0x8800000 + i)))))
  else match Reg.ofOffset (o - o % 8) with
    | none => (d, none)
    | some r =>
      if !d.listed r then (d, none)
      else if d.dark r || d.absent r then (d, some 0) else
      let d1 := d.wakeFor r
      let w := d1.view r &&& ~~~ accMask r.fields .wo
      let rc := accMask r.fields .rc &&& reachMask o size
      (if rc = 0 then d1 else d1.setReg r (d1.reg r &&& ~~~ rc), some (laneOf o size w))

/-! ### Writes -/

/-- The stored value after a write of `v` whose reached bits are `reach`: RW and WO fields whose new encoding is not
reserved, and W1C bits. W1S fields are commands, which the write's effect carries out. -/
def storeFields (l : List FieldDesc) (old v reach : Word) : Word :=
  l.foldl (fun w x =>
    match x.acc with
    | .rw =>
      let merged := (old &&& ~~~ reach) ||| (v &&& reach)
      let n := getF merged x.f
      if x.vmin ≤ n ∧ n ≤ x.vmax then setF w x.f n else w
    | .w1c => w &&& ~~~ (v &&& reach &&& x.f.mask)
    | _ => w) old

/-- Whether a write sets a W1S bit that it reaches. -/
def wrote (v reach : Word) (f : Fld) : Bool := getF (v &&& reach) f != 0
def reached (reach : Word) (f : Fld) : Bool := (reach &&& f.mask) == f.mask

def Dev.putFields (d : Dev) (r : Reg) (v reach : Word) : Dev := d.setReg r (storeFields r.fields (d.reg r) v reach)

/-- A write of a consumer index moves a ring's level. -/
def Dev.putIndex (d : Dev) (r : Reg) (v reach : Word) (g : Ring) (level : Dev → Nat) : Dev :=
  let d1 := d.putFields r v reach
  d1.ringLevel g (level d) (level d1)

def Dev.obsOn (d : Dev) (q u : Nat) : Bool := d.bit (.fabObsCtl q u) .FAB_OBS_CTL_EN

/-- A write of FAB_OBS_CTL (R257): while EN = 1 only a write that clears EN takes effect. -/
def Dev.obsCtl (d : Dev) (q u : Nat) (v reach : Word) : Dev :=
  if d.obsOn q u && !(reached reach .FAB_OBS_CTL_EN && getF v .FAB_OBS_CTL_EN == 0) then d
  else d.putFields (.fabObsCtl q u) v reach

/-- A command of the manager to an instance (R352). -/
def Dev.instCommand (d : Dev) (i c : Nat) : Dev :=
  match c with
  | 1 => d.instEnable i
  | 2 => d.instQuiesce i
  | 3 => d.instAbort i
  | 4 => d.instReset i
  | 5 => d.instRemove i
  | 6 => d.instAssign i
  | _ => d

/-- A configuration register of an instance: written only in FREE, otherwise ignored with BAD_STATE. -/
def Dev.putInst (d : Dev) (i : Nat) (r : Reg) (v reach : Word) : Dev :=
  if instState d i = 0 then d.putFields r v reach else d.instCstat i 2

/-- Drops a cached message route (R363). -/
def Dev.dropRoute (d : Dev) (m : Nat) : Dev := { d with events := { d.events with routes := d.events.routes.filter fun p => p.1 != m } }

/-- A write of EVC_EQ_BASE (R368). -/
def Dev.eqBase (d : Dev) (c : Nat) (v reach : Word) : Dev :=
  let d1 := d.putFields (.evcEqBase c) v reach
  if d1.eqInUse c then d1.rescan c else d1

/-- A write of a wired route: a firing that waits is delivered once the route is enabled (R364). -/
def Dev.putRoute (d : Dev) (n : Nat) (v reach : Word) : Dev :=
  let d1 := d.putFields (.evcWroute n) v reach
  if !d.bit (.evcWroute n) .EVC_WROUTE_EN && d1.bit (.evcWroute n) .EVC_WROUTE_EN then d1.reoffer true n else d1

/-- A write of EVC_PDT: wired firings that wait for the descriptors are delivered once they are in use. -/
def Dev.putPdt (d : Dev) (v reach : Word) : Dev :=
  let d1 := d.putFields .evcPdt v reach
  if d.bit .evcPdt .EVC_PDT_EN || !d1.bit .evcPdt .EVC_PDT_EN then d1
  else ((List.range 4222).filter fun n => d1.pend true n && bitF (d1.reg (.evcWroute n)) 63 && bitF (d1.reg (.evcWroute n)) 60).foldl
    (fun x n => x.reoffer true n) d1

/-- HFWCLOSE (R417). -/
def Dev.hfwClose (d : Dev) : Dev := d.setFld .odmCtl .ODM_CTL_HFWCLOSE 1

/-! ### Dictionary mailboxes (R417, R418, R441) -/

/-- The 256 bytes of a mailbox page's ODM_MB_REQ. -/
def Dev.mailBytes (d : Dev) (p : Nat) : List Byte := (List.range 32).flatMap fun i => leBytes 8 (d.reg (.odmMbReq p i)).toNat

/-- The operation and the request that the bytes of a mailbox page spell (R418). -/
def mailRequest (path : Path) (b : List Byte) : Nat × OdRequest :=
  let n := fun (at_ len : Nat) => leNat ((b.drop at_).take len)
  (n 0 1, { path := path, socket := Fin.ofNat 4 (n 1 1), index := BitVec.ofNat 16 (n 2 2), sub := BitVec.ofNat 8 (n 4 1),
            token := BitVec.ofNat 32 (n 8 4), offset := n 12 4, len := n 6 2, data := (b.drop 32).take (n 6 2) })

/-- The bytes of a page spell one of the seven operations, with every byte that R418 gives as 0 at 0 and a LEN of at most 224. -/
def mailFormed (b : List Byte) : Bool :=
  let op := leNat (b.take 1)
  decide (1 ≤ op) && decide (op ≤ 7) && decide (leNat ((b.drop 1).take 1) < 4) && leNat ((b.drop 5).take 1) == 0 &&
    leNat ((b.drop 16).take 16) == 0 && decide (leNat ((b.drop 6).take 2) ≤ 224)

/-- Whether the request is one that its path carries: from the BMC always; from a mailbox, the one that the page's GO has handed over. -/
def Dev.mailMeets (d : Dev) (r : OdRequest) (op : Nat) : Bool :=
  let page := fun (p : Nat) => d.bit (.odmMbCtl p) .ODM_MB_CTL_BUSY && mailRequest r.path (d.mailBytes p) == (op, r)
  match r.path with
  | .bmc => true
  | .hostFw => page 0
  | .os => page 1

/-- A response in ODM_MB_RSP, with DONE set. -/
def Dev.mailAnswer (d : Dev) (p : Nat) (b : List Byte) : Dev :=
  let d1 := (List.range 32).foldl (fun y i => y.setReg (.odmMbRsp p i) (BitVec.ofNat 64 (leNat ((b.drop (i * 8)).take 8)))) d
  let d2 := d1.setFlds (.odmMbCtl p) [(.ODM_MB_CTL_BUSY, 0), (.ODM_MB_CTL_DONE, 1)]
  if d2.bit (.odmMbCtl p) .ODM_MB_CTL_IE then d2.wire 4219 else d2

/-- Host firmware's page has been locked (R417). -/
def Dev.hfwLocked (d : Dev) : Bool := d.bit .odmCtl .ODM_CTL_HFWLOCKED

/-- Whether the chief steward serves requests (R436): the ROM dictionary after step 3 has found no source, the whole one from
step 4 of cast-on on, and also after cast-off or a later halt. -/
def Dev.odReady (d : Dev) (op index : Nat) : Bool :=
  match d.phase with
  | .running | .castOn | .castOff | .halted => true
  | .romDict => op == 1 || op == 2 || ((op == 3 || op == 7) && (decide (index < 0x0300) || (decide (0x7000 ≤ index) && decide (index < 0x8000))))
  | _ => false

/-- GO of a dictionary mailbox; ignored while BUSY (R441). A request that no operation spells is answered at once; any other one is
served by its operation's own command. -/
def Dev.mailboxGo (d : Dev) (p : Nat) : Dev :=
  if d.bit (.odmMbCtl p) .ODM_MB_CTL_BUSY then d else
  let d1 := d.setFlds (.odmMbCtl p) [(.ODM_MB_CTL_BUSY, 1), (.ODM_MB_CTL_DONE, 0)]
  let b := d1.mailBytes p
  if mailFormed b then d1 else
  let op := leNat (b.take 1)
  let status := if !d1.odReady op (leNat ((b.drop 2).take 2)) then 13 else if p == 0 && d1.hfwLocked then 2 else 9
  d1.mailAnswer p (leBytes 1 op ++ leBytes 1 status ++ (b.drop 2).take 14 ++ List.replicate 240 0)

/-- What a write of a register does. -/
def Dev.csrEffect (d : Dev) (r : Reg) (v reach : Word) : Dev :=
  match r with
  | .slcSpadCtl n =>
    let w := d.reg r
    let d1 := d.putFields r v reach
    let d2 := d1.setFld r .SLC_SPAD_CTL_WAYS (getF w .SLC_SPAD_CTL_WAYS)
    if reached reach .SLC_SPAD_CTL_WAYS then d2.spadConvert n (getF v .SLC_SPAD_CTL_WAYS) else d2
  | .slcRebuild _ => d.putFields (.slcRebuild 0) v reach
  | .slcMarchCtl n =>
    let d1 := d.putFields r v reach
    if wrote v reach .SLC_MARCH_CTL_GO then d1.marchStart n (MarchMode.ofCode (d1.fld r .SLC_MARCH_CTL_MODE)) else d1
  | .mcDscrubCtl n =>
    let d1 := d.putFields r v reach
    let d2 := if wrote v reach .MC_DSCRUB_CTL_GO then d1.scrubGo n else d1
    if wrote v reach .MC_DSCRUB_CTL_ABORT then (let (i, x) := d2.draw; x.scrubAbort n (Config.deviceData i).toNat []) else d2
  | .fabObsCtl q u => d.obsCtl q u v reach
  | .fabSadRange n | .fabSadTarget n => if n < 4 then d else d.putFields r v reach
  | .fabObsMatch q u | .fabObsMask q u | .fabObsRing q u => if d.obsOn q u then d else d.putFields r v reach
  | .fabObsIdx q u => d.putIndex r v reach (.trace (Fin.ofNat 4 q) (Fin.ofNat 4 u)) fun x => idxLevel (x.fld r .FAB_OBS_IDX_DEV) (x.fld r .FAB_OBS_IDX_SW)
  | .iosCtxInv g =>
    let d1 := d.putFields r v reach
    if wrote v reach .IOS_CTX_INV_GO then d1.ctxInvGo g else d1
  | .evcMtinv => if reached reach .EVC_MTINV_ID then d.dropRoute (getF v .EVC_MTINV_ID) else d
  | .evcMsgdb => d
  | .evcPdt => d.putPdt v reach
  | .evcWroute n => d.putRoute n v reach
  | .evcEqBase c => d.eqBase c v reach
  | .evcEqIdx c => d.putIndex r v reach (.eventQueue (Fin.ofNat 256 c)) fun x => x.eqLevel c
  | .evcEqWm c =>
    let d1 := d.putFields r v reach
    if wrote v reach .EVC_EQ_WM_RESCAN then d1.rescan c else d1
  | .pwrDom k =>
    let q := d.fld r .PWR_DOM_REQ
    let d1 := (d.putFields r v reach).setFld r .PWR_DOM_REQ q
    if reached reach .PWR_DOM_REQ then match getF v .PWR_DOM_REQ with
      | 0 => d1.requestDomain k .on
      | 1 => d1.requestDomain k .retention
      | 2 => d1.requestDomain k .off
      | _ => d1
    else d1
  | .odmMbCtl p =>
    let d1 := d.putFields r v reach
    if wrote v reach .ODM_MB_CTL_GO then d1.mailboxGo p else d1
  | .odmMbReq p _ => if d.bit (.odmMbCtl p) .ODM_MB_CTL_BUSY then d else d.putFields r v reach
  | .odmCtl => if wrote v reach .ODM_CTL_HFWCLOSE then d.hfwClose else d
  | .pnlJrnl s => d.putIndex r v reach (.journal (Fin.ofNat 16 s)) fun x => idxLevel (x.fld r .PNL_JRNL_DEV) (x.fld r .PNL_JRNL_SW)
  | .gateTail _ _ => d
  | .erbLogIdx => d.putIndex r v reach .errorLog fun x => idxLevel (x.fld r .ERB_LOG_IDX_DEV) (x.fld r .ERB_LOG_IDX_SW)
  | .denIctl i =>
    let d1 := if reached reach .DEN_ICTL_NQ then (if instState d i = 0 then d.putFields r v reach else d.instCstat i 2) else d
    if reached reach .DEN_ICTL_CMD then d1.instCommand i (getF v .DEN_ICTL_CMD) else d1
  | .denIid i | .denIseg i | .denIsave i => d.putInst i r v reach
  | .denImbox i =>
    let d1 := if wrote v reach .DEN_IMBOX_TXACK then d.mailTxAck i else d
    if wrote v reach .DEN_IMBOX_RXGO then d1.mailRxGo i else d1
  | .denVrx i j => if d.bit (.mboxCtl i) .MBOX_CTL_RXFULL then d else d.setReg (.mboxRx i j) ((d.reg (.mboxRx i j) &&& ~~~ reach) ||| (v &&& reach))
  | .mboxTx i _ => if d.bit (.mboxCtl i) .MBOX_CTL_TXFULL then d else d.putFields r v reach
  | .mboxCtl i =>
    let d1 := if wrote v reach .MBOX_CTL_TXGO then d.mailTxGo i else d
    if wrote v reach .MBOX_CTL_RXACK then d1.mailRxAck i else d1
  | .qSq i q => if d.bit (.qSq i q) .Q_SQ_EN && instState d i != 1 then d else d.putFields r v reach
  | .qCq i q => if d.bit (.qSq i q) .Q_SQ_EN && instState d i != 1 then d else d.putFields r v reach
  | .qDb i q =>
    let d1 := if reached reach .Q_DB_SQTAIL then d.writeTail i q (getF v .Q_DB_SQTAIL) else d
    if reached reach .Q_DB_CQHEAD then d1.writeHead i q (getF v .Q_DB_CQHEAD) else d1
  | _ => d.putFields r v reach

/-- REGISTER_WRITE: true on an error response. A write of EVC_MSGDB is a message write by requester 0xFFFF (R362); one of a byte or a half-word has
the error response of R8 and is counted in BADMSG as R362 says (log entry 123). -/
def Dev.csrWrite (d : Dev) (o size : Nat) (v : Word) : Dev × Bool :=
  if o = 0x6100000 then (d.msgDoorbell 0xFFFF v size, !csrAligned o size)
  else if !csrAligned o size || inFlash o then (d, true)
  else match Reg.ofOffset (o - o % 8) with
    | none => (d, true)
    | some r =>
      if !d.listed r then (d, true)
      else if d.dark r || d.absent r then (d, false)
      else ((d.wakeFor r).csrEffect r (laneIn o size v) (reachMask o size), false)

/-! ### The commands -/

def execRegisterReadClear (o : BitVec 40) (size : Nat) (s : State) : Host.Outcome State Fault Refusal :=
  let (d, r) := s.dev.csrRead o.toNat size
  s.next (d.out (r.getD 0) r.isNone)
def execRegisterWrite (o : BitVec 40) (size : Nat) (v : Word) (s : State) : Host.Outcome State Fault Refusal :=
  let (d, e) := s.dev.csrWrite o.toNat size v
  s.done (d.out 0 e)
def execFabObsCtl (q : Quad) (u : Fin 4) (v : Word) (s : State) : Host.Outcome State Fault Refusal :=
  s.next (s.dev.obsCtl q.val u.val v (BitVec.allOnes 64))
def execEvcMsgdb (rid : Half) (v : Word) (size : Nat) (s : State) : Host.Outcome State Fault Refusal := s.done (s.dev.msgDoorbell rid.toNat v size)
def execEvcMtinv (id : BitVec 20) (s : State) : Host.Outcome State Fault Refusal := s.next (s.dev.dropRoute id.toNat)
def execRescan (c : LCore) (s : State) : Host.Outcome State Fault Refusal := s.done (s.dev.rescan c.val)
def execEvcEqBase (c : LCore) (v : Word) (s : State) : Host.Outcome State Fault Refusal := s.done (s.dev.eqBase c.val v (BitVec.allOnes 64))
def execWatermarkNotice (r : Ring) (s : State) : Host.Outcome State Fault Refusal := s.done (s.dev.windowEnd r)
def execHfwclose (s : State) : Host.Outcome State Fault Refusal := s.next s.dev.hfwClose
/-- PERSISTENT_LOG_WRITE: at most once per second (R453). -/
def Dev.persistDue (d : Dev) (ok : Bool) : Dev :=
  match d.errs.wroteAt with
  | some t => if d.past t (ms 1000) then d.persist ok else d
  | none => d.persist ok
def execPersistentLogWrite (ok : Bool) (s : State) : Host.Outcome State Fault Refusal := s.done (s.dev.persistDue ok)

end Sys2Proof.Machine
end

