-- ==== Sys2Proof/Machine/Dictionary.lean ====
section
/-! DEFINITION. The object dictionary's entries (R410 to R415, R129, R234, R252, R291, R334, R405, R456, R471): types, access, ranges,
values, cross-checks, microcode patch images (R126, R127) and the settings region (R425 to R428). -/

namespace Sys2Proof.Machine

/-! ### Entries (R410) -/

/-- A row of the entries' tables: subindices `lo` to `hi`; type 1 to 11 in the order of R410; access 1 RO, 2 RW, 3 WO, 4 RW-P,
5 RW-L; effect 0 immediately, 2 at the next cold reset; maximum length; default, minimum, maximum; the register mirrored. -/
structure OdEntry where
  index  : Nat
  lo     : Nat
  hi     : Nat
  type   : Nat
  access : Nat
  effect : Nat
  len    : Nat
  dflt   : Nat
  min    : Nat
  max    : Nat
  reg    : String
deriving DecidableEq, Repr

/-- The width of a numeric type in bytes; 0 for a long type. -/
def odWidth (t : Nat) : Nat :=
  if t = 1 ∨ t = 7 ∨ t = 8 then 1 else if t = 2 ∨ t = 5 then 2 else if t = 3 ∨ t = 6 then 4 else if t = 4 then 8 else 0
def OdEntry.long (e : OdEntry) : Bool := odWidth e.type == 0
def OdEntry.persists (e : OdEntry) : Bool := e.access == 4 || e.access == 5

/-- A read-only entry. -/
def odR (index lo hi type len : Nat) : OdEntry :=
  { index := index, lo := lo, hi := hi, type := type, access := 1, effect := 0, len := if len = 0 then odWidth type else len,
    dflt := 0, min := 0, max := 0, reg := "" }
/-- A numeric entry with its access, effect, default and range. -/
def odN (index lo hi type access effect dflt min max : Nat) : OdEntry :=
  { index := index, lo := lo, hi := hi, type := type, access := access, effect := effect, len := odWidth type,
    dflt := dflt, min := min, max := max, reg := "" }
/-- A long entry that can be written. -/
def odL (index sub type access len : Nat) : OdEntry :=
  { index := index, lo := sub, hi := sub, type := type, access := access, effect := 0, len := len, dflt := 0, min := 0, max := 0, reg := "" }

def odTable0 : List OdEntry := [
  odR 0x0000 0 0 2 0, odR 0x0000 1 1 11 4096, odR 0x0100 0 2 9 32, odR 0x0100 3 3 2 0, odR 0x0101 0 0 3 0, odR 0x0102 0 0 4 0,
  odR 0x0103 0 0 1 0, odR 0x0103 1 1 7 0, odR 0x0103 2 2 3 0, odR 0x0104 0 0 2 0, odR 0x0105 0 0 3 0, odR 0x0105 1 1 8 0,
  odR 0x0105 2 2 11 4096, odL 0x0151 0 10 5 96, odR 0x0200 0 0 11 4096, odN 0x0210 0 0 7 2 0 0 1 1, odN 0x0220 0 0 7 2 0 0 0 1,
  odN 0x0230 0 0 7 2 0 0 0 1, odR 0x0240 0 0 11 4096]

def odTable1 : List OdEntry := [
  odN 0x1000 0 0 8 3 0 0 1 3, odR 0x1001 0 0 11 65536, odN 0x1010 0 0 2 4 0 50 1 10000, odL 0x1011 0 11 4 904, odR 0x1020 0 0 11 65536,
  odN 0x1030 0 0 1 4 0 100 70 115, odR 0x1F00 0 0 11 4096, odN 0x1F01 0 0 2 4 0 1 1 65535]

def odTable2 : List OdEntry := [
  odN 0x2000 0 0 8 4 0 0 0 2, odN 0x2000 1 1 2 4 0 700 450 850, odN 0x2000 2 2 2 4 0 480 100 480, odN 0x2000 3 3 2 4 0 950 600 950,
  odN 0x2001 0 0 8 4 0 0 0 2, odN 0x2001 1 1 2 4 0 750 600 950, odN 0x2001 2 2 2 4 0 600 600 950, odN 0x2001 3 3 2 4 0 950 600 950,
  odN 0x2001 4 4 2 4 0 750 650 900, odN 0x2002 0 255 1 4 0 1 0 3, odR 0x2003 0 255 2 0, odN 0x2020 1 1 1 4 0 8 4 16,
  odN 0x2020 2 2 2 4 0 650 600 800, odN 0x2100 0 0 8 4 0 0 0 2, odN 0x2101 0 15 2 4 0 0xFFFF 0 0xFFFF,
  { odN 0x2102 0 255 1 4 0 0 0 15 with reg := "SLC_COS_CORE" }, odR 0x2103 0 15 2 0, odN 0x2110 0 0 8 4 0 0 0 2, odN 0x2110 1 1 1 4 0 4 2 16,
  odN 0x2110 2 2 2 4 0 10 1 3600, odN 0x2110 3 3 2 4 0 10 1 1440, odN 0x2111 0 0 7 3 0 0 0 1, odN 0x2112 0 0 2 4 0 2000 500 60000,
  odN 0x2200 0 0 8 4 0 0 0 2, { odN 0x2201 0 0 2 4 0 0x4202 0 0xF303 with reg := "CORE_PREFETCH" }]

def odTable3 : List OdEntry := [
  odN 0x3001 0 0 8 4 2 0 0 1, odN 0x3010 0 0 8 2 0 0 0 1, odN 0x3010 1 1 2 4 2 8000 4800 8000, odN 0x3010 2 2 7 4 0 0 0 1,
  odR 0x3010 3 3 8 0, { odR 0x3011 0 0 11 65536 with effect := 2 }, odN 0x3020 1 1 1 4 0 32 1 255, odN 0x3020 2 2 2 4 0 60 1 3600, odN 0x3021 0 0 7 4 0 1 0 1,
  odN 0x3021 1 1 2 4 0 24 1 168, odN 0x3030 0 0 8 4 2 0 0 3, odN 0x3030 1 1 8 4 2 3 0 3, odR 0x3031 0 0 11 16384, odN 0x3040 0 0 8 4 0 0 0 2,
  odN 0x3040 1 1 1 4 0 48 32 60, odN 0x3040 2 2 1 4 0 16 4 52, odN 0x3041 0 15 1 4 0 1 0 3, odR 0x3042 0 0 11 65536,
  odN 0x3050 0 0 8 4 2 0 0 1, odL 0x3100 0 10 3 68, odR 0x3101 0 0 11 256]

def odTable4 : List OdEntry := [
  odN 0x4000 0 31 8 4 2 1 0 3, odN 0x4001 0 31 8 4 2 1 0 3, odN 0x4002 0 31 8 4 2 0 0 3, odR 0x4003 0 0 11 65536,
  { odN 0x4010 1 1 3 4 0 50 1 1000 with reg := "FAB_TIMEOUT" }, { odN 0x4010 2 2 3 4 0 2000 200 100000 with reg := "FAB_TIMEOUT" },
  odN 0x4010 3 3 3 4 0 10 1 1000, odN 0x4010 4 4 3 4 0 1000 50 50000, odN 0x4010 5 5 3 4 0 50 10 1000, odN 0x4010 6 6 3 4 0 100 10 10000,
  odN 0x4020 0 0 2 4 0 0 0 1000, odR 0x4021 0 0 11 65536, odN 0x4022 0 0 2 4 0 2800 450 3400, odN 0x4030 0 0 8 4 2 0 0 1]

def odTable5 : List OdEntry := [
  odL 0x5100 0 10 3 4096, odR 0x5101 0 0 2 0, odR 0x5101 1 1 8 0, odR 0x5101 2 2 2 0, odN 0x5102 0 0 2 4 0 1 1 65535,
  odN 0x5200 0 0 8 4 0 0 0 2, odR 0x5201 0 3 1 0, odR 0x5202 0 3 1 0, odR 0x5203 0 0 11 4096, odN 0x5204 0 0 2 4 0 64 1 1000,
  odN 0x5204 1 1 2 4 0 24 1 168, odN 0x5204 2 2 2 4 0 256 1 10000]

def odTable6 : List OdEntry := [
  odR 0x6100 0 0 11 32768, odR 0x7000 0 0 11 131008, odR 0x7001 0 1 3 0, odR 0x7002 0 0 11 65536, odN 0x8000 0 0 1 5 2 4 1 20,
  odR 0x8001 0 0 3 0, odR 0x8001 1 1 7 0, odR 0x8002 0 0 3 0, odN 0x8010 0 0 7 3 0 0 1 1, odN 0x8020 0 0 7 5 0 0 0 1]

/-- Every entry, in ascending index. -/
def odEntries : List OdEntry := odTable0 ++ odTable1 ++ odTable2 ++ odTable3 ++ odTable4 ++ odTable5 ++ odTable6
def odFind (index sub : Nat) : Option OdEntry := odEntries.find? fun e => e.index == index && decide (e.lo ≤ sub) && decide (sub ≤ e.hi)

/-- The index and the highest subindex of each index present. -/
def odIndices : List (Nat × Nat) :=
  odEntries.foldl (fun l e => match l.reverse with
    | [] => [(e.index, e.hi)]
    | (i, h) :: t => if i = e.index then (t.reverse) ++ [(i, max h e.hi)] else l ++ [(e.index, e.hi)]) []

/-! ### Rights (R414) -/

def odMayRead (p : Path) (index : Nat) : Bool := decide (index < 0xF000) && !(index == 0x3100 && p != .hostFw) && !(index == 0x5100 && p == .os)

def odMayWrite (d : Dev) (p : Path) (index : Nat) : Bool :=
  if index < 0x0200 then index == 0x0151 && p != .os
  else if index < 0x0300 then p == .hostFw
  else if index = 0x3100 then p == .hostFw
  else if index = 0x1000 then p != .os && d.pins.isManager
  else if index < 0x6000 then p != .os || (decide (0x2000 ≤ index) && decide (index < 0x3000) && d.od 0x0220 0 0 == 1)
  else decide (0x8000 ≤ index) && decide (index < 0x9000) && p != .os

/-! ### Values -/

def asciiBytes (s : String) : List Byte := s.toList.map fun c => BitVec.ofNat 8 c.toNat

/-- The highest rate that the population allows (R258). -/
def Dev.topRate (d : Dev) : Nat :=
  if (List.range 16).any fun ch => match (d.chan ch).dimms with
    | some x => x.count == 2
    | none => false then 6400 else 8000
def odDefault (d : Dev) (e : OdEntry) : Nat := if e.index = 0x3010 ∧ e.lo = 1 then d.topRate else e.dflt

def lowest16 (l : List Nat) : Nat := l.foldl min 0xFFFF

/-- The value of a numeric entry that the device sets. -/
def Dev.odRo (d : Dev) (e : OdEntry) (sub : Nat) : Nat :=
  match e.index with
  | 0x0000 => odIndices.length
  | 0x0100 => Config.vendorId.toNat
  | 0x0101 => Config.siliconRevision.toNat
  | 0x0102 => Config.deviceNumber.toNat
  | 0x0103 => if sub = 0 then d.pins.socketId else if sub = 1 then bitNat d.pins.isManager else d.od 0x0103 2 0
  | 0x0104 => ((List.range 264).filter d.lvalid).length + d.board.lostAll.length
  | 0x0105 => if sub = 0 then d.dict.version.toNat else d.dict.source
  | 0x2103 => if d.od 0x2100 0 0 = 2 then d.od 0x2103 sub 0xFFFF else d.fld (.slcCos 0 sub) .SLC_COS_MASK
  | 0x5101 =>
    if sub = 0 then (((List.range 264).find? fun c => d.bit (.coreUcode c) .CORE_UCODE_PEND).map fun c => d.fld (.coreUcode c) .CORE_UCODE_PENDING_ID).getD 0
    else if sub = 1 then d.od 0x5101 1 0
    else lowest16 (((List.range 264).filter fun c => d.coreRole c == 0).map fun c => d.fld (.coreUcode c) .CORE_UCODE_PATCH_ID)
  | 0x5201 => ((List.range 66).filter fun i => d.coreRole (sub * 66 + i) == 1).length
  | 0x5202 => ((List.range 33).filter fun i => d.sliceRole (sub * 33 + i) == 1).length
  | 0x7001 => if sub = 0 then d.errs.next.toNat else d.errs.written.toNat
  | i => d.od i sub 0

/-- A governor-log entry (R399). -/
def govBytes (g : GovEntry) : List Byte :=
  leBytes 8 g.time.toNat ++ [BitVec.ofNat 8 g.behaviour, BitVec.ofNat 8 g.reason, BitVec.ofNat 8 g.applied, 0] ++ leBytes 4 g.object ++
    leBytes 8 g.oldV ++ leBytes 8 g.newV

/-- The persistent log, oldest record first, each in the form of R451 with a word of zeros for the ring's phase. -/
def Dev.logBytes (d : Dev) : List Byte :=
  let n := d.errs.written.toNat % 2047
  let l := if d.errs.slots.length < 2047 then d.errs.slots else d.errs.slots.drop n ++ d.errs.slots.take n
  l.flatMap fun r => (d.recordBytes r 0 1).take 56 ++ List.replicate 8 0

/-- A bit of the key-slot table for each slot that is loaded. -/
def Dev.keyBytes (d : Dev) : List Byte :=
  (List.range 256).map fun i => BitVec.ofNat 8 ((List.range 8).foldl (fun n k => if (d.keySlot (i * 8 + k)).isSome then n + 2 ^ k else n) 0)

/-- The pair of a skein names a x16 port, and keeps the rule of one: both skeins have the same function, with width code 0 (R299). -/
def Dev.pairOf (d : Dev) (k : Nat) : Bool × Bool :=
  let fn := fun (s : Nat) => d.odForce 0x4000 s 1
  let wide := fun (s : Nat) => fn s != 0 && d.odForce 0x4001 s 1 == 0
  let a := k / 2 * 2
  (wide a || wide (a + 1), wide a && wide (a + 1) && fn a == fn (a + 1))

/-- The ports of a skein by function and width (R298 to R300): lane offsets. A pair that breaks the rule of a x16 port has none. -/
def Dev.skeinPorts (d : Dev) (k : Nat) : List Nat :=
  let f := d.odForce 0x4000 k 1
  let w := d.odForce 0x4001 k 1
  if f = 0 ∨ f = 3 then []
  else match d.pairOf k with
  | (true, false) => []
  | (true, true) => if k % 2 = 0 then [0] else []
  | (false, _) => if w = 1 then [0] else if w = 2 then [0, 2] else if w = 3 && f = 1 then [0, 1, 2, 3] else []

/-- The lanes of a skein's ports. -/
def Dev.skeinLanes (d : Dev) (k : Nat) : Nat := 16 / 2 ^ d.odForce 0x4001 k 1

/-- A Brixnil pair, or a x16 pair's second half, is in use though it has no root port. -/
def Dev.skeinUsed (d : Dev) (k : Nat) : Bool := !(d.skeinPorts k).isEmpty || d.pairOf k == (true, true)

end Sys2Proof.Machine

namespace Sys2Proof

/-! ### Firmware containers (R429) and steward images (R392) -/

/-- The little-endian number of `n` bytes at an offset of a source, and those bytes. -/
def FwSource.num (s : FwSource) (at_ n : Nat) : Nat := s.image >>> (8 * at_) % 2 ^ (8 * n)
def FwSource.bytes (s : FwSource) (at_ n : Nat) : List Byte := Machine.leBytes n (s.image >>> (8 * at_))
/-- The directory: type, offset and length of each component. -/
def FwSource.comps (s : FwSource) : List (Nat × Nat × Nat) :=
  (List.range (s.num 6 2)).map fun i => (s.num (0x10 + 16 * i) 1, s.num (0x14 + 16 * i) 4, s.num (0x18 + 16 * i) 4)
/-- The header is well formed: its fields, and every component within LENGTH. -/
def FwSource.headerOk (s : FwSource) : Bool :=
  let n := s.num 6 2
  let len := s.num 0x0C 4
  decide (16 ≤ s.len) && s.num 0 4 == 0x46575A44 && s.num 4 2 == 1 && decide (1 ≤ n) && decide (n ≤ 8) && decide (len ≤ 2 ^ 21) && decide (len ≤ s.len) &&
    decide (16 + 16 * n ≤ len) && (s.comps.all fun c => c.2.1 % 16 == 0 && decide (c.2.1 + c.2.2 ≤ len)) &&
    (List.range n).all fun i => s.num (0x11 + 16 * i) 3 == 0 && s.num (0x1C + 16 * i) 4 == 0
/-- The components of a type, and where the first of them lies, with its length. -/
def FwSource.ofType (s : FwSource) (t : Nat) : List (Nat × Nat × Nat) := s.comps.filter fun c => c.1 == t
def FwSource.place (s : FwSource) (t : Nat) : Nat × Nat := ((s.ofType t).head?.map (·.2)).getD (0, 0)
/-- A steward image of a kind is laid out as R392 gives it. -/
def FwSource.stewardOk (s : FwSource) (kind : Nat) : Bool :=
  let (o, l) := s.place kind
  let banks := s.num (o + 0x10) 1
  s.num o 4 == 0x57535844 && s.num (o + 4) 1 == kind && s.num (o + 5) 3 == 0 && decide (1 ≤ banks) && decide (banks ≤ if kind = 1 then 16 else 1) &&
    s.num (o + 0x11) 15 == 0 && l == 0x20 + banks * 49152 + 96
def FwSource.stewardVersion (s : FwSource) (kind : Nat) : Nat := s.num ((s.place kind).1 + 8) 4
def FwSource.stewardSvn (s : FwSource) (kind : Nat) : Nat := s.num ((s.place kind).1 + 0x0C) 2
def FwSource.version (s : FwSource) : Nat := s.num 8 4
/-- LOAD, ENTRY, SIZE and the code of the host-firmware component. -/
def FwSource.load (s : FwSource) : Nat := s.num (s.place 4).1 8
def FwSource.entry (s : FwSource) : Nat := s.num ((s.place 4).1 + 8) 4
def FwSource.size (s : FwSource) : Nat := s.num ((s.place 4).1 + 12) 4
def FwSource.code (s : FwSource) : List Byte := s.bytes ((s.place 4).1 + 16) s.size
/-- The host-firmware component is laid out as R429 gives it, and verifies with the key unless that is all zeros. -/
def FwSource.hostOk (s : FwSource) (key : List Byte) : Bool :=
  let (o, l) := s.place 4
  decide (l = 16 + s.size + 96) && s.load % 4096 == 0 && decide (s.load < 2 ^ 52) &&
    (key.all (· == 0) || Config.hostSigned key (s.bytes o (16 + s.size)) (s.bytes (o + 16 + s.size) 96))
/-- The microcode patch of the container, empty where it has none. -/
def FwSource.patch (s : FwSource) : List Byte := s.bytes (s.place 3).1 (s.place 3).2

end Sys2Proof

namespace Sys2Proof.Machine

/-! ### The tables (log entry 37): the fields that R405, R415, R456 and the other lists of entries name, in that order, little-endian -/

/-- OD 0x0105:02: source and failed check. -/
def Dev.passedBytes (d : Dev) : List Byte := d.dict.passed.flatMap fun p => leBytes 1 p.1 ++ leBytes 1 p.2
/-- A right class by number: the BMC, host firmware, the operating system. -/
def pathCode : Path → Nat
  | .bmc => 0
  | .hostFw => 1
  | .os => 2
/-- OD 0x0200:00: class, socket, idle time in nanoseconds, entries staged. -/
def Dev.sessionBytes (d : Dev) : List Byte := d.dict.sessions.flatMap fun s =>
  leBytes 1 (pathCode s.cls) ++ leBytes 1 s.socket ++ leBytes 8 (d.time - s.last).toNat ++ leBytes 2 s.staged.length
/-- OD 0x0240:00, for one region: bank in use (0xFF for none), both SEQs, validity bits, writes, ignored records, fault. -/
def Region.bytes (r : Region) : List Byte :=
  leBytes 1 (match r.inUse with
    | none => 0xFF
    | some b => bitNat b) ++ leBytes 4 r.bank0.seq.toNat ++ leBytes 4 r.bank1.seq.toNat ++ leBytes 1 (bitNat r.bank0.valid + 2 * bitNat r.bank1.valid) ++
    leBytes 4 r.writes ++ leBytes 4 r.ignored ++ leBytes 1 (bitNat r.fault)
/-- OD 0x1001:00: of each domain its state, refused entries of codes 1 to 7, aborted entries, and the last code. -/
def Dev.domainBytes (d : Dev) : List Byte := (List.range 452).flatMap fun k =>
  leBytes 1 (d.power k) ++ ((List.range 7).flatMap fun i => leBytes 2 (Tbl.get 0 (i + 1) (d.dom k).refusals)) ++ leBytes 2 (d.dom k).aborts ++
    leBytes 1 (d.fld (.pwrDom k) .PWR_DOM_LASTREF)
/-- OD 0x1F00:00: VERSION and SVN of the chief steward's and of the domain stewards' firmware. -/
def Dev.stewardBytes (d : Dev) : List Byte :=
  let (a, b, c, e) := d.dict.stwFw
  leBytes 4 a.toNat ++ leBytes 2 b.toNat ++ leBytes 4 c.toNat ++ leBytes 2 e.toNat
/-- OD 0x3011:00: of each channel whether it is accepted and in the set, its DIMMs, their ranks and capacity in GiB, two serial numbers. -/
def Dev.channelBytes (d : Dev) : List Byte := (List.range 16).flatMap fun ch =>
  let c := d.chan ch
  let x := c.dimms.getD ⟨0, 0, 0, false, []⟩
  leBytes 1 (bitNat (c.accepted && c.trained)) ++ leBytes 1 (bitNat c.inSet) ++ leBytes 1 x.count ++ leBytes 1 x.ranks ++ leBytes 2 x.gib ++
    leBytes 8 (x.serials.getD 0 0) ++ leBytes 8 (x.serials.getD 1 0)
/-- OD 0x3042:00: of each channel the request rate measured last and its hot-spot reports, with their reason code (R399); then the WHI, WLO and
priorities that the governor set or advises. -/
def Dev.scheduleBytes (d : Dev) : List Byte :=
  ((List.range 16).flatMap fun ch =>
    let n := Tbl.get 0 ch d.gov.chanSpots
    leBytes 4 (d.gov.chanRates.getD ch 0) ++ leBytes 4 n ++ leBytes 1 (if n = 0 then 0 else 0x30)) ++
    (List.range 18).flatMap fun i => leBytes 1 (Tbl.get (if i = 0 then 48 else if i = 1 then 16 else 1) i d.gov.sched)
/-- Why a skein's configured port is not brought up (R299, R301): 1 its width or pair, 2 a seventeenth CXL port. -/
def Dev.portRefusal (d : Dev) (p : Nat) : Nat :=
  if d.odForce 0x4000 (p / 4) 1 = 0 ∨ (d.port p).assigned then 0
  else if (d.skeinPorts (p / 4)).contains (p % 4) then 2
  else if p % 4 = 0 ∧ !d.skeinUsed (p / 4) then 1 else 0
/-- OD 0x4003:00: of each port its number, function, width, rate, state, CXL host port, peer and refusal. The state of a Brixnil port is its link's. -/
def Dev.portBytes (d : Dev) : List Byte := (List.range 128).flatMap fun p =>
  let x := d.port p
  let s := p / 4
  let brx := d.odForce 0x4000 s 1 == 3 && d.skeinUsed s && p % 8 == 0
  let l := d.link (s / 2)
  leBytes 1 p ++ leBytes 1 (d.odForce 0x4000 s 1) ++ leBytes 1 (d.odForce 0x4001 s 1) ++ leBytes 1 (if brx then l.rate else x.rate) ++
    leBytes 1 (if brx then 1 + 2 * bitNat l.up else bitNat x.assigned + 2 * bitNat x.up + 4 * bitNat x.contained) ++ leBytes 1 (x.cxl.getD 0xFF) ++
    leBytes 1 (if brx && l.up then l.peer else 0xFF) ++ leBytes 1 (d.portRefusal p)
/-- OD 0x4021:00: the sockets present, whether this one is the manager, the links up to each socket, and the refused links. -/
def Dev.boardBytes (d : Dev) : List Byte :=
  leBytes 1 ((insertNat d.socket d.board.present).eraseDups.foldl (fun n s => n + 2 ^ s) 0) ++ leBytes 1 (bitNat d.pins.isManager) ++
    ((List.range 4).flatMap fun s => leBytes 1 ((List.range 16).filter fun i => (d.link i).up && (d.link i).peer == s).length) ++
    d.board.refused.flatMap fun r => leBytes 1 r.1 ++ leBytes 1 r.2.1 ++ leBytes 1 r.2.2
/-- OD 0x5203:00: lost logical numbers, each with the physical number that last held it. -/
def Dev.lostBytes (d : Dev) : List Byte := d.board.lostAll.flatMap fun p => leBytes 2 p.1 ++ leBytes 2 p.2
/-- OD 0x7002:00: every bank with VALID = 1, and its four registers. -/
def Dev.bankBytes (d : Dev) : List Byte := ((List.range 431).filter fun n => d.bit (.erbStatus n) .ERB_STATUS_VALID).flatMap fun n =>
  leBytes 2 n ++ leBytes 8 (d.reg (.erbStatus n)).toNat ++ leBytes 8 (d.reg (.erbAddr n)).toNat ++ leBytes 8 (d.reg (.erbSynd n)).toNat ++
    leBytes 8 (d.reg (.erbMisc n)).toNat

/-- The value of a long entry. -/
def Dev.odLong (d : Dev) (e : OdEntry) (sub : Nat) : Dev × List Byte :=
  match e.index with
  | 0x0000 => (d, odIndices.flatMap fun x => leBytes 2 x.1 ++ leBytes 1 x.2)
  | 0x0100 => (d, asciiBytes (if sub = 0 then "Dizoval" else if sub = 1 then "Lirix N256" else "LXN256-A1"))
  | 0x0151 => (d, Tbl.get (List.replicate 96 0) (odKey 0x0151 0) d.dict.long)
  | 0x1011 => (d, Tbl.get [] (odKey 0x1011 0) d.dict.long)
  | 0x1020 => (d, Tbl.get [] (odKey 0x1020 0) d.dict.long)
  | 0x3101 => (d, d.keyBytes)
  | 0x6100 => (d, d.gov.log.flatMap govBytes)
  | 0x7000 => (d, d.logBytes)
  | 0x0105 => (d, d.passedBytes)
  | 0x0200 => (d, d.sessionBytes)
  | 0x0240 => (d, [d.dict.settings, d.dict.training, d.dict.repair, d.dict.errlog].flatMap Region.bytes)
  | 0x1001 => (d, d.domainBytes)
  | 0x1F00 => (d, d.stewardBytes)
  | 0x3011 => (d, d.channelBytes)
  | 0x3031 => (d, d.repairBytes)
  | 0x3042 => (d, d.scheduleBytes)
  | 0x4003 => (d, d.portBytes)
  | 0x4021 => (d, d.boardBytes)
  | 0x5203 => (d, d.lostBytes)
  | 0x7002 => (d, d.bankBytes)
  | _ => (d, [])

/-- A committed value, as its bytes. -/
def Dev.odRead (d : Dev) (e : OdEntry) (sub : Nat) : Dev × List Byte :=
  if e.long then d.odLong e sub
  else (d, leBytes (odWidth e.type) (if e.access = 1 then d.odRo e sub else d.od e.index sub (odDefault d e)))

/-- The value in force, which DESCRIBE reports. -/
def Dev.odInForce (d : Dev) (e : OdEntry) (sub : Nat) : Nat :=
  if e.long || e.access == 3 then 0
  else if e.access = 1 then d.odRo e sub
  else if e.effect = 0 then d.od e.index sub (odDefault d e) else d.odForce e.index sub (odDefault d e)

/-! ### Microcode patch images (R126, R127) -/

/-- The order of the checks of R127: 0 when every check passes, else the code of the first that fails. `low` is OD 0x5102:00. The padding
before the nanowords must be 0 (log entry 114). -/
def patchCheck (b : List Byte) (low : Nat) : Nat :=
  let nmicro := imageW b 8 2
  let nnano := imageW b 10 2
  let nanoAt := (0x80 + nmicro * 2 + 15) / 16 * 16
  let len := nanoAt + nnano * 16 + 96
  let micro := fun (a : Nat) => decide (a < 0x1000) || (decide (0x1000 ≤ a) && decide (a < 0x1000 + nmicro))
  let nano := fun (a : Nat) => decide (a < 0x400) || (decide (0x400 ≤ a) && decide (a < 0x400 + nnano))
  let entries := (List.range 8).map fun i => imageW b (0x10 + i * 4) 4
  let matches_ := (List.range 16).map fun i => imageW b (0x30 + i * 4) 4
  let micros := (List.range nmicro).map fun i => imageW b (0x80 + i * 2) 2
  let nanos := (List.range nnano).map fun i => imageW b (nanoAt + i * 16) 16
  let live : List Nat := (matches_.filter fun m => m.testBit 31).map (· % 2 ^ 12)
  let zero := fun (o n : Nat) => imageW b o n == 0
  if imageW b 0 4 ≠ 0x5043554D ∨ 512 < nmicro ∨ 128 < nnano ∨ b.length ≠ len then 4
  else if !Config.patchSigned (b.take (len - 96)) (b.drop (len - 96)) then 1
  else if imageW b 6 2 ≠ Config.romRev.toNat then 2
  else if imageW b 4 2 < low then 3
  else if (entries.all fun e => micro (e % 2 ^ 13) && micro (e / 2 ^ 16 % 2 ^ 13) && decide (e / 2 ^ 13 % 8 = 0) && decide (e / 2 ^ 29 % 4 = 0)) &&
      (matches_.all fun m => micro (m / 2 ^ 16 % 2 ^ 13) && decide (m / 2 ^ 12 % 16 = 0) && decide (m / 2 ^ 29 % 4 = 0)) &&
      decide (live.eraseDups.length = live.length) && (micros.all fun w => nano (w % 2 ^ 11)) &&
      (nanos.all fun n => micro (n / 2 ^ 68 % 2 ^ 13) && decide (n % 2 ^ 31 = 0) && decide (n / 2 ^ 120 = 0)) &&
      zero 0x0C 4 && zero 0x70 16 && zero (0x80 + nmicro * 2) (nanoAt - (0x80 + nmicro * 2)) then 0
  else 4

/-- An image committed through the dictionary (R128): when accepted, it is pending on every core. -/
def Dev.patchWrite (d : Dev) (b : List Byte) : Dev :=
  let code := patchCheck b (d.od 0x5102 0 1)
  let d1 := d.setOd 0x5101 1 code
  if code ≠ 0 then d1 else
  (List.range 264).foldl (fun x c => x.setFlds (.coreUcode c) [(.CORE_UCODE_PENDING_ID, patchId b), (.CORE_UCODE_PEND, 1)])
    { d1 with dict := { d1.dict with patch := b } }

/-! ### Range and cross-checks (R412) -/

/-- A numeric value that is in range for an entry. -/
def Dev.odRange (d : Dev) (e : OdEntry) (sub v : Nat) : Bool :=
  decide (e.min ≤ v) && decide (v ≤ e.max) &&
    match e.index with
    | 0x2001 => if sub = 1 then v % 5 == 0 else true
    | 0x2201 => decide (v / 4 % 64 = 0) && decide (v / 2 ^ 10 % 4 = 0)
    | 0x3010 => if sub = 1 then [4800, 5200, 5600, 6000, 6400, 7200, 8000].contains v && decide (v ≤ d.topRate) else true
    | 0x5102 => decide (d.od 0x5102 0 1 ≤ v)
    | 0x1F01 => decide (d.od 0x1F01 0 1 ≤ v)
    | _ => true

/-- The rules of R288 for a key-slot command. -/
def keyCommandOk (b : List Byte) : Bool :=
  let id := imageW b 0 2
  let op := imageW b 2 1
  decide (b.length = 68) && decide (1 ≤ id) && decide (id ≤ 2047) && imageW b 3 1 == 0 &&
    ((op == 1 && imageW b 4 32 != imageW b 36 32) || (op == 2 && imageW b 4 64 == 0))

/-- A long value that meets R412 and its entry's own rules. Domain numbers are 2 bytes each (log entry 38). -/
def odLongOk (index : Nat) (maxLen : Nat) (b : List Byte) : Bool :=
  decide (b.length ≤ maxLen) &&
    match index with
    | 0x0151 => decide (b.length = 96)
    | 0x1011 => b.length % 2 == 0 && (List.range (b.length / 2)).all fun i => decide (imageW b (2 * i) 2 < 452)
    | 0x3100 => keyCommandOk b
    | _ => true

/-- The entry that a failed cross-check names, on the values that would be in force: R252, R291, R328, R334, R405. -/
def odCross (v : Nat → Nat → Nat → Nat) : Option (Nat × Nat) :=
  if v 0x2001 3 950 < v 0x2001 2 600 then some (0x2001, 2)
  else if v 0x3040 1 48 < v 0x3040 2 16 + 8 then some (0x3040, 2)
  else if v 0x4010 2 2000 < 4 * v 0x4010 1 50 then some (0x4010, 2)
  else if v 0x4010 2 2000 < 2 * v 0x4010 4 1000 then some (0x4010, 4)
  else if v 0x4010 2 2000 < 2 * (500 + 4 * v 0x4010 5 50) then some (0x4010, 5)
  else none

/-! ### The settings region (R426, R427) -/

/-- A record of the settings region. -/
def settingsRecord (index sub : Nat) (b : List Byte) : List Byte :=
  leBytes 2 index ++ leBytes 1 sub ++ [0] ++ leBytes 2 b.length ++ [0, 0] ++ b ++ List.replicate ((8 - b.length % 8) % 8) 0

/-- The BODY that holds every persistent value that differs from its default. -/
def settingsBody (d : Dev) : List Byte :=
  (odEntries.filter OdEntry.persists).flatMap fun e =>
    (List.range (e.hi - e.lo + 1)).flatMap fun i =>
      let sub := e.lo + i
      if e.long then
        let b := Tbl.get [] (odKey e.index sub) d.dict.long
        if b.isEmpty || (e.index == 0x0151 && b.all (· == 0)) then [] else settingsRecord e.index sub b
      else
        let v := d.od e.index sub (odDefault d e)
        if v = odDefault d e then [] else settingsRecord e.index sub (leBytes (odWidth e.type) v)

/-- The bank that cast-on chooses. -/
def Region.choose (r : Region) : Option Bool :=
  let n := (r.bank1.seq - r.bank0.seq).toNat
  if r.bank0.valid && r.bank1.valid then some (decide (1 ≤ n) && decide (n < 2 ^ 31))
  else if r.bank0.valid then some false
  else if r.bank1.valid then some true
  else none
def Region.body (r : Region) : List Byte :=
  match r.inUse with
  | some true => r.bank1.body
  | some false => r.bank0.body
  | none => []

/-- A settings BODY as records; none unless it ends exactly at a record's end. -/
def parseSettings : Nat → List Byte → Option (List (Nat × Nat × List Byte))
  | 0, b => if b.isEmpty then some [] else none
  | n + 1, b =>
    if b.isEmpty then some [] else
    let len := imageW b 4 2
    let whole := 8 + (len + 7) / 8 * 8
    if b.length < 8 ∨ b.length < whole then none
    else (parseSettings n (b.drop whole)).map ((imageW b 0 2, imageW b 2 1, (b.drop 8).take len) :: ·)

/-- Writes the settings region; false when its write fails its retry (R428). -/
def Dev.writeSettings (d : Dev) : Dev × Bool :=
  let (d1, ok) := d.storeWorks
  let set := fun (r : Region) => ({ d1 with dict := { d1.dict with settings := r } } : Dev)
  if ok then (set (d1.dict.settings.writeBank (settingsBody d1) d1.time), true)
  else ((set { d1.dict.settings with fault := true }).err 430 0x70 0, false)

/-- Values read from the settings region at cast-on: each valid record applies, the rest are ignored and counted. -/
def Dev.loadSettings (d : Dev) : Dev :=
  match parseSettings d.dict.settings.body.length d.dict.settings.body with
  | none => d
  | some l =>
    let good := fun (x : Dev) (r : Nat × Nat × List Byte) => match odFind r.1 r.2.1 with
      | none => false
      | some e => e.persists &&
        (if e.long then odLongOk e.index e.len r.2.2 else decide (r.2.2.length = odWidth e.type) && x.odRange e r.2.1 (leNat r.2.2))
    let put := fun (x : Dev) (r : Nat × Nat × List Byte) =>
      let key := odKey r.1 r.2.1
      match odFind r.1 r.2.1 with
      | some e => if e.long then { x with dict := { x.dict with long := Tbl.set key r.2.2 x.dict.long } } else x.setOd r.1 r.2.1 (leNat r.2.2)
      | none => x
    let d1 := l.foldl (fun x r => if good x r then put x r else x) d
    let used := (l.filter (good d)).map fun r => (r.1, r.2.1)
    { d1 with dict := { d1.dict with settings := { d1.dict.settings with ignored := l.length - used.eraseDups.length } } }

end Sys2Proof.Machine
end

