-- ==== Sys2Proof/Machine/Fabric.lean ====
section
/-! DEFINITION. The fabric (R242 to R257): the messages of the coherence protocol as separate transactions (R164 to R168),
control-space and device packets, routes, link retry, the stall watch, sleeping destinations, end-to-end timeouts and
observation units. A message row is the arrival of its operand packet, which leaves `Fabric.net` if it was there. -/

namespace Sys2Proof.Machine

/-! ### Nodes -/

/-- The power domain of a node's unit; the fabric's own where the stop has no unit of a domain of its own. -/
def nodeDom (n : Node) : Nat :=
  match tileAtStop n.stop.val with
  | some t => let tile := n.quad.val * 33 + t
              if n.unit.val = 2 then 264 + tile else if n.unit.val = 3 then domOfFabric n.quad.val else 2 * tile + n.unit.val
  | none =>
    match (List.range 4).find? fun i => stopOfMc i == n.stop.val with
    | some i => 396 + n.quad.val * 4 + i
    | none => domOfFabric n.quad.val

/-! ### Arrival -/

/-- A packet leaves the fabric. -/
def Dev.leave (d : Dev) (o : Opc) (m : Msg) : Dev := d.setFabric { d.fabric with net := d.fabric.net.erase (o, m) }

/-- The link that leaves a router by an output port. -/
def portLink (s p : Nat) : Nat :=
  match ([false, true].flatMap fun v => (List.range 4).map fun i => (v, i)).find? fun x => p == 5 && bridgeStop x.1 x.2 == s with
  | some (v, i) => 512 + bitNat v * 4 + i
  | none => s * 8 + p

/-- The bytes that a packet's byte enables reach. -/
def byteSpan (m : Msg) : Nat := if m.byteen = 0 then 8 else (List.range 64).countP fun i => m.byteen.toNat.testBit i

def isCoreAgent (a : Agent) : Bool :=
  match a with
  | .core _ => true
  | _ => false

/-- An older packet of the same source, destination and virtual channel is still in the fabric or parked (R246); a packet that has just been
sent is the newest. -/
def Dev.overtakes (d : Dev) (o : Opc) (m : Msg) : Bool :=
  let before := fun (p : Opc × Msg) => opcVc p.1 == opcVc o && p.2.src == m.src && p.2.dst == m.dst
  ((d.fabric.net.takeWhile fun p => p != (o, m)).any before) || d.fabric.parked.any fun p => before (p.opc, p.msg)

/-- A device access of a core. -/
def deviceOpc (o : Opc) : Bool := o == .devrd || o == .devwr || o == .csrrd || o == .csrwr
/-- A core sends a device access to one destination only after the response to its previous one to any other (R246). -/
def Dev.deviceHeld (d : Dev) (o : Opc) (m : Msg) : Bool :=
  isCoreAgent m.who && deviceOpc o && d.fabric.txns.any fun t =>
    t.who == m.who && t.txid != m.txid && !t.timed && deviceOpc t.opc && d.destOf t.addr.toNat != d.destOf m.addr.toNat

/-- A link that has failed 16 replays in succession keeps its handshake open: no packet passes it (R248). -/
def Dev.linkOpen (d : Dev) (m : Msg) : Bool :=
  (d.route3 m.src m.dst).any fun h => d.fabric.open_.contains (h.1, portLink h.2.1 h.2.2)

/-- A packet waits in the fabric. -/
def Dev.hold (d : Dev) (o : Opc) (m : Msg) : Dev := if d.fabric.net.contains (o, m) then d else d.send o m

/-- The domain whose unit a packet is for: at a service stop, the data engine takes the responses of its own transactions; a control-space access
is for the unit of its register, and an access to a port's range for its skein. -/
def Dev.packetDom (d : Dev) (o : Opc) (m : Msg) : Nat :=
  if !isRequest o then match m.who with
    | .engine e => if m.dst.stop.val == 20 then domOfEngine e.val else nodeDom m.dst
    | _ => nodeDom m.dst
  else match d.place m.addr.toNat with
    | .control s off => match Reg.ofOffset (off - off % 8) with
      | some r => if s == d.socket && (o == .csrrd || o == .csrwr) then r.domain.getD (nodeDom m.dst) else nodeDom m.dst
      | none => nodeDom m.dst
    | .mmio s g off =>
      if s != d.socket then nodeDom m.dst else match d.mmioRes g off (byteSpan m) with
        | .out p _ => domOfSkein (p / 4)
        | .header dev _ => domOfSkein ((g * 16 + dev) / 4)
        | _ => nodeDom m.dst
    | _ => nodeDom m.dst

/-- A control-space access to a register that answers whatever the state of its unit (R29). -/
def Dev.answersAlways (d : Dev) (o : Opc) (m : Msg) : Bool :=
  (o == .csrrd || o == .csrwr) && match d.place m.addr.toNat with
    | .control _ off => match Reg.ofOffset (off - off % 8) with
      | some r => r.alwaysReachable
      | none => true
    | _ => true

/-- What comes of a packet addressed to a unit that is not On (R249): none where it is delivered. A packet that parks wakes the unit;
behind a parked one of its virtual channel, it waits in the mesh. -/
def Dev.asleep (d : Dev) (o : Opc) (m : Msg) : Option Dev :=
  let k := d.packetDom o m
  if d.answersAlways o m then none
  else if d.power k = 1 then
    let f := d.fabric
    if f.parked.any fun p => p.dom == k && opcVc p.opc == opcVc o then
      some { d with fabric := { f with net := if f.net.contains (o, m) then f.net else f.net ++ [(o, m)] } }
    else
      let g : Fabric := { f with net := f.net.erase (o, m), parked := f.parked ++ [⟨k, o, m⟩] }
      some ((d.setFabric g).modDom k fun x => { x with step := .waking })
  else if d.isOff k && !(o == .csrrd || o == .csrwr) then
    let d1 := (d.leave o m).err (420 + m.dst.quad.val) 0x40 m.dst.quad.val
    some (if isRequest o then d1.answer m false 0 true else d1)
  else none

/-- The initiator of a packet of its own times its transaction from when the packet is sent (R251). -/
def Dev.startTxn (d : Dev) (o : Opc) (m : Msg) : Dev := if begins o then d.beginTxn m o else d

/-- When the request that a packet is, or answers, was sent. -/
def Dev.beganAt (d : Dev) (m : Msg) : Word :=
  ((d.fabric.txns.find? fun t => t.who == m.who && t.txid == m.txid).map (·.began)).getD d.time

/-- Delivers a packet whose unit is On; `f` is what the unit does with it. The fabric domains that it crosses wake (R247). A packet that others
come before, or whose route has an open link, waits. -/
def Dev.deliver (d : Dev) (o : Opc) (m : Msg) (f : Dev → Dev) : Dev :=
  let d0 := d.startTxn o m
  if d0.overtakes o m || d0.linkOpen m || d0.deviceHeld o m then d0.hold o m else
  let d1 := d0.wakeRoute m.src m.dst
  if d1.blocked m then (d1.leave o m).lateAt m.src.quad.val else
  match d1.asleep o m with
  | some x => x
  | none => f (((d1.leave o m).see o m (d1.beganAt m)).abortEntry (d1.packetDom o m))

/-! ### The home's side of a transaction (R164, R165) -/

/-- The other socket that an access names, when it can be reached (R25, R27, R304). -/
def Dev.farSocket (d : Dev) (m : Msg) : Option Nat :=
  let s := match d.place m.addr.toNat with
    | .control s _ => some s
    | .mmio s _ _ => some s
    | .remoteSpad s => some s
    | _ => none
  s.filter fun s => s != d.socket && d.sockUp s

def lineOfMsg (m : Msg) : Nat := m.addr.toNat / 64
/-- The initiator's packet that a response answers has the same line. -/
def HomeTxn.line (t : HomeTxn) : Nat := lineOfMsg t.req

/-- A packet of a stale epoch is discarded and counted (R182). -/
def Dev.stale (d : Dev) (n : Nat) (m : Msg) : Bool :=
  match m.who with
  | .core c => d.dirEpoch n c.val != m.epoch.toNat
  | _ => false
/-- What slice `n` does with a message, unless its epoch is stale (R182, R199). -/
def Dev.freshAt (d : Dev) (n : Nat) (m : Msg) (f : Dev → Dev) : Dev :=
  if d.stale n m then d.countFld (.dirStat n) .DIR_STAT_STALE 1 else f d
/-- What a home slice does with a message, unless its epoch is stale. -/
def Dev.fresh (d : Dev) (m : Msg) (f : Dev → Dev) : Dev := d.freshAt (d.home (lineOfMsg m)).1 m f

/-- The response that completes a request. -/
def Dev.respond (d : Dev) (n : Nat) (o : Opc) (m : Msg) (r : HomeRes) (upgrade : Bool) : Dev :=
  let b := { backOf m with src := sliceNode n, dst := d.agentNode m.who }
  if r.got.err then d.send .err { b with rstat := 1, poison := true }
  else match o with
    | .iow | .wbd | .evc => d.send .cmp b
    | .upg => if upgrade then d.send .grant b else d.send .data { b with data := r.got.data, poison := r.got.poison }
    | _ => d.send .data { b with data := r.got.data, poison := r.got.poison }

/-- A is a sharer of the line: its Upg needs no data. -/
def Dev.isSharer (d : Dev) (n : Nat) (m : Msg) : Bool :=
  ((d.slice n).dirEntry (lineOfMsg m)).any fun e => e.holders.any (sameTile m.who)

/-- What a request's snoops have brought back. -/
def HomeTxn.answer (t : HomeTxn) : SnoopAns :=
  ⟨t.data.map fun p => ⟨{ line := t.line, st := if t.dirty then .modified else .exclusive, data := p.1, poison := p.2, key := t.req.key }, t.supplier⟩,
   t.lost, t.spec⟩

/-- The socket to which a request for a line goes on, where no holder of this socket has supplied its data (R171). -/
def Dev.goesOn (d : Dev) (t : HomeTxn) : Option Nat :=
  if t.data.isSome || t.lost || [Opc.wbd, .evc].contains t.opc then none
  else match d.place (t.line * 64) with
    | .remote s => if d.sockUp s then some s else none
    | _ => none

/-- Ends a request in progress with what its snoops brought back. A request that goes on to another socket is answered from there. -/
def Dev.endTxn (d : Dev) (n : Nat) (t : HomeTxn) : Dev :=
  let m := t.req
  let (_, set) := d.home t.line
  let upgrade := t.opc == .upg && d.isSharer n m
  let d1 := d.modSlice n fun s => { s with txns := s.txns.erase t }
  match d1.goesOn t with
  | some s => (if t.opc = .iow then d1.dropDir n t.line else d1).cross s t.opc m
  | none =>
    let (d2, r) := d1.homeFinish n set t.opc m.who t.line m.key m.data m.byteen m.poison t.answer
    d2.respond n t.opc m r upgrade

/-- A request whose answers are all in ends; one whose owner has sent a write-back waits for it. -/
def Dev.tryEnd (d : Dev) (n : Nat) (t : HomeTxn) : Dev :=
  if t.acks.isEmpty && !t.waitWb then d.endTxn n t else d

/-- The holders that a home snoops for a request, and how. A tile's other core is snooped where it holds the line. -/
def Dev.snoopList (d : Dev) (n : Nat) (o : Opc) (m : Msg) : List Agent × SnoopKind :=
  let (ts, k) := homeTargets ((d.slice n).dirEntry (lineOfMsg m)) o (d.homedAway (lineOfMsg m))
  let sibling := fun (c : Nat) => if c % 2 = 0 then c + 1 else c - 1
  (ts.filter fun a => match a, m.who with
    | .core t, .core c => t.val / 2 != c.val / 2 || o == .iow || ((d.core (sibling c.val)).l2Line (lineOfMsg m)).isSome
    | a, b => a != b, k)

/-- The node by which a holder is snooped: a tile's first core that is not Off (R162, R170). -/
def Dev.snoopNode (d : Dev) (a : Agent) : Node :=
  match a with
  | .core c => if d.isOff (c.val / 2 * 2) then coreNode (c.val / 2 * 2 + 1) else coreNode (c.val / 2 * 2)
  | _ => d.agentNode a
/-- A tile whose cores are both Off holds no line, and no snoop goes there (R170). -/
def Dev.offTile (d : Dev) (a : Agent) : Bool :=
  match a with
  | .core c => d.isOff (c.val / 2 * 2) && d.isOff (c.val / 2 * 2 + 1)
  | _ => false

/-- Begins a request that need not wait: its snoops go out, or it completes at once. -/
def Dev.homeStart (d : Dev) (n : Nat) (o : Opc) (m : Msg) : Dev :=
  let ln := lineOfMsg m
  let e := (d.slice n).dirEntry ln
  let (asks, k) := d.snoopList n o m
  let owned := e.any (·.excl)
  let live := asks.filter fun a => !d.deadHolder a && !d.offTile a
  let t : HomeTxn := { opc := o, req := m, owner := if owned then asks else [], acks := live, data := none, dirty := false, supplier := none,
                       lost := owned && asks.any d.deadHolder, spec := false, waitWb := false }
  let d1 := d.modSlice n fun s => { s with txns := s.txns ++ [t] }
  let op : Opc := match k with
    | .inval => .snpinv
    | _ => .snp
  let d2 := live.foldl (fun x a => x.send op { m with
    src := sliceNode n, dst := x.snoopNode a, who := a, epoch := 0, data := 0, sdata := 0, byteen := 0, rstat := 0 }) d1
  d2.tryEnd n t

/-- A request at its home has to wait (R165, R167, R177). `behind` says that an older one for the line waits in the queue. -/
def Dev.homeWaits (d : Dev) (n : Nat) (o : Opc) (m : Msg) (behind : Bool) : Bool :=
  let ln := lineOfMsg m
  let (_, set) := d.home ln
  let s := d.slice n
  behind || (s.txns.any fun t => t.line == ln) || d.crossing ln || (d.hash.active != .none && d.oldSet ln == d.hash.ptr) ||
    ((o == .rds || o == .rdo || o == .upg) && (s.dirEntry ln).isNone && !d.dirHasRoom n set)

/-- The oldest request of a slice's pending queue that need not wait any longer. -/
def Dev.nextWaiting (d : Dev) (n : Nat) : Option (Opc × Msg) :=
  let q := (d.slice n).waitq
  q.find? fun p => !d.homeWaits n p.1 p.2 ((q.takeWhile fun x => x != p).any fun x => lineOfMsg x.2 == lineOfMsg p.2)

/-- The requests that wait at a slice are taken up as soon as they may be, in the order granted (R165). One whose line has got a new home
meanwhile goes there (R177). -/
def Dev.serveWaiting (n : Nat) : Nat → Dev → Dev
  | 0, d => d
  | k + 1, d =>
    match d.nextWaiting n with
    | none => d
    | some p =>
      let d1 := d.modSlice n fun s => { s with waitq := s.waitq.erase p }
      let (h, _) := d1.home (lineOfMsg p.2)
      Dev.serveWaiting n k (if h = n then d1.homeStart n p.1 p.2 else d1.send p.1 { p.2 with dst := sliceNode h })

/-- What waits at a slice is looked at again. -/
def Dev.wakeQueue (d : Dev) (n : Nat) : Dev := d.serveWaiting n 64

/-- An access to the scratchpad is performed at its slice (R185), through the port of its sender; a collision marks the response (R187). -/
def Dev.spadPacket (d : Dev) (n w off : Nat) (o : Opc) (m : Msg) : Dev :=
  let b := { backOf m with src := sliceNode n, dst := d.agentNode m.who }
  let base := off - off % 64
  match o with
  | .iow =>
    let on := (List.range 64).filter fun i => m.byteen.toNat.testBit i
    let first := on.headD 0
    let bytes := (List.range (on.getLastD 0 + 1 - first)).map fun i =>
      if m.byteen.toNat.testBit (first + i) then some (BitVec.ofNat 8 (m.data.toNat / 2 ^ (8 * (first + i)))) else none
    if on.isEmpty then d.send .cmp b else
    let (d1, hit) := d.spadPutMark (isEngine m.who) n w (base + first) bytes
    d1.send .cmp { b with collide := hit }
  | .wbd | .evc => d.send .cmp b
  | _ =>
    let (d1, g, l, hit) := d.spadGetMark (isEngine m.who) n w base 64
    d1.send .data { b with data := BitVec.ofNat 512 (leNat l), poison := g.poison, collide := hit }

/-- The answer of a holder, or the write-back that it has sent instead, is recorded in a request (R164). -/
def HomeTxn.withData (t : HomeTxn) (m : Msg) (dirty : Bool) : HomeTxn :=
  let from_ := match m.who with
    | .core c => some (if m.src.unit.val < 2 then c.val / 2 * 2 + m.src.unit.val else c.val)
    | _ => none
  { t with data := some (m.data, m.poison), dirty := dirty, supplier := from_, waitWb := false }

/-- Changes a request in progress, and ends it when nothing is left to wait for. -/
def Dev.modTxn (d : Dev) (n : Nat) (t t' : HomeTxn) : Dev :=
  ((d.modSlice n fun s => { s with txns := s.txns.map fun x => if x == t then t' else x }).tryEnd n t').wakeQueue n

/-- A home takes up a request (R164, R165). A request that finds the queue full is counted, each time it comes (log entry 123); a data packet does
not wait for requests (R244). A write by a device, an engine, a caching device or another socket is made
outside every panel (R216); a core's is noted when the core writes the line. -/
def Dev.homeTake (d : Dev) (o : Opc) (m : Msg) : Dev :=
  match d.farSocket m, d.place m.addr.toNat with
  | some s, _ => d.cross s o m
  | none, .spad s w off => d.freshAt s m fun d => d.spadPacket s w off o m
  | none, _ => d.fresh m fun d =>
    let ln := lineOfMsg m
    let (n, _) := d.home ln
    let d := if d.unreachable ln then d else if o = .iow || ((o = .rdo || o = .upg) && !isCoreAgent m.who) then d.noteOutside none ln else d
    match (d.slice n).txns.find? fun t => t.line == ln && t.waitWb && (o == .wbd || o == .evc) with
    | some t => (d.modTxn n t (t.withData m (o == .wbd))).send .cmp { backOf m with src := sliceNode n, dst := d.agentNode m.who }
    | none =>
      if !d.homeWaits n o m ((d.slice n).waitq.any fun x => lineOfMsg x.2 == ln) then (d.homeStart n o m).wakeQueue n
      else if isRequest o && decide (64 ≤ ((d.slice n).waitq.filter fun x => isRequest x.1).length) then
        let d1 := d.countFld (.dirStat n) .DIR_STAT_QFULL 1
        d1.setFabric { d1.fabric with net := (o, m) :: d1.fabric.net }
      else d.modSlice n fun s => { s with waitq := s.waitq ++ [(o, m)] }

/-- The request in progress at a home that waits for an answer from agent `a`. -/
def Dev.txnFor (d : Dev) (ln : Nat) (a : Agent) : Option (Nat × HomeTxn) :=
  let (n, _) := d.home ln
  ((d.slice n).txns.find? fun t => t.line == ln && t.acks.any (sameTile a)).map fun t => (n, t)

/-- Records an answer and ends the request when it was the last; an answer to no transaction is late (R251). -/
def Dev.answered (d : Dev) (m : Msg) (f : Nat → HomeTxn → HomeTxn) : Dev :=
  d.fresh m fun d => match d.txnFor (lineOfMsg m) m.who with
    | some (n, t) => d.modTxn n t (f n { t with acks := t.acks.filter fun a => !sameTile m.who a })
    | none => d.lateAt m.dst.quad.val

/-- ACK from a holder. -/
def Dev.homeAck (d : Dev) (m : Msg) : Dev := d.answered m fun _ t => t

/-- NOCOPY from a holder: from the owner recorded, the write-back that waits at the home or is on its way completes the request; where
there is none the line is lost (R164, R251), unless a stitch of the tile holds it (R211). -/
def Dev.homeNoCopy (d : Dev) (m : Msg) : Dev :=
  let ln := lineOfMsg m
  let spec := match m.who with
    | .core c => (d.core (c.val / 2 * 2)).speculates ln || (d.core (c.val / 2 * 2 + 1)).speculates ln
    | _ => false
  let (n, _) := d.home ln
  match (d.slice n).waitq.find? fun p => (p.1 == .wbd || p.1 == .evc) && lineOfMsg p.2 == ln && sameTile p.2.who m.who with
  | some p =>
    if (d.txnFor ln m.who).isNone || d.stale n m then d.answered m fun _ t => t else
    let d1 := (d.modSlice n fun s => { s with waitq := s.waitq.erase p }).send .cmp { backOf p.2 with src := sliceNode n, dst := d.agentNode p.2.who }
    d1.answered m fun _ t => t.withData p.2 (p.1 == .wbd)
  | none => d.answered m fun _ t =>
    if t.owner.any (sameTile m.who) && d.writeBackComing ln then { t with waitWb := true } else { t with spec := t.spec || spec }

/-- COPYLOST: a dead owner's copy is lost (R180 step 2). -/
def Dev.homeLost (d : Dev) (m : Msg) : Dev := d.answered m fun _ t => { t with lost := true }

/-- SNPDATA: a holder's data; dirty where every byte enable is set (log entry 35). Data of a back-invalidated line goes
straight to memory (R167). -/
def Dev.homeSnpData (d : Dev) (m : Msg) : Dev :=
  if (d.txnFor (lineOfMsg m) m.who).isSome then d.answered m fun _ t => t.withData m (m.byteen == fullMask)
  else d.fresh m fun d => if m.byteen = fullMask then d.victimOut (lineOfMsg m) m.data m.key m.poison else d

/-! ### A holder's side -/

/-- What a home asks with the snoop of a line: for data only where it serves an RdNA (R164). -/
def Dev.snoopKind (d : Dev) (o : Opc) (ln : Nat) : SnoopKind :=
  let (n, _) := d.home ln
  if o != .snp then .inval
  else if (d.slice n).txns.any fun t => t.line == ln && t.opc == .rdna then .peek else .share

/-- The answer of an agent to a snoop (R163, R180): data where it held the line modified or exclusive. A core's message carries its
epoch, and names the core of its tile that supplied the data (R182, R243). -/
def Dev.snoopAnswer (d : Dev) (o : Opc) (m : Msg) : Dev :=
  let ln := lineOfMsg m
  let (n, _) := d.home ln
  let owner := ((d.slice n).dirEntry ln).any fun e => e.excl && e.holders.any (sameTile m.who)
  let (d1, a) := d.snoop m.who none ln (d.snoopKind o ln) owner
  let epoch : Byte := match m.who with
    | .core c => BitVec.ofNat 8 (d.epoch c.val)
    | _ => 0
  let b := { backOf m with src := m.dst, dst := sliceNode n, epoch := epoch }
  if a.lost then d1.send .copylost { b with rstat := 2 }
  else match a.held with
    | none => d1.send .nocopy { b with rstat := 3 }
    | some x =>
      if x.line.st = Mesi.shared then d1.send .ack b
      else
        let unit : Fin 4 := match x.core with
          | some c => Fin.ofNat 4 (c % 2)
          | none => b.src.unit
        d1.send .snpdata { b with
          src := { b.src with unit := unit }, data := x.line.data, poison := x.line.poison, key := x.line.key,
          byteen := if x.line.st = Mesi.modified then fullMask else 0 }

/-- A snoop arrives: an agent that waits for its own grant of the line holds it (R166), unless the snoop serves that very
request on behalf of the tile's other core. -/
def Dev.snoopArrive (d : Dev) (o : Opc) (m : Msg) : Dev :=
  let ln := lineOfMsg m
  let (n, _) := d.home ln
  let own := fun (t : OutTxn) => (d.slice n).txns.any fun h => h.line == ln && h.req.who == t.who && h.req.txid == t.txid
  let same := fun (t : OutTxn) => !t.timed && !own t && t.addr.toNat / 64 == ln &&
    (t.opc == .rds || t.opc == .rdo || t.opc == .upg) && sameTile t.who m.who
  if d.fabric.txns.any same then
    d.setFabric { d.fabric with txns := d.fabric.txns.map fun t => if same t then { t with held := t.held ++ [(o, m)] } else t }
  else match m.who with
    | .socket s => if d.sockUp s.val && (d.linkFor s.val m).isSome then d.cross s.val o m else d.snoopAnswer o m
    | _ => d.snoopAnswer o m

/-! ### An initiator's side (R251) -/

def Dev.dropTxn (d : Dev) (t : OutTxn) : Dev := d.setFabric { d.fabric with txns := d.fabric.txns.filter fun x => x != t }
/-- The snoops that an initiator held are answered once its transaction has ended. -/
def Dev.answerHeld (d : Dev) (t : OutTxn) : Dev := t.held.foldl (fun x p => x.snoopAnswer p.1 p.2) d

/-- A response reaches its initiator: `f` is what it does with it; one that comes after a timeout, or for no
transaction, is late. The initiator of a peer's transaction is the proxy of its link (R323). -/
def Dev.complete (d : Dev) (o : Opc) (m : Msg) (f : Dev → OutTxn → Dev) : Dev :=
  match d.fabric.txns.find? fun t => t.who == m.who && t.txid == m.txid with
  | none => d.lateAt m.dst.quad.val
  | some t =>
    if t.timed then d.lateAt m.dst.quad.val else
    match m.who with
    | .socket _ => (d.dropTxn t).proxyDone o m.txid m
    | _ => (f (d.dropTxn t) t).answerHeld t

/-- A line of another socket arrives at a core, or its right to write it: the directory of this socket follows (R162), and the core's state of the
line. Whether a read was granted the line alone is the far home's (log entry 21). -/
def Dev.farArrive (d : Dev) (c : CoreId) (o : Opc) (m : Msg) : Dev × Mesi :=
  let ln := lineOfMsg m
  let (n, set) := d.home ln
  if o = .rds then match (d.slice n).dirEntry ln with
    | some e => (d.setDir n ({ e with excl := false }.add (.core c)), .shared)
    | none =>
      let (i, d1) := d.draw
      let d2 := d1.dirRoom n set
      if Config.farGrant i then (d2.setDir n (ownedBy (.core c) ln set), .exclusive)
      else (d2.setDir n ((DirEntry.blank ln set).add (.core c)), .shared)
  else
    let others := (((d.slice n).dirEntry ln).map DirEntry.holders).getD []
    let (d1, _) := d.snoopAll m others (some c.val) .inval false
    (((if others.isEmpty then d1.dirRoom n set else d1)).setDir n (ownedBy (.core c) ln set), .modified)

/-- GRANT: an Upg needs no data; the line becomes M. -/
def Dev.takeGrant (d : Dev) (m : Msg) : Dev :=
  d.complete .grant m fun x t => match m.who with
    | .core c =>
      let y := if x.homedAway (lineOfMsg m) then (x.farArrive c t.opc m).1 else x
      y.modCore c.val fun k => { k with l2 := k.l2.map fun e => if e.line == lineOfMsg m then { e with st := .modified } else e }
    | _ => x

/-- The state in which a requester receives a line (R164): from its request and the entry that the home now holds. -/
def Dev.grantState (d : Dev) (t : OutTxn) (ln : Nat) : Option Mesi :=
  match t.opc with
  | .rdo | .upg => some .modified
  | .rds =>
    let (n, _) := d.home ln
    if ((d.slice n).dirEntry ln).any (·.excl) then some .exclusive else some .shared
  | _ => none

/-- The answer of another socket to an access that waits for it is kept for the access. -/
def Dev.keepAnswer (d : Dev) (t : OutTxn) (x : Line) (poison err : Bool) : Dev :=
  d.setFabric { d.fabric with far := d.fabric.far ++ [⟨t.who, t.opc, t.addr, x, poison, err⟩] }

/-- DATA: a line for a cache, or the value of a non-allocating, control-space or device read. -/
def Dev.takeData (d : Dev) (m : Msg) : Dev :=
  d.complete .data m fun x t =>
    let ln := lineOfMsg m
    match m.who, x.grantState t ln with
    | .core c, some st =>
      let (y, st) := if x.homedAway ln then x.farArrive c t.opc m else (x, st)
      y.fillL2 c.val { line := ln, st := st, data := m.data, poison := m.poison, key := m.key }
    | _, _ =>
      if t.keep then x.keepAnswer t (if deviceOpc t.opc then m.sdata.setWidth 512 else m.data) m.poison false
      else x.out (if t.opc = .rdna then m.data.truncate 64 else m.sdata) m.poison

/-- CMP: a write or control-space access is done. -/
def Dev.takeCmp (d : Dev) (m : Msg) : Dev :=
  d.complete .cmp m fun x t => if t.keep then x.keepAnswer t 0 false false else x.out 0 false

/-- An error response reaches its requester (R447): a write is dropped and recorded. -/
def Dev.failTxn (d : Dev) (who : Agent) (o : Opc) (addr : Nat) : Dev :=
  let d1 := d.out (BitVec.allOnes 64) true
  match who, o with
  | .core c, .iow | .core c, .csrwr | .core c, .devwr | .core c, .wbd => d1.report (.error c.val 0x08 c.val (some addr) (d1.lcore? c.val) 0)
  | .io g, .iow => d1.errAt (412 + g.val) 0x37 g.val addr
  | _, _ => d1

/-- ERR. -/
def Dev.takeErr (d : Dev) (m : Msg) : Dev :=
  d.complete .err m fun x t => if t.keep then x.keepAnswer t 0 true true else x.failTxn t.who t.opc t.addr.toNat

/-- END_TO_END_TIMEOUT: the initiator completes its transaction with an error response, holds no copy and answers the
snoops it held; its TXID waits for a late response. -/
def Dev.endToEnd (d : Dev) (a : Agent) (txid : Half) : Dev :=
  match d.fabric.txns.find? fun t => t.who == a && t.txid == txid && !t.timed with
  | none => d
  | some t =>
    let d1 := d.setFabric { d.fabric with txns := d.fabric.txns.map fun x => if x == t then { x with timed := true, began := d.time, held := [] } else x }
    match t.who with
    | .socket _ => match (d1.link (txid.toNat % 16)).proxied.find? fun y => y.own == txid with
      | some y => d1.proxyDone .err txid { backOf y.req with rstat := 1, poison := true }
      | none => d1
    | _ => (if t.keep then d1.keepAnswer t 0 true true else d1.failTxn t.who t.opc t.addr.toNat).answerHeld t

/-! ### Control-space and device packets (R8, R27, R304) -/

/-- The slice whose DIR_EPOCH and DIR_STAT serve a control-space or device access: the slice that it names, and slice 0 for any other unit (log
entry 123). -/
def Dev.epochSlice (d : Dev) (m : Msg) : Nat :=
  match d.place m.addr.toNat with
  | .control _ o => match (Reg.ofOffset (o - o % 8)).bind Reg.domain with
    | some k => if sliceDom k then k - 264 else 0
    | none => 0
  | _ => 0

/-- CSRRD and CSRWR at the block that they address. -/
def Dev.csrPacket (d : Dev) (m : Msg) (write : Bool) : Dev :=
  match d.place m.addr.toNat with
  | .control s o =>
    if s != d.socket then (if d.sockUp s then d.cross s (if write then .csrwr else .csrrd) m else d.answer m write 0 true)
    else d.freshAt (d.epochSlice m) m fun d =>
      if write then
        let (d1, e) := d.csrWrite o (byteSpan m) m.sdata
        d1.answer m true 0 e
      else
        let (d1, r) := d.csrRead o (byteSpan m)
        d1.answer m false (r.getD 0) r.isNone
  | _ => d.answer m write 0 true

/-- DEVRD and DEVWR at an I/O stop: configuration space or a window. A stop has no DIR_EPOCH and no DIR_STAT of its own: slice 0's serve (log
entry 123). -/
def Dev.devPacket (d : Dev) (m : Msg) (write : Bool) : Dev :=
  d.freshAt 0 m fun d =>
  if (d.farSocket m).isSome then d.cross ((d.farSocket m).getD 0) (if write then .devwr else .devrd) m
  else if inMmio m.addr.toNat then
    if inEcam (mmioOf m.addr.toNat).2.2 then d.configAccess m write (byteSpan m) else d.windowAccess m write (byteSpan m)
  else d.answer m write 0 true

/-- MSG: an interrupt message reaches the event controller (R362), whose stop tests its epoch as any stop does (log entry 123). -/
def Dev.msgPacket (d : Dev) (m : Msg) : Dev :=
  if let some s := d.farSocket m then d.cross s .msg m else
  let rid := match m.who with
    | .core _ => 0xFFFF
    | _ => getF m.sdata ⟨63, 48⟩
  d.freshAt 0 m fun d => d.msgDoorbell rid (BitVec.ofNat 64 (m.sdata.toNat % 2 ^ 32)) 4

/-! ### Links and ports (R248, R250) -/

/-- A link's number within its quadrant: an output port's, 8 times its stop above its port, or 512 above a bridge link's. -/
def linkCode : LinkKind → Nat
  | .mesh s p => s.val * 8 + p.val
  | .bridge v i => 512 + bitNat v * 4 + i.val
/-- LINK_RETRY: one replay, whose flit passes its check or is refused again (R242, R248). -/
def Dev.linkRetry (d : Dev) (q : Nat) (l : LinkKind) (flit : BitVec 288) : Dev :=
  let ok := flitOk flit
  let c := linkCode l
  let n := ((d.fabric.retries.find? fun r => r.1 == q && r.2.1 == c).map (·.2.2)).getD 0
  let rest := d.fabric.retries.filter fun r => !(r.1 == q && r.2.1 == c)
  let f := { d.fabric with retries := if ok then rest else (q, c, n + 1) :: rest,
                           open_ := if !ok && n + 1 == 16 then d.fabric.open_ ++ [(q, c)] else d.fabric.open_ }
  (d.setFabric f).countFld (.fabStat q) .FAB_STAT_RETRY 1

def isTileStop (s : Nat) : Bool := (tileAtStop s).isSome

/-- A retired port (R250 step 4). -/
def Dev.retirePort (d : Dev) (q s p : Nat) : Dev :=
  let ports := d.fabric.ports.map fun (x : PortIso) => if x.quad == q && x.stop == s && x.port == p then { x with retired := true } else x
  let d1 := (d.setFabric { d.fabric with ports := ports }).setFld (.fabStallLog q) .FAB_STALL_LOG_RETIRED 1
  if p = 5 then
    let vertical := decide (32 ≤ s)
    let dead := (List.range 4).all fun i => d1.linkRetired vertical q i
    if dead then d1.err (420 + q) 0x42 q else d1.err (420 + q) 0x41 q
  else if p = 4 && isTileStop s then
    let t := q * 33 + (tileAtStop s).getD 0
    ((d1.err (420 + q) 0x41 q).declareDead (.tile (Fin.ofNat 132 t))).failSlice t
  else d1.err (420 + q) 0x42 q

/-- The stop of a controller whose channel changes frequency or retrains holds its stall watch off (R272, R276). -/
def Dev.watchHeld (d : Dev) (q s p : Nat) : Bool :=
  p == 4 && (List.range 16).any fun ch => ch / 4 == q && stopOfMc (ch % 4) == s && (d.chanState ch == 1 || d.chanState ch == 2)

/-- PORT_ISOLATION: the stall watch isolates an output port; what is routed to it is discarded and counted. -/
def Dev.isolate (d : Dev) (q s p vc : Nat) (dst : Nat) : Dev :=
  if d.watchHeld q s p then d else
  let old := d.fabric.ports.find? fun x => x.quad == q && x.stop == s && x.port == p
  let times := d.recent (10000 * ms 1) ((old.map (·.times)).getD [])
  let e : PortIso := { quad := q, stop := s, port := p, isolated := true, retired := (old.map (·.retired)).getD false, at_ := d.time, times := times }
  let d1 := d.setFabric { d.fabric with ports := e :: d.fabric.ports.filter fun x => !(x.quad == q && x.stop == s && x.port == p),
                                        open_ := d.fabric.open_.filter (fun x => !(x.1 == q && x.2 == portLink s p)),
                                        retries := d.fabric.retries.filter fun x => !(x.1 == q && x.2.1 == portLink s p) }
  let gone := d1.fabric.net.filter fun m => d1.uses m.2 q s p
  let d2 := gone.foldl (fun x m => x.lateAt m.2.src.quad.val) (d1.setFabric { d1.fabric with net := d1.fabric.net.filter fun m => !d1.uses m.2 q s p })
  let d3 := (d2.countFld (.fabStat q) .FAB_STAT_ISOLATE 1).setFlds (.fabStallLog q)
    [(.FAB_STALL_LOG_VALID, 1), (.FAB_STALL_LOG_RETIRED, 0), (.FAB_STALL_LOG_PORT, p), (.FAB_STALL_LOG_STOP, s), (.FAB_STALL_LOG_VC, vc),
     (.FAB_STALL_LOG_DST, dst), (.FAB_STALL_LOG_TIME, d.time.toNat / 1024)]
  let d4 := (d3.err (420 + q) 0x40 q).wire (4176 + q)
  if 3 ≤ times.length && !e.retired then d4.retirePort q s p else d4

/-- WORM_ABORT: a worm whose next flit has not come is closed downstream, and its receiver discards the partial packet. -/
def Dev.wormAbort (d : Dev) (q s p : Nat) : Dev :=
  let d1 := d.countFld (.fabStat q) .FAB_STAT_ABORT 1
  match d.fabric.net.find? fun m => d.uses m.2 q s p with
  | some m => d1.leave m.1 m.2
  | none => d1

/-- PORT_REENABLE, twice the end-to-end timeout after isolation. -/
def Dev.reenable (d : Dev) (q s p : Nat) (ok : Bool) : Dev :=
  d.setFabric { d.fabric with ports := d.fabric.ports.map fun x =>
    if x.quad == q && x.stop == s && x.port == p && ok && !x.retired then { x with isolated := false } else x }

/-- PARKED_PACKET_DISCARD: a unit did not wake within the stall-watch time (R249). -/
def Dev.discardParked (d : Dev) (k vc : Nat) : Dev :=
  match d.fabric.parked.find? fun p => p.dom == k && opcVc p.opc == vc with
  | none => d
  | some p =>
    let q := p.msg.dst.quad.val
    let d1 := d.setFabric { d.fabric with parked := d.fabric.parked.erase p }
    (d1.setFlds (.fabStallLog q) [(.FAB_STALL_LOG_VALID, 1), (.FAB_STALL_LOG_RETIRED, 0), (.FAB_STALL_LOG_PORT, 4),
      (.FAB_STALL_LOG_STOP, p.msg.dst.stop.val), (.FAB_STALL_LOG_VC, vc), (.FAB_STALL_LOG_DST, nodeCode p.msg.dst),
      (.FAB_STALL_LOG_TIME, d.time.toNat / 1024)]).err (420 + q) 0x40 q

/-! ### The rebuild and the reclamation at the homes (R176, R180) -/

/-- What waits at every slice is looked at again. -/
def Dev.wakeQueues (d : Dev) : Dev := (d.slices.map (·.1)).foldl (fun x n => x.wakeQueue n) d

/-- REBUILD_SET, after which requests to the set go to its new home; a slice whose power-off is done, and which is wanted On meanwhile,
wakes to be joined (R382). -/
def Dev.rebuildSet (d : Dev) (late : Bool) : Dev :=
  let d1 := (d.rebuildStep late).wakeQueues
  let k := domOfSlice d.hash.slice
  if d.hash.active == .powerOff && d1.hash.active == .none && (d1.dom k).latest == some .on then d1.wakeOff k else d1

/-- The home answers the snoops to dead agents itself (R180 step 2). -/
def Dev.answerDead (d : Dev) (n : Nat) : Dev :=
  let dead := (d.slice n).txns.filter fun t => t.acks.any d.deadHolder
  dead.foldl (fun x t => x.modTxn n t { t with acks := t.acks.filter (fun a => !d.deadHolder a), lost := t.lost || t.owner.any d.deadHolder }) d

/-- SETFLUSH reaches an agent by its route (R168, R247, R250). -/
def Dev.setFlushAt (d : Dev) (n set : Nat) (a : Agent) : Dev :=
  let m := { d.packetTo a 0 0 0 0 0 false with src := sliceNode n, dst := d.snoopNode a, epoch := 0 }
  match d.reach .setflush m with
  | (d1, true) => d1.setFlush n set a
  | (d1, false) => d1

/-! ### The commands -/

def execRebuildSet (late : Bool) (s : State) : Host.Outcome State Fault Refusal := s.done (s.dev.rebuildSet late)
def Dev.walkStep (d : Dev) (w : Walker) : Dev :=
  match w with
  | .slice n => (d.answerDead n.val).walkDone w
  | .socket _ => d.walkDone w
def execReclamationWalk (w : Walker) (s : State) : Host.Outcome State Fault Refusal := s.done (s.dev.walkStep w)

def execRds (m : Msg) (s : State) : Host.Outcome State Fault Refusal := s.done (s.dev.deliver .rds m (·.homeTake .rds m))
def execRdo (m : Msg) (s : State) : Host.Outcome State Fault Refusal := s.done (s.dev.deliver .rdo m (·.homeTake .rdo m))
def execUpg (m : Msg) (s : State) : Host.Outcome State Fault Refusal := s.done (s.dev.deliver .upg m (·.homeTake .upg m))
def execRdna (m : Msg) (s : State) : Host.Outcome State Fault Refusal := s.done (s.dev.deliver .rdna m (·.homeTake .rdna m))
def execIow (m : Msg) (s : State) : Host.Outcome State Fault Refusal := s.done (s.dev.deliver .iow m (·.homeTake .iow m))
def execWbd (m : Msg) (s : State) : Host.Outcome State Fault Refusal := s.done (s.dev.deliver .wbd m (·.homeTake .wbd m))
def execEvc (m : Msg) (s : State) : Host.Outcome State Fault Refusal := s.done (s.dev.deliver .evc m (·.homeTake .evc m))
def execCsrrd (m : Msg) (s : State) : Host.Outcome State Fault Refusal := s.done (s.dev.deliver .csrrd m (·.csrPacket m false))
def execCsrwr (m : Msg) (s : State) : Host.Outcome State Fault Refusal := s.done (s.dev.deliver .csrwr m (·.csrPacket m true))
def execDevrd (m : Msg) (s : State) : Host.Outcome State Fault Refusal := s.done (s.dev.deliver .devrd m (·.devPacket m false))
def execDevwr (m : Msg) (s : State) : Host.Outcome State Fault Refusal := s.done (s.dev.deliver .devwr m (·.devPacket m true))
def execMsg (m : Msg) (s : State) : Host.Outcome State Fault Refusal := s.done (s.dev.deliver .msg m (·.msgPacket m))
def execSnp (m : Msg) (s : State) : Host.Outcome State Fault Refusal := s.done (s.dev.deliver .snp m (·.snoopArrive .snp m))
def execSnpinv (m : Msg) (s : State) : Host.Outcome State Fault Refusal := s.done (s.dev.deliver .snpinv m (·.snoopArrive .snpinv m))
def execBackinv (m : Msg) (s : State) : Host.Outcome State Fault Refusal := s.done (s.dev.deliver .backinv m (·.snoopArrive .backinv m))
def execSetflush (n : SliceId) (set : Fin 3072) (a : Agent) (s : State) : Host.Outcome State Fault Refusal :=
  s.done (s.dev.setFlushAt n.val set.val a)
def execGrant (m : Msg) (s : State) : Host.Outcome State Fault Refusal := s.done (s.dev.deliver .grant m (·.takeGrant m))
def execAck (m : Msg) (s : State) : Host.Outcome State Fault Refusal := s.done (s.dev.deliver .ack m (·.homeAck m))
def execNocopy (m : Msg) (s : State) : Host.Outcome State Fault Refusal := s.done (s.dev.deliver .nocopy m (·.homeNoCopy m))
def execCopylost (m : Msg) (s : State) : Host.Outcome State Fault Refusal := s.done (s.dev.deliver .copylost m (·.homeLost m))
def execCmp (m : Msg) (s : State) : Host.Outcome State Fault Refusal := s.done (s.dev.deliver .cmp m (·.takeCmp m))
def execErr (m : Msg) (s : State) : Host.Outcome State Fault Refusal := s.done (s.dev.deliver .err m (·.takeErr m))
def execData (m : Msg) (s : State) : Host.Outcome State Fault Refusal := s.done (s.dev.deliver .data m (·.takeData m))
def execSnpdata (m : Msg) (s : State) : Host.Outcome State Fault Refusal := s.done (s.dev.deliver .snpdata m (·.homeSnpData m))
def execLinkRetry (q : Quad) (l : LinkKind) (flit : BitVec 288) (s : State) : Host.Outcome State Fault Refusal :=
  s.next (s.dev.linkRetry q.val l flit)
def execPortIsolation (q : Quad) (stop : Fin 40) (p : Fin 6) (vc : Fin 4) (dst : Byte) (s : State) : Host.Outcome State Fault Refusal :=
  s.done (s.dev.isolate q.val stop.val p.val vc.val dst.toNat)
def execWormAbort (q : Quad) (stop : Fin 40) (p : Fin 6) (s : State) : Host.Outcome State Fault Refusal := s.next (s.dev.wormAbort q.val stop.val p.val)
def execPortReenable (q : Quad) (stop : Fin 40) (p : Fin 6) (ok : Bool) (s : State) : Host.Outcome State Fault Refusal :=
  s.next (s.dev.reenable q.val stop.val p.val ok)
def execParkedPacketDiscard (k : DomId) (vc : Fin 4) (s : State) : Host.Outcome State Fault Refusal := s.done (s.dev.discardParked k.val vc.val)
def execEndToEndTimeout (a : Agent) (txid : Half) (s : State) : Host.Outcome State Fault Refusal := s.done (s.dev.endToEnd a txid)
def execLateFlit (q : Quad) (s : State) : Host.Outcome State Fault Refusal := s.next (s.dev.lateAt q.val)

end Sys2Proof.Machine
end

