-- ==== Sys2Proof/Machine/Access.lean ====
section
/-! DEFINITION. A core's accesses to memory (R53 to R58, R72 to R74, R102, R206 to R211): translation of every byte before
any effect, normal loads with forwarding from the store buffer, stores, device accesses, and what a panel member's
stitch keeps of them. -/

namespace Sys2Proof.Machine

/-- Why an access does not complete in the instruction. -/
inductive Stop
  | trap (vector code : Nat) (faddr : Word)
  | boundary (a : BoundaryAccess)
  | capacity (alone : Bool)
deriving DecidableEq, Repr

/-! ### Who executes -/

/-- The core is a running member in a stitch. -/
def Dev.stitching (d : Dev) (c : Nat) : Option Member :=
  match (d.core c).member with
  | some m => if m.phase = .running then some m else none
  | none => none

/-! ### Parts of an access -/

/-- The pieces of an access within pages: effective address and length. -/
def pieces (ea : Word) (n : Nat) : List (Word × Nat) :=
  let k := 4096 - ea.toNat % 4096
  if n ≤ k then [(ea, n)] else [(ea, k), (ea + BitVec.ofNat 64 k, n - k)]

/-- What the translation of an access meets first: nothing, a fault's effective address and code, a walk that met poison, or a leaf that
has changed since its translation was made (R144). -/
inductive XStop
  | fault (ea : Word) (code : Nat)
  | poison (ea : Word)
  | changed (leafPa : Nat)
deriving DecidableEq, Repr

/-- The effective address of a failure. -/
def XStop.ea : XStop → Word
  | .fault ea _ | .poison ea => ea
  | .changed _ => 0

/-- Translates the pages of one element in ascending order, up to the first that fails (R146); no mark is set yet. -/
def Dev.xlateElem (d : Dev) (c : Nat) (kind : AccKind) : List (Word × Nat) → Dev × List (Part × Trans) × Option XStop
  | [] => (d, [], none)
  | (ea, n) :: rest =>
    match d.translateNow c ea kind with
    | (d1, .fault code) => (d1, [], some (.fault ea code))
    | (d1, .poison _) => (d1, [], some (.poison ea))
    | (d1, .ok t) =>
      let (d2, ps, f) := d1.xlateElem c kind rest
      (d2, (⟨ea, t.pa, n, t.device || deviceRange t.pa, t.key⟩, t) :: ps, f)

/-- Translates the elements of an access, each given by its pieces, and gathers their failures. -/
def Dev.xlateAll (d : Dev) (c : Nat) (kind : AccKind) : List (List (Word × Nat)) → Dev × List (Part × Trans) × List XStop
  | [] => (d, [], [])
  | el :: rest =>
    let (d1, ps, f) := d.xlateElem c kind el
    let (d2, qs, g) := d1.xlateAll c kind rest
    (d2, ps ++ qs, f.toList ++ g)

/-- The lowest address of a list. -/
def lowest (l : List Word) : Word :=
  match l with
  | [] => 0
  | x :: t => t.foldl (fun a b => if b.toNat < a.toNat then b else a) x

/-- The fault of the lowest faulting byte. -/
def lowestFault (l : List (Word × Nat)) : Word × Nat :=
  match l with
  | [] => (0, 0)
  | x :: t => t.foldl (fun a b => if b.1.toNat < a.1.toNat then b else a) x

/-- Sets the marks of the leaves used and fills the translation structures, in order, up to the first that fails. -/
def Dev.useTrans (d : Dev) (c : Nat) (kind : AccKind) : List (Part × Trans) → Dev × Option XStop
  | [] => (d, none)
  | (p, t) :: rest =>
    let me : Agent := .core (Fin.ofNat 264 c)
    match d.setMarks me t.key t.mark with
    | (d1, .poison _) => (d1, some (.poison p.ea))
    | (d1, .changed) => (d1, some (.changed ((t.mark.map (·.1)).getD 0)))
    | (d1, .done) => (d1.fillXlate me kind t).useTrans c kind rest

/-- A device access is made at its natural width, aligned. -/
def Part.aligned (p : Part) (width : Nat) : Bool := p.n == width && p.pa % width == 0

/-- The lower of two failures. -/
def XStop.lower (a b : XStop) : XStop := if b.ea.toNat < a.ea.toNat then b else a

/-- Orders 10 and 11 of R41 for the elements of an access, where `width` is that of a part: of the elements whose walks fail, the lowest decides (R55, R146).
A walk that meets poison is a machine check of order 13, CODE 3 (R446). A leaf that has changed is discarded, and the access walks again, at
most `n` times (R144). -/
def Dev.resolveN (c : Nat) (kind : AccKind) (width : Part → Nat) (atomic : Bool) (els : List (List (Word × Nat))) : Nat → Dev → Dev × (Stop ⊕ List Part)
  | 0, d => (d, .inl (.trap 0x09 3 (lowest (els.flatten.map (·.1)))))
  | n + 1, d =>
    let (d1, ps, f) := d.xlateAll c kind els
    let dev := ps.filter fun p => p.1.device
    let bad := dev.filter fun p => !p.1.aligned (width p.1)
    match f.tail.foldl (fun (a : Option XStop) b => a.map (·.lower b)) f.head? with
    | some (.fault ea code) => (d1, .inl (.trap 0x04 code ea))
    | failed =>
      if atomic && !dev.isEmpty then (d1, .inl (.trap 0x05 3 (lowest (dev.map (·.1.ea)))))
      else if !bad.isEmpty then (d1, .inl (.trap 0x05 2 (lowest (bad.map (·.1.ea)))))
      else match failed with
        | some x => (d1, .inl (.trap 0x09 3 x.ea))
        | none => match d1.useTrans c kind ps with
          | (d2, none) => (d2, .inr (ps.map (·.1)))
          | (d2, some (.changed leaf)) => Dev.resolveN c kind width atomic els n (d2.forgetLeaf (.core (Fin.ofNat 264 c)) leaf)
          | (d2, some (.poison ea)) => (d2, .inl (.trap 0x09 3 ea))
          | (d2, some (.fault ea code)) => (d2, .inl (.trap 0x04 code ea))

def Dev.resolve (d : Dev) (c : Nat) (kind : AccKind) (width : Nat) (atomic : Bool) (eas : List Word) : Dev × (Stop ⊕ List Part) :=
  Dev.resolveN c kind (fun _ => width) atomic (eas.map fun ea => pieces ea width) 4 d

/-- The parts of an access whose translation was made earlier are translated again, each by itself: an invalidation may have come meanwhile
(R150). -/
def Dev.resolveAgain (d : Dev) (c : Nat) (kind : AccKind) (atomic : Bool) (ps : List Part) : Dev × (Stop ⊕ List Part) :=
  Dev.resolveN c kind (·.n) atomic (ps.map fun p => [(p.ea, p.n)]) 4 d

/-! ### Normal memory -/

/-- The latest buffered store's byte at an address. -/
def Core.buffered (k : Core) (pa : Nat) : Option Byte :=
  k.storeBuf.foldl (fun r e => if e.addr ≤ pa then (match e.bytes[pa - e.addr]? with
    | some b => some b
    | none => r) else r) none

/-- The machine check of a read (R448): poison, or an error response. -/
def readCode (g : Got) : Option Nat := if g.err then some 2 else if g.poison then some 1 else none

/-- The first byte that a load takes from its line or unit, of those that `bad` names: where its machine check lies (R43, R446). -/
def firstTaken (fwd : List (Option Byte)) (bad : Nat → Bool) : Option Nat :=
  (List.range fwd.length).find? fun i => (fwd.getD i none).isNone && bad i

/-- Reads `n` bytes within one line: those in the store buffer are forwarded, the rest come from the line or the scratchpad's units, whose poison
counts only then (R54, R446). A stitch reads its own speculative lines. A machine check comes with the offset of the first byte that it
concerns. -/
def Dev.readChunk (d : Dev) (c : Nat) (key : BitVec 11) (pa n : Nat) : Dev × List Byte × Option (Nat × Nat) :=
  let k := d.core c
  let who : Agent := .core (Fin.ofNat 264 c)
  match k.specLine (pa / 64) with
  | some x => (d, Line.slice x.data (pa % 64) n, if x.poison then some (0, 1) else none)
  | none =>
    let fwd := (List.range n).map fun i => k.buffered (pa + i)
    if fwd.all (·.isSome) then (d, fwd.map (·.getD 0), none)
    else
      let (d1, b, g, bad) := match d.place pa with
        | .spad s w o =>
          let (d1, g, l) := d.spadLoad who s w o n
          (d1, l, g, fun (i : Nat) => g.err || (d1.slice s).spadBad.contains ((spadKey w o + i) / 16))
        | .remoteSpad _ => let (d1, g, l) := d.farLoad who pa n
                           (d1, l, g, fun _ => true)
        | _ => let (d1, g) := d.l2Read c (pa / 64) key
               (d1.fillL1 c (pa / 64) false, Line.slice g.data (pa % 64) n, g, fun _ => true)
      (d1, (List.range n).map (fun i => ((fwd.getD i none).getD (b.getD i 0))),
        match readCode g, firstTaken fwd bad with
        | some code, some i => some (i, code)
        | _, _ => none)

/-- Reads a part of normal memory line by line, up to the first that has a machine check: the offset of its first byte concerned, and the
code. `o` is the offset of the next byte. -/
def Dev.readNormal (d : Dev) (c : Nat) (key : BitVec 11) : Nat → Nat → Nat → Nat → Dev × List Byte × Option (Nat × Nat)
  | 0, _, _, _ => (d, [], none)
  | fuel + 1, pa, n, o =>
    if n = 0 then (d, [], none) else
    let k := min n (64 - pa % 64)
    match d.readChunk c key pa k with
    | (d1, b, some f) => (d1, b, some (o + f.1, f.2))
    | (d1, b, none) =>
      let (d2, bs, f) := d1.readNormal c key fuel (pa + k) (n - k) (o + k)
      (d2, b ++ bs, f)

/-! ### Device memory (R56) -/

/-- The opcode of a device access (R56, R244): by control space, a device's range, or memory that a table entry makes device memory. -/
def devOpc (pa : Nat) (write : Bool) : Opc :=
  if inControl pa then (if write then .csrwr else .csrrd)
  else if inMmio pa then (if write then .devwr else .devrd)
  else if write then .iow else .rdna

/-- The packet of a core's device access. -/
def Dev.devMsg (d : Dev) (c : Nat) (p : Part) (v : Word) : Msg :=
  let be : Word := BitVec.ofNat 64 (2 ^ p.n - 1)
  let m := d.packetTo (.core (Fin.ofNat 264 c)) p.pa p.key be v 0 false
  { m with dst := d.destOf p.pa }

/-- A device read that this socket's control space or I/O stop answers: the value, and whether it meets an error response. -/
def Dev.devReadHere (d : Dev) (p : Part) : Dev × Word × Bool :=
  match d.place p.pa with
  | .control _ o =>
    let (d1, r) := d.csrRead o p.n
    (d1, r.getD 0, r.isNone)
  | .mmio _ g o => match d.mmioRes g o p.n with
    | .err => (d, 0, true)
    | .ones => (d, BitVec.ofNat 64 (2 ^ (8 * p.n) - 1), false)
    | .header dev r => (d, d.headerRead g dev r p.n, false)
    | .out q config =>
      let (i, y) := (d.emit g o q config false p.n 0).draw
      (y, BitVec.ofNat 64 ((Config.deviceData i).toNat % 2 ^ (8 * p.n)), false)
  | _ => (d, 0, true)

/-- One device read of `n` bytes at its natural width. It waits for the response to the core's previous device access to another destination
(R246), and for another socket's answer. -/
def Dev.devRead (d : Dev) (c : Nat) (p : Part) : Dev × Word × Bool × Bool :=
  let o := devOpc p.pa false
  let m := d.devMsg c p 0
  let who : Agent := .core (Fin.ofNat 264 c)
  if d.deviceHeld o m then (d.wait, 0, false, true) else
  match d.place p.pa with
  | .spad s w o =>
    let (d1, g, l) := d.spadLoad who s w o p.n
    (d1, BitVec.ofNat 64 (leNat l), g.poison, g.err)
  | .remoteSpad _ =>
    let (d1, g, l) := d.farLoad who p.pa p.n
    (d1, BitVec.ofNat 64 (leNat l), g.poison, g.err)
  | .nothing => (d, 0, false, true)
  | .control s _ | .mmio s _ _ =>
    if s = d.socket then
      match d.reach o m with
      | (d1, false) => (d1, 0, false, true)
      | (d1, true) =>
        let (d2, v, e) := d1.devReadHere p
        (d2.see (if e then .err else .data) { backOf m with sdata := v } d.time, v, false, e)
    else if !d.sockUp s then (d, 0, false, true)
    else match d.farGet o m with
      | (d1, none) => (d1, 0, false, true)
      | (d1, some a) => (d1, BitVec.ofNat 64 (a.data.toNat % 2 ^ (8 * p.n)), false, a.err || a.poison)
  | _ =>
    let (d1, g) := d.rdNa who (p.pa / 64) p.key
    (d1, BitVec.ofNat 64 (leNat (Line.slice g.data (p.pa % 64) p.n)), g.poison, g.err)

/-- A device write that this socket's control space or I/O stop takes; true on an error response. -/
def Dev.devWriteHere (d : Dev) (p : Part) (v : Word) : Dev × Bool :=
  match d.place p.pa with
  | .control _ o => d.csrWrite o p.n v
  | .mmio _ g o => match d.mmioRes g o p.n with
    | .err => (d, true)
    | .header dev r => (d.headerWrite g dev r p.n v, false)
    | .out q config => (d.emit g o q config true p.n v, false)
    | .ones => (d, false)
  | _ => (d, true)

/-- One device write at its natural width; an error response drops it, with a record against the core (R447). To another socket it is posted, and
what it then meets is recorded when its response comes. -/
def Dev.devWrite (d : Dev) (c : Nat) (p : Part) (b : List Byte) : Dev :=
  let v := BitVec.ofNat 64 (leNat b)
  let o := devOpc p.pa true
  let m := d.devMsg c p v
  let who : Agent := .core (Fin.ofNat 264 c)
  if d.deviceHeld o m then d.wait else
  let (d1, err) := match d.place p.pa with
    | .control s _ | .mmio s _ _ =>
      if s = d.socket then
        match d.reach o m with
        | (d1, false) => (d1, true)
        | (d1, true) =>
          let (d2, e) := d1.devWriteHere p v
          (d2.see (if e then .err else .cmp) (backOf m) d.time, e)
      else if d.sockUp s then (d.farPost o m, false) else (d, true)
    | .spad s w o => d.spadSave who s w o b
    | .remoteSpad _ => d.farSave who p.pa b
    | .nothing => (d, true)
    | _ =>
      let (x, be) := lineAt (p.pa % 64) b
      d.ioW who (p.pa / 64) x be p.key false
  if err then d1.report (.error c 0x08 c (some p.pa) (d1.lcore? c) 0) else d1

/-! ### Loads -/

def inSpadOrDev (p : Part) : Bool := p.device || inSpad p.pa

/-- Lines that a retired read enters into its stitch's read signature (R111). -/
def Dev.enterRead (d : Dev) (c : Nat) (p : Part) : Dev :=
  if (d.stitching c).isSome then
    d.modMember c fun m => { m with readSig := (m.readSig ||| sigBits (p.pa / 64)) ||| sigBits ((p.pa + p.n - 1) / 64) }
  else d

/-- A part's machine check: its lowest byte in the line that has it, and the code. -/
def Part.fault (p : Part) (f : Nat × Nat) : Word × Nat := (p.ea + BitVec.ofNat 64 f.1, f.2)

/-- Reads the parts in order, and gathers their machine checks. -/
def Dev.readParts (d : Dev) (c : Nat) : List Part → Dev × List (List Byte) × List (Word × Nat)
  | [] => (d, [], [])
  | p :: rest =>
    let (d1, b, f) :=
      if p.device then
        let (d1, w, q, e) := d.devRead c p
        (d1, leBytes p.n w.toNat, (readCode ⟨0, q, e⟩).map fun code => (0, code))
      else d.readNormal c p.key 8 p.pa p.n 0
    let (d2, bs, g) := d1.readParts c rest
    (d2, b :: bs, (f.map p.fault).toList ++ g)

/-- Bytes of a part are in the store buffer: the load could have been executed before the store that holds them. -/
def Core.overlaps (k : Core) (p : Part) : Bool :=
  k.storeBuf.any fun e => decide (e.addr < p.pa + p.n) && decide (p.pa < e.addr + e.bytes.length)

/-- A load that overlaps an older store trains the memory-dependence predictor, so that it waits for that store (R110; log entry 105). -/
def Dev.trainDependence (d : Dev) (c : Nat) (ps : List Part) : Dev :=
  let k := d.core c
  if bitF k.arch.predCtl 1 || !ps.any k.overlaps then d else
  match d.translateNow c k.arch.pc .fetch with
  | (_, .ok t) => d.modCore c fun q => q.learn ⟨.dependence, k.arch.pc.toNat / 4 % 1024, k.arch.pl, t.tenant, 0, 0⟩
  | _ => d

/-- Loads the elements at `eas`, each of `width` bytes, in element order (R72, R102). A load that completes enters its lines in the read
signature (R111). -/
def Dev.loadAll (d : Dev) (c width : Nat) (eas : List Word) (dest : LoadDest) : Dev × (Stop ⊕ List Byte) :=
  match d.resolve c .load width false eas with
  | (d1, .inl s) => (d1, .inl s)
  | (d1, .inr ps) =>
    if (d1.stitching c).isSome && ps.any inSpadOrDev then (d1, .inl (.boundary (.read ps dest)))
    else match (d1.trainDependence c ps).readParts c ps with
      | (d2, bs, []) => (ps.foldl (fun x p => x.enterRead c p) (d2.modCore c fun k => { k with lastLoad := eas.getLast? }), .inr bs.flatten)
      | (d2, _, f) => let (ea, code) := lowestFault f
                      (d2, .inl (.trap 0x09 code ea))

/-! ### Stores -/

/-- The pieces of bytes within lines. -/
def lineChunks : Nat → Nat → List Byte → List (Nat × List Byte)
  | 0, _, _ => []
  | fuel + 1, pa, b =>
    if b.isEmpty then [] else
    let k := 64 - pa % 64
    (pa, b.take k) :: lineChunks fuel (pa + k) (b.drop k)

/-- Retires a store into the store buffer of 96 entries; a full buffer performs its oldest (R54, R104). -/
def Dev.pushStore (d : Dev) (c pa : Nat) (b : List Byte) (key : BitVec 11) : Dev :=
  let d1 := if 96 ≤ (d.core c).storeBuf.length then d.drainOne c else d
  d1.modCore c fun k => { k with storeBuf := k.storeBuf ++ [⟨pa, b, key⟩] }

/-- A stitch brings a line in for writing (R74, R208): a copy that is not the core's alone and clean is obtained as for a store, and the
committed data goes to the home, so that the line's pre-image lies there; that of a line of another socket stays in the committed copy. The
committed data, or a machine check code. -/
def Dev.specAcquire (d : Dev) (c ln : Nat) (key : BitVec 11) : Dev × (Nat ⊕ (Line × Bool)) :=
  let (d1, err) := if ((d.core c).l2Line ln).any (·.st == Mesi.exclusive) then (d, false) else d.l2Own c ln key
  match (d1.core c).l2Line ln with
  | none => (d1, .inl 2)
  | some e =>
    if err then (d1, .inl 2)
    else if e.st = Mesi.modified && !d1.homedAway ln then
      let (n, set) := d1.home ln
      ((d1.allocLlc n set ln (d1.coreClass c) e.data true e.key e.poison).modCore c fun k =>
        { k with l2 := k.l2.map fun (f : L2Line) => if f.line == ln then { f with st := .exclusive } else f }, .inr (e.data, e.poison))
    else (d1, .inr (e.data, e.poison))

/-- The stitch's speculative line, with bytes of one store: a store of the whole line clears its poison (R446). -/
def SpecLine.put (x : SpecLine) (b : Line) (be : Word) (key : BitVec 11) : SpecLine :=
  ⟨Line.merge x.data b be, key, if be == fullMask then false else x.poison⟩

/-- A stitch's store into one line (R208); true where the line cannot be obtained, which leaves the store dropped. -/
def Dev.specPut (d : Dev) (c pa : Nat) (b : List Byte) (key : BitVec 11) : Dev × Bool :=
  let ln := pa / 64
  let (x, be) := lineAt (pa % 64) b
  let put := fun (y : Dev) (s : SpecLine) => y.modMember c fun m => { m with overlay := Tbl.set ln (s.put x be key) m.overlay }
  match (d.core c).specLine ln with
  | some s => (put d s, false)
  | none => match d.specAcquire c ln key with
    | (d1, .inl _) => (d1, true)
    | (d1, .inr (data, poison)) => (put d1 ⟨data, key, poison⟩, false)

/-- A stitch's store that meets an error response is dropped and recorded (R447). -/
def Dev.specStore (d : Dev) (c pa : Nat) (b : List Byte) (key : BitVec 11) : Dev :=
  match d.specPut c pa b key with
  | (d1, true) => d1.report (.error c 0x08 c (some pa) (d1.lcore? c) 0)
  | (d1, false) => d1

def l2Set (ln : Nat) : Nat := ln % 2048
/-- Whether a write set breaks the limits of R206: 4,096 lines in all, 6 in one L2 set. -/
def overLimits (lines : List Nat) : Bool :=
  decide (4096 < lines.length) || lines.any fun ln => decide (6 < (lines.filter fun x => l2Set x == l2Set ln).length)

/-- Stores bytes at parts already translated. -/
def Dev.storeParts (d : Dev) (c : Nat) (l : List (Part × List Byte)) : Dev :=
  l.foldl (fun x p =>
    if p.1.device then x.devWrite c p.1 p.2
    else (lineChunks 8 p.1.pa p.2).foldl (fun y q =>
      if (y.stitching c).isSome then y.specStore c q.1 q.2 p.1.key else y.pushStore c q.1 q.2 p.1.key) x) d

def linesOf (l : List (Part × List Byte)) : List Nat :=
  (l.flatMap fun p => (lineChunks 8 p.1.pa p.2).map fun q => q.1 / 64).eraseDups

/-- Splits the bytes of an access over its parts. -/
def splitOver : List Part → List Byte → List (Part × List Byte)
  | [], _ => []
  | p :: rest, b => (p, b.take p.n) :: splitOver rest (b.drop p.n)

/-- Stores the elements at `eas`, each of `width` bytes: no byte is written when any element faults (R55, R72, R102). -/
def Dev.storeAll (d : Dev) (c width : Nat) (eas : List Word) (b : List Byte) : Dev × Option Stop :=
  match d.resolve c .store width false eas with
  | (d1, .inl s) => (d1, some s)
  | (d1, .inr ps) =>
    let l := splitOver ps b
    match d1.stitching c with
    | none => (d1.storeParts c l, none)
    | some m =>
      if ps.any inSpadOrDev then (d1, some (.boundary (.write l)))
      else if overLimits (linesOf l ++ (m.overlay.map (·.1)).filter fun x => !(linesOf l).contains x) then (d1, some (.capacity (overLimits (linesOf l))))
      else (d1.storeParts c l, none)

/-! ### Atomics (R58, R73, R74) -/

/-- The value an atomic writes: none when an ACAS fails. -/
def atomNew (op : AtomOp) (n old operand expect : Nat) : Option Nat :=
  match op with
  | .add => some ((old + operand) % 2 ^ (8 * n))
  | .swap => some (operand % 2 ^ (8 * n))
  | .cas => if old = expect % 2 ^ (8 * n) then some (operand % 2 ^ (8 * n)) else none

/-- Performs an atomic on normal memory: its earlier stores are performed first, then the line is owned, read and written as one
operation; one that writes nothing obtains the line for writing too. The old value, or a machine check code. -/
def Dev.atomicNow (d : Dev) (c : Nat) (p : Part) (op : AtomOp) (operand expect : Word) : Dev × (Nat ⊕ Word) :=
  let run := fun (old : Nat) => atomNew op p.n old operand.toNat expect.toNat
  if (d.stitching c).isSome && !inSpad p.pa then
    let (d1, bad) := if ((d.core c).specLine (p.pa / 64)).isSome then (d, none) else match d.specAcquire c (p.pa / 64) p.key with
      | (x, .inl code) => (x, some code)
      | (x, .inr _) => (x, none)
    match bad with
    | some code => (d1, .inl code)
    | none => match d1.readNormal c p.key 2 p.pa p.n 0 with
      | (d2, _, some f) => (d2, .inl f.2)
      | (d2, b, none) =>
        let old := leNat b
        let d3 := d2.enterRead c p
        ((match run old with
          | some v => d3.specStore c p.pa (leBytes p.n v) p.key
          | none => d3), .inr (BitVec.ofNat 64 old))
  else
    let d0 := d.drainStores c
    let who : Agent := .core (Fin.ofNat 264 c)
    let atSpad := fun (y : Dev) (g : Got) (l : List Byte) (save : Dev → List Byte → Dev × Bool) =>
      if g.err then (y, .inl 2) else if g.poison then (y, .inl 1) else
      let old := leNat l
      match run old with
      | none => (y, .inr (BitVec.ofNat 64 old))
      | some v => match save y (leBytes p.n v) with
        | (z, true) => (z, .inl 2)
        | (z, false) => (z, .inr (BitVec.ofNat 64 old))
    match d0.place p.pa with
    | .spad s w o =>
      let (d1, g, l) := d0.spadLoad who s w o p.n
      atSpad d1 g l fun y b => y.spadSave who s w o b
    | .remoteSpad _ =>
      let (d1, g, l) := d0.farLoad who p.pa p.n
      atSpad d1 g l fun y b => y.farSave who p.pa b
    | _ =>
      let (d1, err) := d0.l2Own c (p.pa / 64) p.key
      if err then (d1, .inl 2) else
      match (d1.core c).l2Line (p.pa / 64) with
      | none => (d1, .inl 2)
      | some e =>
        if e.poison then (d1, .inl 1) else
        let old := leNat (Line.slice e.data (p.pa % 64) p.n)
        match run old with
        | none => (d1, .inr (BitVec.ofNat 64 old))
        | some v =>
          let (x, be) := lineAt (p.pa % 64) (leBytes p.n v)
          let (d2, bad) := d1.l2Write c (p.pa / 64) x be p.key
          (d2, if bad then .inl 2 else .inr (BitVec.ofNat 64 old))

/-- An atomic of `n` bytes (R41 order 9 first). -/
def Dev.atomic (d : Dev) (c n : Nat) (ea : Word) (op : AtomOp) (operand expect : Word) (rd : RegNo) : Dev × (Stop ⊕ Word) :=
  if ea.toNat % n != 0 then (d, .inl (.trap 0x05 1 ea)) else
  match d.resolve c .store n true [ea] with
  | (d1, .inl s) => (d1, .inl s)
  | (d1, .inr ps) =>
    match ps with
    | [] => (d1, .inr 0)
    | p :: _ =>
      match d1.stitching c with
      | some m =>
        if inSpad p.pa then (d1, .inl (.boundary (.atomic p op operand expect rd)))
        else if overLimits (p.pa / 64 :: (m.overlay.map (·.1)).filter fun x => x != p.pa / 64) then (d1, .inl (.capacity false))
        else match d1.atomicNow c p op operand expect with
          | (d2, .inl code) => (d2, .inl (.trap 0x09 code ea))
          | (d2, .inr v) => (d2, .inr v)
      | none => match d1.atomicNow c p op operand expect with
        | (d2, .inl code) => (d2, .inl (.trap 0x09 code ea))
        | (d2, .inr v) => (d2, .inr v)

end Sys2Proof.Machine
end

