-- ==== Sys2Proof/Machine/Micro.lean ====
section
/-! DEFINITION. The microcode engine of a core (R119 to R126): micro-store and nano-store, ROM and patch RAM, the entry and match tables,
and the loop that runs a routine, up to a micro-trap or its END. What a routine computes for its instruction's destinations is the
instruction's own meaning (R76 to R81): no architectural result depends on the microcode (R128). -/

namespace Sys2Proof.Machine

/-- A microcoded instruction: its index in the entry table, (func − 4) × 2 + W, and its operands (R124). -/
structure MicroOp where
  index : Nat
  o     : OpsD
deriving DecidableEq, Repr

/-- The entry of one of the four instructions. -/
def microOp (i : Instr) : Option MicroOp :=
  match i with
  | .dmul _ o => some ⟨bitNat o.w, o⟩
  | .ddiv _ o => some ⟨2 + bitNat o.w, o⟩
  | .dcvb _ o => some ⟨4 + bitNat o.w, o⟩
  | .dcvd _ o => some ⟨6 + bitNat o.w, o⟩
  | _ => none

/-! ### The stores and tables (R119, R124, R126) -/

/-- A microword by its address: of ROM, or of patch RAM, where an image supplies it. Reserved addresses have none. -/
def Core.microAt (k : Core) (u : Nat) : Option Half :=
  let i := u - 0x1000
  if 0x1200 ≤ u then none
  else if 0x1000 ≤ u ∧ i < imageW k.patch 8 2 then some (BitVec.ofNat 16 (imageW k.patch (0x80 + i * 2) 2))
  else some (Config.microRom (BitVec.ofNat 13 u))

/-- Where an image's nanowords begin (R126). -/
def nanoBase (img : List Byte) : Nat := (0x80 + imageW img 8 2 * 2 + 15) / 16 * 16

/-- A nanoword by its address. -/
def Core.nanoAt (k : Core) (a : Nat) : Option (BitVec 120) :=
  let i := a - 0x400
  if 0x480 ≤ a then none
  else if 0x400 ≤ a ∧ i < imageW k.patch 10 2 then some (BitVec.ofNat 120 (imageW k.patch (nanoBase k.patch + i * 16) 15))
  else some (Config.nanoRom (BitVec.ofNat 11 a))

/-- ENTRY and LIMIT of a routine: the patch's override, else the ROM's. -/
def Core.entryOf (k : Core) (index : Nat) : Nat × Nat :=
  let e := imageW k.patch (0x10 + index * 4) 4
  if e.testBit 31 then (e % 2 ^ 13, e / 2 ^ 16 % 2 ^ 13)
  else ((Config.entryRom index).1.toNat, (Config.entryRom index).2.toNat)

/-- Sequencing to `a` goes where the lowest valid match entry that names it says (R123). -/
def Core.matched (k : Core) (a : Nat) : Nat :=
  match ((List.range 16).map fun i => imageW k.patch (0x30 + i * 4) 4).find? fun m => m.testBit 31 && m % 2 ^ 12 == a with
  | some m => m / 2 ^ 16 % 2 ^ 13
  | none => a

/-- A micro-pc is a registered resume point of a routine (R124). -/
def Core.resumable (k : Core) (m : MicroOp) (upc : Nat) : Bool :=
  let (e, l) := k.entryOf m.index
  ((k.microAt upc).any fun w => w.getLsbD 15) &&
    ((decide (e ≤ upc) && decide (upc ≤ l)) || (decide (0x1000 ≤ upc) && decide (upc ≤ 0x11FF)))

/-! ### Operands (R121, R122) -/

/-- The state of a routine: micro-pc, flags, temporaries, and the destinations in its commit buffer. -/
structure MicroSt where
  u      : Nat
  flags  : Half
  temps  : BitVec 1024
  commit : List Nat
deriving DecidableEq, Repr

/-- A micro-temporary. -/
def tempAt (t : BitVec 1024) (n : Nat) : BitVec 128 := (t >>> (n % 8 * 128)).truncate 128
def setTemp (t : BitVec 1024) (n : Nat) (v : BitVec 128) : BitVec 1024 :=
  (t &&& ~~~ (BitVec.ofNat 1024 (2 ^ 128 - 1) <<< (n % 8 * 128))) ||| (v.zeroExtend 1024 <<< (n % 8 * 128))

/-- Flag 14 is the instruction's W, flag 15 is 1; writes to both are ignored. -/
def microFlags (m : MicroOp) (f : Half) : Half := (f &&& 0x3FFF) ||| BitVec.ofNat 16 (bitNat m.o.w * 2 ^ 14 + 2 ^ 15)

/-- The bits of an operand of width WID. -/
def microWidth (wid : Nat) : Nat :=
  match wid with
  | 0 => 64
  | 1 => 128
  | 2 => 32
  | _ => 8

/-- An operand by its selector. -/
def MicroSt.operand (s : MicroSt) (a : Arch) (m : MicroOp) (tbase wid const sel : Nat) : BitVec 128 :=
  let reg := fun (r : RegNo) => BitVec.ofNat 128 ((a.getG r).toNat + if wid = 1 then (a.getG (r + 1)).toNat * 2 ^ 64 else 0)
  let one := fun (r : RegNo) => BitVec.ofNat 128 (a.getG (r + 1)).toNat
  let v := match sel with
    | 8 => reg m.o.rs1
    | 9 => one m.o.rs1
    | 10 => reg m.o.rs2
    | 11 => one m.o.rs2
    | 12 => reg m.o.rd
    | 13 => one m.o.rd
    | 14 => 0
    | 15 => BitVec.ofNat 128 const
    | 16 => (BitVec.ofNat 32 const).signExtend 128
    | n => if n < 8 then tempAt s.temps (n + tbase) else Config.nanoReserved n
  BitVec.ofNat 128 (v.toNat % 2 ^ microWidth wid)

/-- A result goes to its destination: a temporary, or the commit buffer (R122). -/
def MicroSt.put (s : MicroSt) (tbase sel : Nat) (v : BitVec 128) : MicroSt :=
  if sel < 8 then { s with temps := setTemp s.temps (sel + tbase) v }
  else if sel = 12 ∨ sel = 13 ∨ sel = 17 then { s with commit := s.commit ++ [sel] }
  else s

/-- The condition that a nano-operation writes to FDST (R121). -/
def nanoCond (op wid fcond : Nat) (a b r : BitVec 128) : Bool :=
  match fcond with
  | 1 => r.toNat % 2 ^ microWidth wid == 0
  | 3 => r.getLsbD (microWidth wid - 1)
  | _ => Config.nanoFlag op wid fcond a b

/-! ### The routine (R123, R125) -/

/-- How a routine's run ends: END, a micro-trap with its micro-state, a synchronous trap or a panel's stop of one of its operations, a reserved
address, or not within the microwords that one command runs: then a later command goes on with it. -/
inductive MicroEnd
  | done
  | trap (r : Routine)
  | stop (s : Stop)
  | reserved
  | more (r : Routine)
deriving DecidableEq, Repr

/-- A nano-operation: its access of memory first, then its result, flag and branch; the next micro-address before the match table. -/
def Dev.nano (d : Dev) (c : Nat) (m : MicroOp) (tbase : Nat) (w : BitVec 120) (s : MicroSt) : Dev × (Stop ⊕ MicroSt) :=
  let f := fun (hi lo : Nat) => w.toNat / 2 ^ lo % 2 ^ (hi + 1 - lo)
  let a := d.arch c
  let x := s.operand a m tbase (f 113 112) (f 62 31) (f 111 106)
  let y := s.operand a m tbase (f 113 112) (f 62 31) (f 105 100)
  let ea : Word := x.truncate 64 + (BitVec.ofNat 32 (f 62 31)).signExtend 64
  let n := 2 ^ f 64 63
  let r : Dev × (Stop ⊕ Option (BitVec 128)) :=
    match f 67 65 with
    | 1 | 3 => match d.loadAll c n [ea] (.gpr 0 false) with
      | (d1, .inl q) => (d1, .inl q)
      | (d1, .inr b) => (d1, .inr (some (BitVec.ofNat 128 (leNat b))))
    | 2 => match d.storeAll c n [ea] (leBytes n y.toNat) with
      | (d1, some q) => (d1, .inl q)
      | (d1, none) => (d1, .inr none)
    | _ => (d, .inr (if f 119 114 = 0 then none else some (Config.nanoResult (f 119 114) (f 113 112) x y)))
  match r with
  | (d1, .inl q) => (d1, .inl q)
  | (d1, .inr v) =>
    let s1 := match v with
      | some z => s.put tbase (f 99 94) z
      | none => s
    let cond := nanoCond (f 119 114) (f 113 112) (f 89 87) x y (v.getD 0)
    let bit : Half := 1 <<< f 93 90
    let flags := if f 89 87 = 0 then s1.flags else if cond then s1.flags ||| bit else s1.flags &&& ~~~ bit
    let flags := microFlags m flags
    let next := if w.getLsbD 86 && flags.getLsbD (f 84 81) != w.getLsbD 85 then f 80 68 else (s.u + 1) % 2 ^ 13
    (d1, .inr { s1 with u := next, flags := flags })

/-- run_routine from a micro-state. `first` exempts the microword that a run begins with from the micro-trap, `left` is how many microwords
run before an interrupt that R40 accepts is pending. -/
def Dev.routine (c : Nat) (m : MicroOp) : Nat → Bool → Option Nat → MicroSt → Dev → Dev × MicroEnd
  | 0, _, _, s, d => (d, .more ⟨BitVec.ofNat 13 s.u, s.flags, s.temps, s.commit, false⟩)
  | fuel + 1, first, left, s, d =>
    let k := d.core c
    match k.microAt s.u with
    | none => (d, .reserved)
    | some w =>
      if w.getLsbD 15 && !first && s.commit.isEmpty && left == some 0 then (d, .trap ⟨BitVec.ofNat 13 s.u, s.flags, s.temps, [], true⟩)
      else match k.nanoAt (w.toNat % 2 ^ 11) with
        | none => (d, .reserved)
        | some n => match d.nano c m (w.toNat / 2 ^ 11 % 8) n s with
          | (d1, .inl q) => (d1, .stop q)
          | (d1, .inr t) =>
            if w.getLsbD 14 then (d1, .done)
            else Dev.routine c m fuel false (left.map (· - 1)) { t with u := k.matched t.u } d1

/-- Runs an instruction's routine: from its entry, or from the micro-state that a RETI has resumed or an earlier command has reached. -/
def Dev.runRoutine (d : Dev) (c : Nat) (m : MicroOp) (left : Option Nat) : Dev × MicroEnd :=
  match (d.core c).routine with
  | some r => Dev.routine c m 65536 r.fresh left ⟨r.upc.toNat, microFlags m r.flags, r.temps, r.commit⟩ d
  | none =>
    let (i, d1) := d.draw
    let (f, t) := Config.microStart i
    Dev.routine c m 65536 true left ⟨((d1.core c).entryOf m.index).1, microFlags m f, t, []⟩ d1

end Sys2Proof.Machine
end

