-- ==== Sys2Proof/Machine/Journal.lean ====
section
/-! DEFINITION. The slots and members of panels, and the journal as it is read (R223, R224): the entries of a row, and the end points
that they give the row's stitches. -/

namespace Sys2Proof.Machine

/-! ### Slots and members -/

def Dev.slotState (d : Dev) (s : Nat) : Nat := d.fld (.pnlSlot s) .PNL_SLOT_STATE
def Dev.row (d : Dev) (s : Nat) : Nat := d.fld (.pnlSlot s) .PNL_SLOT_ROW
def Dev.playing (d : Dev) (s : Nat) : Bool := d.bit (.pnlSlot s) .PNL_SLOT_PLAYBACK
def Dev.recording (d : Dev) (s : Nat) : Bool := d.bit (.pnlSlot s) .PNL_SLOT_RECORD
def Dev.voidSlot (d : Dev) (s : Nat) : Dev := d.setFld (.pnlSlot s) .PNL_SLOT_VOID 1
/-- The physical cores that carry a slot's members, in member-index order; one that has failed carries its member until another takes over. -/
def Dev.memberCores (d : Dev) (s : Nat) : List Nat :=
  (List.range (d.panel s).members.length).filterMap fun i =>
    (d.cores.find? fun (e : Nat × Core) => e.2.member.any fun m => m.slot == s && m.index == i && m.phase != .lost && m.phase != .orphan).map (·.1)
def Dev.forMembers (d : Dev) (s : Nat) (f : Dev → Nat → Member → Dev) : Dev :=
  (d.memberCores s).foldl (fun x c => match (x.core c).member with
    | some m => f x c m
    | none => x) d
def Dev.leavePanel (d : Dev) (c : Nat) : Dev := d.modCore c fun k => { k with member := none }
/-- The slot becomes free. Its other fields keep what they last held until the next PSETUP (log entry 123). -/
def Dev.freeSlot (d : Dev) (s : Nat) : Dev := (d.setFld (.pnlSlot s) .PNL_SLOT_STATE 0).modPanel s fun _ => Panel.reset

/-- A point in the form of LTIME (R97). -/
def Dev.point (d : Dev) (s index count : Nat) : Word := BitVec.ofNat 64 (d.row s * 2 ^ 27 + index * 2 ^ 21 + count)
/-- A journal entry (R223). -/
def jent (point : Word) (type sub aux : Nat) (b2 b3 : Word) : JEntry :=
  ⟨point, BitVec.ofNat 64 (type * 2 ^ 56 + sub * 2 ^ 48 + aux * 2 ^ 32), b2, b3⟩

def dwOf (b : List Byte) (o : Nat) : Word := BitVec.ofNat 64 (leNat ((b.drop o).take 8))

/-! ### The journal as it is read (R222 to R224) -/

def jType (e : JEntry) : Nat := getF e.b1 ⟨63, 56⟩
def jSub (e : JEntry) : Nat := getF e.b1 ⟨55, 48⟩
def jAux (e : JEntry) : Nat := getF e.b1 ⟨47, 32⟩
def jRow (e : JEntry) : Nat := getF e.b0 ⟨63, 27⟩
def jIdx (e : JEntry) : Nat := getF e.b0 ⟨26, 21⟩
def jCount (e : JEntry) : Nat := getF e.b0 ⟨20, 0⟩

/-- An entry with the GDATA entries that follow a GATE entry. -/
structure JItem where
  e    : JEntry
  data : List JEntry
deriving DecidableEq, Repr

def Dev.jrnlPa (d : Dev) (s i : Nat) : Nat := (d.panel s).jbase + i % 2 ^ (d.panel s).jlog * 32
def Dev.jrnlLevel (d : Dev) (s : Nat) : Nat := idxLevel (d.fld (.pnlJrnl s) .PNL_JRNL_DEV) (d.fld (.pnlJrnl s) .PNL_JRNL_SW)
/-- Entries that software has filled and the device has not read. -/
def Dev.jrnlFilled (d : Dev) (s : Nat) : Nat := idxLevel (d.fld (.pnlJrnl s) .PNL_JRNL_SW) (d.fld (.pnlJrnl s) .PNL_JRNL_DEV)

def Dev.readEntry (d : Dev) (s i : Nat) : Dev × Option JEntry :=
  let (d1, b, p, e) := d.readBytes evAgent 0 2 (d.jrnlPa s i) 32
  (d1, if p || e then none else some ⟨dwOf b 0, dwOf b 8, dwOf b 16, dwOf b 24⟩)

def Dev.readEntries (d : Dev) (s : Nat) : Nat → Nat → Dev × Option (List JEntry)
  | 0, _ => (d, some [])
  | n + 1, i =>
    match d.readEntry s i with
    | (d1, none) => (d1, none)
    | (d1, some e) =>
      let (d2, r) := d1.readEntries s n (i + 1)
      (d2, r.map (e :: ·))

/-- The entries of one row from index `i`: the items, the index after them, whether a read failed, and whether the row's entries
are all there (a later row's entry or an END follows). -/
structure RowScan where
  items : List JItem
  next  : Nat
  bad   : Bool
  whole : Bool
deriving DecidableEq, Repr

def Dev.scanRow (d : Dev) (s row : Nat) : Nat → Nat → Nat → Dev × RowScan
  | 0, i, _ => (d, ⟨[], i, false, false⟩)
  | fuel + 1, i, left =>
    if left = 0 then (d, ⟨[], i, false, false⟩) else
    match d.readEntry s i with
    | (d1, none) => (d1, ⟨[], i, true, false⟩)
    | (d1, some e) =>
      if jRow e ≠ row then (d1, ⟨[], i, false, true⟩)
      else if jType e = 0x0F then (d1, ⟨[⟨e, []⟩], i + 1, false, true⟩)
      else
        let n := if jType e = 4 then 2 * jAux e else 0
        if left < n + 1 then (d1, ⟨[], i, false, false⟩) else
        match d1.readEntries s n (i + 1) with
        | (d2, none) => (d2, ⟨[], i, true, false⟩)
        | (d2, some l) =>
          let (d3, r) := d2.scanRow s row fuel (i + 1 + n) (left - 1 - n)
          (d3, { r with items := ⟨e, l⟩ :: r.items })

def Dev.scan (d : Dev) (s row : Nat) : Dev × RowScan :=
  d.scanRow s row (d.jrnlFilled s + 1) (d.fld (.pnlJrnl s) .PNL_JRNL_DEV) (d.jrnlFilled s)

/-- The end point that a row's entries give a member: where an interrupt was taken (R224). A TIME, DEVREAD or SUSPEND entry says that the
next instruction ended the stitch there. -/
def endPoint (items : List JItem) (index : Nat) : Option EndPoint :=
  let mine := items.filter fun j => jIdx j.e == index
  (mine.find? fun j => jType j.e == 1).map fun j =>
    ⟨jCount j.e, if mine.any fun x => jType x.e == 2 || jType x.e == 3 || jType x.e == 8 then some true else none, jSub j.e⟩

/-- In playback, the stitches of the members in `cs` end where the recorded interrupts were taken. -/
def Dev.setEnds (d : Dev) (s : Nat) (cs : List Nat) : Dev :=
  if !d.playing s then d else
  let (d1, r) := d.scan s (d.row s)
  cs.foldl (fun x c => x.modMember c fun q => { q with endAt := endPoint r.items q.index }) d1

end Sys2Proof.Machine
end

