-- ==== Sys2Proof/Machine/Ops.lean ====
section
/-! DEFINITION. How a core executes an instruction (R38 to R47, R113 to R116, R206 to R217): taking a trap and returning from
one, the checks of R41 in their order, retirement, run-ahead, and the start and end of a panel member's stitches. -/

namespace Sys2Proof.Machine

/-- What an instruction's own operation leaves: it retires, retires to another pc, waits, ends its stitch, calls (R82), leaves a
handler (R45), or does not complete. -/
inductive Ret
  | next
  | goto (pc : Word)
  | stay
  | endStitch
  | call (vector code : Nat)
  | left (pc : Word) (r : Option Routine)
  | stop (s : Stop)
deriving DecidableEq, Repr

/-- An instruction's own operation: registers read and written (g 0 to 31, p 32 to 39, v 40 to 71), who may execute it, whether
a panel member may, its microcode routine, whether it is a branch and an indirect one, its operation, and what it does in run-ahead
(R114): what it needs there to find addresses, its effect, and whether its destinations are valid after it. -/
structure Work where
  srcs      : List Nat
  dsts      : List Nat
  allow     : Arch → Bool := fun _ => true
  forbidden : Bool := false
  micro     : Option MicroOp := none
  branch    : Option Bool := none
  body      : Dev → Dev × Ret
  ahead     : Dev → Dev × Bool := fun d => (d, false)
  need      : List Nat := srcs

/-- g0 and p0 are never marked invalid. -/
def markable (n : Nat) : Bool := n != 0 && n != 32
def pnum (p : PredNo) : Nat := 32 + p.val
def vnum (v : RegNo) : Nat := 40 + v.val

/-! ### Routing (R39, R40) -/

/-- The level at which vector `v` is handled, before the rule that a trap never lowers the level. -/
def Arch.delegated (a : Arch) (v : Nat) : Level :=
  if !bitF a.tdelegM v then .m else if bitF a.tdelegH v then .s else .h

/-- The level t of R39. -/
def Arch.route (a : Arch) (v : Nat) : Level :=
  let t := a.delegated v
  if v = 0x10 ∨ v = 0x11 then t else if t.lt a.pl then a.pl else t

/-- Where a trap is taken: a failed frame's machine check goes to M (R47). -/
def Arch.target (a : Arch) (q : TrapReq) : Level := if q.vector = 9 ∧ q.code = 5 then .m else a.route q.vector

/-- R40: an interrupt of vector `v` is accepted. -/
def Arch.accepts (a : Arch) (v : Nat) : Bool :=
  let t := a.route v
  a.pl.lt t || (t == a.pl && a.ie)

/-- The interrupt that R40 accepts: vector and CAUSE.CODE, the event controller's before the virtual one. -/
def Dev.accepted (d : Dev) (c : Nat) : Option (Nat × Nat) :=
  let ev := if (d.arch c).accepts 0x10 then (d.evPending c).map fun p => (0x10, p) else none
  match ev with
  | some x => some x
  | none => if (d.arch c).accepts 0x11 then (d.vpPending c).map fun v => (0x11, v) else none

/-- An interrupt is pending, accepted or not (R83). -/
def Dev.anyInterrupt (d : Dev) (c : Nat) : Bool := (d.evPending c).isSome || (d.vpPending c).isSome

/-! ### The interrupt frame (R43 to R47) -/

def Arch.fsp (a : Arch) (t : Level) : Word :=
  match t with
  | .s => a.fspS
  | .h => a.fspH
  | _ => a.fspM
def Arch.setFsp (a : Arch) (t : Level) (w : Word) : Arch :=
  match t with
  | .s => { a with fspS := w }
  | .h => { a with fspH := w }
  | _ => { a with fspM := w }
def Arch.vbar (a : Arch) (t : Level) : Word :=
  match t with
  | .s => a.vbarS
  | .h => a.vbarH
  | _ => a.vbarM

/-- CAUSE (R44). -/
def causeOf (q : TrapReq) (inRoutine : Bool) : Nat := bitNat inRoutine * 2 ^ 63 + q.code * 2 ^ 16 + q.vector

/-- The first 64 bytes of a frame. -/
def frameHead (a : Arch) (q : TrapReq) (inRoutine : Bool) : List Byte :=
  leBytes 8 q.pc.toNat ++ leBytes 8 a.status.toNat ++ leBytes 8 (causeOf q inRoutine) ++ leBytes 8 q.faddr.toNat ++
    leBytes 8 q.word.toNat ++ leBytes 8 a.pred.toNat ++ List.replicate 16 0

/-- The micro-state extension, offsets 0x040 to 0x13F. -/
def frameExt (r : Routine) (patch : Nat) : List Byte :=
  leBytes 8 (patch * 2 ^ 48 + r.upc.toNat) ++ leBytes 8 r.flags.toNat ++ List.replicate 16 0 ++ leBytes 128 r.temps.toNat ++
    List.replicate 96 0

/-- Normal memory in which a frame may lie: a physical address that is no device range and that some unit answers. -/
def Dev.frameOk (d : Dev) (pa : Nat) : Bool :=
  decide (pa < 2 ^ 52) && !deviceRange pa &&
    match d.place pa with
    | .nothing => false
    | .remote s | .remoteSpad s => d.sockUp s
    | .cxl h => !d.cxlDown h
    | .dram ch _ => !d.chanFailed ch
    | _ => true

/-- A panel member's accesses to a scratchpad window, `n` of them, are counted and void the guarantee (R226, R240). -/
def Dev.noteMember (d : Dev) (c n : Nat) : Dev :=
  match d.inPanel c with
  | some m => (d.countFld (.pnlStat m.slot) .PNL_STAT_DEVACC n).voidSlot m.slot
  | none => d

/-- Writes a line of a frame, untranslated, under key 0; a stitch's frame is speculative like any store (R217). In a scratchpad window the line
counts as 8 accesses of a member (log entry 123). True when the line cannot be written (R47). -/
def Dev.pushLine (d : Dev) (c pa : Nat) (b : List Byte) : Dev × Bool :=
  if !d.frameOk pa then (d, true) else
  let who : Agent := .core (Fin.ofNat 264 c)
  match d.place pa with
  | .spad n w o => (d.noteMember c 8).spadSave who n w o b
  | .remoteSpad _ => (d.noteMember c 8).farSave who pa b
  | _ =>
    if (d.stitching c).isSome then d.specPut c pa b 0
    else
      let (x, be) := lineAt 0 b
      d.l2Write c (pa / 64) x be 0

def Dev.pushLines (d : Dev) (c : Nat) : Nat → Nat → List Byte → Dev × Bool
  | 0, _, _ => (d, false)
  | n + 1, pa, b =>
    match d.pushLine c pa (b.take 64) with
    | (d1, true) => (d1, true)
    | (d1, false) => d1.pushLines c n (pa + 64) (b.drop 64)

/-- Enters the handler of a trap at level `t` (R45): true when the frame cannot be written. -/
def Dev.enter (d : Dev) (c : Nat) (t : Level) (q : TrapReq) (r : Option Routine) : Dev × Bool :=
  let a := d.arch c
  let f := a.fsp t - 0x140
  let bytes := frameHead a q r.isSome ++ (match r with
    | some x => frameExt x (d.fld (.coreUcode c) .CORE_UCODE_PATCH_ID)
    | none => [])
  match (d.drainStores c).pushLines c (bytes.length / 64) f.toNat bytes with
  | (d1, true) => (d1, true)
  | (d1, false) =>
    (d1.modCore c fun k => { k with
      arch := { (k.arch.setFsp t f) with pl := t, ie := false, pc := k.arch.vbar t + BitVec.ofNat 64 (q.vector * 0x40) },
      routine := none, run := .running, replays := 0 }, false)

/-- A machine check that is taken is recorded with its code (R449). -/
def Dev.noteCheck (d : Dev) (c : Nat) (q : TrapReq) : Dev :=
  if q.vector = 9 then d.report (.error c 0x07 c none (d.lcore? c) q.code) else d

/-- The machine check of a frame that cannot be pushed (R47): its frame PC is the instruction that trapped, that of a call included (R43). -/
def frameCheck (f : Word) (q : TrapReq) : TrapReq :=
  ⟨9, 5, f, if q.vector = 7 ∨ q.vector = 8 then q.pc - 4 else q.pc, q.word⟩

/-- Taking a trap outside a stitch (R45, R47): a frame that cannot be pushed is a machine check routed to M, and at M, or when
that one cannot be pushed either, a fatal error. -/
def Dev.trapEntry (d : Dev) (c : Nat) (q : TrapReq) (r : Option Routine) : Dev :=
  let t := (d.arch c).target q
  let fatal := fun (x : Dev) => x.report (.error c 0x09 c none (x.lcore? c) 0)
  match d.enter c t q r with
  | (d1, false) => d1.noteCheck c q
  | (d1, true) =>
    if t == .m then fatal d1
    else
      let q5 := frameCheck ((d.arch c).fsp t - 0x140) q
      match d1.enter c .m q5 none with
      | (d2, false) => d2.noteCheck c q5
      | (d2, true) => fatal d2

/-! ### Stitches (R206, R212, R213) -/

/-- Records why the current stitch of a member ends; its end point is where it stands. -/
def Dev.endStitch (d : Dev) (c : Nat) (why : EndCause) : Dev :=
  d.modMember c fun m => { m with phase := .ended, cause := why, replaying := false }

/-- A trap of a member ends its stitch: its entry begins the next stitch, or, at H or M, is performed in the boundary step (R206, R217). -/
def Dev.endTrap (d : Dev) (c : Nat) (why : EndCause) (q : TrapReq) : Dev :=
  let away := Level.lt .s ((d.arch c).target q)
  d.modMember c fun m => { m with phase := .ended, cause := why, replaying := false, trap := some q, access := if away then .suspend else .none }

/-- The instruction limit of a stitch (R206). -/
def Dev.stitchLimit (d : Dev) (m : Member) : Nat :=
  let l := 2 ^ d.fld (.pnlSlot m.slot) .PNL_SLOT_LIMLOG
  if m.retry then l / 2 else l

/-- The first actions of a stitch: the trap entry that it begins with. A frame that cannot be pushed ends it at once. -/
def Dev.stitchEntry (d : Dev) (c : Nat) (q : TrapReq) : Dev :=
  match d.enter c .s q none with
  | (d1, false) => d1.noteCheck c q
  | (d1, true) =>
    let q5 := frameCheck ((d.arch c).fspS - 0x140) q
    d1.modMember c fun m => { m with phase := .ended, cause := .trap, trap := some q5, access := .suspend }

/-- A stitch begins (R209, R212): checkpoint, empty records, the effect of SBAR, then the trap entries that begin it. -/
def Dev.startStitch (d : Dev) (c : Nat) : Dev :=
  let d0 := d.drainStores c
  match (d0.core c).member with
  | none => d0
  | some m =>
    let first := m.trap
    let d1 := d0.modMember c fun m => { m with
      phase := .running, count := 0, limit := d0.stitchLimit m, cause := .limit, access := .none, overlay := [], readSig := 0,
      fetchSig := 0, saved := d0.arch c, first := first, firstIntr := m.intr, trap := none, endAt := none, due := none }
    let d2 := match first with
      | some q => d1.stitchEntry c q
      | none => d1
    let d3 := d2.modMember c fun m => { m with intr := [] }
    m.intr.foldl (fun x e => x.stitchEntry c ⟨e.1, e.2, 0, (x.arch c).pc, 0⟩) d3

/-- The entries that would begin a member's next stitch, taken outside the panel. -/
def Dev.takeEntries (d : Dev) (c : Nat) (m : Member) : Dev :=
  let d1 := match m.trap with
    | some q => d.trapEntry c q none
    | none => d
  m.intr.foldl (fun x e => x.trapEntry c ⟨e.1, e.2, 0, (x.arch c).pc, 0⟩ none) d1

/-- An interrupt that would be accepted, counting entries that wait for the boundary step (R206, R369). -/
def Dev.memberInterrupt (d : Dev) (c : Nat) (m : Member) : Bool :=
  (d.accepted c).isSome ||
    ((d.arch c).accepts 0x10 && m.held.any fun h => decide ((d.arch c).primask.toNat < h.pri))

/-- The cause that ends a stitch after an instruction has retired (R206). A stitch that is given an end point ends there, and no pending interrupt
ends it. -/
def Dev.stitchDone (d : Dev) (c : Nat) (m : Member) : Option EndCause :=
  let lines := m.overlay.map fun (x : Nat × SpecLine) => x.1
  if m.limit ≤ m.count then some .limit
  else if 4096 ≤ lines.length then some .writeSet
  else if lines.any fun ln => decide (6 ≤ (lines.filter fun x => l2Set x == l2Set ln).length) then some .setFull
  else match m.endAt with
    | some e => if e.own == some false && e.count == m.count then some .interrupt else none
    | none => if !d.playing m.slot && d.memberInterrupt c m then some .interrupt else none

/-! ### Retirement -/

/-- An instruction retires, its line entering a member's fetch signature (R209), and pc becomes `next`. -/
def Dev.retire (d : Dev) (c fetched : Nat) (next : Word) : Dev :=
  let d1 := d.modCore c fun k => { k with arch := { k.arch with pc := next }, routine := none, replays := 0 }
  match d1.stitching c with
  | none => d1
  | some _ =>
    let d2 := d1.modMember c fun m => { m with count := m.count + 1, fetchSig := m.fetchSig ||| sigBits (fetched / 64) }
    match d2.stitching c with
    | none => d2
    | some m => match d2.stitchDone c m with
      | some why => d2.endStitch c why
      | none => d2

/-- The causes of a machine check that consumed bad data: a load's, a walk's, a fetch's and a frame's (R448). -/
def badDataCode (code : Nat) : Bool := code == 1 || code == 3 || code == 4 || code == 5

/-- A walk-to-device fault that is raised is counted (R154). -/
def Dev.countWalk (d : Dev) (c : Nat) (q : TrapReq) : Dev :=
  if (q.vector = 2 ∨ q.vector = 4) ∧ q.code % 256 = 7 then d.countFld (.coreXlate c) .CORE_XLATE_W2D 1 else d

/-- A synchronous trap: of a member in a stitch, it ends the stitch. A marked-lost line that a member consumes voids the
panel's guarantee (R226). -/
def Dev.raise (d : Dev) (c : Nat) (q : TrapReq) : Dev :=
  let d0 := d.countWalk c q
  match d0.stitching c with
  | none => d0.trapEntry c q none
  | some m =>
    let d1 := if q.vector = 9 ∧ badDataCode q.code then d0.voidSlot m.slot else d0
    (d1.modCore c fun k => { k with routine := none }).endTrap c .trap q

/-- A member's stitch begins, with the end point that a playback gives it. -/
def Dev.beginStitch (d : Dev) (s c : Nat) : Dev := (d.startStitch c).setEnds s [c]

/-- A RETI that leaves a core at S or U: a named member enters its panel, with debug attached or not (R226), a suspended one begins its
next stitch, in the row that is running, as a retry in its turn, or with the next row (R203, R217), and a member of a broken panel takes
MEMBER_LOST (R233). -/
def Dev.afterReti (d : Dev) (c : Nat) : Dev :=
  match (d.core c).member with
  | none => d
  | some m =>
    if !(d.arch c).pl.le .s then d else
    let broken := fun (x : Dev) =>
      let d1 := x.modCore c fun k => { k with member := none }
      d1.trapEntry c ⟨0x0A, 4, 0, (d1.arch c).pc, 0⟩ none
    match m.phase with
    | .named =>
      if d.slotState m.slot = 4 then broken d
      else (if (d.core c).debug then d.voidSlot m.slot else d).modMember c fun m => { m with phase := .entered }
    | .suspended =>
      if d.slotState m.slot = 4 then broken d else
      let row := (d.panel m.slot).phase == .stitches
      let d1 := d.modMember c fun m => { m with resumed := true, phase := if row && m.retry then .waitRetry else .entered }
      if row && !m.retry then d1.beginStitch m.slot c else d1
    | .orphan => broken d
    | _ => d

/-! ### The checks before an instruction's operation (R41) -/

/-- What a fetch gives: the physical address, or a trap. -/
def Dev.fetch (d : Dev) (c : Nat) : Dev × (TrapReq ⊕ Trans) :=
  let pc := (d.arch c).pc
  let me : Agent := .core (Fin.ofNat 264 c)
  match Dev.settleTrans me .fetch (fun x => x.translateNow c pc .fetch) 4 d with
  | (d1, .fault code) => (d1, .inl ⟨2, code, pc, pc, 0⟩)
  | (d1, .poison _) => (d1, .inl ⟨9, 3, pc, pc, 0⟩)
  | (d1, .ok t) =>
    let (d2, _, bad) := d1.loadD me t.key (t.pa / 8 * 8)
    if bad.isSome then (d2, .inl ⟨9, 4, pc, pc, 0⟩) else (d2.fillL1 c (t.pa / 64) true, .inr t)

def Guard.passes (a : Arch) (g : Sys2Proof.Guard) : Bool := a.getP g.gp != g.gs

/-- What follows an instruction's operation. -/
def Dev.finish (d : Dev) (c fetched : Nat) (pc : Word) (word : Word32) (r : Ret) : Dev :=
  match r with
  | .next => d.retire c fetched (pc + 4)
  | .goto t => d.retire c fetched t
  | .stay => d
  | .endStitch =>
    let d1 := d.retire c fetched (pc + 4)
    if (d1.stitching c).isSome then d1.endStitch c .stbnd else d1.modMember c fun m => { m with cause := if m.phase == .ended then .stbnd else m.cause }
  | .call v code =>
    if (d.stitching c).isSome then (d.retire c fetched (pc + 4)).endTrap c .call ⟨v, code, 0, pc + 4, word⟩
    else d.trapEntry c ⟨v, code, 0, pc + 4, word⟩ none
  | .left t r => ((d.retire c fetched t).modCore c fun k => { k with routine := r }).afterReti c
  | .stop (.trap v code faddr) => d.raise c ⟨v, code, faddr, pc, word⟩
  | .stop (.boundary a) => (d.endStitch c .access).modMember c fun m => { m with access := a, word := word }
  | .stop (.capacity alone) => if alone then d.raise c ⟨0x0A, 2, 0, pc, word⟩ else d.endStitch c .beforeStore

/-- A branch at `pc` that has retired, `taken` to a target or not, trains the direction tables, and its target's (R84, R103, log entry 105): the
two-bit counter of its address, a tagged entry when that mispredicted it, the branch-target buffer or the indirect-target predictor. -/
def Core.trained (k : Core) (pc : Word) (lvl : Level) (tenant : Half) (indirect : Bool) (taken : Option Word) : Core :=
  let n := pc.toNat / 4
  let ctr := ((k.pred.find? fun e => e.table == .base && e.index == n % 16384 && e.level == lvl && e.tenant == tenant).map (·.ctr)).getD 1
  let k1 := k.learn ⟨.base, n % 16384, lvl, tenant, if taken.isSome then min 3 (ctr + 1) else ctr - 1, 0⟩
  let (t, i) := Config.predPlace pc.toNat
  let k2 := if decide (2 ≤ ctr) == taken.isSome then k1 else k1.learn ⟨.tagged (Fin.ofNat 8 t), i % 2048, lvl, tenant, if taken.isSome then 2 else 1, 0⟩
  let k3 := match taken with
    | some w => k2.learn (if indirect then ⟨.indirect, n % 2048, lvl, tenant, 0, w⟩ else ⟨.btb, n % 8192, lvl, tenant, 0, w⟩)
    | none => k2
  { k3 with history := (taken.isSome :: k3.history).take 640 }

/-- A microcoded instruction runs its routine (R123): to END, where its destinations are written; to a micro-trap, which takes the interrupt
`mid`; to a trap of one of its operations; or to a reserved address, a hard fault (R119). `left` microwords run before the interrupt
comes. A core that runs ROM microcode alone and that no interrupt meets goes straight to END. -/
def Dev.microRun (d : Dev) (c fetched : Nat) (pc : Word) (word : Word32) (w : Work) (m : MicroOp) (mid : Option (Nat × Nat)) (left : Option Nat) : Dev :=
  let complete := fun (y : Dev) => let (y1, r) := w.body y
                                   y1.finish c fetched pc word r
  if (d.core c).patch.isEmpty && (d.core c).routine.isNone && mid.isNone then complete d else
  match d.runRoutine c m left with
  | (d1, .done) => complete d1
  | (d1, .trap r) => match mid with
    | some (v, code) => (if v = 0x11 then d1.vpTake c code else d1).trapEntry c ⟨v, code, 0, pc, 0⟩ (some r)
    | none => d1
  | (d1, .stop s) => (d1.modCore c fun k => { k with routine := none }).finish c fetched pc word (.stop s)
  | (d1, .reserved) => d1.modCore c fun k => { k with routine := none, hardFault := true }
  | (d1, .more r) => d1.modCore c fun k => { k with routine := some r }

/-- An instruction's fetch, checks, operation and retirement, no interrupt being taken before it. For a microcoded instruction
`mid` is an interrupt that comes after `left` of its microwords (R123). -/
def Dev.issue (d : Dev) (x : Ctx) (i : Instr) (w : Work) (mid : Option (Nat × Nat)) (left : Option Nat) : Dev :=
  let c := x.core.val
  let a := d.arch c
  match d.fetch c with
  | (d1, .inl q) => d1.raise c q
  | (d1, .inr t) =>
    let word := i.encode.getD 0
    if !i.wf then d1.raise c ⟨0, 0, 0, a.pc, word⟩
    else if !Guard.passes a x.guard then
      (match w.branch with
      | some indirect => d1.modCore c fun k => k.trained a.pc a.pl t.tenant indirect none
      | none => d1).retire c t.pa (a.pc + 4)
    else if !w.allow a then d1.raise c ⟨1, 0, 0, a.pc, word⟩
    else if w.forbidden && (d1.stitching c).isSome then d1.raise c ⟨0x0A, 1, 0, a.pc, word⟩
    else
      let (d2, r) := w.body d1
      match w.micro, w.branch, r with
      | some m, _, .next => d1.microRun c t.pa a.pc word w m mid left
      | _, some indirect, .goto g => (d2.modCore c fun k => k.trained a.pc a.pl t.tenant indirect (some g)).finish c t.pa a.pc word r
      | _, _, _ => d2.finish c t.pa a.pc word r

/-- Takes an interrupt between instructions. -/
def Dev.takeInterrupt (d : Dev) (c v code : Nat) : Dev :=
  (if v = 0x11 then d.vpTake c code else d).trapEntry c ⟨v, code, 0, (d.arch c).pc, 0⟩ none

/-- A BoundaryAccess of which the journal keeps no entry. -/
def BoundaryAccess.silent (a : BoundaryAccess) : Bool :=
  match a with
  | .write _ => true
  | _ => false

/-- An instruction of a member in a stitch, which takes no interrupt here. At the end point that the stitch is given (R224, R231) it is only
begun if it ends the stitch there of itself; where the record does not say, a device write or a full write set does, and so does a trap to S whose
entry still lets the recorded interrupt be taken (R40, log entry 78). -/
def Dev.stitchStep (d : Dev) (x : Ctx) (i : Instr) (w : Work) (m : Member) : Dev :=
  let c := x.core.val
  let e := d.issue x i w none none
  match m.endAt with
  | none => e
  | some p =>
    let own := match (e.core c).member with
      | some q => q.phase == .ended && q.count == m.count &&
          (p.own == some true || (p.own == none && (q.cause == .beforeStore || (q.cause == .access && q.access.silent) ||
            (q.cause == .trap && Level.lt .s ((e.arch c).route p.vector)))))
      | none => false
    if p.count != m.count || own then e else d.endStitch c .interrupt

/-! ### Run-ahead (R113 to R115) -/

/-- An instruction in run-ahead: what depends on the missing load is marked invalid, and nothing but registers and prefetches
changes. -/
def Dev.aheadStep (d : Dev) (x : Ctx) (i : Instr) (w : Work) (r : RunAhead) : Dev :=
  let c := x.core.val
  let a := d.arch c
  let put := fun (y : Dev) (inv : List Nat) =>
    y.modCore c fun k => { k with runAhead := some { r with invalid := inv, count := r.count + 1 } }
  let step := fun (y : Dev) => y.modArch c fun b => { b with pc := if b.pc = a.pc then a.pc + 4 else b.pc }
  if 4096 ≤ r.count then d
  else if r.invalid.contains (pnum x.guard.gp) then step (put d ((w.dsts.filter markable) ++ r.invalid))
  else if !i.wf || !Guard.passes a x.guard then step (put d r.invalid)
  else if w.need.any r.invalid.contains then step (put d ((w.dsts.filter markable) ++ r.invalid))
  else
    let (d1, ok) := w.ahead d
    step (put d1 (if ok then r.invalid.filter fun n => !w.dsts.contains n else (w.dsts.filter markable) ++ r.invalid))

/-- Run-ahead ends: the checkpoint is restored (R115). -/
def Dev.endAhead (d : Dev) (c : Nat) : Dev :=
  match (d.core c).runAhead with
  | some r => d.modCore c fun q => { q with runAhead := none, arch := r.saved }
  | none => d

/-! ### An instruction as a command -/

/-- Whether a core issues instructions: it runs, its domain is On, and no panel holds it back. -/
def Dev.canIssue (d : Dev) (c : Nat) : Bool :=
  let k := d.core c
  d.isOn c && k.run == .running && !k.hardFault &&
    match k.member with
    | some m => m.phase == .named || m.phase == .running || m.phase == .suspended || m.phase == .orphan
    | none => true

/-- One instruction on a core (R41). An interrupt that is pending is taken before it; a microcoded instruction may instead have begun before the
interrupt came (log entry 7), and a routine that a RETI has resumed runs on to its next resume point (R123). -/
def Dev.instr (d : Dev) (x : Ctx) (i : Instr) (w : Work) : Dev :=
  let c := x.core.val
  if !d.canIssue c then d else
  match (d.core c).runAhead with
  | some r => d.aheadStep x i w r
  | none =>
    match d.stitching c, d.accepted c with
    | some m, _ => d.stitchStep x i w m
    | none, none => d.issue x i w none none
    | none, some (v, code) =>
      if w.micro.isNone then d.takeInterrupt c v code
      else if (d.core c).routine.isSome then d.issue x i w (some (v, code)) (some 0)
      else
        let (n, d1) := d.draw
        match Config.microArrival n with
        | none => d1.takeInterrupt c v code
        | some k => d1.issue x i w (some (v, code)) (some k)

/-- What a Miund command leaves. An instruction that needs a line for which a home makes it wait (R165, R167, R177) has not been executed: the command
that executes it is one that comes later (log entry 106). -/
def Dev.run (d : Dev) (x : Ctx) (i : Instr) (w : Work) : Dev := d.close (d.instr x i w)

end Sys2Proof.Machine
end

