-- ==== Sys2Proof/Machine/Operands.lean ====
section
/-! DEFINITION. Operands of Miund instructions (R30 to R32, R50, R64, R72): sources, destinations, immediates and effective
addresses, and the operations that instructions of one shape share. -/

namespace Sys2Proof.Machine

/-! ### Values -/

/-- The low `w` bits of a value, extended to 64 bits. -/
def sextOf (w n : Nat) : Word := if w = 0 then 0 else (BitVec.ofNat w n).signExtend 64
def zextOf (w n : Nat) : Word := BitVec.ofNat 64 (n % 2 ^ w)
/-- A sign-extended immediate of the I, S and C formats (R50). -/
def sext12 (i : BitVec 12) : Word := i.signExtend 64
def zext12 (i : BitVec 12) : Word := i.zeroExtend 64
def sext9 (i : BitVec 9) : Word := i.signExtend 64
/-- The byte offset of a branch: sext(off) × 4 (R49). -/
def branchOff (off : BitVec 22) : Word := off.signExtend 64 * 4
/-- The effective address of a load or store (R72). -/
def Arch.ea (a : Arch) (rs1 : RegNo) (imm : BitVec 12) : Word := a.getG rs1 + sext12 imm
/-- The second operand of an instruction that takes g[ra] and g[(ra + 1) mod 32] (R88). -/
def nextReg (r : RegNo) : RegNo := r + 1
/-- The 128-bit value of an even and odd register pair (R30). -/
def Arch.getPair (a : Arch) (r : RegNo) : Nat := (a.getG r).toNat + 2 ^ 64 * (a.getG (nextReg r)).toNat
def Arch.setPair (a : Arch) (r : RegNo) (n : Nat) : Arch :=
  (a.setG r (BitVec.ofNat 64 n)).setG (nextReg r) (BitVec.ofNat 64 (n / 2 ^ 64))

/-- A load's destination takes its bytes, lowest address first (R72, R102). -/
def Arch.putLoad (a : Arch) (dest : LoadDest) (b : List Byte) : Arch :=
  match dest with
  | .gpr rd signed => a.setG rd (if signed then sextOf (8 * b.length) (leNat b) else zextOf (8 * b.length) (leNat b))
  | .vec vd => a.setV vd (BitVec.ofNat 256 (leNat b))

/-! ### Instructions of one shape -/

/-- An instruction that only changes registers; it runs the same in run-ahead. -/
def regWork (x : Ctx) (srcs dsts : List Nat) (f : Arch → Arch) : Work where
  srcs := srcs
  dsts := dsts
  body := fun d => (d.modArch x.core.val f, .next)
  ahead := fun d => (d.modArch x.core.val f, true)

/-- rd := f(rs1, rs2). -/
def aluWork (x : Ctx) (o : OpsR) (f : Word → Word → Word) : Work :=
  regWork x [o.rs1.val, o.rs2.val] [o.rd.val] fun a => a.setG o.rd (f (a.getG o.rs1) (a.getG o.rs2))
/-- rd := f(rs1). -/
def unaryWork (x : Ctx) (rd rs1 : RegNo) (f : Word → Word) : Work :=
  regWork x [rs1.val] [rd.val] fun a => a.setG rd (f (a.getG rs1))
/-- rd := f(pc). -/
def pcWork (x : Ctx) (rd : RegNo) (f : Word → Word) : Work :=
  regWork x [] [rd.val] fun a => a.setG rd (f a.pc)
/-- p[pd] := f. -/
def predWork (x : Ctx) (srcs : List Nat) (pd : PredNo) (f : Arch → Bool) : Work :=
  regWork x srcs [pnum pd] fun a => a.setP pd (f a)
/-- An instruction that run-ahead treats as having no effect (R114). -/
def sysWork (body : Dev → Dev × Ret) : Work where
  srcs := []
  dsts := []
  body := body

/-- What a load in run-ahead finds (R109, R114): data, nothing yet, or a failed check or poison, for which it delivers 0. -/
inductive AheadGot
  | data (b : List Byte)
  | missing
  | failed
deriving DecidableEq, Repr

def AheadGot.and (x y : AheadGot) : AheadGot :=
  match x, y with
  | .failed, _ | _, .failed => .failed
  | .missing, _ | _, .missing => .missing
  | .data a, .data b => .data (a ++ b)

/-- Bytes within a line, for a load in run-ahead: the stitch's own, the store buffer's, the L2's; a missing line is prefetched into L2. -/
def Dev.aheadChunk (d : Dev) (c : Nat) (key : BitVec 11) (pa n : Nat) : Dev × AheadGot :=
  let k := d.core c
  let of := fun (x : Line) (poison : Bool) => if poison then AheadGot.failed else .data (Line.slice x (pa % 64) n)
  match k.specLine (pa / 64) with
  | some e => (d, of e.data e.poison)
  | none =>
    let fwd := (List.range n).map fun i => k.buffered (pa + i)
    if fwd.all (·.isSome) then (d, .data (fwd.map (·.getD 0))) else
    match k.l2Line (pa / 64) with
    | none => ((d.l2Read c (pa / 64) key).1, .missing)
    | some e => (d, if e.poison then .failed
        else .data ((List.range n).map fun i => (fwd.getD i none).getD ((Line.slice e.data (pa % 64) n).getD i 0)))

/-- Bytes within a page, line by line. -/
def Dev.aheadLines (d : Dev) (c : Nat) (key : BitVec 11) : Nat → Nat → Nat → Dev × AheadGot
  | 0, _, _ => (d, .data [])
  | fuel + 1, pa, n =>
    if n = 0 then (d, .data []) else
    let k := min n (64 - pa % 64)
    let (d1, g) := d.aheadChunk c key pa k
    let (d2, h) := d1.aheadLines c key fuel (pa + k) (n - k)
    (d2, g.and h)

/-- A load in run-ahead (R114): its lines are prefetched into L2, no mark is set, and a device or scratchpad access is not made. A failed check,
of the marks included, delivers 0 (R109). True when its destination is valid after it. -/
def Dev.aheadLoad (d : Dev) (c : Nat) (kind : AccKind) (width : Nat) (eas : List Word) (dest : LoadDest) : Dev × Bool :=
  let (d1, g) := (eas.flatMap fun ea => pieces ea width).foldl (fun (p : Dev × AheadGot) e =>
    match p.1.translateNow c e.1 kind with
    | (y, .ok t) =>
      if t.device || deviceRange t.pa || inSpad t.pa then (y, p.2.and .missing)
      else (let (z, h) := y.aheadLines c t.key 8 t.pa e.2
            (z, p.2.and h))
    | (y, _) => (y, p.2.and .failed)) (d, .data [])
  match g with
  | .data b => (d1.modArch c fun x => x.putLoad dest b, true)
  | .failed => (d1.modArch c fun x => x.putLoad dest (List.replicate (width * eas.length) 0), true)
  | .missing => (d1, false)

/-- A load of elements at `eas`. -/
def loadWork (x : Ctx) (srcs dsts : List Nat) (width : Nat) (eas : Arch → List Word) (dest : LoadDest) : Work where
  srcs := srcs
  dsts := dsts
  body := fun d =>
    match d.loadAll x.core.val width (eas (d.arch x.core.val)) dest with
    | (d1, .inl s) => (d1, .stop s)
    | (d1, .inr b) => (d1.modArch x.core.val fun a => a.putLoad dest b, .next)
  ahead := fun d => d.aheadLoad x.core.val .load width (eas (d.arch x.core.val)) dest

/-- A store of elements at `eas` (R72, R102); run-ahead performs no store. -/
def storeWork (x : Ctx) (srcs : List Nat) (width : Nat) (eas : Arch → List Word) (bytes : Arch → List Byte) : Work where
  srcs := srcs
  dsts := []
  body := fun d =>
    let a := d.arch x.core.val
    match d.storeAll x.core.val width (eas a) (bytes a) with
    | (d1, some s) => (d1, .stop s)
    | (d1, none) => (d1, .next)

/-- A load of a general register (R72). -/
def loadGpr (x : Ctx) (o : OpsI) (width : Nat) (signed : Bool) : Work :=
  loadWork x [o.rs1.val] [o.rd.val] width (fun a => [a.ea o.rs1 o.imm]) (.gpr o.rd signed)
/-- A store of the low bytes of a general register (R72). -/
def storeGpr (x : Ctx) (o : OpsS) (width : Nat) : Work :=
  storeWork x [o.rs1.val, o.rs2.val] width (fun a => [a.ea o.rs1 o.imm]) fun a => leBytes width (a.getG o.rs2).toNat
/-- An atomic of `n` bytes (R73): rd receives the old value, zero-extended. In run-ahead its line is prefetched where its address is valid. -/
def atomWork (x : Ctx) (o : OpsR) (n : Nat) (op : AtomOp) : Work where
  srcs := [o.rs1.val, o.rs2.val] ++ (if op = .cas then [o.rd.val] else [])
  dsts := [o.rd.val]
  body := fun d =>
    let a := d.arch x.core.val
    match d.atomic x.core.val n (a.getG o.rs1) op (a.getG o.rs2) (a.getG o.rd) o.rd with
    | (d1, .inl s) => (d1, .stop s)
    | (d1, .inr v) => (d1.modArch x.core.val fun b => b.setG o.rd (zextOf (8 * n) v.toNat), .next)
  need := [o.rs1.val]
  ahead := fun d =>
    let ea := (d.arch x.core.val).getG o.rs1
    (if ea.toNat % n != 0 then d else (d.aheadLoad x.core.val .store n [ea] (.gpr 0 false)).1, false)

end Sys2Proof.Machine
end

