-- ==== Sys2Proof/Machine/Integer.lean ====
section
/-! DEFINITION. Integer arithmetic, compares, predicate logic, branches, loads, stores and atomics (R66 to R74). -/

namespace Sys2Proof.Machine

/-! ### Functions -/

/-- A shift amount: the low six bits of the second operand (R66). -/
def amt (b : Word) : Nat := b.toNat % 64
def rorOf (a : Word) (n : Nat) : Word := a.rotateRight n
def slt (a b : Word) : Bool := decide (a.toInt < b.toInt)
def ult (a b : Word) : Bool := decide (a.toNat < b.toNat)
/-- Leading zeros, trailing zeros and set bits of the low `n` bits; 0 has `n` leading and trailing zeros. -/
def clzOf (a : Word) : Nat := ((List.range 64).find? fun i => a.getLsbD (63 - i)).getD 64
def ctzOf (a : Word) : Nat := ((List.range 64).find? fun i => a.getLsbD i).getD 64
def popOf (a : Word) : Nat := ((List.range 64).filter fun i => a.getLsbD i).length
/-- A 32-bit operation, its result sign-extended (R66). -/
def wordOp (f : Word32 → Word32 → Word32) (a b : Word) : Word := (f (a.truncate 32) (b.truncate 32)).signExtend 64
def amt32 (b : Word32) : Nat := b.toNat % 32
def mulhOf (a b : Word) : Word := BitVec.ofInt 64 (a.toInt * b.toInt / 2 ^ 64)
def mulhuOf (a b : Word) : Word := BitVec.ofNat 64 (a.toNat * b.toNat / 2 ^ 64)
/-- Division never traps (R67). -/
def divOf (a b : Word) : Word := if b = 0 then BitVec.allOnes 64 else BitVec.ofInt 64 (a.toInt.tdiv b.toInt)
def divuOf (a b : Word) : Word := if b = 0 then BitVec.allOnes 64 else BitVec.ofNat 64 (a.toNat / b.toNat)
def remOf (a b : Word) : Word := if b = 0 then a else BitVec.ofInt 64 (a.toInt.tmod b.toInt)
def remuOf (a b : Word) : Word := if b = 0 then a else BitVec.ofNat 64 (a.toNat % b.toNat)

/-- SHI (R68). -/
def shiOf (w : Bool) (k : ShiftKind) (n : BitVec 6) (a : Word) : Word :=
  if w then
    let m := n.toNat % 32
    let x : Word32 := a.truncate 32
    (match k with
      | .sll => x <<< m
      | .srl => x >>> m
      | .sra => x.sshiftRight m
      | .ror => x.rotateRight m).signExtend 64
  else match k with
    | .sll => a <<< n.toNat
    | .srl => a >>> n.toNat
    | .sra => a.sshiftRight n.toNat
    | .ror => rorOf a n.toNat

/-- The comparison of CMP.cc (R69). -/
def condOf (cc : Cond) (a b : Word) : Bool :=
  match cc with
  | .eq => a == b
  | .ne => a != b
  | .lt => slt a b
  | .ge => !slt a b
  | .ltu => ult a b
  | .geu => !ult a b
  | .gt => slt b a
  | .le => !slt b a
  | .gtu => ult b a
  | .leu => !ult b a
  | .bs => a.getLsbD (amt b)
  | .bc => !a.getLsbD (amt b)
  | .tst => a &&& b != 0
  | .tstz => a &&& b == 0

def cmpSrcs (rs1 : RegNo) (b : CmpOperand) : List Nat :=
  match b with
  | .reg rs2 => [rs1.val, rs2.val]
  | .imm _ => [rs1.val]
def Arch.cmpRight (a : Arch) (b : CmpOperand) : Word :=
  match b with
  | .reg rs2 => a.getG rs2
  | .imm s => sext9 s

/-! ### ALU, ALUW, MULDIV -/

def execAdd (x : Ctx) (o : OpsR) (s : State) : Host.Outcome State Fault Refusal := s.next (s.dev.run x (.add x o) (aluWork x o (· + ·)))
def execSub (x : Ctx) (o : OpsR) (s : State) : Host.Outcome State Fault Refusal := s.next (s.dev.run x (.sub x o) (aluWork x o (· - ·)))
def execAnd (x : Ctx) (o : OpsR) (s : State) : Host.Outcome State Fault Refusal := s.next (s.dev.run x (.and x o) (aluWork x o (· &&& ·)))
def execOr (x : Ctx) (o : OpsR) (s : State) : Host.Outcome State Fault Refusal := s.next (s.dev.run x (.or x o) (aluWork x o (· ||| ·)))
def execXor (x : Ctx) (o : OpsR) (s : State) : Host.Outcome State Fault Refusal := s.next (s.dev.run x (.xor x o) (aluWork x o (· ^^^ ·)))
def execAndn (x : Ctx) (o : OpsR) (s : State) : Host.Outcome State Fault Refusal :=
  s.next (s.dev.run x (.andn x o) (aluWork x o fun a b => a &&& ~~~ b))
def execSll (x : Ctx) (o : OpsR) (s : State) : Host.Outcome State Fault Refusal := s.next (s.dev.run x (.sll x o) (aluWork x o fun a b => a <<< amt b))
def execSrl (x : Ctx) (o : OpsR) (s : State) : Host.Outcome State Fault Refusal := s.next (s.dev.run x (.srl x o) (aluWork x o fun a b => a >>> amt b))
def execSra (x : Ctx) (o : OpsR) (s : State) : Host.Outcome State Fault Refusal :=
  s.next (s.dev.run x (.sra x o) (aluWork x o fun a b => a.sshiftRight (amt b)))
def execRor (x : Ctx) (o : OpsR) (s : State) : Host.Outcome State Fault Refusal :=
  s.next (s.dev.run x (.ror x o) (aluWork x o fun a b => rorOf a (amt b)))
def execMin (x : Ctx) (o : OpsR) (s : State) : Host.Outcome State Fault Refusal :=
  s.next (s.dev.run x (.min x o) (aluWork x o fun a b => if slt a b then a else b))
def execMax (x : Ctx) (o : OpsR) (s : State) : Host.Outcome State Fault Refusal :=
  s.next (s.dev.run x (.max x o) (aluWork x o fun a b => if slt a b then b else a))
def execMinu (x : Ctx) (o : OpsR) (s : State) : Host.Outcome State Fault Refusal :=
  s.next (s.dev.run x (.minu x o) (aluWork x o fun a b => if ult a b then a else b))
def execMaxu (x : Ctx) (o : OpsR) (s : State) : Host.Outcome State Fault Refusal :=
  s.next (s.dev.run x (.maxu x o) (aluWork x o fun a b => if ult a b then b else a))
def execClz (x : Ctx) (rd rs1 : RegNo) (s : State) : Host.Outcome State Fault Refusal :=
  s.next (s.dev.run x (.clz x rd rs1) (unaryWork x rd rs1 fun a => BitVec.ofNat 64 (clzOf a)))
def execCtz (x : Ctx) (rd rs1 : RegNo) (s : State) : Host.Outcome State Fault Refusal :=
  s.next (s.dev.run x (.ctz x rd rs1) (unaryWork x rd rs1 fun a => BitVec.ofNat 64 (ctzOf a)))
def execPopc (x : Ctx) (rd rs1 : RegNo) (s : State) : Host.Outcome State Fault Refusal :=
  s.next (s.dev.run x (.popc x rd rs1) (unaryWork x rd rs1 fun a => BitVec.ofNat 64 (popOf a)))
def execAddw (x : Ctx) (o : OpsR) (s : State) : Host.Outcome State Fault Refusal := s.next (s.dev.run x (.addw x o) (aluWork x o (wordOp (· + ·))))
def execSubw (x : Ctx) (o : OpsR) (s : State) : Host.Outcome State Fault Refusal := s.next (s.dev.run x (.subw x o) (aluWork x o (wordOp (· - ·))))
def execSllw (x : Ctx) (o : OpsR) (s : State) : Host.Outcome State Fault Refusal :=
  s.next (s.dev.run x (.sllw x o) (aluWork x o (wordOp fun a b => a <<< amt32 b)))
def execSrlw (x : Ctx) (o : OpsR) (s : State) : Host.Outcome State Fault Refusal :=
  s.next (s.dev.run x (.srlw x o) (aluWork x o (wordOp fun a b => a >>> amt32 b)))
def execSraw (x : Ctx) (o : OpsR) (s : State) : Host.Outcome State Fault Refusal :=
  s.next (s.dev.run x (.sraw x o) (aluWork x o (wordOp fun a b => a.sshiftRight (amt32 b))))
def execMul (x : Ctx) (o : OpsR) (s : State) : Host.Outcome State Fault Refusal := s.next (s.dev.run x (.mul x o) (aluWork x o (· * ·)))
def execMulh (x : Ctx) (o : OpsR) (s : State) : Host.Outcome State Fault Refusal := s.next (s.dev.run x (.mulh x o) (aluWork x o mulhOf))
def execMulhu (x : Ctx) (o : OpsR) (s : State) : Host.Outcome State Fault Refusal := s.next (s.dev.run x (.mulhu x o) (aluWork x o mulhuOf))
def execDiv (x : Ctx) (o : OpsR) (s : State) : Host.Outcome State Fault Refusal := s.next (s.dev.run x (.div x o) (aluWork x o divOf))
def execDivu (x : Ctx) (o : OpsR) (s : State) : Host.Outcome State Fault Refusal := s.next (s.dev.run x (.divu x o) (aluWork x o divuOf))
def execRem (x : Ctx) (o : OpsR) (s : State) : Host.Outcome State Fault Refusal := s.next (s.dev.run x (.rem x o) (aluWork x o remOf))
def execRemu (x : Ctx) (o : OpsR) (s : State) : Host.Outcome State Fault Refusal := s.next (s.dev.run x (.remu x o) (aluWork x o remuOf))

/-! ### Immediates -/

def execAddi (x : Ctx) (o : OpsI) (s : State) : Host.Outcome State Fault Refusal :=
  s.next (s.dev.run x (.addi x o) (unaryWork x o.rd o.rs1 (· + sext12 o.imm)))
def execAndi (x : Ctx) (o : OpsI) (s : State) : Host.Outcome State Fault Refusal :=
  s.next (s.dev.run x (.andi x o) (unaryWork x o.rd o.rs1 (· &&& zext12 o.imm)))
def execOri (x : Ctx) (o : OpsI) (s : State) : Host.Outcome State Fault Refusal :=
  s.next (s.dev.run x (.ori x o) (unaryWork x o.rd o.rs1 (· ||| zext12 o.imm)))
def execXori (x : Ctx) (o : OpsI) (s : State) : Host.Outcome State Fault Refusal :=
  s.next (s.dev.run x (.xori x o) (unaryWork x o.rd o.rs1 (· ^^^ zext12 o.imm)))
def execShi (x : Ctx) (rd rs1 : RegNo) (w : Bool) (k : ShiftKind) (n : BitVec 6) (s : State) : Host.Outcome State Fault Refusal :=
  s.next (s.dev.run x (.shi x rd rs1 w k n) (unaryWork x rd rs1 (shiOf w k n)))
def execAddis (x : Ctx) (o : OpsI) (s : State) : Host.Outcome State Fault Refusal :=
  s.next (s.dev.run x (.addis x o) (unaryWork x o.rd o.rs1 (· + sext12 o.imm <<< 12)))
def execAddpc (x : Ctx) (rd : RegNo) (imm : BitVec 12) (s : State) : Host.Outcome State Fault Refusal :=
  s.next (s.dev.run x (.addpc x rd imm) (pcWork x rd (· + sext12 imm <<< 12)))

/-! ### Compares and predicate logic -/

def execCmpCc (x : Ctx) (pd : PredNo) (cc : Cond) (rs1 : RegNo) (b : CmpOperand) (s : State) : Host.Outcome State Fault Refusal :=
  s.next (s.dev.run x (.cmpCc x pd cc rs1 b) (predWork x (cmpSrcs rs1 b) pd fun a => condOf cc (a.getG rs1) (a.cmpRight b)))
def execPand (x : Ctx) (o : OpsP) (s : State) : Host.Outcome State Fault Refusal :=
  s.next (s.dev.run x (.pand x o) (predWork x [pnum o.ps1, pnum o.ps2] o.pd fun a => a.getP o.ps1 && a.getP o.ps2))
def execPor (x : Ctx) (o : OpsP) (s : State) : Host.Outcome State Fault Refusal :=
  s.next (s.dev.run x (.por x o) (predWork x [pnum o.ps1, pnum o.ps2] o.pd fun a => a.getP o.ps1 || a.getP o.ps2))
def execPnot (x : Ctx) (pd ps1 : PredNo) (s : State) : Host.Outcome State Fault Refusal :=
  s.next (s.dev.run x (.pnot x pd ps1) (predWork x [pnum ps1] pd fun a => !a.getP ps1))
def execPxor (x : Ctx) (o : OpsP) (s : State) : Host.Outcome State Fault Refusal :=
  s.next (s.dev.run x (.pxor x o) (predWork x [pnum o.ps1, pnum o.ps2] o.pd fun a => a.getP o.ps1 != a.getP o.ps2))
def execPandn (x : Ctx) (o : OpsP) (s : State) : Host.Outcome State Fault Refusal :=
  s.next (s.dev.run x (.pandn x o) (predWork x [pnum o.ps1, pnum o.ps2] o.pd fun a => a.getP o.ps1 && !a.getP o.ps2))

/-! ### Branches (R33, R71, R111) -/

/-- The return stack of 32 entries overwrites its oldest. -/
def Core.pushReturn (k : Core) (w : Word) : Core := { k with retStack := (w :: k.retStack).take 32 }

/-- A core's tenant tag for prediction: that of the segment it fetches from (R84). -/
def Dev.fetchTenant (d : Dev) (c : Nat) : Half :=
  match (d.translateNow c (d.arch c).pc .fetch).2 with
  | .ok t => t.tenant
  | _ => 0

/-- A branch to a target: pushes or pops the return stack, writes a link register and goes. A misaligned
target is a trap on the branch itself, before any write. -/
def branchWork (x : Ctx) (srcs dsts : List Nat) (indirect : Bool) (target : Arch → Word) (link : Option RegNo) (pop : Bool) : Work where
  srcs := srcs
  dsts := dsts
  branch := some indirect
  body := fun d =>
    let c := x.core.val
    let a := d.arch c
    let t := target a
    if t.toNat % 4 ≠ 0 then (d, .stop (.trap 3 0 t)) else
    (d.modCore c fun k =>
      let k1 := match link with
        | some r => if r = 0 then k else { (k.pushReturn (a.pc + 4)) with arch := k.arch.setG r (a.pc + 4) }
        | none => k
      if pop then { k1 with retStack := k1.retStack.tail } else k1, .goto t)
  ahead := fun d =>
    let t := target (d.arch x.core.val)
    let pc := (d.arch x.core.val).pc
    (d.modArch x.core.val fun a => { (match link with
      | some r => a.setG r (pc + 4)
      | none => a) with pc := if t.toNat % 4 ≠ 0 then a.pc else t }, true)

def execB (x : Ctx) (off : BitVec 22) (s : State) : Host.Outcome State Fault Refusal :=
  s.next (s.dev.run x (.b x off) (branchWork x [] [] false (fun a => a.pc + branchOff off) none false))
def execBl (x : Ctx) (off : BitVec 22) (s : State) : Host.Outcome State Fault Refusal :=
  s.next (s.dev.run x (.bl x off) (branchWork x [] [1] false (fun a => a.pc + branchOff off) (some 1) false))
def execBr (x : Ctx) (rd rs1 : RegNo) (s : State) : Host.Outcome State Fault Refusal :=
  s.next (s.dev.run x (.br x rd rs1) (branchWork x [rs1.val] [rd.val] true (fun a => a.getG rs1) (some rd) false))
def execRet (x : Ctx) (s : State) : Host.Outcome State Fault Refusal :=
  s.next (s.dev.run x (.ret x) (branchWork x [1] [] true (fun a => a.getG 1) none true))

/-! ### Loads, stores and atomics (R72 to R74) -/

def execLdb (x : Ctx) (o : OpsI) (s : State) : Host.Outcome State Fault Refusal := s.next (s.dev.run x (.ldb x o) (loadGpr x o 1 true))
def execLdbu (x : Ctx) (o : OpsI) (s : State) : Host.Outcome State Fault Refusal := s.next (s.dev.run x (.ldbu x o) (loadGpr x o 1 false))
def execLdh (x : Ctx) (o : OpsI) (s : State) : Host.Outcome State Fault Refusal := s.next (s.dev.run x (.ldh x o) (loadGpr x o 2 true))
def execLdhu (x : Ctx) (o : OpsI) (s : State) : Host.Outcome State Fault Refusal := s.next (s.dev.run x (.ldhu x o) (loadGpr x o 2 false))
def execLdw (x : Ctx) (o : OpsI) (s : State) : Host.Outcome State Fault Refusal := s.next (s.dev.run x (.ldw x o) (loadGpr x o 4 true))
def execLdwu (x : Ctx) (o : OpsI) (s : State) : Host.Outcome State Fault Refusal := s.next (s.dev.run x (.ldwu x o) (loadGpr x o 4 false))
def execLdd (x : Ctx) (o : OpsI) (s : State) : Host.Outcome State Fault Refusal := s.next (s.dev.run x (.ldd x o) (loadGpr x o 8 false))
def execStb (x : Ctx) (o : OpsS) (s : State) : Host.Outcome State Fault Refusal := s.next (s.dev.run x (.stb x o) (storeGpr x o 1))
def execSth (x : Ctx) (o : OpsS) (s : State) : Host.Outcome State Fault Refusal := s.next (s.dev.run x (.sth x o) (storeGpr x o 2))
def execStw (x : Ctx) (o : OpsS) (s : State) : Host.Outcome State Fault Refusal := s.next (s.dev.run x (.stw x o) (storeGpr x o 4))
def execStd (x : Ctx) (o : OpsS) (s : State) : Host.Outcome State Fault Refusal := s.next (s.dev.run x (.std x o) (storeGpr x o 8))
def execAaddW (x : Ctx) (o : OpsR) (s : State) : Host.Outcome State Fault Refusal := s.next (s.dev.run x (.aaddW x o) (atomWork x o 4 .add))
def execAaddD (x : Ctx) (o : OpsR) (s : State) : Host.Outcome State Fault Refusal := s.next (s.dev.run x (.aaddD x o) (atomWork x o 8 .add))
def execAswpW (x : Ctx) (o : OpsR) (s : State) : Host.Outcome State Fault Refusal := s.next (s.dev.run x (.aswpW x o) (atomWork x o 4 .swap))
def execAswpD (x : Ctx) (o : OpsR) (s : State) : Host.Outcome State Fault Refusal := s.next (s.dev.run x (.aswpD x o) (atomWork x o 8 .swap))
def execAcasW (x : Ctx) (o : OpsR) (s : State) : Host.Outcome State Fault Refusal := s.next (s.dev.run x (.acasW x o) (atomWork x o 4 .cas))
def execAcasD (x : Ctx) (o : OpsR) (s : State) : Host.Outcome State Fault Refusal := s.next (s.dev.run x (.acasD x o) (atomWork x o 8 .cas))

end Sys2Proof.Machine
end

