-- ==== Sys2Proof/Machine/Flags.lean ====
section
/-! DEFINITION. FPCSR: rounding modes and sticky flags (R98, R99), and IEEE 754-2019 arithmetic on binary16, binary32 and
binary64 elements: every operation is computed exactly and rounded once. -/

namespace Sys2Proof.Machine

/-- The IEEE exceptions that an operation signals. -/
structure Exc where
  nv : Bool := false
  dz : Bool := false
  ovf : Bool := false
  udf : Bool := false
  nx : Bool := false
deriving DecidableEq, Repr

def Exc.or (a b : Exc) : Exc := ⟨a.nv || b.nv, a.dz || b.dz, a.ovf || b.ovf, a.udf || b.udf, a.nx || b.nx⟩
def Exc.bits (a : Exc) : Nat := bitNat a.nv * 16 + bitNat a.dz * 8 + bitNat a.ovf * 4 + bitNat a.udf * 2 + bitNat a.nx
def Exc.invalid : Exc := { nv := true }

/-- Rounding modes of FPCSR.RM; its reserved codes are never held (R7). -/
inductive Rm
  | nearestEven | zero | down | up | nearestAway
deriving DecidableEq, Repr

def Arch.rm (a : Arch) : Rm :=
  match getF a.fpcsr ⟨7, 5⟩ with
  | 1 => .zero | 2 => .down | 3 => .up | 4 => .nearestAway | _ => .nearestEven
/-- The flags of every element are ORed into FPCSR (R99). -/
def Arch.signal (a : Arch) (e : Exc) : Arch := { a with fpcsr := a.fpcsr ||| BitVec.ofNat 64 e.bits }
/-- A write of FPCSR: a reserved rounding code leaves RM unchanged (R7, R98). -/
def fpcsrWrite (old v : Word) : Word :=
  let w := v &&& 0xFF
  if 5 ≤ getF w ⟨7, 5⟩ then setF w ⟨7, 5⟩ (getF old ⟨7, 5⟩) else w

/-! ### Formats -/

/-- An interchange format: exponent and trailing significand bits. -/
structure Fmt where
  eb : Nat
  mb : Nat
deriving DecidableEq, Repr

def Fmt.width (f : Fmt) : Nat := 1 + f.eb + f.mb
def Fmt.bias (f : Fmt) : Int := 2 ^ (f.eb - 1) - 1
/-- The exponent of the least normal number, and of the last place of a subnormal one. -/
def Fmt.emin (f : Fmt) : Int := 1 - f.bias
def Fmt.qmin (f : Fmt) : Int := f.emin - f.mb

def elemFmt : Elem → Fmt
  | .f16 => ⟨5, 10⟩
  | .f32 => ⟨8, 23⟩
  | _ => ⟨11, 52⟩

/-- A datum: NaN, infinity, or sign, integer significand and exponent. -/
inductive Datum
  | nan (signaling : Bool)
  | inf (s : Bool)
  | fin (s : Bool) (m : Nat) (e : Int)
deriving DecidableEq, Repr

def signBit (f : Fmt) (x : Nat) : Bool := x.testBit (f.eb + f.mb)
def unpack (f : Fmt) (x : Nat) : Datum :=
  let s := signBit f x
  let e := x / 2 ^ f.mb % 2 ^ f.eb
  let m := x % 2 ^ f.mb
  if e = 2 ^ f.eb - 1 then (if m = 0 then .inf s else .nan (!m.testBit (f.mb - 1)))
  else if e = 0 then .fin s m f.qmin
  else .fin s (m + 2 ^ f.mb) (f.qmin + (e - 1 : Nat))

/-- The canonical quiet NaN (R99). -/
def qnan (f : Fmt) : Nat := (2 ^ f.eb - 1) * 2 ^ f.mb + 2 ^ (f.mb - 1)
def packInf (f : Fmt) (s : Bool) : Nat := bitNat s * 2 ^ (f.eb + f.mb) + (2 ^ f.eb - 1) * 2 ^ f.mb
def packZero (f : Fmt) (s : Bool) : Nat := bitNat s * 2 ^ (f.eb + f.mb)
def packMax (f : Fmt) (s : Bool) : Nat := packInf f s - 1

/-! ### Rounding -/

/-- Whether the magnitude rounds away from zero: `odd` of the kept part, remainder over 2^k. -/
def roundsUp (rm : Rm) (s odd : Bool) (r k : Nat) : Bool :=
  match rm with
  | .zero => false
  | .down => s && r != 0
  | .up => !s && r != 0
  | .nearestAway => decide (2 ^ k ≤ 2 * r) && r != 0
  | .nearestEven => decide (2 ^ k < 2 * r) || (2 * r == 2 ^ k && r != 0 && odd)

/-- m · 2^e in units of 2^q, rounded: the integer and whether it is exact. -/
def roundTo (rm : Rm) (s : Bool) (m : Nat) (e q : Int) : Nat × Bool :=
  if q ≤ e then (m * 2 ^ (e - q).toNat, true)
  else
    let k := (q - e).toNat
    let n := m / 2 ^ k
    let r := m % 2 ^ k
    (if roundsUp rm s (n % 2 == 1) r k then n + 1 else n, r == 0)

/-- The number ±m · 2^e rounded into a format, m not zero, with the exceptions it signals. -/
def roundPack (f : Fmt) (rm : Rm) (s : Bool) (m : Nat) (e : Int) : Nat × Exc :=
  let top := e + (Nat.log2 m : Int)
  let q := max (top - f.mb) f.qmin
  let (n, exact) := roundTo rm s m e q
  let (n, q) := if n = 2 ^ (f.mb + 1) then (2 ^ f.mb, q + 1) else (n, q)
  let tinyAfter := decide (top < f.emin) && !(decide (top + 1 = f.emin) && (roundTo rm s m e (top - f.mb)).1 == 2 ^ (f.mb + 1))
  let tiny := if Config.tinyAfterRounding then tinyAfter else decide (top < f.emin)
  if f.bias < q + f.mb then
    let away := match rm with
      | .zero => false
      | .down => s
      | .up => !s
      | _ => true
    (if away then packInf f s else packMax f s, { ovf := true, nx := true })
  else
    let field := if n < 2 ^ f.mb then 0 else (q - f.qmin).toNat + 1
    (bitNat s * 2 ^ (f.eb + f.mb) + field * 2 ^ f.mb + n % 2 ^ f.mb, { udf := tiny && !exact, nx := !exact })

/-- As `roundPack`, a zero keeping its sign. -/
def packNum (f : Fmt) (rm : Rm) (s : Bool) (m : Nat) (e : Int) : Nat × Exc :=
  if m = 0 then (packZero f s, {}) else roundPack f rm s m e

/-! ### Arithmetic -/

def Datum.isSnan : Datum → Bool
  | .nan s => s
  | _ => false
def Datum.isNan : Datum → Bool
  | .nan _ => true
  | _ => false
def Datum.neg : Datum → Datum
  | .nan s => .nan s
  | .inf s => .inf (!s)
  | .fin s m e => .fin (!s) m e

/-- The NaN result of an operation: invalid when an operand signals. -/
def nanOf (f : Fmt) (l : List Datum) : Nat × Exc := (qnan f, { nv := l.any Datum.isSnan })

/-- A signed significand at exponent `e0`. -/
def signedAt (s : Bool) (m : Nat) (e e0 : Int) : Int :=
  let n : Int := (m * 2 ^ (e - e0).toNat : Nat)
  if s then -n else n

/-- The exact sum of two finite numbers, rounded. -/
def addFin (f : Fmt) (rm : Rm) (s1 : Bool) (m1 : Nat) (e1 : Int) (s2 : Bool) (m2 : Nat) (e2 : Int) : Nat × Exc :=
  let e0 := min e1 e2
  let v := signedAt s1 m1 e1 e0 + signedAt s2 m2 e2 e0
  if v = 0 then (packZero f (if s1 = s2 then s1 else rm == .down), {}) else roundPack f rm (decide (v < 0)) v.natAbs e0

def addData (f : Fmt) (rm : Rm) (x y : Datum) : Nat × Exc :=
  match x, y with
  | .nan _, _ | _, .nan _ => nanOf f [x, y]
  | .inf s, .inf t => if s = t then (packInf f s, {}) else (qnan f, Exc.invalid)
  | .inf s, _ => (packInf f s, {})
  | _, .inf t => (packInf f t, {})
  | .fin s1 m1 e1, .fin s2 m2 e2 => addFin f rm s1 m1 e1 s2 m2 e2

def fpAdd (f : Fmt) (rm : Rm) (a b : Nat) : Nat × Exc := addData f rm (unpack f a) (unpack f b)
def fpSub (f : Fmt) (rm : Rm) (a b : Nat) : Nat × Exc := addData f rm (unpack f a) (unpack f b).neg

def fpMul (f : Fmt) (rm : Rm) (a b : Nat) : Nat × Exc :=
  match unpack f a, unpack f b with
  | .fin s1 m1 e1, .fin s2 m2 e2 => packNum f rm (s1 != s2) (m1 * m2) (e1 + e2)
  | .inf s, .inf t => (packInf f (s != t), {})
  | .inf s, .fin t m _ | .fin t m _, .inf s => if m = 0 then (qnan f, Exc.invalid) else (packInf f (s != t), {})
  | x, y => nanOf f [x, y]

def fpDiv (f : Fmt) (rm : Rm) (a b : Nat) : Nat × Exc :=
  match unpack f a, unpack f b with
  | .fin s1 m1 e1, .fin s2 m2 e2 =>
    let s := s1 != s2
    if m2 = 0 then (if m1 = 0 then (qnan f, Exc.invalid) else (packInf f s, { dz := true }))
    else
      let k := 2 * f.mb + 4
      let n := m1 * 2 ^ k
      packNum f rm s (2 * (n / m2) + bitNat (n % m2 != 0)) (e1 - e2 - k - 1)
  | .inf _, .inf _ => (qnan f, Exc.invalid)
  | .inf s, .fin t _ _ => (packInf f (s != t), {})
  | .fin s _ _, .inf t => (packZero f (s != t), {})
  | x, y => nanOf f [x, y]

/-- The integer square root of a number below 4^n, bit by bit. -/
def isqrt (x : Nat) : Nat → Nat → Nat
  | 0, r => r
  | n + 1, r => let t := r + 2 ^ n
                isqrt x n (if t * t ≤ x then t else r)

def fpSqrt (f : Fmt) (rm : Rm) (a : Nat) : Nat × Exc :=
  match unpack f a with
  | .fin s m e =>
    if m = 0 then (packZero f s, {})
    else if s then (qnan f, Exc.invalid)
    else
      -- m · 2^e with an even exponent and 2·mb + 4 further bits
      let k : Nat := 2 * f.mb + 4 + (if (e - (2 * f.mb + 4 : Nat)) % 2 = 0 then 0 else 1)
      let n := m * 2 ^ k
      let r := isqrt n (2 * f.mb + 6) 0
      roundPack f rm false (2 * r + bitNat (r * r != n)) ((e - k) / 2 - 1)
  | .inf s => if s then (qnan f, Exc.invalid) else (packInf f false, {})
  | x => nanOf f [x]

/-- a × b + c, rounded once; `flip` negates the product (VFNMA). -/
def fpFma (f : Fmt) (rm : Rm) (flip : Bool) (a b c : Nat) : Nat × Exc :=
  let x := unpack f a
  let y := unpack f b
  let z := unpack f c
  let zeroInf := match x, y with
    | .inf _, .fin _ m _ | .fin _ m _, .inf _ => m == 0
    | _, _ => false
  if x.isNan || y.isNan || z.isNan then
    (qnan f, { nv := [x, y, z].any Datum.isSnan || (zeroInf && Config.fmaZeroInfNanInvalid) })
  else if zeroInf then (qnan f, Exc.invalid)
  else match x, y with
    | .fin s1 m1 e1, .fin s2 m2 e2 => (match z with
      | .inf t => (packInf f t, {})
      | .fin t m e => addFin f rm ((s1 != s2) != flip) (m1 * m2) (e1 + e2) t m e
      | .nan _ => (qnan f, {}))
    | .inf s, .inf t | .inf s, .fin t _ _ | .fin s _ _, .inf t => addData f rm (.inf ((s != t) != flip)) z
    | _, _ => (qnan f, {})

/-! ### Comparison -/

/-- x < y of two data that are no NaN; −0 equals +0. -/
def dataLt (x y : Datum) : Bool :=
  match x, y with
  | .inf s, .inf t => s && !t
  | .inf s, .fin _ _ _ => s
  | .fin _ _ _, .inf t => !t
  | .fin s1 m1 e1, .fin s2 m2 e2 =>
    let e0 := min e1 e2
    decide (signedAt s1 m1 e1 e0 < signedAt s2 m2 e2 e0)
  | _, _ => false
def dataEq (x y : Datum) : Bool := !x.isNan && !y.isNan && !dataLt x y && !dataLt y x
def dataSign : Datum → Bool
  | .inf s => s
  | .fin s _ _ => s
  | .nan _ => false

/-- minimumNumber and maximumNumber of IEEE 754-2019: a number prevails over a NaN; −0 is below +0. -/
def fpMinMax (f : Fmt) (isMax : Bool) (a b : Nat) : Nat × Exc :=
  let x := unpack f a
  let y := unpack f b
  let ex : Exc := { nv := x.isSnan || y.isSnan }
  if x.isNan && y.isNan then (qnan f, ex)
  else if x.isNan then (b, ex)
  else if y.isNan then (a, ex)
  else
    let below := dataLt x y || (dataEq x y && dataSign x)
    (if below != isMax then a else b, ex)

/-- The floating compares (R100): NaN operands set NV only for less-than and less-or-equal. -/
inductive FpCmp
  | eq | lt | le | un
deriving DecidableEq, Repr

def fpCompare (f : Fmt) (c : FpCmp) (a b : Nat) : Bool × Exc :=
  let x := unpack f a
  let y := unpack f b
  let nan := x.isNan || y.isNan
  match c with
  | .eq => (dataEq x y, {})
  | .lt => (!nan && dataLt x y, { nv := nan })
  | .le => (!nan && !dataLt y x, { nv := nan })
  | .un => (nan, {})

/-! ### Conversion (R101) -/

def fpOfInt (f : Fmt) (rm : Rm) (v : Int) : Nat × Exc := packNum f rm (decide (v < 0)) v.natAbs 0
def fpToFp (f g : Fmt) (rm : Rm) (a : Nat) : Nat × Exc :=
  match unpack f a with
  | .nan s => (qnan g, { nv := s })
  | .inf s => (packInf g s, {})
  | .fin s m e => packNum g rm s m e
/-- To a signed integer of `w` bits: NaN gives 0, and values out of range saturate; both set NV. -/
def fpToInt (f : Fmt) (w : Nat) (rm : Rm) (a : Nat) : Nat × Exc :=
  let hi : Nat := 2 ^ (w - 1)
  let sat := fun (s : Bool) => (if s then hi else hi - 1, Exc.invalid)
  match unpack f a with
  | .nan _ => (0, Exc.invalid)
  | .inf s => sat s
  | .fin s m e =>
    let (n, exact) := roundTo rm s m e 0
    if s then (if hi < n then sat true else ((2 ^ w - n) % 2 ^ w, { nx := !exact }))
    else if hi ≤ n then sat false else (n, { nx := !exact })

end Sys2Proof.Machine
end

