-- ==== Sys2Proof/Machine/Vector.lean ====
section
/-! DEFINITION. Vector instructions (R32, R100 to R102): elements, integer, floating, compare, permute, convert, load and store. -/

namespace Sys2Proof.Machine

/-! ### Elements (R32, R50) -/

def elemWidth : Elem → Nat
  | .i8 => 8 | .i16 => 16 | .i32 => 32 | .i64 => 64 | .f16 => 16 | .f32 => 32 | .f64 => 64
def lanes (e : Elem) : Nat := 256 / elemWidth e
/-- Element i of width w. -/
def elemOf (v : Vec) (w i : Nat) : Nat := v.toNat / 2 ^ (w * i) % 2 ^ w
/-- The register whose elements from 0 up are `l`, each taken modulo 2^w. -/
def packElems (w : Nat) : List Nat → Nat
  | [] => 0
  | x :: t => x % 2 ^ w + 2 ^ w * packElems w t
def vecOf (w : Nat) (l : List Nat) : Vec := BitVec.ofNat 256 (packElems w l)
def vecElems (v : Vec) (w : Nat) : List Nat := (List.range (256 / w)).map fun i => elemOf v w i
/-- Element i from elements i of two registers. -/
def vecMap2 (w : Nat) (f : Nat → Nat → Nat) (a b : Vec) : Vec := vecOf w (List.zipWith f (vecElems a w) (vecElems b w))
/-- A signed element. -/
def sgn (w x : Nat) : Int := if 2 ^ (w - 1) ≤ x then (x : Int) - 2 ^ w else x
/-- An integer as an element of w bits. -/
def uns (w : Nat) (v : Int) : Nat := (v % 2 ^ w).toNat
/-- All ones when a comparison holds, else all zeros. -/
def maskElem (w : Nat) (c : Bool) : Nat := if c then 2 ^ w - 1 else 0

/-! ### Integer functions -/

def vShift (w : Nat) (f : Nat → Nat → Nat) (a b : Nat) : Nat := f a (b % w)
def satSigned (w : Nat) (v : Int) : Nat :=
  let hi : Int := 2 ^ (w - 1)
  uns w (if v < -hi then -hi else if hi ≤ v then hi - 1 else v)
def vSra (w a n : Nat) : Nat := uns w (sgn w a / 2 ^ n)

/-! ### Instructions of one shape -/

/-- vd := f(vs1, vs2). -/
def vecWork (x : Ctx) (o : OpsV) (f : Nat → Vec → Vec → Vec) : Work :=
  regWork x [vnum o.vs1, vnum o.vs2] [vnum o.vd] fun a => a.setV o.vd (f (elemWidth o.et) (a.getV o.vs1) (a.getV o.vs2))
/-- An integer function of two elements. -/
def vintWork (x : Ctx) (o : OpsV) (f : Nat → Nat → Nat → Nat) : Work := vecWork x o fun w => vecMap2 w (f w)
/-- An integer compare. -/
def vcmpWork (x : Ctx) (o : OpsV) (f : Nat → Nat → Nat → Bool) : Work := vintWork x o fun w a b => maskElem w (f w a b)

/-- Results of elements with the exceptions that they signal. -/
def gather (l : List (Nat × Exc)) : List Nat × Exc := (l.map (·.1), l.foldl (fun e p => e.or p.2) {})
/-- A floating function of the elements of a list of registers. -/
def fpElems (w : Nat) (f : List Nat → Nat × Exc) (vs : List Vec) : Vec × Exc :=
  let (l, e) := gather ((List.range (256 / w)).map fun i => f (vs.map fun v => elemOf v w i))
  (vecOf w l, e)
/-- vd := f of the named registers' elements; the flags go to FPCSR. -/
def vfpWork (x : Ctx) (vd : RegNo) (srcs : List RegNo) (et : Elem) (f : Fmt → Rm → List Nat → Nat × Exc) : Work :=
  regWork x (srcs.map vnum) [vnum vd] fun a =>
    let (v, e) := fpElems (elemWidth et) (f (elemFmt et) a.rm) (srcs.map a.getV)
    (a.setV vd v).signal e
def vfp2 (x : Ctx) (o : OpsV) (f : Fmt → Rm → Nat → Nat → Nat × Exc) : Work :=
  vfpWork x o.vd [o.vs1, o.vs2] o.et fun g rm l => f g rm (l.getD 0 0) (l.getD 1 0)
def vfp1 (x : Ctx) (vd vs1 : RegNo) (et : Elem) (f : Fmt → Rm → Nat → Nat × Exc) : Work :=
  vfpWork x vd [vs1] et fun g rm l => f g rm (l.getD 0 0)
def vfp3 (x : Ctx) (o : OpsV) (flip : Bool) : Work :=
  vfpWork x o.vd [o.vs1, o.vs2, o.vd] o.et fun g rm l => fpFma g rm flip (l.getD 0 0) (l.getD 1 0) (l.getD 2 0)
def vfcmp (x : Ctx) (o : OpsV) (c : FpCmp) : Work :=
  vfp2 x o fun g _ a b => let (r, e) := fpCompare g c a b
                          (maskElem g.width r, e)

/-! ### Permutes (R100) -/

def permOf (w : Nat) (a b : Vec) : Vec :=
  vecOf w ((vecElems b w).map fun k => if k < 256 / w then elemOf a w k else 0)
def zipOf (w : Nat) (high : Bool) (a b : Vec) : Vec :=
  let n := 256 / w
  vecOf w ((List.range n).map fun i => elemOf (if i % 2 = 0 then a else b) w ((if high then n / 2 else 0) + i / 2))
def unzipOf (w : Nat) (odd : Bool) (a b : Vec) : Vec :=
  let n := 256 / w
  vecOf w ((List.range n).map fun i => if i < n / 2 then elemOf a w (2 * i + bitNat odd) else elemOf b w (2 * (i - n / 2) + bitNat odd))
def selOf (w : Nat) (old a b : Vec) : Vec :=
  vecOf w ((List.range (256 / w)).map fun i => if elemOf b w i ≠ 0 then elemOf a w i else elemOf old w i)

/-! ### Conversion (R101) -/

def convElem (src dst : Elem) (rm : Rm) (x : Nat) : Nat × Exc :=
  match src.isInt, dst.isInt with
  | true, true => (uns (elemWidth dst) (sgn (elemWidth src) x), {})
  | true, false => fpOfInt (elemFmt dst) rm (sgn (elemWidth src) x)
  | false, true => fpToInt (elemFmt src) (elemWidth dst) rm x
  | false, false => fpToFp (elemFmt src) (elemFmt dst) rm x
/-- Element i for i below the element count of the wider type; every other element of vd is 0. -/
def convOf (src dst : Elem) (rm : Rm) (v : Vec) : Vec × Exc :=
  let n := min (lanes src) (lanes dst)
  let (l, e) := gather ((List.range n).map fun i => convElem src dst rm (elemOf v (elemWidth src) i))
  (vecOf (elemWidth dst) l, e)

/-! ### Addresses (R102) -/

def easUnit (base : Word) (et : Elem) : List Word := (List.range (lanes et)).map fun i => base + BitVec.ofNat 64 (i * (elemWidth et / 8))
def easStride (base stride : Word) (et : Elem) : List Word := (List.range (lanes et)).map fun i => base + BitVec.ofNat 64 i * stride
def easSame (base : Word) (et : Elem) : List Word := List.replicate (lanes et) base
def vecBytes (v : Vec) : List Byte := leBytes 32 v.toNat

/-! ### The instructions -/

def execVadd (x : Ctx) (o : OpsV) (s : State) : Host.Outcome State Fault Refusal :=
  s.next (s.dev.run x (.vadd x o) (vintWork x o fun _ a b => a + b))
def execVsub (x : Ctx) (o : OpsV) (s : State) : Host.Outcome State Fault Refusal :=
  s.next (s.dev.run x (.vsub x o) (vintWork x o fun w a b => a + (2 ^ w - b)))
def execVmul (x : Ctx) (o : OpsV) (s : State) : Host.Outcome State Fault Refusal :=
  s.next (s.dev.run x (.vmul x o) (vintWork x o fun _ a b => a * b))
def execVmulh (x : Ctx) (o : OpsV) (s : State) : Host.Outcome State Fault Refusal :=
  s.next (s.dev.run x (.vmulh x o) (vintWork x o fun w a b => uns w (sgn w a * sgn w b / 2 ^ w)))
def execVmin (x : Ctx) (o : OpsV) (s : State) : Host.Outcome State Fault Refusal :=
  s.next (s.dev.run x (.vmin x o) (vintWork x o fun w a b => if sgn w a < sgn w b then a else b))
def execVmax (x : Ctx) (o : OpsV) (s : State) : Host.Outcome State Fault Refusal :=
  s.next (s.dev.run x (.vmax x o) (vintWork x o fun w a b => if sgn w a < sgn w b then b else a))
def execVminu (x : Ctx) (o : OpsV) (s : State) : Host.Outcome State Fault Refusal :=
  s.next (s.dev.run x (.vminu x o) (vintWork x o fun _ a b => if a < b then a else b))
def execVmaxu (x : Ctx) (o : OpsV) (s : State) : Host.Outcome State Fault Refusal :=
  s.next (s.dev.run x (.vmaxu x o) (vintWork x o fun _ a b => if a < b then b else a))
def execVand (x : Ctx) (o : OpsV) (s : State) : Host.Outcome State Fault Refusal :=
  s.next (s.dev.run x (.vand x o) (vintWork x o fun _ a b => a &&& b))
def execVor (x : Ctx) (o : OpsV) (s : State) : Host.Outcome State Fault Refusal :=
  s.next (s.dev.run x (.vor x o) (vintWork x o fun _ a b => a ||| b))
def execVxor (x : Ctx) (o : OpsV) (s : State) : Host.Outcome State Fault Refusal :=
  s.next (s.dev.run x (.vxor x o) (vintWork x o fun _ a b => a ^^^ b))
def execVsll (x : Ctx) (o : OpsV) (s : State) : Host.Outcome State Fault Refusal :=
  s.next (s.dev.run x (.vsll x o) (vintWork x o fun w => vShift w fun a n => a * 2 ^ n))
def execVsrl (x : Ctx) (o : OpsV) (s : State) : Host.Outcome State Fault Refusal :=
  s.next (s.dev.run x (.vsrl x o) (vintWork x o fun w => vShift w fun a n => a / 2 ^ n))
def execVsra (x : Ctx) (o : OpsV) (s : State) : Host.Outcome State Fault Refusal :=
  s.next (s.dev.run x (.vsra x o) (vintWork x o fun w => vShift w (vSra w)))
def execVadds (x : Ctx) (o : OpsV) (s : State) : Host.Outcome State Fault Refusal :=
  s.next (s.dev.run x (.vadds x o) (vintWork x o fun w a b => satSigned w (sgn w a + sgn w b)))
def execVsubs (x : Ctx) (o : OpsV) (s : State) : Host.Outcome State Fault Refusal :=
  s.next (s.dev.run x (.vsubs x o) (vintWork x o fun w a b => satSigned w (sgn w a - sgn w b)))
def execVfadd (x : Ctx) (o : OpsV) (s : State) : Host.Outcome State Fault Refusal :=
  s.next (s.dev.run x (.vfadd x o) (vfp2 x o fpAdd))
def execVfsub (x : Ctx) (o : OpsV) (s : State) : Host.Outcome State Fault Refusal :=
  s.next (s.dev.run x (.vfsub x o) (vfp2 x o fpSub))
def execVfmul (x : Ctx) (o : OpsV) (s : State) : Host.Outcome State Fault Refusal :=
  s.next (s.dev.run x (.vfmul x o) (vfp2 x o fpMul))
def execVfdiv (x : Ctx) (o : OpsV) (s : State) : Host.Outcome State Fault Refusal :=
  s.next (s.dev.run x (.vfdiv x o) (vfp2 x o fpDiv))
def execVfsqrt (x : Ctx) (vd vs1 : RegNo) (et : Elem) (s : State) : Host.Outcome State Fault Refusal :=
  s.next (s.dev.run x (.vfsqrt x vd vs1 et) (vfp1 x vd vs1 et fpSqrt))
def execVfmin (x : Ctx) (o : OpsV) (s : State) : Host.Outcome State Fault Refusal :=
  s.next (s.dev.run x (.vfmin x o) (vfp2 x o fun g _ => fpMinMax g false))
def execVfmax (x : Ctx) (o : OpsV) (s : State) : Host.Outcome State Fault Refusal :=
  s.next (s.dev.run x (.vfmax x o) (vfp2 x o fun g _ => fpMinMax g true))
def execVfma (x : Ctx) (o : OpsV) (s : State) : Host.Outcome State Fault Refusal :=
  s.next (s.dev.run x (.vfma x o) (vfp3 x o false))
def execVfnma (x : Ctx) (o : OpsV) (s : State) : Host.Outcome State Fault Refusal :=
  s.next (s.dev.run x (.vfnma x o) (vfp3 x o true))
def execVfabs (x : Ctx) (vd vs1 : RegNo) (et : Elem) (s : State) : Host.Outcome State Fault Refusal :=
  s.next (s.dev.run x (.vfabs x vd vs1 et) (vfp1 x vd vs1 et fun g _ a => (a % 2 ^ (g.width - 1), {})))
def execVfneg (x : Ctx) (vd vs1 : RegNo) (et : Elem) (s : State) : Host.Outcome State Fault Refusal :=
  s.next (s.dev.run x (.vfneg x vd vs1 et) (vfp1 x vd vs1 et fun g _ a => (a ^^^ 2 ^ (g.width - 1), {})))
def execVceq (x : Ctx) (o : OpsV) (s : State) : Host.Outcome State Fault Refusal :=
  s.next (s.dev.run x (.vceq x o) (vcmpWork x o fun _ a b => a == b))
def execVcne (x : Ctx) (o : OpsV) (s : State) : Host.Outcome State Fault Refusal :=
  s.next (s.dev.run x (.vcne x o) (vcmpWork x o fun _ a b => a != b))
def execVclt (x : Ctx) (o : OpsV) (s : State) : Host.Outcome State Fault Refusal :=
  s.next (s.dev.run x (.vclt x o) (vcmpWork x o fun w a b => decide (sgn w a < sgn w b)))
def execVcle (x : Ctx) (o : OpsV) (s : State) : Host.Outcome State Fault Refusal :=
  s.next (s.dev.run x (.vcle x o) (vcmpWork x o fun w a b => decide (sgn w a ≤ sgn w b)))
def execVcltu (x : Ctx) (o : OpsV) (s : State) : Host.Outcome State Fault Refusal :=
  s.next (s.dev.run x (.vcltu x o) (vcmpWork x o fun _ a b => decide (a < b)))
def execVcleu (x : Ctx) (o : OpsV) (s : State) : Host.Outcome State Fault Refusal :=
  s.next (s.dev.run x (.vcleu x o) (vcmpWork x o fun _ a b => decide (a ≤ b)))
def execVcfeq (x : Ctx) (o : OpsV) (s : State) : Host.Outcome State Fault Refusal :=
  s.next (s.dev.run x (.vcfeq x o) (vfcmp x o .eq))
def execVcflt (x : Ctx) (o : OpsV) (s : State) : Host.Outcome State Fault Refusal :=
  s.next (s.dev.run x (.vcflt x o) (vfcmp x o .lt))
def execVcfle (x : Ctx) (o : OpsV) (s : State) : Host.Outcome State Fault Refusal :=
  s.next (s.dev.run x (.vcfle x o) (vfcmp x o .le))
def execVcfun (x : Ctx) (o : OpsV) (s : State) : Host.Outcome State Fault Refusal :=
  s.next (s.dev.run x (.vcfun x o) (vfcmp x o .un))
def execVperm (x : Ctx) (o : OpsV) (s : State) : Host.Outcome State Fault Refusal :=
  s.next (s.dev.run x (.vperm x o) (vecWork x o permOf))
def execVbcast (x : Ctx) (vd vs1 : RegNo) (et : Elem) (s : State) : Host.Outcome State Fault Refusal :=
  s.next (s.dev.run x (.vbcast x vd vs1 et) (regWork x [vnum vs1] [vnum vd] fun a =>
    a.setV vd (vecOf (elemWidth et) (List.replicate (lanes et) (elemOf (a.getV vs1) (elemWidth et) 0)))))
def execVziplo (x : Ctx) (o : OpsV) (s : State) : Host.Outcome State Fault Refusal :=
  s.next (s.dev.run x (.vziplo x o) (vecWork x o fun w => zipOf w false))
def execVziphi (x : Ctx) (o : OpsV) (s : State) : Host.Outcome State Fault Refusal :=
  s.next (s.dev.run x (.vziphi x o) (vecWork x o fun w => zipOf w true))
def execVunzipe (x : Ctx) (o : OpsV) (s : State) : Host.Outcome State Fault Refusal :=
  s.next (s.dev.run x (.vunzipe x o) (vecWork x o fun w => unzipOf w false))
def execVunzipo (x : Ctx) (o : OpsV) (s : State) : Host.Outcome State Fault Refusal :=
  s.next (s.dev.run x (.vunzipo x o) (vecWork x o fun w => unzipOf w true))
def execVsel (x : Ctx) (o : OpsV) (s : State) : Host.Outcome State Fault Refusal :=
  s.next (s.dev.run x (.vsel x o) (regWork x [vnum o.vs1, vnum o.vs2, vnum o.vd] [vnum o.vd] fun a =>
    a.setV o.vd (selOf (elemWidth o.et) (a.getV o.vd) (a.getV o.vs1) (a.getV o.vs2))))
def execVcvt (x : Ctx) (vd vs1 : RegNo) (src et : Elem) (s : State) : Host.Outcome State Fault Refusal :=
  s.next (s.dev.run x (.vcvt x vd vs1 src et) (regWork x [vnum vs1] [vnum vd] fun a =>
    let (v, e) := convOf src et a.rm (a.getV vs1)
    (a.setV vd v).signal e))
def execVld (x : Ctx) (vd vs1 : RegNo) (et : Elem) (s : State) : Host.Outcome State Fault Refusal :=
  s.next (s.dev.run x (.vld x vd vs1 et) (loadWork x [vs1.val] [vnum vd] (elemWidth et / 8) (fun a => easUnit (a.getG vs1) et) (.vec vd)))
def execVlds (x : Ctx) (o : OpsV) (s : State) : Host.Outcome State Fault Refusal :=
  s.next (s.dev.run x (.vlds x o) (loadWork x [o.vs1.val, o.vs2.val] [vnum o.vd] (elemWidth o.et / 8) (fun a => easStride (a.getG o.vs1) (a.getG o.vs2) o.et) (.vec o.vd)))
def execVldb (x : Ctx) (vd vs1 : RegNo) (et : Elem) (s : State) : Host.Outcome State Fault Refusal :=
  s.next (s.dev.run x (.vldb x vd vs1 et) (loadWork x [vs1.val] [vnum vd] (elemWidth et / 8) (fun a => easSame (a.getG vs1) et) (.vec vd)))
def execVst (x : Ctx) (vd vs1 : RegNo) (et : Elem) (s : State) : Host.Outcome State Fault Refusal :=
  s.next (s.dev.run x (.vst x vd vs1 et) (storeWork x [vs1.val, vnum vd] (elemWidth et / 8) (fun a => easUnit (a.getG vs1) et) fun a => vecBytes (a.getV vd)))
def execVsts (x : Ctx) (o : OpsV) (s : State) : Host.Outcome State Fault Refusal :=
  s.next (s.dev.run x (.vsts x o) (storeWork x [o.vs1.val, o.vs2.val, vnum o.vd] (elemWidth o.et / 8)
    (fun a => easStride (a.getG o.vs1) (a.getG o.vs2) o.et) fun a => vecBytes (a.getV o.vd)))

end Sys2Proof.Machine
end

