-- ==== Sys2Proof/Machine/System.lean ====
section
/-! DEFINITION. System instructions and control registers (R33 to R37, R45, R57, R82 to R87, R112, R131, R134, R374), memory
operations (R88 to R95), and the events of one core (R40, R52, R83, R93, R106, R113 to R118, R372). -/

namespace Sys2Proof.Machine

/-- An instruction of level `l` and above. -/
def atLeast (l : Level) (a : Arch) : Bool := l.le a.pl

/-! ### Control registers -/

/-- The read level and write level of a listed control register; none for the dash of the tables. -/
def crLevels (a : Arch) (k : Nat) : Option Level × Option Level :=
  match k with
  | 0x000 => (some .u, none)
  | 0x003 => (some (if a.utime then .u else .s), none)
  | 0x004 => (some .u, some .u)
  | 0x001 | 0x018 | 0x080 | 0x082 | 0x083 | 0x180 | 0x1C4 => (some .s, none)
  | 0x002 | 0x008 | 0x00C | 0x014 | 0x100 | 0x1C0 | 0x1C3 => (some .s, some .s)
  | 0x009 | 0x00D | 0x011 | 0x015 | 0x101 | 0x1C2 => (some .h, some .h)
  | 0x00A | 0x00E | 0x010 | 0x016 | 0x102 => (some .m, some .m)
  | 0x081 | 0x103 => (some .s, some .h)
  | _ => (none, some .s)

/-- R34: a dash takes the other level; with TCTL.STRAP, SEGTAB_S is trapped at S (R136). -/
def crAllowed (a : Arch) (k : Nat) (write : Bool) : Bool :=
  let (r, w) := crLevels a k
  let need := if write then (w.orElse fun _ => r) else (r.orElse fun _ => w)
  (match need with
    | some l => l.le a.pl
    | none => false) && !(k == 0x100 && a.strap && a.pl == .s)

def isaVersion : Word := 0x01000000000001FF

/-- PANEL (R235). -/
def Dev.panelCr (d : Dev) (c : Nat) : Word :=
  let w := d.showPnl c
  BitVec.ofNat 64 (getF w .CORE_PNL_MEMBER * 2 ^ 63 + getF w .CORE_PNL_SUSP * 2 ^ 62 + getF w .CORE_PNL_SLOT * 2 ^ 8 + getF w .CORE_PNL_INDEX)

/-- The value of a control register (R35, R131, R134, R235, R374); a write-only one reads 0. -/
def Dev.crRead (d : Dev) (c k : Nat) : Word :=
  let a := d.arch c
  match k with
  | 0x000 => isaVersion
  | 0x001 => BitVec.ofNat 64 (d.logical c + d.socket * 2 ^ 16)
  | 0x002 => a.status
  | 0x003 => d.time
  | 0x004 => a.fpcsr
  | 0x008 => a.vbarS | 0x009 => a.vbarH | 0x00A => a.vbarM
  | 0x00C => a.fspS | 0x00D => a.fspH | 0x00E => a.fspM
  | 0x010 => a.tdelegM | 0x011 => a.tdelegH
  | 0x014 => a.scratchS | 0x015 => a.scratchH | 0x016 => a.scratchM
  | 0x018 => d.view (.coreRangeStatus c)
  | 0x080 => d.view (.coreUcode c)
  | 0x081 => a.predCtl
  | 0x082 => d.view (.coreReplay c)
  | 0x083 => d.view (.corePrefetch c)
  | 0x100 => a.segtabS | 0x101 => a.segtabH | 0x102 => a.segtabM
  | 0x103 => BitVec.ofNat 64 (bitNat (d.isolated c) * 8 + bitNat (d.core c).joined * 4 + bitNat a.mxlate * 2 + bitNat a.strap)
  | 0x180 => d.panelCr c
  | 0x1C0 => a.primask.zeroExtend 64
  | 0x1C2 => a.vpdesc
  | 0x1C3 => a.vpri.zeroExtend 64
  | 0x1C4 => match d.lcore? c with
    | some l => BitVec.ofNat 64 (bitNat (d.evAny l) * 2 ^ 63 + (d.evTop l).getD 0)
    | none => 0
  | _ => 0

/-- What PBAR clears on retiring (R86). -/
def Core.pbar (k : Core) : Core := { k with history := [], retStack := [] }

/-- A write of a SEGTAB register empties the descriptor cache of its table set (R134). -/
def Core.newSegtab (k : Core) (set : TableSet) (f : Arch → Arch) : Core :=
  { k with arch := f k.arch, sdc := k.sdc.filter fun e => e.set != set }

/-- The vectors that are not reserved (R38). -/
def vectorMask : Word := 0x307FF

/-- A write of a control register: reserved bits are not held, and read-only fields are left (R34 to R36). -/
def Dev.crWrite (d : Dev) (c k : Nat) (v : Word) : Dev :=
  let setA := fun (f : Arch → Arch) => d.modArch c f
  match k with
  | 0x002 => setA fun a => { a with ie := bitF v 2, utime := bitF v 3 }
  | 0x004 => setA fun a => { a with fpcsr := fpcsrWrite a.fpcsr v }
  | 0x008 => setA fun a => { a with vbarS := v &&& ~~~ 0x7FF }
  | 0x009 => setA fun a => { a with vbarH := v &&& ~~~ 0x7FF }
  | 0x00A => setA fun a => { a with vbarM := v &&& ~~~ 0x7FF }
  | 0x00C => setA fun a => { a with fspS := v &&& ~~~ 0x3F }
  | 0x00D => setA fun a => { a with fspH := v &&& ~~~ 0x3F }
  | 0x00E => setA fun a => { a with fspM := v &&& ~~~ 0x3F }
  | 0x010 => setA fun a => { a with tdelegM := v &&& vectorMask }
  | 0x011 => setA fun a => { a with tdelegH := v &&& vectorMask }
  | 0x014 => setA fun a => { a with scratchS := v }
  | 0x015 => setA fun a => { a with scratchH := v }
  | 0x016 => setA fun a => { a with scratchM := v }
  | 0x081 => (setA fun a => { a with predCtl := v &&& 7 }).modCore c Core.pbar
  | 0x100 => d.modCore c fun q => q.newSegtab .setS fun a => { a with segtabS := v &&& 0xFFFFFFFFFFFFFF }
  | 0x101 => d.modCore c fun q => q.newSegtab .setH fun a => { a with segtabH := v &&& 0xFFFFFFFFFFFFFF }
  | 0x102 => d.modCore c fun q => q.newSegtab .setM fun a => { a with segtabM := v &&& 0xFFFFFFFFFFFFFF }
  | 0x103 =>
    let m := (d.arch c).pl == .m
    let d1 := setA fun a => { a with strap := bitF v 0, mxlate := if m then bitF v 1 else a.mxlate }
    if m && bitF v 2 && !(d.core c).joined then
      d1.modCore c fun q => { q.dropXlate with joined := true, isoStart := false }
    else d1
  | 0x1C0 => setA fun a => { a with primask := v.truncate 8 }
  | 0x1C1 => match d.lcore? c, d.stitching c with
    | some l, some m => d.holdEnd c l m v
    | some l, none => d.endEntry l v
    | none, _ => d
  | 0x1C2 => setA fun a => { a with vpdesc := v &&& 0x800FFFFFFFFFFFC0 }
  | 0x1C3 => setA fun a => { a with vpri := v.truncate 8 }
  | _ => d

def mfcWork (x : Ctx) (ra : RegNo) (k : BitVec 10) : Work where
  srcs := []
  dsts := []
  allow := fun a => crAllowed a k.toNat false
  body := fun d =>
    let c := x.core.val
    if k.toNat = 3 ∧ (d.stitching c).isSome then (d, .stop (.boundary (.time ra)))
    else (d.modArch c fun a => a.setG ra (d.crRead c k.toNat), .next)
  ahead := fun d => (d, true)

def mtcWork (x : Ctx) (ra : RegNo) (k : BitVec 10) : Work where
  srcs := []
  dsts := []
  allow := fun a => crAllowed a k.toNat true
  body := fun d => (d.crWrite x.core.val k.toNat ((d.arch x.core.val).getG ra), .next)

def execMfc (x : Ctx) (ra : RegNo) (k : BitVec 10) (s : State) : Host.Outcome State Fault Refusal := s.next (s.dev.run x (.mfc x ra k) (mfcWork x ra k))
def execMtc (x : Ctx) (ra : RegNo) (k : BitVec 10) (s : State) : Host.Outcome State Fault Refusal := s.next (s.dev.run x (.mtc x ra k) (mtcWork x ra k))

/-! ### Calls and returns -/

def execSyscall (x : Ctx) (k : BitVec 10) (s : State) : Host.Outcome State Fault Refusal :=
  s.next (s.dev.run x (.syscall x k) (sysWork fun d => (d, .call 7 k.toNat)))
def execHvcall (x : Ctx) (k : BitVec 10) (s : State) : Host.Outcome State Fault Refusal :=
  s.next (s.dev.run x (.hvcall x k) { sysWork (fun d => (d, .call 8 k.toNat)) with allow := atLeast .s })

/-- The instruction word in memory at an effective address, as a fetch there would read it. -/
def Dev.wordAt (d : Dev) (c : Nat) (ea : Word) : Word32 :=
  match (d.translateNow c ea .fetch).2 with
  | .ok t => BitVec.ofNat 32 (leNat (d.peekBytes t.pa 4))
  | _ => 0

/-- A micro-pc is a resume point that the core's microcode registers for the routine of an instruction word (R46, R124). -/
def Dev.resumePoint (d : Dev) (c : Nat) (word : Word32) (upc : BitVec 13) : Bool :=
  match (decodeWord (Fin.ofNat 264 c) word).bind microOp with
  | some m => (d.core c).resumable m upc.toNat
  | none => false

/-- Reads a part of a frame; none when it cannot complete in normal memory. -/
abbrev FrameRead := Dev → Nat → Nat → Dev × Option (List Byte)

/-- A frame is read as normal memory, under key 0, and its lines enter a stitch's read signature. -/
def frameRead (c : Nat) : FrameRead := fun d pa n =>
  if !d.frameOk pa then (d, none) else
  match d.readNormal c 0 8 pa n 0 with
  | (d1, b, none) => (d1.enterRead c ⟨BitVec.ofNat 64 pa, pa, n, false, 0⟩, some b)
  | (d1, _, some _) => (d1, none)

/-- RETI (R45 to R47): the checks before anything changes, then STATUS, p1 to p7, the frame stack and pc; the micro-state of an
interrupted routine when the extension is valid. -/
def Dev.retiBy (d : Dev) (c : Nat) (read : FrameRead) : Dev × Ret :=
  let a := d.arch c
  let f := a.fsp a.pl
  let fail : Ret := .stop (.trap 9 5 f)
  match read d f.toNat 64 with
  | (d1, none) => (d1, fail)
  | (d1, some b) =>
    let dw := fun (i : Nat) => BitVec.ofNat 64 (leNat ((b.drop (8 * i)).take 8))
    let pc := dw 0
    let st := dw 1
    if a.pl.lt (Level.dec (st.toNat % 4)) then (d1, .stop (.trap 1 0 0))
    else if pc.toNat % 4 ≠ 0 then (d1, .stop (.trap 3 0 pc))
    else
      let back := fun (y : Dev) => y.modArch c fun z => ((z.setStatus st).setPred (dw 5)).setFsp a.pl (f + 0x140)
      if bitF (dw 2) 63 then
        match read d1 (f.toNat + 0x40) 160 with
        | (d2, none) => (d2, fail)
        | (d2, some e) =>
          let d3 := back d2
          let mpc := leNat (e.take 8)
          let patch : Half := BitVec.ofNat 16 (mpc / 2 ^ 48)
          let upc : BitVec 13 := BitVec.ofNat 13 mpc
          let valid := patch.toNat == d3.fld (.coreUcode c) .CORE_UCODE_PATCH_ID && d3.resumePoint c (d3.wordAt c pc) upc
          (d3, .left pc (if valid then some ⟨upc, BitVec.ofNat 16 (leNat ((e.drop 8).take 2)), BitVec.ofNat 1024 (leNat ((e.drop 32).take 128)), [], true⟩ else none))
      else (back d1, .left pc none)

/-- A RETI in a stitch whose frame lies in a scratchpad window is an access to it, which the boundary step performs (R206). -/
def Dev.reti (d : Dev) (c : Nat) : Dev × Ret :=
  let a := d.arch c
  if (d.stitching c).isSome && inSpad (a.fsp a.pl).toNat then (d, .stop (.boundary .reti)) else d.retiBy c (frameRead c)

def execReti (x : Ctx) (s : State) : Host.Outcome State Fault Refusal :=
  s.next (s.dev.run x (.reti x) { sysWork (fun d => d.reti x.core.val) with allow := atLeast .s })

/-! ### Waiting, fences, prediction controls -/

/-- A member that runs inside its panel: its RETI has come (R203), and it is not suspended, which puts it outside (R217, log entry 101). -/
def Core.isMember (k : Core) : Bool :=
  match k.member with
  | some m => m.phase != .named && m.phase != .suspended && m.phase != .orphan && m.phase != .lost
  | none => false

/-- WFE (R83): it waits unless an event has come already; in a member it has no effect. A power request that waits for the core
to be idle is then acted on (R379). -/
def Dev.wfe (d : Dev) (c : Nat) (ra : RegNo) : Dev :=
  let k := d.core c
  let until? : Option Word := if ra = 0 then none else some (k.arch.getG ra)
  let ended := d.anyInterrupt c || (match until? with
    | some t => decide (t.toNat ≤ d.time.toNat)
    | none => false)
  if k.isMember || ended then d else (d.modCore c fun q => { q with run := .waiting until? }).actLatest c

def execWfe (x : Ctx) (ra : RegNo) (s : State) : Host.Outcome State Fault Refusal :=
  s.next (s.dev.run x (.wfe x ra) (sysWork fun d => (d.wfe x.core.val ra, .next)))
/-- The core's earlier stores are performed; its other accesses have been, in a core that runs in order (R57, R87). -/
def fenceWork (x : Ctx) : Work := sysWork fun d => (d.drainStores x.core.val, .next)
def execFence (x : Ctx) (s : State) : Host.Outcome State Fault Refusal := s.next (s.dev.run x (.fence x) (fenceWork x))
def execFenceIo (x : Ctx) (s : State) : Host.Outcome State Fault Refusal := s.next (s.dev.run x (.fenceIo x) (fenceWork x))
def execSbar (x : Ctx) (s : State) : Host.Outcome State Fault Refusal := s.next (s.dev.run x (.sbar x) (fenceWork x))

/-- The structures that k selects (R85). -/
def predSelected (k : Nat) (p : PredTable) : Bool :=
  k % 8 = 0 || (match p with
    | .base | .tagged _ => k.testBit 0
    | .btb | .indirect => k.testBit 1
    | .dependence => k.testBit 2)

/-- PFLUSH (R85), with the effect of PBAR. -/
def Dev.pflush (d : Dev) (c : Nat) (ra : RegNo) (k : Nat) : Dev :=
  let a := d.arch c
  let cur := d.fetchTenant c
  let gone := fun (e : PredEntry) => predSelected k e.table &&
    (if atLeast .h a then ra == 0 || e.tenant == (a.getG ra).truncate 16 else e.tenant == cur && e.level.le a.pl)
  d.modCore c fun q => Core.pbar { q with pred := q.pred.filter fun e => !gone e }

def execPflush (x : Ctx) (ra : RegNo) (k : BitVec 10) (s : State) : Host.Outcome State Fault Refusal :=
  s.next (s.dev.run x (.pflush x ra k) (sysWork fun d => (d.pflush x.core.val ra k.toNat, .next)))
def execPbar (x : Ctx) (s : State) : Host.Outcome State Fault Refusal :=
  s.next (s.dev.run x (.pbar x) (sysWork fun d => (d.modCore x.core.val Core.pbar, .next)))

/-! ### Translation invalidation (R89 to R91) -/

/-- TINV: the core's earlier stores first; its own structures at once; then, unless the core is isolated, every other target. At S
the tenant is the current one, and scope All acts as Tenant. -/
def Dev.tinv (d : Dev) (x : Ctx) (ra : RegNo) (scope : TinvScope) : Dev :=
  let c := x.core.val
  let a := d.arch c
  let atS := a.pl == .s
  let v : Tinv := {
    issuer := .core x.core, serial := (d.core c).serial,
    scope := if atS && scope == .all then .tenant else scope,
    operand := a.getG ra,
    tenant := if atS then d.fetchTenant c else (a.getG (nextReg ra)).truncate 16,
    allSets := !atS }
  let d1 := (d.drainStores c).modCore c fun k => k.applyTinv v
  if d1.isolated c then d1
  else d1.modCore c fun k => { k with serial := k.serial + 1, tinvs := k.tinvs ++ [⟨v.serial, d1.tinvTargets c, [], false⟩] }

def tinvWork (x : Ctx) (ra : RegNo) (scope : TinvScope) : Work :=
  { sysWork (fun d => (d.tinv x ra scope, .next)) with
    allow := fun a => atLeast .s a && !(a.strap && a.pl == .s), forbidden := true }

def execTinvPage (x : Ctx) (ra : RegNo) (s : State) : Host.Outcome State Fault Refusal := s.next (s.dev.run x (.tinvPage x ra) (tinvWork x ra .page))
def execTinvRange (x : Ctx) (ra : RegNo) (s : State) : Host.Outcome State Fault Refusal := s.next (s.dev.run x (.tinvRange x ra) (tinvWork x ra .range))
def execTinvSegment (x : Ctx) (ra : RegNo) (s : State) : Host.Outcome State Fault Refusal :=
  s.next (s.dev.run x (.tinvSegment x ra) (tinvWork x ra .segment))
def execTinvTenant (x : Ctx) (ra : RegNo) (s : State) : Host.Outcome State Fault Refusal :=
  s.next (s.dev.run x (.tinvTenant x ra) (tinvWork x ra .tenant))
def execTinvAll (x : Ctx) (ra : RegNo) (s : State) : Host.Outcome State Fault Refusal := s.next (s.dev.run x (.tinvAll x ra) (tinvWork x ra .all))

/-- TSYNC waits while a target of the core's earlier broadcasts has not acknowledged (R91); a dropped target is reported once (log entry 113). -/
def Dev.tsync (d : Dev) (c : Nat) (ra : RegNo) : Dev × Ret :=
  let l := (d.core c).tinvs
  if l.any fun t => !t.targets.isEmpty then (d, .stay)
  else (d.modCore c fun k => { k with tinvs := [], arch := k.arch.setG ra (if l.any (·.dropped) then 1 else 0) }, .next)

def execTsync (x : Ctx) (ra : RegNo) (s : State) : Host.Outcome State Fault Refusal :=
  s.next (s.dev.run x (.tsync x ra) { sysWork (fun d => d.tsync x.core.val ra) with allow := atLeast .s, forbidden := true })

/-! ### Range operations (R92 to R94) -/

def Dev.rangeStatus (d : Dev) (c busy err lines : Nat) : Dev :=
  d.setReg (.coreRangeStatus c) (BitVec.ofNat 64 (busy * 2 ^ 63 + err * 2 ^ 56 + min lines 0xFFFFFFFF))

/-- CRNG starts, or waits for the operation in progress. `next` is the first line's address and `stop` the number of lines. -/
def Dev.crngStart (d : Dev) (c : Nat) (ra : RegNo) (op : RangeOp) : Dev × Ret :=
  let a := d.arch c
  if (d.core c).crng.isSome then (d, .stay) else
  let d1 := d.drainStores c
  let len := (a.getG (nextReg ra)).toNat
  if len = 0 then (d1.rangeStatus c 0 0 0, .next)
  else if 2 ^ 38 < len then (d1.rangeStatus c 0 3 0, .next)
  else
    let ea := a.getG ra
    let r : Crng := { op := op, next := ea &&& ~~~ (63 : Word), stop := (ea.toNat % 64 + len + 63) / 64, level := a.pl,
                      segtab := (d.segtabOf c a.pl).2, mxlate := a.mxlate, poison := false }
    ((d1.modCore c fun k => { k with crng := some r }).rangeStatus c 1 0 0, .next)

def crngWork (x : Ctx) (ra : RegNo) (op : RangeOp) (l : Level) : Work :=
  { sysWork (fun d => d.crngStart x.core.val ra op) with allow := atLeast l, forbidden := true }

def execClean (x : Ctx) (ra : RegNo) (s : State) : Host.Outcome State Fault Refusal := s.next (s.dev.run x (.clean x ra) (crngWork x ra .clean .s))
def execFlush (x : Ctx) (ra : RegNo) (s : State) : Host.Outcome State Fault Refusal := s.next (s.dev.run x (.flush x ra) (crngWork x ra .flush .s))
def execDiscard (x : Ctx) (ra : RegNo) (s : State) : Host.Outcome State Fault Refusal :=
  s.next (s.dev.run x (.discard x ra) (crngWork x ra .discard .h))
def execPrefetch (x : Ctx) (ra : RegNo) (s : State) : Host.Outcome State Fault Refusal :=
  s.next (s.dev.run x (.prefetch x ra) (crngWork x ra .prefetch .s))

/-- The latest data of a line goes to memory; the last-level cache's copy of it, if any, has that data and is clean. -/
def Dev.writeClean (d : Dev) (n ln : Nat) (x : Line) (key : BitVec 11) (poison : Bool) : Dev × Bool :=
  let (d1, er) := d.memWrite ln x fullMask key poison
  (d1.modSlice n fun s => { s with llc := s.llc.map fun (f : LlcLine) =>
    if f.line == ln then { f with data := x, key := key, poison := poison, dirty := false } else f }, er || poison)

/-- The copies of a line in L2s answer a snoop of the range engine, which waits at the home as a request does (R165). -/
def Dev.rangeSnoop (d : Dev) (n ln : Nat) (k : SnoopKind) : Dev × SnoopAns :=
  let d0 := (if d.mustWait .iow ln then d.wait else d).makeRoom
  match (d0.slice n).dirEntry ln with
  | some e => d0.snoopAll { d0.packetTo (.io 0) (ln * 64) 0 0 0 0 false with src := sliceNode n } e.holders none k e.excl
  | none => (d0, SnoopAns.none)

/-- A dirty copy of a line, wherever it is, is written to memory; copies stay, but for a line that another socket homes, which its owner writes back
(log entry 21). True when a poisoned line or an error is met. A clean copy of an owner leaves the last-level cache's dirty one the latest. -/
def Dev.cleanLine (d : Dev) (ln : Nat) : Dev × Bool :=
  let (n, set) := d.home ln
  let owned := ((d.slice n).dirEntry ln).filter (·.excl)
  let away := d.homedAway ln
  let (d1, r) := d.rangeSnoop n ln (if owned.isNone then .peek else if away then .inval else .share)
  if r.lost then (d1.markLost ln, true) else
  if away then match owned, r.held with
    | some _, some b => (d1.homeEvict n set (.io 0) b.core ln b.line.key b.line.data (b.line.st == Mesi.modified) b.line.poison, b.line.poison)
    | _, _ => (d1, r.held.any (·.line.poison))
  else
  let d1 := match owned with
    | some e => d1.setDir n { e with excl := false }
    | none => d1
  match r.held.filter fun b => b.line.st == Mesi.modified || b.line.poison with
  | some b => if owned.isSome then d1.writeClean n ln b.line.data b.line.key b.line.poison else (d1, true)
  | none => match (d1.slice n).llcLine ln with
    | some v => if v.dirty || v.poison then d1.writeClean n ln v.data v.key v.poison else (d1, false)
    | none => (d1, false)

/-- Every cached copy of a line is removed without write-back. True when one of them was poisoned. -/
def Dev.dropLine (d : Dev) (ln : Nat) : Dev × Bool :=
  let (n, _) := d.home ln
  let (d1, r) := d.rangeSnoop n ln .inval
  ((d1.dropLlc n ln).dropDir n ln, r.held.any (·.line.poison) || ((d1.slice n).llcLine ln).any (·.poison))

/-- One line of a range operation. -/
def Dev.rangeLine (d : Dev) (c ln : Nat) (op : RangeOp) (key : BitVec 11) : Dev × Bool :=
  match op with
  | .clean => d.cleanLine ln
  | .flush => let (d1, bad) := d.cleanLine ln
              let (d2, left) := d1.dropLine ln
              (d2, bad || left)
  | .discard => d.dropLine ln
  | .prefetch => let (d1, g) := d.l2Read c ln key
                 (d1, g.poison || g.err)

/-- The operation's lines in ascending order: the device after it, ERR, LINES. -/
def Dev.rangeRun (d : Dev) (c : Nat) (r : Crng) : Nat → Nat → Bool → Dev × Nat × Nat
  | 0, done, bad => (d, if bad then 4 else 0, done)
  | n + 1, done, bad =>
    let ea := r.next + BitVec.ofNat 64 (done * 64)
    match d.translate c r.level r.mxlate r.segtab false ea (if r.op = .discard then .store else .load) with
    | (d1, .fault _) => (d1, 1, done)
    | (d1, .poison _) => (d1, 5, done)
    | (d1, .ok t) =>
      if t.device || deviceRange t.pa then (d1, 2, done)
      else if inSpad t.pa then d1.rangeRun c r n (done + 1) bad
      else
        let (d2, b) := d1.rangeLine c (t.pa / 64) r.op t.key
        d2.rangeRun c r n (done + 1) (bad || b || !d1.frameOk t.pa)

/-- CRNG_COMPLETE: the operation in progress takes effect, and its status is final before BUSY clears (R63, R93). -/
def Dev.crngEnd (d : Dev) (c : Nat) : Dev :=
  match (d.core c).crng with
  | none => d
  | some r =>
    if !d.isOn c then d else
    let (d1, err, lines) := d.rangeRun c r r.stop 0 r.poison
    (d1.modCore c fun k => { k with crng := none }).rangeStatus c 0 err lines

def execCrngComplete (c : CoreId) (s : State) : Host.Outcome State Fault Refusal := s.done (s.dev.crngEnd c.val)

/-! ### ZMARK (R95, R286) -/

/-- Zeros every line of a granule of DRAM: cached copies are discarded and the home channel's zero map is set. -/
def Dev.zmarkAt (d : Dev) (c pa : Nat) (key : BitVec 11) : Dev :=
  let g := pa / 4096
  let drop := fun (x : Dev) => (List.range 64).foldl (fun y i => ((y.dropLine (g * 64 + i)).1.noteOutside none (g * 64 + i))) x
  let lost := fun (x : Dev) => x.report (.error c 0x08 c (some (g * 4096)) (x.lcore? c) 0)
  match d.place (g * 4096) with
  | .dram ch _ => if d.chanFailed ch then lost d else ((drop d).wake (domOfChan ch)).mcZero ch g
  | .remote s => if d.sockUp s then (drop d).farZero g else lost d
  | .nothing => lost d
  | _ => (List.range 64).foldl (fun y i => (y.pushStore c (g * 4096 + i * 64) (List.replicate 64 0) key)) d

/-- ZMARK: a trap of it names the granule's first byte, the lowest that it would write (R43). -/
def Dev.zmark (d : Dev) (c : Nat) (ra : RegNo) : Dev × Ret :=
  let ea := (d.arch c).getG ra
  match d.resolve c .store 4096 true [ea &&& ~~~ (0xFFF : Word)] with
  | (d1, .inl s) => (d1, .stop s)
  | (d1, .inr ps) => match ps with
    | [] => (d1, .next)
    | p :: _ => ((d1.drainStores c).zmarkAt c p.pa p.key, .next)

def execZmark (x : Ctx) (ra : RegNo) (s : State) : Host.Outcome State Fault Refusal :=
  s.next (s.dev.run x (.zmark x ra) { sysWork (fun d => d.zmark x.core.val ra) with forbidden := true })

/-! ### Events of one core -/

/-- UNDEFINED_OPERATION (R52): a word that no rule gives an instruction is executed; a word that one has is not this event. -/
def Dev.undefinedOp (d : Dev) (c : CoreId) (w : Word32) : Dev :=
  if !d.canIssue c.val || (decodeWord c w).isSome then d else
  if (d.core c.val).runAhead.isSome then d else
  match (if (d.stitching c.val).isSome then none else d.accepted c.val) with
  | some (v, code) => d.takeInterrupt c.val v code
  | none => match d.fetch c.val with
    | (d1, .inl q) => d1.raise c.val q
    | (d1, .inr _) => d1.raise c.val ⟨0, 0, 0, (d.arch c.val).pc, w⟩

def execUndefinedOperation (c : CoreId) (w : Word32) (s : State) : Host.Outcome State Fault Refusal := s.done (s.dev.undefinedOp c w)

/-- A core that interrupts can reach: On, running or waiting, not in run-ahead, not held by a panel; a routine that a RETI has resumed runs its
saved microword first (R123). -/
def Dev.interruptible (d : Dev) (c : Nat) : Bool :=
  let k := d.core c
  d.isOn c && k.run != .stopped && !k.hardFault && k.runAhead.isNone && k.routine.isNone &&
    match k.member with
    | some m => m.phase == .named || m.phase == .suspended || m.phase == .orphan
    | none => true

/-- INTERRUPT (R40): a pending interrupt that is accepted is taken before the next instruction. -/
def Dev.interrupt (d : Dev) (c : Nat) : Dev :=
  if !d.interruptible c then d else
  match d.accepted c with
  | some (v, code) => d.takeInterrupt c v code
  | none => d

/-- VIRTUAL_INTERRUPT (R372): vector 0x11, where it is pending and accepted. -/
def Dev.virtualInterrupt (d : Dev) (c : Nat) : Dev :=
  if !d.interruptible c || !(d.arch c).accepts 0x11 then d else
  match d.vpPending c with
  | some v => d.takeInterrupt c 0x11 v
  | none => d

def execInterrupt (c : CoreId) (s : State) : Host.Outcome State Fault Refusal := s.done (s.dev.interrupt c.val)
def execVirtualInterrupt (c : CoreId) (s : State) : Host.Outcome State Fault Refusal := s.done (s.dev.virtualInterrupt c.val)

/-- WFE_WAKE (R83): a wait ends for a reason that holds. -/
def Dev.wfeWake (d : Dev) (c : Nat) (why : WakeReason) : Dev :=
  match (d.core c).run with
  | .waiting until? =>
    let holds := match why with
      | .interrupt => d.anyInterrupt c
      | .time => (match until? with
        | some t => decide (t.toNat ≤ d.time.toNat)
        | none => false)
      | .unstated => true
    if holds then (d.wake c).modCore c fun k => { k with run := .running } else d
  | _ => d

def execWfeWake (c : CoreId) (why : WakeReason) (s : State) : Host.Outcome State Fault Refusal := s.next (s.dev.wfeWake c.val why)

/-- A load or an atomic: its guard, the kind of its access, effective addresses, the width of each access, and its destination register. -/
def loadInfo (a : Arch) (i : Instr) : Option (Guard × AccKind × List Word × Nat × Nat) :=
  match i with
  | .ldb x o | .ldbu x o => some (x.guard, .load, [a.ea o.rs1 o.imm], 1, o.rd.val)
  | .ldh x o | .ldhu x o => some (x.guard, .load, [a.ea o.rs1 o.imm], 2, o.rd.val)
  | .ldw x o | .ldwu x o => some (x.guard, .load, [a.ea o.rs1 o.imm], 4, o.rd.val)
  | .ldd x o => some (x.guard, .load, [a.ea o.rs1 o.imm], 8, o.rd.val)
  | .aaddW x o | .aswpW x o | .acasW x o => some (x.guard, .store, [a.getG o.rs1], 4, o.rd.val)
  | .aaddD x o | .aswpD x o | .acasD x o => some (x.guard, .store, [a.getG o.rs1], 8, o.rd.val)
  | .vld x vd vs1 et => some (x.guard, .load, easUnit (a.getG vs1) et, elemWidth et / 8, vnum vd)
  | .vlds x o => some (x.guard, .load, easStride (a.getG o.vs1) (a.getG o.vs2) o.et, elemWidth o.et / 8, vnum o.vd)
  | .vldb x vd vs1 et => some (x.guard, .load, easSame (a.getG vs1) et, elemWidth et / 8, vnum vd)
  | _ => none

/-- A piece of an access within a page: whether it is normal memory, and whether the line is one that it needs and the L2 lacks. -/
def Dev.pieceMisses (d : Dev) (c : Nat) (kind : AccKind) (line : Nat) (e : Word × Nat) : Bool × Bool :=
  match (d.translateNow c e.1 kind).2 with
  | .ok t =>
    let k := d.core c
    let needs := fun (q : Nat) => decide ((t.pa + q) / 64 = line) && (k.buffered (t.pa + q)).isNone && !k.speculates ((t.pa + q) / 64) && (k.l2Line ((t.pa + q) / 64)).isNone
    (!(t.device || deviceRange t.pa || inSpad t.pa), (List.range e.2).any needs)
  | _ => (false, false)

/-- The destination of the core's oldest instruction, where that is a load or an atomic to normal memory and the line is one of its own that
misses L2 (R113). -/
def Dev.missing (d : Dev) (c line : Nat) : Option Nat :=
  let a := d.arch c
  ((decodeWord (Fin.ofNat 264 c) (d.wordAt c a.pc)).bind (loadInfo a)).bind fun (g, kind, eas, width, dst) =>
    let l := (eas.flatMap fun ea => pieces ea width).map (d.pieceMisses c kind line)
    let aligned := kind != .store || eas.all fun ea => ea.toNat % width == 0
    if Guard.passes a g && aligned && l.all (·.1) && l.any (·.2) then some dst else none

/-- RUN_AHEAD_ENTRY (R113): the oldest instruction has waited for the line; what it would load is marked invalid. -/
def Dev.aheadEnter (d : Dev) (c line : Nat) (ns : Nat) : Dev :=
  let k := d.core c
  let w := d.fld (.corePrefetch c) .CORE_PREFETCH_RA_WAIT
  if d.canIssue c && k.runAhead.isNone && k.routine.isNone && !bitF k.arch.predCtl 2 && decide ((if w = 0 then 4 else w) * 50 ≤ ns) then
    match d.missing c line with
    | some dst => d.modCore c fun q => { q with
        runAhead := some ⟨q.arch, [dst].filter markable, 0⟩, arch := { q.arch with pc := q.arch.pc + 4 } }
    | none => d
  else d

/-- RUN_AHEAD_END (R115). -/
def Dev.aheadLeave (d : Dev) (c : Nat) (why : RunAheadEnd) : Dev :=
  match (d.core c).runAhead with
  | none => d
  | some r =>
    let back := d.endAhead c
    match why with
    | .dataArrived => back
    | .interrupt => if (back.accepted c).isSome then back else d
    | .limit => if 4096 ≤ r.count then back else d

def execRunAheadEntry (c : CoreId) (line ns : Nat) (s : State) : Host.Outcome State Fault Refusal := s.done (s.dev.aheadEnter c.val line ns)
def execRunAheadEnd (c : CoreId) (why : RunAheadEnd) (s : State) : Host.Outcome State Fault Refusal := s.done (s.dev.aheadLeave c.val why)

def detectorCode : Detector → Nat
  | .intResidue => 1 | .fpResidue => 2 | .queueParity => 3 | .regParity => 4 | .l1iParity => 5 | .l1dParity => 6
  | .microParity => 7 | .patchParity => 8

/-- Patch RAM is loaded again from the chief steward's authenticated copy of the patch in force (R116). -/
def Dev.reloadPatch (d : Dev) (c : Nat) : Dev := d.modCore c fun k => { k with patch := Tbl.get [] c d.dict.patches }

/-- TRANSIENT_REPLAY (R116 to R118): counted, and a microcoded instruction restarts; when the third replay in a row fails a check before the
oldest instruction retires, it is a hard fault. -/
def Dev.replay (d : Dev) (c : Nat) (det : Detector) : Dev :=
  if !d.isOn c || (d.core c).run == .stopped || (d.core c).hardFault then d
  else if 3 ≤ (d.core c).replays then d.modCore c fun k => { k with hardFault := true, routine := none }
  else
  let d0 := if det == .patchParity then d.reloadPatch c else d
  let d1 := (d0.countFld (.coreReplay c) .CORE_REPLAY_COUNT 1).setFld (.coreReplay c) .CORE_REPLAY_LASTSRC (detectorCode det)
  d1.modCore c fun k => { k with replays := k.replays + 1, routine := none }

def execTransientReplay (c : CoreId) (det : Detector) (s : State) : Host.Outcome State Fault Refusal := s.next (s.dev.replay c.val det)

/-- A translation that a core's TLBs hold, found without a walk (R106). -/
def Dev.xlateHeld (d : Dev) (c : Nat) (ea : Word) : Option (Nat × BitVec 11) :=
  let a := d.arch c
  if a.pl == .m && !a.mxlate then (if ea.toNat < 2 ^ 52 then some (ea.toNat, 0) else none)
  else
    let k := d.core c
    let (set, segtab) := d.segtabOf c a.pl
    let b : WalkBy := ⟨.core (Fin.ofNat 264 c), set, segtab, a.pl, true, none, true⟩
    let seg := ea.toNat / 2 ^ 48
    let off := ea.toNat % 2 ^ 48
    (k.sdc.find? fun e => e.set == set && e.seg.toNat == seg).bind fun e =>
      ((k.dtlb ++ k.tlb2).find? fun t => t.hits set e.seg e.desc.tenant off && entA t.leaf).bind fun t =>
        if segLast segtab < seg || (leafFault b e.desc .load t.level t.leaf).isSome || entMt t.leaf then none
        else some (t.pa + (off - t.base), e.desc.key)

/-- HARDWARE_PREFETCH (R106): a line of normal memory, in the 4 KiB page of the core's latest load, is brought into L2, and by the stride prefetcher
into L1D, poison and all; nothing else happens. -/
def Dev.hwPrefetch (d : Dev) (c : Nat) (p : Prefetcher) (ea : Word) : Dev :=
  let lvl := d.fld (.corePrefetch c) (match p with
    | .stride => .CORE_PREFETCH_L1_LVL
    | .stream => .CORE_PREFETCH_L2_LVL)
  let near := (d.core c).lastLoad.any fun a => a.toNat / 4096 == ea.toNat / 4096
  if !d.isOn c || (d.core c).run != .running || lvl = 0 || !near then d else
  match d.xlateHeld c ea with
  | some (pa, key) =>
    if deviceRange pa || inSpad pa then d else
    let d1 := (d.l2Read c (pa / 64) key).1
    if p == .stride then d1.fillL1 c (pa / 64) false else d1
  | none => d

def execHardwarePrefetch (c : CoreId) (p : Prefetcher) (ea : Word) (s : State) : Host.Outcome State Fault Refusal :=
  s.done (s.dev.hwPrefetch c.val p ea)

/-- DEBUG_ATTACHMENT (R380, R472): possible while OD 0x8020:00 is 1; it voids the panel of a member (R226). -/
def Dev.debugAttach (d : Dev) (c : Nat) (attach : Bool) : Dev :=
  if !attach then d.modCore c fun k => { k with debug := false }
  else if d.od 0x8020 0 0 != 1 then d
  else
    let d1 := d.modCore c fun k => { k with debug := true }
    match (d1.core c).member with
    | some m => if m.phase != .named && m.phase != .orphan && m.phase != .lost then d1.setFld (.pnlSlot m.slot) .PNL_SLOT_VOID 1 else d1
    | none => d1

def execDebugAttachment (c : CoreId) (attach : Bool) (s : State) : Host.Outcome State Fault Refusal := s.next (s.dev.debugAttach c.val attach)

end Sys2Proof.Machine
end

