-- ==== Sys2Proof/Machine/Panels.lean ====
section
/-! DEFINITION. Panels (R200 to R226): set-up and dissolution, rows, commit and frogging, the boundary step with its gates, ending
accesses and interrupts, and the journal in record mode and in playback. -/

namespace Sys2Proof.Machine

/-! ### Set-up (R201 to R203) -/

/-- The request block: its double-words, and whether a field is out of range or a reserved bit set. -/
structure Request where
  nmemb    : Nat
  limlog   : Nat
  ngate    : Nat
  playback : Bool
  record   : Bool
  jbase    : Nat
  jlog     : Nat
  members  : List Nat
  gates    : List (Word × Word × Word × Word)
  bad      : Bool
deriving DecidableEq, Repr

def parseRequest (b : List Byte) : Request :=
  let w0 := dwOf b 0
  let w1 := dwOf b 8
  let w2 := dwOf b 0x10
  let nm := getF w0 ⟨47, 40⟩
  let ng := getF w0 ⟨11, 8⟩
  let ll := getF w0 ⟨36, 32⟩
  let pb := bitF w0 1
  let rc := bitF w0 0
  let zero := fun (o n : Nat) => ((b.drop o).take n).all (· == 0)
  let gate := fun (g : Nat) => (dwOf b (0x80 + g * 0x20), dwOf b (0x88 + g * 0x20), dwOf b (0x90 + g * 0x20), dwOf b (0x98 + g * 0x20))
  let jl := getF w2 ⟨4, 0⟩
  { nmemb := nm, limlog := ll, ngate := ng, playback := pb, record := rc, jbase := getF w1 ⟨51, 12⟩ * 4096, jlog := jl,
    members := ((b.drop 0x40).take nm).map (·.toNat),
    gates := (List.range ng).map gate,
    bad := decide (nm < 2) || decide (64 < nm) || decide (ll < 12) || decide (20 < ll) || decide (8 < ng) || (pb && rc) ||
      (w0 &&& ~~~ 0x0000FF1F00000F03) != 0 || (w1 &&& ~~~ 0x000FFFFFFFFFF000) != 0 || (w2 &&& ~~~ 0x1F) != 0 ||
      ((pb || rc) && (decide (jl < 7) || decide (24 < jl))) ||
      !zero 0x18 0x28 || !zero (0x40 + nm) (0x40 - nm) || !zero (0x80 + ng * 0x20) (0x180 - (0x80 + ng * 0x20)) }

/-- Memory that an enabled decoder entry covers. -/
def Dev.decoded (d : Dev) (pa : Nat) : Bool := !deviceRange pa && !inSpad pa && (d.decoder pa).isSome
/-- Normal memory: DRAM, CXL.mem or a scratchpad window. -/
def Dev.normalAt (d : Dev) (pa : Nat) : Bool := decide (pa < 2 ^ 52) && !deviceRange pa && d.place pa != .nothing

/-- A gate descriptor passes R219. -/
def Dev.gateOk (d : Dev) (g : Word × Word × Word × Word) : Bool :=
  let src := getF g.1 ⟨51, 12⟩ * 4096
  let dst := getF g.2.1 ⟨51, 12⟩ * 4096
  let glog := getF g.2.2.1 ⟨4, 0⟩
  (g.1 &&& ~~~ 0x000FFFFFFFFFF000) == 0 && (g.2.1 &&& ~~~ 0x000FFFFFFFFFF000) == 0 && (g.2.2.1 &&& ~~~ 0xFF1F) == 0 && g.2.2.2 == 0 &&
    d.normalAt src && d.normalAt dst && getF g.2.2.1 ⟨15, 8⟩ != 0 && decide (6 ≤ glog) && decide (glog ≤ 16)

/-- The status of a request (R202), its checks in the order of the table; 0 with the slot when it passes. -/
def Dev.panelStatus (d : Dev) (r : Request) : Nat × Nat :=
  let cores := r.members.map d.phys
  if r.bad then (2, 0)
  else if cores.any (·.isNone) || r.members.eraseDups.length != r.members.length ||
      cores.any fun c => d.fld (.corePnl (c.getD 0)) .CORE_PNL_CKSLICE == 0xFF then (3, 0)
  else if cores.any fun c => (d.core (c.getD 0)).member.isSome then (4, 0)
  else if (r.record || r.playback) && !d.decoded r.jbase then (5, 0)
  else if r.gates.any fun g => !d.gateOk g then (6, 0)
  else match (List.range 16).find? fun s => d.slotState s == 0 with
    | none => (1, 0)
    | some s => (0, s)

def Member.fresh (s i : Nat) : Member :=
  { slot := s, index := i, phase := .named, count := 0, limit := 0, retry := false, frogrun := 0, cause := .limit, access := .none,
    word := 0, overlay := [], readSig := 0, fetchSig := 0, saved := Arch.reset, first := none, firstIntr := [], trap := none, intr := [],
    endAt := none, due := none, held := [], ends := [], replaying := false, resumed := false }

/-- The slot's record of an earlier panel is cleared, and the slot is FORMING (R203). -/
def Dev.setUp (d : Dev) (r : Request) (s : Nat) : Dev :=
  let d1 := (d.setReg (.pnlSlot s) 0).setFlds (.pnlSlot s) [(.PNL_SLOT_STATE, 1), (.PNL_SLOT_RECORD, bitNat r.record),
    (.PNL_SLOT_PLAYBACK, bitNat r.playback), (.PNL_SLOT_NMEMB, r.nmemb), (.PNL_SLOT_LIMLOG, r.limlog)]
  let d2 := (d1.setReg (.pnlStat s) 0).setReg (.pnlJrnl s) 0
  let d3 := (List.range 8).foldl (fun x g => (x.setReg (.pnlGpost s g) 0).setReg (.pnlGstat s g) 0) d2
  let gates := r.gates.map fun g => (⟨getF g.1 ⟨51, 12⟩ * 4096, getF g.2.1 ⟨51, 12⟩ * 4096, getF g.2.2.1 ⟨15, 8⟩, getF g.2.2.1 ⟨4, 0⟩⟩ : Gate)
  let d4 := d3.modPanel s fun _ => { Panel.reset with members := r.members, gates := gates, jbase := r.jbase, jlog := r.jlog }
  r.members.zipIdx.foldl (fun x p => match x.phys p.1 with
    | some c => x.modCore c fun k => { k with member := some (Member.fresh s p.2) }
    | none => x) d4

/-- PSETUP (R96, R201, R202). -/
def Dev.psetup (d : Dev) (c : Nat) (ra : RegNo) : Dev × Ret :=
  let pa := (d.arch c).getG ra
  let answer := fun (x : Dev) (n : Nat) => (x.modArch c fun a => a.setG ra (BitVec.ofNat 64 n), Ret.next)
  if pa.toNat % 64 ≠ 0 ∨ !d.normalAt pa.toNat ∨ !d.normalAt (pa.toNat + 0x17F) then answer d 2 else
  match d.readNormal c 0 8 pa.toNat 0x180 0 with
  | (d1, _, some (o, code)) => (d1, .stop (.trap 9 code (pa + BitVec.ofNat 64 o)))
  | (d1, b, none) =>
    let r := parseRequest b
    match d1.panelStatus r with
    | (0, s) => answer (d1.setUp r s) (s * 256)
    | (n, _) => answer d1 n

def execPsetup (x : Ctx) (ra : RegNo) (s : State) : Host.Outcome State Fault Refusal :=
  s.next (s.dev.run x (.psetup x ra) { sysWork (fun d => d.psetup x.core.val ra) with allow := atLeast .h, forbidden := true })
def execStbnd (x : Ctx) (s : State) : Host.Outcome State Fault Refusal := s.next (s.dev.run x (.stbnd x) (sysWork fun d => (d, .endStitch)))

/-- LTIME (R97): outside a panel, all ones; a suspended member executes outside its panel (R217). -/
def Dev.ltime (d : Dev) (c : Nat) : Word :=
  match d.inPanel c with
  | some m => d.point m.slot m.index m.count
  | none => BitVec.allOnes 64
def execLtime (x : Ctx) (ra : RegNo) (s : State) : Host.Outcome State Fault Refusal :=
  s.next (s.dev.run x (.ltime x ra) (sysWork fun d => (d.modArch x.core.val fun a => a.setG ra (d.ltime x.core.val), .next)))

/-! ### Playback -/

/-- Playback ends as a divergence (R224), which voids the guarantee. -/
def Dev.diverge (d : Dev) (s : Nat) : Dev :=
  d.setFlds (.pnlSlot s) [(.PNL_SLOT_PLAYBACK, 0), (.PNL_SLOT_DIVERGED, 1), (.PNL_SLOT_VOID, 1)]

/-! ### Commit and frogging (R213 to R216) -/

/-- An outside write hit the stitch. -/
def Member.touched (m : Member) (lines : List Nat) : Bool :=
  lines.any fun ln => (m.overlay.any fun (x : Nat × SpecLine) => x.1 == ln) || sigTest m.readSig ln || sigTest m.fetchSig ln

/-- One committed line: the core owns it and its speculative data becomes visible; to members of other panels this is an outside
write. A write that meets an error response is dropped and recorded (R447). -/
def Dev.commitLine (d : Dev) (c s ln : Nat) (x : SpecLine) : Dev :=
  let (d1, er) := d.l2Own c ln x.key
  if er then d1.report (.error c 0x08 c (some (ln * 64)) (d1.lcore? c) 0)
  else (d1.modCore c fun k => { k with l2 := k.l2.map fun (e : L2Line) => if e.line == ln then { e with data := x.data, key := x.key, poison := x.poison } else e }).noteOutside (some s) ln

def Dev.commitMember (d : Dev) (s c : Nat) (m : Member) : Dev :=
  let lines := m.overlay.map fun (x : Nat × SpecLine) => x.1
  let d1 := m.overlay.foldl (fun x (e : Nat × SpecLine) => x.commitLine c s e.1 e.2) d
  ((d1.modPanel s fun p => { p with wset := p.wset ++ lines.filter fun ln => !p.wset.contains ln }).modMember c fun m =>
    { m with phase := .committed, retry := false, frogrun := 0, overlay := [] }).commitEnds c m

/-- A frog (R213, R215): the speculative lines are dropped and the checkpoint restored; the eighth in a row raises NO_PROGRESS at
the start of a new stitch, before any interrupt: those that began the stitch are pending again (R41). -/
def Dev.frogMember (d : Dev) (s c : Nat) (m : Member) (cause : Nat) : Dev :=
  let run := m.frogrun + 1
  let e := jent (d.point s m.index m.count) 6 cause run 0 0
  let d1 := (d.giveEnds c).modPanel s fun p => { p with jrnl := p.jrnl ++ [e] }
  let d2 := (d1.countFld (.pnlStat s) .PNL_STAT_FROGS 1).countFld (.corePnlStat c) .CORE_PNL_STAT_FROGS 1
  let d3 := if cause = 2 then (d2.countFld (.pnlStat s) .PNL_STAT_OUTFROG 1).voidSlot s else d2
  let last := decide (8 ≤ run)
  let d4 := if last && !d.playing s then m.firstIntr.foldl (fun x e => if e.1 = 0x11 then x.vpGive c e.2 else x) d3 else d3
  (d4.modCore c fun k => { k with arch := m.saved, routine := none }).modMember c fun m => { m with
    phase := .committed, retry := !last, frogrun := if last then 0 else run, overlay := [], access := .none, trap := m.first,
    due := if m.cause == .interrupt && !last then some (d.arch c) else none,
    intr := if last then [(0x0A, 3)] else m.firstIntr }

/-- A member of a broken panel takes MEMBER_LOST and has left the panel (R227, R233). It comes before every entry that would have begun the next
stitch (R41): a trapping instruction or a call is executed again after it, and an interrupt stays pending (log entry 110). -/
def Dev.takeLost (d : Dev) (c : Nat) (m : Member) : Dev :=
  if m.phase == .suspended || m.phase == .named || m.phase == .orphan then d else
  let d0 := d.endAhead c
  let d1 := if d0.playing m.slot then d0 else m.intr.foldl (fun x e => if e.1 = 0x11 then x.vpGive c e.2 else x) d0
  let again := m.trap.any fun q => q.vector == 7 || q.vector == 8
  let d2 := (d1.leavePanel c).modArch c fun a => { a with pc := if again then a.pc - 4 else a.pc }
  d2.trapEntry c ⟨0x0A, 4, 0, (d2.arch c).pc, 0⟩ none

/-- The first member, in index order, whose retry is still to be committed in this row: a suspended one among them, which begins its retry when it
returns. -/
def Dev.nextRetry (d : Dev) (s : Nat) : Option (Nat × Member) :=
  (d.memberCores s).findSome? fun c => (d.core c).member.bind fun m =>
    if m.retry && (m.phase == .waitRetry || m.phase == .running || m.phase == .ended || m.phase == .suspended) then some (c, m) else none

/-- A core with a hard fault from which the chief steward recovers, or is to choose how: its member's place in the row waits (R231). -/
def Dev.down (d : Dev) (c : Nat) : Bool := (d.core c).hardFault || (d.core c).recovery.isSome

/-- Every member that is no retry has ended its stitch, or is done with the row. -/
def Dev.allEnded (d : Dev) (s : Nat) : Bool :=
  (d.memberCores s).all fun c => match (d.core c).member with
    | some m => (m.phase == .ended && !d.down c) || m.phase == .committed
    | none => true

/-- As much of row(r) of R213 as the stitches' ends allow: retries one after another, then the other members together. -/
def Dev.rowAdvance (s : Nat) : Nat → Dev → Dev
  | 0, d => d
  | n + 1, d =>
    match d.nextRetry s with
    | some (c, m) =>
      if m.phase == .running || m.phase == .suspended || d.down c then d
      else if m.phase == .waitRetry then d.beginStitch s c
      else Dev.rowAdvance s n (if m.touched (d.panel s).outside then d.frogMember s c m 2 else d.commitMember s c m)
    | none =>
      if !d.allEnded s then d else
      let d1 := d.forMembers s fun x c m =>
        if m.phase != .ended then x
        else if m.touched (x.panel s).outside then x.frogMember s c m 2
        else if m.touched (x.panel s).wset then x.frogMember s c m 1
        else x.commitMember s c m
      if d1.slotState s = 4 then (d1.forMembers s fun x k q => x.takeLost k q).modPanel s fun p => { p with phase := .idle }
      else d1.modPanel s fun p => { p with phase := .committed }

/-- ROW_COMMIT (R213). -/
def Dev.rowCommit (d : Dev) (s : Nat) : Dev := if (d.panel s).phase == .stitches then Dev.rowAdvance s 65 d else d

/-- A row begins: every member that is no retry and not suspended starts its stitch, and so does the first retry. -/
def Dev.startRow (d : Dev) (s : Nat) : Dev :=
  let d0 := d.modPanel s fun p => { p with phase := .stitches, wset := [], outside := [], jrnl := [], sreplays := [] }
  let d1 := d0.forMembers s fun x c m =>
    if m.phase == .suspended then x
    else if m.retry then x.modMember c fun q => { q with phase := .waitRetry }
    else x.beginStitch s c
  match d1.nextRetry s with
  | some (c, m) => if m.phase == .waitRetry then d1.beginStitch s c else d1
  | none => d1

/-- A row whose number is set begins; in playback it waits until its recorded entries are all there (R222, log entry 78), and a row waits for
a member whose core recovers. -/
def Dev.beginRow (d : Dev) (s : Nat) : Dev :=
  if (d.memberCores s).any d.down then d else
  let (d1, r) := if d.playing s then d.scan s (d.row s) else (d, ⟨[], 0, false, true⟩)
  if r.bad || r.whole then d1.startRow s else d1

/-- PANEL_START (R203): row 0 begins once every member has entered. -/
def Dev.panelStart (d : Dev) (s : Nat) : Dev :=
  let cs := d.memberCores s
  if d.slotState s = 1 ∧ cs.length = (d.panel s).members.length ∧
      (cs.all fun c => match (d.core c).member with
        | some m => m.phase == .entered
        | none => false) = true then
    ((d.setFld (.pnlSlot s) .PNL_SLOT_STATE 2).modPanel s fun p => { p with phase := .starting }).beginRow s
  else d

/-- The survivors of a broken panel end the row where they stand, run-ahead first (R115), and commit it without the lost member (R233). A member
whose core recovers has its checkpoint, and one that is suspended is out of the row. -/
def Dev.endBroken (d : Dev) (s : Nat) : Dev :=
  let d1 := d.forMembers s fun x c m => if m.phase == .suspended then x.modMember c fun q => { q with phase := .orphan } else x
  if (d1.panel s).phase != .stitches then d1.forMembers s fun x c m => x.takeLost c m else
  Dev.rowAdvance s 65 (d1.forMembers s fun x c m =>
    if x.down c && (m.phase == .running || m.phase == .ended) then
      ((x.giveEnds c).modCore c fun k => { k with arch := m.saved }).modMember c fun q => { q with phase := .committed, overlay := [], trap := m.first, intr := m.firstIntr }
    else if m.phase == .running then (x.endAhead c).endStitch c .interrupt
    else if m.phase == .waitRetry then x.modMember c fun q => { q with phase := .committed } else x)

/-- PDISSOLVE (R204). -/
def Dev.pdissolve (d : Dev) (c : Nat) (ra : RegNo) : Dev × Ret :=
  let s := ((d.arch c).getG ra).toNat % 16
  let answer := fun (x : Dev) (n : Nat) => (x.modArch c fun a => a.setG ra (BitVec.ofNat 64 n), Ret.next)
  match d.slotState s with
  | 0 => answer d 7
  | 1 => answer ((d.forMembers s fun x k _ => x.leavePanel k).freeSlot s) 0
  | 4 => answer (((d.endBroken s).forMembers s fun x k _ => x.leavePanel k).freeSlot s) 0
  | 2 => answer (d.setFld (.pnlSlot s) .PNL_SLOT_STATE 3) 0
  | _ => answer d 8

def execPdissolve (x : Ctx) (ra : RegNo) (s : State) : Host.Outcome State Fault Refusal :=
  s.next (s.dev.run x (.pdissolve x ra) { sysWork (fun d => d.pdissolve x.core.val ra) with allow := atLeast .h, forbidden := true })

/-- STITCH_END (R206): a stitch ends between instructions, for an interrupt that R40 accepts. Run-ahead ends first (R115). -/
def Dev.stitchEndEvent (d : Dev) (c : Nat) : Dev :=
  match d.stitching c with
  | none => d
  | some m =>
    let d1 := d.endAhead c
    match d1.stitchDone c m with
    | some why => d1.endStitch c why
    | none => d

/-! ### The boundary step (R218) -/

/-- The slot and offset within its gate page of an address, if it lies in one (R238). -/
def Dev.gatePage (d : Dev) (pa : Nat) : Option (Nat × Nat) :=
  match d.place pa with
  | .control n o => if n = d.socket ∧ 0x9100000 ≤ o ∧ o < 0x9110000 then some ((o - 0x9100000) / 0x1000, (o - 0x9100000) % 0x1000) else none
  | _ => none

/-- Reads an entry of a gate's source ring, with any poison; none on an error response. -/
def Dev.gateRead (d : Dev) (pa : Nat) : Dev × Option (Line × Bool) :=
  let (d1, b, p, e) := d.readBytes evAgent 0 2 pa 64
  (d1, if e then none else some (lineOfBytes b, p))
/-- Writes an entry into a gate's destination ring; it is no outside write for the slot (R220). -/
def Dev.gateWrite (d : Dev) (s pa : Nat) (x : Line) (poison : Bool) : Dev :=
  let before := (d.panel s).outside
  let d1 := match d.place pa with
    | .spad n w o => (d.spadSave evAgent n w o (bytesOfLine x)).1
    | .remoteSpad _ => (d.farSave evAgent pa (bytesOfLine x)).1
    | _ => (d.ioW evAgent (pa / 64) x fullMask 0 poison).1
  d1.modPanel s fun p => { p with outside := before }

/-- Copies up to `n` entries from index `i`; the number copied and their halves as GDATA entries. -/
def Dev.gateCopy (d : Dev) (s : Nat) (g : Gate) : Nat → Nat → Dev × Nat × List JEntry
  | 0, _ => (d, 0, [])
  | n + 1, i =>
    let o := i % 2 ^ g.glog * 64
    match d.gateRead (g.src + o) with
    | (d1, none) => (d1, 0, [])
    | (d1, some (x, p)) =>
      let b := bytesOfLine x
      let (d2, k, l) := (d1.gateWrite s (g.dst + o) x p).gateCopy s g n (i + 1)
      (d2, k + 1, ⟨dwOf b 0, dwOf b 8, dwOf b 16, dwOf b 24⟩ :: ⟨dwOf b 32, dwOf b 40, dwOf b 48, dwOf b 56⟩ :: l)

/-- The entries that a gate admits (R220). -/
def Dev.gateRoom (d : Dev) (s gi : Nat) (g : Gate) : Nat :=
  let head_ := d.fld (.pnlGstat s gi) .PNL_GSTAT_ADMIT
  let used := idxLevel head_ (d.fld (.pnlGstat s gi) .PNL_GSTAT_TAIL)
  min (idxLevel (d.fld (.pnlGpost s gi) .PNL_GPOST_POST) head_) (min g.maxAdm (if 2 ^ g.glog < used then 0 else 2 ^ g.glog - used))

/-- Step 1 for one gate, live: its GATE entry and GDATA entries. -/
def Dev.gateLive (d : Dev) (s gi : Nat) (g : Gate) : Dev × List JEntry :=
  let head_ := d.fld (.pnlGstat s gi) .PNL_GSTAT_ADMIT
  let (d1, n, l) := d.gateCopy s g (d.gateRoom s gi g) head_
  if n = 0 then (d1, []) else (d1.wrapFld (.pnlGstat s gi) .PNL_GSTAT_ADMIT n, jent (d.point s 0 0) 4 gi n (BitVec.ofNat 64 head_) 0 :: l)

/-- Step 1 for one gate in playback: the recorded entries are admitted. -/
def Dev.gatePlay (d : Dev) (s gi : Nat) (g : Gate) (items : List JItem) : Dev :=
  match items.find? fun j => jType j.e == 4 && jSub j.e == gi with
  | none => d
  | some j =>
    let head_ := d.fld (.pnlGstat s gi) .PNL_GSTAT_ADMIT
    let half := fun (e : JEntry) => leBytes 8 e.b0.toNat ++ leBytes 8 e.b1.toNat ++ leBytes 8 e.b2.toNat ++ leBytes 8 e.b3.toNat
    let d1 := (List.range (jAux j.e)).foldl (fun x i =>
      match j.data[2 * i]?, j.data[2 * i + 1]? with
      | some lo, some hi => x.gateWrite s (g.dst + (head_ + i) % 2 ^ g.glog * 64) (lineOfBytes (half lo ++ half hi)) false
      | _, _ => x) d
    d1.wrapFld (.pnlGstat s gi) .PNL_GSTAT_ADMIT (jAux j.e)

def log2Size (n : Nat) : Nat := if n ≤ 1 then 0 else if n ≤ 2 then 1 else if n ≤ 4 then 2 else 3

/-- A member is suspended: its trap entry is performed outside the panel (R217). -/
def Dev.suspend (d : Dev) (s c : Nat) (m : Member) (q : TrapReq) : Dev × List JEntry :=
  let lvl := (d.arch c).target q
  ((d.modMember c fun m => { m with phase := .suspended, trap := none, access := .none }).trapEntry c q none,
    [jent (d.point s m.index m.count) 8 (if lvl == .h then 2 else 3) 0 0 0])

/-- Accesses to device memory and scratchpad windows other than gate pages are counted, each, and void the guarantee (R226, R240). -/
def Dev.noteAccess (d : Dev) (s : Nat) (ps : List Part) : Dev :=
  match (ps.filter fun p => inSpadOrDev p && (d.gatePage p.pa).isNone).length with
  | 0 => d
  | n => (d.countFld (.pnlStat s) .PNL_STAT_DEVACC n).voidSlot s

/-- The instruction of an ending access retires. -/
def Dev.accessDone (d : Dev) (c : Nat) : Dev := (d.modArch c fun a => { a with pc := a.pc + 4 }).modMember c fun m => { m with access := .none }
/-- It takes a trap instead, whose entry begins the next stitch, or suspends the member at once; no read is journalled (log entry 117). -/
def Dev.accessTrap (d : Dev) (s c : Nat) (m : Member) (v code : Nat) (ea : Word) : Dev × List JEntry :=
  let q : TrapReq := ⟨v, code, ea, (d.arch c).pc, m.word⟩
  let d1 := if v = 9 ∧ badDataCode code then d.voidSlot s else d
  if Level.lt .s ((d1.arch c).target q) then d1.suspend s c m q
  else (d1.modMember c fun m => { m with access := .none, trap := some q }, [])

/-- An ending access that its translation stops. -/
def Dev.stopAccess (d : Dev) (s c : Nat) (m : Member) (q : Stop) : Dev × List JEntry :=
  match q with
  | .trap v code ea => d.accessTrap s c m v code ea
  | _ => (d, [])

/-- Writes of an ending access: GATE_TAIL counts here and nowhere else (R221), as an access of 4 or 8 bytes (R8); in playback no other device
write is emitted. Normal elements of a vector that has an ending one are stored; a scratchpad write is treated as a device write (log entry 117). -/
def Dev.accessWrite (d : Dev) (c : Nat) (play : Bool) (p : Part) (b : List Byte) : Dev :=
  if !inSpadOrDev p then d.storeParts c [(p, b)] else
  match d.gatePage p.pa with
  | some (n, o) =>
    if o % 16 = 8 ∧ o < 0x80 ∧ n < 16 ∧ 4 ≤ p.n then d.setFld (.pnlGstat n (o / 16)) .PNL_GSTAT_TAIL (leNat b % 2 ^ 32)
    else if play then d else d.devWrite c p b
  | none => if play then d else d.devWrite c p b

/-- The bytes of a RETI's frame in a scratchpad window: its first 64, and the extension where CAUSE says that there is one. -/
def Dev.frameBytes (d : Dev) (c : Nat) : Dev × List Byte :=
  let f := (d.arch c).fsp (d.arch c).pl
  match frameRead c d f.toNat 64 with
  | (d1, some b) =>
    if bitF (dwOf b 16) 63 then
      match frameRead c d1 (f.toNat + 0x40) 160 with
      | (d2, some e) => (d2, b ++ e)
      | (d2, none) => (d2, b)
    else (d1, b)
  | (d1, none) => (d1, [])

/-- RETI from frame bytes that have been read, or that the journal gives. -/
def Dev.retiFrom (d : Dev) (c : Nat) (b : List Byte) : Dev × Ret :=
  d.retiBy c fun y pa n =>
    let o := pa - ((y.arch c).fsp (y.arch c).pl).toNat
    (y, if o + n ≤ b.length then some ((b.drop o).take n) else none)

/-- A NO_PROGRESS that H or M takes. -/
def Dev.entryAway (d : Dev) (c : Nat) (m : Member) : Bool := m.intr.any fun e => Level.lt .s ((d.arch c).route e.1)

/-- Step 2 for one member: its ending access, once, translated again (R150). `vals` are the recorded values in playback. A RETI's frame counts
as an access for each of its double-words (log entry 123). -/
def Dev.endAccess (d : Dev) (s c : Nat) (m : Member) (vals : Option (List Word)) : Dev × List JEntry :=
  let pt := d.point s m.index m.count
  let entry := fun (p : Part) (v : Word) => jent pt 3 (log2Size p.n) 0 v (BitVec.ofNat 64 p.pa)
  match m.access with
  | .none =>
    if !d.entryAway c m then (d, []) else
    let k := (d.arch c).route 0x0A
    ((d.modMember c fun q => { q with phase := .suspended, trap := none, intr := [] }).takeEntries c m,
      [jent pt 8 (if k == .h then 2 else 3) 0 0 0])
  | .suspend => match m.trap with
    | some q => d.suspend s c m q
    | none => (d, [])
  | .time rd =>
    let v := match vals with
      | some l => l.headD 0
      | none => d.time
    ((d.modArch c fun a => a.setG rd v).accessDone c, [jent pt 2 0 0 v 0])
  | .reti =>
    let f := ((d.arch c).fsp (d.arch c).pl).toNat
    let (d0, b) := match vals with
      | some l => (d, l.flatMap fun (w : Word) => leBytes 8 w.toNat)
      | none => d.frameBytes c
    let d1 := d0.voidSlot s
    let part := fun (i : Nat) => (⟨0, f + 8 * i, 8, false, 0⟩ : Part)
    let d2 := d1.countFld (.pnlStat s) .PNL_STAT_DEVACC (b.length / 8)
    (match d2.retiFrom c b with
    | (d3, .left pc r) =>
      (((d3.modCore c fun k => { k with arch := { k.arch with pc := pc }, routine := r }).modMember c fun q => { q with access := .none }),
        if vals.isSome then [] else (List.range (b.length / 8)).map fun i => entry (part i) (dwOf b (8 * i)))
    | (d3, .stop (.trap v code faddr)) => d3.accessTrap s c m v code faddr
    | (d3, _) => (d3, []))
  | .read old dest =>
    (match vals with
    | some l =>
      let b := (old.zip l).flatMap fun (x : Part × Word) => leBytes x.1.n x.2.toNat
      (((d.noteAccess s old).modArch c fun a => a.putLoad dest b).accessDone c, [])
    | none => match d.resolveAgain c .load false old with
    | (d0, .inl q) => d0.stopAccess s c m q
    | (d0, .inr parts) =>
      let (d1, bs, f) := (d0.noteAccess s parts).readParts c parts
      match f with
      | [] => ((d1.modArch c fun a => a.putLoad dest bs.flatten).accessDone c,
          (parts.zip bs).map fun (x : Part × List Byte) => entry x.1 (BitVec.ofNat 64 (leNat x.2)))
      | _ => let (ea, code) := lowestFault f
             d1.accessTrap s c m 9 code ea)
  | .write old =>
    (match d.resolveAgain c .store false (old.map fun (x : Part × List Byte) => x.1) with
    | (d1, .inl q) => d1.stopAccess s c m q
    | (d1, .inr parts) =>
      (((parts.zip (old.map fun (x : Part × List Byte) => x.2)).foldl (fun x (p : Part × List Byte) => x.accessWrite c vals.isSome p.1 p.2)
        (d1.noteAccess s parts)).accessDone c, []))
  | .atomic old op operand expect rd =>
    let put := fun (x : Dev) (v : Word) => (x.modArch c fun a => a.setG rd (zextOf (8 * old.n) v.toNat)).accessDone c
    match vals with
    | some l => (put (d.noteAccess s [old]) (l.headD 0), [])
    | none => match d.resolveAgain c .store true [old] with
      | (d0, .inl q) => d0.stopAccess s c m q
      | (d0, .inr parts) =>
        let p := parts.headD old
        match (d0.noteAccess s [p]).atomicNow c p op operand expect with
        | (d1, .inl code) => d1.accessTrap s c m 9 code p.ea
        | (d1, .inr v) => (put d1 v, [entry p v])

/-- The entries that events have left for a member go to its queue (R369). -/
def Dev.flushHeld (d : Dev) (c : Nat) (m : Member) : Dev :=
  let d0 := d.modMember c fun q => { q with held := [] }
  match d0.lcore? c with
  | none => d0
  | some l => m.held.foldl (fun x h =>
      let (y, t) := x.eqWrite l h.kind h.number h.pri h.at_
      if t == .appended then y else
      let y1 := if h.kind = 2 then y else y.setAct h.wired h.source false
      if t == .failed then y1 else y1.setWaiting h.wired h.source h.at_) d0

/-- Step 3 for one member: the interrupt with the highest priority that is pending and accepted, in the state in which its next
stitch begins, or in the state in which an interrupt ended its stitch before that was frogged (R213). One that H or M takes suspends the member; another begins the next stitch. -/
def Dev.chooseInterrupt (d : Dev) (s c : Nat) (m : Member) (play : Option (Option (Nat × Nat))) : Dev × List JEntry :=
  let view := match m.due with
    | some a => d.modArch c fun _ => a
    | none => if m.trap.isSome || !m.intr.isEmpty then d.modArch c fun a => { a with pl := .s, ie := false } else d
  let pick := match play with
    | some r => r
    | none => view.accepted c
  match pick with
  | none => (d, [])
  | some (v, code) =>
    let d1 := if v = 0x11 ∧ play.isNone then d.vpTake c code else d
    let e := [jent (d.point s m.index m.count) 1 v 0 (BitVec.ofNat 64 code) 0]
    if Level.lt .s ((view.arch c).route v) then
      let d2 := d1.takeEntries c m
      ((d2.modMember c fun q => { q with phase := .suspended, trap := none, intr := [] }).trapEntry c ⟨v, code, 0, (d2.arch c).pc, 0⟩ none, e)
    else (d1.modMember c fun q => { q with intr := q.intr ++ [(v, code)] }, e)

/-- Runs a part of the boundary step for every member that is not suspended, gathering journal entries. -/
def Dev.eachMember (d : Dev) (s : Nat) (f : Dev → Nat → Member → Dev × List JEntry) : Dev × List JEntry :=
  (d.memberCores s).foldl (fun (p : Dev × List JEntry) c =>
    match (p.1.core c).member with
    | some m => if m.phase == .suspended then p else let (y, l) := f p.1 c m
                                                     (y, p.2 ++ l)
    | none => p) (d, [])

/-- What a row's recorded entries must say of a member (R224): its ending access, and points that it has reached. -/
def matchesMember (items : List JItem) (m : Member) (away : Bool) : Bool :=
  let mine := items.filter fun j => jIdx j.e == m.index
  let count := fun (t : Nat) => (mine.filter fun j => jType j.e == t).length
  count 2 == (match m.access with
    | .time _ => 1
    | _ => 0) &&
  (match m.access with
    | .read parts _ => count 3 == parts.length
    | .atomic .. => count 3 == 1
    | .reti => count 3 == 8 || count 3 == 28
    | _ => count 3 == 0) &&
  count 8 == bitNat (m.access == .suspend || away) && count 9 == bitNat m.resumed &&
  (mine.all fun j => !([1, 2, 3, 8, 9].contains (jType j.e)) || m.count == jCount j.e)

/-- Whether a row's recorded entries agree with what has happened: the same frogs, points that were reached, known types. -/
def Dev.matchesRow (d : Dev) (s : Nat) (r : RowScan) : Bool :=
  let frogs := (r.items.filter fun j => jType j.e == 6).map fun j => (j.e.b0, j.e.b1)
  !r.bad && frogs == ((d.panel s).jrnl.map fun e => (e.b0, e.b1)) &&
    (r.items.all fun j => [1, 2, 3, 4, 6, 7, 8, 9, 0xF].contains (jType j.e) &&
      ([4, 0xF].contains (jType j.e) || decide (jIdx j.e < (d.panel s).members.length))) &&
    ((d.memberCores s).all fun c => match (d.core c).member with
      | some m => matchesMember r.items m (d.entryAway c m)
      | none => true) &&
    (r.items.all fun j => jType j.e != 4 ||
      (decide (jSub j.e < (d.panel s).gates.length) && j.e.b2.toNat % 2 ^ 32 == d.fld (.pnlGstat s (jSub j.e)) .PNL_GSTAT_ADMIT))

/-- The recorded values of a member's ending access, in order. -/
def playVals (items : List JItem) (index : Nat) : List Word :=
  (items.filter fun j => (jType j.e == 2 || jType j.e == 3) && jIdx j.e == index).map fun j => j.e.b2
def playIntr (items : List JItem) (index : Nat) : Option (Nat × Nat) :=
  (items.find? fun j => jType j.e == 1 && jIdx j.e == index).map fun j => (jSub j.e, j.e.b2.toNat % 2 ^ 16)

/-- Step 4: entries are written while the ring has room (R222). A write that meets an error response ends recording. -/
def Dev.writeJournal (s : Nat) : Nat → Dev → Dev
  | 0, d => d
  | n + 1, d =>
    match (d.panel s).jrnl with
    | [] => d
    | e :: t =>
      if !d.recording s then d.modPanel s fun p => { p with jrnl := [] }
      else if d.jrnlLevel s = 2 ^ (d.panel s).jlog then d
      else
        let i := d.fld (.pnlJrnl s) .PNL_JRNL_DEV
        let b := leBytes 8 e.b0.toNat ++ leBytes 8 e.b1.toNat ++ leBytes 8 e.b2.toNat ++ leBytes 8 e.b3.toNat
        let (d1, bad) := d.writeBytesAs evAgent 0 2 (d.jrnlPa s i) b
        if bad then (d1.setFld (.pnlSlot s) .PNL_SLOT_RECORD 0).modPanel s fun p => { p with jrnl := [] }
        else
          let l0 := d1.jrnlLevel s
          let d2 := (d1.wrapFld (.pnlJrnl s) .PNL_JRNL_DEV 1).ringLevel (.journal (Fin.ofNat 16 s)) l0 (l0 + 1)
          Dev.writeJournal s n (d2.modPanel s fun p => { p with jrnl := t })

/-- Step 5: the dissolution takes effect, or the next row begins; it waits while the ring is full. -/
def Dev.rowNext (d : Dev) (s : Nat) : Dev :=
  let d1 := Dev.writeJournal s ((d.panel s).jrnl.length + 1) d
  if !(d1.panel s).jrnl.isEmpty then d1
  else if (d1.panel s).dissolve then
    (d1.forMembers s fun x c m => (x.leavePanel c).takeEntries c m).freeSlot s
  else
    ((d1.setFld (.pnlSlot s) .PNL_SLOT_ROW ((d1.row s + 1) % 2 ^ 37)).modPanel s fun p => { p with phase := .starting }).beginRow s

/-- The members of a broken panel between rows take MEMBER_LOST. -/
def Dev.lostAll (d : Dev) (s : Nat) : Dev := (d.forMembers s fun x k q => x.takeLost k q).modPanel s fun p => { p with phase := .idle }

/-- A core that no other can replace (R233); its panel, if it was a member that has entered, is broken (log entry 123). -/
def Dev.coreLost (d : Dev) (c : Nat) : Dev :=
  let slot := (d.core c).member.map (·.slot)
  let d1 := (d.report (.error c 0x06 c none (d.lcore? c) 0)).declareDead (.core (Fin.ofNat 264 c))
  match slot with
  | some s => if d1.slotState s = 4 && (d1.panel s).phase != .stitches then d1.lostAll s else d1
  | none => d1

/-- BOUNDARY_STEP (R218), with the moves of checkpoint pairs (R212) first. -/
def Dev.boundaryStep (d : Dev) (s : Nat) : Dev :=
  if d.slotState s = 4 && (d.panel s).phase != .stitches then d.lostAll s else
  match (d.panel s).phase with
  | .starting => d.beginRow s
  | .boundary => d.rowNext s
  | .committed =>
    if (d.memberCores s).any d.down then d else
    let cores := d.memberCores s
    let moved := d.ckMove fun t => cores.contains (2 * t) || cores.contains (2 * t + 1)
    let homeless := cores.filter fun c => moved.fld (.corePnl c) .CORE_PNL_CKSLICE == 0xFF
    if !homeless.isEmpty then
      let d1 := homeless.foldl (fun x c => x.coreLost c) moved
      d1.lostAll s
    else
      let (d1, r) := if moved.playing s then moved.scan s (moved.row s) else (moved, ⟨[], 0, false, true⟩)
      let play := moved.playing s && d1.matchesRow s r
      let d2 := if moved.playing s && !play then d1.diverge s else d1
      let frogs := (d2.panel s).sreplays ++ (d2.panel s).jrnl
      let gates := (d2.panel s).gates.zipIdx
      let (d3, gs) := gates.foldl (fun (p : Dev × List JEntry) g =>
        if play then (p.1.gatePlay s g.2 g.1 r.items, p.2) else (let (y, l) := p.1.gateLive s g.2 g.1
                                                                 (y, p.2 ++ l))) (d2, [])
      let (d4, accs) := d3.eachMember s fun x c m => x.endAccess s c m (if play then some (playVals r.items m.index) else none)
      let resumes := (d4.memberCores s).filterMap fun c => (d4.core c).member.bind fun m =>
        if m.resumed then some (jent (d4.point s m.index m.count) 9 0 0 0 0) else none
      let d5 := (d4.forMembers s fun x c m => x.flushHeld c m).forMembers s fun x c _ => x.modMember c fun q => { q with resumed := false }
      let dissolve := d5.slotState s == 3 && (d5.memberCores s).all fun c => match (d5.core c).member with
        | some m => !m.retry
        | none => true
      let (d6, intrs) := if dissolve then (d5, []) else
        d5.eachMember s fun x c m => x.chooseInterrupt s c m (if play then some (playIntr r.items m.index) else none)
      let fin := if dissolve then [jent (d6.point s 0 0) 0x0F 0 0 (BitVec.ofNat 64 (d6.row s + 1)) 0] else []
      let out := if d6.recording s then frogs ++ gs ++ accs ++ resumes ++ intrs ++ fin else []
      let d7 := if play then d6.setFld (.pnlJrnl s) .PNL_JRNL_DEV r.next else d6
      let d8 := if play && r.items.any fun j => jType j.e == 0xF then d7.setFld (.pnlSlot s) .PNL_SLOT_PLAYBACK 0 else d7
      (d8.modPanel s fun p => { p with phase := .boundary, jrnl := out, sreplays := [], dissolve := dissolve }).rowNext s
  | _ => d

/-- JOURNAL_WRITE (R223): the boundary step that waits for the journal goes on. -/
def Dev.journalGo (d : Dev) (s : Nat) : Dev :=
  if d.slotState s = 4 then d else
  match (d.panel s).phase with
  | .boundary => d.rowNext s
  | .starting => d.beginRow s
  | _ => d

def execPanelStart (s : SlotId) (st : State) : Host.Outcome State Fault Refusal := st.done (st.dev.panelStart s.val)
def execStitchEnd (c : CoreId) (s : State) : Host.Outcome State Fault Refusal := s.done (s.dev.stitchEndEvent c.val)
def execRowCommit (s : SlotId) (st : State) : Host.Outcome State Fault Refusal := st.done (st.dev.rowCommit s.val)
def execBoundaryStep (s : SlotId) (st : State) : Host.Outcome State Fault Refusal := st.done (st.dev.boundaryStep s.val)
def execJournalWrite (s : SlotId) (st : State) : Host.Outcome State Fault Refusal := st.done (st.dev.journalGo s.val)

end Sys2Proof.Machine
end

