-- ==== Sys2Proof/Machine/Recover.lean ====
section
/-! DEFINITION. Hard faults and spares (R16, R117, R230 to R233, R455): the chief steward's choice on a hard fault, the re-run of
a stitch, the transplant of a core, and the governor's preventive substitutions. -/

namespace Sys2Proof.Machine

/-! ### Spares (R16) -/

/-- The spare core that replaces core `c`. -/
def Dev.spareCore (d : Dev) (c : Nat) : Option Nat :=
  let spares := (List.range 264).filter fun k => d.coreRole k == 1
  match spares.find? fun k => quadOfCore k == quadOfCore c with
  | some k => some k
  | none => if d.quartered then none else spares.head?

/-- The class of a core in every slice (R160). -/
def Dev.setCoreClass (d : Dev) (c x : Nat) : Dev :=
  (List.range 132).foldl (fun y n => y.setFld (.slcCosCore n (c / 16)) ⟨c % 16 * 4 + 3, c % 16 * 4⟩ x) d

/-- Spare `t` comes On with the logical number, the class, the JOIN bit and any pending patch, its own or that of core `c`, which is
failed (R14, R16, R128, R230). -/
def Dev.substitute (d : Dev) (c t : Nat) : Dev :=
  let k := d.core c
  let d1 := (d.setFlds (.coreIdent t) [(.CORE_IDENT_LVALID, 1), (.CORE_IDENT_LOGICAL, d.logical c)]).setFld (.coreState t) .CORE_STATE_ROLE 0
  let d2 := (d1.setFlds (.coreIdent c) [(.CORE_IDENT_LVALID, 0), (.CORE_IDENT_LOGICAL, 0)]).setFld (.coreState c) .CORE_STATE_ROLE 2
  let d3 := (d2.setCoreClass t (d.coreClass c)).setPower t 0
  let d4 := if d.bit (.coreUcode t) .CORE_UCODE_PEND || !d.bit (.coreUcode c) .CORE_UCODE_PEND then d3
    else d3.setFlds (.coreUcode t) [(.CORE_UCODE_PEND, 1), (.CORE_UCODE_PENDING_ID, d.fld (.coreUcode c) .CORE_UCODE_PENDING_ID)]
  let d5 := ((d4.setReg (.coreReplay t) 0).setReg (.corePrefetch t) d.prefetchStart).applyPatch t
  d5.setCore t { Core.reset with joined := k.joined, isoStart := k.isoStart, patch := (d5.core t).patch }

/-- The failed core's own part ends: it is Off, waits for nothing, and answers no operation of another core any more. -/
def Dev.release (d : Dev) (c : Nat) : Dev :=
  let me : Agent := .core (Fin.ofNat 264 c)
  let d1 := d.unitOff c
  { d1 with cores := d1.cores.map fun (e : Nat × Core) =>
      (e.1, { e.2 with tinvs := e.2.tinvs.map fun x => { x with targets := x.targets.filter (· != me) } }) }

/-- What waits at I/O stops for core `c`'s operations waits for core `t`. -/
def Dev.retarget (d : Dev) (c t : Nat) : Dev :=
  let me : Agent := .core (Fin.ofNat 264 c)
  let it : Agent := .core (Fin.ofNat 264 t)
  { d with stops := d.stops.map fun (e : Nat × IoStop) =>
      (e.1, { e.2 with holders := e.2.holders.map fun h =>
        { h with waiting := h.waiting.map fun w => if w.1 == me then (it, w.2) else w } }) }

/-! ### Hard fault (R230) -/

/-- A core's L2 is cleaned; when it cannot be read, its dirty lines are marked lost (R231 step 2). -/
def Dev.cleanFaulted (d : Dev) (c : Nat) (readable : Bool) : Dev :=
  let d1 :=
    if readable then (d.drainStores c).cleanCore c
    else ((d.core c).l2.foldl (fun x (e : L2Line) => if e.st = Mesi.modified then x.markLost e.line else x) d).modCore c fun k =>
      { (k.setL2 []) with storeBuf := [] }
  d1.forgetCore c

/-- A hard fault of core `c` that recovery ended, in the bank of the core that failed; core `t` has its logical number (R449). -/
def Dev.recovered (d : Dev) (c t : Nat) : Dev := d.report (.error c 0x05 c none (d.lcore? t) 0)

/-- HARD_FAULT (R230), with the first three steps of R231 for a running member. A core that fails its self-test is failed and Off (R14). -/
def Dev.hardFault (d : Dev) (c : Nat) (f : FaultReport) : Dev :=
  if !d.isOn c || !d.lvalid c || (d.core c).recovery.isSome then d else
  let was := match (d.core c).run with
    | .stopped => RunState.running
    | r => r
  let d0 := d.modCore c fun k => { k with
    hardFault := true, run := .stopped, routine := none, runAhead := none,
    arch := (match k.runAhead with
      | some r => r.saved
      | none => k.arch) }
  let set := fun (x : Dev) (r : Recovery) => x.modCore c fun k => { k with recovery := some r }
  let lost := fun (x : Dev) => if f.selfTestPass then x.coreLost c else ((x.coreLost c).setFld (.coreState c) .CORE_STATE_ROLE 2).unitOff c
  match d0.inPanel c with
  | some _ =>
    let d1 := ((d0.giveEnds c).modMember c fun m => { m with replaying := true, overlay := [] }).cleanFaulted c f.l2Readable
    if f.selfTestPass then set d1 (.stitchReplay c)
    else match d1.spareCore c with
      | some t => set (d1.substitute c t) (.stitchReplay t)
      | none => lost d1
  | none =>
    if !f.regsClean then lost (d0.cleanFaulted c f.l2Readable)
    else if f.selfTestPass then (d0.modCore c fun k => { k with hardFault := false, run := was }).recovered c c
    else
      let d1 := d0.cleanFaulted c f.l2Readable
      match d1.spareCore c with
      | some t => set (d1.substitute c t) (.transplant t was)
      | none => lost d1

/-! ### The re-run of a stitch (R231) and the transplant (R232) -/

/-- The failed core that core `c` names: itself, or the one whose place it takes. -/
def Dev.recovering (d : Dev) (c : Nat) : Option (Nat × Recovery) :=
  match (d.core c).recovery with
  | some r => some (c, r)
  | none => d.cores.findSome? fun (e : Nat × Core) => match e.2.recovery with
    | some (.stitchReplay t) => if t = c then some (e.1, .stitchReplay t) else none
    | some (.transplant t w) => if t = c then some (e.1, .transplant t w) else none
    | none => none

/-- An SREPLAY entry waits for the row's end, and the re-run is counted. -/
def Dev.countReplay (d : Dev) (t : Nat) (m : Member) : Dev :=
  let e := jent (d.point m.slot m.index 0) 7 0 0 (BitVec.ofNat 64 t) 0
  let before := fun (x : JEntry) => decide (jIdx x ≤ m.index)
  let d1 := d.modPanel m.slot fun p => { p with sreplays := p.sreplays.filter before ++ [e] ++ p.sreplays.filter fun x => !before x }
  (d1.countFld (.pnlStat m.slot) .PNL_STAT_SREPLAY 1).countFld (.corePnlStat t) .CORE_PNL_STAT_SREPLAY 1

/-- Moves a core's architectural state, its membership, its outstanding TINVs and its range operation to core `t`. -/
def Dev.moveCore (d : Dev) (c t : Nat) (run : RunState) : Dev :=
  let k := (d.endAhead c).core c
  let d1 := (d.setReg (.coreRangeStatus t) (d.reg (.coreRangeStatus c))).modCore t fun q => { q with
    arch := k.arch, run := run, member := k.member, tinvs := k.tinvs, serial := k.serial, crng := k.crng }
  (d1.retarget c t).release c

/-- Core `t` loads the checkpoint of core `c` and runs its stitch again. A member between stitches has its state there; one that has left its
panel meanwhile goes on (R233). -/
def Dev.replayOn (d : Dev) (c t : Nat) : Dev :=
  match (d.core c).member with
  | none => (if c = t then d.modCore c fun k => { k with hardFault := false, recovery := none, run := .running } else d.moveCore c t .running).recovered c t
  | some m =>
    let again := m.phase == .running || m.phase == .ended
    let own := m.cause == .access || m.cause == .trap || m.cause == .beforeStore
    let stop : Option EndPoint := if m.phase == .ended then some ⟨m.count, some own, 0⟩ else m.endAt
    let back := if again then { m with trap := m.first, intr := m.firstIntr, access := .none } else { m with replaying := false }
    let arch := if again then m.saved else d.arch c
    let d1 := if c = t then d else d.release c
    let d2 := d1.modCore t fun k => { k with arch := arch, member := some back, hardFault := false, recovery := none, run := .running }
    let d3 := if !again then d2 else
      let d4 := ((d2.startStitch t).modMember t fun q => { q with limit := m.limit, endAt := stop, replaying := q.phase == .running }).countReplay t m
      if stop.any fun e => e.count == 0 && e.own == some false then d4.endStitch t .interrupt else d4
    d3.recovered c t

/-- STITCH_REPLAY (R231), its last two steps. -/
def Dev.stitchReplay (d : Dev) (c : Nat) : Dev :=
  match d.recovering c with
  | some (k, .stitchReplay t) => d.replayOn k t
  | _ => d

/-- CORE_TRANSPLANT (R232). -/
def Dev.coreTransplant (d : Dev) (c : Nat) : Dev :=
  match d.recovering c with
  | some (k, .transplant t w) => (d.moveCore k t w).recovered k t
  | _ => d

/-! ### Preventive substitution (R234, R455) -/

/-- The times of a unit's errors that lie in the window of OD 0x5204:01. -/
def Dev.inWindow (d : Dev) (l : List Word) : Nat :=
  (l.filter fun t => !d.past t (d.od 0x5204 1 24 * 3600000 * ms 1)).length

/-- A core is degrading (R455). -/
def Dev.coreDegrading (d : Dev) (c : Nat) : Bool := decide (d.od 0x5204 0 64 ≤ d.inWindow (Tbl.get [] c d.gov.coreErrs))
/-- A slice is degrading (R455). -/
def Dev.sliceDegrading (d : Dev) (n : Nat) : Bool :=
  decide (d.od 0x5204 2 256 ≤ d.inWindow (Tbl.get [] n d.gov.sliceErrs)) ||
    rowsLeft (d.spares n) == 0 || colsLeft (d.spares n) == 0

/-- Substitutes a degrading core: a member at its row boundary, any other between instructions. -/
def Dev.substituteNow (d : Dev) (c t : Nat) : Dev :=
  let was := (d.core c).run
  let atBoundary := match d.inPanel c with
    | some m => (d.panel m.slot).phase != .stitches
    | none => true
  if !atBoundary || (d.core c).hardFault then d else
  let d1 := (d.cleanFaulted c true).substitute c t
  let l := d1.logical t
  ((d1.moveCore c t was).setGov { d1.gov with coreErrs := Tbl.del c d1.gov.coreErrs }).govLog 7 0x40 0 l c t

/-- SPARE_SUBSTITUTION. -/
def Dev.spareSub (d : Dev) (u : SpareUnit) : Dev :=
  let mode := d.od 0x5200 0 0
  let tell := fun (obj : Nat) => d.govLog 7 0x40 2 obj 0 0
  match u with
  | .core c =>
    if !d.lvalid c.val || !d.isOn c.val || !d.coreDegrading c.val then d else
    match d.spareCore c.val with
    | none => tell (d.logical c.val)
    | some t => if mode = 0 then d.substituteNow c.val t else if mode = 2 then tell (d.logical c.val) else d
  | .slice n =>
    if d.sliceRole n.val != 0 || !d.sliceDegrading n.val then d else
    match d.spareSlice n.val with
    | none => tell (domOfSlice n.val)
    | some t =>
      if mode = 0 then
        if d.hash.queue.any (fun r => r.kind == .retirement && r.slice == n.val) then d
        else (d.queueRebuild .retirement n.val).govLog 7 0x40 0 (domOfSlice n.val) n.val t
      else if mode = 2 then tell (domOfSlice n.val) else d
  | .channel n => tell (domOfChan n.val)
  | .skein k => tell (domOfSkein k.val)
  | .engine e => tell (domOfEngine e.val)

def execHardFault (c : CoreId) (f : FaultReport) (s : State) : Host.Outcome State Fault Refusal := s.done (s.dev.hardFault c.val f)
def execStitchReplay (c : CoreId) (s : State) : Host.Outcome State Fault Refusal := s.done (s.dev.stitchReplay c.val)
def execCoreTransplant (c : CoreId) (s : State) : Host.Outcome State Fault Refusal := s.done (s.dev.coreTransplant c.val)
def execSpareSubstitution (u : SpareUnit) (s : State) : Host.Outcome State Fault Refusal := s.done (s.dev.spareSub u)

end Sys2Proof.Machine
end

