-- ==== Sys2Proof/Machine/OdServe.lean ====
section
/-! DEFINITION. The object dictionary's service (R416 to R424): sessions, staging, commit with what each entry's commit does, and the
responses. -/

namespace Sys2Proof.Machine

def Dev.setDict (d : Dev) (x : Dict) : Dev := { d with dict := x }

/-! ### Responses (R419) -/

/-- The 256 bytes of a response. The token that OPEN returns stands in TOKEN (log entry 39). -/
def odBytes (r : OdRequest) (x : OdResponse) : List Byte :=
  let head := leBytes 1 x.op ++ leBytes 1 x.status ++ leBytes 2 x.index.toNat ++ leBytes 1 x.sub.toNat ++ [0] ++ leBytes 2 r.len ++
    leBytes 4 x.token.toNat ++ leBytes 4 x.offset ++ leBytes 4 x.length ++ List.replicate 12 0
  (head ++ x.data ++ List.replicate 256 0).take 256

/-- The response is ready: for a mailbox, in ODM_MB_RSP with DONE set (R441). -/
def Dev.odAnswer (d : Dev) (r : OdRequest) (x : OdResponse) : Dev :=
  let d1 := d.setDict { d.dict with
    resp := some x, sessions := d.dict.sessions.map fun s => if s.token == r.token then { s with last := d.time } else s }
  match r.path with
  | .bmc => d1
  | .hostFw => d1.mailAnswer 0 (odBytes r x)
  | .os => d1.mailAnswer 1 (odBytes r x)

/-- A response with a status and no data. -/
def odSay (r : OdRequest) (op status : Nat) : OdResponse :=
  { op := op, status := status, index := r.index, sub := r.sub, token := r.token, offset := r.offset, length := 0, data := [] }
def Dev.odStatus (d : Dev) (r : OdRequest) (op status : Nat) : Dev := d.odAnswer r (odSay r op status)

/-! ### What every request meets first -/

/-- What makes a request of any operation malformed: a LEN above 224, or fewer bytes than LEN behind it. -/
def odMalformed (r : OdRequest) (op : Nat) : Bool := decide (224 < r.len) || (op != 3 && decide (r.data.length < r.len))

/-- A BMC request that names another socket: the manager forwards it over Brixnil to a present one (R420). -/
def Dev.odForward (d : Dev) (r : OdRequest) (op : Nat) : Dev :=
  if !d.pins.isManager then d
  else if !d.present r.socket.val then d.odStatus r op 11
  else { d with board := { d.board with odSent := d.board.odSent ++ [(op, r)] } }

/-- BAD_SESSION on page 0 after HFWCLOSE is counted; the 16th locks the page (R417). -/
def Dev.odBadToken (d : Dev) (r : OdRequest) (op : Nat) : Dev :=
  let d1 := d.odStatus r op 4
  if r.path == .hostFw && d.bit .odmCtl .ODM_CTL_HFWCLOSE then
    let d2 := d1.countFld .odmCtl .ODM_CTL_BADTOK 1
    if 16 ≤ d2.fld .odmCtl .ODM_CTL_BADTOK then d2.setFld .odmCtl .ODM_CTL_HFWLOCKED 1 else d2
  else d1

/-- A request other than OPEN: the checks that come before its own, then its own work on its session. -/
def Dev.odServe (d : Dev) (r : OdRequest) (op : Nat) (f : Dev → Session → Dev) : Dev :=
  if d.phase == .noAux || !d.mailMeets r op then d
  else if r.path == .bmc && r.socket.val != d.socket then d.odForward r op
  else if !d.odReady op r.index.toNat then d.odStatus r op 13
  else if r.path == .hostFw && d.hfwLocked then d.odStatus r op 2
  else if odMalformed r op || (r.path != .bmc && r.socket.val != d.socket) then d.odStatus r op 9
  else match d.dict.sessions.find? fun s => s.token == r.token && s.cls == r.path && s.socket == r.socket.val with
    | none => d.odBadToken r op
    | some s => f d s

def Dev.modSession (d : Dev) (t : Word32) (f : Session → Session) : Dev :=
  d.setDict { d.dict with sessions := d.dict.sessions.map fun s => if s.token == t then f s else s }

/-! ### OPEN, CLOSE and the ends of sessions (R420, R423) -/

/-- A token that no open session has: the first good draw of 64, else the lowest free number. -/
def Dev.newToken (d : Dev) : Dev × Word32 :=
  let used := fun (t : Word32) => t == 0 || d.dict.sessions.any fun s => s.token == t
  let draw := (List.range 64).find? fun i => !used ((Config.entropy (d.freeCtr + i)).truncate 32)
  match draw with
  | some i => ({ d with freeCtr := d.freeCtr + i + 1 }, (Config.entropy (d.freeCtr + i)).truncate 32)
  | none => ({ d with freeCtr := d.freeCtr + 64 }, (((List.range 9).map fun i => BitVec.ofNat 32 (i + 1)).find? fun t => !used t).getD 1)

def Dev.odOpen (d : Dev) (r : OdRequest) : Dev :=
  if d.phase == .noAux || !d.mailMeets r 1 then d
  else if r.path == .bmc && r.socket.val != d.socket then d.odForward r 1
  else if !d.odReady 1 r.index.toNat then d.odStatus r 1 13
  else if r.path == .hostFw && (d.hfwLocked || d.bit .odmCtl .ODM_CTL_HFWCLOSE) then d.odStatus r 1 2
  else if r.socket.val != d.socket || r.token != 0 || odMalformed r 1 then d.odStatus r 1 9
  else if 8 ≤ d.dict.sessions.length ∨ (r.path = .os ∧ 4 ≤ (d.dict.sessions.filter fun s => s.cls == .os).length) then d.odStatus r 1 5
  else
    let (d1, t) := d.newToken
    let d2 := d1.setDict { d1.dict with sessions := d1.dict.sessions ++ [⟨t, r.path, r.socket.val, d1.time, []⟩] }
    d2.odAnswer r { odSay r 1 0 with token := t }

def Dev.endSession (d : Dev) (t : Word32) : Dev := d.setDict { d.dict with sessions := d.dict.sessions.filter fun s => s.token != t }
def Dev.odClose (d : Dev) (r : OdRequest) : Dev := d.odServe r 2 fun x s => (x.endSession s.token).odStatus r 2 0

/-- TRANSFER_STALL: what a BMC session on the socket has staged is discarded. -/
def Dev.transferStall (d : Dev) (n : Nat) : Dev :=
  if n = d.socket then d.setDict { d.dict with sessions := d.dict.sessions.map fun s => if s.cls == .bmc then { s with staged := [] } else s } else d

/-! ### READ, DESCRIBE, STAGE and DISCARD (R419, R421) -/

/-- The entry that a request names, or the status that refuses it. -/
def odLookup (r : OdRequest) : Nat ⊕ OdEntry :=
  if 0xF000 ≤ r.index.toNat then .inl 2 else
  match odFind r.index.toNat r.sub.toNat with
  | none => .inl 1
  | some e => .inr e

def Dev.odRequestRead (d : Dev) (r : OdRequest) : Dev :=
  d.odServe r 3 fun x _ =>
    match odLookup r with
    | .inl n => x.odStatus r 3 n
    | .inr e =>
      if !odMayRead r.path e.index || e.access = 3 then x.odStatus r 3 2
      else if !e.long && r.offset != 0 then x.odStatus r 3 9
      else
        let (y, b) := x.odRead e r.sub.toNat
        if b.length < r.offset then y.odStatus r 3 9 else
        y.odAnswer r { odSay r 3 0 with length := b.length, data := (b.drop r.offset).take (if e.long then r.len else 224) }

/-- The DATA of DESCRIBE. -/
def Dev.describe (d : Dev) (e : OdEntry) (sub : Nat) : List Byte :=
  let n := fun (v : Nat) => leBytes 8 (if e.long then 0 else v)
  let name := asciiBytes e.reg
  leBytes 1 e.type ++ leBytes 1 e.access ++ leBytes 1 e.effect ++ [0] ++ leBytes 4 e.len ++ n (odDefault d e) ++ n e.min ++ n e.max ++
    n (d.odInForce e sub) ++ (name ++ List.replicate 32 0).take 32

def Dev.odRequestDescribe (d : Dev) (r : OdRequest) : Dev :=
  d.odServe r 7 fun x _ =>
    match odLookup r with
    | .inl n => x.odStatus r 7 n
    | .inr e =>
      if !odMayRead r.path e.index && !odMayWrite x r.path e.index then x.odStatus r 7 2
      else
        let b := x.describe e r.sub.toNat
        x.odAnswer r { odSay r 7 0 with data := b }

/-- A value with a piece written at its end, or started again. -/
def stagePut (l : List Staged) (key commits : Nat) (b : List Byte) : List Staged :=
  match l.find? fun s => s.key == key with
  | some s => (l.map fun x => if x.key == key then { s with bytes := b } else x)
  | none => l ++ [⟨key, b, commits⟩]

/-- The bytes of values that a session has staged. -/
def stagedBytes (l : List Staged) : Nat := l.foldl (fun (n : Nat) (t : Staged) => n + t.bytes.length) 0

def Dev.odStage (d : Dev) (r : OdRequest) : Dev :=
  d.odServe r 4 fun x s =>
    match odLookup r with
    | .inl n => x.odStatus r 4 n
    | .inr e =>
      let key := odKey e.index r.sub.toNat
      let had := ((s.staged.find? fun t => t.key == key).map (·.bytes)).getD []
      if e.access = 1 ∨ !odMayWrite x r.path e.index then x.odStatus r 4 2
      else if e.access = 5 ∧ x.od 0x0210 0 0 = 1 then x.odStatus r 4 7
      else if !e.long && (r.offset != 0 || r.len != odWidth e.type) then x.odStatus r 4 9
      else if e.long && r.offset != 0 && r.offset != had.length then x.odStatus r 4 9
      else
        let piece := r.data.take r.len
        let value := if r.offset = 0 then piece else had ++ piece
        let ok := if e.long then decide (value.length ≤ e.len) else x.odRange e r.sub.toNat (leNat value)
        if !ok then x.odStatus r 4 3
        else
          let l := stagePut s.staged key x.dict.commits value
          if decide (64 < l.length) || decide (8192 < stagedBytes l) then x.odStatus r 4 10
          else (x.modSession s.token fun q => { q with staged := l }).odStatus r 4 0

def Dev.odDiscard (d : Dev) (r : OdRequest) : Dev :=
  d.odServe r 6 fun x s => (x.modSession s.token fun q => { q with staged := [] }).odStatus r 6 0

/-! ### What a committed entry does (R413) -/

/-- The masks of every class in every slice (R194). -/
def Dev.operatorMasks (d : Dev) : Dev :=
  (List.range 16).foldl (fun x c =>
    let m := x.od 0x2101 c 0xFFFF
    let old := x.fld (.slcCos 0 c) .SLC_COS_MASK
    if old = m then x else
    ((List.range 132).foldl (fun y n => y.setFld (.slcCos n c) .SLC_COS_MASK m) x).govLog 3 0xF0 1 c old m) d

/-- Cores move to the operator's voltage in Fixed and Advise (R396); other domains always follow OD 0x2001:04. -/
def Dev.operatorVolts (d : Dev) : Dev :=
  if d.od 0x2001 0 0 = 0 then d else
  (List.range 264).foldl (fun x c =>
    if x.isOn c && x.coreRole c == 0 then
      let mv := x.coreTarget c (x.od 0x2001 1 750)
      if mv = x.vGoal c then x.choose c (x.od 0x2001 1 750) else ((x.choose c (x.od 0x2001 1 750)).vAim c mv).govLog 1 0xF0 1 ((x.lcore? c).getD 0) (x.vPrev c) mv
    else x) d
def Dev.otherVolts (d : Dev) : Dev :=
  ((List.range 132).map domOfSlice ++ (List.range 4).map domOfEngine ++ (List.range 4).map domOfFabric).foldl
    (fun x k => x.vAim k (x.wantMv k)) d
def Dev.operatorPrefetch (d : Dev) : Dev :=
  if d.od 0x2200 0 0 = 0 then d else
  (List.range 264).foldl (fun x c =>
    if x.coreRole c != 0 then x else
    let w := x.reg (.corePrefetch c)
    let op := setF w ⟨15, 0⟩ (x.od 0x2201 0 0x4202)
    if w = op then x else (x.setReg (.corePrefetch c) op).govLog 5 0xF0 1 ((x.lcore? c).getD 0) w.toNat op.toNat) d

/-- The timeouts that FAB_TIMEOUT mirrors (R252). -/
def Dev.mirrorTimeouts (d : Dev) : Dev :=
  (List.range 4).foldl (fun x q => x.setFlds (.fabTimeout q)
    [(.FAB_TIMEOUT_E2E_US, x.od 0x4010 2 2000), (.FAB_TIMEOUT_STALL_US, x.od 0x4010 1 50)]) d

/-- The domains that OD 0x1011:00 holds On. -/
def Dev.mirrorHolds (d : Dev) : Dev :=
  let b := Tbl.get [] (odKey 0x1011 0) d.dict.long
  let l := (List.range (b.length / 2)).map fun i => imageW b (2 * i) 2
  (List.range 452).foldl (fun x k => x.setFld (.pwrDom k) .PWR_DOM_HOLD (bitNat (l.contains k))) d

/-- A key-slot command (R288). -/
def Dev.keyCommand (d : Dev) (b : List Byte) : Dev :=
  let id := imageW b 0 2
  { d with keys := if imageW b 2 1 = 1 then Tbl.set id ⟨BitVec.ofNat 256 (imageW b 4 32), BitVec.ofNat 256 (imageW b 36 32)⟩ d.keys
                   else Tbl.del id d.keys }

/-- A copy of the container in use, its own bytes only. -/
def Dict.goldenOf (x : Dict) : Option FwSource := x.container.map fun s => { s with len := s.num 0x0C 4 }
/-- Boot good: the container in use is copied into the golden region (R431). -/
def Dev.bootGood (d : Dev) : Dev :=
  if d.dict.source < 2 ∧ d.dict.golden ≠ d.dict.goldenOf then d.setDict { d.dict with golden := d.dict.goldenOf } else d

/-- Applies a committed value that takes effect immediately. -/
def Dev.odEffect (d : Dev) (index sub v : Nat) (b : List Byte) : Dev :=
  match index with
  | 0x0230 => if v = 1 then d.bootGood else d
  | 0x1000 => d.setDict { d.dict with resetReq := some v }
  | 0x1011 => d.mirrorHolds
  | 0x2000 => d.showLimits.setFld .pwrStat .PWR_STAT_LIMIT d.govLimit
  | 0x2001 => if sub = 4 then d.otherVolts else d.operatorVolts
  | 0x2100 | 0x2101 => if d.od 0x2100 0 0 = 0 then d else d.operatorMasks
  | 0x2102 => match d.phys sub with
    | some c => (d.setCoreClass c v).govLog 3 0xF0 1 v 0 v
    | none => d
  | 0x2111 => if v = 1 then d.reKey true else d
  | 0x2200 | 0x2201 => d.operatorPrefetch
  | 0x3020 => if sub = 1 then (List.range 16).foldl (fun x ch => (List.range 8).foldl (fun y r => y.setCeLevel ch r (min (y.ceLevel ch r) v)) x) d else d
  | 0x3040 | 0x3041 => if d.od 0x3040 0 0 = 0 then d else d.govLog 6 0xF0 1 sub 0 v
  | 0x3100 => d.keyCommand b
  | 0x4010 => d.mirrorTimeouts
  | 0x5100 => d.patchWrite b
  | 0x8010 => d.setFlds .erbGlobal [(.ERB_GLOBAL_PIN_CE, 0), (.ERB_GLOBAL_PIN_UC, 0)]
  | _ => d

/-- Applies one staged entry: its committed value, then its effect. The point in force is OD 0x3010:00 itself (R272). -/
def Dev.odApply (d : Dev) (token : Word32) (s : Staged) : Dev :=
  let index := s.key / 256
  let sub := s.key % 256
  let v := leNat s.bytes
  let note := fun (x : Dev) => x.setDict { x.dict with lastSet := Tbl.set s.key (x.dict.commits, token) x.dict.lastSet }
  match odFind index sub with
  | none => d
  | some e =>
    if index = 0x3010 ∧ sub = 0 then note (d.freqBegin (v == 1)) else
    let d1 := if e.access = 3 then d
      else if e.long then d.setDict { d.dict with long := Tbl.put [] s.key s.bytes d.dict.long }
      else d.setOd index sub v
    note (if e.effect = 0 then d1.odEffect index sub v s.bytes else d1)

/-! ### COMMIT (R422) -/

def insertStaged (s : Staged) : List Staged → List Staged
  | [] => [s]
  | t :: l => if s.key ≤ t.key then s :: t :: l else t :: insertStaged s l
def sortStaged (l : List Staged) : List Staged := l.foldr insertStaged []

/-- A staged entry that another session committed after this one first staged it. -/
def Dev.conflicts (d : Dev) (token : Word32) (s : Staged) : Bool :=
  match d.dict.lastSet.find? fun e => e.1 == s.key with
  | some e => decide (s.since < e.2.1) && e.2.2 != token
  | none => false

/-- The first staged entry that fails, with its status. -/
def Dev.odCheck (d : Dev) (token : Word32) : List Staged → Option (Nat × Nat)
  | [] => none
  | s :: l =>
    if d.conflicts token s then some (s.key, 6) else
    match odFind (s.key / 256) (s.key % 256) with
    | none => some (s.key, 1)
    | some e =>
      if e.access = 5 ∧ d.od 0x0210 0 0 = 1 then some (s.key, 7)
      else if !(if e.long then odLongOk e.index e.len s.bytes else d.odRange e (s.key % 256) (leNat s.bytes)) then some (s.key, 3)
      else d.odCheck token l

/-- The value an entry would have after the commit. -/
def Dev.odAfter (d : Dev) (l : List Staged) (index sub dflt : Nat) : Nat :=
  match l.find? fun s => s.key == odKey index sub with
  | some s => leNat s.bytes
  | none => d.od index sub dflt

/-- A commit request's answer naming the entry that failed. -/
def odFail (r : OdRequest) (key status : Nat) : OdResponse :=
  { odSay r 5 status with index := BitVec.ofNat 16 (key / 256), sub := BitVec.ofNat 8 (key % 256) }

/-- The settings region, as it would be after the commit, is written when a persistent entry is staged. -/
def Dev.odStore (d : Dev) (l : List Staged) : Dev × Bool :=
  let keep := fun (s : Staged) => match odFind (s.key / 256) (s.key % 256) with
    | some e => e.persists
    | none => false
  if !l.any keep then (d, true) else
  let after := (l.filter keep).foldl (fun x s => match odFind (s.key / 256) (s.key % 256) with
    | some e => if e.long then x.setDict { x.dict with long := Tbl.put [] s.key s.bytes x.dict.long } else x.setOd e.index (s.key % 256) (leNat s.bytes)
    | none => x) d
  let (w, ok) := after.writeSettings
  ({ w with dict := { w.dict with num := d.dict.num, long := d.dict.long } }, ok)

/-- COMMIT without the reset that it may request. -/
def Dev.commitStaged (d : Dev) (r : OdRequest) (s : Session) : Dev :=
  let l := sortStaged s.staged
  let drop := fun (x : Dev) => x.modSession s.token fun q => { q with staged := [] }
  -- R438: a reset request before cast-on has completed, or during a reset or cast-off
  if l.any (fun (x : Staged) => x.key == odKey 0x1000 0) && d.phase != .running then d.odStatus r 5 8 else
  if l.isEmpty then d.odStatus r 5 0 else
  match d.odCheck s.token l with
  | some (key, 6) => (drop d).odAnswer r (odFail r key 6)
  | some (key, n) => d.odAnswer r (odFail r key n)
  | none =>
    match odCross (d.odAfter l) with
    | some (i, sub) => d.odAnswer r (odFail r (odKey i sub) 3)
    | none =>
      match d.odStore l with
      | (d1, false) => d1.odStatus r 5 12
      | (d1, true) =>
        let d2 := d1.setDict { d1.dict with commits := d1.dict.commits + 1 }
        (drop (l.foldl (fun x e => x.odApply s.token e) d2)).odStatus r 5 0

end Sys2Proof.Machine
end

