-- ==== Sys2Proof/Machine/Cast.lean ====
section
/-! DEFINITION. Power-up, resets, cast-on and cast-off (R14, R15, R22, R261 to R263, R298 to R301, R322, R330, R432 to R443, R464), and
the dictionary's commands, whose COMMIT can request a reset. -/

namespace Sys2Proof.Machine

/-! ### Power and reset pins (R433, R464) -/

/-- VAUX_UP: the always-on logic starts; the time base counts from 0 (R22). MRAM holds what it held. -/
def Dev.vauxUp (d : Dev) : Dev :=
  if d.phase != .noAux then d else { d with phase := .waiting, time := 0, pins := { d.pins with vaux := true } }

/-- What MRAM keeps without VAUX: the regions, the golden copy, the counts that R415 and R405 call persistent, and the
log with the NEXT that was stored with it (R425, R453). -/
def Dev.mramOnly (d : Dev) : Dict × ErrorLog :=
  let keep := fun (e : Nat × Nat) => e.1 == odKey 0x0103 2 || e.1 == odKey 0x8001 0 || e.1 == odKey 0x8002 0
  let r := Dev.reset
  let dict := { r.dict with num := d.dict.num.filter keep, settings := d.dict.settings, training := d.dict.training, repair := d.dict.repair,
                            errlog := d.dict.errlog, golden := d.dict.golden }
  (dict, { r.errs with slots := d.errs.slots, written := d.errs.written, next := BitVec.ofNat 32 (leNat (d.dict.errlog.body.take 4)) })

/-- VAUX_LOSS: the always-on logic stops, and with it THERMTRIP_N and the discrepancy latch are released. -/
def Dev.vauxLoss (d : Dev) : Dev :=
  if d.phase == .noAux then d else
  let (dict, errs) := d.mramOnly
  { Dev.reset with phase := .noAux, pins := { Dev.reset.pins with vaux := false }, freeCtr := d.freeCtr, dict := dict, errs := errs }

/-- Every domain but the always-on one is cut at once, and the device waits for a cold cast-on. -/
def Dev.coldCut (d : Dev) (good resetN : Bool) : Dev :=
  if d.phase == .noAux then d else
  let d1 := d.cutDomains
  { d1 with phase := .waiting, reports := [], pins := { d1.pins with pwrGood := good, resetN := resetN, forceCut := none },
            dict := { d1.dict with resetReq := none } }

/-- RESET_N: its assertion. -/
def Dev.resetPin (d : Dev) : Dev := d.coldCut d.pins.pwrGood false
/-- PWR_GOOD_LOSS. -/
def Dev.pwrGoodLoss (d : Dev) : Dev := d.coldCut false d.pins.resetN

/-! ### The reset request (R437) -/

/-- The preparations of a warm reset: record 0x83, cores stop, dirty lines go to DRAM, controllers drain into self-refresh,
links go down. -/
def Dev.warmPrepare (d : Dev) : Dev :=
  let d1 := (d.makeRecord 430 0x83 0 none none 0).persistNow.cleanAll
  let d2 := (d1.chans.map (·.1)).foldl (fun x ch => x.drainChan ch) d1
  let chans := d2.chans.map fun (e : Nat × ChanSt) =>
    (e.1, { ChanSt.reset with
      dimms := e.2.dimms, accepted := e.2.accepted, inSet := e.2.inSet, trained := e.2.trained, codes := e.2.codes, usable := e.2.usable, failed := e.2.failed })
  let d3 := d2.cutDomains
  { d3 with chans := chans, phase := .waiting, reports := [] }

/-- What a committed reset request does: 1 cold, 2 warm, 3 power-down. -/
def Dev.resetGo (d : Dev) : Dev :=
  match d.dict.resetReq with
  | some 1 => d.castOffRun .coldReset
  | some 2 => d.warmPrepare
  | some 3 => d.castOffRun .powerDown
  | _ => d

/-- COMMIT: when it commits a reset request, the reset follows its answer. -/
def Dev.odCommit (d : Dev) (r : OdRequest) : Dev :=
  d.odServe r 5 fun x s =>
    let y := x.commitStaged r s
    if (y.dict.resp.map (·.status)) == some 0 && s.staged.any fun (t : Staged) => t.key == odKey 0x1000 0 then y.resetGo else y

/-! ### Cast-on, steps 1 to 4 -/

/-- The majority of three samples of strap bit `i`, and how many samples it outvotes (R432). -/
def strapBit (l : List (BitVec 3)) (i : Nat) : Bool × Nat :=
  let n := ((List.range 3).filter fun j => (l.getD j 0).toNat.testBit i).length
  (decide (2 ≤ n), min n (3 - n))

/-- Step 1 on a cold reset: the time base, the straps. -/
def Dev.castStep1 (d : Dev) (k : CastOnInput) : Dev :=
  let b0 := strapBit k.straps 0
  let b1 := strapBit k.straps 1
  let b2 := strapBit k.straps 2
  let n := (d.od 0x0103 2 0 + b0.2 + b1.2 + b2.2) % 2 ^ 32
  { d.setOd 0x0103 2 n with
    time := 0,
    pins := { d.pins with pwrGood := true, resetN := true, socketId := bitNat b0.1 + 2 * bitNat b1.1, isManager := b2.1,
                          timeSync := none, syncSent := none, syncFirst := false, syncAdjust := 0 } }

/-- Cast-on is held at step 1 by either FORCE_OFF channel, and by a latched discrepancy or THERMTRIP (log entry 40). -/
def Dev.heldAtStep1 (d : Dev) : Bool := d.pins.foA || d.pins.foB || d.pins.discLatch || d.pins.thermTrip

/-- A sense fault, and a monitor that is out of use, stay until the next cold reset (R390). -/
def Dev.keepSense (d old : Dev) : Dev :=
  (List.range 452).foldl (fun x k =>
    let y := if (old.dom k).monitor then x else x.modDom k fun s => { s with monitor := false }
    if !old.bit (.pwrSense k) .PWR_SENSE_SFAULT then y else
    (((y.modDom k fun s => { s with guard := true }).setFld (.pwrDom k) .PWR_DOM_SFAULT 1).setFlds (.pwrSense k)
      [(.PWR_SENSE_SFAULT, 1), (.PWR_SENSE_KIND, old.fld (.pwrSense k) .PWR_SENSE_KIND)]).countFld (.stwStat (stewardOfDom k)) .STW_STAT_SFAULTS 1) d

/-- Everything but what a reset keeps returns to its reset value (R437). -/
def Dev.clearFor (d : Dev) (warm : Bool) : Dev :=
  let r := Dev.reset
  let keepCsr := fun (e : Nat × Word) => warm && decide (0xA000000 ≤ e.1) && decide (e.1 < 0xB000000)
  let d1 := { r with
    phase := .castOn, pins := d.pins, time := d.time, freeCtr := d.freeCtr, fabric := { Fabric.reset with waits := d.fabric.waits },
    csr := d.csr.filter keepCsr,
    mem := (if warm then d.mem else []), lines := (if warm then d.lines else []), zclear := (if warm then d.zclear else []),
    keys := (if warm then d.keys else []), chans := (if warm then d.chans else []), ports := (if warm then d.ports else []),
    board := { r.board with dead := (if warm then d.board.dead else []),
                            deadAt := (if warm then d.board.deadAt.filter fun e => match e.1 with | .socket _ => true | _ => false else []) },
    errs := { d.errs with pend := (if warm then d.errs.pend else []) } }
  let d1 := d1.board.dead.foldl (fun x n => x.setDead .DIR_DEAD_SOCK n true) d1
  let d1 := if warm then d1.keepSense d else d1
  let d2 := if warm then ((d1.setReg .erbLogBase 0).setReg .erbLogIdx 0).setReg .erbLogStat 0 |>.setFld .erbGlobal .ERB_GLOBAL_RECORDS 0 else d1
  let (cold, _) := d.mramOnly
  let isCtl := fun (e : Nat × Nat) => decide (odKey 0x0200 0 ≤ e.1) && decide (e.1 < odKey 0x0300 0)
  d2.setDict (if warm then { d.dict with num := d.dict.num.filter (fun e => !isCtl e), sessions := [], resp := none }
    else { cold with resetReq := d.dict.resetReq })

/-- The check that a firmware source fails (R430): 0 when it fails none, 1 for its header, 2 for its components, 3 for a steward image, 4 for
an SVN, 5 for host firmware. An absent flash part reads as all ones and fails the first (R471). -/
def Dev.fwCheck (d : Dev) (s : FwSource) : Nat :=
  let key := Tbl.get (List.replicate 96 0) (odKey 0x0151 0) d.dict.long
  let low := d.od 0x1F01 0 1
  if !s.headerOk then 1
  else if (s.ofType 1).length ≠ 1 ∨ (s.ofType 2).length ≠ 1 ∨ (d.pins.isManager = true ∧ (s.ofType 4).length ≠ 1) then 2
  else if !(s.stewardOk 1 && s.stewardOk 2 && s.signed) then 3
  else if s.stewardSvn 1 < low ∨ s.stewardSvn 2 < low then 4
  else if d.pins.isManager && !s.hostOk key then 5
  else 0

def FwSource.absent : FwSource := ⟨0, 0, false⟩

/-- Step 3: the first source that meets every check; the ones before it are recorded, a golden region without a copy as 6. -/
def Dev.chooseFw (d : Dev) (k : CastOnInput) : Dev × Option FwSource :=
  let check := fun (s : Option FwSource) => match s with
    | some s => d.fwCheck s
    | none => 6
  let l := [some (k.sources.getD 0 FwSource.absent), some (k.sources.getD 1 FwSource.absent), d.dict.golden]
  let pick := l.findIdx? fun s => check s == 0
  let passed := (l.take (pick.getD 3)).zipIdx.map fun x => (x.2, check x.1)
  let d1 := passed.foldl (fun x _ => x.err 430 0x72 0) (d.setDict { d.dict with passed := passed, source := pick.getD 3 })
  match pick.bind fun i => (l[i]?).bind id with
  | none => (d1, none)
  | some s => (d1.setDict { d1.dict with version := BitVec.ofNat 32 s.version, container := some s, patchFw := s.patch,
                                         stwFw := (BitVec.ofNat 32 (s.stewardVersion 1), BitVec.ofNat 16 (s.stewardSvn 1),
                                                   BitVec.ofNat 32 (s.stewardVersion 2), BitVec.ofNat 16 (s.stewardSvn 2)) }, some s)

/-- Step 4: the bank of each region, and the persistent values. A warm reset keeps the values in force. -/
def Dev.openStore (d : Dev) (warm : Bool) : Dev :=
  let pick := fun (x : Dev) (r : Region) (ok : List Byte → Bool) (put : Dev → Region → Dev) =>
    let q := { r with bank0 := { r.bank0 with valid := r.bank0.valid && ok r.bank0.body },
                      bank1 := { r.bank1 with valid := r.bank1.valid && ok r.bank1.body } }
    let c := q.choose
    let y := put x { r with inUse := c, fault := c.isNone }
    if c.isNone then y.err 430 0x70 0 else y
  let any := fun (_ : List Byte) => true
  let d1 := pick d d.dict.settings (fun b => (parseSettings b.length b).isSome) fun x r => x.setDict { x.dict with settings := r }
  let d2 := pick d1 d1.dict.training any fun x r => x.setDict { x.dict with training := r }
  let d3 := pick d2 d2.dict.repair any fun x r => x.setDict { x.dict with repair := r, repairs := repairsOf r.body }
  let d4 := pick d3 d3.dict.errlog any fun x r => x.setDict { x.dict with errlog := r }
  if warm then d4 else
  let d5 := if d4.dict.settings.inUse.isSome then d4.loadSettings else d4
  d5.setDict { d5.dict with inForce := d5.dict.num }

/-! ### Steps 5 and 6: domains, cores and slices -/

/-- The units of a quadrant's `n` that stay enabled: the lowest `most` that have not failed (R14); 0 enabled, 1 spare, 2 failed. -/
def rolesOf (n most : Nat) (failed : Nat → Bool) (base : Nat) : List Nat :=
  let good := ((List.range n).filter fun i => !failed (base + i)).take most
  (List.range n).map fun i => if failed (base + i) then 2 else if good.contains i then 0 else 1

/-- The power, setpoints and stewards of step 5, and the mirrors of always-on registers. A domain that fails, or whose steward does not
start, is failed. -/
def Dev.powerUp (d0 : Dev) (k : CastOnInput) (s : FwSource) : Dev :=
  let dead := fun (j : Nat) => (k.failedDoms.any fun x => x.val == j) || k.deadStewards.any fun x => x.val == stewardOfDom j && x.val != 64
  let d := ((List.range 452).filter dead).foldl (fun x j => x.modDom j fun y => { y with failed := true }) d0
  let core := d.od 0x2001 1 750
  let other := d.od 0x2001 4 750
  let volts := fun (x : Dev) (k mv : Nat) =>
    let v := mv + if (x.dom k).guard then 25 else 0
    x.setFlds (.pwrVset k) [(.PWR_VSET_PREV, v), (.PWR_VSET_TARGET, v)]
  let d1 := (List.range 264).foldl (fun x k => volts x k core) d
  let d2 := ((List.range 132).map domOfSlice ++ (List.range 4).map domOfEngine ++ (List.range 4).map domOfFabric).foldl (fun x k => volts x k other) d1
  let d3 := (List.range 65).foldl (fun x n => x.setFlds (.stwStat n)
    (if (k.deadStewards.any fun x => x.val == n) && n != 64 then [] else
      [(.STW_STAT_RUN, 1), (.STW_STAT_VERSION, s.stewardVersion (if n = 64 then 1 else 2))])) d2
  let d4 := d3.setFlds .pwrSafe [(.PWR_SAFE_FOA, bitNat d.pins.foA), (.PWR_SAFE_FOB, bitNat d.pins.foB),
    (.PWR_SAFE_DISAGREE, bitNat d.pins.disagree.isSome), (.PWR_SAFE_NEAR, d.od 0x8001 0 0), (.PWR_SAFE_DTIME, d.odForce 0x8000 0 4)]
  ((d4.setFlds .pwrStat [(.PWR_STAT_LIMIT, d4.govLimit), (.PWR_STAT_REEFPIN, bitNat d.pins.reefN)]).mirrorHolds).mirrorTimeouts

/-- The state of a domain, and REQ with it (R377). -/
def Dev.setDomain (d : Dev) (k st : Nat) : Dev := (d.setPower k st).setFld (.pwrDom k) .PWR_DOM_REQ st

/-- The march tests of step 6 under OD 0x3030 (R161, R190, R191): repairs at once, and the slices whose spares run out. -/
def Dev.castMarch (d : Dev) (k : CastOnInput) (warm : Bool) : Dev × List Nat :=
  let d0 := (List.range 132).foldl (fun x n => x.showSpares n) d
  if (if warm then d.od 0x3030 1 3 else d.od 0x3030 0 0) = 3 then (d0, []) else
  k.march.foldl (fun (p : Dev × List Nat) m =>
    let (x, bad) := p.1.marchRepair m.1.val m.2.1 m.2.2
    (x, if bad then m.1.val :: p.2 else p.2)) (d0, [])

/-- Roles and power of cores and slices (R14), logical numbers (R15), way masks, classes and prefetch settings. -/
def Dev.enable (d0 : Dev) (k : CastOnInput) (warm : Bool) : Dev :=
  let (d, worn) := d0.castMarch k warm
  let fc := fun (c : Nat) => (d.dom c).failed || k.failedCores.any fun x => x.val == c
  let fs := fun (n : Nat) => worn.contains n || (d.dom (domOfSlice n)).failed || k.failedSlices.any fun x => x.val == n
  let cores := (List.range 4).flatMap fun q => rolesOf 66 64 fc (q * 66)
  let slices := (List.range 4).flatMap fun q => rolesOf 33 32 fs (q * 33)
  let on := (List.range 264).filter fun c => cores.getD c 2 == 0
  let d1 := cores.zipIdx.foldl (fun x p =>
    ((x.setFlds (.coreState p.2) [(.CORE_STATE_ROLE, p.1)]).setFld (.coreIdent p.2) .CORE_IDENT_PHYS p.2).setDomain p.2 2) d
  let d2 := on.zipIdx.foldl (fun x p => x.setFlds (.coreIdent p.1) [(.CORE_IDENT_LVALID, 1), (.CORE_IDENT_LOGICAL, p.2)]) d1
  let d3 := (List.range 264).foldl (fun x c => (x.setReg (.corePrefetch c) d.prefetchStart).setFld (.coreUcode c) .CORE_UCODE_ROM_REV Config.romRev.toNat) d2
  let d4 := slices.zipIdx.foldl (fun x p =>
    let (i, y) := x.draw
    (((y.setFld (.slcState p.2) .SLC_STATE_ROLE p.1).setDomain (domOfSlice p.2) (if p.1 = 0 then 0 else 2)).modSlice p.2 fun s =>
        { s with lfsr := (Config.entropy i).truncate 16 })) d3
  let d5 := (List.range 16).foldl (fun x c =>
    let m := if x.od 0x2100 0 0 = 0 then 0xFFFF else x.od 0x2101 c 0xFFFF
    (List.range 132).foldl (fun y n => y.setFld (.slcCos n c) .SLC_COS_MASK m) x) d4
  on.zipIdx.foldl (fun x p => x.setCoreClass p.1 (x.od 0x2102 p.2 0)) d5

/-- The slice hash of a new cast-on (R171 to R173), the checkpoint places (R212), engines and fabric On. -/
def Dev.mapSlices (d : Dev) : Dev :=
  let numa : NumaMode := if d.odForce 0x3001 0 0 = 1 then .quartered else .unified
  let (d1, key) := d.newKey
  let map : HashMap := ⟨key, masksOf key, slotTable (numa == .quartered) d1.enabledSlices⟩
  let d2 := (d1.setHash { Dev.reset.hash with old := map, new := map, start := map, numa := numa }).ckInit
  let d3 := ((List.range 4).map domOfEngine ++ (List.range 4).map domOfFabric).foldl (fun x k => x.setDomain k 0) d2
  ((List.range 4).filter fun e => (d3.dom (domOfEngine e)).failed).foldl (fun x e => (x.engDead e).setDomain (domOfEngine e) 2) d3

/-! ### Step 7: memory (R261 to R263, R271) -/

def dimmsSame (a b : Dimms) : Bool := a.count == b.count && a.ranks == b.ranks && a.gib == b.gib
/-- A population that R258 supports. -/
def dimmsOk (x : Dimms) : Bool :=
  x.supported && (x.count == 1 || x.count == 2) && [1, 2, 4].contains x.ranks && decide (16 ≤ x.gib) && decide (x.gib ≤ 256)
/-- The capacity C of a channel in bytes. -/
def dimmsBytes (x : Dimms) : Nat := x.count * x.gib * 2 ^ 30

/-- The channels of the first row of R261 that fits. -/
def Dev.interleave (d : Dev) : Option (List Nat) :=
  let fits := fun (l : List Nat) =>
    (l.all fun ch => (d.chan ch).accepted && (d.chan ch).trained) &&
      match l.head?.bind fun ch => (d.chan ch).dimms with
      | some x => l.all fun ch => match (d.chan ch).dimms with
        | some y => dimmsSame x y
        | none => false
      | none => false
  let outer := (List.range 16).filter fun ch => ch % 4 == 0 || ch % 4 == 3
  [List.range 16, outer].find? fits

/-- A register with its reserved bits 0. -/
def Reg.masked (r : Reg) (w : Word) : Word := w &&& r.fields.foldl (fun m x => m ||| x.f.mask) 0

/-- The registers of a channel in the set: population, rate and timing sets A and B, at the point in force. One that has failed stays failed until a
cold reset (R276). -/
def Dev.fillMc (d : Dev) (ch : Nat) : Dev :=
  let hi := d.odForce 0x3010 1 d.topRate
  let low := d.od 0x3010 0 0
  let tim := fun (x : Dev) (r : Reg) (rate i : Nat) => x.setReg r (r.masked (Config.timingWord rate i))
  let d1 := tim (tim (tim (tim d (.mcTimingA0 ch) hi 0) (.mcTimingA1 ch) hi 1) (.mcTimingA2 ch) hi 2) (.mcTimingA3 ch) hi 3
  let d2 := tim (tim (tim (tim d1 (.mcTimingB0 ch) 4800 0) (.mcTimingB1 ch) 4800 1) (.mcTimingB2 ch) 4800 2) (.mcTimingB3 ch) 4800 3
  let d3 := (d2.setFld (.mcTimingA0 ch) .MC_TIMING0_RATE (hi / 100)).setFld (.mcTimingB0 ch) .MC_TIMING0_RATE 48
  let ranks := match (d.chan ch).dimms with
    | some x => x.count * x.ranks
    | none => 0
  d3.setFlds (.mcCtl ch) [(.MC_CTL_TSEL, low), (.MC_CTL_STATE, if (d.chan ch).failed then 6 else 0), (.MC_CTL_RANKS, 2 ^ ranks - 1),
    (.MC_CTL_CAP, (d.chan ch).usable / 2 ^ 29), (.MC_CTL_RATE, (if low = 1 then 4800 else hi) / 100)]

/-- The decoder entries 0 to 3 (R263), in GiB. The top of a node's range is rounded up to a whole GiB, since LIMIT counts GiB;
an address above N × U lies outside the node's DRAM (R25). -/
def Dev.decoders (d : Dev) : Dev :=
  (List.range 4).foldl (fun x q =>
    let n := (x.nodeSet q).length * x.nodeUsable q
    if q ≠ 0 ∧ !x.quartered ∨ n = 0 then (x.setReg (.fabSadRange q) 0).setReg (.fabSadTarget q) 0
    else
      let base := x.nodeBase q / 2 ^ 30
      (x.setFlds (.fabSadRange q) [(.FAB_SAD_RANGE_EN, 1), (.FAB_SAD_RANGE_BASE, base), (.FAB_SAD_RANGE_LIMIT, base + (n + 2 ^ 30 - 1) / 2 ^ 30 - 1)]).setFlds
        (.fabSadTarget q) [(.FAB_SAD_TARGET_TARGET, q)]) d

/-- The serial numbers of the set's DIMMs, which the training region keeps with the results (R273). -/
def Dev.serialBytes (d : Dev) : List Byte := (List.range 16).flatMap fun ch => match (d.chan ch).dimms with
  | some x => leBytes 1 x.count ++ leBytes 8 (x.serials.getD 0 0) ++ leBytes 8 (x.serials.getD 1 0)
  | none => List.replicate 17 0

/-- The results of a full training, after the serial numbers of the DIMMs that they belong to, are written to their region (R273, R428). -/
def Dev.trainingBytes (d : Dev) : List Byte := (List.range 16).flatMap fun ch => let l := (d.chan ch).codes
  leBytes 2 l.length ++ l.flatMap fun c => leBytes 1 c
/-- The results that the region holds of a channel; `skip` results of other channels stand before them. -/
def storedCodes : List Byte → Nat → List Nat
  | a :: b :: t, 0 => (t.take (leNat [a, b])).map (·.toNat)
  | a :: b :: t, n + 1 => storedCodes (t.drop (leNat [a, b])) n
  | _, _ => []
def Dev.storeTraining (d : Dev) : Dev :=
  match d.storeWorks with
  | (d1, true) => d1.setDict { d1.dict with training := d1.dict.training.writeBank (d1.serialBytes ++ d1.trainingBytes) d1.time }
  | (d1, false) => (d1.setDict { d1.dict with training := { d1.dict.training with fault := true } }).err 430 0x70 0

/-- The codes at which a channel's bits are centred, by the sweeps of its training; none where a bit fails (R274). -/
def centres (l : List (List Nat)) : Option (List Nat) := l.mapM centreOf

/-- Step 7: none when no set fits. A fast training takes the stored results; a full training, of a channel whose verification fails too, stores its
own; a warm reset keeps them (R273). -/
def Dev.castMemory (d : Dev) (k : CastOnInput) (warm : Bool) : Option Dev :=
  let set := fun (x : Dev) => (List.range 16).foldl (fun y ch =>
    if (y.chan ch).inSet then (y.fillMc ch).setDomain (domOfChan ch) 0 else (y.setFld (.mcCtl ch) .MC_CTL_STATE 5).setDomain (domOfChan ch) 2) x
  if warm then some (set d).decoders else
  let d1 := (List.range 16).foldl (fun x ch => match k.dimms[ch]? with
    | some m => x.modChan ch fun _ => { ChanSt.reset with
        dimms := some m, accepted := dimmsOk m, codes := [],
        trained := k.trainOk.getD ch false && (centres (k.sweeps.getD ch [])).isSome && !(x.dom (domOfChan ch)).failed, usable := dimmsBytes m - 2 ^ 29 }
    | none => x) d
  match d1.interleave with
  | none => none
  | some l =>
    let d2 := l.foldl (fun x ch => x.modChan ch fun c => { c with inSet := true }) d1
    let n := d2.serialBytes.length
    let fast := d2.odForce 0x3050 0 0 == 0 && k.verifyOk && d2.dict.training.body.take n == d2.serialBytes
    let codes := fun (ch : Nat) => if fast then storedCodes (d2.dict.training.body.drop n) ch else (centres (k.sweeps.getD ch [])).getD []
    let d3 := (List.range 16).foldl (fun x ch => x.modChan ch fun c => { c with codes := if c.inSet then codes ch else [] }) d2
    some (set (if fast then d3 else d3.storeTraining)).decoders

/-! ### Steps 9 and 10: microcode, skeins -/

/-- The patch that every core loads (R128): the dictionary's image on a warm reset when it passes and is no older, else the firmware
image's; none leaves ROM microcode. OD 0x5101:01 shows the latest check (R127). -/
def Dev.castPatch (d : Dev) (warm : Bool) : Dev :=
  let low := d.od 0x5102 0 1
  let fw := d.dict.patchFw
  let mine := d.dict.patch
  let load := fun (x : Dev) (img : List Byte) (fail : Nat) => (List.range 264).foldl (fun y c => (y.setFlds (.coreUcode c)
    [(.CORE_UCODE_PATCH_ID, patchId img), (.CORE_UCODE_PENDING_ID, 0), (.CORE_UCODE_PEND, 0), (.CORE_UCODE_LOADFAIL, fail)]).modCore c
      fun k => { k with patch := img }) { x with dict := { x.dict with patches := (List.range 264).map fun c => (c, img) } }
  let d1 := if warm && !mine.isEmpty then d.setOd 0x5101 1 (patchCheck mine low) else d
  if warm && !mine.isEmpty && patchCheck mine low == 0 && decide (patchId fw ≤ patchId mine) then load d1 mine 0
  else if fw.isEmpty then load d1 [] 0
  else
    let d2 := d1.setOd 0x5101 1 (patchCheck fw low)
    if patchCheck fw low = 0 then load d2 fw 0 else (load d2 [] 1).err 430 0x71 0

/-- Step 10 for the root ports: host port numbers in ascending order, at most 16 of them (R301); a switch is supported for a device of type 3 only
(R319). -/
def Dev.castPorts (d : Dev) (k : CastOnInput) : Dev :=
  let all := (List.range 32).flatMap fun s => if (d.dom (domOfSkein s)).failed then [] else (d.skeinPorts s).map fun j => (s, 4 * s + j)
  let cxl := (all.filter fun p => d.odForce 0x4000 p.1 1 == 2).map (·.2)
  let d1 := all.foldl (fun x p =>
    let host := cxl.findIdx? (· == p.2)
    if host.any fun i => decide (16 ≤ i) then x
    else x.modPort p.2 fun _ => { PortSt.reset with
      assigned := true, cxl := host, up := k.linksUp.contains p.2, lanes := d.skeinLanes p.1, best := d.odForce 0x4002 p.1 0, rate := d.odForce 0x4002 p.1 0,
      dev := if host.isSome then (k.cxlDevs.find? fun v => v.1.val == p.2 && (!v.2.switched || v.2.type == 3)).map (·.2) else none }) { d with ports := [] }
  (List.range 32).foldl (fun x s =>
    let bits := fun (f : PortSt → Bool) => ((List.range 4).filter fun j => f (x.port (4 * s + j))).foldl (fun n j => n + 2 ^ j) 0
    let num := (List.range 4).foldl (fun n j => n + ((x.port (4 * s + j)).cxl.getD 0) * 2 ^ (4 * j)) 0
    (x.setFlds (.sknState s) [(.SKN_STATE_FUNC, if x.skeinUsed s then x.odForce 0x4000 s 1 else 0), (.SKN_STATE_WIDTH, x.odForce 0x4001 s 1),
      (.SKN_STATE_UP, bits fun p => p.assigned && p.up), (.SKN_STATE_CXLV, bits fun p => p.cxl.isSome), (.SKN_STATE_CXLNUM, num)]).setDomain
        (domOfSkein s) (if x.skeinUsed s && !(x.dom (domOfSkein s)).failed then 0 else 2)) d1

/-- Why R322 refuses a link whose ends have exchanged their straps: 1 one SOCKET_ID, 2 both ends claim to be manager, 3 the manager is not socket 0,
4 a third link to the peer; 0 where it does not. -/
def Dev.linkRefusal (d : Dev) (p : BrxPeer) : Nat :=
  let s := p.socket.val
  if s = d.socket then 1
  else if d.pins.isManager && p.manager then 2
  else if d.pins.isManager && d.socket != 0 || p.manager && s != 0 then 3
  else if 2 ≤ ((List.range 16).filter fun j => (d.link j).up && (d.link j).peer == s).length then 4 else 0

/-- A Brixnil link is brought up at the rate of OD 0x4030:00, unless R322 refuses it. -/
def Dev.castBrx (d : Dev) (k : CastOnInput) : Dev :=
  k.peers.foldl (fun x p =>
    let i := p.link.val
    let s := p.socket.val
    let why := x.linkRefusal p
    if x.odForce 0x4000 (2 * i) 1 != 3 || !x.skeinUsed (2 * i) || (x.dom (domOfSkein (2 * i))).failed then x
    else if why ≠ 0 then { x with board := { x.board with refused := x.board.refused ++ [(i, s, why)] } }
    else
      let y := x.modLink i fun _ => { BrxLink.reset with
        up := true, peer := s, credits := [64, 64, 64, 64], silentAt := x.time, rate := x.odForce 0x4030 0 0 }
      let z := y.setFlds (.sknState (2 * i)) [(.SKN_STATE_UP, 1), (.SKN_STATE_PVALID, 1), (.SKN_STATE_PEER, s)]
      { z with board := { z.board with present := insertNat s z.board.present } }) d

/-! ### Steps 11 and 12 -/

/-- The reset causes (R442, R443). -/
def Dev.castCauses (d : Dev) (warm byPin : Bool) : Dev :=
  let n := d.errs.written.toNat % 2047
  let l := if d.errs.slots.length < 2047 then d.errs.slots else d.errs.slots.drop n ++ d.errs.slots.take n
  let last := l.reverse.find? fun r => r.cls == 4 || r.cls == 5
  let prev : List Fld := match last with
    | none => []
    | some r =>
      if r.code = 0x80 then
        (if r.aux = 1 ∨ r.aux = 2 then [.ODM_RCAUSE_SOC_PREV_CASTOFF, .ODM_RCAUSE_SOC_PREV_FORCEOFF]
         else if r.aux = 3 ∨ r.aux = 4 then [.ODM_RCAUSE_SOC_PREV_CASTOFF, .ODM_RCAUSE_SOC_PREV_FATAL] else [.ODM_RCAUSE_SOC_PREV_CASTOFF])
      else if r.code = 0x65 then [.ODM_RCAUSE_SOC_PREV_THERMTRIP]
      else if r.cls = 4 then [.ODM_RCAUSE_SOC_PREV_FATAL]
      else if r.code = 0x83 then (if warm then [] else [.ODM_RCAUSE_SOC_PREV_CUT])
      else [.ODM_RCAUSE_SOC_PREV_CUT]
  let now : Fld := if warm then .ODM_RCAUSE_SOC_REQWARM else if d.dict.resetReq == some 1 then .ODM_RCAUSE_SOC_REQCOLD
    else if byPin then .ODM_RCAUSE_SOC_PIN else .ODM_RCAUSE_SOC_PWRGOOD
  let d1 := d.setReg .odmRcauseSoc (((now :: prev)).foldl (fun w f => setF w f 1) 0)
  (List.range 452).foldl (fun x k => x.setReg (.odmRcause k) (setF 0 (if warm then .ODM_RCAUSE_WARM else .ODM_RCAUSE_COLD) 1)) d1

/-- An image is copied into memory line by line, and the controllers issue what they have accepted meanwhile. -/
def Dev.loadImage (d : Dev) : Nat → Nat → List Byte → Dev
  | 0, _, _ => d
  | _ + 1, _, [] => d
  | n + 1, pa, l =>
    let k := 64 - pa % 64
    (d.makeRoom.writeBytesAs evAgent 0 2 pa (l.take k)).1.loadImage n (pa + k) (l.drop k)

/-- Step 12: record 0x82; on the manager the host firmware is copied and logical core 0 starts at its entry. A worker's wake address
is the one that the manager sets, which is free here. -/
def Dev.castDone (d : Dev) (ok : Bool) : Dev :=
  let d1 := (d.makeRecord 430 0x82 0 none none 0).persist ok
  let d2 : Dev := { d1 with phase := .running, dict := { d1.dict with resetReq := none } }
  match d2.pins.isManager, d2.dict.container with
  | true, some s =>
    let at_ := s.load + s.entry
    let d3 := (d2.loadImage (s.size / 64 + 2) s.load s.code).setFld .pwrWakePc .PWR_WAKE_PC_PC (at_ / 4)
    match d3.phys 0 with
    | some c => (d3.setDomain c 0).startCore c d3.wakePc
    | none => d3
  | _, _ =>
    let (i, d3) := d2.draw
    d3.setFld .pwrWakePc .PWR_WAKE_PC_PC ((Config.deviceData i).toNat % 2 ^ 50)

/-- Steps 2 to 12. -/
def Dev.castFrom2 (d : Dev) (k : CastOnInput) (warm : Bool) : Dev :=
  if !k.chiefOk then (d.clearFor warm).castHalt 2 .halted else
  let d1 := (d.clearFor warm).openStore warm
  match d1.chooseFw k with
  | (d2, none) => d2.castHalt 3 .romDict
  | (d2, some s) =>
    let d30 := (d2.castCauses warm k.byPin).powerUp k s
    if (List.range 4).any fun q => (d30.dom (domOfFabric q)).failed then d30.castHalt 5 .halted else
    let d3 := d30.enable k warm
    if ((List.range 264).all fun c => d3.coreRole c != 0) || d3.enabledSlices.isEmpty then d3.castHalt 6 .halted else
    match d3.mapSlices.castMemory k warm with
    | none => d3.mapSlices.castHalt 7 .halted
    | some d4 =>
      let (i, d5) := d4.draw
      let d6 := if warm then d5 else { d5 with
        zclear := [], keys := [(0, ⟨(Config.entropy i).truncate 256, (Config.entropy i).extractLsb' 256 256⟩)] }
      let d7 := ((d6.castPatch warm).castPorts k).castBrx k
      let d8 := { d7 with pins := { d7.pins with timeSync := if d7.pins.isManager then some false else none } }
      if d8.pins.isManager then ({ d8.sendSync with board := { d8.sendSync.board with released := true } }).castDone k.recordOk else d8

/-- CAST_ON (R434): begins when PWR_GOOD is asserted and RESET_N deasserted, or after a reset request. -/
def Dev.castOn (d : Dev) (k : CastOnInput) : Dev :=
  match d.phase with
  | .waiting | .step1Held =>
    if d.dict.resetReq = some 2 then d.castFrom2 k true
    else
      let d1 := d.castStep1 k
      if d1.heldAtStep1 then { d1 with phase := .step1Held } else d1.castFrom2 k false
  | _ => d

/-- WORKER_RELEASE (R330): a worker that waits in step 11 completes its cast-on. -/
def Dev.workerRelease (d : Dev) : Dev :=
  if d.phase == .castOn && !d.pins.isManager then
    let (d1, ok) := d.storeWorks
    { d1 with board := { d1.board with released := true } }.castDone ok
  else d

/-- CAST_OFF (R439). -/
def Dev.castOffCommand (d : Dev) (why : CastOffCause) : Dev := if d.phase == .running then d.castOffRun why else d

/-! ### The commands -/

def execOdOpen (r : OdRequest) (s : State) : Host.Outcome State Fault Refusal := s.done (s.dev.odOpen r)
def execOdClose (r : OdRequest) (s : State) : Host.Outcome State Fault Refusal := s.done (s.dev.odClose r)
def execOdRead (r : OdRequest) (s : State) : Host.Outcome State Fault Refusal := s.done (s.dev.odRequestRead r)
def execOdStage (r : OdRequest) (s : State) : Host.Outcome State Fault Refusal := s.done (s.dev.odStage r)
def execOdCommit (r : OdRequest) (s : State) : Host.Outcome State Fault Refusal := s.done (s.dev.odCommit r)
def execOdDiscard (r : OdRequest) (s : State) : Host.Outcome State Fault Refusal := s.done (s.dev.odDiscard r)
def execOdDescribe (r : OdRequest) (s : State) : Host.Outcome State Fault Refusal := s.done (s.dev.odRequestDescribe r)
def execSessionTimeout (token : Word32) (s : State) : Host.Outcome State Fault Refusal := s.next (s.dev.endSession token)
def execTransferStall (n : SockId) (s : State) : Host.Outcome State Fault Refusal := s.next (s.dev.transferStall n.val)
def execVauxUp (s : State) : Host.Outcome State Fault Refusal := s.next s.dev.vauxUp
def execVauxLoss (s : State) : Host.Outcome State Fault Refusal := s.next s.dev.vauxLoss
def execResetN (s : State) : Host.Outcome State Fault Refusal := s.next s.dev.resetPin
def execPwrGoodLoss (s : State) : Host.Outcome State Fault Refusal := s.next s.dev.pwrGoodLoss
def execCastOn (k : CastOnInput) (s : State) : Host.Outcome State Fault Refusal := s.done (s.dev.castOn k)
def execCastOff (why : CastOffCause) (s : State) : Host.Outcome State Fault Refusal := s.done (s.dev.castOffCommand why)
def execWorkerRelease (s : State) : Host.Outcome State Fault Refusal := s.done s.dev.workerRelease

end Sys2Proof.Machine
end

