-- ==== Sys2Proof/Machine/Decimal.lean ====
section
/-! DEFINITION. Packed decimal (R75 to R81). -/

namespace Sys2Proof.Machine

/-- Nibbles of an operand: 16, or 32 of a register pair (R75). -/
def nibbles (w : Bool) : Nat := if w then 32 else 16
def nib (x k : Nat) : Nat := x / 16 ^ k % 16
def Arch.getDec (a : Arch) (r : RegNo) (w : Bool) : Nat := if w then a.getPair r else (a.getG r).toNat
def Arch.setDec (a : Arch) (r : RegNo) (w : Bool) (n : Nat) : Arch := if w then a.setPair r n else a.setG r (BitVec.ofNat 64 n)

/-- The sign nibble first, then nibbles 1 upward: the CODE of the first that is invalid (R76). -/
def decCheck (x n op : Nat) : Option Nat :=
  let sign := nib x 0
  if sign ≠ 0xC ∧ sign ≠ 0xD ∧ sign ≠ 0xF then some (op * 16 + 2)
  else ((List.range n).find? fun k => decide (1 ≤ k) && decide (9 < nib x k)).map fun k => k * 256 + op * 16 + 1

/-- The digits' value, `k` digits from nibble `i` up. -/
def digitsFrom (x : Nat) : Nat → Nat → Nat
  | 0, _ => 0
  | k + 1, i => nib x i + 10 * digitsFrom x k (i + 1)
def decMag (x n : Nat) : Nat := digitsFrom x (n - 1) 1
def decValue (x n : Nat) : Int := if nib x 0 = 0xD then - (decMag x n : Int) else (decMag x n : Int)

/-- `k` decimal digits of a magnitude as nibbles. -/
def packDigits : Nat → Nat → Nat
  | 0, _ => 0
  | k + 1, m => m % 10 + 16 * packDigits k (m / 10)
/-- A result as it is stored: the low n − 1 digits, sign 0xD only for a negative value whose stored magnitude is not zero (R77). -/
def decPack (v : Int) (n : Nat) : Nat :=
  let m := v.natAbs % 10 ^ (n - 1)
  packDigits (n - 1) m * 16 + (if v < 0 ∧ m ≠ 0 then 0xD else 0xC)
def decOverflow (v : Int) (n : Nat) : Bool := decide (10 ^ (n - 1) ≤ v.natAbs)

/-- What a decimal instruction stores: the bits of rd (one register or a pair), and p[pd]; or the CODE of its fault. -/
inductive DecRes
  | ok (bits : Nat) (p : Bool)
  | fault (code : Nat)
deriving DecidableEq, Repr

/-- A result under R77. -/
def decStore (v : Int) (n : Nat) : DecRes := .ok (decPack v n) (decOverflow v n)
/-- The checks of one or two decimal sources, then the operation. -/
def decTwo (a b n : Nat) (f : Int → Int → DecRes) : DecRes :=
  match decCheck a n 1 with
  | some c => .fault c
  | none => match decCheck b n 2 with
    | some c => .fault c
    | none => f (decValue a n) (decValue b n)
def decOne (a n : Nat) (f : Int → DecRes) : DecRes :=
  match decCheck a n 1 with
  | some c => .fault c
  | none => f (decValue a n)

/-- A signed value of 64 or 128 bits, as a register or a pair holds it. -/
def binBits (v : Int) (w : Bool) : Nat := if w then (BitVec.ofInt 128 v).toNat else (BitVec.ofInt 64 v).toNat
def binValue (x : Nat) (w : Bool) : Int := if w then (BitVec.ofNat 128 x).toInt else (BitVec.ofNat 64 x).toInt

/-- v / 10^k rounded to an integer, halves away from zero (R79). -/
def roundTen (v : Int) (k : Nat) : Int :=
  let q := (2 * v.natAbs + 10 ^ k) / (2 * 10 ^ k)
  if v < 0 then - (q : Int) else (q : Int)
/-- DADJ (R79): the count is clamped to −32 to +32. -/
def dadjOf (v : Int) (count : Int) (n : Nat) : DecRes :=
  let c := max (-32) (min 32 count)
  if 0 ≤ c then
    let e := v * 10 ^ c.toNat
    .ok (decPack e n) (decOverflow e n)
  else
    let k := (-c).toNat
    let r := roundTen v k
    .ok (decPack r n) (decOverflow r n || decide (r * 10 ^ k ≠ v))
/-- DCMP (R78). -/
def dcmpOf (u v : Int) (w : Bool) : DecRes := .ok (binBits (if u < v then -1 else if u = v then 0 else 1) w) (decide (u < v))
/-- DDIV (R80). -/
def ddivOf (u v : Int) (n : Nat) : DecRes := if v = 0 then .ok 0xC true else .ok (decPack (u.tdiv v) n) false

/-- The registers that a decimal operand names. -/
def decRegs (r : RegNo) (w : Bool) : List Nat := if w then [r.val, (nextReg r).val] else [r.val]

/-- A decimal instruction: a fault writes no destination and no predicate; in run-ahead, an invalid operand and a microcoded
instruction leave the destinations invalid. -/
def decWork (x : Ctx) (o : OpsD) (srcs : List Nat) (micro : Option MicroOp) (f : Arch → DecRes) : Work where
  srcs := srcs
  dsts := decRegs o.rd o.w ++ [pnum o.pd]
  micro := micro
  body := fun d =>
    match f (d.arch x.core.val) with
    | .fault code => (d, .stop (.trap 6 code 0))
    | .ok bits p => (d.modArch x.core.val fun a => (a.setDec o.rd o.w bits).setP o.pd p, .next)
  ahead := fun d =>
    match f (d.arch x.core.val), micro with
    | .ok bits p, none => (d.modArch x.core.val fun a => (a.setDec o.rd o.w bits).setP o.pd p, true)
    | _, _ => (d, false)

def srcs2 (o : OpsD) : List Nat := decRegs o.rs1 o.w ++ decRegs o.rs2 o.w
def Arch.dec1 (a : Arch) (o : OpsD) : Nat := a.getDec o.rs1 o.w
def Arch.dec2 (a : Arch) (o : OpsD) : Nat := a.getDec o.rs2 o.w

def execDadd (x : Ctx) (o : OpsD) (s : State) : Host.Outcome State Fault Refusal :=
  s.next (s.dev.run x (.dadd x o) (decWork x o (srcs2 o) none fun a => decTwo (a.dec1 o) (a.dec2 o) (nibbles o.w) fun u v => decStore (u + v) (nibbles o.w)))
def execDsub (x : Ctx) (o : OpsD) (s : State) : Host.Outcome State Fault Refusal :=
  s.next (s.dev.run x (.dsub x o) (decWork x o (srcs2 o) none fun a => decTwo (a.dec1 o) (a.dec2 o) (nibbles o.w) fun u v => decStore (u - v) (nibbles o.w)))
def execDadj (x : Ctx) (o : OpsD) (s : State) : Host.Outcome State Fault Refusal :=
  s.next (s.dev.run x (.dadj x o) (decWork x o (decRegs o.rs1 o.w ++ [o.rs2.val]) none fun a =>
    decOne (a.dec1 o) (nibbles o.w) fun v => dadjOf v (a.getG o.rs2).toInt (nibbles o.w)))
def execDcmp (x : Ctx) (o : OpsD) (s : State) : Host.Outcome State Fault Refusal :=
  s.next (s.dev.run x (.dcmp x o) (decWork x o (srcs2 o) none fun a => decTwo (a.dec1 o) (a.dec2 o) (nibbles o.w) fun u v => dcmpOf u v o.w))
def execDmul (x : Ctx) (o : OpsD) (s : State) : Host.Outcome State Fault Refusal :=
  s.next (s.dev.run x (.dmul x o) (decWork x o (srcs2 o) (microOp (.dmul x o)) fun a => decTwo (a.dec1 o) (a.dec2 o) (nibbles o.w) fun u v => decStore (u * v) (nibbles o.w)))
def execDdiv (x : Ctx) (o : OpsD) (s : State) : Host.Outcome State Fault Refusal :=
  s.next (s.dev.run x (.ddiv x o) (decWork x o (srcs2 o) (microOp (.ddiv x o)) fun a => decTwo (a.dec1 o) (a.dec2 o) (nibbles o.w) fun u v => ddivOf u v (nibbles o.w)))
def execDcvb (x : Ctx) (o : OpsD) (s : State) : Host.Outcome State Fault Refusal :=
  s.next (s.dev.run x (.dcvb x o) (decWork x o (decRegs o.rs1 o.w) (microOp (.dcvb x o)) fun a =>
    decOne (a.dec1 o) (nibbles o.w) fun v => .ok (binBits v o.w) false))
def execDcvd (x : Ctx) (o : OpsD) (s : State) : Host.Outcome State Fault Refusal :=
  s.next (s.dev.run x (.dcvd x o) (decWork x o (decRegs o.rs1 o.w) (microOp (.dcvd x o)) fun a => decStore (binValue (a.dec1 o) o.w) (nibbles o.w)))

end Sys2Proof.Machine
end

