-- ==== Sys2Proof/Machine/Dispatch.lean ====
section
/-! DEFINITION. The dispatch: one arm per command, each a direct call of its meaning. -/

namespace Sys2Proof.Machine

/-- The effect of a command on everything but the queue. -/
def exec (i : Instr) (s : State) : Host.Outcome State Fault Refusal :=
  match i with
  | .add x o => Sys2Proof.Machine.execAdd x o s
  | .sub x o => Sys2Proof.Machine.execSub x o s
  | .and x o => Sys2Proof.Machine.execAnd x o s
  | .or x o => Sys2Proof.Machine.execOr x o s
  | .xor x o => Sys2Proof.Machine.execXor x o s
  | .andn x o => Sys2Proof.Machine.execAndn x o s
  | .sll x o => Sys2Proof.Machine.execSll x o s
  | .srl x o => Sys2Proof.Machine.execSrl x o s
  | .sra x o => Sys2Proof.Machine.execSra x o s
  | .ror x o => Sys2Proof.Machine.execRor x o s
  | .min x o => Sys2Proof.Machine.execMin x o s
  | .max x o => Sys2Proof.Machine.execMax x o s
  | .minu x o => Sys2Proof.Machine.execMinu x o s
  | .maxu x o => Sys2Proof.Machine.execMaxu x o s
  | .clz x rd rs1 => Sys2Proof.Machine.execClz x rd rs1 s
  | .ctz x rd rs1 => Sys2Proof.Machine.execCtz x rd rs1 s
  | .popc x rd rs1 => Sys2Proof.Machine.execPopc x rd rs1 s
  | .addw x o => Sys2Proof.Machine.execAddw x o s
  | .subw x o => Sys2Proof.Machine.execSubw x o s
  | .sllw x o => Sys2Proof.Machine.execSllw x o s
  | .srlw x o => Sys2Proof.Machine.execSrlw x o s
  | .sraw x o => Sys2Proof.Machine.execSraw x o s
  | .mul x o => Sys2Proof.Machine.execMul x o s
  | .mulh x o => Sys2Proof.Machine.execMulh x o s
  | .mulhu x o => Sys2Proof.Machine.execMulhu x o s
  | .div x o => Sys2Proof.Machine.execDiv x o s
  | .divu x o => Sys2Proof.Machine.execDivu x o s
  | .rem x o => Sys2Proof.Machine.execRem x o s
  | .remu x o => Sys2Proof.Machine.execRemu x o s
  | .addi x o => Sys2Proof.Machine.execAddi x o s
  | .andi x o => Sys2Proof.Machine.execAndi x o s
  | .ori x o => Sys2Proof.Machine.execOri x o s
  | .xori x o => Sys2Proof.Machine.execXori x o s
  | .shi x rd rs1 w kind amount => Sys2Proof.Machine.execShi x rd rs1 w kind amount s
  | .addis x o => Sys2Proof.Machine.execAddis x o s
  | .addpc x rd imm => Sys2Proof.Machine.execAddpc x rd imm s
  | .cmpCc x pd cc rs1 b => Sys2Proof.Machine.execCmpCc x pd cc rs1 b s
  | .pand x o => Sys2Proof.Machine.execPand x o s
  | .por x o => Sys2Proof.Machine.execPor x o s
  | .pnot x pd ps1 => Sys2Proof.Machine.execPnot x pd ps1 s
  | .pxor x o => Sys2Proof.Machine.execPxor x o s
  | .pandn x o => Sys2Proof.Machine.execPandn x o s
  | .b x off => Sys2Proof.Machine.execB x off s
  | .bl x off => Sys2Proof.Machine.execBl x off s
  | .br x rd rs1 => Sys2Proof.Machine.execBr x rd rs1 s
  | .ret x => Sys2Proof.Machine.execRet x s
  | .ldb x o => Sys2Proof.Machine.execLdb x o s
  | .ldbu x o => Sys2Proof.Machine.execLdbu x o s
  | .ldh x o => Sys2Proof.Machine.execLdh x o s
  | .ldhu x o => Sys2Proof.Machine.execLdhu x o s
  | .ldw x o => Sys2Proof.Machine.execLdw x o s
  | .ldwu x o => Sys2Proof.Machine.execLdwu x o s
  | .ldd x o => Sys2Proof.Machine.execLdd x o s
  | .stb x o => Sys2Proof.Machine.execStb x o s
  | .sth x o => Sys2Proof.Machine.execSth x o s
  | .stw x o => Sys2Proof.Machine.execStw x o s
  | .std x o => Sys2Proof.Machine.execStd x o s
  | .aaddW x o => Sys2Proof.Machine.execAaddW x o s
  | .aaddD x o => Sys2Proof.Machine.execAaddD x o s
  | .aswpW x o => Sys2Proof.Machine.execAswpW x o s
  | .aswpD x o => Sys2Proof.Machine.execAswpD x o s
  | .acasW x o => Sys2Proof.Machine.execAcasW x o s
  | .acasD x o => Sys2Proof.Machine.execAcasD x o s
  | .dadd x o => Sys2Proof.Machine.execDadd x o s
  | .dsub x o => Sys2Proof.Machine.execDsub x o s
  | .dadj x o => Sys2Proof.Machine.execDadj x o s
  | .dcmp x o => Sys2Proof.Machine.execDcmp x o s
  | .dmul x o => Sys2Proof.Machine.execDmul x o s
  | .ddiv x o => Sys2Proof.Machine.execDdiv x o s
  | .dcvb x o => Sys2Proof.Machine.execDcvb x o s
  | .dcvd x o => Sys2Proof.Machine.execDcvd x o s
  | .syscall x k => Sys2Proof.Machine.execSyscall x k s
  | .hvcall x k => Sys2Proof.Machine.execHvcall x k s
  | .reti x => Sys2Proof.Machine.execReti x s
  | .wfe x ra => Sys2Proof.Machine.execWfe x ra s
  | .fence x => Sys2Proof.Machine.execFence x s
  | .fenceIo x => Sys2Proof.Machine.execFenceIo x s
  | .sbar x => Sys2Proof.Machine.execSbar x s
  | .pflush x ra k => Sys2Proof.Machine.execPflush x ra k s
  | .pbar x => Sys2Proof.Machine.execPbar x s
  | .mfc x ra k => Sys2Proof.Machine.execMfc x ra k s
  | .mtc x ra k => Sys2Proof.Machine.execMtc x ra k s
  | .tinvPage x ra => Sys2Proof.Machine.execTinvPage x ra s
  | .tinvRange x ra => Sys2Proof.Machine.execTinvRange x ra s
  | .tinvSegment x ra => Sys2Proof.Machine.execTinvSegment x ra s
  | .tinvTenant x ra => Sys2Proof.Machine.execTinvTenant x ra s
  | .tinvAll x ra => Sys2Proof.Machine.execTinvAll x ra s
  | .tsync x ra => Sys2Proof.Machine.execTsync x ra s
  | .clean x ra => Sys2Proof.Machine.execClean x ra s
  | .flush x ra => Sys2Proof.Machine.execFlush x ra s
  | .discard x ra => Sys2Proof.Machine.execDiscard x ra s
  | .prefetch x ra => Sys2Proof.Machine.execPrefetch x ra s
  | .crngComplete c => Sys2Proof.Machine.execCrngComplete c s
  | .zmark x ra => Sys2Proof.Machine.execZmark x ra s
  | .stbnd x => Sys2Proof.Machine.execStbnd x s
  | .ltime x ra => Sys2Proof.Machine.execLtime x ra s
  | .psetup x ra => Sys2Proof.Machine.execPsetup x ra s
  | .pdissolve x ra => Sys2Proof.Machine.execPdissolve x ra s
  | .vadd x o => Sys2Proof.Machine.execVadd x o s
  | .vsub x o => Sys2Proof.Machine.execVsub x o s
  | .vmul x o => Sys2Proof.Machine.execVmul x o s
  | .vmulh x o => Sys2Proof.Machine.execVmulh x o s
  | .vmin x o => Sys2Proof.Machine.execVmin x o s
  | .vmax x o => Sys2Proof.Machine.execVmax x o s
  | .vminu x o => Sys2Proof.Machine.execVminu x o s
  | .vmaxu x o => Sys2Proof.Machine.execVmaxu x o s
  | .vand x o => Sys2Proof.Machine.execVand x o s
  | .vor x o => Sys2Proof.Machine.execVor x o s
  | .vxor x o => Sys2Proof.Machine.execVxor x o s
  | .vsll x o => Sys2Proof.Machine.execVsll x o s
  | .vsrl x o => Sys2Proof.Machine.execVsrl x o s
  | .vsra x o => Sys2Proof.Machine.execVsra x o s
  | .vadds x o => Sys2Proof.Machine.execVadds x o s
  | .vsubs x o => Sys2Proof.Machine.execVsubs x o s
  | .vfadd x o => Sys2Proof.Machine.execVfadd x o s
  | .vfsub x o => Sys2Proof.Machine.execVfsub x o s
  | .vfmul x o => Sys2Proof.Machine.execVfmul x o s
  | .vfdiv x o => Sys2Proof.Machine.execVfdiv x o s
  | .vfsqrt x vd vs1 et => Sys2Proof.Machine.execVfsqrt x vd vs1 et s
  | .vfmin x o => Sys2Proof.Machine.execVfmin x o s
  | .vfmax x o => Sys2Proof.Machine.execVfmax x o s
  | .vfma x o => Sys2Proof.Machine.execVfma x o s
  | .vfnma x o => Sys2Proof.Machine.execVfnma x o s
  | .vfabs x vd vs1 et => Sys2Proof.Machine.execVfabs x vd vs1 et s
  | .vfneg x vd vs1 et => Sys2Proof.Machine.execVfneg x vd vs1 et s
  | .vceq x o => Sys2Proof.Machine.execVceq x o s
  | .vcne x o => Sys2Proof.Machine.execVcne x o s
  | .vclt x o => Sys2Proof.Machine.execVclt x o s
  | .vcle x o => Sys2Proof.Machine.execVcle x o s
  | .vcltu x o => Sys2Proof.Machine.execVcltu x o s
  | .vcleu x o => Sys2Proof.Machine.execVcleu x o s
  | .vcfeq x o => Sys2Proof.Machine.execVcfeq x o s
  | .vcflt x o => Sys2Proof.Machine.execVcflt x o s
  | .vcfle x o => Sys2Proof.Machine.execVcfle x o s
  | .vcfun x o => Sys2Proof.Machine.execVcfun x o s
  | .vperm x o => Sys2Proof.Machine.execVperm x o s
  | .vbcast x vd vs1 et => Sys2Proof.Machine.execVbcast x vd vs1 et s
  | .vziplo x o => Sys2Proof.Machine.execVziplo x o s
  | .vziphi x o => Sys2Proof.Machine.execVziphi x o s
  | .vunzipe x o => Sys2Proof.Machine.execVunzipe x o s
  | .vunzipo x o => Sys2Proof.Machine.execVunzipo x o s
  | .vsel x o => Sys2Proof.Machine.execVsel x o s
  | .vcvt x vd vs1 src et => Sys2Proof.Machine.execVcvt x vd vs1 src et s
  | .vld x vd vs1 et => Sys2Proof.Machine.execVld x vd vs1 et s
  | .vlds x o => Sys2Proof.Machine.execVlds x o s
  | .vldb x vd vs1 et => Sys2Proof.Machine.execVldb x vd vs1 et s
  | .vst x vd vs1 et => Sys2Proof.Machine.execVst x vd vs1 et s
  | .vsts x o => Sys2Proof.Machine.execVsts x o s
  | .undefinedOperation c w => Sys2Proof.Machine.execUndefinedOperation c w s
  | .interrupt c => Sys2Proof.Machine.execInterrupt c s
  | .wfeWake c why => Sys2Proof.Machine.execWfeWake c why s
  | .runAheadEntry c line waitedNs => Sys2Proof.Machine.execRunAheadEntry c line waitedNs s
  | .runAheadEnd c why => Sys2Proof.Machine.execRunAheadEnd c why s
  | .transientReplay c det => Sys2Proof.Machine.execTransientReplay c det s
  | .hardFault c f => Sys2Proof.Machine.execHardFault c f s
  | .stitchReplay c => Sys2Proof.Machine.execStitchReplay c s
  | .coreTransplant c => Sys2Proof.Machine.execCoreTransplant c s
  | .spareSubstitution u => Sys2Proof.Machine.execSpareSubstitution u s
  | .hardwarePrefetch c p ea => Sys2Proof.Machine.execHardwarePrefetch c p ea s
  | .rds m => Sys2Proof.Machine.execRds m s
  | .rdo m => Sys2Proof.Machine.execRdo m s
  | .upg m => Sys2Proof.Machine.execUpg m s
  | .rdna m => Sys2Proof.Machine.execRdna m s
  | .iow m => Sys2Proof.Machine.execIow m s
  | .wbd m => Sys2Proof.Machine.execWbd m s
  | .evc m => Sys2Proof.Machine.execEvc m s
  | .csrrd m => Sys2Proof.Machine.execCsrrd m s
  | .csrwr m => Sys2Proof.Machine.execCsrwr m s
  | .devrd m => Sys2Proof.Machine.execDevrd m s
  | .devwr m => Sys2Proof.Machine.execDevwr m s
  | .msg m => Sys2Proof.Machine.execMsg m s
  | .snp m => Sys2Proof.Machine.execSnp m s
  | .snpinv m => Sys2Proof.Machine.execSnpinv m s
  | .backinv m => Sys2Proof.Machine.execBackinv m s
  | .setflush n set a => Sys2Proof.Machine.execSetflush n set a s
  | .xlateinv target v => Sys2Proof.Machine.execXlateinv target v s
  | .grant m => Sys2Proof.Machine.execGrant m s
  | .ack m => Sys2Proof.Machine.execAck m s
  | .nocopy m => Sys2Proof.Machine.execNocopy m s
  | .copylost m => Sys2Proof.Machine.execCopylost m s
  | .cmp m => Sys2Proof.Machine.execCmp m s
  | .err m => Sys2Proof.Machine.execErr m s
  | .xlateack issuer serial target dropped => Sys2Proof.Machine.execXlateack issuer serial target dropped s
  | .data m => Sys2Proof.Machine.execData m s
  | .snpdata m => Sys2Proof.Machine.execSnpdata m s
  | .linkRetry q l flit => Sys2Proof.Machine.execLinkRetry q l flit s
  | .portIsolation q stop port vc dst => Sys2Proof.Machine.execPortIsolation q stop port vc dst s
  | .wormAbort q stop port => Sys2Proof.Machine.execWormAbort q stop port s
  | .portReenable q stop port handshakeOk => Sys2Proof.Machine.execPortReenable q stop port handshakeOk s
  | .parkedPacketDiscard d vc => Sys2Proof.Machine.execParkedPacketDiscard d vc s
  | .endToEndTimeout a txid => Sys2Proof.Machine.execEndToEndTimeout a txid s
  | .fabObsCtl q u v => Sys2Proof.Machine.execFabObsCtl q u v s
  | .wayMaskUpdate cls mask => Sys2Proof.Machine.execWayMaskUpdate cls mask s
  | .reKey requested => Sys2Proof.Machine.execReKey requested s
  | .rebuildStart => Sys2Proof.Machine.execRebuildStart s
  | .rebuildSet late => Sys2Proof.Machine.execRebuildSet late s
  | .deadAgentDeclaration a => Sys2Proof.Machine.execDeadAgentDeclaration a s
  | .reclamationWalk n => Sys2Proof.Machine.execReclamationWalk n s
  | .reclamationEnd => Sys2Proof.Machine.execReclamationEnd s
  | .readmission a => Sys2Proof.Machine.execReadmission a s
  | .scratchpadConversion n ways => Sys2Proof.Machine.execScratchpadConversion n ways s
  | .conversionDone n => Sys2Proof.Machine.execConversionDone n s
  | .scratchpadStarve a => Sys2Proof.Machine.execScratchpadStarve a s
  | .marchTest n mode => Sys2Proof.Machine.execMarchTest n mode s
  | .marchTestDone n cells dr dc tag dir => Sys2Proof.Machine.execMarchTestDone n cells dr dc tag dir s
  | .panelStart slot => Sys2Proof.Machine.execPanelStart slot s
  | .stitchEnd c => Sys2Proof.Machine.execStitchEnd c s
  | .rowCommit slot => Sys2Proof.Machine.execRowCommit slot s
  | .boundaryStep slot => Sys2Proof.Machine.execBoundaryStep slot s
  | .journalWrite slot => Sys2Proof.Machine.execJournalWrite slot s
  | .mcRead ch line f => Sys2Proof.Machine.execMcRead ch line f s
  | .mcWrite ch m => Sys2Proof.Machine.execMcWrite ch m s
  | .mcIssue ch => Sys2Proof.Machine.execMcIssue ch s
  | .refresh ch rank => Sys2Proof.Machine.execRefresh ch rank s
  | .dimmTemperatureRead ch celsius => Sys2Proof.Machine.execDimmTemperatureRead ch celsius s
  | .frequencyChange low => Sys2Proof.Machine.execFrequencyChange low s
  | .alertN ch => Sys2Proof.Machine.execAlertN ch s
  | .retrain ch => Sys2Proof.Machine.execRetrain ch s
  | .bucketLeak => Sys2Proof.Machine.execBucketLeak s
  | .demandScrub ch => Sys2Proof.Machine.execDemandScrub ch s
  | .demandScrubAbort a => Sys2Proof.Machine.execDemandScrubAbort a s
  | .demandScrubDone ch found => Sys2Proof.Machine.execDemandScrubDone ch found s
  | .patrolScrub ch found => Sys2Proof.Machine.execPatrolScrub ch found s
  | .zeroFillWrite ch => Sys2Proof.Machine.execZeroFillWrite ch s
  | .swatchRun g => Sys2Proof.Machine.execSwatchRun g s
  | .swatchRunDone ch errors => Sys2Proof.Machine.execSwatchRunDone ch errors s
  | .inboundRead g t => Sys2Proof.Machine.execInboundRead g t s
  | .inboundWrite g t bytes => Sys2Proof.Machine.execInboundWrite g t bytes s
  | .atomicop g t kind operand compare => Sys2Proof.Machine.execAtomicop g t kind operand compare s
  | .translationRequest g t => Sys2Proof.Machine.execTranslationRequest g t s
  | .contextInvalidation g first last => Sys2Proof.Machine.execContextInvalidation g first last s
  | .invalidationCompletion g rid tenant => Sys2Proof.Machine.execInvalidationCompletion g rid tenant s
  | .atsTimeout g rid tenant => Sys2Proof.Machine.execAtsTimeout g rid tenant s
  | .containment p why => Sys2Proof.Machine.execContainment p why s
  | .containmentRelease p => Sys2Proof.Machine.execContainmentRelease p s
  | .completionTimeout g tag => Sys2Proof.Machine.execCompletionTimeout g tag s
  | .cxlCacheRequest d t req value => Sys2Proof.Machine.execCxlCacheRequest d t req value s
  | .outboundWindowAccess m write size => Sys2Proof.Machine.execOutboundWindowAccess m write size s
  | .configurationAccess m write size => Sys2Proof.Machine.execConfigurationAccess m write size s
  | .brixnilFlit k f => Sys2Proof.Machine.execBrixnilFlit k f s
  | .keepAlive k => Sys2Proof.Machine.execKeepAlive k s
  | .brixnilLinkTimeout k => Sys2Proof.Machine.execBrixnilLinkTimeout k s
  | .brixnilRetrainDone k ok => Sys2Proof.Machine.execBrixnilRetrainDone k ok s
  | .retry k p => Sys2Proof.Machine.execRetry k p s
  | .retriedTransactionTimeout k txid => Sys2Proof.Machine.execRetriedTransactionTimeout k txid s
  | .deadAgentTime peer => Sys2Proof.Machine.execDeadAgentTime peer s
  | .workerRelease => Sys2Proof.Machine.execWorkerRelease s
  | .timeSyncDrive => Sys2Proof.Machine.execTimeSyncDrive s
  | .timeSync => Sys2Proof.Machine.execTimeSync s
  | .boardBudgetSplit demand => Sys2Proof.Machine.execBoardBudgetSplit demand s
  | .allocationTimeout => Sys2Proof.Machine.execAllocationTimeout s
  | .engCopy e q => Sys2Proof.Machine.execEngCopy e q s
  | .engFill e q => Sys2Proof.Machine.execEngFill e q s
  | .engCompare e q => Sys2Proof.Machine.execEngCompare e q s
  | .engZero e q => Sys2Proof.Machine.execEngZero e q s
  | .engCrc32c e q => Sys2Proof.Machine.execEngCrc32c e q s
  | .engSha256 e q => Sys2Proof.Machine.execEngSha256 e q s
  | .engSha512 e q => Sys2Proof.Machine.execEngSha512 e q s
  | .engGcmEnc e q => Sys2Proof.Machine.execEngGcmEnc e q s
  | .engGcmDec e q => Sys2Proof.Machine.execEngGcmDec e q s
  | .engXtsEnc e q => Sys2Proof.Machine.execEngXtsEnc e q s
  | .engXtsDec e q => Sys2Proof.Machine.execEngXtsDec e q s
  | .engDeflate e q => Sys2Proof.Machine.execEngDeflate e q s
  | .engInflate e q => Sys2Proof.Machine.execEngInflate e q s
  | .sqtail n q v => Sys2Proof.Machine.execSqtail n q v s
  | .cqhead n q v => Sys2Proof.Machine.execCqhead n q v s
  | .quantumEnd e l => Sys2Proof.Machine.execQuantumEnd e l s
  | .quantumReplay e l => Sys2Proof.Machine.execQuantumReplay e l s
  | .instAssign n => Sys2Proof.Machine.execInstAssign n s
  | .instEnable n => Sys2Proof.Machine.execInstEnable n s
  | .instQuiesce n => Sys2Proof.Machine.execInstQuiesce n s
  | .instAbort n => Sys2Proof.Machine.execInstAbort n s
  | .instReset n => Sys2Proof.Machine.execInstReset n s
  | .instRemove n => Sys2Proof.Machine.execInstRemove n s
  | .txgo n => Sys2Proof.Machine.execTxgo n s
  | .txack n => Sys2Proof.Machine.execTxack n s
  | .rxgo n => Sys2Proof.Machine.execRxgo n s
  | .rxack n => Sys2Proof.Machine.execRxack n s
  | .evcMsgdb rid v size => Sys2Proof.Machine.execEvcMsgdb rid v size s
  | .virtualInterrupt c => Sys2Proof.Machine.execVirtualInterrupt c s
  | .evcMtinv id => Sys2Proof.Machine.execEvcMtinv id s
  | .rescan c => Sys2Proof.Machine.execRescan c s
  | .evcEqBase c v => Sys2Proof.Machine.execEvcEqBase c v s
  | .watermarkNotice r => Sys2Proof.Machine.execWatermarkNotice r s
  | .domainRequest d st => Sys2Proof.Machine.execDomainRequest d st s
  | .automaticRetention d => Sys2Proof.Machine.execAutomaticRetention d s
  | .retentionEntry d => Sys2Proof.Machine.execRetentionEntry d s
  | .retentionExit d => Sys2Proof.Machine.execRetentionExit d s
  | .offEntry d => Sys2Proof.Machine.execOffEntry d s
  | .wakeFromOff d => Sys2Proof.Machine.execWakeFromOff d s
  | .entryAbort d => Sys2Proof.Machine.execEntryAbort d s
  | .voltageTransition d mv => Sys2Proof.Machine.execVoltageTransition d mv s
  | .voltageStep d reading => Sys2Proof.Machine.execVoltageStep d reading s
  | .openWireTest d f othersFail => Sys2Proof.Machine.execOpenWireTest d f othersFail s
  | .domainFaultCheck d stillWrong => Sys2Proof.Machine.execDomainFaultCheck d stillWrong s
  | .governorVoltage c mv => Sys2Proof.Machine.execGovernorVoltage c mv s
  | .governorPrefetch c usedPct dramPct => Sys2Proof.Machine.execGovernorPrefetch c usedPct dramPct s
  | .fastLoop watts amps => Sys2Proof.Machine.execFastLoop watts amps s
  | .mediumLoop watts => Sys2Proof.Machine.execMediumLoop watts s
  | .slowLoop watts => Sys2Proof.Machine.execSlowLoop watts s
  | .sliceRateWindow sliceRates chanRates => Sys2Proof.Machine.execSliceRateWindow sliceRates chanRates s
  | .reefNAssert => Sys2Proof.Machine.execReefNAssert s
  | .reefNRelease => Sys2Proof.Machine.execReefNRelease s
  | .thermalControl d celsius => Sys2Proof.Machine.execThermalControl d celsius s
  | .thermtrip celsius => Sys2Proof.Machine.execThermtrip celsius s
  | .forceOff => Sys2Proof.Machine.execForceOff s
  | .disagreementEnd asserted => Sys2Proof.Machine.execDisagreementEnd asserted s
  | .discrepancyFault => Sys2Proof.Machine.execDiscrepancyFault s
  | .forceOffCut => Sys2Proof.Machine.execForceOffCut s
  | .stewardRestart n => Sys2Proof.Machine.execStewardRestart n s
  | .chiefWatchdog => Sys2Proof.Machine.execChiefWatchdog s
  | .odOpen r => Sys2Proof.Machine.execOdOpen r s
  | .odClose r => Sys2Proof.Machine.execOdClose r s
  | .odRead r => Sys2Proof.Machine.execOdRead r s
  | .odStage r => Sys2Proof.Machine.execOdStage r s
  | .odCommit r => Sys2Proof.Machine.execOdCommit r s
  | .odDiscard r => Sys2Proof.Machine.execOdDiscard r s
  | .odDescribe r => Sys2Proof.Machine.execOdDescribe r s
  | .sessionTimeout token => Sys2Proof.Machine.execSessionTimeout token s
  | .transferStall n => Sys2Proof.Machine.execTransferStall n s
  | .hfwclose => Sys2Proof.Machine.execHfwclose s
  | .vauxUp => Sys2Proof.Machine.execVauxUp s
  | .castOn k => Sys2Proof.Machine.execCastOn k s
  | .castOff why => Sys2Proof.Machine.execCastOff why s
  | .resetN => Sys2Proof.Machine.execResetN s
  | .pwrGoodLoss => Sys2Proof.Machine.execPwrGoodLoss s
  | .vauxLoss => Sys2Proof.Machine.execVauxLoss s
  | .persistentLogWrite ok => Sys2Proof.Machine.execPersistentLogWrite ok s
  | .registerReadClear offset size => Sys2Proof.Machine.execRegisterReadClear offset size s
  | .registerWrite offset size v => Sys2Proof.Machine.execRegisterWrite offset size v s
  | .disagreementBegin channelB => Sys2Proof.Machine.execDisagreementBegin channelB s
  | .debugAttachment c attach => Sys2Proof.Machine.execDebugAttachment c attach s
  | .retrainDone ch ok => Sys2Proof.Machine.execRetrainDone ch ok s
  | .frequencyChangeDone => Sys2Proof.Machine.execFrequencyChangeDone s
  | .lateFlit q => Sys2Proof.Machine.execLateFlit q s
  | .rootPortEvent k ev => Sys2Proof.Machine.execRootPortEvent k ev s
  | .inboundCompletion g tag value ok poison => Sys2Proof.Machine.execInboundCompletion g tag value ok poison s

end Sys2Proof.Machine
end

