-- ==== Sys2Proof/Safety.lean ====
section
/-! DEFINITION. The terms in which claims about the block are made: what a command leaves, when an instruction is the one that a
core executes, what reaches a unit, and the values that the rules give, written over whole words. -/

namespace Sys2Proof.Machine

/-! ### What a command leaves -/

/-- The command answers a next state whose device is `d`, its queue as it was. -/
def Becomes (i : Instr) (s : State) (d : Dev) : Prop := exec i s = .next { s with dev := d }

/-- What a command does is `d`; it closes with its errors and sources recorded and its packets sent. Where something makes it wait, nothing of it stays
(log entry 106). -/
def Does (i : Instr) (s : State) (d : Dev) : Prop := Becomes i s (s.dev.close d)

/-- What a command does is `d`, and nothing has made it wait. -/
def Completes (i : Instr) (s : State) (d : Dev) : Prop := d.fabric.waits = s.dev.fabric.waits ∧ Does i s d

/-- The command answers a next state: what it does is a device of which `P` holds, nothing has made it wait, and it closes with the errors and sources
that it raised recorded and its packets sent (log entry 106). -/
def Leaves (i : Instr) (s : State) (P : Dev → Prop) : Prop := ∃ e : Dev, Completes i s e ∧ P e

/-- The command answers a next state whose device satisfies `P`. -/
def Gives (i : Instr) (s : State) (P : Dev → Prop) : Prop := ∃ e : Dev, Becomes i s e ∧ P e

/-- `d` differs from `e` in core `c` alone, which is `k` there. -/
def Dev.OnlyCore (e d : Dev) (c : Nat) (k : Core) : Prop := d.core c = k ∧ (∀ j, j ≠ c → d.core j = e.core j) ∧ d = { e with cores := d.cores }

/-- Nothing is left to record, to send or to observe. -/
def Dev.Quiet (d : Dev) : Prop := d.reports = [] ∧ d.fabric.asks = [] ∧ d.fabric.seen = []

/-- A run is safe as long as every step answers a next state. -/
def Answers (s : State) : Prop := ∃ t : State, step s = .next t

/-! ### Invariants -/

/-- The memory of the device is in its canonical form. -/
def State.Canonical (s : State) : Prop := Memory.wf s.dev.mem = true

/-! ### Instructions -/

/-- A core is about to execute the word at its pc: it issues in normal execution, no interrupt comes before it, and its fetch succeeds
and leaves device `e`, no home making it wait (R41). A member's stitch is given no end point (R224). -/
structure Fetches (s : State) (c : Nat) (e : Dev) (t : Trans) : Prop where
  issues  : s.dev.canIssue c = true
  present : (s.dev.core c).runAhead = none
  calm    : (s.dev.stitching c).isSome = true ∨ s.dev.accepted c = none
  unbound : ∀ m, s.dev.stitching c = some m → m.endAt = none
  fetched : s.dev.fetch c = (e, .inr t)
  free    : e.fabric.waits = s.dev.fabric.waits

/-- Instruction `i` is the one that its core executes: the core fetches it, it is well formed, and its guard passes (R41). -/
structure Executes (s : State) (x : Ctx) (i : Instr) (e : Dev) (t : Trans) : Prop where
  fetches : Fetches s x.core.val e t
  formed  : i.wf = true
  passes  : Guard.passes (s.dev.arch x.core.val) x.guard = true

/-- The pc at which a core stands. -/
def State.pc (s : State) (x : Ctx) : Word := (s.dev.arch x.core.val).pc

/-- Only the registers of core `c` differ: its registers are `a`, every other core and every other part of the device stand. -/
def Dev.withArch (d : Dev) (c : Nat) (a : Arch) : Dev := d.modCore c fun k => { k with arch := a }

/-- An instruction that only changes registers leaves them as `f` of what they were after its fetch, and retires. -/
def RegistersBecome (s : State) (x : Ctx) (i : Instr) (e : Dev) (t : Trans) (f : Arch → Arch) : Prop :=
  Completes i s ((e.withArch x.core.val (f (e.arch x.core.val))).retire x.core.val t.pa (s.pc x + 4))

/-! ### Traps and accesses that meet nothing in their way -/

/-- The address of the frame that a trap to level `t` pushes (R45). -/
def Arch.frameAt (a : Arch) (t : Level) : Word := a.fsp t - 0x140

/-- The frame of a trap to level `t` is written at once: the core is in no stitch and has no store waiting, and the line in which the frame lies is one
of DRAM that its L2 holds modified. -/
structure Dev.FrameReady (d : Dev) (c : Nat) (t : Level) (l : L2Line) : Prop where
  outside : d.stitching c = none
  drained : (d.core c).storeBuf = []
  aligned : ((d.arch c).frameAt t).toNat % 64 = 0
  normal  : d.frameOk ((d.arch c).frameAt t).toNat = true
  dram    : ∃ ch n, d.place ((d.arch c).frameAt t).toNat = .dram ch n
  held    : (d.core c).l2Line (((d.arch c).frameAt t).toNat / 64) = some l
  owned   : l.st = .modified

/-- The core stands in the handler of a trap: pc is VBAR_t + vector × 0x40, the level is t, IE is 0, the frame lies below FSP_t with the saved pc, STATUS,
CAUSE, FADDR, the word and p1 to p7, and no other register of any core differs (R43, R45). -/
def Dev.Entered (e d : Dev) (c : Nat) (t : Level) (q : TrapReq) : Prop :=
  d.arch c = { ((e.arch c).setFsp t ((e.arch c).frameAt t)) with
    pl := t, ie := false, pc := (e.arch c).vbar t + BitVec.ofNat 64 (q.vector * 0x40) } ∧
  (∀ k, k ≠ c → d.arch k = e.arch k) ∧ d.mem = e.mem ∧
  ((d.core c).l2Line (((e.arch c).frameAt t).toNat / 64)).map (fun x => Line.slice x.data 0 64) = some (frameHead (e.arch c) q false)

/-- An access at M, without translation, of `w` bytes of normal memory within one line. -/
structure Dev.Flat (d : Dev) (c w : Nat) (ea : Word) : Prop where
  level    : (d.arch c).pl = .m
  direct   : (d.arch c).mxlate = false
  physical : ea.toNat < 2 ^ 52
  normal   : deviceRange ea.toNat = false
  some_    : 0 < w
  within   : ea.toNat % 64 + w ≤ 64

/-- An access at M, without translation, of bytes of a line of DRAM that the core's L2 holds without poison. -/
structure Dev.Near (d : Dev) (c w : Nat) (ea : Word) (l : L2Line) : Prop extends Dev.Flat d c w ea where
  dram : ∃ ch n, d.place ea.toNat = .dram ch n
  held : (d.core c).l2Line (ea.toNat / 64) = some l
  good : l.poison = false

/-! ### Panels -/

/-- The members of a slot can begin a row at once: no core of theirs recovers, the panel does not play back, and each is in no retry, with no trap and
no interrupt to take and no store waiting. -/
structure Dev.RowReady (d : Dev) (n : Nat) : Prop where
  live  : d.playing n = false
  up    : ∀ c ∈ d.memberCores n, d.down c = false
  fresh : ∀ c ∈ d.memberCores n, ∃ m, (d.core c).member = some m ∧ m.phase ≠ .suspended ∧ m.retry = false ∧ m.trap = none ∧ m.intr = [] ∧
    (d.core c).storeBuf = []

/-- The row of a slot runs in `e`: each member that it has in `d` is in a stitch that begins where its core stood (R212, R213). -/
def Dev.RowRuns (d e : Dev) (n : Nat) : Prop :=
  (e.panel n).phase = .stitches ∧ ∀ c ∈ d.memberCores n, e.arch c = d.arch c ∧
    ∃ m, (e.core c).member = some m ∧ m.phase = .running ∧ m.count = 0 ∧ m.overlay = [] ∧ m.saved = d.arch c

/-! ### Values of the integer instructions, over words (R66 to R69) -/

/-- A 32-bit operation on low words, its result sign-extended. -/
def low32 (f : Word32 → Word32 → Word32) (a b : Word) : Word := (f (a.setWidth 32) (b.setWidth 32)).signExtend 64

/-- The value that a two-operand integer instruction writes, of its two sources. -/
def twoOperand : Instr → Option (Ctx × OpsR × (Word → Word → Word))
  | .add x o => some (x, o, fun a b => a + b)
  | .sub x o => some (x, o, fun a b => a - b)
  | .and x o => some (x, o, fun a b => a &&& b)
  | .or x o => some (x, o, fun a b => a ||| b)
  | .xor x o => some (x, o, fun a b => a ^^^ b)
  | .andn x o => some (x, o, fun a b => a &&& ~~~ b)
  | .sll x o => some (x, o, fun a b => a <<< (b &&& 63))
  | .srl x o => some (x, o, fun a b => a >>> (b &&& 63))
  | .sra x o => some (x, o, fun a b => a.sshiftRight (b &&& 63).toNat)
  | .ror x o => some (x, o, fun a b => a.rotateRight (b &&& 63).toNat)
  | .min x o => some (x, o, fun a b => if a.slt b then a else b)
  | .max x o => some (x, o, fun a b => if a.slt b then b else a)
  | .minu x o => some (x, o, fun a b => if a.ult b then a else b)
  | .maxu x o => some (x, o, fun a b => if a.ult b then b else a)
  | .addw x o => some (x, o, low32 fun a b => a + b)
  | .subw x o => some (x, o, low32 fun a b => a - b)
  | .sllw x o => some (x, o, low32 fun a b => a <<< (b &&& 31))
  | .srlw x o => some (x, o, low32 fun a b => a >>> (b &&& 31))
  | .sraw x o => some (x, o, low32 fun a b => a.sshiftRight (b &&& 31).toNat)
  | .mul x o => some (x, o, fun a b => a * b)
  | .mulh x o => some (x, o, fun a b => ((a.signExtend 128 * b.signExtend 128) >>> 64).setWidth 64)
  | .mulhu x o => some (x, o, fun a b => ((a.setWidth 128 * b.setWidth 128) >>> 64).setWidth 64)
  | .div x o => some (x, o, fun a b => if b = 0 then BitVec.allOnes 64 else a.sdiv b)
  | .divu x o => some (x, o, fun a b => if b = 0 then BitVec.allOnes 64 else a / b)
  | .rem x o => some (x, o, fun a b => if b = 0 then a else a.srem b)
  | .remu x o => some (x, o, fun a b => if b = 0 then a else a % b)
  | _ => none

/-- SHI's value (R68). -/
def shiftBy (w : Bool) (k : ShiftKind) (n : BitVec 6) (a : Word) : Word :=
  match w, k with
  | false, .sll => a <<< n.toNat
  | false, .srl => a >>> n.toNat
  | false, .sra => a.sshiftRight n.toNat
  | false, .ror => a.rotateRight n.toNat
  | true, .sll => ((a.setWidth 32) <<< (n.toNat % 32)).signExtend 64
  | true, .srl => ((a.setWidth 32) >>> (n.toNat % 32)).signExtend 64
  | true, .sra => ((a.setWidth 32).sshiftRight (n.toNat % 32)).signExtend 64
  | true, .ror => ((a.setWidth 32).rotateRight (n.toNat % 32)).signExtend 64

/-- The value that an instruction with an immediate writes, of its source register and the pc. -/
def immediateOperand : Instr → Option (Ctx × RegNo × (Arch → Word))
  | .addi x o => some (x, o.rd, fun a => a.getG o.rs1 + o.imm.signExtend 64)
  | .andi x o => some (x, o.rd, fun a => a.getG o.rs1 &&& o.imm.setWidth 64)
  | .ori x o => some (x, o.rd, fun a => a.getG o.rs1 ||| o.imm.setWidth 64)
  | .xori x o => some (x, o.rd, fun a => a.getG o.rs1 ^^^ o.imm.setWidth 64)
  | .addis x o => some (x, o.rd, fun a => a.getG o.rs1 + o.imm.signExtend 64 * 4096)
  | .addpc x rd imm => some (x, rd, fun a => a.pc + imm.signExtend 64 * 4096)
  | .shi x rd rs1 w k n => some (x, rd, fun a => shiftBy w k n (a.getG rs1))
  | _ => none

/-- The comparison of CMP.cc over words (R69). -/
def holdsCc (cc : Cond) (a b : Word) : Bool :=
  match cc with
  | .eq => decide (a = b)
  | .ne => decide (a ≠ b)
  | .lt => a.slt b
  | .ge => b.sle a
  | .ltu => a.ult b
  | .geu => b.ule a
  | .gt => b.slt a
  | .le => a.sle b
  | .gtu => b.ult a
  | .leu => a.ule b
  | .bs => (a >>> (b &&& 63)).getLsbD 0
  | .bc => !(a >>> (b &&& 63)).getLsbD 0
  | .tst => decide (a &&& b ≠ 0)
  | .tstz => decide (a &&& b = 0)

/-- The predicate that a compare or a predicate-logic instruction writes (R69, R70). -/
def predicateResult : Instr → Option (Ctx × PredNo × (Arch → Bool))
  | .cmpCc x pd cc rs1 (.reg rs2) => some (x, pd, fun a => holdsCc cc (a.getG rs1) (a.getG rs2))
  | .cmpCc x pd cc rs1 (.imm n) => some (x, pd, fun a => holdsCc cc (a.getG rs1) (n.signExtend 64))
  | .pand x o => some (x, o.pd, fun a => a.getP o.ps1 && a.getP o.ps2)
  | .por x o => some (x, o.pd, fun a => a.getP o.ps1 || a.getP o.ps2)
  | .pnot x pd ps1 => some (x, pd, fun a => !a.getP ps1)
  | .pxor x o => some (x, o.pd, fun a => xor (a.getP o.ps1) (a.getP o.ps2))
  | .pandn x o => some (x, o.pd, fun a => a.getP o.ps1 && !a.getP o.ps2)
  | _ => none

/-! ### Branches, loads, stores -/

/-- Target and link register of a branch (R71). -/
def branchOf : Instr → Option (Ctx × (Arch → Word) × RegNo)
  | .b x off => some (x, fun a => a.pc + off.signExtend 64 * 4, 0)
  | .bl x off => some (x, fun a => a.pc + off.signExtend 64 * 4, 1)
  | .br x rd rs1 => some (x, fun a => a.getG rs1, rd)
  | .ret x => some (x, fun a => a.getG 1, 0)
  | _ => none

/-- The width in bytes of a load's elements, their addresses, and the registers it leaves for the bytes loaded, lowest address first. -/
def loadOf : Instr → Option (Ctx × Nat × (Arch → List Word) × LoadDest)
  | .ldb x o => some (x, 1, fun a => [a.getG o.rs1 + o.imm.signExtend 64], .gpr o.rd true)
  | .ldbu x o => some (x, 1, fun a => [a.getG o.rs1 + o.imm.signExtend 64], .gpr o.rd false)
  | .ldh x o => some (x, 2, fun a => [a.getG o.rs1 + o.imm.signExtend 64], .gpr o.rd true)
  | .ldhu x o => some (x, 2, fun a => [a.getG o.rs1 + o.imm.signExtend 64], .gpr o.rd false)
  | .ldw x o => some (x, 4, fun a => [a.getG o.rs1 + o.imm.signExtend 64], .gpr o.rd true)
  | .ldwu x o => some (x, 4, fun a => [a.getG o.rs1 + o.imm.signExtend 64], .gpr o.rd false)
  | .ldd x o => some (x, 8, fun a => [a.getG o.rs1 + o.imm.signExtend 64], .gpr o.rd false)
  | .vld x vd vs1 et => some (x, elemWidth et / 8, fun a => easUnit (a.getG vs1) et, .vec vd)
  | .vlds x o => some (x, elemWidth o.et / 8, fun a => easStride (a.getG o.vs1) (a.getG o.vs2) o.et, .vec o.vd)
  | .vldb x vd vs1 et => some (x, elemWidth et / 8, fun a => easSame (a.getG vs1) et, .vec vd)
  | _ => none

/-- The width in bytes of a store's elements, their addresses and the bytes stored (R72, R102). -/
def storeOf : Instr → Option (Ctx × Nat × (Arch → List Word) × (Arch → List Byte))
  | .stb x o => some (x, 1, fun a => [a.getG o.rs1 + o.imm.signExtend 64], fun a => leBytes 1 (a.getG o.rs2).toNat)
  | .sth x o => some (x, 2, fun a => [a.getG o.rs1 + o.imm.signExtend 64], fun a => leBytes 2 (a.getG o.rs2).toNat)
  | .stw x o => some (x, 4, fun a => [a.getG o.rs1 + o.imm.signExtend 64], fun a => leBytes 4 (a.getG o.rs2).toNat)
  | .std x o => some (x, 8, fun a => [a.getG o.rs1 + o.imm.signExtend 64], fun a => leBytes 8 (a.getG o.rs2).toNat)
  | .vst x vd vs1 et => some (x, elemWidth et / 8, fun a => easUnit (a.getG vs1) et, fun a => leBytes 32 (a.getV vd).toNat)
  | .vsts x o => some (x, elemWidth o.et / 8, fun a => easStride (a.getG o.vs1) (a.getG o.vs2) o.et, fun a => leBytes 32 (a.getV o.vd).toNat)
  | _ => none

/-- An atomic's operands: width in bytes and operation (R73). -/
def atomicOf : Instr → Option (Ctx × OpsR × Nat × AtomOp)
  | .aaddW x o => some (x, o, 4, .add)
  | .aaddD x o => some (x, o, 8, .add)
  | .aswpW x o => some (x, o, 4, .swap)
  | .aswpD x o => some (x, o, 8, .swap)
  | .acasW x o => some (x, o, 4, .cas)
  | .acasD x o => some (x, o, 8, .cas)
  | _ => none

/-- The load of a core succeeds: its pages translate, its data is without poison or error, and no home makes it wait. -/
def Dev.Loads (d : Dev) (c w : Nat) (eas : List Word) (dest : LoadDest) : Prop :=
  (d.loadAll c w eas dest).2.isRight = true ∧ (d.loadAll c w eas dest).1.fabric.waits = d.fabric.waits
/-- The bytes that a load gives, lowest address first. -/
def Dev.loaded (d : Dev) (c w : Nat) (eas : List Word) (dest : LoadDest) : List Byte :=
  match (d.loadAll c w eas dest).2 with
  | .inr b => b
  | .inl _ => []

/-- The store of a core takes effect: its pages translate, in a stitch nothing ends it first, and no home makes it wait. -/
def Dev.Stores (d : Dev) (c w : Nat) (eas : List Word) (b : List Byte) : Prop :=
  (d.storeAll c w eas b).2 = none ∧ (d.storeAll c w eas b).1.fabric.waits = d.fabric.waits

/-- Whether a part of an access is ordinary memory: neither a device nor a scratchpad. -/
def Part.ordinary (p : Part) : Bool := !p.device && !inSpad p.pa

/-! ### Decimal instructions (R75 to R81) -/

/-- What a decimal instruction writes, of its operands' decimal or binary values. -/
def decimalOf (i : Instr) (a : Arch) : Option (Ctx × OpsD × DecRes) :=
  match i with
  | .dadd x o => some (x, o, decTwo (a.getDec o.rs1 o.w) (a.getDec o.rs2 o.w) (nibbles o.w) fun u v => decStore (u + v) (nibbles o.w))
  | .dsub x o => some (x, o, decTwo (a.getDec o.rs1 o.w) (a.getDec o.rs2 o.w) (nibbles o.w) fun u v => decStore (u - v) (nibbles o.w))
  | .dmul x o => some (x, o, decTwo (a.getDec o.rs1 o.w) (a.getDec o.rs2 o.w) (nibbles o.w) fun u v => decStore (u * v) (nibbles o.w))
  | .ddiv x o => some (x, o, decTwo (a.getDec o.rs1 o.w) (a.getDec o.rs2 o.w) (nibbles o.w) fun u v =>
      if v = 0 then .ok 0xC true else .ok (decPack (u.tdiv v) (nibbles o.w)) false)
  | .dcmp x o => some (x, o, decTwo (a.getDec o.rs1 o.w) (a.getDec o.rs2 o.w) (nibbles o.w) fun u v =>
      .ok (binBits (if u < v then -1 else if u = v then 0 else 1) o.w) (decide (u < v)))
  | .dadj x o => some (x, o, decOne (a.getDec o.rs1 o.w) (nibbles o.w) fun v => dadjOf v (a.getG o.rs2).toInt (nibbles o.w))
  | .dcvb x o => some (x, o, decOne (a.getDec o.rs1 o.w) (nibbles o.w) fun v => .ok (binBits v o.w) false)
  | .dcvd x o => some (x, o, decStore (binValue (a.getDec o.rs1 o.w) o.w) (nibbles o.w))
  | _ => none

/-! ### Vector instructions (R100, R101) -/

/-- The value of one element of an integer instruction or compare, of the width, and elements of its two sources. -/
def vectorInteger : Instr → Option (Ctx × OpsV × (Nat → Nat → Nat → Nat))
  | .vadd x o => some (x, o, fun w a b => (a + b) % 2 ^ w)
  | .vsub x o => some (x, o, fun w a b => (a + 2 ^ w - b) % 2 ^ w)
  | .vmul x o => some (x, o, fun w a b => a * b % 2 ^ w)
  | .vmulh x o => some (x, o, fun w a b => uns w (sgn w a * sgn w b / 2 ^ w))
  | .vmin x o => some (x, o, fun w a b => if sgn w a ≤ sgn w b then a else b)
  | .vmax x o => some (x, o, fun w a b => if sgn w a ≤ sgn w b then b else a)
  | .vminu x o => some (x, o, fun _ a b => min a b)
  | .vmaxu x o => some (x, o, fun _ a b => max a b)
  | .vand x o => some (x, o, fun _ a b => a &&& b)
  | .vor x o => some (x, o, fun _ a b => a ||| b)
  | .vxor x o => some (x, o, fun _ a b => a ^^^ b)
  | .vsll x o => some (x, o, fun w a b => a <<< (b % w) % 2 ^ w)
  | .vsrl x o => some (x, o, fun w a b => a >>> (b % w))
  | .vsra x o => some (x, o, fun w a b => uns w (sgn w a / 2 ^ (b % w)))
  | .vadds x o => some (x, o, fun w a b => uns w (max (-(2 ^ (w - 1))) (min (2 ^ (w - 1) - 1) (sgn w a + sgn w b))))
  | .vsubs x o => some (x, o, fun w a b => uns w (max (-(2 ^ (w - 1))) (min (2 ^ (w - 1) - 1) (sgn w a - sgn w b))))
  | .vceq x o => some (x, o, fun w a b => if a = b then 2 ^ w - 1 else 0)
  | .vcne x o => some (x, o, fun w a b => if a = b then 0 else 2 ^ w - 1)
  | .vclt x o => some (x, o, fun w a b => if sgn w a < sgn w b then 2 ^ w - 1 else 0)
  | .vcle x o => some (x, o, fun w a b => if sgn w a ≤ sgn w b then 2 ^ w - 1 else 0)
  | .vcltu x o => some (x, o, fun w a b => if a < b then 2 ^ w - 1 else 0)
  | .vcleu x o => some (x, o, fun w a b => if a ≤ b then 2 ^ w - 1 else 0)
  | _ => none

/-- The value and the exceptions of one element of a floating instruction, of format, rounding and its sources' elements. -/
def vectorFloat : Instr → Option (Ctx × RegNo × List RegNo × Elem × (Fmt → Rm → List Nat → Nat × Exc))
  | .vfadd x o => some (x, o.vd, [o.vs1, o.vs2], o.et, fun g r l => fpAdd g r (l.getD 0 0) (l.getD 1 0))
  | .vfsub x o => some (x, o.vd, [o.vs1, o.vs2], o.et, fun g r l => fpSub g r (l.getD 0 0) (l.getD 1 0))
  | .vfmul x o => some (x, o.vd, [o.vs1, o.vs2], o.et, fun g r l => fpMul g r (l.getD 0 0) (l.getD 1 0))
  | .vfdiv x o => some (x, o.vd, [o.vs1, o.vs2], o.et, fun g r l => fpDiv g r (l.getD 0 0) (l.getD 1 0))
  | .vfsqrt x vd vs1 et => some (x, vd, [vs1], et, fun g r l => fpSqrt g r (l.getD 0 0))
  | .vfmin x o => some (x, o.vd, [o.vs1, o.vs2], o.et, fun g _ l => fpMinMax g false (l.getD 0 0) (l.getD 1 0))
  | .vfmax x o => some (x, o.vd, [o.vs1, o.vs2], o.et, fun g _ l => fpMinMax g true (l.getD 0 0) (l.getD 1 0))
  | .vfma x o => some (x, o.vd, [o.vs1, o.vs2, o.vd], o.et, fun g r l => fpFma g r false (l.getD 0 0) (l.getD 1 0) (l.getD 2 0))
  | .vfnma x o => some (x, o.vd, [o.vs1, o.vs2, o.vd], o.et, fun g r l => fpFma g r true (l.getD 0 0) (l.getD 1 0) (l.getD 2 0))
  | .vfabs x vd vs1 et => some (x, vd, [vs1], et, fun g _ l => (l.getD 0 0 % 2 ^ (g.width - 1), {}))
  | .vfneg x vd vs1 et => some (x, vd, [vs1], et, fun g _ l => (l.getD 0 0 ^^^ 2 ^ (g.width - 1), {}))
  | .vcfeq x o => some (x, o.vd, [o.vs1, o.vs2], o.et, fun g _ l => ((if (fpCompare g .eq (l.getD 0 0) (l.getD 1 0)).1 then 2 ^ g.width - 1 else 0),
      (fpCompare g .eq (l.getD 0 0) (l.getD 1 0)).2))
  | .vcflt x o => some (x, o.vd, [o.vs1, o.vs2], o.et, fun g _ l => ((if (fpCompare g .lt (l.getD 0 0) (l.getD 1 0)).1 then 2 ^ g.width - 1 else 0),
      (fpCompare g .lt (l.getD 0 0) (l.getD 1 0)).2))
  | .vcfle x o => some (x, o.vd, [o.vs1, o.vs2], o.et, fun g _ l => ((if (fpCompare g .le (l.getD 0 0) (l.getD 1 0)).1 then 2 ^ g.width - 1 else 0),
      (fpCompare g .le (l.getD 0 0) (l.getD 1 0)).2))
  | .vcfun x o => some (x, o.vd, [o.vs1, o.vs2], o.et, fun g _ l => ((if (fpCompare g .un (l.getD 0 0) (l.getD 1 0)).1 then 2 ^ g.width - 1 else 0),
      (fpCompare g .un (l.getD 0 0) (l.getD 1 0)).2))
  | _ => none

/-- Element i of a permute's result, of the width and the registers (R100). -/
def vectorMove : Instr → Option (Ctx × RegNo × Elem × (Arch → Nat → Nat))
  | .vperm x o => some (x, o.vd, o.et, fun a i =>
      let w := elemWidth o.et
      let k := elemOf (a.getV o.vs2) w i
      if k < 256 / w then elemOf (a.getV o.vs1) w k else 0)
  | .vbcast x vd vs1 et => some (x, vd, et, fun a _ => elemOf (a.getV vs1) (elemWidth et) 0)
  | .vziplo x o => some (x, o.vd, o.et, fun a i => elemOf (a.getV (if i % 2 = 0 then o.vs1 else o.vs2)) (elemWidth o.et) (i / 2))
  | .vziphi x o => some (x, o.vd, o.et, fun a i =>
      elemOf (a.getV (if i % 2 = 0 then o.vs1 else o.vs2)) (elemWidth o.et) (256 / elemWidth o.et / 2 + i / 2))
  | .vunzipe x o => some (x, o.vd, o.et, fun a i =>
      let n := 256 / elemWidth o.et / 2
      if i < n then elemOf (a.getV o.vs1) (elemWidth o.et) (2 * i) else elemOf (a.getV o.vs2) (elemWidth o.et) (2 * (i - n)))
  | .vunzipo x o => some (x, o.vd, o.et, fun a i =>
      let n := 256 / elemWidth o.et / 2
      if i < n then elemOf (a.getV o.vs1) (elemWidth o.et) (2 * i + 1) else elemOf (a.getV o.vs2) (elemWidth o.et) (2 * (i - n) + 1))
  | .vsel x o => some (x, o.vd, o.et, fun a i =>
      if elemOf (a.getV o.vs2) (elemWidth o.et) i = 0 then elemOf (a.getV o.vd) (elemWidth o.et) i else elemOf (a.getV o.vs1) (elemWidth o.et) i)
  | _ => none

/-! ### Packets -/

/-- The device in which packet `m` crosses the fabric: its sender's transaction begun, the fabric domains of its route awake (R247, R251). -/
def Dev.inTransit (d : Dev) (o : Opc) (m : Msg) : Dev := (d.startTxn o m).wakeRoute m.src m.dst

/-- Packet `m` reaches its unit: no older packet of its channel and no access of its core is before it, no open link and no isolated port lies on its
route, the unit is On; `e` is the device with the packet taken from the fabric, noted by the observation units, and an entry into a low-power state
aborted (R246, R248, R249, R250, R254, R381). -/
structure Delivered (s : State) (o : Opc) (m : Msg) (e : Dev) : Prop where
  oldest : (s.dev.startTxn o m).overtakes o m = false
  linked : (s.dev.startTxn o m).linkOpen m = false
  turn   : (s.dev.startTxn o m).deviceHeld o m = false
  ported : (s.dev.inTransit o m).blocked m = false
  on     : (s.dev.inTransit o m).power ((s.dev.inTransit o m).packetDom o m) = 0
  after  : e = (((s.dev.inTransit o m).leave o m).see o m ((s.dev.inTransit o m).beganAt m)).abortEntry ((s.dev.inTransit o m).packetDom o m)

/-! ### Groups of commands -/

/-- The level that an instruction of the system group needs. -/
def levelNeeded : Instr → Option (Ctx × Level)
  | .hvcall x _ => some (x, .s)
  | .reti x => some (x, .s)
  | .tsync x _ => some (x, .s)
  | .clean x _ => some (x, .s)
  | .flush x _ => some (x, .s)
  | .prefetch x _ => some (x, .s)
  | .discard x _ => some (x, .h)
  | .psetup x _ => some (x, .h)
  | .pdissolve x _ => some (x, .h)
  | _ => none

/-- The instructions that a panel member may not execute in a stitch, with the least level that each needs. -/
def stitchForbidden : Instr → Option (Ctx × Level)
  | .zmark x _ => some (x, .u)
  | .tinvPage x _ => some (x, .s)
  | .tinvRange x _ => some (x, .s)
  | .tinvSegment x _ => some (x, .s)
  | .tinvTenant x _ => some (x, .s)
  | .tinvAll x _ => some (x, .s)
  | .tsync x _ => some (x, .s)
  | .clean x _ => some (x, .s)
  | .flush x _ => some (x, .s)
  | .prefetch x _ => some (x, .s)
  | .discard x _ => some (x, .h)
  | .psetup x _ => some (x, .h)
  | .pdissolve x _ => some (x, .h)
  | _ => none

/-- `n` leading zeros: that many bits from bit 63 down are 0, and the next, where there is one, is 1. -/
def leadingZeros (a : Word) (n : Nat) : Prop := n ≤ 64 ∧ (∀ i, i < n → a.getLsbD (63 - i) = false) ∧ (n < 64 → a.getLsbD (63 - n) = true)

/-- `n` trailing zeros. -/
def trailingZeros (a : Word) (n : Nat) : Prop := n ≤ 64 ∧ (∀ i, i < n → a.getLsbD i = false) ∧ (n < 64 → a.getLsbD n = true)

/-- The sum of a word's bits from bit `i` up. -/
def bitSum (a : Word) : Nat → Nat
  | 0 => 0
  | n + 1 => bitSum a n + (if a.getLsbD n then 1 else 0)

/-- The scope of a TINV instruction. -/
def tinvOf : Instr → Option (Ctx × RegNo × TinvScope)
  | .tinvPage x ra => some (x, ra, .page)
  | .tinvRange x ra => some (x, ra, .range)
  | .tinvSegment x ra => some (x, ra, .segment)
  | .tinvTenant x ra => some (x, ra, .tenant)
  | .tinvAll x ra => some (x, ra, .all)
  | _ => none

/-- The operation and the least level of a range instruction. -/
def rangeOf : Instr → Option (Ctx × RegNo × RangeOp × Level)
  | .clean x ra => some (x, ra, .clean, .s)
  | .flush x ra => some (x, ra, .flush, .s)
  | .discard x ra => some (x, ra, .discard, .h)
  | .prefetch x ra => some (x, ra, .prefetch, .s)
  | _ => none

/-- The request to a line's home that a command delivers. -/
def homeRequest : Instr → Option (Opc × Msg)
  | .rds m => some (.rds, m)
  | .rdo m => some (.rdo, m)
  | .upg m => some (.upg, m)
  | .rdna m => some (.rdna, m)
  | .iow m => some (.iow, m)
  | .wbd m => some (.wbd, m)
  | .evc m => some (.evc, m)
  | _ => none

/-- A packet in the fabric answers transaction `txid` of agent `a`: the completion that its request asks for, or an error. -/
def Answered (d : Dev) (a : Agent) (txid : Half) : Prop :=
  ∃ (o : Opc) (m : Msg), (o, m) ∈ d.fabric.net ∧ isResponse o = true ∧ m.who = a ∧ m.txid = txid

/-- The snoop that a command delivers. -/
def snoopOf : Instr → Option (Opc × Msg)
  | .snp m => some (.snp, m)
  | .snpinv m => some (.snpinv, m)
  | .backinv m => some (.backinv, m)
  | _ => none

/-- The answer to a snoop that a command delivers, and what the home does with it. -/
def holderAnswer : Instr → Option (Opc × Msg × (Dev → Dev))
  | .ack m => some (.ack, m, fun d => d.homeAck m)
  | .nocopy m => some (.nocopy, m, fun d => d.homeNoCopy m)
  | .copylost m => some (.copylost, m, fun d => d.homeLost m)
  | .snpdata m => some (.snpdata, m, fun d => d.homeSnpData m)
  | _ => none

/-- The response that a command delivers to an initiator. -/
def responseOf : Instr → Option (Opc × Msg)
  | .grant m => some (.grant, m)
  | .data m => some (.data, m)
  | .cmp m => some (.cmp, m)
  | .err m => some (.err, m)
  | _ => none

/-- The operation that a command of an engine performs: the units that it may take, its number in a descriptor and one unit of its work, of the share. -/
def engineOf : Instr → Option (EngineId × Lane × Nat × Nat × (Nat → EngStep))
  | .engCopy e q => some (e, q.lane, q.units, 1, copyStep e.val)
  | .engFill e q => some (e, q.lane, q.units, 2, fillStep e.val)
  | .engCompare e q => some (e, q.lane, q.units, 3, compareStep e.val)
  | .engZero e q => some (e, q.lane, q.units, 4, zeroStep e.val)
  | .engCrc32c e q => some (e, q.lane, q.units, 5, crcStep e.val)
  | .engSha256 e q => some (e, q.lane, q.units, 6, fun i => shaStep e.val i sha256Kind)
  | .engSha512 e q => some (e, q.lane, q.units, 7, fun i => shaStep e.val i sha512Kind)
  | .engGcmEnc e q => some (e, q.lane, q.units, 8, fun i => gcmStep e.val i true)
  | .engGcmDec e q => some (e, q.lane, q.units, 9, fun i => gcmStep e.val i false)
  | .engXtsEnc e q => some (e, q.lane, q.units, 10, fun i => xtsStep e.val i true)
  | .engXtsDec e q => some (e, q.lane, q.units, 11, fun i => xtsStep e.val i false)
  | .engDeflate e q => some (e, q.lane, q.units, 12, deflateStep e.val)
  | .engInflate e q => some (e, q.lane, q.units, 13, inflateStep e.val)
  | _ => none

/-- A well-formed request of an operation, of an open session of its own path and socket, in a device that runs; a mailbox's is the one
that the page has handed over. Host firmware's page is not locked. -/
def Served (d : Dev) (r : OdRequest) (op : Nat) (x : Session) : Prop :=
  d.phase = .running ∧ r.socket.val = d.socket ∧ d.mailMeets r op = true ∧ odMalformed r op = false ∧ (r.path = .hostFw → d.hfwLocked = false) ∧
  (d.dict.sessions.find? fun s => s.token == r.token && s.cls == r.path && s.socket == r.socket.val) = some x

end Sys2Proof.Machine
end

