-- ==== Sys2Proof/Certificates/Slice0/Obligations.lean ====
section
/-! DEFINITION. What the provers are asked to prove of the block, each statement a proposition. -/

open Sys2Proof Sys2Proof.Machine

/-! ### The step, the queue, reset -/

/-- A step with a command at the front of the queue is that command's effect on the device, with the queue's rest (the model's queue of
commands, log entry 1). With no command waiting one nanosecond passes (log entry 1): in a device that does not run and has nothing left to
record or send, a powered time base that has no counts to gain or lose advances by 1 (R22), and without VAUX nothing changes; in a device that
runs, an error of a protected array may come first (log entry 104). -/
def Obligations.StepRunsFront : Prop :=
  (∀ (s : State) (i : Instr) (rest : List Instr), s.pending = i :: rest → step s = exec i { s with pending := rest }) ∧
  (∀ s : State, s.pending = [] → s.dev.phase ≠ .running →
    (s.dev.pins.vaux = false → step s = .next s) ∧
    (s.dev.pins.vaux = true → s.dev.pins.syncAdjust = 0 → s.dev.cores = [] → s.dev.Quiet →
      step s = .next { s with dev := { s.dev with time := s.dev.time + 1 } })) ∧
  (∀ s : State, s.pending = [] → s.dev.phase = .running → ∃ d : Dev, step s = .next { s with dev := d.tick } ∧
    (d = s.dev.draw.2 ∨ ∃ u : Upset, d = s.dev.draw.2.orWait (s.dev.draw.2.upset u)))

/-- Every command answers a next state and leaves the queue alone: no command stops the block, and none adds a command, removes one or
changes their order. -/
def Obligations.CommandsKeepQueue : Prop :=
  ∀ (i : Instr) (s : State), ∃ d : Dev, exec i s = .next { s with dev := d }

/-- The device that waits for its first cast-on: the time base is 0 (R22), no command waits, every domain's register reads as its map
gives for reset, each core's general registers, p1 to p7 and vector registers are 0 where no cast-on has run (log entry 2). -/
def Obligations.ResetState : Prop :=
  State.reset.pending = [] ∧ State.reset.dev.phase = .waiting ∧ State.reset.dev.time = 0 ∧ State.reset.dev.mem = [] ∧ State.reset.Canonical ∧
  State.reset.dev.errs.slots = [] ∧ State.reset.dev.Quiet ∧
  (∀ r : Reg, State.reset.dev.reg r = r.reset) ∧
  (∀ (c : CoreId) (r : RegNo), (State.reset.dev.arch c.val).getG r = 0) ∧
  (∀ (c : CoreId) (r : RegNo), (State.reset.dev.arch c.val).getV r = 0) ∧
  (∀ (c : CoreId) (r : PredNo), (State.reset.dev.arch c.val).getP r = decide (r = 0))

/-- g0 reads as 0 and p0 as true, and a write to either changes nothing (R30, R31); a write of another register is read back, and no
other register changes. A pair of registers, named by its even one, holds the low 64 bits in it and the high 64 in the odd one (R30). -/
def Obligations.ConstantRegisters : Prop :=
  (∀ a : Arch, a.getG 0 = 0 ∧ a.getP 0 = true) ∧
  (∀ (a : Arch) (v : Word), a.setG 0 v = a) ∧ (∀ (a : Arch) (b : Bool), a.setP 0 b = a) ∧
  (∀ (a : Arch) (r q : RegNo) (v : Word), r ≠ 0 → (a.setG r v).getG q = if q = r then v else a.getG q) ∧
  (∀ (a : Arch) (r q : PredNo) (b : Bool), r ≠ 0 → (a.setP r b).getP q = if q = r then b else a.getP q) ∧
  (∀ (a : Arch) (r q : RegNo) (v : Vec), (a.setV r v).getV q = if q = r then v else a.getV q) ∧
  (∀ (a : Arch) (r q : RegNo), q.val = r.val + 1 → a.getPair r = (a.getG r).toNat + 2 ^ 64 * (a.getG q).toNat) ∧
  (∀ (a : Arch) (r q : RegNo) (n : Nat), r ≠ 0 → q.val = r.val + 1 → n < 2 ^ 128 →
    ((a.setPair r n).getG r).toNat + 2 ^ 64 * ((a.setPair r n).getG q).toNat = n)

/-! ### Executing an instruction -/

/-- Retiring changes one core alone: its pc becomes the given one and every other register stands; no other core and nothing else of the
device changes. Outside a stitch the panel membership stands too; in one, the stitch counts one instruction more and its fetch signature takes
the line fetched (R206, R209). A command that has not waited, reported or sent anything leaves just its effect. -/
def Obligations.Retirement : Prop :=
  (∀ (d : Dev) (c fetched : Nat) (next : Word),
    (d.retire c fetched next).arch c = { d.arch c with pc := next } ∧
    (∀ k, k ≠ c → (d.retire c fetched next).core k = d.core k) ∧
    d.retire c fetched next = { d with cores := (d.retire c fetched next).cores } ∧
    (d.stitching c = none → (d.retire c fetched next).core c =
      { d.core c with arch := { d.arch c with pc := next }, routine := none, replays := 0 }) ∧
    (∀ m, d.stitching c = some m → ∃ n, ((d.retire c fetched next).core c).member = some n ∧ n.count = m.count + 1 ∧
      n.fetchSig = m.fetchSig ||| sigBits (fetched / 64))) ∧
  (∀ d e : Dev, e.fabric.waits = d.fabric.waits → e.Quiet → d.close e = e)

/-- An instruction whose guard fails retires and does nothing else (R48): pc moves to the next instruction. A branch among them has trained
the direction tables (log entry 105), and nothing else. -/
def Obligations.GuardedOff : Prop :=
  ∀ (i : Instr) (x : Ctx) (opc low : Nat) (s : State) (e : Dev) (t : Trans), i.fields = some (x, opc, low) → Fetches s x.core.val e t →
    i.wf = true → Guard.passes (s.dev.arch x.core.val) x.guard = false →
    (branchOf i = none → Completes i s (e.retire x.core.val t.pa (s.pc x + 4))) ∧
    ((branchOf i).isSome = true → ∃ (l : List PredEntry) (h : List Bool), Completes i s
      ((e.modCore x.core.val fun k => { k with pred := l, history := h }).retire x.core.val t.pa (s.pc x + 4)))

/-- A term that R52 calls an undefined operation, and the event of an undefined word, raise vector 0 with CODE 0, the word in the frame
(R41, R52). Where the frame can be written at once the core stands in the handler afterwards (R45). Completes: UNDEFINED_OPERATION. -/
def Obligations.UndefinedOperations : Prop :=
  (∀ (i : Instr) (x : Ctx) (opc low : Nat) (s : State) (e : Dev) (t : Trans), i.fields = some (x, opc, low) → Fetches s x.core.val e t →
    i.wf = false → Does i s (e.raise x.core.val ⟨0, 0, 0, s.pc x, i.encode.getD 0⟩)) ∧
  (∀ (c : CoreId) (w : Word32) (s : State) (e : Dev) (t : Trans), decodeWord c w = none → Fetches s c.val e t →
    Does (.undefinedOperation c w) s (e.raise c.val ⟨0, 0, 0, (s.dev.arch c.val).pc, w⟩)) ∧
  (∀ (c : CoreId) (w : Word32) (s : State) (e : Dev) (t : Trans) (l : L2Line), decodeWord c w = none → Fetches s c.val e t →
    e.FrameReady c.val ((e.arch c.val).route 0) l →
    Leaves (.undefinedOperation c w) s fun d => e.Entered d c.val ((e.arch c.val).route 0) ⟨0, 0, 0, (s.dev.arch c.val).pc, w⟩)

/-- Below the level that it needs, HVCALL, RETI, TSYNC, a range operation or a panel request raises vector 1 with CODE 0 in place of its effect
(R41, R82, R45, R91, R92, R96). In a stitch, the MEMOP instructions, PSETUP and PDISSOLVE raise vector 0x0A with CODE 1 in place of theirs
(R41, R227). -/
def Obligations.ForbiddenInstructions : Prop :=
  (∀ (i : Instr) (x : Ctx) (l : Level) (s : State) (e : Dev) (t : Trans), levelNeeded i = some (x, l) → Executes s x i e t →
    Level.lt (s.dev.arch x.core.val).pl l = true →
    Does i s (e.raise x.core.val ⟨1, 0, 0, s.pc x, i.encode.getD 0⟩)) ∧
  (∀ (i : Instr) (x : Ctx) (l : Level) (s : State) (e : Dev) (t : Trans), stitchForbidden i = some (x, l) → Executes s x i e t →
    Level.le l (s.dev.arch x.core.val).pl = true → (s.dev.arch x.core.val).strap = false → (e.stitching x.core.val).isSome = true →
    Does i s (e.raise x.core.val ⟨0x0A, 1, 0, s.pc x, i.encode.getD 0⟩))

/-! ### Integer instructions, predicates and branches -/

/-- Each two-operand integer instruction leaves rd as its operation of rs1 and rs2, over 64-bit words, and changes no other register, no
predicate and nothing else; division by zero gives all ones and the dividend (R66, R67). Writes of g0 are discarded. A signed quotient
truncates toward zero and its remainder has the dividend's sign; −2⁶³ by −1 gives −2⁶³ and 0 (R66, R67). Completes: ADD,
SUB, AND, OR, XOR, ANDN, SLL, SRL, SRA, ROR, MIN, MAX, MINU, MAXU, ADDW, SUBW, SLLW, SRLW, SRAW, MUL, MULH, MULHU, DIV, DIVU, REM, REMU. -/
def Obligations.IntegerResults : Prop :=
  (∀ (i : Instr) (x : Ctx) (o : OpsR) (f : Word → Word → Word) (s : State) (e : Dev) (t : Trans), twoOperand i = some (x, o, f) →
    Executes s x i e t → RegistersBecome s x i e t fun a => a.setG o.rd (f (a.getG o.rs1) (a.getG o.rs2))) ∧
  ((∀ a b : Word, b ≠ 0 → ¬ (a = BitVec.intMin 64 ∧ b = BitVec.allOnes 64) →
    (divOf a b).toInt = a.toInt.tdiv b.toInt ∧ (remOf a b).toInt = a.toInt - b.toInt * a.toInt.tdiv b.toInt) ∧
  divOf (BitVec.intMin 64) (BitVec.allOnes 64) = BitVec.intMin 64 ∧ remOf (BitVec.intMin 64) (BitVec.allOnes 64) = 0 ∧
  (∀ a : Word, divOf a 0 = BitVec.allOnes 64 ∧ remOf a 0 = a ∧ divuOf a 0 = BitVec.allOnes 64 ∧ remuOf a 0 = a))

/-- CLZ, CTZ and POPC leave rd as the number of leading zeros, trailing zeros and set bits of rs1, 64 for the zeros of 0 (R66).
Completes: CLZ, CTZ, POPC. -/
def Obligations.BitCounts : Prop :=
  ∀ (x : Ctx) (rd rs1 : RegNo) (s : State) (e : Dev) (t : Trans),
    (Executes s x (.clz x rd rs1) e t → ∃ n, leadingZeros ((e.arch x.core.val).getG rs1) n ∧
      RegistersBecome s x (.clz x rd rs1) e t fun a => a.setG rd (BitVec.ofNat 64 n)) ∧
    (Executes s x (.ctz x rd rs1) e t → ∃ n, trailingZeros ((e.arch x.core.val).getG rs1) n ∧
      RegistersBecome s x (.ctz x rd rs1) e t fun a => a.setG rd (BitVec.ofNat 64 n)) ∧
    (Executes s x (.popc x rd rs1) e t →
      RegistersBecome s x (.popc x rd rs1) e t fun a => a.setG rd (BitVec.ofNat 64 (bitSum (a.getG rs1) 64)))

/-- Instructions with an immediate: sign-extended in ADDI, ADDIS and ADDPC, zero-extended in ANDI, ORI and XORI, the two latter
additions 12 bits up (R50, R66), and SHI by its kind and amount (R68). Completes: ADDI, ANDI, ORI, XORI, SHI,
ADDIS, ADDPC. -/
def Obligations.ImmediateResults : Prop :=
  ∀ (i : Instr) (x : Ctx) (rd : RegNo) (f : Arch → Word) (s : State) (e : Dev) (t : Trans), immediateOperand i = some (x, rd, f) →
    Executes s x i e t → RegistersBecome s x i e t fun a => a.setG rd (f a)

/-- CMP.cc writes p[pd] with its comparison, an immediate sign-extended even in an unsigned one, and PAND, POR, PNOT, PXOR and PANDN
write their function; nothing else changes, and p0 stays true (R31, R69, R70). Completes: CMP_CC, PAND, POR,
PNOT, PXOR, PANDN. -/
def Obligations.PredicateResults : Prop :=
  ∀ (i : Instr) (x : Ctx) (pd : PredNo) (f : Arch → Bool) (s : State) (e : Dev) (t : Trans), predicateResult i = some (x, pd, f) →
    Executes s x i e t → RegistersBecome s x i e t fun a => a.setP pd (f a)

/-- A branch to a target that is a multiple of 4 goes there; BL and BR leave the address of the next instruction in g1 or rd, rd = 0 excepted.
Of the whole device only the core's registers so named, its branch predictions (log entry 105) and its return stack differ before it retires
(R33, R71, R103). A target that is no multiple of 4 raises vector 3 with the target in FADDR, the link register as it was (R71). Completes: B, BL,
BR, RET, for every target that is a multiple of 4. -/
def Obligations.Branches : Prop :=
  ∀ (i : Instr) (x : Ctx) (target : Arch → Word) (link : RegNo) (s : State) (e : Dev) (t : Trans), branchOf i = some (x, target, link) →
    Executes s x i e t →
    let a := e.arch x.core.val
    ((target a).toNat % 4 = 0 → ∃ (d : Dev) (l : List PredEntry) (h : List Bool) (r : List Word),
      e.OnlyCore d x.core.val { e.core x.core.val with arch := a.setG link (a.pc + 4), pred := l, history := h, retStack := r } ∧
      Completes i s (d.retire x.core.val t.pa (target a))) ∧
    ((target a).toNat % 4 ≠ 0 → Does i s (e.raise x.core.val ⟨3, 0, target a, s.pc x, i.encode.getD 0⟩))

/-! ### Memory -/

/-- A load that succeeds leaves its destination as the bytes at its address, sign- or zero-extended, or as the elements of a vector register; the
address is g[rs1] + sext(imm), or the elements' addresses (R72, R100, R102). One that meets a fault raises it (R41). A load at M, without
translation and with no store waiting, whose elements each lie within a line of DRAM that the L2 holds without poison, completes: its destination
is what those lines hold, every other register of every core stands, and so do memory and every domain's register (R54, R131). Completes: LDB, LDBU,
LDH, LDHU, LDW, LDWU, LDD, VLD, VLDS, VLDB. -/
def Obligations.Loads : Prop :=
  (∀ (i : Instr) (x : Ctx) (w : Nat) (eas : Arch → List Word) (dest : LoadDest) (s : State) (e : Dev) (t : Trans),
    loadOf i = some (x, w, eas, dest) → Executes s x i e t →
    let l := eas (e.arch x.core.val)
    let e2 := (e.loadAll x.core.val w l dest).1
    (e.Loads x.core.val w l dest →
      Completes i s ((e2.withArch x.core.val ((e2.arch x.core.val).putLoad dest (e.loaded x.core.val w l dest))).retire x.core.val t.pa (s.pc x + 4))) ∧
    (∀ (v code : Nat) (fa : Word), (e.loadAll x.core.val w l dest).2 = .inl (.trap v code fa) →
      Does i s (e2.raise x.core.val ⟨v, code, fa, s.pc x, i.encode.getD 0⟩))) ∧
  (∀ (a : Arch) (rd : RegNo) (b : List Byte), b.length ∈ [1, 2, 4, 8] →
    a.putLoad (.gpr rd true) b = a.setG rd ((BitVec.ofNat (8 * b.length) (leNat b)).signExtend 64) ∧
    a.putLoad (.gpr rd false) b = a.setG rd (BitVec.ofNat 64 (leNat b))) ∧
  (∀ (i : Instr) (x : Ctx) (w : Nat) (eas : Arch → List Word) (dest : LoadDest) (s : State) (e : Dev) (t : Trans) (l : Word → L2Line),
    loadOf i = some (x, w, eas, dest) → Executes s x i e t → e.stitching x.core.val = none → (e.core x.core.val).storeBuf = [] →
    (∀ ea ∈ eas (e.arch x.core.val), e.Near x.core.val w ea (l ea)) →
    Leaves i s fun d => d.arch x.core.val =
        { (e.arch x.core.val).putLoad dest ((eas (e.arch x.core.val)).flatMap fun ea => Line.slice (l ea).data (ea.toNat % 64) w) with pc := s.pc x + 4 } ∧
      (∀ k, k ≠ x.core.val → d.core k = e.core k) ∧ d.mem = e.mem ∧ d.csr = e.csr)

/-- A store that is not stopped takes effect; outside a stitch it puts its bytes into the core's store buffer at the addresses that its operands give
(R54, R55, R72, R102, R206). One that meets a fault raises it (R41). A store at M, without translation and outside a stitch, whose elements each
lie within a line of normal memory, completes where the store buffer has room: it adds the elements' bytes to the store buffer, and nothing else of the
device differs before it retires (R54). Completes: STB, STH, STW, STD, VST, VSTS. -/
def Obligations.Stores : Prop :=
  (∀ (i : Instr) (x : Ctx) (w : Nat) (eas : Arch → List Word) (bytes : Arch → List Byte) (s : State) (e : Dev) (t : Trans),
    storeOf i = some (x, w, eas, bytes) → Executes s x i e t →
    let l := eas (e.arch x.core.val)
    let b := bytes (e.arch x.core.val)
    (e.Stores x.core.val w l b → Completes i s ((e.storeAll x.core.val w l b).1.retire x.core.val t.pa (s.pc x + 4))) ∧
    (∀ (v code : Nat) (fa : Word), (e.storeAll x.core.val w l b).2 = some (.trap v code fa) →
      Does i s ((e.storeAll x.core.val w l b).1.raise x.core.val ⟨v, code, fa, s.pc x, i.encode.getD 0⟩))) ∧
  (∀ (d d1 : Dev) (c w : Nat) (eas : List Word) (b : List Byte) (ps : List Part), d.resolve c .store w false eas = (d1, .inr ps) →
    d1.stitching c = none → d.storeAll c w eas b = (d1.storeParts c (splitOver ps b), none)) ∧
  (∀ (i : Instr) (x : Ctx) (w : Nat) (eas : Arch → List Word) (bytes : Arch → List Byte) (s : State) (e : Dev) (t : Trans),
    storeOf i = some (x, w, eas, bytes) → Executes s x i e t → e.stitching x.core.val = none →
    (∀ ea ∈ eas (e.arch x.core.val), e.Flat x.core.val w ea) →
    (e.core x.core.val).storeBuf.length + (eas (e.arch x.core.val)).length ≤ 96 →
    ∃ d : Dev, Completes i s (d.retire x.core.val t.pa (s.pc x + 4)) ∧ e.OnlyCore d x.core.val { e.core x.core.val with
      storeBuf := (e.core x.core.val).storeBuf ++ (eas (e.arch x.core.val)).zipIdx.map fun p =>
        ⟨p.1.toNat, ((bytes (e.arch x.core.val)).drop (p.2 * w)).take w, 0⟩ })

/-- A store of bytes within one line of ordinary memory, with room in the store buffer, adds one entry to the core's store buffer:
afterwards the core finds the stored bytes at the bytes' own addresses and what it found before at every other address, and memory, the
caches, every register and every other core stand (R54). A load's bytes within a line come from the store buffer wherever it holds them,
the latest store first; where it holds all of them nothing else is read (R54). Otherwise they are the bytes of the line that the core's
L2 holds, a machine check with CODE 1 coming with a poisoned line, from its first byte. -/
def Obligations.StoreBuffer : Prop :=
  (∀ (d : Dev) (c : Nat) (p : Part) (b : List Byte), p.device = false → d.stitching c = none → b ≠ [] → p.pa % 64 + b.length ≤ 64 →
    (d.core c).storeBuf.length < 96 →
    d.storeParts c [(p, b)] = d.modCore c (fun k => { k with storeBuf := k.storeBuf ++ [⟨p.pa, b, p.key⟩] }) ∧
    ∀ a : Nat, ((d.storeParts c [(p, b)]).core c).buffered a =
      if h : p.pa ≤ a ∧ a - p.pa < b.length then some b[a - p.pa] else (d.core c).buffered a) ∧
  (∀ (d : Dev) (c pa n : Nat) (key : BitVec 11), d.stitching c = none →
    (∀ f : Nat → Byte, (∀ k, k < n → (d.core c).buffered (pa + k) = some (f k)) →
      d.readChunk c key pa n = (d, (List.range n).map f, none)) ∧
    (∀ (ch m : Nat) (l : L2Line), d.place pa = .dram ch m → (d.core c).storeBuf = [] → (d.core c).l2Line (pa / 64) = some l → 0 < n →
      pa % 64 + n ≤ 64 → (d.readChunk c key pa n).2 = (Line.slice l.data (pa % 64) n, if l.poison then some (0, 1) else none)))

/-- An atomic on a naturally aligned operand, whose access succeeds and waits for no home, leaves rd as the old value, zero-extended; an operand
that is not aligned raises vector 5 with CODE 1 before any access (R41, R58, R73). On a line of DRAM that the core's L2 holds modified, with no
store waiting, an atomic gives the old value and leaves the line with the sum, the new value, or, for ACAS, the new value only where the old one was
the one expected; no other byte of the line changes (R58, R73). At M, without translation and outside a stitch, it completes there: rd alone of the
core's registers, and pc, differ (R73). Completes: AADD_W, AADD_D, ASWP_W, ASWP_D, ACAS_W, ACAS_D. -/
def Obligations.Atomics : Prop :=
  (∀ (i : Instr) (x : Ctx) (o : OpsR) (n : Nat) (op : AtomOp) (s : State) (e : Dev) (t : Trans), atomicOf i = some (x, o, n, op) →
    Executes s x i e t →
    let a := e.arch x.core.val
    let r := e.atomic x.core.val n (a.getG o.rs1) op (a.getG o.rs2) (a.getG o.rd) o.rd
    (∀ v : Word, r.2 = .inr v → r.1.fabric.waits = e.fabric.waits →
      Completes i s ((r.1.withArch x.core.val ((r.1.arch x.core.val).setG o.rd (BitVec.ofNat 64 (v.toNat % 2 ^ (8 * n))))).retire
        x.core.val t.pa (s.pc x + 4))) ∧
    ((a.getG o.rs1).toNat % n ≠ 0 → Does i s (e.raise x.core.val ⟨5, 1, a.getG o.rs1, s.pc x, i.encode.getD 0⟩))) ∧
  (∀ (d : Dev) (c ch m : Nat) (p : Part) (op : AtomOp) (operand expect : Word) (l : L2Line), d.stitching c = none →
    (d.core c).storeBuf = [] → d.place p.pa = .dram ch m → (d.core c).l2Line (p.pa / 64) = some l → l.st = .modified → l.poison = false →
    p.n = 4 ∨ p.n = 8 → p.pa % p.n = 0 →
    let old := leNat (Line.slice l.data (p.pa % 64) p.n)
    let word : Option Nat := match op with
      | .add => some ((old + operand.toNat) % 2 ^ (8 * p.n))
      | .swap => some (operand.toNat % 2 ^ (8 * p.n))
      | .cas => if old = expect.toNat % 2 ^ (8 * p.n) then some (operand.toNat % 2 ^ (8 * p.n)) else none
    (d.atomicNow c p op operand expect).2 = .inr (BitVec.ofNat 64 old) ∧
    (d.atomicNow c p op operand expect).1.fabric.waits = d.fabric.waits ∧
    (((d.atomicNow c p op operand expect).1.core c).l2Line (p.pa / 64)).map (·.data) =
      some (match word with
        | some v => Line.merge l.data (lineAt (p.pa % 64) (leBytes p.n v)).1 (lineAt (p.pa % 64) (leBytes p.n v)).2
        | none => l.data)) ∧
  (∀ (i : Instr) (x : Ctx) (o : OpsR) (n : Nat) (op : AtomOp) (s : State) (e : Dev) (t : Trans) (l : L2Line), atomicOf i = some (x, o, n, op) →
    Executes s x i e t → e.stitching x.core.val = none → (e.core x.core.val).storeBuf = [] →
    let ea := (e.arch x.core.val).getG o.rs1
    ea.toNat % n = 0 → e.Near x.core.val n ea l → l.st = .modified →
    Leaves i s fun d => d.arch x.core.val =
      { ((e.arch x.core.val).setG o.rd (BitVec.ofNat 64 (leNat (Line.slice l.data (ea.toNat % 64) n)))) with pc := s.pc x + 4 })

/-- Writing bytes of memory is read back there and nowhere else, and keeps the canonical form. Merging bytes into a line leaves them at
their offset and every other byte of the line as it was. -/
def Obligations.MemoryBytes : Prop :=
  (∀ (m : List Host.Cell) (a : Nat) (l : List Byte),
    (∀ k : Nat, Memory.byte (Memory.writeBytes m a l) k = if h : a ≤ k ∧ k - a < l.length then l[k - a] else Memory.byte m k) ∧
    (Memory.wf m = true → Memory.wf (Memory.writeBytes m a l) = true)) ∧
  (∀ (old : Line) (off : Nat) (b : List Byte), off + b.length ≤ 64 → ∀ k : Nat, k < 64 →
    Line.slice (Line.merge old (lineAt off b).1 (lineAt off b).2) k 1 =
      if h : off ≤ k ∧ k - off < b.length then [b[k - off]] else Line.slice old k 1)

/-! ### Decimal instructions -/

/-- A decimal instruction writes rd, or its pair with W = 1, and p[pd], and nothing else; one whose operand is invalid raises vector 6
with the CODE of the first invalid nibble in place of it (R75 to R81). A microcoded one does the same whatever patch its core runs,
once its routine has come to END (R123, R128). A value that fits is stored so that it reads back, its nibbles valid and its sign 0xC or,
for a negative value alone, 0xD; a value that does not fit keeps its low digits and is reported (R76, R77). Completes: DADD, DSUB, DADJ,
DCMP, DMUL, DDIV, DCVB, DCVD. -/
def Obligations.DecimalResults : Prop :=
  (∀ (i : Instr) (x : Ctx) (o : OpsD) (s : State) (e : Dev) (t : Trans), Executes s x i e t →
    (∀ (bits : Nat) (p : Bool), decimalOf i (e.arch x.core.val) = some (x, o, .ok bits p) →
      (microOp i = none ∨ ((e.core x.core.val).patch = [] ∧ (e.core x.core.val).routine = none) →
        RegistersBecome s x i e t fun a => (a.setDec o.rd o.w bits).setP o.pd p) ∧
      (∀ (m : MicroOp) (e2 : Dev), microOp i = some m → e.runRoutine x.core.val m none = (e2, .done) →
        ¬ ((e.core x.core.val).patch = [] ∧ (e.core x.core.val).routine = none) → e2.arch x.core.val = e.arch x.core.val →
        Does i s ((e2.withArch x.core.val (((e.arch x.core.val).setDec o.rd o.w bits).setP o.pd p)).retire x.core.val t.pa (s.pc x + 4)))) ∧
    (∀ code : Nat, decimalOf i (e.arch x.core.val) = some (x, o, .fault code) →
      Does i s (e.raise x.core.val ⟨6, code, 0, s.pc x, i.encode.getD 0⟩))) ∧
  (∀ (v : Int) (w : Bool),
    decPack v (nibbles w) < 16 ^ nibbles w ∧ decCheck (decPack v (nibbles w)) (nibbles w) 1 = none ∧
    (decOverflow v (nibbles w) = false → decValue (decPack v (nibbles w)) (nibbles w) = v) ∧
    (decOverflow v (nibbles w) = true → v.natAbs ≥ 10 ^ (nibbles w - 1) ∧
      decMag (decPack v (nibbles w)) (nibbles w) = v.natAbs % 10 ^ (nibbles w - 1)) ∧
    (nib (decPack v (nibbles w)) 0 = 0xC ∨ (nib (decPack v (nibbles w)) 0 = 0xD ∧ v < 0)))

/-! ### Calls, traps and returns -/

/-- SYSCALL is vector 7 and HVCALL, at S and above, vector 8, CODE the constant, with the address of the next instruction as the saved
pc. In a stitch, the call is counted and ends the stitch (R45, R82, R206). Where the frame can be written at once the core stands in the handler
afterwards, with the frame below FSP_t and no other register of any core changed. Completes: SYSCALL, HVCALL. -/
def Obligations.Calls : Prop :=
  (∀ (x : Ctx) (k : BitVec 10) (s : State) (e : Dev) (t : Trans),
    (Executes s x (.syscall x k) e t →
      (e.stitching x.core.val = none → Does (.syscall x k) s
        (e.trapEntry x.core.val ⟨7, k.toNat, 0, s.pc x + 4, (Instr.syscall x k).encode.getD 0⟩ none)) ∧
      (∀ m, e.stitching x.core.val = some m → Completes (.syscall x k) s
        ((e.retire x.core.val t.pa (s.pc x + 4)).endTrap x.core.val .call ⟨7, k.toNat, 0, s.pc x + 4, (Instr.syscall x k).encode.getD 0⟩))) ∧
    (Executes s x (.hvcall x k) e t → Level.le .s (s.dev.arch x.core.val).pl = true →
      (e.stitching x.core.val = none → Does (.hvcall x k) s
        (e.trapEntry x.core.val ⟨8, k.toNat, 0, s.pc x + 4, (Instr.hvcall x k).encode.getD 0⟩ none)) ∧
      (∀ m, e.stitching x.core.val = some m → Completes (.hvcall x k) s
        ((e.retire x.core.val t.pa (s.pc x + 4)).endTrap x.core.val .call ⟨8, k.toNat, 0, s.pc x + 4, (Instr.hvcall x k).encode.getD 0⟩)))) ∧
  (∀ (i : Instr) (x : Ctx) (k : BitVec 10) (v : Nat) (s : State) (e : Dev) (t : Trans) (l : L2Line),
    (i = .syscall x k ∧ v = 7) ∨ (i = .hvcall x k ∧ v = 8 ∧ Level.le .s (s.dev.arch x.core.val).pl = true) → Executes s x i e t →
    e.FrameReady x.core.val ((e.arch x.core.val).route v) l →
    Leaves i s fun d => e.Entered d x.core.val ((e.arch x.core.val).route v) ⟨v, k.toNat, 0, s.pc x + 4, i.encode.getD 0⟩)

/-- Entering a handler at level t: pc is VBAR_t + vector × 0x40, the level is t, IE is 0, FSP_t is 320 bytes lower, and every other
register of the core stands; no other core's registers change (R43, R45). -/
def Obligations.TrapEntry : Prop :=
  ∀ (d : Dev) (c : Nat) (t : Level) (q : TrapReq) (r : Option Routine) (e : Dev), t ≠ .u → d.enter c t q r = (e, false) →
    e.arch c = { ((d.arch c).setFsp t ((d.arch c).fsp t - 0x140)) with
      pl := t, ie := false, pc := (d.arch c).vbar t + BitVec.ofNat 64 (q.vector * 0x40) } ∧
    ∀ k, k ≠ c → e.arch k = d.arch k

/-- Where a trap is taken: M where TDELEG_M has 0 at its vector, else H where TDELEG_H has 0 and S where it has 1, but never below the
level at which it is raised; interrupts alone may be routed below that level, and then they wait. One is accepted from a lower level,
and at its own level where IE is 1 (R39, R40). -/
def Obligations.Routing : Prop :=
  ∀ (a : Arch) (v : Nat),
    (bitF a.tdelegM v = false → a.delegated v = .m) ∧
    (bitF a.tdelegM v = true → bitF a.tdelegH v = false → a.delegated v = .h) ∧
    (bitF a.tdelegM v = true → bitF a.tdelegH v = true → a.delegated v = .s) ∧
    (v ≠ 0x10 → v ≠ 0x11 → a.route v = if Level.lt (a.delegated v) a.pl then a.pl else a.delegated v) ∧
    (v = 0x10 ∨ v = 0x11 → a.route v = a.delegated v) ∧
    (a.accepts v = true ↔ (Level.lt a.pl (a.route v) = true ∨ (a.route v = a.pl ∧ a.ie = true)))

/-- A RETI whose frame reads well goes to the pc of the frame with STATUS, p1 to p7 and the frame stack restored, and its pc is then aligned
and its level no higher (R45 to R47). From a frame without micro-state whose line of DRAM the core's L2 holds, with no store waiting, whose pc is
aligned and whose STATUS names no higher level, a core outside every panel returns: no other register of any core changes, nor memory.
Completes: RETI. -/
def Obligations.Returns : Prop :=
  (∀ (x : Ctx) (s : State) (e : Dev) (t : Trans) (pc : Word) (r : Option Routine), Executes s x (.reti x) e t →
    Level.le .s (s.dev.arch x.core.val).pl = true → (e.reti x.core.val).2 = .left pc r →
    Does (.reti x) s ((((e.reti x.core.val).1.retire x.core.val t.pa pc).modCore x.core.val fun k => { k with routine := r }).afterReti x.core.val)) ∧
  (∀ (d : Dev) (c : Nat) (pc : Word) (r : Option Routine), (d.reti c).2 = .left pc r →
    ∃ (d1 d2 : Dev) (b : List Byte), frameRead c d ((d.arch c).fsp (d.arch c).pl).toNat 64 = (d1, some b) ∧
      pc = BitVec.ofNat 64 (leNat (b.take 8)) ∧ pc.toNat % 4 = 0 ∧
      Level.lt (d.arch c).pl (Level.dec (leNat ((b.drop 8).take 8) % 2 ^ 64 % 4)) = false ∧
      (d.reti c).1 = d2.modArch c (fun a => (((a.setStatus (BitVec.ofNat 64 (leNat ((b.drop 8).take 8)))).setPred
        (BitVec.ofNat 64 (leNat ((b.drop 40).take 8)))).setFsp (d.arch c).pl ((d.arch c).fsp (d.arch c).pl + 0x140)))) ∧
  (∀ (x : Ctx) (s : State) (e : Dev) (t : Trans) (l : L2Line) (ch n : Nat), Executes s x (.reti x) e t →
    let c := x.core.val
    let a := e.arch c
    let f := a.fsp a.pl
    let word := fun (i : Nat) => BitVec.ofNat 64 (leNat (Line.slice l.data (8 * i) 8))
    Level.le .s (s.dev.arch c).pl = true → (s.dev.arch c).pl = a.pl → (e.core c).member = none → (e.core c).storeBuf = [] →
    f.toNat % 64 = 0 → e.frameOk f.toNat = true → e.place f.toNat = .dram ch n → (e.core c).l2Line (f.toNat / 64) = some l → l.poison = false →
    Level.lt a.pl (Level.dec ((word 1).toNat % 4)) = false → (word 0).toNat % 4 = 0 → bitF (word 2) 63 = false →
    Leaves (.reti x) s fun d => d.arch c =
        { (((a.setStatus (word 1)).setPred (word 5)).setFsp a.pl (f + 0x140)) with pc := word 0 } ∧
      (∀ k, k ≠ c → d.core k = e.core k) ∧ d.mem = e.mem ∧ d.csr = e.csr)

/-! ### Waits, fences, prediction, control registers -/

/-- WFE waits for an event: with no interrupt pending and a time, if any, still to come, the core stops issuing; with an event that has
come, or in a member inside its panel (log entry 101), it has no effect (R83). A wait ends when an interrupt is pending or its time has
come, and the core issues again (R83). Completes: WFE, WFE_WAKE. -/
def Obligations.Waits : Prop :=
  (∀ (x : Ctx) (ra : RegNo) (s : State) (e : Dev) (t : Trans), Executes s x (.wfe x ra) e t →
    let u : Option Word := if ra = 0 then none else some ((e.arch x.core.val).getG ra)
    ((e.core x.core.val).isMember = true ∨ e.anyInterrupt x.core.val = true ∨ (∃ v, u = some v ∧ v.toNat ≤ e.time.toNat) →
      Completes (.wfe x ra) s (e.retire x.core.val t.pa (s.pc x + 4))) ∧
    ((e.core x.core.val).isMember = false → e.anyInterrupt x.core.val = false → (∀ v, u = some v → e.time.toNat < v.toNat) →
      (e.dom x.core.val).latest = none →
      Completes (.wfe x ra) s ((e.modCore x.core.val fun k => { k with run := .waiting u }).retire x.core.val t.pa (s.pc x + 4)))) ∧
  (∀ (c : CoreId) (why : WakeReason) (s : State) (u : Option Word), (s.dev.core c.val).run = .waiting u → s.dev.power c.val ≠ 1 →
    (why = .interrupt → s.dev.anyInterrupt c.val = true) → (why = .time → ∃ t, u = some t ∧ t.toNat ≤ s.dev.time.toNat) →
    Becomes (.wfeWake c why) s (s.dev.modCore c.val fun k => { k with run := .running }))

/-- FENCE, FENCE.IO and SBAR perform every store of the core's store buffer, which is empty afterwards, and change no register; STBND ends the
member's stitch and outside one has no effect; PBAR forgets the core's branch history and return stack; PFLUSH does so too and drops the
predictor entries that it selects (R57, R85 to R87, R97). With an empty store buffer a fence has no other effect than to retire. Completes: FENCE,
FENCE_IO, SBAR, STBND, PBAR, PFLUSH. -/
def Obligations.Barriers : Prop :=
  (∀ (i : Instr) (x : Ctx) (s : State) (e : Dev) (t : Trans), i = .fence x ∨ i = .fenceIo x ∨ i = .sbar x → Executes s x i e t →
    Does i s ((e.drainStores x.core.val).retire x.core.val t.pa (s.pc x + 4)) ∧
    ((e.core x.core.val).storeBuf = [] → ∃ d : Dev, e.OnlyCore d x.core.val (e.core x.core.val) ∧ Completes i s (d.retire x.core.val t.pa (s.pc x + 4)))) ∧
  (∀ (x : Ctx) (s : State) (e : Dev) (t : Trans), Executes s x (.stbnd x) e t →
    (e.stitching x.core.val = none → (∀ m, (e.core x.core.val).member = some m → m.phase ≠ .ended) → ∃ d : Dev, e.OnlyCore d x.core.val { e.core x.core.val with
      arch := { e.arch x.core.val with pc := s.pc x + 4 }, routine := none, replays := 0 } ∧ Completes (.stbnd x) s d) ∧
    (∀ m, e.stitching x.core.val = some m →
      Leaves (.stbnd x) s fun d => ∃ n, (d.core x.core.val).member = some n ∧ n.phase = .ended ∧ n.cause = .stbnd ∧ n.count = m.count + 1)) ∧
  (∀ (x : Ctx) (s : State) (e : Dev) (t : Trans), Executes s x (.pbar x) e t → Completes (.pbar x) s
    ((e.modCore x.core.val fun k => { k with history := [], retStack := [] }).retire x.core.val t.pa (s.pc x + 4))) ∧
  (∀ (x : Ctx) (ra : RegNo) (k : BitVec 10) (s : State) (e : Dev) (t : Trans), Executes s x (.pflush x ra k) e t →
    ∃ keep : List PredEntry, Completes (.pflush x ra k) s ((e.modCore x.core.val fun q => { q with pred := keep, history := [], retStack := [] }).retire
      x.core.val t.pa (s.pc x + 4)) ∧
      ∀ p, p ∈ keep ↔ p ∈ (e.core x.core.val).pred ∧ ¬ (predSelected k.toNat p.table = true ∧
        (if Level.le .h (e.arch x.core.val).pl then ra = 0 ∨ p.tenant = ((e.arch x.core.val).getG ra).truncate 16
         else p.tenant = e.fetchTenant x.core.val ∧ Level.le p.level (e.arch x.core.val).pl = true))) ∧
  (∀ (d : Dev) (c : Nat), ((d.drainStores c).core c).storeBuf = [] ∧ (d.drainStores c).arch c = d.arch c)

/-- MFC leaves ra as the control register's value, except that TIME in a stitch is read in the boundary step; MTC writes the control
register; a core below the register's level raises vector 1 (R34 to R36, R97, R206). What a control register holds after it is written:
the vector bases 2 KiB aligned, the frame stacks 64-byte aligned, the delegation masks without reserved vectors, the scratch registers
whole, PRIMASK and VPRI their low byte; ISA, core number, TIME and the other read-only registers are left (R35, R374).
Completes: MFC, MTC. -/
def Obligations.ControlRegisters : Prop :=
  (∀ (x : Ctx) (ra : RegNo) (k : BitVec 10) (s : State) (e : Dev) (t : Trans),
    (Executes s x (.mfc x ra k) e t →
      (crAllowed (s.dev.arch x.core.val) k.toNat false = true → (k ≠ 3 ∨ e.stitching x.core.val = none) →
        RegistersBecome s x (.mfc x ra k) e t fun a => a.setG ra (e.crRead x.core.val k.toNat)) ∧
      (crAllowed (s.dev.arch x.core.val) 3 false = true → k = 3 → (e.stitching x.core.val).isSome = true → Leaves (.mfc x ra k) s fun d =>
        ((d.core x.core.val).member.map fun m => (m.phase, m.cause, m.access)) = some (.ended, .access, .time ra)) ∧
      (crAllowed (s.dev.arch x.core.val) k.toNat false = false →
        Does (.mfc x ra k) s (e.raise x.core.val ⟨1, 0, 0, s.pc x, (Instr.mfc x ra k).encode.getD 0⟩))) ∧
    (Executes s x (.mtc x ra k) e t →
      (crAllowed (s.dev.arch x.core.val) k.toNat true = true → Does (.mtc x ra k) s
        ((e.crWrite x.core.val k.toNat ((e.arch x.core.val).getG ra)).retire x.core.val t.pa (s.pc x + 4))) ∧
      (crAllowed (s.dev.arch x.core.val) k.toNat true = true → (k ≠ 0x1C1 ∨ (e.stitching x.core.val).isSome = true) → Completes (.mtc x ra k) s
        ((e.crWrite x.core.val k.toNat ((e.arch x.core.val).getG ra)).retire x.core.val t.pa (s.pc x + 4))) ∧
      (crAllowed (s.dev.arch x.core.val) k.toNat true = false →
        Does (.mtc x ra k) s (e.raise x.core.val ⟨1, 0, 0, s.pc x, (Instr.mtc x ra k).encode.getD 0⟩)))) ∧
  (∀ (d : Dev) (c : Nat) (v : Word),
    (∀ k ∈ [0x008, 0x009, 0x00A], (d.crWrite c k v).crRead c k = v &&& ~~~ 0x7FF) ∧
    (∀ k ∈ [0x00C, 0x00D, 0x00E], (d.crWrite c k v).crRead c k = v &&& ~~~ 0x3F) ∧
    (∀ k ∈ [0x010, 0x011], (d.crWrite c k v).crRead c k = v &&& 0x307FF) ∧
    (∀ k ∈ [0x014, 0x015, 0x016], (d.crWrite c k v).crRead c k = v) ∧
    (∀ k ∈ [0x1C0, 0x1C3], (d.crWrite c k v).crRead c k = v &&& 0xFF) ∧
    (∀ k ∈ [0x000, 0x001, 0x003, 0x018, 0x080, 0x082, 0x083, 0x180, 0x1C4], d.crWrite c k v = d))

/-! ### Memory operations and panels -/

/-- A TINV at S without STRAP, or above, by a core with no store waiting, removes what it names from its own core's translation structures, and is
sent to every other target under the next serial number unless the core is isolated; nothing else differs before it retires (R88 to R91). At S the
tenant is the current one, and scope All acts as Tenant (R89). TSYNC waits while a target has not acknowledged, and then leaves ra as 1 if one was
dropped and as 0 if none was, with no broadcast outstanding (R91). Completes: TINV_PAGE, TINV_RANGE, TINV_SEGMENT, TINV_TENANT, TINV_ALL with no
store waiting, and TSYNC with every target's answer in. -/
def Obligations.TranslationInvalidation : Prop :=
  (∀ (i : Instr) (x : Ctx) (ra : RegNo) (sc : TinvScope) (s : State) (e : Dev) (t : Trans), tinvOf i = some (x, ra, sc) →
    Executes s x i e t → Level.le .s (s.dev.arch x.core.val).pl = true →
    ¬ ((s.dev.arch x.core.val).strap = true ∧ (s.dev.arch x.core.val).pl = .s) → e.stitching x.core.val = none →
    (e.core x.core.val).storeBuf = [] →
    let k := e.core x.core.val
    let a := e.arch x.core.val
    let atS := a.pl == .s
    let v : Tinv := {
      issuer := .core x.core, serial := k.serial, scope := if atS && sc == .all then .tenant else sc, operand := a.getG ra,
      tenant := if atS then e.fetchTenant x.core.val else (a.getG (ra + 1)).truncate 16, allSets := !atS }
    ∃ d : Dev, Completes i s (d.retire x.core.val t.pa (s.pc x + 4)) ∧ e.OnlyCore d x.core.val
      (if e.isolated x.core.val then k.applyTinv v
       else { k.applyTinv v with serial := k.serial + 1, tinvs := k.tinvs ++ [⟨k.serial, e.tinvTargets x.core.val, [], false⟩] })) ∧
  (∀ (x : Ctx) (ra : RegNo) (s : State) (e : Dev) (t : Trans), Executes s x (.tsync x ra) e t →
    Level.le .s (s.dev.arch x.core.val).pl = true → e.stitching x.core.val = none →
    ((∀ b ∈ (e.core x.core.val).tinvs, b.targets = []) → Completes (.tsync x ra) s ((e.modCore x.core.val fun k => { k with
      tinvs := [], arch := k.arch.setG ra (if (e.core x.core.val).tinvs.any (·.dropped) then 1 else 0) }).retire
        x.core.val t.pa (s.pc x + 4))) ∧
    ((∃ b ∈ (e.core x.core.val).tinvs, b.targets ≠ []) → Completes (.tsync x ra) s e))

/-- A range operation, by a core with no store waiting, over a length of at least one byte and at most 256 GiB starts in the background with
BUSY = 1 and changes no register but pc, while one in progress makes the instruction wait; a length of 0 completes at once, and a longer one ends with
ERR 3 (R92 to R94). Its completion clears BUSY; a prefetch at M, without translation, of lines of DRAM that the L2 holds without poison ends with ERR 0
and all its lines (R93, R94). Completes: CLEAN, FLUSH, DISCARD, PREFETCH with no store waiting and no operation in progress, and CRNG_COMPLETE
with one. -/
def Obligations.RangeOperations : Prop :=
  (∀ (i : Instr) (x : Ctx) (ra : RegNo) (op : RangeOp) (l : Level) (s : State) (e : Dev) (t : Trans), rangeOf i = some (x, ra, op, l) →
    Executes s x i e t → Level.le l (s.dev.arch x.core.val).pl = true → e.stitching x.core.val = none →
    let a := e.arch x.core.val
    let len := (a.getG (ra + 1)).toNat
    ((e.core x.core.val).crng ≠ none → Completes i s e) ∧
    ((e.core x.core.val).crng = none → (e.core x.core.val).storeBuf = [] →
      ∃ d : Dev, Completes i s (d.retire x.core.val t.pa (s.pc x + 4)) ∧ d.arch x.core.val = a ∧ d.mem = e.mem ∧
        (∀ k, k ≠ x.core.val → d.core k = e.core k) ∧
        (len ≠ 0 → len ≤ 2 ^ 38 → ∃ r : Crng, (d.core x.core.val).crng = some r ∧ r.op = op ∧ r.level = a.pl ∧ r.mxlate = a.mxlate ∧
          r.next = a.getG ra &&& ~~~ 63 ∧ r.stop = ((a.getG ra).toNat % 64 + len + 63) / 64 ∧
          d.reg (.coreRangeStatus x.core.val) = BitVec.ofNat 64 (2 ^ 63)) ∧
        (len = 0 → (d.core x.core.val).crng = none ∧ d.reg (.coreRangeStatus x.core.val) = 0) ∧
        (2 ^ 38 < len → (d.core x.core.val).crng = none ∧ d.reg (.coreRangeStatus x.core.val) = BitVec.ofNat 64 (3 * 2 ^ 56)))) ∧
  (∀ (c : CoreId) (s : State) (r : Crng), (s.dev.core c.val).crng = some r → s.dev.isOn c.val = true →
    (Does (.crngComplete c) s (s.dev.crngEnd c.val) ∧ ((s.dev.crngEnd c.val).core c.val).crng = none ∧
      getF ((s.dev.crngEnd c.val).reg (.coreRangeStatus c.val)) .CORE_RANGE_STATUS_BUSY = 0) ∧
    (r.op = .prefetch → r.level = .m → r.mxlate = false → r.poison = false → r.stop < 2 ^ 32 →
      (∀ n, n < r.stop → let ea := (r.next + BitVec.ofNat 64 (n * 64)).toNat
        ea < 2 ^ 52 ∧ deviceRange ea = false ∧ s.dev.frameOk ea = true ∧ (∃ ch m, s.dev.place ea = .dram ch m) ∧
        ∃ l, (s.dev.core c.val).l2Line (ea / 64) = some l ∧ l.poison = false) →
      Leaves (.crngComplete c) s fun e => (e.core c.val).crng = none ∧ e.reg (.coreRangeStatus c.val) = BitVec.ofNat 64 r.stop ∧
        e.arch c.val = s.dev.arch c.val ∧ e.mem = s.dev.mem ∧ ∀ k, k ≠ c.val → e.core k = s.dev.core k))

/-- ZMARK on a granule that may be written retires with the granule's lines zero: a controller whose granule is marked reads each of its
lines as zero, whatever was queued or stored for it (R95, R284, R286). At M, without translation and outside a stitch, on a granule of DRAM whose channel has
not failed and where no home makes it wait, it changes no register of its core but pc. Completes: ZMARK. -/
def Obligations.ZeroMarks : Prop :=
  (∀ (x : Ctx) (ra : RegNo) (s : State) (e : Dev) (t : Trans), Executes s x (.zmark x ra) e t → e.stitching x.core.val = none →
    (e.zmark x.core.val ra).2 = .next → Does (.zmark x ra) s ((e.zmark x.core.val ra).1.retire x.core.val t.pa (s.pc x + 4))) ∧
  (∀ (d d1 : Dev) (c : Nat) (ra : RegNo) (p : Part) (ps : List Part),
    d.resolve c .store 4096 true [(d.arch c).getG ra &&& ~~~ (0xFFF : Word)] = (d1, .inr (p :: ps)) →
    d.zmark c ra = ((d1.drainStores c).zmarkAt c p.pa p.key, .next)) ∧
  (∀ (x : Ctx) (ra : RegNo) (s : State) (e : Dev) (t : Trans) (ch n : Nat), Executes s x (.zmark x ra) e t → e.stitching x.core.val = none →
    let g := ((e.arch x.core.val).getG ra).toNat / 4096
    (e.arch x.core.val).pl = .m → (e.arch x.core.val).mxlate = false → ((e.arch x.core.val).getG ra).toNat < 2 ^ 52 →
    deviceRange (g * 4096) = false → e.place (g * 4096) = .dram ch n → e.chanFailed ch = false → (e.core x.core.val).storeBuf = [] →
    (e.zmark x.core.val ra).1.fabric.waits = e.fabric.waits →
    Leaves (.zmark x ra) s fun d => d.arch x.core.val = { e.arch x.core.val with pc := s.pc x + 4 } ∧
      (∀ ln, ln / 64 = g → d.readsZero ch ln = true) ∧ ∀ a, a / 4096 = g → Memory.byte d.mem a = 0) ∧
  (∀ (d : Dev) (ch g ln : Nat), ln / 64 = g → (d.mcZero ch g).readsZero ch ln = true) ∧
  (∀ (d : Dev) (ch g a : Nat), Memory.byte (d.mcZero ch g).mem a = if a / 4096 = g then 0 else Memory.byte d.mem a)

/-- LTIME leaves ra as the member's point in logical time, and all ones outside a panel (for a suspended member, log entry 101); PSETUP and
PDISSOLVE, at H and above and outside a stitch, leave ra as their status: PSETUP of a misaligned request 2, of one that reads well the status
of R202, 0 with the slot above it, PDISSOLVE of a free slot 7 and of a running panel 0, the panel then dissolving (R96, R97, R201, R202, R204). A request
in lines of DRAM that the L2 holds without poison, with no store waiting, is read well; one that passes leaves its slot FORMING with its members, one
that does not changes no register but ra and pc (R202, R203).
Completes: LTIME, PSETUP, PDISSOLVE. -/
def Obligations.PanelRequests : Prop :=
  ∀ (x : Ctx) (ra : RegNo) (s : State) (e : Dev) (t : Trans),
    (Executes s x (.ltime x ra) e t → RegistersBecome s x (.ltime x ra) e t fun a => a.setG ra (e.ltime x.core.val)) ∧
    (e.inPanel x.core.val = none → e.ltime x.core.val = BitVec.allOnes 64) ∧
    (Executes s x (.psetup x ra) e t → Level.le .h (s.dev.arch x.core.val).pl = true → e.stitching x.core.val = none →
      let pa := ((e.arch x.core.val).getG ra).toNat
      let got := e.readNormal x.core.val 0 8 pa 0x180 0
      let r := parseRequest got.2.1
      let st := got.1.panelStatus r
      let d := if st.1 = 0 then got.1.setUp r st.2 else got.1
      (pa % 64 ≠ 0 → RegistersBecome s x (.psetup x ra) e t fun a => a.setG ra 2) ∧
      (pa % 64 = 0 → e.normalAt pa = true → e.normalAt (pa + 0x17F) = true → got.2.2 = none → d.fabric.waits = s.dev.fabric.waits →
        Completes (.psetup x ra) s ((d.modArch x.core.val fun a => a.setG ra (BitVec.ofNat 64 (if st.1 = 0 then st.2 * 256 else st.1))).retire
          x.core.val t.pa (s.pc x + 4))) ∧
      (∀ l : Nat → L2Line, pa % 64 = 0 → e.normalAt pa = true → e.normalAt (pa + 0x17F) = true → (e.core x.core.val).storeBuf = [] →
        (∀ i, i < 6 → (∃ ch n, e.place (pa + 64 * i) = .dram ch n) ∧ (e.core x.core.val).l2Line (pa / 64 + i) = some (l i) ∧ (l i).poison = false) →
        let r := parseRequest ((List.range 6).flatMap fun i => Line.slice (l i).data 0 64)
        let st := e.panelStatus r
        Leaves (.psetup x ra) s fun d =>
          d.arch x.core.val = { (e.arch x.core.val).setG ra (BitVec.ofNat 64 (if st.1 = 0 then st.2 * 256 else st.1)) with pc := s.pc x + 4 } ∧
          (st.1 ≠ 0 → d.csr = e.csr ∧ d.panels = e.panels) ∧
          (st.1 = 0 → d.slotState st.2 = 1 ∧ d.fld (.pnlSlot st.2) .PNL_SLOT_NMEMB = r.nmemb ∧ (d.panel st.2).members = r.members))) ∧
    (Executes s x (.pdissolve x ra) e t → Level.le .h (s.dev.arch x.core.val).pl = true → e.stitching x.core.val = none →
      let n := ((e.arch x.core.val).getG ra).toNat % 16
      (e.slotState n = 0 → RegistersBecome s x (.pdissolve x ra) e t fun a => a.setG ra 7) ∧
      (e.slotState n = 2 → Completes (.pdissolve x ra) s (((e.setFld (.pnlSlot n) .PNL_SLOT_STATE 3).modArch x.core.val fun a => a.setG ra 0).retire
        x.core.val t.pa (s.pc x + 4))))

/-! ### Vector instructions -/

/-- An integer vector instruction or compare leaves element i of vd as its function of elements i of vs1 and vs2, modulo the width and
for signed ones in two's complement, a comparison as all ones or zeros; nothing else changes (R100). A permute leaves element i of vd as
the element that it selects (R100). Completes: VADD, VSUB, VMUL, VMULH, VMIN, VMAX, VMINU, VMAXU, VAND, VOR, VXOR, VSLL,
VSRL, VSRA, VADDS, VSUBS, VCEQ, VCNE, VCLT, VCLE, VCLTU, VCLEU, VPERM, VBCAST, VZIPLO, VZIPHI, VUNZIPE, VUNZIPO, VSEL. -/
def Obligations.VectorIntegers : Prop :=
  (∀ (i : Instr) (x : Ctx) (o : OpsV) (f : Nat → Nat → Nat → Nat) (s : State) (e : Dev) (t : Trans), vectorInteger i = some (x, o, f) →
    Executes s x i e t →
    ∃ v : Vec, RegistersBecome s x i e t (fun a => a.setV o.vd v) ∧ ∀ k, k < 256 / elemWidth o.et →
      elemOf v (elemWidth o.et) k =
        f (elemWidth o.et) (elemOf ((e.arch x.core.val).getV o.vs1) (elemWidth o.et) k) (elemOf ((e.arch x.core.val).getV o.vs2) (elemWidth o.et) k)) ∧
  (∀ (i : Instr) (x : Ctx) (vd : RegNo) (et : Elem) (f : Arch → Nat → Nat) (s : State) (e : Dev) (t : Trans), vectorMove i = some (x, vd, et, f) →
    Executes s x i e t →
    ∃ v : Vec, RegistersBecome s x i e t (fun a => a.setV vd v) ∧
      ∀ k, k < 256 / elemWidth et → elemOf v (elemWidth et) k = f (e.arch x.core.val) k % 2 ^ elemWidth et)

/-- A floating instruction leaves element i of vd as its rounded function of its sources' elements i, and adds to FPCSR the exceptions
that any element signals (R98 to R100). VCVT converts as many elements as the wider type has, clears the rest of vd, and adds the
exceptions signalled to FPCSR; between integers it is sign extension or the low bits (R101).
Completes: VFADD, VFSUB, VFMUL, VFDIV, VFSQRT, VFMIN, VFMAX, VFMA, VFNMA, VFABS, VFNEG, VCFEQ, VCFLT, VCFLE, VCFUN, VCVT. -/
def Obligations.VectorFloats : Prop :=
  (∀ (i : Instr) (x : Ctx) (vd : RegNo) (rs : List RegNo) (et : Elem) (f : Fmt → Rm → List Nat → Nat × Exc) (s : State) (e : Dev) (t : Trans),
    vectorFloat i = some (x, vd, rs, et, f) → Executes s x i e t →
    let w := elemWidth et
    let a := e.arch x.core.val
    let r := fun (k : Nat) => f (elemFmt et) a.rm (rs.map fun n => elemOf (a.getV n) w k)
    ∃ v : Vec, RegistersBecome s x i e t (fun b => (b.setV vd v).signal ((List.range (256 / w)).foldl (fun x k => x.or (r k).2) {})) ∧
      ∀ k, k < 256 / w → elemOf v w k = (r k).1 % 2 ^ w) ∧
  (∀ (x : Ctx) (vd vs1 : RegNo) (src dst : Elem) (s : State) (e : Dev) (t : Trans), Executes s x (.vcvt x vd vs1 src dst) e t →
    let a := e.arch x.core.val
    let n := min (lanes src) (lanes dst)
    let r := fun (k : Nat) => convElem src dst a.rm (elemOf (a.getV vs1) (elemWidth src) k)
    ∃ v : Vec, RegistersBecome s x (.vcvt x vd vs1 src dst) e t (fun b => (b.setV vd v).signal ((List.range n).foldl (fun y k => y.or (r k).2) {})) ∧
      (∀ k, k < n → elemOf v (elemWidth dst) k = (r k).1 % 2 ^ elemWidth dst) ∧
      (∀ k, n ≤ k → k < lanes dst → elemOf v (elemWidth dst) k = 0) ∧
      (src.isInt = true → dst.isInt = true → ∀ k, k < n →
        (sgn (elemWidth src) (elemOf (a.getV vs1) (elemWidth src) k) - (elemOf v (elemWidth dst) k : Int)) % 2 ^ elemWidth dst = 0))

/-! ### Events of one core -/

/-- An interrupt that R40 accepts is taken before the next instruction with its vector and code, the virtual one by its own event alike
(R40, R45, R372); where the frame can be written at once, the core stands in the handler afterwards. A load or an atomic to normal memory that misses
L2 and waits long enough puts its core into run-ahead: the registers are saved, its destination is invalid and pc goes on; when the data arrives, an
interrupt is accepted or the limit is reached, every register is as it was saved (R113, R115). Completes:
INTERRUPT, VIRTUAL_INTERRUPT, RUN_AHEAD_ENTRY, RUN_AHEAD_END. -/
def Obligations.CoreEvents : Prop :=
  (∀ (c : CoreId) (s : State) (v code : Nat), s.dev.interruptible c.val = true → s.dev.accepted c.val = some (v, code) →
    Does (.interrupt c) s (s.dev.takeInterrupt c.val v code) ∧
    (v = 0x11 → Does (.virtualInterrupt c) s (s.dev.takeInterrupt c.val 0x11 code)) ∧
    (v = 0x10 → code ≤ 255 → (s.dev.arch c.val).primask.toNat < code)) ∧
  (∀ (c : CoreId) (s : State) (code : Nat) (l : L2Line), s.dev.interruptible c.val = true → s.dev.accepted c.val = some (0x10, code) →
    s.dev.FrameReady c.val ((s.dev.arch c.val).route 0x10) l →
    Leaves (.interrupt c) s fun e => s.dev.Entered e c.val ((s.dev.arch c.val).route 0x10) ⟨0x10, code, 0, (s.dev.arch c.val).pc, 0⟩) ∧
  (∀ (c : CoreId) (s : State) (v : Nat) (l : L2Line), s.dev.interruptible c.val = true → (s.dev.arch c.val).accepts 0x11 = true →
    s.dev.vpPending c.val = some v → (s.dev.vpTake c.val v).fabric.waits = s.dev.fabric.waits → (s.dev.vpTake c.val v).arch c.val = s.dev.arch c.val →
    (s.dev.vpTake c.val v).FrameReady c.val ((s.dev.arch c.val).route 0x11) l →
    Leaves (.virtualInterrupt c) s fun e =>
      (s.dev.vpTake c.val v).Entered e c.val ((s.dev.arch c.val).route 0x11) ⟨0x11, v, 0, (s.dev.arch c.val).pc, 0⟩) ∧
  (∀ (c : CoreId) (line ns dst : Nat) (s : State), s.dev.canIssue c.val = true → (s.dev.core c.val).runAhead = none →
    (s.dev.core c.val).routine = none → bitF (s.dev.arch c.val).predCtl 2 = false → 15 * 50 ≤ ns → s.dev.missing c.val line = some dst →
    Leaves (.runAheadEntry c line ns) s fun e => s.dev.OnlyCore e c.val { s.dev.core c.val with
      runAhead := some ⟨s.dev.arch c.val, if dst = 0 ∨ dst = 32 then [] else [dst], 0⟩,
      arch := { s.dev.arch c.val with pc := (s.dev.arch c.val).pc + 4 } }) ∧
  (∀ (c : CoreId) (line ns : Nat) (s : State), s.dev.missing c.val line = none → Completes (.runAheadEntry c line ns) s s.dev) ∧
  (∀ (c : CoreId) (why : Sys2Proof.RunAheadEnd) (s : State) (r : Machine.RunAhead), (s.dev.core c.val).runAhead = some r →
    (why = .interrupt → ((s.dev.endAhead c.val).accepted c.val).isSome = true) → (why = .limit → 4096 ≤ r.count) →
    Leaves (.runAheadEnd c why) s fun e => s.dev.OnlyCore e c.val { s.dev.core c.val with runAhead := none, arch := r.saved })

/-- A failed check of a core is counted with its detector and drops an unfinished routine, and when the third replay in a row fails before its
oldest instruction retires that is a hard fault; registers stand (R116 to R118). What a hardware prefetch does changes no register, and outside the 4 KiB
page of the core's latest load does nothing; within it the stream prefetcher reads the line into L2 (R106). A debugger attaches only while OD 0x8020:00
is 1, and detaches (R472). Completes: TRANSIENT_REPLAY, HARDWARE_PREFETCH, DEBUG_ATTACHMENT. -/
def Obligations.CoreUpkeep : Prop :=
  (∀ (c : CoreId) (det : Detector) (s : State), s.dev.isOn c.val = true → (s.dev.core c.val).run ≠ .stopped →
    (s.dev.core c.val).hardFault = false →
    ((s.dev.core c.val).replays < 3 → Gives (.transientReplay c det) s fun e =>
      (e.core c.val).replays = (s.dev.core c.val).replays + 1 ∧ (e.core c.val).hardFault = false ∧ (e.core c.val).routine = none ∧
      e.arch c.val = s.dev.arch c.val ∧ (∀ k, k ≠ c.val → e.core k = s.dev.core k) ∧ e.mem = s.dev.mem ∧
      e.fld (.coreReplay c.val) .CORE_REPLAY_COUNT = min (s.dev.fld (.coreReplay c.val) .CORE_REPLAY_COUNT + 1)
        (2 ^ (Fld.CORE_REPLAY_COUNT).width - 1) ∧
      e.fld (.coreReplay c.val) .CORE_REPLAY_LASTSRC = detectorCode det) ∧
    (3 ≤ (s.dev.core c.val).replays → Gives (.transientReplay c det) s fun e =>
      s.dev.OnlyCore e c.val { s.dev.core c.val with hardFault := true, routine := none })) ∧
  (∀ (c : CoreId) (p : Prefetcher) (ea : Word) (s : State),
    (∃ e : Dev, Does (.hardwarePrefetch c p ea) s e ∧ ∀ k, e.arch k = s.dev.arch k) ∧
    ((∀ a, (s.dev.core c.val).lastLoad = some a → a.toNat / 4096 ≠ ea.toNat / 4096) → Completes (.hardwarePrefetch c p ea) s s.dev)) ∧
  (∀ (c : CoreId) (ea : Word) (s : State) (pa : Nat) (key : BitVec 11), s.dev.isOn c.val = true → (s.dev.core c.val).run = .running →
    s.dev.fld (.corePrefetch c.val) .CORE_PREFETCH_L2_LVL ≠ 0 → ((s.dev.core c.val).lastLoad.any fun a => a.toNat / 4096 == ea.toNat / 4096) = true →
    s.dev.xlateHeld c.val ea = some (pa, key) → deviceRange pa = false → inSpad pa = false →
    (s.dev.l2Read c.val (pa / 64) key).1.fabric.waits = s.dev.fabric.waits →
    Completes (.hardwarePrefetch c .stream ea) s (s.dev.l2Read c.val (pa / 64) key).1) ∧
  (∀ (c : CoreId) (s : State), Becomes (.debugAttachment c false) s (s.dev.modCore c.val fun k => { k with debug := false })) ∧
  (∀ (c : CoreId) (s : State), s.dev.od 0x8020 0 0 ≠ 1 → Becomes (.debugAttachment c true) s s.dev) ∧
  (∀ (c : CoreId) (s : State), s.dev.od 0x8020 0 0 = 1 → Gives (.debugAttachment c true) s fun e => (e.core c.val).debug = true)

/-- A hard fault stops its core; outside a panel, with registers clean and the self-test passed, the core goes on as it was, and with
the self-test failed its logical number goes to a spare core, which the transplant gives its state (R229, R230, R232). A member's stitch runs again from
its checkpoint, and the re-run is counted (R231). A replay or a transplant that no fault waits for changes nothing; the chief steward only reports a
degrading channel (R234). Completes: HARD_FAULT, STITCH_REPLAY, CORE_TRANSPLANT, SPARE_SUBSTITUTION. -/
def Obligations.HardFaults : Prop :=
  (∀ (c : CoreId) (f : FaultReport) (s : State), s.dev.isOn c.val = true → s.dev.lvalid c.val = true → (s.dev.core c.val).recovery = none →
    (s.dev.core c.val).member = none → f.regsClean = true → f.selfTestPass = true →
    Leaves (.hardFault c f) s fun e => (e.core c.val).hardFault = false ∧ (e.core c.val).runAhead = none ∧ (e.core c.val).routine = none ∧
      (e.core c.val).run = (if (s.dev.core c.val).run = .stopped then .running else (s.dev.core c.val).run) ∧
      e.arch c.val = (match (s.dev.core c.val).runAhead with
        | some r => r.saved
        | none => s.dev.arch c.val) ∧
      (∀ k, k ≠ c.val → e.core k = s.dev.core k) ∧ e.mem = s.dev.mem ∧ e.csr = s.dev.csr) ∧
  (∀ (c t : CoreId) (s : State), s.dev.recovering c.val = some (c.val, .stitchReplay t.val) →
    Does (.stitchReplay c) s (s.dev.replayOn c.val t.val)) ∧
  (∀ (c : CoreId) (s : State), (s.dev.core c.val).recovery = some (.stitchReplay c.val) →
    ((s.dev.core c.val).member = none → Leaves (.stitchReplay c) s fun e =>
      e.core c.val = { s.dev.core c.val with hardFault := false, recovery := none, run := .running } ∧
      (∀ k, k ≠ c.val → e.core k = s.dev.core k) ∧ e.mem = s.dev.mem ∧ e.csr = s.dev.csr) ∧
    (∀ m, (s.dev.core c.val).member = some m → m.phase = .running → m.first = none → m.firstIntr = [] → m.endAt = none → m.slot < 16 →
      (s.dev.core c.val).storeBuf = [] → Leaves (.stitchReplay c) s fun e =>
        e.arch c.val = m.saved ∧ (e.core c.val).run = .running ∧ (e.core c.val).hardFault = false ∧ (e.core c.val).recovery = none ∧
        (∃ n, (e.core c.val).member = some n ∧ n.phase = .running ∧ n.count = 0 ∧ n.overlay = [] ∧ n.saved = m.saved ∧ n.limit = m.limit) ∧
        e.fld (.pnlStat m.slot) .PNL_STAT_SREPLAY = min (s.dev.fld (.pnlStat m.slot) .PNL_STAT_SREPLAY + 1) (2 ^ (Fld.PNL_STAT_SREPLAY).width - 1) ∧
        (∀ k, k ≠ c.val → e.core k = s.dev.core k) ∧ e.mem = s.dev.mem)) ∧
  (∀ (c t : CoreId) (w : RunState) (s : State), s.dev.recovering c.val = some (c.val, .transplant t.val w) → c ≠ t →
    Leaves (.coreTransplant c) s fun e => e = (s.dev.moveCore c.val t.val w).recovered c.val t.val ∧
      e.arch t.val = (s.dev.endAhead c.val).arch c.val ∧ (e.core t.val).run = w ∧ e.mem = s.dev.mem) ∧
  (∀ (c : CoreId) (s : State), s.dev.recovering c.val = none →
    Completes (.stitchReplay c) s s.dev ∧ Completes (.coreTransplant c) s s.dev) ∧
  (∀ (n : Chan) (s : State), Completes (.spareSubstitution (.channel n)) s (s.dev.govLog 7 0x40 2 (domOfChan n.val) 0 0)) ∧
  (∀ (c : CoreId) (t : Nat) (s : State), s.dev.lvalid c.val = true → s.dev.isOn c.val = true → s.dev.coreDegrading c.val = true →
    s.dev.spareCore c.val = some t → s.dev.od 0x5200 0 0 = 0 →
    Does (.spareSubstitution (.core c)) s (s.dev.substituteNow c.val t))

/-! ### The fabric -/

/-- A request that reaches a home where it need not wait, its epoch current and no other holder to be asked, is completed unless its line has to wait
for memory: its answer is in the fabric; one for a line of this socket's DRAM that the home's last-level cache holds and no directory entry names is
completed with that data, and no register of a core changes. One of a stale epoch is discarded and counted (R164, R165, R182). A request for a line
that no one holds makes the requester its exclusive holder (R164). Completes: RDS, RDO, UPG, RDNA, IOW, WBD, EVC. -/
def Obligations.Homes : Prop :=
  (∀ (i : Instr) (o : Opc) (m : Msg) (s : State) (e : Dev), homeRequest i = some (o, m) → Delivered s o m e →
    let ln := lineOfMsg m
    let n := (e.home ln).1
    (e.stale n m = false → e.farSocket m = none → inSpad m.addr.toNat = false → e.homedAway ln = false → (e.slice n).waitq = [] →
      e.homeWaits n o m false = false → (e.snoopList n o m).1 = [] → (e.homeTake o m).fabric.waits = s.dev.fabric.waits →
      Leaves i s fun d => Answered d m.who m.txid) ∧
    (∀ (ch k : Nat) (v : LlcLine), m.addr.toNat % 64 = 0 → e.place m.addr.toNat = .dram ch k → e.stale n m = false → (e.slice n).waitq = [] →
      (e.slice n).dir = [] → e.homeWaits n o m false = false → (e.slice n).llcLine ln = some v →
      (o = .iow ∨ o = .wbd ∨ o = .evc → e.chanFailed ch = false ∧ e.mcFull ch ln = false) →
      Leaves i s fun d => Answered d m.who m.txid ∧ (∀ c, d.arch c = e.arch c) ∧
        (o ∈ [Opc.rds, .rdo, .upg, .rdna] → ∃ r : Msg, (.data, r) ∈ d.fabric.net ∧ r.who = m.who ∧ r.txid = m.txid ∧ r.data = v.data ∧
          r.poison = v.poison)) ∧
    (inSpad m.addr.toNat = false → e.farSocket m = none → e.stale n m = true → Completes i s (e.countFld (.dirStat n) .DIR_STAT_STALE 1))) ∧
  (∀ (d : Dev) (n set ln : Nat) (who : Agent) (key : BitVec 11) (v : LlcLine), (d.slice n).dirEntry ln = none →
    (d.slice n).llcLine ln = some v → d.unreachable ln = false → d.homedAway ln = false →
    (d.homeFinish n set .rds who ln key 0 0 false SnoopAns.none).2 = ⟨⟨v.data, v.poison, false⟩, some .exclusive⟩ ∧
    (d.homeFinish n set .rdo who ln key 0 0 false SnoopAns.none).2 = ⟨⟨v.data, v.poison, false⟩, some .modified⟩ ∧
    (∃ x, ((d.homeFinish n set .rds who ln key 0 0 false SnoopAns.none).1.slice n).dirEntry ln = some x ∧ x.excl = true ∧
      (∀ c : CoreId, who = .core c → x.tiles = [c.val / 2])))

/-- A snoop that reaches a live core's tile that is in no low-power state, with no request in the fabric waiting for an answer, is answered; after SnpInv
and BackInv neither core of the tile holds the line (R163, R167). SetFlush over a route with no isolated port leaves none of the set's lines in the tile,
and no entry of the set that names it, unless one of the lines has to wait for memory; with no line of it there it completes (R168).
Completes: SNP, SNPINV, BACKINV, SETFLUSH. -/
def Obligations.Snoops : Prop :=
  (∀ (i : Instr) (o : Opc) (m : Msg) (s : State) (e : Dev) (c : CoreId), snoopOf i = some (o, m) → Delivered s o m e → m.who = .core c →
    e.fabric.txns = [] → e.deadHolder (.core c) = false → (∀ k, k / 2 = c.val / 2 → e.power k ≠ 1) →
    Leaves i s fun d => (∃ (p : Opc) (r : Msg), (p, r) ∈ d.fabric.net ∧ (p = .ack ∨ p = .nocopy ∨ p = .snpdata) ∧ r.txid = m.txid ∧ r.who = m.who) ∧
      (o ≠ .snp → ∀ k, k / 2 = c.val / 2 → (d.core k).l2Line (lineOfMsg m) = none) ∧ (∀ k, d.arch k = e.arch k) ∧ d.mem = e.mem) ∧
  (∀ (n : SliceId) (set : Fin 3072) (c : CoreId) (s : State), s.dev.fabric.ports = [] →
    (s.dev.setFlushAt n.val set.val (.core c)).fabric.waits = s.dev.fabric.waits ∨
      ((s.dev.slice n.val).dir = [] ∧ ∀ k, k / 2 = c.val / 2 → (s.dev.core k).l2 = []) →
    Leaves (.setflush n set (.core c)) s fun d =>
      (∀ x ∈ (d.slice n.val).dir, x.set = set.val → c.val / 2 ∉ x.tiles) ∧
      ∀ k, k / 2 = c.val / 2 → ∀ x ∈ (d.core k).l2, s.dev.home x.line ≠ (n.val, set.val))

/-- The last answer that a request in progress waits for completes it, unless an owner without a copy has sent its write-back or the line has to wait
for memory, and the answer to the request is in the fabric; an acknowledgement that no request waits for is counted late (R164, R251). A response
ends the transaction that it answers: data requested for ownership is in the core's L2 as modified, a grant makes the copy modified, a completion
reports success and an error response an error. One that answers no transaction is counted late, as is a
flit that comes late; a transaction that times out ends with an error (R164, R251, R447). Completes: ACK, NOCOPY, COPYLOST, SNPDATA, GRANT,
DATA, CMP, ERR, LATE_FLIT, END_TO_END_TIMEOUT. -/
def Obligations.Answers : Prop :=
  (∀ (i : Instr) (o : Opc) (m : Msg) (f : Dev → Dev) (s : State) (e : Dev), holderAnswer i = some (o, m, f) → Delivered s o m e →
    e.stale (e.home (lineOfMsg m)).1 m = false →
    (∀ (n : Nat) (t : HomeTxn), e.txnFor (lineOfMsg m) m.who = some (n, t) → (∀ a ∈ t.acks, sameTile m.who a = true) → t.waitWb = false →
      (e.slice n).waitq = [] → e.homedAway (lineOfMsg m) = false →
      (o = .nocopy → t.owner.any (sameTile m.who) = false ∨ e.writeBackComing (lineOfMsg m) = false) →
      (f e).fabric.waits = s.dev.fabric.waits ∨ (t.opc = .rdna ∧ (e.slice n).dir = [] ∧ ((e.slice n).llcLine (lineOfMsg m)).isSome = true) →
      Leaves i s fun d => Answered d t.req.who t.req.txid) ∧
    (o ≠ .snpdata → e.txnFor (lineOfMsg m) m.who = none → Completes i s (e.countFld (.fabStat m.dst.quad.val) .FAB_STAT_LATE 1))) ∧
  (∀ (i : Instr) (o : Opc) (m : Msg) (s : State) (e : Dev), responseOf i = some (o, m) → Delivered s o m e →
    (∀ t : OutTxn, (e.fabric.txns.find? fun x => x.who == m.who && x.txid == m.txid) = some t → t.timed = false → t.keep = false → t.held = [] →
      (∀ k, m.who ≠ .socket k) → e.homedAway (lineOfMsg m) = false →
      (∀ c : CoreId, m.who = .core c → ((e.core c.val).l2.filter fun x => x.line != lineOfMsg m && x.line % 2048 == lineOfMsg m % 2048).length < 8) →
      Leaves i s fun d => t ∉ d.fabric.txns ∧ d.mem = e.mem ∧ (∀ c, d.arch c = e.arch c) ∧
        (o = .cmp → d.outErr = false ∧ d.outWord = 0) ∧ (o = .err → d.outErr = true) ∧
        (∀ c : CoreId, o = .grant → m.who = .core c → ∀ x ∈ (d.core c.val).l2, x.line = lineOfMsg m → x.st = .modified) ∧
        (∀ c : CoreId, o = .data → m.who = .core c → t.opc = .rdo → (d.core c.val).l2Line (lineOfMsg m) =
          some { line := lineOfMsg m, st := .modified, data := m.data, poison := m.poison, key := m.key })) ∧
    ((e.fabric.txns.find? fun x => x.who == m.who && x.txid == m.txid) = none →
      Completes i s (e.countFld (.fabStat m.dst.quad.val) .FAB_STAT_LATE 1))) ∧
  (∀ (q : Quad) (s : State), Becomes (.lateFlit q) s (s.dev.countFld (.fabStat q.val) .FAB_STAT_LATE 1)) ∧
  (∀ (a : Agent) (txid : Half) (s : State) (t : OutTxn),
    (s.dev.fabric.txns.find? fun x => x.who == a && x.txid == txid && !x.timed) = some t → t.keep = false → t.held = [] → (∀ k, a ≠ .socket k) →
    Leaves (.endToEndTimeout a txid) s fun d => d.outErr = true ∧ d.outWord = BitVec.allOnes 64 ∧ d.mem = s.dev.mem ∧
      (∀ c, d.core c = s.dev.core c) ∧ { t with timed := true, began := s.dev.time, held := [] } ∈ d.fabric.txns)

/-- Register reads and writes: a packet that reaches the block it addresses is answered with the register's value or a completion, a
command gives the same by its result; a message write fires its identifier, is counted where no route is in use, and a malformed one is counted; a
device access is answered, or leaves by its port (R5, R8, R27, R304, R362). Completes: CSRRD, CSRWR and REGISTER_WRITE of registers that a write only
stores, DEVRD, DEVWR, MSG, EVC_MSGDB, REGISTER_READ_CLEAR. -/
def Obligations.RegisterAccess : Prop :=
  (∀ (m : Msg) (s : State) (e d : Dev) (v : Word) (o : Nat), Delivered s .csrrd m e → e.place m.addr.toNat = .control e.socket o →
    e.stale (e.epochSlice m) m = false → e.csrRead o (byteSpan m) = (d, some v) → Completes (.csrrd m) s (d.send .data { backOf m with sdata := v })) ∧
  (∀ (m : Msg) (s : State) (e d : Dev) (o : Nat), Delivered s .csrwr m e → e.place m.addr.toNat = .control e.socket o →
    e.stale (e.epochSlice m) m = false → e.csrWrite o (byteSpan m) m.sdata = (d, false) → Does (.csrwr m) s (d.send .cmp (backOf m))) ∧
  (∀ (m : Msg) (s : State) (e : Dev) (o : Nat) (r : Reg), Delivered s .csrwr m e → e.place m.addr.toNat = .control e.socket o →
    e.stale (e.epochSlice m) m = false → o ≠ 0x6100000 → csrAligned o (byteSpan m) = true → inFlash o = false → Reg.ofOffset (o - o % 8) = some r →
    e.listed r = true → e.dark r = false → e.absent r = false → (∀ x v w, Dev.csrEffect x r v w = x.putFields r v w) →
    Completes (.csrwr m) s (((e.wakeFor r).putFields r (laneIn o (byteSpan m) m.sdata) (reachMask o (byteSpan m))).send .cmp (backOf m))) ∧
  (∀ (o : BitVec 40) (n : Nat) (s : State) (d : Dev) (v : Word), s.dev.csrRead o.toNat n = (d, some v) →
    Becomes (.registerReadClear o n) s { d with outWord := v, outErr := false }) ∧
  (∀ (o : BitVec 40) (n : Nat) (s : State), csrAligned o.toNat n = false →
    Becomes (.registerReadClear o n) s { s.dev with outWord := 0, outErr := true } ∧
    (o.toNat ≠ 0x6100000 → ∀ v, Completes (.registerWrite o n v) s { s.dev with outWord := 0, outErr := true })) ∧
  (∀ (o : BitVec 40) (n : Nat) (v : Word) (s : State) (d : Dev), s.dev.csrWrite o.toNat n v = (d, false) →
    Does (.registerWrite o n v) s { d with outWord := 0, outErr := false }) ∧
  (∀ (o : BitVec 40) (n : Nat) (v : Word) (s : State) (r : Reg), o.toNat ≠ 0x6100000 → csrAligned o.toNat n = true → inFlash o.toNat = false →
    Reg.ofOffset (o.toNat - o.toNat % 8) = some r → s.dev.listed r = true → s.dev.dark r = false → s.dev.absent r = false →
    (∀ x v w, Dev.csrEffect x r v w = x.putFields r v w) →
    Completes (.registerWrite o n v) s
      { (s.dev.wakeFor r).putFields r (laneIn o.toNat n v) (reachMask o.toNat n) with outWord := 0, outErr := false }) ∧
  (∀ (m : Msg) (s : State) (e : Dev), Delivered s .msg m e → e.farSocket m = none → e.stale 0 m = false → (∃ c, m.who = .core c) →
    Does (.msg m) s (e.msgDoorbell 0xFFFF (BitVec.ofNat 64 (m.sdata.toNat % 2 ^ 32)) 4) ∧
    (m.sdata.toNat % 2 ^ 32 < 2 ^ 20 → e.bit .evcMtab .EVC_MTAB_EN = false → Completes (.msg m) s (e.countFld .evcStat .EVC_STAT_DISABLED 1))) ∧
  (∀ (rid : Half) (v : Word) (s : State),
    (v.toNat % 2 ^ 32 < 2 ^ 20 → Does (.evcMsgdb rid v 4) s (s.dev.fire false (v.toNat % 2 ^ 20) (some rid.toNat)) ∧
      (s.dev.bit .evcMtab .EVC_MTAB_EN = false → Completes (.evcMsgdb rid v 4) s (s.dev.countFld .evcStat .EVC_STAT_DISABLED 1))) ∧
    (∀ n, n ≠ 4 → Completes (.evcMsgdb rid v n) s (s.dev.countFld .evcStat .EVC_STAT_BADMSG 1))) ∧
  (∀ (m : Msg) (s : State) (e : Dev) (g o p : Nat), Delivered s .devwr m e → e.stale 0 m = false → e.farSocket m = none →
    inMmio m.addr.toNat = true → mmioOf m.addr.toNat = (e.socket, g, o) → g < 8 → inEcam o = false →
    (e.beginTxn m .devwr).mmioRes g o (byteSpan m) = .out p false →
    Completes (.devwr m) s (((e.beginTxn m .devwr).emit g o p false true (byteSpan m) m.sdata).send .cmp (backOf m))) ∧
  (∀ (m : Msg) (s : State) (e : Dev) (g o : Nat), Delivered s .devrd m e → e.stale 0 m = false → e.farSocket m = none →
    inMmio m.addr.toNat = true → mmioOf m.addr.toNat = (e.socket, g, o) → g < 8 → inEcam o = false →
    ((e.beginTxn m .devrd).mmioRes g o (byteSpan m) = .ones →
      Completes (.devrd m) s ((e.beginTxn m .devrd).send .data { backOf m with sdata := BitVec.ofNat 64 (2 ^ (8 * byteSpan m) - 1) })) ∧
    (∀ p, (e.beginTxn m .devrd).mmioRes g o (byteSpan m) = .out p false →
      Completes (.devrd m) s (((e.beginTxn m .devrd).emit g o p false false (byteSpan m) 0).outBegin g p m false false (byteSpan m))))

/-- What a write leaves in a register: an RW field takes the bits that the write reaches, where they are no reserved encoding; a W1C bit
written 1 is cleared; RO and RC fields and reserved bits stand. A read of RC bits clears the ones that it returns (R5 to R8). -/
def Obligations.AccessCodes : Prop :=
  (∀ (d : Dev) (r : Reg) (v reach : Word) (x : FieldDesc), x ∈ r.fields → (r.fields.Pairwise fun a b => a.f.mask &&& b.f.mask = 0) →
    let n := getF ((d.reg r &&& ~~~ reach) ||| (v &&& reach)) x.f
    (x.acc = .rw → x.vmin ≤ n → n ≤ x.vmax →
      (d.putFields r v reach).reg r &&& x.f.mask = ((d.reg r &&& ~~~ reach) ||| (v &&& reach)) &&& x.f.mask) ∧
    (x.acc = .rw → n < x.vmin ∨ x.vmax < n → (d.putFields r v reach).reg r &&& x.f.mask = d.reg r &&& x.f.mask) ∧
    (x.acc = .w1c → (d.putFields r v reach).reg r &&& x.f.mask = d.reg r &&& ~~~ (v &&& reach) &&& x.f.mask) ∧
    (x.acc = .ro ∨ x.acc = .rc → (d.putFields r v reach).reg r &&& x.f.mask = d.reg r &&& x.f.mask)) ∧
  (∀ (d : Dev) (r : Reg) (v reach m : Word), (∀ x ∈ r.fields, x.f.mask &&& m = 0) → (d.putFields r v reach).reg r &&& m = d.reg r &&& m) ∧
  (∀ (d : Dev) (r : Reg) (o n : Nat), csrAligned o n = true → inFlash o = false → Reg.ofOffset (o - o % 8) = some r → d.listed r = true →
    d.dark r = false → d.absent r = false → (d.csrRead o n).1.reg r = (d.wakeFor r).reg r &&& ~~~ (accMask r.fields .rc &&& reachMask o n))

/-- Link retries are counted, a flit that passes its check ends the count, and the 16th in succession that does not leaves the link open; the stall
watch isolates a port that it does not hold off, logs it and drops what is routed to it; a
closed worm is counted; re-enabling frees a port whose handshake succeeds unless it is retired; a parked packet that is not delivered in
time is dropped and logged; an observation unit that runs takes no write that keeps EN (R248 to R250, R257). Completes: LINK_RETRY,
PORT_ISOLATION, WORM_ABORT, PORT_REENABLE, PARKED_PACKET_DISCARD, FAB_OBS_CTL. -/
def Obligations.FabricFaults : Prop :=
  (∀ (q : Quad) (l : LinkKind) (flit : BitVec 288) (s : State), Gives (.linkRetry q l flit) s fun d =>
    d.csr = (s.dev.countFld (.fabStat q.val) .FAB_STAT_RETRY 1).csr ∧ d.cores = s.dev.cores ∧ d.mem = s.dev.mem ∧
    (flitOk flit = true → d.fabric.open_ = s.dev.fabric.open_ ∧ ∀ x ∈ d.fabric.retries, ¬ (x.1 = q.val ∧ x.2.1 = linkCode l)) ∧
    (flitOk flit = false → (s.dev.fabric.retries.find? fun r => r.1 == q.val && r.2.1 == linkCode l) = some (q.val, linkCode l, 15) →
      (q.val, linkCode l) ∈ d.fabric.open_)) ∧
  (∀ (q : Quad) (stop : Fin 40) (port : Fin 6) (vc : Fin 4) (dst : Byte) (s : State), s.dev.fabric.ports = [] →
    s.dev.watchHeld q.val stop.val port.val = false →
    Leaves (.portIsolation q stop port vc dst) s fun d =>
      (d.fabric.ports.any fun x => x.quad == q.val && x.stop == stop.val && x.port == port.val && x.isolated) = true ∧
      (∀ m ∈ d.fabric.net, m ∈ s.dev.fabric.net ∧ s.dev.uses m.2 q.val stop.val port.val = false) ∧
      d.fld (.fabStallLog q.val) .FAB_STALL_LOG_STOP = stop.val ∧ d.fld (.fabStallLog q.val) .FAB_STALL_LOG_PORT = port.val) ∧
  (∀ (q : Quad) (stop : Fin 40) (port : Fin 6) (s : State), Gives (.wormAbort q stop port) s fun d =>
    d.csr = (s.dev.countFld (.fabStat q.val) .FAB_STAT_ABORT 1).csr ∧ ∀ m ∈ d.fabric.net, m ∈ s.dev.fabric.net) ∧
  (∀ (q : Quad) (stop : Fin 40) (port : Fin 6) (s : State), Gives (.portReenable q stop port true) s fun d =>
    ∀ x ∈ d.fabric.ports, x.quad = q.val → x.stop = stop.val → x.port = port.val → x.retired = false → x.isolated = false) ∧
  (∀ (k : DomId) (vc : Fin 4) (p : Parked) (s : State), (s.dev.fabric.parked.find? fun x => x.dom == k.val && opcVc x.opc == vc.val) = some p →
    Leaves (.parkedPacketDiscard k vc) s fun d => d.fabric.parked = s.dev.fabric.parked.erase p ∧
      d.fld (.fabStallLog p.msg.dst.quad.val) .FAB_STALL_LOG_VALID = 1) ∧
  (∀ (q : Quad) (u : Fin 4) (v : Word) (s : State),
    (s.dev.obsOn q.val u.val = false ∨ getF v .FAB_OBS_CTL_EN = 0 → Becomes (.fabObsCtl q u v) s (s.dev.putFields (.fabObsCtl q.val u.val) v (BitVec.allOnes 64))) ∧
    (s.dev.obsOn q.val u.val = true → getF v .FAB_OBS_CTL_EN = 1 → Becomes (.fabObsCtl q u v) s s.dev))

/-! ### Translation targets, slices, reclamation, panels -/

/-- A TINV removes what it names from a core's and an engine's translations and makes every holder of a root port's device that it
concerns wait; an acknowledgement takes its target off the broadcast; a context invalidation that software has asked for leaves no context of its
range, no translation of the stop and BUSY = 0; a completed invalidation frees its holder; an ATS timeout drops its holder, is logged and contains the
port; a translation request is answered with its page and the logarithm of its size, at most 1 GiB
(log entry 33; R90, R91, R150, R310 to R314). Completes: XLATEINV, XLATEACK, CONTEXT_INVALIDATION, INVALIDATION_COMPLETION, ATS_TIMEOUT,
TRANSLATION_REQUEST. -/
def Obligations.TranslationTargets : Prop :=
  (∀ (c : CoreId) (v : Tinv) (s : State), Leaves (.xlateinv (.core c) v) s fun e =>
    let k := (s.dev.core c.val).applyTinv v
    (e.core c.val).itlb = k.itlb ∧ (e.core c.val).dtlb = k.dtlb ∧ (e.core c.val).tlb2 = k.tlb2 ∧ (e.core c.val).walk = k.walk ∧
    (e.core c.val).sdc = k.sdc ∧ (∀ j, e.arch j = s.dev.arch j) ∧
    ∀ q : CoreId, v.issuer = .core q → ∀ b ∈ (e.core q.val).tinvs, b.serial = v.serial → .core c ∈ b.targets → .core c ∈ b.applied) ∧
  (∀ (n : EngineId) (v : Tinv) (s : State), Leaves (.xlateinv (.engine n) v) s fun e =>
    ∀ t, t ∈ (e.engine n.val).xlate ↔ t ∈ (s.dev.engine n.val).xlate ∧ tinvRemovesLeaf v t = false) ∧
  (∀ (g : IoStopId) (v : Tinv) (s : State), Leaves (.xlateinv (.io g) v) s fun e =>
    (∀ t ∈ (e.stop g.val).xlate, tinvRemovesLeaf v t = false) ∧
    ∀ h ∈ (e.stop g.val).holders, v.scope = .all ∨ h.tenant = v.tenant → (v.issuer, v.serial) ∈ h.waiting) ∧
  (∀ (c : CoreId) (n : Nat) (a : Agent) (dr : Bool) (s : State),
    let applied := (s.dev.core c.val).tinvs.any fun x => x.serial == n && x.applied.contains a
    (applied = true ∧ (∀ g, a = .io g → ∀ h ∈ (s.dev.stop g.val).holders, (.core c, n) ∉ h.waiting) ∨ (∃ k, a = .socket k) ∨ (∃ h, a = .cxl h) →
      Gives (.xlateack c n a dr) s fun e => (∀ b ∈ (e.core c.val).tinvs, b.serial = n → a ∉ b.targets) ∧ (∀ j, e.arch j = s.dev.arch j) ∧
        ∀ j, j ≠ c.val → e.core j = s.dev.core j) ∧
    (applied = false → (∀ k, a ≠ .socket k) → (∀ h, a ≠ .cxl h) → Becomes (.xlateack c n a dr) s s.dev)) ∧
  (∀ (g : IoStopId) (first last : Half) (s : State),
    (s.dev.bit (.iosCtxInv g.val) .IOS_CTX_INV_BUSY = true → s.dev.fld (.iosCtxInv g.val) .IOS_CTX_INV_FIRST = first.toNat →
      s.dev.fld (.iosCtxInv g.val) .IOS_CTX_INV_LAST = last.toNat → Gives (.contextInvalidation g first last) s fun e =>
        (e.stop g.val).xlate = [] ∧ e.fld (.iosCtxInv g.val) .IOS_CTX_INV_BUSY = 0 ∧
        ∀ x, x ∈ (e.stop g.val).ctxs ↔ x ∈ (s.dev.stop g.val).ctxs ∧ ¬ (first.toNat ≤ x.rid.toNat ∧ x.rid.toNat ≤ last.toNat)) ∧
    (s.dev.bit (.iosCtxInv g.val) .IOS_CTX_INV_BUSY = false → Becomes (.contextInvalidation g first last) s s.dev)) ∧
  (∀ (g : IoStopId) (rid tenant : Half) (h : Holder) (s : State),
    ((s.dev.stop g.val).holders.find? fun h => h.rid == rid && h.tenant == tenant) = some h →
    (2 ≤ h.reqs.length → Leaves (.invalidationCompletion g rid tenant) s fun e =>
      (e.stop g.val).holders = (s.dev.stop g.val).holders.map fun x => if x = h then { x with reqs := x.reqs.tail } else x) ∧
    (h.reqs.length < 2 → h.evict = false → Leaves (.invalidationCompletion g rid tenant) s fun e =>
      (e.stop g.val).holders = (s.dev.stop g.val).holders.map fun x => if x = h then { x with waiting := [], reqs := [] } else x)) ∧
  (∀ (g : IoStopId) (rid tenant : Half) (h : Holder) (d : Dev) (s : State),
    ((s.dev.stop g.val).holders.find? fun h => h.rid == rid && h.tenant == tenant) = some h → h.evict = false →
    s.dev.context g.val rid = (d, none) → d.fabric.waits = s.dev.fabric.waits → (∀ k, (d.stop k).atsWait = []) →
    Leaves (.atsTimeout g rid tenant) s fun e => ∃ d4 : Dev, e = d4.contain h.port .atsTimeout ∧
      (∀ x ∈ (d4.stop g.val).holders, ¬ (x.rid = rid ∧ x.tenant = tenant)) ∧
      d4.fld (.iosAtsLog g.val) .IOS_ATS_LOG_VALID = 1 ∧ d4.fld (.iosAtsLog g.val) .IOS_ATS_LOG_RID = rid.toNat ∧
      d4.fld (.iosAtsLog g.val) .IOS_ATS_LOG_TENANT = tenant.toNat) ∧
  (∀ (g : IoStopId) (t : Tlp) (s : State), s.dev.portDead t.port.val = false → t.pasid = true →
    Completes (.translationRequest g t) s ((s.dev.dmaFault g.val 7 0 t.rid t.addr).out 0 true)) ∧
  (∀ (g : IoStopId) (t : Tlp) (s : State) (c : CtxEntry) (d1 d2 : Dev) (pa size : Nat) (key : BitVec 11), s.dev.portDead t.port.val = false →
    t.pasid = false → s.dev.bit (.iosCtxRoot g.val) .IOS_CTX_ROOT_EN = true → s.dev.context g.val t.rid = (d1, some c) → c.ats = true →
    d1.dmaXlate g.val { t with translated := false } .load = (d2, .ok pa key size) → (d2.stop g.val).holders.length < 256 →
    d2.fabric.waits = s.dev.fabric.waits →
    Leaves (.translationRequest g t) s fun e => e.outErr = false ∧
      e.outWord = BitVec.ofNat 64 (pa - pa % min size (2 ^ 30) + Nat.log2 (min size (2 ^ 30))) ∧
      ∃ h ∈ (e.stop g.val).holders, h.rid = t.rid ∧ h.tenant = c.tenant) ∧
  (∀ (g : IoStopId) (t : Tlp) (s : State) (c : CtxEntry) (ch n : Nat), s.dev.portDead t.port.val = false → t.pasid = false →
    s.dev.bit (.iosCtxRoot g.val) .IOS_CTX_ROOT_EN = true → ((s.dev.stop g.val).ctxs.find? fun x => x.rid == t.rid) = some c → c.ats = true →
    c.mode = 1 → t.addr.toNat < 2 ^ 52 → s.dev.place t.addr.toNat = .dram ch n → (s.dev.stop g.val).holders.length < 256 →
    Leaves (.translationRequest g t) s fun e => e.outErr = false ∧ e.outWord = BitVec.ofNat 64 (t.addr.toNat - t.addr.toNat % 4096 + 12) ∧
      (∃ h ∈ (e.stop g.val).holders, h.rid = t.rid ∧ h.tenant = c.tenant) ∧ e.mem = s.dev.mem ∧ e.csr = s.dev.csr)

/-- A class's way mask in Auto reaches every slice, and in Hold none; a requested re-key is queued; a rebuild starts with the first one
that is ready, its pointer at 0, a re-key under the masks of a new key, a retirement with a spare in the slice's place; each set that no slice
holds anything of advances the pointer once no request on it is in progress, and the last ends the rebuild with the new map in force (R160, R172 to
R176). Completes: WAY_MASK_UPDATE, RE_KEY, REBUILD_START, REBUILD_SET. -/
def Obligations.SliceMaps : Prop :=
  (∀ (k : Fin 16) (m : Half) (s : State), s.dev.od 0x2100 0 0 = 0 → s.dev.gov.maskAt = 0 →
    Leaves (.wayMaskUpdate k m) s fun e => ∀ n, n < 132 → e.fld (.slcCos n k.val) .SLC_COS_MASK = m.toNat) ∧
  (∀ (k : Fin 16) (m : Half) (s : State), s.dev.od 0x2100 0 0 = 1 → Completes (.wayMaskUpdate k m) s s.dev) ∧
  (∀ s : State, Leaves (.reKey true) s fun e => ⟨.rekey, 0, false⟩ ∈ e.hash.queue) ∧
  (∀ s : State, s.dev.od 0x2110 0 0 = 0 → s.dev.hash.queue = [] → s.dev.hash.lastAuto = none →
    Leaves (.reKey false) s fun e => e.hash.queue = [⟨.rekey, 0, true⟩]) ∧
  (∀ s : State, s.dev.od 0x2110 0 0 ≠ 0 → Completes (.reKey false) s s.dev) ∧
  (∀ (s : State) (r : RebuildReq), s.dev.hash.active = .none → s.dev.hash.queue.find? s.dev.rebuildReady = some r → r.kind = .rekey →
    Leaves .rebuildStart s fun e => e.hash.active = .rekey ∧ e.hash.ptr = 0 ∧ e.hash.new.table = s.dev.hash.old.table ∧
      e.hash.new.masks = masksOf e.hash.new.key ∧ e.hash.queue = s.dev.hash.queue.erase r) ∧
  (∀ (s : State) (r : RebuildReq) (n : Nat), s.dev.hash.active = .none → s.dev.hash.queue.find? s.dev.rebuildReady = some r →
    r.kind = .retirement → s.dev.spareSlice r.slice = some n →
    Leaves .rebuildStart s fun e => e.hash.active = .retirement ∧ e.sliceRole n = 0 ∧
      e.hash.new.table = s.dev.hash.old.table.map fun x => if x = r.slice then n else x) ∧
  (∀ s : State, s.dev.hash.active ≠ .none → Leaves .rebuildStart s fun e => e.hash = s.dev.hash) ∧
  (∀ (late : Bool) (s : State), s.dev.hash.active ≠ .none → s.dev.hash.pausedAt = none → s.dev.setInUse = false →
    (∀ e ∈ s.dev.slices, e.2.waitq = [] ∧ (∀ x ∈ e.2.llc, x.set ≠ s.dev.hash.ptr) ∧ ∀ x ∈ e.2.dir, x.set ≠ s.dev.hash.ptr) →
    Leaves (.rebuildSet late) s fun e =>
      (s.dev.hash.ptr + 1 < 3072 → e.hash = { s.dev.hash with ptr := s.dev.hash.ptr + 1 }) ∧
      (3072 ≤ s.dev.hash.ptr + 1 → e.hash.active = .none ∧ e.hash.old = s.dev.hash.new)) ∧
  (∀ (late : Bool) (s : State), s.dev.setInUse = true → s.dev.hash.active ≠ .none → (∀ e ∈ s.dev.slices, e.2.waitq = []) →
    Completes (.rebuildSet late) s s.dev)

/-- A conversion starts only where ways may be carved out, from 0 to 8 of them, with BUSY = 1, and when it is done BUSY is 0, SPWAYS the
new number, and no line is left in the carved ways, where none of the slice's lines has to wait for memory; an access of a data engine that waits beyond
STARVE_T is counted, and one that waits for the end-to-end timeout ends its descriptor with status 5; a March test runs on a slice under test
and answers RESULT 3 on another, and its end gives its counts and replaces what failed while spares last; where they run out the slice has
failed (R184, R186, R190, R191). Completes: SCRATCHPAD_CONVERSION, CONVERSION_DONE, SCRATCHPAD_STARVE, MARCH_TEST, MARCH_TEST_DONE. -/
def Obligations.SliceWork : Prop :=
  (∀ (n : SliceId) (w : Fin 16) (s : State), s.dev.bit (.slcSpadCtl n.val) .SLC_SPAD_CTL_BUSY = false →
    (s.dev.canCarve n.val = true → w.val ≤ 8 → w.val ≠ s.dev.fld (.slcState n.val) .SLC_STATE_SPWAYS →
      Leaves (.scratchpadConversion n w) s fun e => e.fld (.slcSpadCtl n.val) .SLC_SPAD_CTL_WAYS = w.val ∧
        e.fld (.slcSpadCtl n.val) .SLC_SPAD_CTL_BUSY = 1) ∧
    (s.dev.canCarve n.val = false ∨ 8 < w.val → Completes (.scratchpadConversion n w) s s.dev)) ∧
  (∀ (n : SliceId) (s : State), s.dev.bit (.slcSpadCtl n.val) .SLC_SPAD_CTL_BUSY = true → s.dev.canCarve n.val = true →
    (∀ x ∈ (s.dev.slice n.val).llc, x.dirty = false ∧ x.poison = false) ∨ (s.dev.spadDone n.val).fabric.waits = s.dev.fabric.waits →
    Leaves (.conversionDone n) s fun e => e.fld (.slcSpadCtl n.val) .SLC_SPAD_CTL_BUSY = 0 ∧
      e.fld (.slcState n.val) .SLC_STATE_SPWAYS = s.dev.fld (.slcSpadCtl n.val) .SLC_SPAD_CTL_WAYS ∧
      ∀ x ∈ (e.slice n.val).llc, x.way < 16 - s.dev.fld (.slcSpadCtl n.val) .SLC_SPAD_CTL_WAYS) ∧
  (∀ (n : SliceId) (us : Nat) (g : EngineId) (l : Lane) (ea : Word) (s : State), 16 < us →
    s.dev.fld (.slcSpadCtl n.val) .SLC_SPAD_CTL_STARVE_T < us →
    Leaves (.scratchpadStarve ⟨n, us, g, l, ea⟩) s fun e =>
      e.fld (.slcSpadStat n.val) .SLC_SPAD_STAT_STARVE = min (s.dev.fld (.slcSpadStat n.val) .SLC_SPAD_STAT_STARVE + 1)
        (2 ^ (Fld.SLC_SPAD_STAT_STARVE).width - 1) ∧
      (s.dev.od 0x4010 2 2000 ≤ us → ∀ k c, laneQueue s.dev g.val l.val = some k → (s.dev.queue k).started = some c →
        (e.queue k).started = some { c with status := some (5, 2, lineEa ea), done := true })) ∧
  (∀ (n : SliceId) (s : State), s.dev.bit (.slcMarchCtl n.val) .SLC_MARCH_CTL_BUSY = false →
    (s.dev.sliceRole n.val = 3 → Leaves (.marchTest n .preserving) s fun e => e.fld (.slcMarchCtl n.val) .SLC_MARCH_CTL_BUSY = 1 ∧
      e.slice n.val = s.dev.slice n.val ∧ e.isOff (domOfSlice n.val) = false) ∧
    (∀ m, s.dev.sliceRole n.val = 3 → m ≠ .preserving → s.dev.carved n.val = false →
      Leaves (.marchTest n m) s fun e => e.fld (.slcMarchCtl n.val) .SLC_MARCH_CTL_BUSY = 1 ∧ (e.slice n.val).llc = []) ∧
    (∀ m, s.dev.sliceRole n.val ≠ 3 → Leaves (.marchTest n m) s fun e => e.fld (.slcMarchStat n.val) .SLC_MARCH_STAT_RESULT = 3)) ∧
  (∀ (n : SliceId) (cells : Nat) (dr dc : List (Nat × Nat)) (tag dir : Nat × Nat) (s : State), s.dev.bit (.slcMarchCtl n.val) .SLC_MARCH_CTL_BUSY = true →
    let found := faultsOf dr dc tag dir
    let need := found.foldl (fun k f => k + f.rows + f.cols) 0
    let done := (repairAll (s.dev.spares n.val) found).2
    (need ≤ done → Leaves (.marchTestDone n cells dr dc tag dir) s fun e => e.fld (.slcMarchCtl n.val) .SLC_MARCH_CTL_BUSY = 0 ∧
      e.fld (.slcMarchStat n.val) .SLC_MARCH_STAT_FAILS = min cells 65535 ∧ e.fld (.slcMarchStat n.val) .SLC_MARCH_STAT_REPAIRED = min done 255 ∧
      e.fld (.slcMarchStat n.val) .SLC_MARCH_STAT_RESULT = (if need = 0 then 0 else 1) ∧
      (done ≠ 0 → e.spares n.val = (repairAll (s.dev.spares n.val) found).1)) ∧
    (done < need → Leaves (.marchTestDone n cells dr dc tag dir) s fun e => e.fld (.slcMarchStat n.val) .SLC_MARCH_STAT_RESULT = 2 ∧
      e.sliceRole n.val = 2))

/-- The death of a core empties its caches and its store buffer and begins reclamation; a walk of a slice none of whose requests waits for a dead agent
leaves no entry that names a dead socket; the end waits for every slice that has something to walk and every other live socket; readmission, once
twice the end-to-end timeout has passed, returns a dead
core under repair as a spare with empty caches and a caching device whose port is up, and reclamation in progress or an agent that is not
dead excludes it; the manager declares a socket dead that no live link reaches (R180 to R182, R329, R333). Completes: DEAD_AGENT_DECLARATION,
RECLAMATION_WALK, RECLAMATION_END, READMISSION, DEAD_AGENT_TIME. -/
def Obligations.DeadAgents : Prop :=
  (∀ (a : DeadAgent) (s : State), Leaves (.deadAgentDeclaration a) s fun e => a ∈ e.board.reclaim ∧ (a, s.dev.time) ∈ e.board.deadAt ∧
    (∀ n, n < 132 → (e.slice n).walked = false) ∧ e.mem = s.dev.mem ∧
    ∀ c : CoreId, a = .core c → (e.core c.val).l2 = [] ∧ (e.core c.val).storeBuf = [] ∧ (e.core c.val).run = .stopped ∧ e.coreRole c.val = 3) ∧
  (∀ (n : SliceId) (s : State), s.dev.board.reclaim ≠ [] → (s.dev.slice n.val).walked = false →
    (∀ t ∈ (s.dev.slice n.val).txns, t.acks.any s.dev.deadHolder = false) →
    Leaves (.reclamationWalk (.slice n)) s fun e => (e.slice n.val).walked = true ∧ (∀ c, e.arch c = s.dev.arch c) ∧
      ∀ p : SockId, s.dev.board.reclaim = [.socket p] → ∀ x ∈ (e.slice n.val).dir, p.val ∉ x.socks) ∧
  (∀ (p : SockId) (s : State), s.dev.board.reclaim ≠ [] → Leaves (.reclamationWalk (.socket p)) s fun e =>
    p.val ∈ e.board.doneBy ∧ e = { s.dev with board := { s.dev.board with doneBy := e.board.doneBy } }) ∧
  (∀ s : State, s.dev.board.reclaim ≠ [] →
    ((∀ n, n < 132 → s.dev.walkDue n = false) → s.dev.othersDue = false → Gives .reclamationEnd s fun e => e.board.reclaim = [] ∧
      e.slices = s.dev.slices ∧ e.cores = s.dev.cores ∧ e.mem = s.dev.mem) ∧
    ((∃ n, n < 132 ∧ s.dev.walkDue n = true) ∨ s.dev.othersDue = true → Becomes .reclamationEnd s s.dev)) ∧
  (∀ (a : DeadAgent) (t : Word) (s : State), (a, t) ∈ s.dev.board.deadAt → s.dev.past t (us (2 * s.dev.od 0x4010 2 2000)) = true →
    a ∉ s.dev.board.reclaim →
    (∀ c : CoreId, a = .core c → s.dev.coreRole c.val = 3 → s.dev.lvalid c.val = false →
      Leaves (.readmission a) s fun e => (e.core c.val).l2 = [] ∧ (e.core c.val).storeBuf = [] ∧ e.coreRole c.val = 1) ∧
    (∀ h : CxlId, a = .cxl h → s.dev.cxlDown h.val = false →
      Leaves (.readmission a) s fun e => ∀ n, n < 132 → (e.fld (.dirDead n) .DIR_DEAD_CXL).testBit h.val = false)) ∧
  (∀ (a : DeadAgent) (s : State), (s.dev.board.deadAt.any fun x => x.1 == a) = false ∨ a ∈ s.dev.board.reclaim →
    Completes (.readmission a) s s.dev) ∧
  (∀ (p : SockId) (s : State), ((List.range 16).any fun j => (s.dev.link j).up && (s.dev.link j).peer == p.val) = true →
    Completes (.deadAgentTime (.peer p)) s s.dev) ∧
  (∀ (p : SockId) (s : State), ((List.range 16).any fun j => (s.dev.link j).up && (s.dev.link j).peer == p.val) = false →
    p.val ≠ s.dev.socket → s.dev.present p.val = true → s.dev.sockDead p.val = false → s.dev.pins.isManager = true →
    Leaves (.deadAgentTime (.peer p)) s fun e => .socket p ∈ e.board.reclaim) ∧
  (∀ (p q : SockId) (s : State), p.val < q.val → p.val ≠ s.dev.socket → q.val ≠ s.dev.socket → s.dev.sockUp p.val = true → s.dev.sockUp q.val = true →
    s.dev.pins.isManager = true →
    Leaves (.deadAgentTime (.workers p q)) s fun e => .socket q ∈ e.board.reclaim)

/-- A panel whose members have all entered and can begin a row starts, and each member's stitch begins where its core stood; an interrupt that may be
taken, or a stitch's limit, ends a member's stitch; the row waits for every stitch's end, and stitches that have stored nothing and that no outside
write has touched are then committed; the boundary step leaves the
committed phase, and where nothing remains to be journalled the next row begins, or the panel is dissolved; an entry that the journal has
room for is written to its ring and DEV advances, and a full ring makes the row wait (R203, R206, R213, R218, R223). Completes: PANEL_START,
STITCH_END, ROW_COMMIT, BOUNDARY_STEP, JOURNAL_WRITE. -/
def Obligations.PanelEvents : Prop :=
  (∀ (n : SlotId) (s : State), s.dev.slotState n.val = 1 → (s.dev.memberCores n.val).length = (s.dev.panel n.val).members.length →
    (∀ c ∈ s.dev.memberCores n.val, ∃ m, (s.dev.core c).member = some m ∧ m.phase = .entered) → s.dev.RowReady n.val →
    Leaves (.panelStart n) s fun e => e.slotState n.val = 2 ∧ s.dev.RowRuns e n.val ∧ e.mem = s.dev.mem) ∧
  (∀ (n : SlotId) (s : State) (c : Nat) (m : Member), c ∈ s.dev.memberCores n.val → (s.dev.core c).member = some m → m.phase ≠ .entered →
    Completes (.panelStart n) s s.dev) ∧
  (∀ (c : CoreId) (s : State) (m : Member), s.dev.stitching c.val = some m → (s.dev.core c.val).runAhead = none →
    (∀ why, s.dev.stitchDone c.val m = some why → Leaves (.stitchEnd c) s fun e =>
      s.dev.OnlyCore e c.val { s.dev.core c.val with member := some { m with phase := .ended, cause := why, replaying := false } }) ∧
    (s.dev.stitchDone c.val m = none → Completes (.stitchEnd c) s s.dev)) ∧
  (∀ (n : SlotId) (s : State), (s.dev.panel n.val).phase = .stitches → s.dev.nextRetry n.val = none →
    (s.dev.allEnded n.val = false → Completes (.rowCommit n) s s.dev) ∧
    (s.dev.allEnded n.val = true → s.dev.slotState n.val ≠ 4 → (s.dev.panel n.val).outside = [] → (s.dev.panel n.val).wset = [] →
      (∀ c ∈ s.dev.memberCores n.val, ∃ m, (s.dev.core c).member = some m ∧ m.phase = .ended ∧ m.overlay = []) →
      Leaves (.rowCommit n) s fun e => (e.panel n.val).phase = .committed ∧ e.mem = s.dev.mem ∧
        ∀ c ∈ s.dev.memberCores n.val, e.arch c = s.dev.arch c ∧ ∃ m, (e.core c).member = some m ∧ m.phase = .committed ∧ m.frogrun = 0)) ∧
  (∀ (n : SlotId) (s : State), (s.dev.panel n.val).phase = .committed → s.dev.memberCores n.val = [] → (s.dev.panel n.val).gates = [] →
    s.dev.playing n.val = false → s.dev.recording n.val = false → s.dev.slotState n.val = 2 →
    Leaves (.boundaryStep n) s fun e => e.row n.val = (s.dev.row n.val + 1) % 2 ^ 37 ∧ (e.panel n.val).phase = .stitches) ∧
  (∀ (n : SlotId) (s : State), (s.dev.panel n.val).phase = .boundary → (s.dev.panel n.val).jrnl = [] → (s.dev.panel n.val).dissolve = false →
    s.dev.slotState n.val ≠ 4 → s.dev.RowReady n.val → ∀ i, i = .boundaryStep n ∨ i = .journalWrite n →
      Leaves i s fun e => e.row n.val = (s.dev.row n.val + 1) % 2 ^ 37 ∧ s.dev.RowRuns e n.val ∧ e.mem = s.dev.mem) ∧
  (∀ (n : SlotId) (s : State), (s.dev.panel n.val).phase = .boundary → (s.dev.panel n.val).jrnl = [] → (s.dev.panel n.val).dissolve = true →
    s.dev.slotState n.val ≠ 4 → s.dev.memberCores n.val = [] → ∀ i, i = .boundaryStep n ∨ i = .journalWrite n → Completes i s (s.dev.freeSlot n.val)) ∧
  (∀ (n : SlotId) (s : State) (x : JEntry) (d : Dev), (s.dev.panel n.val).phase = .boundary → (s.dev.panel n.val).jrnl = [x] →
    s.dev.recording n.val = true → s.dev.slotState n.val ≠ 4 →
    (s.dev.jrnlLevel n.val = 2 ^ (s.dev.panel n.val).jlog → Completes (.journalWrite n) s s.dev) ∧
    (s.dev.jrnlLevel n.val ≠ 2 ^ (s.dev.panel n.val).jlog →
      s.dev.writeBytesAs evAgent 0 2 (s.dev.jrnlPa n.val (s.dev.fld (.pnlJrnl n.val) .PNL_JRNL_DEV))
        (leBytes 8 x.b0.toNat ++ leBytes 8 x.b1.toNat ++ leBytes 8 x.b2.toNat ++ leBytes 8 x.b3.toNat) = (d, false) →
      d.fabric.waits = s.dev.fabric.waits →
      let d2 := ((d.wrapFld (.pnlJrnl n.val) .PNL_JRNL_DEV 1).ringLevel (.journal n) (d.jrnlLevel n.val) (d.jrnlLevel n.val + 1)).modPanel n.val
        fun p => { p with jrnl := [] }
      (d2.panel n.val).dissolve = false → d2.RowReady n.val →
      Leaves (.journalWrite n) s fun e => e.row n.val = (d2.row n.val + 1) % 2 ^ 37 ∧ d2.RowRuns e n.val)) ∧
  (∀ (n : SlotId) (s : State), s.dev.slotState n.val ≠ 4 → (s.dev.panel n.val).phase = .idle ∨ (s.dev.panel n.val).phase = .stitches →
    ∀ i, i = .boundaryStep n ∨ i = .journalWrite n → Completes i s s.dev)
/-! ### Memory controllers -/

/-- A write enters its channel's queue or merges into the entry of its line that waits there; a read enters its bank's list, and a read of a
clean zero-map line changes nothing. The controller issues the request it picks, its row opening, in a channel that is On and Active: a whole write reaches
DRAM, a read that reads as zero is counted, one of a lost line logged, a clean one leaves memory and registers. A refresh that is due closes the rows of the
next bank of each bank group of its rank, one that is not due changes nothing; above 85 °C its interval halves; writes of zeros go on eight lines
at a time until the granule is done (R266 to R268, R270, R278, R284, R285). Completes: MC_WRITE, MC_READ, MC_ISSUE, REFRESH, DIMM_TEMPERATURE_READ,
ZERO_FILL_WRITE. -/
def Obligations.DramAccess : Prop :=
  (∀ (ch : Chan) (m : Msg) (s : State) (n : Nat), s.dev.place (m.addr.toNat / 64 * 64) = .dram ch.val n → s.dev.power (domOfChan ch.val) ≠ 1 →
    s.dev.chanFailed ch.val = false →
    ((∀ w ∈ (s.dev.chan ch.val).wq, w.line = m.addr.toNat / 64 → w.issued = true) → (s.dev.chan ch.val).wq.length < 64 →
      Leaves (.mcWrite ch m) s fun e => e.mem = s.dev.mem ∧ (e.chan ch.val).wq = (s.dev.chan ch.val).wq ++
        [⟨m.addr.toNat / 64, m.data, m.byteen, m.key, m.poison, false, match m.who with
          | .core c => s.dev.coreClass c.val
          | _ => 0, (s.dev.chan ch.val).arrivals⟩]) ∧
    (∀ w, (s.dev.chan ch.val).wq = [w] → w.line = m.addr.toNat / 64 → w.issued = false →
      Leaves (.mcWrite ch m) s fun e => (e.chan ch.val).wq = [{ w with
        data := Line.merge w.data m.data m.byteen, byteen := w.byteen ||| m.byteen, key := m.key,
        poison := if m.byteen = fullMask then m.poison else w.poison || m.poison }])) ∧
  (∀ (ch : Chan) (ln : BitVec 46) (f : ReadAttempt) (s : State) (n : Nat), s.dev.chanFailed ch.val = false →
    s.dev.power (domOfChan ch.val) ≠ 1 → s.dev.place (ln.toNat * 64) = .dram ch.val n → s.dev.readsFull ch.val = false →
    Leaves (.mcRead ch (.phys ln) f) s fun e => e.mem = s.dev.mem ∧ (e.chan ch.val).wq = (s.dev.chan ch.val).wq ∧
      (e.chan ch.val).reads = (s.dev.chan ch.val).reads ++ [⟨ln.toNat, none, f, 0, (s.dev.chan ch.val).arrivals, false⟩]) ∧
  (∀ (ch : Chan) (z : Nat) (f : ReadAttempt) (s : State), s.dev.power (domOfChan ch.val) ≠ 1 → f.first = .clean →
    Completes (.mcRead ch (.zmap z) f) s s.dev) ∧
  (∀ (ch : Chan) (s : State), s.dev.chanState ch.val = 0 → s.dev.isOn (domOfChan ch.val) = true →
    (∀ (w : WqEntry) (ks : KeySlot), (s.dev.chan ch.val).wq = [w] → (s.dev.chan ch.val).reads = [] → w.issued = false → w.byteen = fullMask →
      w.poison = false → s.dev.keySlot w.key.toNat = some ks → s.dev.zeroBit (w.line / 64) = false →
      Leaves (.mcIssue ch) s fun e => e.mem = Memory.putLine s.dev.mem w.line w.data ∧ (e.chan ch.val).wq = [{ w with issued := true }] ∧
        (e.chan ch.val).lastBank = (s.dev.bankOf ch.val (s.dev.localOf w.line)).1 ∧
        Tbl.get 0 (s.dev.bankOf ch.val (s.dev.localOf w.line)).1 (e.chan ch.val).openRows = (s.dev.bankOf ch.val (s.dev.localOf w.line)).2) ∧
    (∀ r : RdEntry, (s.dev.chan ch.val).wq = [] → (s.dev.chan ch.val).reads = [r] → r.issued = false → r.key = none →
      Leaves (.mcIssue ch) s fun e => (e.chan ch.val).reads = [{ r with issued := true }] ∧
        (e.chan ch.val).lastBank = (s.dev.bankOf ch.val (s.dev.localOf r.line)).1 ∧
        (s.dev.readsZero ch.val r.line = true → e.mem = s.dev.mem ∧ e.fld (.mcZmapStat ch.val) .MC_ZMAP_STAT_ZREADS =
          min (s.dev.fld (.mcZmapStat ch.val) .MC_ZMAP_STAT_ZREADS + 1) (2 ^ (Fld.MC_ZMAP_STAT_ZREADS).width - 1)) ∧
        (s.dev.readsZero ch.val r.line = false → ((s.dev.lineMeta r.line).map (·.lost)).getD false = true →
          e.mem = s.dev.mem ∧ e.fld (.mcLastUe ch.val) .MC_LAST_UE_VALID = 1 ∧ e.fld (.mcLastUe ch.val) .MC_LAST_UE_KIND = 2) ∧
        (s.dev.readsZero ch.val r.line = false → ((s.dev.lineMeta r.line).map (·.lost)).getD false = false → r.att.first = .clean →
          e.mem = s.dev.mem ∧ e.csr = s.dev.csr))) ∧
  (∀ (ch : Chan) (s : State), s.dev.chanState ch.val ≠ 0 ∨ s.dev.isOn (domOfChan ch.val) = false → Completes (.mcIssue ch) s s.dev) ∧
  (∀ (ch : Chan) (r : Fin 8) (s : State),
    (∀ x : Dimms, s.dev.chanState ch.val = 0 → (s.dev.chan ch.val).dimms = some x →
      (∀ t, (r.val, t) ∈ (s.dev.chan ch.val).refAt → s.dev.past t (s.dev.refInterval ch.val) = true) → Gives (.refresh ch r) s fun e =>
      (e.chan ch.val).wq = (s.dev.chan ch.val).wq ∧
      ∀ y, y ∈ (e.chan ch.val).openRows ↔ y ∈ (s.dev.chan ch.val).openRows ∧
        ¬ (y.1 / 32 % 2 ^ log2Of (x.ranks * x.count) = r.val ∧ y.1 % 4 = Tbl.get 0 r.val (s.dev.chan ch.val).refBank)) ∧
    (s.dev.chanState ch.val ≠ 0 ∨ (∃ t, (r.val, t) ∈ (s.dev.chan ch.val).refAt ∧ s.dev.past t (s.dev.refInterval ch.val) = false) →
      Becomes (.refresh ch r) s s.dev)) ∧
  (∀ (ch : Chan) (l : List Int) (s : State), Gives (.dimmTemperatureRead ch l) s fun e =>
    (e.chan ch.val).temps = l ∧ ((e.chan ch.val).fastRef = true ↔ ∃ t ∈ l, 85 < t)) ∧
  (∀ (d : Dev) (ch : Nat), (d.modChan ch fun c => { c with fastRef := true }).refInterval ch =
    (d.modChan ch fun c => { c with fastRef := false }).refInterval ch / 2) ∧
  (∀ (ch : Chan) (s : State), s.dev.chanState ch.val ≠ 0 ∨ (s.dev.chan ch.val).fill = [] → Becomes (.zeroFillWrite ch) s s.dev) ∧
  (∀ (ch : Chan) (x : FillEntry) (t : List FillEntry) (s : State), s.dev.chanState ch.val = 0 → (s.dev.chan ch.val).fill = x :: t →
    (x.next + 8 < 64 → Gives (.zeroFillWrite ch) s fun e => ∀ y ∈ (e.chan ch.val).fill, y.granule = x.granule → y.next = x.next + 8) ∧
    (64 ≤ x.next + 8 → Gives (.zeroFillWrite ch) s fun e => (∀ y ∈ (e.chan ch.val).fill, y.granule ≠ x.granule) ∧
      x.granule ∈ e.zclear))

/-- A frequency change is refused where a channel retrains or is in cast-on training, or the budget is below 500 W; else the banks of every channel
in the set precharge, STATE is 1, and when done each runs Active in the new set at its rate. ALERT_n is counted, issues a held write again, and a
fourth within 1 ms makes training due; training that is due begins with STATE 2 and ends Active, or the channel fails and loses its queues; the
leak takes one from each rank's bucket and arms an alarm below half of the cap (R272, R275, R276, R281). Completes: FREQUENCY_CHANGE,
FREQUENCY_CHANGE_DONE, ALERT_N, RETRAIN, RETRAIN_DONE, BUCKET_LEAK. -/
def Obligations.DramTraining : Prop :=
  (∀ (low : Bool) (s : State),
    ((∃ ch ∈ s.dev.setChannels, s.dev.chanState ch = 2 ∨ s.dev.chanState ch = 4) →
      Gives (.frequencyChange low) s fun e => e.od 0x3010 3 0 = 2 ∧ e.csr = s.dev.csr) ∧
    ((∀ ch ∈ s.dev.setChannels, s.dev.chanState ch ≠ 2 ∧ s.dev.chanState ch ≠ 4) → s.dev.od 0x4010 2 2000 < 500 →
      Gives (.frequencyChange low) s fun e => e.od 0x3010 3 0 = 1 ∧ e.csr = s.dev.csr) ∧
    ((∀ ch ∈ s.dev.setChannels, s.dev.chanState ch = 0 ∧ s.dev.power (domOfChan ch) ≠ 1) → 500 ≤ s.dev.od 0x4010 2 2000 →
      (∃ ch ∈ s.dev.setChannels, s.dev.bit (.mcCtl ch) .MC_CTL_TSEL ≠ low) →
      Gives (.frequencyChange low) s fun e => e.od 0x3010 3 0 = 3 ∧ e.od 0x3010 0 0 = bitNat low ∧
        ∀ ch ∈ s.dev.setChannels, e.chanState ch = 1 ∧ (e.chan ch).openRows = [] ∧ (e.chan ch).wq = (s.dev.chan ch).wq)) ∧
  (∀ s : State, (∀ ch, ch < 16 → s.dev.chanState ch ≠ 1) → Becomes .frequencyChangeDone s s.dev) ∧
  (∀ (s : State) (c : Chan) (low : Bool), s.dev.chanState c.val = 1 → (∀ ch, (s.dev.chan ch).retrainDue = false) →
    s.dev.od 0x3010 0 0 = bitNat low → Gives .frequencyChangeDone s fun e => e.chanState c.val = 0 ∧ e.od 0x3010 3 1 = 0 ∧
      e.bit (.mcCtl c.val) .MC_CTL_TSEL = low ∧
      e.fld (.mcCtl c.val) .MC_CTL_RATE = s.dev.fld (if low then .mcTimingB0 c.val else .mcTimingA0 c.val) .MC_TIMING0_RATE) ∧
  (∀ (ch : Chan) (s : State), s.dev.chanFailed ch.val = true → Completes (.alertN ch) s s.dev) ∧
  (∀ (ch : Chan) (s : State), s.dev.chanFailed ch.val = false → (∀ r ∈ (s.dev.chan ch.val).reads, r.issued = false) →
    ((∀ w ∈ (s.dev.chan ch.val).wq, w.issued = false) → Leaves (.alertN ch) s fun e => e.mem = s.dev.mem ∧
      e.fld (.mcErrcnt ch.val) .MC_ERRCNT_ALERT = min (s.dev.fld (.mcErrcnt ch.val) .MC_ERRCNT_ALERT + 1) (2 ^ (Fld.MC_ERRCNT_ALERT).width - 1) ∧
      (e.chan ch.val).retrainDue = ((s.dev.chan ch.val).retrainDue ||
        decide (4 ≤ (s.dev.recent (ms 1) (s.dev.chan ch.val).alerts).length))) ∧
    (∀ (w : WqEntry) (ks : KeySlot), (s.dev.chan ch.val).wq = [w] → w.issued = true → w.byteen = fullMask → w.poison = false →
      s.dev.keySlot w.key.toNat = some ks → s.dev.zeroBit (w.line / 64) = false →
      Leaves (.alertN ch) s fun e => e.mem = Memory.putLine s.dev.mem w.line w.data)) ∧
  (∀ (ch : Chan) (s : State),
    (s.dev.chanState ch.val = 0 → (s.dev.chan ch.val).retrainDue = true → Leaves (.retrain ch) s fun e => e.chanState ch.val = 2 ∧
      (e.chan ch.val).retrainDue = false ∧ (e.chan ch.val).wq = (s.dev.chan ch.val).wq ∧ e.fld (.mcErrcnt ch.val) .MC_ERRCNT_RETRAIN =
        min (s.dev.fld (.mcErrcnt ch.val) .MC_ERRCNT_RETRAIN + 1) (2 ^ (Fld.MC_ERRCNT_RETRAIN).width - 1)) ∧
    (s.dev.chanState ch.val ≠ 0 ∨ (s.dev.chan ch.val).retrainDue = false → Completes (.retrain ch) s s.dev)) ∧
  (∀ (ch : Chan) (s : State),
    (s.dev.chanState ch.val = 2 → (∀ w ∈ (s.dev.chan ch.val).wq, w.issued = false) →
      Leaves (.retrainDone ch true) s fun e => e.chanState ch.val = 0 ∧ e.mem = s.dev.mem) ∧
    (s.dev.chanState ch.val = 2 → Leaves (.retrainDone ch false) s fun e => e.chanState ch.val = 6 ∧ (e.chan ch.val).wq = [] ∧
      (e.chan ch.val).reads = [] ∧ (e.chan ch.val).fill = [] ∧ (e.chan ch.val).failed = true) ∧
    (s.dev.chanState ch.val ≠ 2 → ∀ ok, Completes (.retrainDone ch ok) s s.dev)) ∧
  (∀ s : State, Gives .bucketLeak s fun e => ∀ (ch : Chan) (r : Fin 8), e.ceLevel ch.val r.val = s.dev.ceLevel ch.val r.val - 1 ∧
    (2 * (s.dev.ceLevel ch.val r.val - 1) < s.dev.ceCap → e.ceArmed ch.val r.val = true))

/-- A demand scrub starts with BUSY = 1 and cleared counts over the range then set, a second GO gives RESULT 2, an abort RESULT 1; its
end clears BUSY with RESULT 0, having counted a line read. The patrol scrub, where nothing holds it, goes on to the channel's next line, and else does
nothing; a swatch run with GO starts with the pattern written and cleared counts, without GO it only writes the fields; its end leaves each DQ bit's
count of the beats that differ from those driven, the generators' form being the model's (log entry 125) (R274, R282, R283, R295). Completes:
DEMAND_SCRUB, DEMAND_SCRUB_ABORT, DEMAND_SCRUB_DONE, PATROL_SCRUB, SWATCH_RUN, SWATCH_RUN_DONE. -/
def Obligations.DramScrubs : Prop :=
  (∀ (ch : Chan) (s : State), s.dev.bit (.mcDscrubCtl ch.val) .MC_DSCRUB_CTL_BUSY = false →
    Gives (.demandScrub ch) s fun e => e.fld (.mcDscrubCtl ch.val) .MC_DSCRUB_CTL_BUSY = 1 ∧ e.reg (.mcDscrubSum0 ch.val) = 0 ∧
      e.reg (.mcDscrubSum1 ch.val) = 0 ∧ (e.chan ch.val).scrub =
        some (s.dev.fld (.mcDscrubBase ch.val) .MC_DSCRUB_BASE_BASE, s.dev.fld (.mcDscrubLen ch.val) .MC_DSCRUB_LEN_LINES)) ∧
  (∀ (ch : Chan) (s : State), s.dev.bit (.mcDscrubCtl ch.val) .MC_DSCRUB_CTL_BUSY = true →
    Gives (.demandScrub ch) s fun e => e.fld (.mcDscrubCtl ch.val) .MC_DSCRUB_CTL_RESULT = 2 ∧
      e.fld (.mcDscrubCtl ch.val) .MC_DSCRUB_CTL_BUSY = s.dev.fld (.mcDscrubCtl ch.val) .MC_DSCRUB_CTL_BUSY) ∧
  (∀ (ch : Chan) (lines : Nat) (f : List ReadAttempt) (s : State),
    ((s.dev.chan ch.val).scrub = none → Completes (.demandScrubAbort ⟨ch, lines, f⟩) s s.dev ∧ Completes (.demandScrubDone ch f) s s.dev) ∧
    ((s.dev.chan ch.val).scrub ≠ none →
      (Leaves (.demandScrubAbort ⟨ch, lines, f⟩) s fun e => e.fld (.mcDscrubCtl ch.val) .MC_DSCRUB_CTL_BUSY = 0 ∧
        e.fld (.mcDscrubCtl ch.val) .MC_DSCRUB_CTL_RESULT = 1 ∧ (e.chan ch.val).scrub = none) ∧
      Leaves (.demandScrubDone ch f) s fun e => e.fld (.mcDscrubCtl ch.val) .MC_DSCRUB_CTL_BUSY = 0 ∧
        e.fld (.mcDscrubCtl ch.val) .MC_DSCRUB_CTL_RESULT = 0 ∧ (e.chan ch.val).scrub = none)) ∧
  (∀ (ch : Chan) (f : ReadAttempt) (s : State) (ln n : Nat), (s.dev.chan ch.val).scrub = some (ln, 1) → s.dev.place (ln * 64) = .dram ch.val n →
    (s.dev.chan ch.val).wq = [] → s.dev.readsZero ch.val ln = false → ((s.dev.lineMeta ln).map (·.lost)).getD false = false → f.first = .clean →
    Leaves (.demandScrubDone ch [f]) s fun e => e.mem = s.dev.mem ∧ e.fld (.mcDscrubSum0 ch.val) .MC_DSCRUB_SUM0_READ =
      min (s.dev.fld (.mcDscrubSum0 ch.val) .MC_DSCRUB_SUM0_READ + 1) (2 ^ (Fld.MC_DSCRUB_SUM0_READ).width - 1)) ∧
  (∀ (ch : Chan) (f : List ReadAttempt) (s : State), s.dev.od 0x3021 0 1 = 0 ∨ (s.dev.chan ch.val).scrub ≠ none ∨ s.dev.chanState ch.val ≠ 0 ∨
    s.dev.isOn (domOfChan ch.val) = false → Completes (.patrolScrub ch f) s s.dev) ∧
  (∀ (ch : Chan) (f : List ReadAttempt) (s : State), s.dev.od 0x3021 0 1 ≠ 0 → (s.dev.chan ch.val).scrub = none →
    s.dev.chanState ch.val = 0 → s.dev.isOn (domOfChan ch.val) = true → (s.dev.chan ch.val).inSet = true → 64 ≤ (s.dev.chan ch.val).usable →
    Leaves (.patrolScrub ch f) s fun e => (e.chan ch.val).patrolLine =
      if ((s.dev.chan ch.val).patrolLine + 1) * 64 < (s.dev.chan ch.val).usable then (s.dev.chan ch.val).patrolLine + 1 else 0) ∧
  (∀ (ch : Chan) (ctl pat scan : Word) (s : State),
    (s.dev.bit (.mcSwatchCtl ch.val) .MC_SWATCH_CTL_BUSY = false →
      (bitF ctl 62 = true → Gives (.swatchRun ⟨ch, ctl, pat, scan⟩) s fun e => e.fld (.mcSwatchCtl ch.val) .MC_SWATCH_CTL_BUSY = 1 ∧
        e.reg (.mcSwatchPat ch.val) = pat ∧ e.fld (.mcSwatchCtl ch.val) .MC_SWATCH_CTL_BURSTS = getF ctl .MC_SWATCH_CTL_BURSTS ∧
        ∀ i, i < 20 → e.reg (.mcSwatchErr ch.val i) = 0) ∧
      (bitF ctl 62 = false → Gives (.swatchRun ⟨ch, ctl, pat, scan⟩) s fun e => e.fld (.mcSwatchCtl ch.val) .MC_SWATCH_CTL_BUSY = 0 ∧
        e.reg (.mcSwatchPat ch.val) = pat ∧ e.fld (.mcSwatchCtl ch.val) .MC_SWATCH_CTL_BURSTS = getF ctl .MC_SWATCH_CTL_BURSTS ∧
        ∀ i, e.reg (.mcSwatchErr ch.val i) = s.dev.reg (.mcSwatchErr ch.val i))) ∧
    (s.dev.bit (.mcSwatchCtl ch.val) .MC_SWATCH_CTL_BUSY = true → Becomes (.swatchRun ⟨ch, ctl, pat, scan⟩) s s.dev)) ∧
  (∀ (ch : Chan) (l : List (List Bool)) (s : State),
    (s.dev.bit (.mcSwatchCtl ch.val) .MC_SWATCH_CTL_BUSY = false → Becomes (.swatchRunDone ch l) s s.dev) ∧
    (s.dev.bit (.mcSwatchCtl ch.val) .MC_SWATCH_CTL_BUSY = true →
      Gives (.swatchRunDone ch l) s fun e => e.fld (.mcSwatchCtl ch.val) .MC_SWATCH_CTL_BUSY = 0 ∧
        ∀ i k, i < 20 → k < 4 → getF (e.reg (.mcSwatchErr ch.val i)) ⟨16 * k + 15, 16 * k⟩ =
          min (((l.getD (4 * i + k) []).zip (s.dev.swatchBits ch.val (4 * i + k) (l.getD (4 * i + k) []).length)).filter fun p => p.1 != p.2).length
            65535))

/-! ### Input, output and the board -/

/-- What a port that is contained, down or unassigned sends has no effect. Where context checking is off an untranslated access reaches local DRAM at its
own address, and no scratchpad; one with a PASID is refused with reason 7. A translated read answers with the bytes at its address, a write stores
them, an atomic operation answers with the old value and stores the new one; a fault of translation is recorded, and a read or an atomic operation answered with
an error; under a context with peer-to-peer a write leaves by the window's port; an identifier written to the message doorbell fires (R306, R307, R309, R362). An
access that has to wait for memory or another socket is made again later (log entry 106). Completes: INBOUND_READ, INBOUND_WRITE, ATOMICOP. -/
def Obligations.InboundAccesses : Prop :=
  (∀ (g : IoStopId) (t : Tlp) (s : State), s.dev.portDead t.port.val = true →
    Completes (.inboundRead g t) s s.dev ∧ (∀ b, Completes (.inboundWrite g t b) s s.dev) ∧ ∀ k v w, Completes (.atomicop g t k v w) s s.dev) ∧
  (∀ (d : Dev) (g : Nat) (t : Tlp) (kind : AccKind), t.pasid = true → d.dmaXlate g t kind = (d, .fault 7 0)) ∧
  (∀ (d : Dev) (g : Nat) (t : Tlp) (kind : AccKind), t.pasid = false → t.translated = false → d.bit (.iosCtxRoot g) .IOS_CTX_ROOT_EN = false →
    (∀ ch n, d.place (t.addr.toNat % 2 ^ 52) = .dram ch n → d.dmaXlate g t kind = (d, .ok (t.addr.toNat % 2 ^ 52) 0 4096)) ∧
    (∀ n w o, d.place (t.addr.toNat % 2 ^ 52) = .spad n w o → d.dmaXlate g t kind = (d, .fault 4 0))) ∧
  (∀ (g : IoStopId) (t : Tlp) (s : State) (d1 : Dev) (r c : Nat), s.dev.portDead t.port.val = false → d1.fabric.waits = s.dev.fabric.waits →
    (s.dev.dmaXlate g.val t .load = (d1, .fault r c) →
      Completes (.inboundRead g t) s ((d1.dmaFault g.val r c t.rid t.addr).out (BitVec.allOnes 64) true)) ∧
    (s.dev.dmaXlate g.val t .store = (d1, .fault r c) → t.addr.toNat ≠ msgdbPa s.dev → s.dev.peerMsgdb t.addr.toNat = none →
      (∀ b, Completes (.inboundWrite g t b) s (d1.dmaFault g.val r c t.rid t.addr)) ∧
      ∀ k v w, t.len = 4 ∨ t.len = 8 →
        Completes (.atomicop g t k v w) s ((d1.dmaFault g.val r c t.rid t.addr).out (BitVec.allOnes 64) true))) ∧
  (∀ (d : Dev) (g reason code : Nat) (rid : Half) (a : Word), (d.dmaFault g reason code rid a).mem = d.mem ∧
    .wired (4128 + 2 * g) ∈ (d.dmaFault g reason code rid a).reports ∧
    (d.bit (.iosFault g) .IOS_FAULT_VALID = false → (d.dmaFault g reason code rid a).reg (.iosFaultAddr g) = a ∧
      (d.dmaFault g reason code rid a).fld (.iosFault g) .IOS_FAULT_RID = rid.toNat)) ∧
  (∀ (g : IoStopId) (t : Tlp) (s : State) (d1 d2 : Dev) (pa size ch n : Nat) (key : BitVec 11) (l : List Byte), s.dev.portDead t.port.val = false →
    s.dev.dmaXlate g.val t .load = (d1, .ok pa key size) → d1.place pa = .dram ch n →
    d1.readBytes (ioAgent g.val) key t.len pa t.len = (d2, l, false, false) → d2.fabric.waits = s.dev.fabric.waits →
    Completes (.inboundRead g t) s (d2.out (BitVec.ofNat 64 (leNat (l.take 8))) false)) ∧
  (∀ (g : IoStopId) (t : Tlp) (b : List Byte) (s : State) (d1 d2 : Dev) (pa size ch n : Nat) (key : BitVec 11), s.dev.portDead t.port.val = false →
    t.addr.toNat ≠ msgdbPa s.dev → s.dev.peerMsgdb t.addr.toNat = none → s.dev.dmaXlate g.val t .store = (d1, .ok pa key size) → d1.place pa = .dram ch n →
    d1.writeBytesAs (ioAgent g.val) key b.length pa b = (d2, false) → d2.fabric.waits = s.dev.fabric.waits →
    Completes (.inboundWrite g t b) s d2) ∧
  (∀ (g : IoStopId) (t : Tlp) (b : List Byte) (s : State) (d1 : Dev) (pa size g' o p : Nat) (cfg : Bool) (key : BitVec 11),
    s.dev.portDead t.port.val = false → t.addr.toNat ≠ msgdbPa s.dev → s.dev.peerMsgdb t.addr.toNat = none →
    s.dev.dmaXlate g.val t .store = (d1, .ok pa key size) → d1.place pa = .mmio d1.socket g' o → d1.mmioRes g' o b.length = .out p cfg →
    d1.fabric.waits = s.dev.fabric.waits →
    Completes (.inboundWrite g t b) s (d1.emit g' o p cfg true b.length (BitVec.ofNat 64 (leNat (b.take 8))))) ∧
  (∀ (g : IoStopId) (t : Tlp) (k : AtomicKind) (v w : Word) (s : State) (d1 d2 d3 : Dev) (pa size : Nat) (key : BitVec 11) (l : List Byte),
    s.dev.portDead t.port.val = false → t.len = 4 ∨ t.len = 8 → s.dev.dmaXlate g.val t .store = (d1, .ok pa key size) →
    d1.readBytes (ioAgent g.val) key t.len pa t.len = (d2, l, false, false) →
    d2.writeBytesAs (ioAgent g.val) key t.len pa (leBytes t.len (atomicRun k t.len (leNat l) v.toNat w.toNat)) = (d3, false) →
    d3.fabric.waits = s.dev.fabric.waits → Completes (.atomicop g t k v w) s (d3.out (BitVec.ofNat 64 (leNat l)) false)) ∧
  (∀ (n old v w : Nat), (n = 4 ∨ n = 8) → old < 2 ^ (8 * n) → v < 2 ^ (8 * n) → w < 2 ^ (8 * n) →
    atomicRun .fetchAdd n old v w = (old + v) % 2 ^ (8 * n) ∧ atomicRun .swap n old v w = v ∧
    atomicRun .cas n old v w = if old = w then v else old) ∧
  (∀ (g : IoStopId) (t : Tlp) (b : List Byte) (s : State), s.dev.portDead t.port.val = false → t.addr.toNat = msgdbPa s.dev → t.pasid = false →
    t.translated = false → s.dev.peerMsgdb t.addr.toNat = none → s.dev.bit (.iosCtxRoot g.val) .IOS_CTX_ROOT_EN = false →
    (b.length = 4 → leNat b < 2 ^ 20 → Does (.inboundWrite g t b) s (s.dev.fire false (leNat b) (some t.rid.toNat))) ∧
    (b.length ≠ 4 → Completes (.inboundWrite g t b) s (s.dev.countFld .evcStat .EVC_STAT_BADMSG 1)))

/-- Containment of a port isolates it, counts and reports it, and on the loss of its link takes it down; a release brings it up at its highest
rate. A request sent out ends with its completion, or with all ones when none comes, which AER then shows; windows and configuration space of an
unassigned port answer with an error or all ones, and others leave by their port or reach its header; a request of a caching device is served
by the line's home where its context permits, and refused with reason 6 without contexts; a root port's event raises its source (R303 to R305, R315 to R317,
R319, R320, R361). Completes: CONTAINMENT, CONTAINMENT_RELEASE, COMPLETION_TIMEOUT, INBOUND_COMPLETION, OUTBOUND_WINDOW_ACCESS,
CONFIGURATION_ACCESS, CXL_CACHE_REQUEST, ROOT_PORT_EVENT. -/
def Obligations.PortEvents : Prop :=
  (∀ (p : PortId) (why : ContainCause) (s : State), (s.dev.port p.val).assigned = false ∨ (s.dev.port p.val).contained = true →
    Completes (.containment p why) s s.dev) ∧
  (∀ (p : PortId) (why : ContainCause) (s : State), (s.dev.port p.val).assigned = true → (s.dev.port p.val).contained = false →
    (s.dev.port p.val).cxl = none → (s.dev.stop (stopOfPort p.val)).outs = [] → (s.dev.stop (stopOfPort p.val)).holders = [] →
    Leaves (.containment p why) s fun e => (e.port p.val).contained = true ∧
      ((e.port p.val).up = true ↔ (s.dev.port p.val).up = true ∧ why ≠ .linkDown ∧ why ≠ .abandoned) ∧
      e.fld (.iosStat (stopOfPort p.val)) .IOS_STAT_CONTAIN =
        min (s.dev.fld (.iosStat (stopOfPort p.val)) .IOS_STAT_CONTAIN + 1) (2 ^ (Fld.IOS_STAT_CONTAIN).width - 1) ∧
      (.error (412 + stopOfPort p.val) 0x30 p.val none none (containCode why)) ∈ e.reports ∧ e.mem = s.dev.mem ∧ e.cores = s.dev.cores) ∧
  (∀ (p : PortId) (s : State),
    ((s.dev.port p.val).contained = true → Gives (.containmentRelease p) s fun e => (e.port p.val).contained = false ∧ (e.port p.val).up = true ∧
      (e.port p.val).rate = (s.dev.port p.val).best) ∧
    ((s.dev.port p.val).contained = false → Becomes (.containmentRelease p) s s.dev)) ∧
  (∀ (g : IoStopId) (tag : Nat) (r : OutReq) (s : State), ((s.dev.stop g.val).outs.find? fun r => r.tag == tag) = some r →
    ((s.dev.fabric.txns.find? fun x => x.who == r.who && x.txid == r.txid) = none →
      (Leaves (.completionTimeout g tag) s fun e => e.outErr = false ∧ e.outWord = BitVec.ofNat 64 (2 ^ (8 * r.size) - 1) ∧
        (∀ x ∈ (e.stop g.val).outs, x.tag ≠ tag) ∧ (e.cfgHeld (stopOfPort r.port) (r.port % 16) 0x104).getLsbD 14 = true) ∧
      (∀ v, Gives (.inboundCompletion g tag v true false) s fun e => e.outErr = false ∧ e.outWord = BitVec.ofNat 64 (v.toNat % 2 ^ (8 * r.size)) ∧
        ∀ x ∈ (e.stop g.val).outs, x.tag ≠ tag) ∧
      (∀ v, r.config = false → Gives (.inboundCompletion g tag v false false) s fun e => e.outErr = true)) ∧
    (∀ t v, (s.dev.fabric.txns.find? fun x => x.who == r.who && x.txid == r.txid) = some t → r.write = false →
      Gives (.inboundCompletion g tag v true false) s fun e => ∃ m, (.data, m) ∈ e.fabric.net ∧ m.who = r.who ∧ m.txid = r.txid ∧
        m.sdata = BitVec.ofNat 64 (v.toNat % 2 ^ (8 * r.size)))) ∧
  (∀ (m : Msg) (w : Bool) (n g o : Nat) (s : State), inMmio m.addr.toNat = true → mmioOf m.addr.toNat = (s.dev.socket, g, o) → g < 8 →
    (inEcam o = false → (s.dev.beginTxn m (if w then .devwr else .devrd)).mmioRes g o n = .err →
      Becomes (.outboundWindowAccess m w n) s ((s.dev.beginTxn m (if w then .devwr else .devrd)).answer m w 0 true)) ∧
    (inEcam o = true → (s.dev.beginTxn m (if w then .devwr else .devrd)).mmioRes g o n = .ones →
      Completes (.configurationAccess m w n) s
        ((s.dev.beginTxn m (if w then .devwr else .devrd)).answer m w (BitVec.ofNat 64 (2 ^ (8 * n) - 1)) false))) ∧
  (∀ (m : Msg) (n g o p : Nat) (s : State), inMmio m.addr.toNat = true → mmioOf m.addr.toNat = (s.dev.socket, g, o) → g < 8 →
    let w := s.dev.beginTxn m .devwr
    let r := s.dev.beginTxn m .devrd
    (inEcam o = false → w.mmioRes g o n = .out p false →
      Becomes (.outboundWindowAccess m true n) s ((w.emit g o p false true n m.sdata).answer m true 0 false)) ∧
    (inEcam o = false → r.mmioRes g o n = .out p false →
      Becomes (.outboundWindowAccess m false n) s ((r.emit g o p false false n 0).outBegin g p m false false n)) ∧
    (inEcam o = true → w.mmioRes g o n = .out p true →
      Completes (.configurationAccess m true n) s ((w.emit g o p true true n m.sdata).outBegin g p m true true n)) ∧
    (inEcam o = true → r.mmioRes g o n = .out p true →
      Completes (.configurationAccess m false n) s ((r.emit g o p true false n 0).outBegin g p m true false n)) ∧
    ∀ dev k, inEcam o = true →
      (w.mmioRes g o n = .header dev k → Does (.configurationAccess m true n) s ((w.headerWrite g dev k n m.sdata).answer m true 0 false) ∧
        (k / 4 ≠ 6 → k / 4 ≠ 0x59 → k / 4 ≠ 0x5A →
          Completes (.configurationAccess m true n) s ((w.cfgWrite g dev k n m.sdata).answer m true 0 false))) ∧
      (r.mmioRes g o n = .header dev k → Completes (.configurationAccess m false n) s (r.answer m false (r.headerRead g dev k n) false))) ∧
  (∀ (h : CxlId) (t : Tlp) (q : CxlReq) (x : Line) (s : State) (p : Nat), s.dev.cxlPort h.val = some p →
    (s.dev.portDead p = true ∨ (s.dev.port p).caches = false → Completes (.cxlCacheRequest h t q x) s s.dev) ∧
    (s.dev.portDead p = false → (s.dev.port p).caches = true → s.dev.bit (.iosCtxRoot (stopOfPort p)) .IOS_CTX_ROOT_EN = false →
      Completes (.cxlCacheRequest h t q x) s ((s.dev.dmaFault (stopOfPort p) 6 0 t.rid t.addr).out 0 true))) ∧
  (∀ (h : CxlId) (t : Tlp) (q : CxlReq) (x : Line) (s : State) (p : Nat) (c : CtxEntry) (d1 d2 : Dev) (r : HomeRes) (o : Opc),
    s.dev.cxlPort h.val = some p → s.dev.portDead p = false → (s.dev.port p).caches = true →
    s.dev.bit (.iosCtxRoot (stopOfPort p)) .IOS_CTX_ROOT_EN = true → s.dev.context (stopOfPort p) t.rid = (d1, some c) → c.cache = true → c.mode = 1 →
    d1.walkable (t.addr.toNat % 2 ^ 52) = true → cxlOpc q = some o →
    d1.homeServe o (.cxl h) (t.addr.toNat % 2 ^ 52 / 64) c.key x fullMask false = (d2, r) → d2.fabric.waits = s.dev.fabric.waits →
    Completes (.cxlCacheRequest h t q x) s ((if (o = .iow ∨ o = .rdo ∨ o = .upg) ∧ r.got.err = false
      then d2.noteOutside none (t.addr.toNat % 2 ^ 52 / 64) else d2).out (r.got.data.truncate 64) r.got.err)) ∧
  (∀ (k : Skein) (ev : RootPortEvent) (s : State),
    ((∃ j, j < 4 ∧ (s.dev.port (4 * k.val + j)).assigned = true) → Completes (.rootPortEvent k ev) s (s.dev.wire (4144 + k.val))) ∧
    ((∀ j, j < 4 → (s.dev.port (4 * k.val + j)).assigned = false) → Completes (.rootPortEvent k ev) s s.dev))

/-- A flit of another generation is counted late; one that is damaged or out of order is answered by a NAK; one in order advances the sequence and frees
what it acknowledges, and a NAK in it makes the rest go out again. A keep-alive takes the next number; a silent link retrains with a new GEN; training ends
with the link up, its credits and numbers as at the start, and what had been started sent again once, or down; a retried transaction is performed
once, and its response sent again; one that times out ends with an error and poison (R324 to R328). The manager drives TIME_SYNC at the
time it announced, and announces the next; a worker that has seen one edge takes the difference to be gained or lost, and the first edge sets its time base
(R22, R331). The shares of the budget stay within it; a worker without an allocation falls back to an equal one; a worker that
is released completes its cast-on (R330, R332). Completes: BRIXNIL_FLIT, KEEP_ALIVE, BRIXNIL_LINK_TIMEOUT, BRIXNIL_RETRAIN_DONE, RETRY,
RETRIED_TRANSACTION_TIMEOUT, TIME_SYNC_DRIVE, TIME_SYNC, ALLOCATION_TIMEOUT, BOARD_BUDGET_SPLIT, WORKER_RELEASE. -/
def Obligations.Board : Prop :=
  ((∀ (k : BrxId) (f : BrxFlit) (s : State), (s.dev.link k.val).up = false → (s.dev.link k.val).retrain = false →
    Completes (.brixnilFlit k f) s s.dev) ∧
  (∀ (k : BrxId) (f : BrxFlit) (s : State), (s.dev.link k.val).up = true →
    let gen := s.dev.fld (.sknBrx (skeinOfLink k.val)) .SKN_BRX_GEN
    let kept := (s.dev.link k.val).buffer.filter fun q => decide (0 < (q.1 - f.ack).toNat) && decide ((q.1 - f.ack).toNat < 2048)
    (f.crcOk = true → f.gen.toNat ≠ gen → Completes (.brixnilFlit k f) s (s.dev.countFld (.sknBrx (skeinOfLink k.val)) .SKN_BRX_LATE 1)) ∧
    (f.crcOk = false ∨ (f.gen.toNat = gen ∧ f.seq ≠ (s.dev.link k.val).rxSeq) → (s.dev.link k.val).nakSeq = (s.dev.link k.val).rxSeq →
      (s.dev.link k.val).naks < 7 →
      Leaves (.brixnilFlit k f) s fun e => (e.link k.val).rxSeq = (s.dev.link k.val).rxSeq ∧ (e.link k.val).naks = (s.dev.link k.val).naks + 1 ∧
        (e.link k.val).txSeq = (s.dev.link k.val).txSeq + 1) ∧
    (f.crcOk = true → f.gen.toNat = gen → f.seq = (s.dev.link k.val).rxSeq → f.packets = [] → (s.dev.link k.val).queue = [] →
      (f.nak = false → Leaves (.brixnilFlit k f) s fun e => (e.link k.val).rxSeq = (s.dev.link k.val).rxSeq + 1 ∧ (e.link k.val).naks = 0 ∧
        (e.link k.val).buffer = kept ∧ e.outMsgs = s.dev.outMsgs) ∧
      (f.nak = true → (s.dev.link k.val).gotNaks < 7 → Leaves (.brixnilFlit k f) s fun e => (e.link k.val).rxSeq = (s.dev.link k.val).rxSeq + 1 ∧
        (e.link k.val).buffer = kept ∧ e.outMsgs = s.dev.outMsgs ++ kept.filterMap (fun q => q.2.map fun p => (p.1, p.2.1)) ∧
        e.fld (.sknBrx (skeinOfLink k.val)) .SKN_BRX_REPLAY =
          min (s.dev.fld (.sknBrx (skeinOfLink k.val)) .SKN_BRX_REPLAY + kept.length) (2 ^ (Fld.SKN_BRX_REPLAY).width - 1)))) ∧
  (∀ (k : BrxId) (s : State), (s.dev.link k.val).up = true → (s.dev.link k.val).retrain = false →
    (Gives (.keepAlive k) s fun e => (e.link k.val).txSeq = (s.dev.link k.val).txSeq + 1 ∧
      ((s.dev.link k.val).txSeq, none) ∈ (e.link k.val).buffer ∧ (e.link k.val).buffer.length ≤ max 256 (s.dev.link k.val).buffer.length ∧
      (e.link k.val).owed = []) ∧
    (Gives (.brixnilLinkTimeout k) s fun e => (e.link k.val).retrain = true ∧ (e.link k.val).buffer = [] ∧
      e.fld (.sknBrx (skeinOfLink k.val)) .SKN_BRX_GEN =
        (s.dev.fld (.sknBrx (skeinOfLink k.val)) .SKN_BRX_GEN + 1) % 2 ^ (Fld.SKN_BRX_GEN).width)) ∧
  (∀ (k : BrxId) (s : State), (s.dev.link k.val).retrain = true → (s.dev.link k.val).queue = [] →
    ((s.dev.link k.val).started = [] → (Leaves (.brixnilRetrainDone k true) s fun e => (e.link k.val).retrain = false ∧ (e.link k.val).up = true ∧
      (e.link k.val).credits = [64, 64, 64, 64] ∧ (e.link k.val).rxSeq = 0 ∧ (e.link k.val).txSeq = 0) ∧
      Leaves (.brixnilRetrainDone k false) s fun e => (e.link k.val).retrain = false ∧ (e.link k.val).up = false ∧
        ∃ t, ((s.dev.link k.val).peer, t) ∈ e.board.linkLost) ∧
    (∀ c : Crossing, (s.dev.link k.val).started = [c] → (s.dev.link k.val).resent = [] → 1 + opcLen c.opc { c.req with txid := c.txid } ≤ 64 →
      Leaves (.brixnilRetrainDone k true) s fun e => (e.link k.val).resent = [c.txid] ∧ (e.link k.val).started = [c] ∧
        e.outMsgs = s.dev.outMsgs ++ [(c.opc, { c.req with txid := c.txid })])) ∧
  (∀ (k : BrxId) (p : BrxPacket) (y : Proxied) (s : State), s.dev.proxiedBy k.val p.packet.txid = some y →
    (∀ (o : Opc) (r : Msg), y.resp = some (o, r) → s.dev.past y.at_ (us (8 * s.dev.od 0x4010 5 50)) = false → (s.dev.link k.val).up = true →
      (s.dev.link k.val).retrain = false → (s.dev.link k.val).queue = [] → 1 + opcLen o r ≤ (s.dev.link k.val).credits.getD (opcVc o) 0 →
      Leaves (.retry k p) s fun e => e.outMsgs = s.dev.outMsgs ++ [(o, r)] ∧ (e.link k.val).queue = []) ∧
    (y.resp = none → Completes (.retry k p) s s.dev)) ∧
  (∀ (k : BrxId) (p : BrxPacket) (s : State), s.dev.proxiedBy k.val p.packet.txid = none →
    Does (.retry k p) s (s.dev.inject k.val p) ∧
    (∀ c, isResponse p.opc = true → ((s.dev.link k.val).started.find? fun y => y.txid == p.packet.txid) = some c →
      Leaves (.retry k p) s fun e => (∀ y ∈ (e.link k.val).started, y.txid ≠ p.packet.txid) ∧
        (p.opc, { p.packet with who := c.req.who, txid := c.req.txid, dst := c.req.src }) ∈ e.fabric.net)) ∧
  (∀ (k : BrxId) (txid : Half) (x : Crossing) (s : State),
    ((s.dev.link k.val).started.find? fun y => y.txid == txid && (s.dev.link k.val).resent.contains txid) = some x →
    Leaves (.retriedTransactionTimeout k txid) s fun e => (∀ y ∈ (e.link k.val).started, y.txid ≠ txid) ∧
      (.err, { backOf x.req with rstat := 1, poison := true }) ∈ e.fabric.net ∧
      (.error (412 + stopOfLink k.val) 0x35 (stopOfLink k.val) none none 0) ∈ e.reports)) ∧
  ((∀ s : State, s.dev.pins.isManager = true →
    (s.dev.pins.syncSent = some s.dev.time → Gives .timeSyncDrive s fun e => e.pins.timeSync = some true ∧ e.time = s.dev.time ∧
      e.pins.syncSent = some (nextWrap s.dev.time) ∧
      ∀ n, n < 4 → n ≠ s.dev.socket → s.dev.sockUp n = true → (n, .time (nextWrap s.dev.time)) ∈ e.board.told) ∧
    (s.dev.pins.syncSent ≠ some s.dev.time → Becomes .timeSyncDrive s s.dev) ∧
    Becomes .timeSync s s.dev ∧ Completes .allocationTimeout s s.dev ∧ Completes .workerRelease s s.dev ∧
    ∀ l, Leaves (.boardBudgetSplit l) s fun e =>
      (((List.range 4).filter fun n => n == s.dev.socket || s.dev.sockUp n).map fun n => Tbl.get 0 n e.board.shares).sum ≤ s.dev.od 0x4022 0 2800 ∧
      ∀ n, n < 4 → n ≠ s.dev.socket → s.dev.sockUp n = true → (n, .share (Tbl.get 0 n e.board.shares)) ∈ e.board.told) ∧
  (∀ s : State, s.dev.pins.isManager = false →
    Becomes .timeSyncDrive s s.dev ∧
    (∀ l n, l[s.dev.socket]? = some n → Leaves (.boardBudgetSplit l) s fun e => e.gov.allocation = some n ∧ e.board = s.dev.board) ∧
    (∀ l, l[s.dev.socket]? = none → Completes (.boardBudgetSplit l) s s.dev) ∧
    (∀ t, s.dev.pins.syncSent = some t → s.dev.pins.syncFirst = false → Gives .timeSync s fun e =>
      e.time = t + BitVec.ofNat 64 (s.dev.od 0x4020 0 0) ∧ e.pins.syncFirst = true) ∧
    (∀ t, s.dev.pins.syncSent = some t → s.dev.pins.syncFirst = true → Gives .timeSync s fun e => e.time = s.dev.time ∧
      e.pins.syncAdjust = ((t + BitVec.ofNat 64 (s.dev.od 0x4020 0 0)).toNat : Int) - (s.dev.time.toNat : Int)) ∧
    (Leaves .allocationTimeout s fun e => e.gov.allocation = some (min (s.dev.od 0x2000 1 700) (s.dev.od 0x4022 0 2800 / max 1 s.dev.liveSockets))) ∧
    (s.dev.phase = .castOn → Leaves .workerRelease s fun e => e.phase = .running ∧ e.board.released = true ∧ e.mem = s.dev.mem) ∧
    (s.dev.phase ≠ .castOn → Completes .workerRelease s s.dev)))

/-! ### Data engines, instances, events -/

/-- A quantum of an engine's lane performs its operation's units on the descriptor that the lane has, as many as fit in its time, until the
descriptor ends or 16 KiB are consumed; a lane of another operation does nothing. A unit of COPY writes the bytes that it read, one of CRC32C takes them into the
sum, a fault ends the descriptor (R338, R341, R342, R346). The quantum's end frees the lane and completes what is finished, and where nothing else is
ready the descriptor goes on; a failed check runs the quantum again from its start, and a second one ends the descriptor with 0x0B (R348, R351). A quantum
whose accesses must wait for memory is made again later (log entry 106). Completes: COPY, FILL, COMPARE,
ZERO, CRC32C, SHA256, SHA512, GCM_ENC, GCM_DEC, XTS_ENC, XTS_DEC, DEFLATE, INFLATE, QUANTUM_END, QUANTUM_REPLAY. -/
def Obligations.EngineQuanta : Prop :=
  (∀ (i : Instr) (e : EngineId) (l : Lane) (units op : Nat) (step : Nat → EngStep) (s : State) (key : Nat) (c : EngCtx),
    engineOf i = some (e, l, units, op, step) → s.dev.isOn (domOfEngine e.val) = true → laneUp s.dev e.val l.val = true →
    laneQueue s.dev e.val l.val = some key → (s.dev.queue key).started = some c → c.done = false →
    (∀ (d : Dev) (x : EngCtx), descOp c.desc = op → quantumLoop (step (key / 64)) c.pos (min (max 1 units) 1025) s.dev c = (d, x) →
      d.fabric.waits = s.dev.fabric.waits → Completes i s (d.modCtx key fun _ => { x with done := true })) ∧
    (descOp c.desc ≠ op → Completes i s s.dev)) ∧
  (∀ (i : Instr) (e : EngineId) (l : Lane) (units op : Nat) (step : Nat → EngStep) (s : State) (key : Nat) (c : EngCtx),
    engineOf i = some (e, l, units, op, step) → s.dev.isOn (domOfEngine e.val) = true → laneUp s.dev e.val l.val = true →
    laneQueue s.dev e.val l.val = some key → (s.dev.queue key).started = some c → c.done = false → descOp c.desc = op → c.status.isSome = true →
    Leaves i s fun d => (d.queue key).started = some { c with done := true } ∧ d.mem = s.dev.mem ∧ d.cores = s.dev.cores) ∧
  (∀ (step : EngStep) (start n : Nat) (d : Dev) (c : EngCtx), start + 16384 ≤ c.pos → quantumLoop step start n d c = (d, c)) ∧
  (∀ (e i : Nat) (d d1 d2 : Dev) (c : EngCtx) (b : List Byte),
    d.engRead e i (min 64 (descLen c.desc - c.pos) / 64 + 2) (eaPlus (descSrc c.desc) c.pos) (min 64 (descLen c.desc - c.pos)) = (d1, b, none) →
    (d1.engWrite e i (b.length / 64 + 2) (eaPlus (descDst c.desc) c.pos) b = (d2, none) → copyStep e i d c = (d2, c.advance b.length 0)) ∧
    (crcStep e i d c).1 = d1 ∧ (crcStep e i d c).2.pos = c.pos + b.length ∧ (crcStep e i d c).2.st.crc = crc32c c.st.crc b) ∧
  (∀ (e i : Nat) (d d1 : Dev) (c : EngCtx) (b : List Byte) (x : EngEnd),
    d.engRead e i (min 64 (descLen c.desc - c.pos) / 64 + 2) (eaPlus (descSrc c.desc) c.pos) (min 64 (descLen c.desc - c.pos)) = (d1, b, some x) →
    copyStep e i d c = (d1, { c with status := some x })) ∧
  (∀ (e : EngineId) (l : Lane) (s : State) (key : Nat) (c : EngCtx), s.dev.isOn (domOfEngine e.val) = true →
    laneQueue s.dev e.val l.val = some key → (s.dev.queue key).started = some c →
    (c.done = false → Completes (.quantumEnd e l) s s.dev) ∧
    (∀ x d, c.done = true → c.status = some x →
      (((s.dev.laneFree e.val l.val).engComplete key c x).instDrained (key / 64)).laneNext e.val l.val = d → d.fabric.waits = s.dev.fabric.waits →
      Completes (.quantumEnd e l) s d) ∧
    (c.done = true → c.status = none → instState s.dev (key / 64) ≠ 4 → engChoose s.dev e.val = none → laneUp s.dev e.val l.val = true →
      Leaves (.quantumEnd e l) s fun d => laneQueue d e.val l.val = some key ∧
        (d.queue key).started = some { c with done := false, check := (c.pos, c.st), atStart := none, fails := 0 } ∧ d.mem = s.dev.mem)) ∧
  (∀ (e : EngineId) (l : Lane) (s : State) (key : Nat) (c : EngCtx),
    laneQueue s.dev e.val l.val = some key → (s.dev.queue key).started = some c →
    (c.fails = 0 → (s.dev.engine e.val).fails = [] → Leaves (.quantumReplay e l) s fun d => ∃ x : EngCtx, (d.queue key).started = some x ∧
      x.pos = c.check.1 ∧ x.st = c.check.2 ∧ x.status = c.atStart ∧ x.desc = c.desc ∧ x.done = c.atStart.isSome) ∧
    (c.fails ≠ 0 → Leaves (.quantumReplay e l) s fun d => ∃ x : EngCtx, (d.queue key).started = some x ∧ x.status = some (0x0B, 0, 0)))

/-- A doorbell to an engine that is On moves its ring's index, and one beyond the ring is counted and discarded; an engine that is Off takes
none; the instance commands go from FREE over
QUIESCED to ACTIVE and back by QUIESCE, and in any other state answer CSTAT 2; RESET and REMOVE of an instance that is not QUIESCED
answer CSTAT 1 and change nothing else; the mailbox bits are set by GO and cleared by ACK (R345, R351 to R353, R359, R373). EVC_MTINV
drops the cached route of its identifier; a write of a queue's base re-offers the sources that wait for it, as RESCAN does; a notice
that was held goes at the end of its window, and the window of a ring with none ends (R363, R368, R370). Completes: SQTAIL, CQHEAD,
ASSIGN, ENABLE, QUIESCE, ABORT, RESET, REMOVE, TXGO, TXACK, RXGO, RXACK, EVC_MTINV, RESCAN, EVC_EQ_BASE,
WATERMARK_NOTICE. -/
def Obligations.InstancesAndEvents : Prop :=
  ((∀ (i : InstId) (q : QId) (v : Word32) (s : State), s.dev.isOn (domOfEngine (i.val / 1024)) = true → q.val < instNq s.dev i.val →
    (2 ^ sLog s.dev i.val q.val < idxLevel v.toNat (sqHead s.dev i.val q.val) →
      Becomes (.sqtail i q v) s (s.dev.countFld (.instStat i.val) .INST_STAT_BADDB 1)) ∧
    (idxLevel v.toNat (sqHead s.dev i.val q.val) ≤ 2 ^ sLog s.dev i.val q.val →
      Gives (.sqtail i q v) s fun e => e.fld (.qDb i.val q.val) .Q_DB_SQTAIL = v.toNat) ∧
    Leaves (.cqhead i q v) s fun e => e.fld (.qDb i.val q.val) .Q_DB_CQHEAD = v.toNat) ∧
  (∀ (i : InstId) (q : QId) (v : Word32) (s : State), s.dev.isOff (domOfEngine (i.val / 1024)) = true →
    Becomes (.sqtail i q v) s s.dev ∧ ∀ j ∈ [Instr.cqhead i q v, .instAssign i, .instEnable i, .instQuiesce i, .instAbort i, .instReset i,
      .instRemove i, .txgo i, .txack i, .rxgo i, .rxack i], Completes j s s.dev) ∧
  (∀ (i : InstId) (q : QId) (v : Word32) (s : State), s.dev.isOn (domOfEngine (i.val / 1024)) = true → instNq s.dev i.val ≤ q.val →
    Becomes (.sqtail i q v) s s.dev ∧ Completes (.cqhead i q v) s s.dev) ∧
  (∀ (i : InstId) (s : State), s.dev.isOn (domOfEngine (i.val / 1024)) = true →
    (instState s.dev i.val = 0 → s.dev.fld (.denIctl i.val) .DEN_ICTL_NQ ≤ 64 → deviceRange (s.dev.fld (.denIsave i.val) .DEN_ISAVE_ADDR * 2048) = false →
      deviceRange (segBase (s.dev.reg (.denIseg i.val)) * 4096) = false → Leaves (.instAssign i) s fun e => instState e i.val = 1 ∧
        e.fld (.denIctl i.val) .DEN_ICTL_CSTAT = 0) ∧
    (instState s.dev i.val ≠ 0 → Leaves (.instAssign i) s fun e => instState e i.val = instState s.dev i.val ∧
      e.fld (.denIctl i.val) .DEN_ICTL_CSTAT = 2) ∧
    (instState s.dev i.val = 1 → Leaves (.instEnable i) s fun e => instState e i.val = 2) ∧
    (instState s.dev i.val ≠ 1 → (Leaves (.instEnable i) s fun e => e.fld (.denIctl i.val) .DEN_ICTL_CSTAT = 2) ∧
      Completes (.instReset i) s (s.dev.instCstat i.val 1) ∧ Completes (.instRemove i) s (s.dev.instCstat i.val 1)) ∧
    (instState s.dev i.val = 2 → s.dev.instStarted i.val = [] →
      (Leaves (.instQuiesce i) s fun e => instState e i.val = 1) ∧ (Leaves (.instAbort i) s fun e => instState e i.val = 1)) ∧
    (instState s.dev i.val ≠ 2 → Leaves (.instQuiesce i) s fun e => e.fld (.denIctl i.val) .DEN_ICTL_CSTAT = 2) ∧
    (instState s.dev i.val ≠ 2 → instState s.dev i.val ≠ 3 → Leaves (.instAbort i) s fun e => e.fld (.denIctl i.val) .DEN_ICTL_CSTAT = 2) ∧
    (instState s.dev i.val = 1 →
      (Leaves (.instReset i) s fun e => (∀ q, q < 64 → e.queue (64 * i.val + q) = QueueSt.reset) ∧ e.fld (.denIctl i.val) .DEN_ICTL_CSTAT = 0) ∧
      (Leaves (.instRemove i) s fun e => instState e i.val = 0 ∧ e.reg (.denIid i.val) = 0 ∧ e.reg (.denIseg i.val) = 0))) ∧
  (∀ (i : InstId) (s : State), s.dev.isOn (domOfEngine (i.val / 1024)) = true →
    (Leaves (.txgo i) s fun e => e.fld (.mboxCtl i.val) .MBOX_CTL_TXFULL = 1 ∧ .wired i.val ∈ e.reports) ∧
    (Leaves (.txack i) s fun e => e.fld (.mboxCtl i.val) .MBOX_CTL_TXFULL = 0 ∧ (s.dev.bit (.evcInstMsg i.val) .EVC_INST_MSG_EN = true →
      .message (s.dev.fld (.evcInstMsg i.val) .EVC_INST_MSG_BASE + 64) ∈ e.reports)) ∧
    (Leaves (.rxgo i) s fun e => e.fld (.mboxCtl i.val) .MBOX_CTL_RXFULL = 1 ∧ (s.dev.bit (.evcInstMsg i.val) .EVC_INST_MSG_EN = true →
      .message (s.dev.fld (.evcInstMsg i.val) .EVC_INST_MSG_BASE + 64) ∈ e.reports)) ∧
    (Leaves (.rxack i) s fun e => e.fld (.mboxCtl i.val) .MBOX_CTL_RXFULL = 0 ∧ .wired i.val ∈ e.reports))) ∧
  ((∀ (id : BitVec 20) (s : State), Gives (.evcMtinv id) s fun e =>
    ∀ p, p ∈ e.events.routes ↔ p ∈ s.dev.events.routes ∧ p.1 ≠ id.toNat) ∧
  (∀ (c : LCore) (s : State), (∀ n, s.dev.pend true n = false) → s.dev.events.msgPend = [] → Completes (.rescan c) s s.dev) ∧
  (∀ (c : LCore) (n : Nat) (w : Word) (d : Dev) (s : State), n < 4222 → (∀ m, s.dev.pend true m = decide (m = n)) → s.dev.events.msgPend = [] →
    s.dev.route true n = (d, .entry w) → bitF w 63 = true → bitF w 60 = false →
    s.dev.queueOf (getF w .EVC_WROUTE_TARGET % 256) = c.val → (s.dev.reoffer true n).events.msgPend = [] →
    (s.dev.reoffer true n).fabric.waits = s.dev.fabric.waits → Completes (.rescan c) s (s.dev.reoffer true n)) ∧
  (∀ (c : LCore) (v : Word) (s : State),
    let w := s.dev.putFields (.evcEqBase c.val) v (BitVec.allOnes 64)
    (w.eqInUse c.val = true → (w.rescan c.val).fabric.waits = s.dev.fabric.waits → Completes (.evcEqBase c v) s (w.rescan c.val)) ∧
    (w.eqInUse c.val = false ∨ ((∀ n, s.dev.pend true n = false) ∧ s.dev.events.msgPend = []) → Completes (.evcEqBase c v) s w)) ∧
  (∀ (r : Ring) (s : State),
    ((s.dev.notice r).held = true → Leaves (.watermarkNotice r) s fun e => e.notice r = ⟨some s.dev.time, false⟩) ∧
    ((s.dev.notice r).held = false → Leaves (.watermarkNotice r) s fun e => e.notice r = ⟨none, false⟩ ∧ e.reports = s.dev.reports)))

/-! ### Power, the governor, safety -/

/-- A request is recorded in REQ; a domain that may not be requested takes none; an idle domain with AUTO and no refuser is kept in
Retention, a refusal is counted with its code; Retention ends with the domain On; a domain that is asked for before it is sealed aborts
its entry; a unit of the chief steward goes Off when nothing is on it, and spare and failed cores stay Off (R14, R290, R299, R379 to
R385). A voltage transaction starts from PREV with BUSY = 1, moves by at most 5 mV a step, and ends with PREV at its target or, after a
reading more than 15 mV off, back at the previous one with ROLLBACK; a domain whose two readings agree with its setpoint passes the
open-wire test, and one whose wire fails loses its sense; a domain that was returned for its readings is failed only where they are
still wrong (R386 to R390). Completes: DOMAIN_REQUEST, AUTOMATIC_RETENTION, RETENTION_ENTRY, RETENTION_EXIT, OFF_ENTRY, WAKE_FROM_OFF,
ENTRY_ABORT, VOLTAGE_TRANSITION, VOLTAGE_STEP, OPEN_WIRE_TEST, DOMAIN_FAULT_CHECK. -/
def Obligations.Power : Prop :=
  ((∀ (k : DomId) (st : PowerState) (s : State), requestable k.val = false → Completes (.domainRequest k st) s s.dev) ∧
  (∀ (k : DomId) (s : State), requestable k.val = true → (s.dev.dom k.val).step = .settled →
    Leaves (.domainRequest k .on) s fun e => e.fld (.pwrDom k.val) .PWR_DOM_REQ = 0 ∧ (e.dom k.val).latest = some .on) ∧
  (∀ (k : DomId) (s : State), s.dev.bit (.pwrDom k.val) .PWR_DOM_AUTO = true → requestable k.val = true → s.dev.isOn k.val = true →
    s.dev.domIdle k.val = true → (s.dev.dom k.val).step = .settled →
    (s.dev.refuser k.val false = none → Leaves (.automaticRetention k) s fun e => e.power k.val = 1) ∧
    (∀ n, s.dev.refuser k.val false = some n → n < 8 → Leaves (.automaticRetention k) s fun e => e.power k.val = 0 ∧
      e.fld (.pwrDom k.val) .PWR_DOM_LASTREF = n)) ∧
  (∀ (k : DomId) (s : State), s.dev.bit (.pwrDom k.val) .PWR_DOM_AUTO = false → Completes (.automaticRetention k) s s.dev) ∧
  (∀ (k : DomId) (s : State), s.dev.isOn k.val = true →
    (requestable k.val = true → (s.dev.dom k.val).step = .drainRet → s.dev.domIdle k.val = true → (s.dev.dom k.val).latest = none →
      Leaves (.retentionEntry k) s fun e => e.power k.val = 1 ∧ (e.dom k.val).step = .settled) ∧
    (requestable k.val = false → s.dev.chiefRetains k.val = true → s.dev.refuser k.val false = none →
      Leaves (.retentionEntry k) s fun e => e.power k.val = 1) ∧
    Completes (.retentionExit k) s s.dev) ∧
  (∀ (k : DomId) (s : State), s.dev.power k.val = 1 → (s.dev.dom k.val).latest = none → (s.dev.dom k.val).step = .settled → 444 ≤ k.val → k.val < 448 →
    s.dev.power (domOfFabric (quadOfDom k.val)) = 0 → Leaves (.retentionExit k) s fun e => e.power k.val = 0) ∧
  (∀ (k : DomId) (s : State), 412 ≤ k.val → k.val < 444 → (s.dev.dom k.val).step = .settled →
    ((∀ j, j < 4 → (s.dev.port ((k.val - 412) * 4 + j)).assigned = false) → Leaves (.offEntry k) s fun e => e.power k.val = 2) ∧
    (∀ j, j < 4 → (s.dev.port ((k.val - 412) * 4 + j)).assigned = true → Completes (.offEntry k) s s.dev)) ∧
  (∀ (c : CoreId) (k : DomId) (s : State), k.val = c.val → (s.dev.dom c.val).step = .drainOff → s.dev.domIdle c.val = true →
    (s.dev.core c.val).storeBuf = [] → (s.dev.core c.val).l2 = [] → Leaves (.offEntry k) s fun e => e.power c.val = 2) ∧
  (∀ (k : DomId) (s : State), s.dev.isOff k.val = false → Completes (.wakeFromOff k) s s.dev) ∧
  (∀ (c : CoreId) (k : DomId) (s : State), k.val = c.val → s.dev.isOff c.val = true → s.dev.coreRole c.val ≠ 0 →
    Completes (.wakeFromOff k) s s.dev) ∧
  (∀ (k : DomId) (s : State), 444 ≤ k.val → k.val < 448 → s.dev.isOff k.val = true → s.dev.power (domOfFabric (quadOfDom k.val)) = 0 →
    s.dev.wakesNext k.val = true → Leaves (.wakeFromOff k) s fun e => e.power k.val = 0 ∧ (e.dom k.val).latest = none) ∧
  (∀ (k : DomId) (s : State), (s.dev.dom k.val).step = .settled → Completes (.entryAbort k) s s.dev) ∧
  (∀ (k : DomId) (s : State), sliceDom k.val = false → (s.dev.dom k.val).step = .drainRet ∨ (s.dev.dom k.val).step = .drainOff →
    Leaves (.entryAbort k) s fun e => (e.dom k.val).step = .settled ∧ e.fld (.pwrDom k.val) .PWR_DOM_LASTREF = 0)) ∧
  ((∀ (k : DomId) (mv : Nat) (s : State), s.dev.vBusy k.val = true → Becomes (.voltageTransition k mv) s (s.dev.choose k.val mv)) ∧
  (∀ (k : DomId) (mv : Nat) (s : State), s.dev.vBusy k.val = false → mv ≠ s.dev.vPrev k.val →
    mv < 2 ^ (Fld.PWR_VSET_TARGET).width →
    (s.dev.isOn k.val = false → Gives (.voltageTransition k mv) s fun e => e.vBusy k.val = false ∧ e.fld (.pwrVset k.val) .PWR_VSET_TARGET = mv) ∧
    (s.dev.isOn k.val = true → Gives (.voltageTransition k mv) s fun e => e.vBusy k.val = true ∧ e.fld (.pwrVset k.val) .PWR_VSET_TARGET = mv ∧
      (e.dom k.val).stepMv = s.dev.vPrev k.val ∧ e.vPrev k.val = s.dev.vPrev k.val)) ∧
  (∀ (k : DomId) (r : Nat) (s : State), s.dev.vBusy k.val = false → Becomes (.voltageStep k r) s s.dev) ∧
  (∀ (k : DomId) (r : Nat) (s : State), s.dev.vBusy k.val = true → Gives (.voltageStep k r) s fun e =>
    (e.dom k.val).stepMv ≤ (s.dev.dom k.val).stepMv + 5 ∧ (s.dev.dom k.val).stepMv ≤ (e.dom k.val).stepMv + 5) ∧
  (∀ (k : DomId) (s : State), s.dev.vBusy k.val = true → (s.dev.dom k.val).undo = false →
    let goal := s.dev.fld (.pwrVset k.val) .PWR_VSET_TARGET
    (s.dev.dom k.val).stepMv < goal → goal ≤ (s.dev.dom k.val).stepMv + 5 → goal ≤ 1000 → s.dev.gov.reef = false →
    (s.dev.dom k.val).cooling = false → (s.dev.dom k.val).owed = false →
    Gives (.voltageStep k goal) s fun e => e.vBusy k.val = false ∧ e.vPrev k.val = goal) ∧
  (∀ (k : DomId) (r : Nat) (s : State), s.dev.vBusy k.val = true → (s.dev.dom k.val).undo = false → r ≤ 500 →
    (s.dev.dom k.val).stepMv < s.dev.fld (.pwrVset k.val) .PWR_VSET_TARGET → 600 ≤ (s.dev.dom k.val).stepMv →
    Gives (.voltageStep k r) s fun e => (e.dom k.val).undo = true ∧ e.vBusy k.val = true) ∧
  (∀ (k : DomId) (f : SenseReport) (s : State), ivrDom k.val = true → f.wireFail = true → (s.dev.dom k.val).monitor = true →
    s.dev.bit (.pwrSense k.val) .PWR_SENSE_SFAULT = false → s.dev.power k.val ≠ 1 →
    Leaves (.openWireTest k f false) s fun e => e.fld (.pwrSense k.val) .PWR_SENSE_SFAULT = 1 ∧ e.fld (.pwrSense k.val) .PWR_SENSE_KIND = 1 ∧
      e.fld (.pwrDom k.val) .PWR_DOM_SFAULT = 1 ∧ (e.dom k.val).guard = true) ∧
  (∀ (k : DomId) (f : SenseReport) (o : Bool) (s : State), ivrDom k.val = true → f.wireFail = false →
    agrees f.senseMv (s.dev.setpoint k.val) = true → agrees f.dmonMv (s.dev.setpoint k.val) = true →
    Leaves (.openWireTest k f o) s fun e => e.reports = s.dev.reports ∧ e.fld (.pwrSense k.val) .PWR_SENSE_SFAULT =
      s.dev.fld (.pwrSense k.val) .PWR_SENSE_SFAULT ∧ (e.dom k.val).suspect = none) ∧
  (∀ (k : DomId) (s : State), (s.dev.dom k.val).suspect = none → ∀ b, Completes (.domainFaultCheck k b) s s.dev) ∧
  (∀ (k : DomId) (s : State), (s.dev.dom k.val).suspect.isSome = true → s.dev.fld (.pwrSense k.val) .PWR_SENSE_KIND = 3 →
    (Leaves (.domainFaultCheck k false) s fun e => e.fld (.pwrSense k.val) .PWR_SENSE_KIND = 0 ∧ (e.dom k.val).suspect = none) ∧
    (448 ≤ k.val → Completes (.domainFaultCheck k true) s ((s.dev.modDom k.val fun x => { x with suspect := none }).err 429 0x62 k.val))))

/-- The governor: a core's choice stays between floor and ceiling and is taken in Auto; an operator's prefetch levels stand in Hold; the
loops act on what exceeds their bounds, the fast one by withholding up to 12 issue slots, and leave what is within them; a hot slice is counted second by second; REEF_N shows in PWR_STAT at once, and its limit ends 1
ms after its release; a diode's reading shows in TJ (R160, R174, R387, R391 to R400). THERMTRIP and the chief steward's watchdog write a
fatal record and cut every domain without cast-off; FORCE_OFF sets both channels and casts off, and 1 ms later every domain is cut; a
disagreement shows at once, ends counted as near when it lasted three quarters of D, and latches a fault at D; a steward that restarts
is counted (R397, R402 to R406, R469). Completes: GOVERNOR_VOLTAGE, GOVERNOR_PREFETCH, FAST_LOOP, MEDIUM_LOOP, SLOW_LOOP,
SLICE_RATE_WINDOW, REEF_N_ASSERT, REEF_N_RELEASE, THERMAL_CONTROL, THERMTRIP, CHIEF_WATCHDOG, FORCE_OFF, FORCE_OFF_CUT, DISAGREEMENT_BEGIN,
DISAGREEMENT_END, DISCREPANCY_FAULT, STEWARD_RESTART. -/
def Obligations.GovernorAndSafety : Prop :=
  ((∀ (c : CoreId) (mv : Nat) (s : State), s.dev.isOn c.val = false ∨ s.dev.coreRole c.val ≠ 0 →
    Completes (.governorVoltage c mv) s s.dev ∧ ∀ a b, Completes (.governorPrefetch c a b) s s.dev) ∧
  (∀ (c : CoreId) (mv : Nat) (s : State), s.dev.isOn c.val = true → s.dev.coreRole c.val = 0 → s.dev.od 0x2001 0 0 = 0 →
    s.dev.vBusy c.val = false → (s.dev.dom c.val).guard = false → ∀ t, t = s.dev.coreTarget c.val (min (max mv (s.dev.od 0x2001 2 600)) (s.dev.od 0x2001 3 950)) →
    t ≠ s.dev.vPrev c.val → t < 2 ^ (Fld.PWR_VSET_TARGET).width →
    Leaves (.governorVoltage c mv) s fun e => e.vBusy c.val = true ∧ e.fld (.pwrVset c.val) .PWR_VSET_TARGET = t) ∧
  (∀ (c : CoreId) (a b : Nat) (s : State), s.dev.isOn c.val = true → s.dev.coreRole c.val = 0 → s.dev.od 0x2200 0 0 = 1 →
    Leaves (.governorPrefetch c a b) s fun e => e.reg (.corePrefetch c.val) = setF (s.dev.reg (.corePrefetch c.val)) ⟨15, 0⟩ (s.dev.od 0x2201 0 0x4202)) ∧
  (∀ (w a : Nat) (s : State), 100 * w ≤ 125 * s.dev.govLimit → a ≤ s.dev.od 0x2000 2 480 → 95 * 125 * s.dev.govLimit ≤ 10000 * w →
    Completes (.fastLoop w a) s s.dev.showLimits) ∧
  (∀ (w a : Nat) (s : State), 125 * s.dev.govLimit < 100 * w → s.dev.gov.fastThr < 12 →
    Leaves (.fastLoop w a) s fun e => s.dev.gov.fastThr < e.gov.fastThr ∧ e.gov.fastThr ≤ 12) ∧
  (∀ (w : Nat) (s : State), s.dev.od 0x2000 0 0 = 0 →
    (100 * s.dev.govLimit < 100 * w → Leaves (.slowLoop w) s fun e => e.gov.slowOn = true) ∧
    (110 * s.dev.govLimit < 100 * w → s.dev.gov.allocation = none → Leaves (.mediumLoop w) s fun e => e.gov.medOn = true)) ∧
  (∀ (w : Nat) (s : State), s.dev.od 0x2000 0 0 = 0 → s.dev.gov.slowOn = false → 100 * w ≤ 100 * s.dev.govLimit →
    Completes (.slowLoop w) s (if 10000 * w < 95 * 100 * s.dev.govLimit then s.dev.reefOver else s.dev).showLimits) ∧
  (∀ (w : Nat) (s : State), s.dev.od 0x2000 0 0 = 0 → s.dev.gov.medOn = false → 100 * w ≤ 110 * s.dev.govLimit → w < 2 ^ (Fld.PWR_STAT_P100).width →
    s.dev.gov.allocation = none → s.dev.gov.reefUntil = none ∨ 95 * 110 * s.dev.govLimit ≤ 10000 * w →
    Leaves (.mediumLoop w) s fun e => e.fld .pwrStat .PWR_STAT_P100 = w) ∧
  (∀ (a b : List Nat) (s : State), (s.dev.byNode 4 (fun ch => (s.dev.chan ch).inSet) b).any (hotIn (s.dev.od 0x2110 1 4)) = false →
    0 < s.dev.od 0x2110 2 10 →
    let nodes := s.dev.byNode 33 (fun n => s.dev.sliceRole n == 0 && !s.dev.isOff (domOfSlice n)) a
    (nodes.any (hotIn (s.dev.od 0x2110 1 4)) = false →
      Leaves (.sliceRateWindow a b) s fun e => e.hash.hotSecs = [] ∧ e.gov.chanHot = [] ∧ e.hash.queue = s.dev.hash.queue) ∧
    (∀ l, nodes = [l] → hotIn (s.dev.od 0x2110 1 4) l = true → Tbl.get 0 0 s.dev.hash.hotSecs + 1 < s.dev.od 0x2110 2 10 →
      Leaves (.sliceRateWindow a b) s fun e => Tbl.get 0 0 e.hash.hotSecs = Tbl.get 0 0 s.dev.hash.hotSecs + 1 ∧
        e.hash.queue = s.dev.hash.queue)) ∧
  (∀ s : State, s.dev.phase ≠ .running → Completes .reefNAssert s { s.dev with pins := { s.dev.pins with reefN := true } }) ∧
  (∀ s : State, s.dev.phase = .running → s.dev.liveCores = [] → Leaves .reefNAssert s fun e =>
    e.pins.reefN = true ∧ e.fld .pwrStat .PWR_STAT_REEFPIN = 1 ∧ e.gov.reef = true ∧ e.gov.reefUntil = none) ∧
  (∀ s : State, Gives .reefNRelease s fun e => e.pins.reefN = false ∧ e.fld .pwrStat .PWR_STAT_REEFPIN = 0 ∧
    e.gov.reefUntil = if s.dev.gov.reef then some (s.dev.time + 1000000) else none) ∧
  (∀ (k : DomId) (t : Int) (s : State), -40 ≤ t → t < (s.dev.od 0x1030 0 100 : Nat) → t ≤ 150 → (s.dev.dom k.val).cooling = false →
    Leaves (.thermalControl k [t]) s fun e => e.fld (.pwrSense k.val) .PWR_SENSE_TJ = (t % 256).toNat ∧ (e.dom k.val).celsius = [t]) ∧
  (∀ (k : DomId) (t : Int) (s : State), ivrDom k.val = true → -40 ≤ t → t ≤ 150 → (s.dev.od 0x1030 0 100 : Nat) ≤ t →
    Leaves (.thermalControl k [t]) s fun e => (e.dom k.val).cooling = true)) ∧
  ((∀ (l : List Int) (s : State),
    (s.dev.pins.vaux = true → (∃ t ∈ l, 125 ≤ t ∧ t ≤ 150) → s.dev.pins.thermTrip = false →
      Gives (.thermtrip l) s fun e => e.phase = .cut ∧ e.pins.thermTrip = true ∧ e.cores = [] ∧ ∀ k, k < 452 → e.power k = 2) ∧
    ((∀ t ∈ l, t < 125) → Becomes (.thermtrip l) s s.dev)) ∧
  (∀ s : State,
    (s.dev.pins.vaux = true → Gives .chiefWatchdog s fun e => e.phase = .cut ∧ e.cores = [] ∧ ∀ k, k < 452 → e.power k = 2) ∧
    (s.dev.pins.vaux = false → Becomes .chiefWatchdog s s.dev ∧ Becomes .forceOff s s.dev)) ∧
  (∀ s : State, s.dev.pins.vaux = true →
    (s.dev.phase = .running → Gives .forceOff s fun e => e.phase = .cut ∧ e.cores = []) ∧
    (s.dev.phase = .waiting → Gives .forceOff s fun e => e.pins.foA = true ∧ e.pins.foB = true ∧ e.pins.forceCut = some s.dev.time ∧ e.phase = .waiting)) ∧
  (∀ (b : Bool) (s : State),
    (s.dev.pins.vaux = true → Gives (.disagreementBegin b) s fun e => e.pins.foA = !b ∧ e.pins.foB = b ∧ e.pins.disagree = some s.dev.time ∧
      e.fld .pwrSafe .PWR_SAFE_DISAGREE = 1) ∧
    (s.dev.pins.vaux = false → Becomes (.disagreementBegin b) s s.dev)) ∧
  (∀ (b : Bool) (s : State), s.dev.pins.disagree = none → Becomes (.disagreementEnd b) s s.dev) ∧
  (∀ (s : State) (t : Word), s.dev.pins.disagree = some t →
    Gives (.disagreementEnd false) s fun e => e.pins.disagree = none ∧ e.pins.foA = false ∧ e.pins.foB = false ∧
      e.fld .pwrSafe .PWR_SAFE_DISAGREE = 0 ∧
      (e.od 0x8001 0 0 = if 3 * s.dev.discTime ≤ 4 * (s.dev.time.toNat - t.toNat) ∧ s.dev.time.toNat - t.toNat < s.dev.discTime
        then (s.dev.od 0x8001 0 0 + 1) % 2 ^ 32 else s.dev.od 0x8001 0 0)) ∧
  (∀ s : State,
    (s.dev.pins.disagree = none ∨ s.dev.pins.discLatch = true → Becomes .discrepancyFault s s.dev) ∧
    (s.dev.pins.disagree.isSome = true → s.dev.pins.discLatch = false → s.dev.phase = .running →
      Gives .discrepancyFault s fun e => e.phase = .cut ∧ e.pins.discLatch = true)) ∧
  (∀ s : State,
    (s.dev.pins.forceCut = none → Becomes .forceOffCut s s.dev) ∧
    (s.dev.pins.forceCut.isSome = true → Gives .forceOffCut s fun e => e.phase = .cut ∧ e.cores = [] ∧ ∀ k, k < 452 → e.power k = 2)) ∧
  (∀ (n : StwId) (s : State),
    (n.val < 64 → Leaves (.stewardRestart n) s fun e => e.fld (.stwStat n.val) .STW_STAT_RESTART =
      min (s.dev.fld (.stwStat n.val) .STW_STAT_RESTART + 1) (2 ^ (Fld.STW_STAT_RESTART).width - 1)) ∧
    (64 ≤ n.val → Completes (.stewardRestart n) s s.dev)))

/-! ### The object dictionary -/

/-- OPEN gives a token of its own to a session while fewer than eight are open, and answers status 5 when eight are; READ answers with
the entry's value from the offset, DESCRIBE with its description; STAGE of a value in range holds it; COMMIT stores every staged value
or, when a check fails, none; DISCARD_STAGED empties what is staged and CLOSE ends the session; an entry that is not there answers
status 1. A mailbox's request is served only while its page is BUSY. A session that times out and a transfer that stalls
lose what they staged; HFWCLOSE stays set (R410 to R421, R441, R444). Completes: OPEN, CLOSE, READ, STAGE, COMMIT, DISCARD_STAGED, DESCRIBE,
SESSION_TIMEOUT, TRANSFER_STALL, HFWCLOSE. -/
def Obligations.Dictionary : Prop :=
  (∀ (r : OdRequest) (s : State), s.dev.phase = .noAux → ∀ i ∈ [Instr.odOpen r, .odClose r, .odRead r, .odStage r, .odCommit r, .odDiscard r,
    .odDescribe r], Completes i s s.dev) ∧
  (∀ (r : OdRequest) (s : State), s.dev.phase = .running → r.socket.val = s.dev.socket → r.path ≠ .hostFw → r.token = 0 → odMalformed r 1 = false →
    s.dev.mailMeets r 1 = true →
    (s.dev.dict.sessions.length < 8 → (s.dev.dict.sessions.filter fun s => s.cls == .os).length < 4 →
      Leaves (.odOpen r) s fun e => e.dict.sessions.length = s.dev.dict.sessions.length + 1 ∧ e.dict.resp.map (·.status) = some 0 ∧
        ∃ x ∈ e.dict.sessions, x.cls = r.path ∧ x.staged = [] ∧ e.dict.resp.map (·.token) = some x.token ∧
          ∀ y ∈ s.dev.dict.sessions, y.token ≠ x.token) ∧
    (8 ≤ s.dev.dict.sessions.length → Leaves (.odOpen r) s fun e =>
      e.dict.sessions.length = s.dev.dict.sessions.length ∧ e.dict.resp.map (·.status) = some 5)) ∧
  (∀ (r : OdRequest) (s : State), r.path = .os → s.dev.bit (.odmMbCtl 1) .ODM_MB_CTL_BUSY = false → ∀ i ∈ [Instr.odOpen r, .odClose r, .odRead r,
    .odStage r, .odCommit r, .odDiscard r, .odDescribe r], Completes i s s.dev) ∧
  (∀ (r : OdRequest) (s : State) (x : Session),
    (Served s.dev r 2 x → Leaves (.odClose r) s fun e => (∀ y ∈ e.dict.sessions, y.token ≠ x.token) ∧ e.dict.resp.map (·.status) = some 0) ∧
    (Served s.dev r 6 x → Leaves (.odDiscard r) s fun e =>
      (∀ y ∈ e.dict.sessions, y.token = x.token → y.staged = []) ∧ e.dict.resp.map (·.status) = some 0) ∧
    (∀ n, odLookup r = .inl n → (Served s.dev r 3 x → Leaves (.odRead r) s fun e => e.dict.resp.map (·.status) = some n) ∧
      (Served s.dev r 4 x → Leaves (.odStage r) s fun e => e.dict.resp.map (·.status) = some n) ∧
      (Served s.dev r 7 x → Leaves (.odDescribe r) s fun e => e.dict.resp.map (·.status) = some n)) ∧
    (∀ (o : OdEntry) (y : Dev) (b : List Byte), Served s.dev r 3 x → odLookup r = .inr o → odMayRead r.path o.index = true → o.access ≠ 3 →
      o.long = true ∨ r.offset = 0 → s.dev.odRead o r.sub.toNat = (y, b) → r.offset ≤ b.length → Leaves (.odRead r) s fun e => e.dict.resp =
        some ⟨3, 0, r.index, r.sub, r.token, r.offset, b.length, (b.drop r.offset).take (if o.long then r.len else 224)⟩) ∧
    (∀ o : OdEntry, Served s.dev r 7 x → odLookup r = .inr o → odMayRead r.path o.index = true → Leaves (.odDescribe r) s fun e => e.dict.resp =
      some ⟨7, 0, r.index, r.sub, r.token, r.offset, 0, s.dev.describe o r.sub.toNat⟩) ∧
    (∀ o : OdEntry, Served s.dev r 4 x → odLookup r = .inr o → o.access ≠ 1 → o.access ≠ 5 → odMayWrite s.dev r.path o.index = true → o.long = false →
      r.offset = 0 → r.len = odWidth o.type → r.data.length = r.len → x.staged = [] →
      (s.dev.odRange o r.sub.toNat (leNat r.data) = true → Leaves (.odStage r) s fun e => e.dict.resp.map (·.status) = some 0 ∧
        ∀ y ∈ e.dict.sessions, y.token = x.token → y.staged = [⟨odKey o.index r.sub.toNat, r.data, s.dev.dict.commits⟩]) ∧
      (s.dev.odRange o r.sub.toNat (leNat r.data) = false → Leaves (.odStage r) s fun e => e.dict.resp.map (·.status) = some 3 ∧
        e.dict.num = s.dev.dict.num)) ∧
    (∀ (key n : Nat), Served s.dev r 5 x → n ≠ 6 → n ≠ 0 → x.staged ≠ [] →
      s.dev.odCheck x.token (sortStaged x.staged) = some (key, n) →
      Leaves (.odCommit r) s fun e => e.dict.resp.map (·.status) = some n ∧ e.dict.num = s.dev.dict.num) ∧
    (∀ d1 : Dev, Served s.dev r 5 x → (x.staged.all fun t => t.key != odKey 0x1000 0) = true →
      ((sortStaged x.staged).all fun t => t.key != odKey 0x1000 0) = true →
      s.dev.odCheck x.token (sortStaged x.staged) = none → odCross (s.dev.odAfter (sortStaged x.staged)) = none →
      s.dev.odStore (sortStaged x.staged) = (d1, true) → Leaves (.odCommit r) s fun e => e.dict.resp.map (·.status) = some 0 ∧
        ∀ (t : Staged) (o : OdEntry) (n : Nat), x.staged = [t] → odFind (t.key / 256) (t.key % 256) = some o → o.long = false → o.access ≠ 3 →
          (o.effect ≠ 0 ∧ t.key / 256 ≠ 0x3010) ∨ t.key / 256 = 0x0210 ∨ t.key / 256 = 0x0220 → e.od (t.key / 256) (t.key % 256) n = leNat t.bytes)) ∧
  (∀ (t : Word32) (s : State), Gives (.sessionTimeout t) s fun e => ∀ x, x ∈ e.dict.sessions ↔ x ∈ s.dev.dict.sessions ∧ x.token ≠ t) ∧
  (∀ (n : SockId) (s : State),
    (n.val = s.dev.socket → Gives (.transferStall n) s fun e => ∀ x ∈ e.dict.sessions, x.cls = .bmc → x.staged = []) ∧
    (n.val ≠ s.dev.socket → Becomes (.transferStall n) s s.dev)) ∧
  (∀ s : State, Gives .hfwclose s fun e => e.fld .odmCtl .ODM_CTL_HFWCLOSE = 1)

/-! ### Cast-on, cast-off, the persistent log -/

/-- VAUX starts the time base at 0; cast-on begins where the device waits for it, a cold one at step 1, which a FORCE_OFF channel or a
latched fault holds, and a warm one at step 2; without a firmware source that passes its checks it halts with the ROM dictionary;
cast-off leaves every domain Off and the device waiting or halted by its cause; RESET_N and the loss of PWR_GOOD cut every domain at
once; the loss of VAUX leaves what MRAM holds. A write of the persistent log, at most one a second, empties the pending store, and one that
fails keeps it but for the records of codes 0x82 and 0x83
(R22, R402, R425, R433 to R440, R453). Completes: VAUX_UP, VAUX_LOSS, CAST_ON, CAST_OFF, RESET_N, PWR_GOOD_LOSS, PERSISTENT_LOG_WRITE. -/
def Obligations.CastOnOff : Prop :=
  (∀ s : State,
    (s.dev.phase = .noAux → Gives .vauxUp s fun e => e.phase = .waiting ∧ e.time = 0 ∧ e.pins.vaux = true ∧ e.dict = s.dev.dict) ∧
    (s.dev.phase ≠ .noAux → Becomes .vauxUp s s.dev)) ∧
  (∀ (k : CastOnInput) (s : State),
    (s.dev.phase ≠ .waiting → s.dev.phase ≠ .step1Held → Completes (.castOn k) s s.dev) ∧
    (s.dev.phase = .waiting ∨ s.dev.phase = .step1Held → s.dev.dict.resetReq ≠ some 2 →
      ((s.dev.castStep1 k).heldAtStep1 = true → Leaves (.castOn k) s fun e => e.phase = .step1Held ∧ e.time = 0) ∧
      ((s.dev.castStep1 k).heldAtStep1 = false → ((s.dev.castStep1 k).castFrom2 k false).fabric.waits = s.dev.fabric.waits →
        Completes (.castOn k) s ((s.dev.castStep1 k).castFrom2 k false))) ∧
    (s.dev.phase = .waiting → s.dev.dict.resetReq = some 2 →
      ((s.dev.castFrom2 k true).fabric.waits = s.dev.fabric.waits → Completes (.castOn k) s (s.dev.castFrom2 k true)) ∧
      (k.chiefOk = false → Completes (.castOn k) s ((s.dev.clearFor true).castHalt 2 .halted)) ∧
      ∀ d2 : Dev, k.chiefOk = true → ((s.dev.clearFor true).openStore true).chooseFw k = (d2, none) → d2.fabric.waits = s.dev.fabric.waits →
        Completes (.castOn k) s (d2.castHalt 3 .romDict))) ∧
  (∀ (d d2 : Dev) (k : CastOnInput) (warm : Bool), k.chiefOk = true → ((d.clearFor warm).openStore warm).chooseFw k = (d2, none) →
    (d.castFrom2 k warm).phase = .romDict) ∧
  (∀ (why : CastOffCause) (s : State),
    (s.dev.phase = .running → Leaves (.castOff why) s fun e => e.cores = [] ∧ (∀ n, n < 452 → e.power n = 2) ∧
      e.phase = (match why with
        | .forceOff | .discrepancy => .cut
        | .coldReset => .waiting
        | _ => .halted)) ∧
    (s.dev.phase ≠ .running → Completes (.castOff why) s s.dev)) ∧
  (∀ s : State,
    (s.dev.phase ≠ .noAux →
      (Gives .resetN s fun e => e.phase = .waiting ∧ e.pins.resetN = false ∧ e.pins.pwrGood = s.dev.pins.pwrGood ∧ e.cores = [] ∧
        ∀ n, n < 452 → e.power n = 2) ∧
      (Gives .pwrGoodLoss s fun e => e.phase = .waiting ∧ e.pins.pwrGood = false ∧ e.pins.resetN = s.dev.pins.resetN ∧ e.cores = []) ∧
      Gives .vauxLoss s fun e => e.phase = .noAux ∧ e.cores = [] ∧ e.mem = [] ∧ e.errs.slots = s.dev.errs.slots ∧
        e.dict.settings = s.dev.dict.settings ∧ e.dict.golden = s.dev.dict.golden) ∧
    (s.dev.phase = .noAux → ∀ i ∈ [Instr.resetN, .pwrGoodLoss, .vauxLoss], Becomes i s s.dev)) ∧
  (∀ (ok : Bool) (s : State), s.dev.errs.pend = [] → Completes (.persistentLogWrite ok) s s.dev) ∧
  (∀ (ok : Bool) (t : Word) (s : State), s.dev.errs.wroteAt = some t → s.dev.past t (ms 1000) = false →
    Completes (.persistentLogWrite ok) s s.dev) ∧
  (∀ s : State, s.dev.errs.pend ≠ [] → (∀ t, s.dev.errs.wroteAt = some t → s.dev.past t (ms 1000) = true) →
    (Leaves (.persistentLogWrite true) s fun e => e.errs.pend = [] ∧
      e.errs.written = s.dev.errs.written + BitVec.ofNat 32 s.dev.errs.pend.length) ∧
    Leaves (.persistentLogWrite false) s fun e => e.errs.pend = (s.dev.errs.pend.filter fun r => r.code != 0x82 && r.code != 0x83) ∧
      e.errs.slots = s.dev.errs.slots ∧ e.dict.errlog.fault = true)

/-! ### Encodings and invariants -/

/-- Decoding what an instruction encodes to gives the instruction, with every operand at every value that its encoding admits. -/
def Obligations.DecodeEncode : Prop :=
  ∀ (i : Instr) (x : Ctx) (opc low : Nat) (w : Word32), i.fields = some (x, opc, low) → i.wf = true → i.encode = some w →
    decodeWord x.core w = some i

/-- Every command keeps memory in its canonical form: addresses strictly rise and no byte equals what an unlisted address reads as. -/
def Obligations.MemoryCanonical : Prop :=
  ∀ (s t : State), s.Canonical → step s = .next t → t.Canonical
end

