-- ==== Sys2Proof/Laws/State.lean ====
section
/-! SUPPORT. What each named update of the device changes: one lemma for each update and each field that it leaves alone. -/

namespace Sys2Proof.Machine

/-! ### `Dev.setCore` -/

@[simp] theorem Dev.setCore_phase (d : Dev) (c : Nat) (k : Core) : (d.setCore c k).phase = d.phase := rfl
@[simp] theorem Dev.setCore_pins (d : Dev) (c : Nat) (k : Core) : (d.setCore c k).pins = d.pins := rfl
@[simp] theorem Dev.setCore_time (d : Dev) (c : Nat) (k : Core) : (d.setCore c k).time = d.time := rfl
@[simp] theorem Dev.setCore_freeCtr (d : Dev) (c : Nat) (k : Core) : (d.setCore c k).freeCtr = d.freeCtr := rfl
@[simp] theorem Dev.setCore_csr (d : Dev) (c : Nat) (k : Core) : (d.setCore c k).csr = d.csr := rfl
@[simp] theorem Dev.setCore_slices (d : Dev) (c : Nat) (k : Core) : (d.setCore c k).slices = d.slices := rfl
@[simp] theorem Dev.setCore_hash (d : Dev) (c : Nat) (k : Core) : (d.setCore c k).hash = d.hash := rfl
@[simp] theorem Dev.setCore_mem (d : Dev) (c : Nat) (k : Core) : (d.setCore c k).mem = d.mem := rfl
@[simp] theorem Dev.setCore_lines (d : Dev) (c : Nat) (k : Core) : (d.setCore c k).lines = d.lines := rfl
@[simp] theorem Dev.setCore_zclear (d : Dev) (c : Nat) (k : Core) : (d.setCore c k).zclear = d.zclear := rfl
@[simp] theorem Dev.setCore_keys (d : Dev) (c : Nat) (k : Core) : (d.setCore c k).keys = d.keys := rfl
@[simp] theorem Dev.setCore_chans (d : Dev) (c : Nat) (k : Core) : (d.setCore c k).chans = d.chans := rfl
@[simp] theorem Dev.setCore_panels (d : Dev) (c : Nat) (k : Core) : (d.setCore c k).panels = d.panels := rfl
@[simp] theorem Dev.setCore_fabric (d : Dev) (c : Nat) (k : Core) : (d.setCore c k).fabric = d.fabric := rfl
@[simp] theorem Dev.setCore_ports (d : Dev) (c : Nat) (k : Core) : (d.setCore c k).ports = d.ports := rfl
@[simp] theorem Dev.setCore_stops (d : Dev) (c : Nat) (k : Core) : (d.setCore c k).stops = d.stops := rfl
@[simp] theorem Dev.setCore_brx (d : Dev) (c : Nat) (k : Core) : (d.setCore c k).brx = d.brx := rfl
@[simp] theorem Dev.setCore_engines (d : Dev) (c : Nat) (k : Core) : (d.setCore c k).engines = d.engines := rfl
@[simp] theorem Dev.setCore_queues (d : Dev) (c : Nat) (k : Core) : (d.setCore c k).queues = d.queues := rfl
@[simp] theorem Dev.setCore_events (d : Dev) (c : Nat) (k : Core) : (d.setCore c k).events = d.events := rfl
@[simp] theorem Dev.setCore_doms (d : Dev) (c : Nat) (k : Core) : (d.setCore c k).doms = d.doms := rfl
@[simp] theorem Dev.setCore_gov (d : Dev) (c : Nat) (k : Core) : (d.setCore c k).gov = d.gov := rfl
@[simp] theorem Dev.setCore_dict (d : Dev) (c : Nat) (k : Core) : (d.setCore c k).dict = d.dict := rfl
@[simp] theorem Dev.setCore_errs (d : Dev) (c : Nat) (k : Core) : (d.setCore c k).errs = d.errs := rfl
@[simp] theorem Dev.setCore_reports (d : Dev) (c : Nat) (k : Core) : (d.setCore c k).reports = d.reports := rfl
@[simp] theorem Dev.setCore_board (d : Dev) (c : Nat) (k : Core) : (d.setCore c k).board = d.board := rfl
@[simp] theorem Dev.setCore_outWord (d : Dev) (c : Nat) (k : Core) : (d.setCore c k).outWord = d.outWord := rfl
@[simp] theorem Dev.setCore_outErr (d : Dev) (c : Nat) (k : Core) : (d.setCore c k).outErr = d.outErr := rfl
@[simp] theorem Dev.setCore_outMsgs (d : Dev) (c : Nat) (k : Core) : (d.setCore c k).outMsgs = d.outMsgs := rfl

/-! ### `Dev.modCore` -/

@[simp] theorem Dev.modCore_phase (d : Dev) (c : Nat) (f : Core → Core) : (d.modCore c f).phase = d.phase := rfl
@[simp] theorem Dev.modCore_pins (d : Dev) (c : Nat) (f : Core → Core) : (d.modCore c f).pins = d.pins := rfl
@[simp] theorem Dev.modCore_time (d : Dev) (c : Nat) (f : Core → Core) : (d.modCore c f).time = d.time := rfl
@[simp] theorem Dev.modCore_freeCtr (d : Dev) (c : Nat) (f : Core → Core) : (d.modCore c f).freeCtr = d.freeCtr := rfl
@[simp] theorem Dev.modCore_csr (d : Dev) (c : Nat) (f : Core → Core) : (d.modCore c f).csr = d.csr := rfl
@[simp] theorem Dev.modCore_slices (d : Dev) (c : Nat) (f : Core → Core) : (d.modCore c f).slices = d.slices := rfl
@[simp] theorem Dev.modCore_hash (d : Dev) (c : Nat) (f : Core → Core) : (d.modCore c f).hash = d.hash := rfl
@[simp] theorem Dev.modCore_mem (d : Dev) (c : Nat) (f : Core → Core) : (d.modCore c f).mem = d.mem := rfl
@[simp] theorem Dev.modCore_lines (d : Dev) (c : Nat) (f : Core → Core) : (d.modCore c f).lines = d.lines := rfl
@[simp] theorem Dev.modCore_zclear (d : Dev) (c : Nat) (f : Core → Core) : (d.modCore c f).zclear = d.zclear := rfl
@[simp] theorem Dev.modCore_keys (d : Dev) (c : Nat) (f : Core → Core) : (d.modCore c f).keys = d.keys := rfl
@[simp] theorem Dev.modCore_chans (d : Dev) (c : Nat) (f : Core → Core) : (d.modCore c f).chans = d.chans := rfl
@[simp] theorem Dev.modCore_panels (d : Dev) (c : Nat) (f : Core → Core) : (d.modCore c f).panels = d.panels := rfl
@[simp] theorem Dev.modCore_fabric (d : Dev) (c : Nat) (f : Core → Core) : (d.modCore c f).fabric = d.fabric := rfl
@[simp] theorem Dev.modCore_ports (d : Dev) (c : Nat) (f : Core → Core) : (d.modCore c f).ports = d.ports := rfl
@[simp] theorem Dev.modCore_stops (d : Dev) (c : Nat) (f : Core → Core) : (d.modCore c f).stops = d.stops := rfl
@[simp] theorem Dev.modCore_brx (d : Dev) (c : Nat) (f : Core → Core) : (d.modCore c f).brx = d.brx := rfl
@[simp] theorem Dev.modCore_engines (d : Dev) (c : Nat) (f : Core → Core) : (d.modCore c f).engines = d.engines := rfl
@[simp] theorem Dev.modCore_queues (d : Dev) (c : Nat) (f : Core → Core) : (d.modCore c f).queues = d.queues := rfl
@[simp] theorem Dev.modCore_events (d : Dev) (c : Nat) (f : Core → Core) : (d.modCore c f).events = d.events := rfl
@[simp] theorem Dev.modCore_doms (d : Dev) (c : Nat) (f : Core → Core) : (d.modCore c f).doms = d.doms := rfl
@[simp] theorem Dev.modCore_gov (d : Dev) (c : Nat) (f : Core → Core) : (d.modCore c f).gov = d.gov := rfl
@[simp] theorem Dev.modCore_dict (d : Dev) (c : Nat) (f : Core → Core) : (d.modCore c f).dict = d.dict := rfl
@[simp] theorem Dev.modCore_errs (d : Dev) (c : Nat) (f : Core → Core) : (d.modCore c f).errs = d.errs := rfl
@[simp] theorem Dev.modCore_reports (d : Dev) (c : Nat) (f : Core → Core) : (d.modCore c f).reports = d.reports := rfl
@[simp] theorem Dev.modCore_board (d : Dev) (c : Nat) (f : Core → Core) : (d.modCore c f).board = d.board := rfl
@[simp] theorem Dev.modCore_outWord (d : Dev) (c : Nat) (f : Core → Core) : (d.modCore c f).outWord = d.outWord := rfl
@[simp] theorem Dev.modCore_outErr (d : Dev) (c : Nat) (f : Core → Core) : (d.modCore c f).outErr = d.outErr := rfl
@[simp] theorem Dev.modCore_outMsgs (d : Dev) (c : Nat) (f : Core → Core) : (d.modCore c f).outMsgs = d.outMsgs := rfl

/-! ### `Dev.modArch` -/

@[simp] theorem Dev.modArch_phase (d : Dev) (c : Nat) (f : Arch → Arch) : (d.modArch c f).phase = d.phase := rfl
@[simp] theorem Dev.modArch_pins (d : Dev) (c : Nat) (f : Arch → Arch) : (d.modArch c f).pins = d.pins := rfl
@[simp] theorem Dev.modArch_time (d : Dev) (c : Nat) (f : Arch → Arch) : (d.modArch c f).time = d.time := rfl
@[simp] theorem Dev.modArch_freeCtr (d : Dev) (c : Nat) (f : Arch → Arch) : (d.modArch c f).freeCtr = d.freeCtr := rfl
@[simp] theorem Dev.modArch_csr (d : Dev) (c : Nat) (f : Arch → Arch) : (d.modArch c f).csr = d.csr := rfl
@[simp] theorem Dev.modArch_slices (d : Dev) (c : Nat) (f : Arch → Arch) : (d.modArch c f).slices = d.slices := rfl
@[simp] theorem Dev.modArch_hash (d : Dev) (c : Nat) (f : Arch → Arch) : (d.modArch c f).hash = d.hash := rfl
@[simp] theorem Dev.modArch_mem (d : Dev) (c : Nat) (f : Arch → Arch) : (d.modArch c f).mem = d.mem := rfl
@[simp] theorem Dev.modArch_lines (d : Dev) (c : Nat) (f : Arch → Arch) : (d.modArch c f).lines = d.lines := rfl
@[simp] theorem Dev.modArch_zclear (d : Dev) (c : Nat) (f : Arch → Arch) : (d.modArch c f).zclear = d.zclear := rfl
@[simp] theorem Dev.modArch_keys (d : Dev) (c : Nat) (f : Arch → Arch) : (d.modArch c f).keys = d.keys := rfl
@[simp] theorem Dev.modArch_chans (d : Dev) (c : Nat) (f : Arch → Arch) : (d.modArch c f).chans = d.chans := rfl
@[simp] theorem Dev.modArch_panels (d : Dev) (c : Nat) (f : Arch → Arch) : (d.modArch c f).panels = d.panels := rfl
@[simp] theorem Dev.modArch_fabric (d : Dev) (c : Nat) (f : Arch → Arch) : (d.modArch c f).fabric = d.fabric := rfl
@[simp] theorem Dev.modArch_ports (d : Dev) (c : Nat) (f : Arch → Arch) : (d.modArch c f).ports = d.ports := rfl
@[simp] theorem Dev.modArch_stops (d : Dev) (c : Nat) (f : Arch → Arch) : (d.modArch c f).stops = d.stops := rfl
@[simp] theorem Dev.modArch_brx (d : Dev) (c : Nat) (f : Arch → Arch) : (d.modArch c f).brx = d.brx := rfl
@[simp] theorem Dev.modArch_engines (d : Dev) (c : Nat) (f : Arch → Arch) : (d.modArch c f).engines = d.engines := rfl
@[simp] theorem Dev.modArch_queues (d : Dev) (c : Nat) (f : Arch → Arch) : (d.modArch c f).queues = d.queues := rfl
@[simp] theorem Dev.modArch_events (d : Dev) (c : Nat) (f : Arch → Arch) : (d.modArch c f).events = d.events := rfl
@[simp] theorem Dev.modArch_doms (d : Dev) (c : Nat) (f : Arch → Arch) : (d.modArch c f).doms = d.doms := rfl
@[simp] theorem Dev.modArch_gov (d : Dev) (c : Nat) (f : Arch → Arch) : (d.modArch c f).gov = d.gov := rfl
@[simp] theorem Dev.modArch_dict (d : Dev) (c : Nat) (f : Arch → Arch) : (d.modArch c f).dict = d.dict := rfl
@[simp] theorem Dev.modArch_errs (d : Dev) (c : Nat) (f : Arch → Arch) : (d.modArch c f).errs = d.errs := rfl
@[simp] theorem Dev.modArch_reports (d : Dev) (c : Nat) (f : Arch → Arch) : (d.modArch c f).reports = d.reports := rfl
@[simp] theorem Dev.modArch_board (d : Dev) (c : Nat) (f : Arch → Arch) : (d.modArch c f).board = d.board := rfl
@[simp] theorem Dev.modArch_outWord (d : Dev) (c : Nat) (f : Arch → Arch) : (d.modArch c f).outWord = d.outWord := rfl
@[simp] theorem Dev.modArch_outErr (d : Dev) (c : Nat) (f : Arch → Arch) : (d.modArch c f).outErr = d.outErr := rfl
@[simp] theorem Dev.modArch_outMsgs (d : Dev) (c : Nat) (f : Arch → Arch) : (d.modArch c f).outMsgs = d.outMsgs := rfl

/-! ### `Dev.modMember` -/

@[simp] theorem Dev.modMember_phase (d : Dev) (c : Nat) (f : Member → Member) : (d.modMember c f).phase = d.phase := rfl
@[simp] theorem Dev.modMember_pins (d : Dev) (c : Nat) (f : Member → Member) : (d.modMember c f).pins = d.pins := rfl
@[simp] theorem Dev.modMember_time (d : Dev) (c : Nat) (f : Member → Member) : (d.modMember c f).time = d.time := rfl
@[simp] theorem Dev.modMember_freeCtr (d : Dev) (c : Nat) (f : Member → Member) : (d.modMember c f).freeCtr = d.freeCtr := rfl
@[simp] theorem Dev.modMember_csr (d : Dev) (c : Nat) (f : Member → Member) : (d.modMember c f).csr = d.csr := rfl
@[simp] theorem Dev.modMember_slices (d : Dev) (c : Nat) (f : Member → Member) : (d.modMember c f).slices = d.slices := rfl
@[simp] theorem Dev.modMember_hash (d : Dev) (c : Nat) (f : Member → Member) : (d.modMember c f).hash = d.hash := rfl
@[simp] theorem Dev.modMember_mem (d : Dev) (c : Nat) (f : Member → Member) : (d.modMember c f).mem = d.mem := rfl
@[simp] theorem Dev.modMember_lines (d : Dev) (c : Nat) (f : Member → Member) : (d.modMember c f).lines = d.lines := rfl
@[simp] theorem Dev.modMember_zclear (d : Dev) (c : Nat) (f : Member → Member) : (d.modMember c f).zclear = d.zclear := rfl
@[simp] theorem Dev.modMember_keys (d : Dev) (c : Nat) (f : Member → Member) : (d.modMember c f).keys = d.keys := rfl
@[simp] theorem Dev.modMember_chans (d : Dev) (c : Nat) (f : Member → Member) : (d.modMember c f).chans = d.chans := rfl
@[simp] theorem Dev.modMember_panels (d : Dev) (c : Nat) (f : Member → Member) : (d.modMember c f).panels = d.panels := rfl
@[simp] theorem Dev.modMember_fabric (d : Dev) (c : Nat) (f : Member → Member) : (d.modMember c f).fabric = d.fabric := rfl
@[simp] theorem Dev.modMember_ports (d : Dev) (c : Nat) (f : Member → Member) : (d.modMember c f).ports = d.ports := rfl
@[simp] theorem Dev.modMember_stops (d : Dev) (c : Nat) (f : Member → Member) : (d.modMember c f).stops = d.stops := rfl
@[simp] theorem Dev.modMember_brx (d : Dev) (c : Nat) (f : Member → Member) : (d.modMember c f).brx = d.brx := rfl
@[simp] theorem Dev.modMember_engines (d : Dev) (c : Nat) (f : Member → Member) : (d.modMember c f).engines = d.engines := rfl
@[simp] theorem Dev.modMember_queues (d : Dev) (c : Nat) (f : Member → Member) : (d.modMember c f).queues = d.queues := rfl
@[simp] theorem Dev.modMember_events (d : Dev) (c : Nat) (f : Member → Member) : (d.modMember c f).events = d.events := rfl
@[simp] theorem Dev.modMember_doms (d : Dev) (c : Nat) (f : Member → Member) : (d.modMember c f).doms = d.doms := rfl
@[simp] theorem Dev.modMember_gov (d : Dev) (c : Nat) (f : Member → Member) : (d.modMember c f).gov = d.gov := rfl
@[simp] theorem Dev.modMember_dict (d : Dev) (c : Nat) (f : Member → Member) : (d.modMember c f).dict = d.dict := rfl
@[simp] theorem Dev.modMember_errs (d : Dev) (c : Nat) (f : Member → Member) : (d.modMember c f).errs = d.errs := rfl
@[simp] theorem Dev.modMember_reports (d : Dev) (c : Nat) (f : Member → Member) : (d.modMember c f).reports = d.reports := rfl
@[simp] theorem Dev.modMember_board (d : Dev) (c : Nat) (f : Member → Member) : (d.modMember c f).board = d.board := rfl
@[simp] theorem Dev.modMember_outWord (d : Dev) (c : Nat) (f : Member → Member) : (d.modMember c f).outWord = d.outWord := rfl
@[simp] theorem Dev.modMember_outErr (d : Dev) (c : Nat) (f : Member → Member) : (d.modMember c f).outErr = d.outErr := rfl
@[simp] theorem Dev.modMember_outMsgs (d : Dev) (c : Nat) (f : Member → Member) : (d.modMember c f).outMsgs = d.outMsgs := rfl

/-! ### `Dev.modSlice` -/

@[simp] theorem Dev.modSlice_phase (d : Dev) (n : Nat) (f : Slice → Slice) : (d.modSlice n f).phase = d.phase := rfl
@[simp] theorem Dev.modSlice_pins (d : Dev) (n : Nat) (f : Slice → Slice) : (d.modSlice n f).pins = d.pins := rfl
@[simp] theorem Dev.modSlice_time (d : Dev) (n : Nat) (f : Slice → Slice) : (d.modSlice n f).time = d.time := rfl
@[simp] theorem Dev.modSlice_freeCtr (d : Dev) (n : Nat) (f : Slice → Slice) : (d.modSlice n f).freeCtr = d.freeCtr := rfl
@[simp] theorem Dev.modSlice_csr (d : Dev) (n : Nat) (f : Slice → Slice) : (d.modSlice n f).csr = d.csr := rfl
@[simp] theorem Dev.modSlice_cores (d : Dev) (n : Nat) (f : Slice → Slice) : (d.modSlice n f).cores = d.cores := rfl
@[simp] theorem Dev.modSlice_hash (d : Dev) (n : Nat) (f : Slice → Slice) : (d.modSlice n f).hash = d.hash := rfl
@[simp] theorem Dev.modSlice_mem (d : Dev) (n : Nat) (f : Slice → Slice) : (d.modSlice n f).mem = d.mem := rfl
@[simp] theorem Dev.modSlice_lines (d : Dev) (n : Nat) (f : Slice → Slice) : (d.modSlice n f).lines = d.lines := rfl
@[simp] theorem Dev.modSlice_zclear (d : Dev) (n : Nat) (f : Slice → Slice) : (d.modSlice n f).zclear = d.zclear := rfl
@[simp] theorem Dev.modSlice_keys (d : Dev) (n : Nat) (f : Slice → Slice) : (d.modSlice n f).keys = d.keys := rfl
@[simp] theorem Dev.modSlice_chans (d : Dev) (n : Nat) (f : Slice → Slice) : (d.modSlice n f).chans = d.chans := rfl
@[simp] theorem Dev.modSlice_panels (d : Dev) (n : Nat) (f : Slice → Slice) : (d.modSlice n f).panels = d.panels := rfl
@[simp] theorem Dev.modSlice_fabric (d : Dev) (n : Nat) (f : Slice → Slice) : (d.modSlice n f).fabric = d.fabric := rfl
@[simp] theorem Dev.modSlice_ports (d : Dev) (n : Nat) (f : Slice → Slice) : (d.modSlice n f).ports = d.ports := rfl
@[simp] theorem Dev.modSlice_stops (d : Dev) (n : Nat) (f : Slice → Slice) : (d.modSlice n f).stops = d.stops := rfl
@[simp] theorem Dev.modSlice_brx (d : Dev) (n : Nat) (f : Slice → Slice) : (d.modSlice n f).brx = d.brx := rfl
@[simp] theorem Dev.modSlice_engines (d : Dev) (n : Nat) (f : Slice → Slice) : (d.modSlice n f).engines = d.engines := rfl
@[simp] theorem Dev.modSlice_queues (d : Dev) (n : Nat) (f : Slice → Slice) : (d.modSlice n f).queues = d.queues := rfl
@[simp] theorem Dev.modSlice_events (d : Dev) (n : Nat) (f : Slice → Slice) : (d.modSlice n f).events = d.events := rfl
@[simp] theorem Dev.modSlice_doms (d : Dev) (n : Nat) (f : Slice → Slice) : (d.modSlice n f).doms = d.doms := rfl
@[simp] theorem Dev.modSlice_gov (d : Dev) (n : Nat) (f : Slice → Slice) : (d.modSlice n f).gov = d.gov := rfl
@[simp] theorem Dev.modSlice_dict (d : Dev) (n : Nat) (f : Slice → Slice) : (d.modSlice n f).dict = d.dict := rfl
@[simp] theorem Dev.modSlice_errs (d : Dev) (n : Nat) (f : Slice → Slice) : (d.modSlice n f).errs = d.errs := rfl
@[simp] theorem Dev.modSlice_reports (d : Dev) (n : Nat) (f : Slice → Slice) : (d.modSlice n f).reports = d.reports := rfl
@[simp] theorem Dev.modSlice_board (d : Dev) (n : Nat) (f : Slice → Slice) : (d.modSlice n f).board = d.board := rfl
@[simp] theorem Dev.modSlice_outWord (d : Dev) (n : Nat) (f : Slice → Slice) : (d.modSlice n f).outWord = d.outWord := rfl
@[simp] theorem Dev.modSlice_outErr (d : Dev) (n : Nat) (f : Slice → Slice) : (d.modSlice n f).outErr = d.outErr := rfl
@[simp] theorem Dev.modSlice_outMsgs (d : Dev) (n : Nat) (f : Slice → Slice) : (d.modSlice n f).outMsgs = d.outMsgs := rfl

/-! ### `Dev.modChan` -/

@[simp] theorem Dev.modChan_phase (d : Dev) (n : Nat) (f : ChanSt → ChanSt) : (d.modChan n f).phase = d.phase := rfl
@[simp] theorem Dev.modChan_pins (d : Dev) (n : Nat) (f : ChanSt → ChanSt) : (d.modChan n f).pins = d.pins := rfl
@[simp] theorem Dev.modChan_time (d : Dev) (n : Nat) (f : ChanSt → ChanSt) : (d.modChan n f).time = d.time := rfl
@[simp] theorem Dev.modChan_freeCtr (d : Dev) (n : Nat) (f : ChanSt → ChanSt) : (d.modChan n f).freeCtr = d.freeCtr := rfl
@[simp] theorem Dev.modChan_csr (d : Dev) (n : Nat) (f : ChanSt → ChanSt) : (d.modChan n f).csr = d.csr := rfl
@[simp] theorem Dev.modChan_cores (d : Dev) (n : Nat) (f : ChanSt → ChanSt) : (d.modChan n f).cores = d.cores := rfl
@[simp] theorem Dev.modChan_slices (d : Dev) (n : Nat) (f : ChanSt → ChanSt) : (d.modChan n f).slices = d.slices := rfl
@[simp] theorem Dev.modChan_hash (d : Dev) (n : Nat) (f : ChanSt → ChanSt) : (d.modChan n f).hash = d.hash := rfl
@[simp] theorem Dev.modChan_mem (d : Dev) (n : Nat) (f : ChanSt → ChanSt) : (d.modChan n f).mem = d.mem := rfl
@[simp] theorem Dev.modChan_lines (d : Dev) (n : Nat) (f : ChanSt → ChanSt) : (d.modChan n f).lines = d.lines := rfl
@[simp] theorem Dev.modChan_zclear (d : Dev) (n : Nat) (f : ChanSt → ChanSt) : (d.modChan n f).zclear = d.zclear := rfl
@[simp] theorem Dev.modChan_keys (d : Dev) (n : Nat) (f : ChanSt → ChanSt) : (d.modChan n f).keys = d.keys := rfl
@[simp] theorem Dev.modChan_panels (d : Dev) (n : Nat) (f : ChanSt → ChanSt) : (d.modChan n f).panels = d.panels := rfl
@[simp] theorem Dev.modChan_fabric (d : Dev) (n : Nat) (f : ChanSt → ChanSt) : (d.modChan n f).fabric = d.fabric := rfl
@[simp] theorem Dev.modChan_ports (d : Dev) (n : Nat) (f : ChanSt → ChanSt) : (d.modChan n f).ports = d.ports := rfl
@[simp] theorem Dev.modChan_stops (d : Dev) (n : Nat) (f : ChanSt → ChanSt) : (d.modChan n f).stops = d.stops := rfl
@[simp] theorem Dev.modChan_brx (d : Dev) (n : Nat) (f : ChanSt → ChanSt) : (d.modChan n f).brx = d.brx := rfl
@[simp] theorem Dev.modChan_engines (d : Dev) (n : Nat) (f : ChanSt → ChanSt) : (d.modChan n f).engines = d.engines := rfl
@[simp] theorem Dev.modChan_queues (d : Dev) (n : Nat) (f : ChanSt → ChanSt) : (d.modChan n f).queues = d.queues := rfl
@[simp] theorem Dev.modChan_events (d : Dev) (n : Nat) (f : ChanSt → ChanSt) : (d.modChan n f).events = d.events := rfl
@[simp] theorem Dev.modChan_doms (d : Dev) (n : Nat) (f : ChanSt → ChanSt) : (d.modChan n f).doms = d.doms := rfl
@[simp] theorem Dev.modChan_gov (d : Dev) (n : Nat) (f : ChanSt → ChanSt) : (d.modChan n f).gov = d.gov := rfl
@[simp] theorem Dev.modChan_dict (d : Dev) (n : Nat) (f : ChanSt → ChanSt) : (d.modChan n f).dict = d.dict := rfl
@[simp] theorem Dev.modChan_errs (d : Dev) (n : Nat) (f : ChanSt → ChanSt) : (d.modChan n f).errs = d.errs := rfl
@[simp] theorem Dev.modChan_reports (d : Dev) (n : Nat) (f : ChanSt → ChanSt) : (d.modChan n f).reports = d.reports := rfl
@[simp] theorem Dev.modChan_board (d : Dev) (n : Nat) (f : ChanSt → ChanSt) : (d.modChan n f).board = d.board := rfl
@[simp] theorem Dev.modChan_outWord (d : Dev) (n : Nat) (f : ChanSt → ChanSt) : (d.modChan n f).outWord = d.outWord := rfl
@[simp] theorem Dev.modChan_outErr (d : Dev) (n : Nat) (f : ChanSt → ChanSt) : (d.modChan n f).outErr = d.outErr := rfl
@[simp] theorem Dev.modChan_outMsgs (d : Dev) (n : Nat) (f : ChanSt → ChanSt) : (d.modChan n f).outMsgs = d.outMsgs := rfl

/-! ### `Dev.modPanel` -/

@[simp] theorem Dev.modPanel_phase (d : Dev) (n : Nat) (f : Panel → Panel) : (d.modPanel n f).phase = d.phase := rfl
@[simp] theorem Dev.modPanel_pins (d : Dev) (n : Nat) (f : Panel → Panel) : (d.modPanel n f).pins = d.pins := rfl
@[simp] theorem Dev.modPanel_time (d : Dev) (n : Nat) (f : Panel → Panel) : (d.modPanel n f).time = d.time := rfl
@[simp] theorem Dev.modPanel_freeCtr (d : Dev) (n : Nat) (f : Panel → Panel) : (d.modPanel n f).freeCtr = d.freeCtr := rfl
@[simp] theorem Dev.modPanel_csr (d : Dev) (n : Nat) (f : Panel → Panel) : (d.modPanel n f).csr = d.csr := rfl
@[simp] theorem Dev.modPanel_cores (d : Dev) (n : Nat) (f : Panel → Panel) : (d.modPanel n f).cores = d.cores := rfl
@[simp] theorem Dev.modPanel_slices (d : Dev) (n : Nat) (f : Panel → Panel) : (d.modPanel n f).slices = d.slices := rfl
@[simp] theorem Dev.modPanel_hash (d : Dev) (n : Nat) (f : Panel → Panel) : (d.modPanel n f).hash = d.hash := rfl
@[simp] theorem Dev.modPanel_mem (d : Dev) (n : Nat) (f : Panel → Panel) : (d.modPanel n f).mem = d.mem := rfl
@[simp] theorem Dev.modPanel_lines (d : Dev) (n : Nat) (f : Panel → Panel) : (d.modPanel n f).lines = d.lines := rfl
@[simp] theorem Dev.modPanel_zclear (d : Dev) (n : Nat) (f : Panel → Panel) : (d.modPanel n f).zclear = d.zclear := rfl
@[simp] theorem Dev.modPanel_keys (d : Dev) (n : Nat) (f : Panel → Panel) : (d.modPanel n f).keys = d.keys := rfl
@[simp] theorem Dev.modPanel_chans (d : Dev) (n : Nat) (f : Panel → Panel) : (d.modPanel n f).chans = d.chans := rfl
@[simp] theorem Dev.modPanel_fabric (d : Dev) (n : Nat) (f : Panel → Panel) : (d.modPanel n f).fabric = d.fabric := rfl
@[simp] theorem Dev.modPanel_ports (d : Dev) (n : Nat) (f : Panel → Panel) : (d.modPanel n f).ports = d.ports := rfl
@[simp] theorem Dev.modPanel_stops (d : Dev) (n : Nat) (f : Panel → Panel) : (d.modPanel n f).stops = d.stops := rfl
@[simp] theorem Dev.modPanel_brx (d : Dev) (n : Nat) (f : Panel → Panel) : (d.modPanel n f).brx = d.brx := rfl
@[simp] theorem Dev.modPanel_engines (d : Dev) (n : Nat) (f : Panel → Panel) : (d.modPanel n f).engines = d.engines := rfl
@[simp] theorem Dev.modPanel_queues (d : Dev) (n : Nat) (f : Panel → Panel) : (d.modPanel n f).queues = d.queues := rfl
@[simp] theorem Dev.modPanel_events (d : Dev) (n : Nat) (f : Panel → Panel) : (d.modPanel n f).events = d.events := rfl
@[simp] theorem Dev.modPanel_doms (d : Dev) (n : Nat) (f : Panel → Panel) : (d.modPanel n f).doms = d.doms := rfl
@[simp] theorem Dev.modPanel_gov (d : Dev) (n : Nat) (f : Panel → Panel) : (d.modPanel n f).gov = d.gov := rfl
@[simp] theorem Dev.modPanel_dict (d : Dev) (n : Nat) (f : Panel → Panel) : (d.modPanel n f).dict = d.dict := rfl
@[simp] theorem Dev.modPanel_errs (d : Dev) (n : Nat) (f : Panel → Panel) : (d.modPanel n f).errs = d.errs := rfl
@[simp] theorem Dev.modPanel_reports (d : Dev) (n : Nat) (f : Panel → Panel) : (d.modPanel n f).reports = d.reports := rfl
@[simp] theorem Dev.modPanel_board (d : Dev) (n : Nat) (f : Panel → Panel) : (d.modPanel n f).board = d.board := rfl
@[simp] theorem Dev.modPanel_outWord (d : Dev) (n : Nat) (f : Panel → Panel) : (d.modPanel n f).outWord = d.outWord := rfl
@[simp] theorem Dev.modPanel_outErr (d : Dev) (n : Nat) (f : Panel → Panel) : (d.modPanel n f).outErr = d.outErr := rfl
@[simp] theorem Dev.modPanel_outMsgs (d : Dev) (n : Nat) (f : Panel → Panel) : (d.modPanel n f).outMsgs = d.outMsgs := rfl

/-! ### `Dev.modPort` -/

@[simp] theorem Dev.modPort_phase (d : Dev) (n : Nat) (f : PortSt → PortSt) : (d.modPort n f).phase = d.phase := rfl
@[simp] theorem Dev.modPort_pins (d : Dev) (n : Nat) (f : PortSt → PortSt) : (d.modPort n f).pins = d.pins := rfl
@[simp] theorem Dev.modPort_time (d : Dev) (n : Nat) (f : PortSt → PortSt) : (d.modPort n f).time = d.time := rfl
@[simp] theorem Dev.modPort_freeCtr (d : Dev) (n : Nat) (f : PortSt → PortSt) : (d.modPort n f).freeCtr = d.freeCtr := rfl
@[simp] theorem Dev.modPort_csr (d : Dev) (n : Nat) (f : PortSt → PortSt) : (d.modPort n f).csr = d.csr := rfl
@[simp] theorem Dev.modPort_cores (d : Dev) (n : Nat) (f : PortSt → PortSt) : (d.modPort n f).cores = d.cores := rfl
@[simp] theorem Dev.modPort_slices (d : Dev) (n : Nat) (f : PortSt → PortSt) : (d.modPort n f).slices = d.slices := rfl
@[simp] theorem Dev.modPort_hash (d : Dev) (n : Nat) (f : PortSt → PortSt) : (d.modPort n f).hash = d.hash := rfl
@[simp] theorem Dev.modPort_mem (d : Dev) (n : Nat) (f : PortSt → PortSt) : (d.modPort n f).mem = d.mem := rfl
@[simp] theorem Dev.modPort_lines (d : Dev) (n : Nat) (f : PortSt → PortSt) : (d.modPort n f).lines = d.lines := rfl
@[simp] theorem Dev.modPort_zclear (d : Dev) (n : Nat) (f : PortSt → PortSt) : (d.modPort n f).zclear = d.zclear := rfl
@[simp] theorem Dev.modPort_keys (d : Dev) (n : Nat) (f : PortSt → PortSt) : (d.modPort n f).keys = d.keys := rfl
@[simp] theorem Dev.modPort_chans (d : Dev) (n : Nat) (f : PortSt → PortSt) : (d.modPort n f).chans = d.chans := rfl
@[simp] theorem Dev.modPort_panels (d : Dev) (n : Nat) (f : PortSt → PortSt) : (d.modPort n f).panels = d.panels := rfl
@[simp] theorem Dev.modPort_fabric (d : Dev) (n : Nat) (f : PortSt → PortSt) : (d.modPort n f).fabric = d.fabric := rfl
@[simp] theorem Dev.modPort_stops (d : Dev) (n : Nat) (f : PortSt → PortSt) : (d.modPort n f).stops = d.stops := rfl
@[simp] theorem Dev.modPort_brx (d : Dev) (n : Nat) (f : PortSt → PortSt) : (d.modPort n f).brx = d.brx := rfl
@[simp] theorem Dev.modPort_engines (d : Dev) (n : Nat) (f : PortSt → PortSt) : (d.modPort n f).engines = d.engines := rfl
@[simp] theorem Dev.modPort_queues (d : Dev) (n : Nat) (f : PortSt → PortSt) : (d.modPort n f).queues = d.queues := rfl
@[simp] theorem Dev.modPort_events (d : Dev) (n : Nat) (f : PortSt → PortSt) : (d.modPort n f).events = d.events := rfl
@[simp] theorem Dev.modPort_doms (d : Dev) (n : Nat) (f : PortSt → PortSt) : (d.modPort n f).doms = d.doms := rfl
@[simp] theorem Dev.modPort_gov (d : Dev) (n : Nat) (f : PortSt → PortSt) : (d.modPort n f).gov = d.gov := rfl
@[simp] theorem Dev.modPort_dict (d : Dev) (n : Nat) (f : PortSt → PortSt) : (d.modPort n f).dict = d.dict := rfl
@[simp] theorem Dev.modPort_errs (d : Dev) (n : Nat) (f : PortSt → PortSt) : (d.modPort n f).errs = d.errs := rfl
@[simp] theorem Dev.modPort_reports (d : Dev) (n : Nat) (f : PortSt → PortSt) : (d.modPort n f).reports = d.reports := rfl
@[simp] theorem Dev.modPort_board (d : Dev) (n : Nat) (f : PortSt → PortSt) : (d.modPort n f).board = d.board := rfl
@[simp] theorem Dev.modPort_outWord (d : Dev) (n : Nat) (f : PortSt → PortSt) : (d.modPort n f).outWord = d.outWord := rfl
@[simp] theorem Dev.modPort_outErr (d : Dev) (n : Nat) (f : PortSt → PortSt) : (d.modPort n f).outErr = d.outErr := rfl
@[simp] theorem Dev.modPort_outMsgs (d : Dev) (n : Nat) (f : PortSt → PortSt) : (d.modPort n f).outMsgs = d.outMsgs := rfl

/-! ### `Dev.modStop` -/

@[simp] theorem Dev.modStop_phase (d : Dev) (n : Nat) (f : IoStop → IoStop) : (d.modStop n f).phase = d.phase := rfl
@[simp] theorem Dev.modStop_pins (d : Dev) (n : Nat) (f : IoStop → IoStop) : (d.modStop n f).pins = d.pins := rfl
@[simp] theorem Dev.modStop_time (d : Dev) (n : Nat) (f : IoStop → IoStop) : (d.modStop n f).time = d.time := rfl
@[simp] theorem Dev.modStop_freeCtr (d : Dev) (n : Nat) (f : IoStop → IoStop) : (d.modStop n f).freeCtr = d.freeCtr := rfl
@[simp] theorem Dev.modStop_csr (d : Dev) (n : Nat) (f : IoStop → IoStop) : (d.modStop n f).csr = d.csr := rfl
@[simp] theorem Dev.modStop_cores (d : Dev) (n : Nat) (f : IoStop → IoStop) : (d.modStop n f).cores = d.cores := rfl
@[simp] theorem Dev.modStop_slices (d : Dev) (n : Nat) (f : IoStop → IoStop) : (d.modStop n f).slices = d.slices := rfl
@[simp] theorem Dev.modStop_hash (d : Dev) (n : Nat) (f : IoStop → IoStop) : (d.modStop n f).hash = d.hash := rfl
@[simp] theorem Dev.modStop_mem (d : Dev) (n : Nat) (f : IoStop → IoStop) : (d.modStop n f).mem = d.mem := rfl
@[simp] theorem Dev.modStop_lines (d : Dev) (n : Nat) (f : IoStop → IoStop) : (d.modStop n f).lines = d.lines := rfl
@[simp] theorem Dev.modStop_zclear (d : Dev) (n : Nat) (f : IoStop → IoStop) : (d.modStop n f).zclear = d.zclear := rfl
@[simp] theorem Dev.modStop_keys (d : Dev) (n : Nat) (f : IoStop → IoStop) : (d.modStop n f).keys = d.keys := rfl
@[simp] theorem Dev.modStop_chans (d : Dev) (n : Nat) (f : IoStop → IoStop) : (d.modStop n f).chans = d.chans := rfl
@[simp] theorem Dev.modStop_panels (d : Dev) (n : Nat) (f : IoStop → IoStop) : (d.modStop n f).panels = d.panels := rfl
@[simp] theorem Dev.modStop_fabric (d : Dev) (n : Nat) (f : IoStop → IoStop) : (d.modStop n f).fabric = d.fabric := rfl
@[simp] theorem Dev.modStop_ports (d : Dev) (n : Nat) (f : IoStop → IoStop) : (d.modStop n f).ports = d.ports := rfl
@[simp] theorem Dev.modStop_brx (d : Dev) (n : Nat) (f : IoStop → IoStop) : (d.modStop n f).brx = d.brx := rfl
@[simp] theorem Dev.modStop_engines (d : Dev) (n : Nat) (f : IoStop → IoStop) : (d.modStop n f).engines = d.engines := rfl
@[simp] theorem Dev.modStop_queues (d : Dev) (n : Nat) (f : IoStop → IoStop) : (d.modStop n f).queues = d.queues := rfl
@[simp] theorem Dev.modStop_events (d : Dev) (n : Nat) (f : IoStop → IoStop) : (d.modStop n f).events = d.events := rfl
@[simp] theorem Dev.modStop_doms (d : Dev) (n : Nat) (f : IoStop → IoStop) : (d.modStop n f).doms = d.doms := rfl
@[simp] theorem Dev.modStop_gov (d : Dev) (n : Nat) (f : IoStop → IoStop) : (d.modStop n f).gov = d.gov := rfl
@[simp] theorem Dev.modStop_dict (d : Dev) (n : Nat) (f : IoStop → IoStop) : (d.modStop n f).dict = d.dict := rfl
@[simp] theorem Dev.modStop_errs (d : Dev) (n : Nat) (f : IoStop → IoStop) : (d.modStop n f).errs = d.errs := rfl
@[simp] theorem Dev.modStop_reports (d : Dev) (n : Nat) (f : IoStop → IoStop) : (d.modStop n f).reports = d.reports := rfl
@[simp] theorem Dev.modStop_board (d : Dev) (n : Nat) (f : IoStop → IoStop) : (d.modStop n f).board = d.board := rfl
@[simp] theorem Dev.modStop_outWord (d : Dev) (n : Nat) (f : IoStop → IoStop) : (d.modStop n f).outWord = d.outWord := rfl
@[simp] theorem Dev.modStop_outErr (d : Dev) (n : Nat) (f : IoStop → IoStop) : (d.modStop n f).outErr = d.outErr := rfl
@[simp] theorem Dev.modStop_outMsgs (d : Dev) (n : Nat) (f : IoStop → IoStop) : (d.modStop n f).outMsgs = d.outMsgs := rfl

/-! ### `Dev.modLink` -/

@[simp] theorem Dev.modLink_phase (d : Dev) (n : Nat) (f : BrxLink → BrxLink) : (d.modLink n f).phase = d.phase := rfl
@[simp] theorem Dev.modLink_pins (d : Dev) (n : Nat) (f : BrxLink → BrxLink) : (d.modLink n f).pins = d.pins := rfl
@[simp] theorem Dev.modLink_time (d : Dev) (n : Nat) (f : BrxLink → BrxLink) : (d.modLink n f).time = d.time := rfl
@[simp] theorem Dev.modLink_freeCtr (d : Dev) (n : Nat) (f : BrxLink → BrxLink) : (d.modLink n f).freeCtr = d.freeCtr := rfl
@[simp] theorem Dev.modLink_csr (d : Dev) (n : Nat) (f : BrxLink → BrxLink) : (d.modLink n f).csr = d.csr := rfl
@[simp] theorem Dev.modLink_cores (d : Dev) (n : Nat) (f : BrxLink → BrxLink) : (d.modLink n f).cores = d.cores := rfl
@[simp] theorem Dev.modLink_slices (d : Dev) (n : Nat) (f : BrxLink → BrxLink) : (d.modLink n f).slices = d.slices := rfl
@[simp] theorem Dev.modLink_hash (d : Dev) (n : Nat) (f : BrxLink → BrxLink) : (d.modLink n f).hash = d.hash := rfl
@[simp] theorem Dev.modLink_mem (d : Dev) (n : Nat) (f : BrxLink → BrxLink) : (d.modLink n f).mem = d.mem := rfl
@[simp] theorem Dev.modLink_lines (d : Dev) (n : Nat) (f : BrxLink → BrxLink) : (d.modLink n f).lines = d.lines := rfl
@[simp] theorem Dev.modLink_zclear (d : Dev) (n : Nat) (f : BrxLink → BrxLink) : (d.modLink n f).zclear = d.zclear := rfl
@[simp] theorem Dev.modLink_keys (d : Dev) (n : Nat) (f : BrxLink → BrxLink) : (d.modLink n f).keys = d.keys := rfl
@[simp] theorem Dev.modLink_chans (d : Dev) (n : Nat) (f : BrxLink → BrxLink) : (d.modLink n f).chans = d.chans := rfl
@[simp] theorem Dev.modLink_panels (d : Dev) (n : Nat) (f : BrxLink → BrxLink) : (d.modLink n f).panels = d.panels := rfl
@[simp] theorem Dev.modLink_fabric (d : Dev) (n : Nat) (f : BrxLink → BrxLink) : (d.modLink n f).fabric = d.fabric := rfl
@[simp] theorem Dev.modLink_ports (d : Dev) (n : Nat) (f : BrxLink → BrxLink) : (d.modLink n f).ports = d.ports := rfl
@[simp] theorem Dev.modLink_stops (d : Dev) (n : Nat) (f : BrxLink → BrxLink) : (d.modLink n f).stops = d.stops := rfl
@[simp] theorem Dev.modLink_engines (d : Dev) (n : Nat) (f : BrxLink → BrxLink) : (d.modLink n f).engines = d.engines := rfl
@[simp] theorem Dev.modLink_queues (d : Dev) (n : Nat) (f : BrxLink → BrxLink) : (d.modLink n f).queues = d.queues := rfl
@[simp] theorem Dev.modLink_events (d : Dev) (n : Nat) (f : BrxLink → BrxLink) : (d.modLink n f).events = d.events := rfl
@[simp] theorem Dev.modLink_doms (d : Dev) (n : Nat) (f : BrxLink → BrxLink) : (d.modLink n f).doms = d.doms := rfl
@[simp] theorem Dev.modLink_gov (d : Dev) (n : Nat) (f : BrxLink → BrxLink) : (d.modLink n f).gov = d.gov := rfl
@[simp] theorem Dev.modLink_dict (d : Dev) (n : Nat) (f : BrxLink → BrxLink) : (d.modLink n f).dict = d.dict := rfl
@[simp] theorem Dev.modLink_errs (d : Dev) (n : Nat) (f : BrxLink → BrxLink) : (d.modLink n f).errs = d.errs := rfl
@[simp] theorem Dev.modLink_reports (d : Dev) (n : Nat) (f : BrxLink → BrxLink) : (d.modLink n f).reports = d.reports := rfl
@[simp] theorem Dev.modLink_board (d : Dev) (n : Nat) (f : BrxLink → BrxLink) : (d.modLink n f).board = d.board := rfl
@[simp] theorem Dev.modLink_outWord (d : Dev) (n : Nat) (f : BrxLink → BrxLink) : (d.modLink n f).outWord = d.outWord := rfl
@[simp] theorem Dev.modLink_outErr (d : Dev) (n : Nat) (f : BrxLink → BrxLink) : (d.modLink n f).outErr = d.outErr := rfl
@[simp] theorem Dev.modLink_outMsgs (d : Dev) (n : Nat) (f : BrxLink → BrxLink) : (d.modLink n f).outMsgs = d.outMsgs := rfl

/-! ### `Dev.modEngine` -/

@[simp] theorem Dev.modEngine_phase (d : Dev) (n : Nat) (f : Engine → Engine) : (d.modEngine n f).phase = d.phase := rfl
@[simp] theorem Dev.modEngine_pins (d : Dev) (n : Nat) (f : Engine → Engine) : (d.modEngine n f).pins = d.pins := rfl
@[simp] theorem Dev.modEngine_time (d : Dev) (n : Nat) (f : Engine → Engine) : (d.modEngine n f).time = d.time := rfl
@[simp] theorem Dev.modEngine_freeCtr (d : Dev) (n : Nat) (f : Engine → Engine) : (d.modEngine n f).freeCtr = d.freeCtr := rfl
@[simp] theorem Dev.modEngine_csr (d : Dev) (n : Nat) (f : Engine → Engine) : (d.modEngine n f).csr = d.csr := rfl
@[simp] theorem Dev.modEngine_cores (d : Dev) (n : Nat) (f : Engine → Engine) : (d.modEngine n f).cores = d.cores := rfl
@[simp] theorem Dev.modEngine_slices (d : Dev) (n : Nat) (f : Engine → Engine) : (d.modEngine n f).slices = d.slices := rfl
@[simp] theorem Dev.modEngine_hash (d : Dev) (n : Nat) (f : Engine → Engine) : (d.modEngine n f).hash = d.hash := rfl
@[simp] theorem Dev.modEngine_mem (d : Dev) (n : Nat) (f : Engine → Engine) : (d.modEngine n f).mem = d.mem := rfl
@[simp] theorem Dev.modEngine_lines (d : Dev) (n : Nat) (f : Engine → Engine) : (d.modEngine n f).lines = d.lines := rfl
@[simp] theorem Dev.modEngine_zclear (d : Dev) (n : Nat) (f : Engine → Engine) : (d.modEngine n f).zclear = d.zclear := rfl
@[simp] theorem Dev.modEngine_keys (d : Dev) (n : Nat) (f : Engine → Engine) : (d.modEngine n f).keys = d.keys := rfl
@[simp] theorem Dev.modEngine_chans (d : Dev) (n : Nat) (f : Engine → Engine) : (d.modEngine n f).chans = d.chans := rfl
@[simp] theorem Dev.modEngine_panels (d : Dev) (n : Nat) (f : Engine → Engine) : (d.modEngine n f).panels = d.panels := rfl
@[simp] theorem Dev.modEngine_fabric (d : Dev) (n : Nat) (f : Engine → Engine) : (d.modEngine n f).fabric = d.fabric := rfl
@[simp] theorem Dev.modEngine_ports (d : Dev) (n : Nat) (f : Engine → Engine) : (d.modEngine n f).ports = d.ports := rfl
@[simp] theorem Dev.modEngine_stops (d : Dev) (n : Nat) (f : Engine → Engine) : (d.modEngine n f).stops = d.stops := rfl
@[simp] theorem Dev.modEngine_brx (d : Dev) (n : Nat) (f : Engine → Engine) : (d.modEngine n f).brx = d.brx := rfl
@[simp] theorem Dev.modEngine_queues (d : Dev) (n : Nat) (f : Engine → Engine) : (d.modEngine n f).queues = d.queues := rfl
@[simp] theorem Dev.modEngine_events (d : Dev) (n : Nat) (f : Engine → Engine) : (d.modEngine n f).events = d.events := rfl
@[simp] theorem Dev.modEngine_doms (d : Dev) (n : Nat) (f : Engine → Engine) : (d.modEngine n f).doms = d.doms := rfl
@[simp] theorem Dev.modEngine_gov (d : Dev) (n : Nat) (f : Engine → Engine) : (d.modEngine n f).gov = d.gov := rfl
@[simp] theorem Dev.modEngine_dict (d : Dev) (n : Nat) (f : Engine → Engine) : (d.modEngine n f).dict = d.dict := rfl
@[simp] theorem Dev.modEngine_errs (d : Dev) (n : Nat) (f : Engine → Engine) : (d.modEngine n f).errs = d.errs := rfl
@[simp] theorem Dev.modEngine_reports (d : Dev) (n : Nat) (f : Engine → Engine) : (d.modEngine n f).reports = d.reports := rfl
@[simp] theorem Dev.modEngine_board (d : Dev) (n : Nat) (f : Engine → Engine) : (d.modEngine n f).board = d.board := rfl
@[simp] theorem Dev.modEngine_outWord (d : Dev) (n : Nat) (f : Engine → Engine) : (d.modEngine n f).outWord = d.outWord := rfl
@[simp] theorem Dev.modEngine_outErr (d : Dev) (n : Nat) (f : Engine → Engine) : (d.modEngine n f).outErr = d.outErr := rfl
@[simp] theorem Dev.modEngine_outMsgs (d : Dev) (n : Nat) (f : Engine → Engine) : (d.modEngine n f).outMsgs = d.outMsgs := rfl

/-! ### `Dev.modQueue` -/

@[simp] theorem Dev.modQueue_phase (d : Dev) (n : Nat) (f : QueueSt → QueueSt) : (d.modQueue n f).phase = d.phase := rfl
@[simp] theorem Dev.modQueue_pins (d : Dev) (n : Nat) (f : QueueSt → QueueSt) : (d.modQueue n f).pins = d.pins := rfl
@[simp] theorem Dev.modQueue_time (d : Dev) (n : Nat) (f : QueueSt → QueueSt) : (d.modQueue n f).time = d.time := rfl
@[simp] theorem Dev.modQueue_freeCtr (d : Dev) (n : Nat) (f : QueueSt → QueueSt) : (d.modQueue n f).freeCtr = d.freeCtr := rfl
@[simp] theorem Dev.modQueue_csr (d : Dev) (n : Nat) (f : QueueSt → QueueSt) : (d.modQueue n f).csr = d.csr := rfl
@[simp] theorem Dev.modQueue_cores (d : Dev) (n : Nat) (f : QueueSt → QueueSt) : (d.modQueue n f).cores = d.cores := rfl
@[simp] theorem Dev.modQueue_slices (d : Dev) (n : Nat) (f : QueueSt → QueueSt) : (d.modQueue n f).slices = d.slices := rfl
@[simp] theorem Dev.modQueue_hash (d : Dev) (n : Nat) (f : QueueSt → QueueSt) : (d.modQueue n f).hash = d.hash := rfl
@[simp] theorem Dev.modQueue_mem (d : Dev) (n : Nat) (f : QueueSt → QueueSt) : (d.modQueue n f).mem = d.mem := rfl
@[simp] theorem Dev.modQueue_lines (d : Dev) (n : Nat) (f : QueueSt → QueueSt) : (d.modQueue n f).lines = d.lines := rfl
@[simp] theorem Dev.modQueue_zclear (d : Dev) (n : Nat) (f : QueueSt → QueueSt) : (d.modQueue n f).zclear = d.zclear := rfl
@[simp] theorem Dev.modQueue_keys (d : Dev) (n : Nat) (f : QueueSt → QueueSt) : (d.modQueue n f).keys = d.keys := rfl
@[simp] theorem Dev.modQueue_chans (d : Dev) (n : Nat) (f : QueueSt → QueueSt) : (d.modQueue n f).chans = d.chans := rfl
@[simp] theorem Dev.modQueue_panels (d : Dev) (n : Nat) (f : QueueSt → QueueSt) : (d.modQueue n f).panels = d.panels := rfl
@[simp] theorem Dev.modQueue_fabric (d : Dev) (n : Nat) (f : QueueSt → QueueSt) : (d.modQueue n f).fabric = d.fabric := rfl
@[simp] theorem Dev.modQueue_ports (d : Dev) (n : Nat) (f : QueueSt → QueueSt) : (d.modQueue n f).ports = d.ports := rfl
@[simp] theorem Dev.modQueue_stops (d : Dev) (n : Nat) (f : QueueSt → QueueSt) : (d.modQueue n f).stops = d.stops := rfl
@[simp] theorem Dev.modQueue_brx (d : Dev) (n : Nat) (f : QueueSt → QueueSt) : (d.modQueue n f).brx = d.brx := rfl
@[simp] theorem Dev.modQueue_engines (d : Dev) (n : Nat) (f : QueueSt → QueueSt) : (d.modQueue n f).engines = d.engines := rfl
@[simp] theorem Dev.modQueue_events (d : Dev) (n : Nat) (f : QueueSt → QueueSt) : (d.modQueue n f).events = d.events := rfl
@[simp] theorem Dev.modQueue_doms (d : Dev) (n : Nat) (f : QueueSt → QueueSt) : (d.modQueue n f).doms = d.doms := rfl
@[simp] theorem Dev.modQueue_gov (d : Dev) (n : Nat) (f : QueueSt → QueueSt) : (d.modQueue n f).gov = d.gov := rfl
@[simp] theorem Dev.modQueue_dict (d : Dev) (n : Nat) (f : QueueSt → QueueSt) : (d.modQueue n f).dict = d.dict := rfl
@[simp] theorem Dev.modQueue_errs (d : Dev) (n : Nat) (f : QueueSt → QueueSt) : (d.modQueue n f).errs = d.errs := rfl
@[simp] theorem Dev.modQueue_reports (d : Dev) (n : Nat) (f : QueueSt → QueueSt) : (d.modQueue n f).reports = d.reports := rfl
@[simp] theorem Dev.modQueue_board (d : Dev) (n : Nat) (f : QueueSt → QueueSt) : (d.modQueue n f).board = d.board := rfl
@[simp] theorem Dev.modQueue_outWord (d : Dev) (n : Nat) (f : QueueSt → QueueSt) : (d.modQueue n f).outWord = d.outWord := rfl
@[simp] theorem Dev.modQueue_outErr (d : Dev) (n : Nat) (f : QueueSt → QueueSt) : (d.modQueue n f).outErr = d.outErr := rfl
@[simp] theorem Dev.modQueue_outMsgs (d : Dev) (n : Nat) (f : QueueSt → QueueSt) : (d.modQueue n f).outMsgs = d.outMsgs := rfl

/-! ### `Dev.modDom` -/

@[simp] theorem Dev.modDom_phase (d : Dev) (n : Nat) (f : DomSt → DomSt) : (d.modDom n f).phase = d.phase := rfl
@[simp] theorem Dev.modDom_pins (d : Dev) (n : Nat) (f : DomSt → DomSt) : (d.modDom n f).pins = d.pins := rfl
@[simp] theorem Dev.modDom_time (d : Dev) (n : Nat) (f : DomSt → DomSt) : (d.modDom n f).time = d.time := rfl
@[simp] theorem Dev.modDom_freeCtr (d : Dev) (n : Nat) (f : DomSt → DomSt) : (d.modDom n f).freeCtr = d.freeCtr := rfl
@[simp] theorem Dev.modDom_csr (d : Dev) (n : Nat) (f : DomSt → DomSt) : (d.modDom n f).csr = d.csr := rfl
@[simp] theorem Dev.modDom_cores (d : Dev) (n : Nat) (f : DomSt → DomSt) : (d.modDom n f).cores = d.cores := rfl
@[simp] theorem Dev.modDom_slices (d : Dev) (n : Nat) (f : DomSt → DomSt) : (d.modDom n f).slices = d.slices := rfl
@[simp] theorem Dev.modDom_hash (d : Dev) (n : Nat) (f : DomSt → DomSt) : (d.modDom n f).hash = d.hash := rfl
@[simp] theorem Dev.modDom_mem (d : Dev) (n : Nat) (f : DomSt → DomSt) : (d.modDom n f).mem = d.mem := rfl
@[simp] theorem Dev.modDom_lines (d : Dev) (n : Nat) (f : DomSt → DomSt) : (d.modDom n f).lines = d.lines := rfl
@[simp] theorem Dev.modDom_zclear (d : Dev) (n : Nat) (f : DomSt → DomSt) : (d.modDom n f).zclear = d.zclear := rfl
@[simp] theorem Dev.modDom_keys (d : Dev) (n : Nat) (f : DomSt → DomSt) : (d.modDom n f).keys = d.keys := rfl
@[simp] theorem Dev.modDom_chans (d : Dev) (n : Nat) (f : DomSt → DomSt) : (d.modDom n f).chans = d.chans := rfl
@[simp] theorem Dev.modDom_panels (d : Dev) (n : Nat) (f : DomSt → DomSt) : (d.modDom n f).panels = d.panels := rfl
@[simp] theorem Dev.modDom_fabric (d : Dev) (n : Nat) (f : DomSt → DomSt) : (d.modDom n f).fabric = d.fabric := rfl
@[simp] theorem Dev.modDom_ports (d : Dev) (n : Nat) (f : DomSt → DomSt) : (d.modDom n f).ports = d.ports := rfl
@[simp] theorem Dev.modDom_stops (d : Dev) (n : Nat) (f : DomSt → DomSt) : (d.modDom n f).stops = d.stops := rfl
@[simp] theorem Dev.modDom_brx (d : Dev) (n : Nat) (f : DomSt → DomSt) : (d.modDom n f).brx = d.brx := rfl
@[simp] theorem Dev.modDom_engines (d : Dev) (n : Nat) (f : DomSt → DomSt) : (d.modDom n f).engines = d.engines := rfl
@[simp] theorem Dev.modDom_queues (d : Dev) (n : Nat) (f : DomSt → DomSt) : (d.modDom n f).queues = d.queues := rfl
@[simp] theorem Dev.modDom_events (d : Dev) (n : Nat) (f : DomSt → DomSt) : (d.modDom n f).events = d.events := rfl
@[simp] theorem Dev.modDom_gov (d : Dev) (n : Nat) (f : DomSt → DomSt) : (d.modDom n f).gov = d.gov := rfl
@[simp] theorem Dev.modDom_dict (d : Dev) (n : Nat) (f : DomSt → DomSt) : (d.modDom n f).dict = d.dict := rfl
@[simp] theorem Dev.modDom_errs (d : Dev) (n : Nat) (f : DomSt → DomSt) : (d.modDom n f).errs = d.errs := rfl
@[simp] theorem Dev.modDom_reports (d : Dev) (n : Nat) (f : DomSt → DomSt) : (d.modDom n f).reports = d.reports := rfl
@[simp] theorem Dev.modDom_board (d : Dev) (n : Nat) (f : DomSt → DomSt) : (d.modDom n f).board = d.board := rfl
@[simp] theorem Dev.modDom_outWord (d : Dev) (n : Nat) (f : DomSt → DomSt) : (d.modDom n f).outWord = d.outWord := rfl
@[simp] theorem Dev.modDom_outErr (d : Dev) (n : Nat) (f : DomSt → DomSt) : (d.modDom n f).outErr = d.outErr := rfl
@[simp] theorem Dev.modDom_outMsgs (d : Dev) (n : Nat) (f : DomSt → DomSt) : (d.modDom n f).outMsgs = d.outMsgs := rfl

/-! ### `Dev.setReg` -/

@[simp] theorem Dev.setReg_phase (d : Dev) (r : Reg) (v : Word) : (d.setReg r v).phase = d.phase := rfl
@[simp] theorem Dev.setReg_pins (d : Dev) (r : Reg) (v : Word) : (d.setReg r v).pins = d.pins := rfl
@[simp] theorem Dev.setReg_time (d : Dev) (r : Reg) (v : Word) : (d.setReg r v).time = d.time := rfl
@[simp] theorem Dev.setReg_freeCtr (d : Dev) (r : Reg) (v : Word) : (d.setReg r v).freeCtr = d.freeCtr := rfl
@[simp] theorem Dev.setReg_cores (d : Dev) (r : Reg) (v : Word) : (d.setReg r v).cores = d.cores := rfl
@[simp] theorem Dev.setReg_slices (d : Dev) (r : Reg) (v : Word) : (d.setReg r v).slices = d.slices := rfl
@[simp] theorem Dev.setReg_hash (d : Dev) (r : Reg) (v : Word) : (d.setReg r v).hash = d.hash := rfl
@[simp] theorem Dev.setReg_mem (d : Dev) (r : Reg) (v : Word) : (d.setReg r v).mem = d.mem := rfl
@[simp] theorem Dev.setReg_lines (d : Dev) (r : Reg) (v : Word) : (d.setReg r v).lines = d.lines := rfl
@[simp] theorem Dev.setReg_zclear (d : Dev) (r : Reg) (v : Word) : (d.setReg r v).zclear = d.zclear := rfl
@[simp] theorem Dev.setReg_keys (d : Dev) (r : Reg) (v : Word) : (d.setReg r v).keys = d.keys := rfl
@[simp] theorem Dev.setReg_chans (d : Dev) (r : Reg) (v : Word) : (d.setReg r v).chans = d.chans := rfl
@[simp] theorem Dev.setReg_panels (d : Dev) (r : Reg) (v : Word) : (d.setReg r v).panels = d.panels := rfl
@[simp] theorem Dev.setReg_fabric (d : Dev) (r : Reg) (v : Word) : (d.setReg r v).fabric = d.fabric := rfl
@[simp] theorem Dev.setReg_ports (d : Dev) (r : Reg) (v : Word) : (d.setReg r v).ports = d.ports := rfl
@[simp] theorem Dev.setReg_stops (d : Dev) (r : Reg) (v : Word) : (d.setReg r v).stops = d.stops := rfl
@[simp] theorem Dev.setReg_brx (d : Dev) (r : Reg) (v : Word) : (d.setReg r v).brx = d.brx := rfl
@[simp] theorem Dev.setReg_engines (d : Dev) (r : Reg) (v : Word) : (d.setReg r v).engines = d.engines := rfl
@[simp] theorem Dev.setReg_queues (d : Dev) (r : Reg) (v : Word) : (d.setReg r v).queues = d.queues := rfl
@[simp] theorem Dev.setReg_events (d : Dev) (r : Reg) (v : Word) : (d.setReg r v).events = d.events := rfl
@[simp] theorem Dev.setReg_doms (d : Dev) (r : Reg) (v : Word) : (d.setReg r v).doms = d.doms := rfl
@[simp] theorem Dev.setReg_gov (d : Dev) (r : Reg) (v : Word) : (d.setReg r v).gov = d.gov := rfl
@[simp] theorem Dev.setReg_dict (d : Dev) (r : Reg) (v : Word) : (d.setReg r v).dict = d.dict := rfl
@[simp] theorem Dev.setReg_errs (d : Dev) (r : Reg) (v : Word) : (d.setReg r v).errs = d.errs := rfl
@[simp] theorem Dev.setReg_reports (d : Dev) (r : Reg) (v : Word) : (d.setReg r v).reports = d.reports := rfl
@[simp] theorem Dev.setReg_board (d : Dev) (r : Reg) (v : Word) : (d.setReg r v).board = d.board := rfl
@[simp] theorem Dev.setReg_outWord (d : Dev) (r : Reg) (v : Word) : (d.setReg r v).outWord = d.outWord := rfl
@[simp] theorem Dev.setReg_outErr (d : Dev) (r : Reg) (v : Word) : (d.setReg r v).outErr = d.outErr := rfl
@[simp] theorem Dev.setReg_outMsgs (d : Dev) (r : Reg) (v : Word) : (d.setReg r v).outMsgs = d.outMsgs := rfl

/-! ### `Dev.setFld` -/

@[simp] theorem Dev.setFld_phase (d : Dev) (r : Reg) (f : Fld) (v : Nat) : (d.setFld r f v).phase = d.phase := rfl
@[simp] theorem Dev.setFld_pins (d : Dev) (r : Reg) (f : Fld) (v : Nat) : (d.setFld r f v).pins = d.pins := rfl
@[simp] theorem Dev.setFld_time (d : Dev) (r : Reg) (f : Fld) (v : Nat) : (d.setFld r f v).time = d.time := rfl
@[simp] theorem Dev.setFld_freeCtr (d : Dev) (r : Reg) (f : Fld) (v : Nat) : (d.setFld r f v).freeCtr = d.freeCtr := rfl
@[simp] theorem Dev.setFld_cores (d : Dev) (r : Reg) (f : Fld) (v : Nat) : (d.setFld r f v).cores = d.cores := rfl
@[simp] theorem Dev.setFld_slices (d : Dev) (r : Reg) (f : Fld) (v : Nat) : (d.setFld r f v).slices = d.slices := rfl
@[simp] theorem Dev.setFld_hash (d : Dev) (r : Reg) (f : Fld) (v : Nat) : (d.setFld r f v).hash = d.hash := rfl
@[simp] theorem Dev.setFld_mem (d : Dev) (r : Reg) (f : Fld) (v : Nat) : (d.setFld r f v).mem = d.mem := rfl
@[simp] theorem Dev.setFld_lines (d : Dev) (r : Reg) (f : Fld) (v : Nat) : (d.setFld r f v).lines = d.lines := rfl
@[simp] theorem Dev.setFld_zclear (d : Dev) (r : Reg) (f : Fld) (v : Nat) : (d.setFld r f v).zclear = d.zclear := rfl
@[simp] theorem Dev.setFld_keys (d : Dev) (r : Reg) (f : Fld) (v : Nat) : (d.setFld r f v).keys = d.keys := rfl
@[simp] theorem Dev.setFld_chans (d : Dev) (r : Reg) (f : Fld) (v : Nat) : (d.setFld r f v).chans = d.chans := rfl
@[simp] theorem Dev.setFld_panels (d : Dev) (r : Reg) (f : Fld) (v : Nat) : (d.setFld r f v).panels = d.panels := rfl
@[simp] theorem Dev.setFld_fabric (d : Dev) (r : Reg) (f : Fld) (v : Nat) : (d.setFld r f v).fabric = d.fabric := rfl
@[simp] theorem Dev.setFld_ports (d : Dev) (r : Reg) (f : Fld) (v : Nat) : (d.setFld r f v).ports = d.ports := rfl
@[simp] theorem Dev.setFld_stops (d : Dev) (r : Reg) (f : Fld) (v : Nat) : (d.setFld r f v).stops = d.stops := rfl
@[simp] theorem Dev.setFld_brx (d : Dev) (r : Reg) (f : Fld) (v : Nat) : (d.setFld r f v).brx = d.brx := rfl
@[simp] theorem Dev.setFld_engines (d : Dev) (r : Reg) (f : Fld) (v : Nat) : (d.setFld r f v).engines = d.engines := rfl
@[simp] theorem Dev.setFld_queues (d : Dev) (r : Reg) (f : Fld) (v : Nat) : (d.setFld r f v).queues = d.queues := rfl
@[simp] theorem Dev.setFld_events (d : Dev) (r : Reg) (f : Fld) (v : Nat) : (d.setFld r f v).events = d.events := rfl
@[simp] theorem Dev.setFld_doms (d : Dev) (r : Reg) (f : Fld) (v : Nat) : (d.setFld r f v).doms = d.doms := rfl
@[simp] theorem Dev.setFld_gov (d : Dev) (r : Reg) (f : Fld) (v : Nat) : (d.setFld r f v).gov = d.gov := rfl
@[simp] theorem Dev.setFld_dict (d : Dev) (r : Reg) (f : Fld) (v : Nat) : (d.setFld r f v).dict = d.dict := rfl
@[simp] theorem Dev.setFld_errs (d : Dev) (r : Reg) (f : Fld) (v : Nat) : (d.setFld r f v).errs = d.errs := rfl
@[simp] theorem Dev.setFld_reports (d : Dev) (r : Reg) (f : Fld) (v : Nat) : (d.setFld r f v).reports = d.reports := rfl
@[simp] theorem Dev.setFld_board (d : Dev) (r : Reg) (f : Fld) (v : Nat) : (d.setFld r f v).board = d.board := rfl
@[simp] theorem Dev.setFld_outWord (d : Dev) (r : Reg) (f : Fld) (v : Nat) : (d.setFld r f v).outWord = d.outWord := rfl
@[simp] theorem Dev.setFld_outErr (d : Dev) (r : Reg) (f : Fld) (v : Nat) : (d.setFld r f v).outErr = d.outErr := rfl
@[simp] theorem Dev.setFld_outMsgs (d : Dev) (r : Reg) (f : Fld) (v : Nat) : (d.setFld r f v).outMsgs = d.outMsgs := rfl

/-! ### `Dev.setFlds` -/

@[simp] theorem Dev.setFlds_phase (d : Dev) (r : Reg) (l : List (Fld × Nat)) : (d.setFlds r l).phase = d.phase := rfl
@[simp] theorem Dev.setFlds_pins (d : Dev) (r : Reg) (l : List (Fld × Nat)) : (d.setFlds r l).pins = d.pins := rfl
@[simp] theorem Dev.setFlds_time (d : Dev) (r : Reg) (l : List (Fld × Nat)) : (d.setFlds r l).time = d.time := rfl
@[simp] theorem Dev.setFlds_freeCtr (d : Dev) (r : Reg) (l : List (Fld × Nat)) : (d.setFlds r l).freeCtr = d.freeCtr := rfl
@[simp] theorem Dev.setFlds_cores (d : Dev) (r : Reg) (l : List (Fld × Nat)) : (d.setFlds r l).cores = d.cores := rfl
@[simp] theorem Dev.setFlds_slices (d : Dev) (r : Reg) (l : List (Fld × Nat)) : (d.setFlds r l).slices = d.slices := rfl
@[simp] theorem Dev.setFlds_hash (d : Dev) (r : Reg) (l : List (Fld × Nat)) : (d.setFlds r l).hash = d.hash := rfl
@[simp] theorem Dev.setFlds_mem (d : Dev) (r : Reg) (l : List (Fld × Nat)) : (d.setFlds r l).mem = d.mem := rfl
@[simp] theorem Dev.setFlds_lines (d : Dev) (r : Reg) (l : List (Fld × Nat)) : (d.setFlds r l).lines = d.lines := rfl
@[simp] theorem Dev.setFlds_zclear (d : Dev) (r : Reg) (l : List (Fld × Nat)) : (d.setFlds r l).zclear = d.zclear := rfl
@[simp] theorem Dev.setFlds_keys (d : Dev) (r : Reg) (l : List (Fld × Nat)) : (d.setFlds r l).keys = d.keys := rfl
@[simp] theorem Dev.setFlds_chans (d : Dev) (r : Reg) (l : List (Fld × Nat)) : (d.setFlds r l).chans = d.chans := rfl
@[simp] theorem Dev.setFlds_panels (d : Dev) (r : Reg) (l : List (Fld × Nat)) : (d.setFlds r l).panels = d.panels := rfl
@[simp] theorem Dev.setFlds_fabric (d : Dev) (r : Reg) (l : List (Fld × Nat)) : (d.setFlds r l).fabric = d.fabric := rfl
@[simp] theorem Dev.setFlds_ports (d : Dev) (r : Reg) (l : List (Fld × Nat)) : (d.setFlds r l).ports = d.ports := rfl
@[simp] theorem Dev.setFlds_stops (d : Dev) (r : Reg) (l : List (Fld × Nat)) : (d.setFlds r l).stops = d.stops := rfl
@[simp] theorem Dev.setFlds_brx (d : Dev) (r : Reg) (l : List (Fld × Nat)) : (d.setFlds r l).brx = d.brx := rfl
@[simp] theorem Dev.setFlds_engines (d : Dev) (r : Reg) (l : List (Fld × Nat)) : (d.setFlds r l).engines = d.engines := rfl
@[simp] theorem Dev.setFlds_queues (d : Dev) (r : Reg) (l : List (Fld × Nat)) : (d.setFlds r l).queues = d.queues := rfl
@[simp] theorem Dev.setFlds_events (d : Dev) (r : Reg) (l : List (Fld × Nat)) : (d.setFlds r l).events = d.events := rfl
@[simp] theorem Dev.setFlds_doms (d : Dev) (r : Reg) (l : List (Fld × Nat)) : (d.setFlds r l).doms = d.doms := rfl
@[simp] theorem Dev.setFlds_gov (d : Dev) (r : Reg) (l : List (Fld × Nat)) : (d.setFlds r l).gov = d.gov := rfl
@[simp] theorem Dev.setFlds_dict (d : Dev) (r : Reg) (l : List (Fld × Nat)) : (d.setFlds r l).dict = d.dict := rfl
@[simp] theorem Dev.setFlds_errs (d : Dev) (r : Reg) (l : List (Fld × Nat)) : (d.setFlds r l).errs = d.errs := rfl
@[simp] theorem Dev.setFlds_reports (d : Dev) (r : Reg) (l : List (Fld × Nat)) : (d.setFlds r l).reports = d.reports := rfl
@[simp] theorem Dev.setFlds_board (d : Dev) (r : Reg) (l : List (Fld × Nat)) : (d.setFlds r l).board = d.board := rfl
@[simp] theorem Dev.setFlds_outWord (d : Dev) (r : Reg) (l : List (Fld × Nat)) : (d.setFlds r l).outWord = d.outWord := rfl
@[simp] theorem Dev.setFlds_outErr (d : Dev) (r : Reg) (l : List (Fld × Nat)) : (d.setFlds r l).outErr = d.outErr := rfl
@[simp] theorem Dev.setFlds_outMsgs (d : Dev) (r : Reg) (l : List (Fld × Nat)) : (d.setFlds r l).outMsgs = d.outMsgs := rfl

/-! ### `Dev.report` -/

@[simp] theorem Dev.report_phase (d : Dev) (r : Report) : (d.report r).phase = d.phase := rfl
@[simp] theorem Dev.report_pins (d : Dev) (r : Report) : (d.report r).pins = d.pins := rfl
@[simp] theorem Dev.report_time (d : Dev) (r : Report) : (d.report r).time = d.time := rfl
@[simp] theorem Dev.report_freeCtr (d : Dev) (r : Report) : (d.report r).freeCtr = d.freeCtr := rfl
@[simp] theorem Dev.report_csr (d : Dev) (r : Report) : (d.report r).csr = d.csr := rfl
@[simp] theorem Dev.report_cores (d : Dev) (r : Report) : (d.report r).cores = d.cores := rfl
@[simp] theorem Dev.report_slices (d : Dev) (r : Report) : (d.report r).slices = d.slices := rfl
@[simp] theorem Dev.report_hash (d : Dev) (r : Report) : (d.report r).hash = d.hash := rfl
@[simp] theorem Dev.report_mem (d : Dev) (r : Report) : (d.report r).mem = d.mem := rfl
@[simp] theorem Dev.report_lines (d : Dev) (r : Report) : (d.report r).lines = d.lines := rfl
@[simp] theorem Dev.report_zclear (d : Dev) (r : Report) : (d.report r).zclear = d.zclear := rfl
@[simp] theorem Dev.report_keys (d : Dev) (r : Report) : (d.report r).keys = d.keys := rfl
@[simp] theorem Dev.report_chans (d : Dev) (r : Report) : (d.report r).chans = d.chans := rfl
@[simp] theorem Dev.report_panels (d : Dev) (r : Report) : (d.report r).panels = d.panels := rfl
@[simp] theorem Dev.report_fabric (d : Dev) (r : Report) : (d.report r).fabric = d.fabric := rfl
@[simp] theorem Dev.report_ports (d : Dev) (r : Report) : (d.report r).ports = d.ports := rfl
@[simp] theorem Dev.report_stops (d : Dev) (r : Report) : (d.report r).stops = d.stops := rfl
@[simp] theorem Dev.report_brx (d : Dev) (r : Report) : (d.report r).brx = d.brx := rfl
@[simp] theorem Dev.report_engines (d : Dev) (r : Report) : (d.report r).engines = d.engines := rfl
@[simp] theorem Dev.report_queues (d : Dev) (r : Report) : (d.report r).queues = d.queues := rfl
@[simp] theorem Dev.report_events (d : Dev) (r : Report) : (d.report r).events = d.events := rfl
@[simp] theorem Dev.report_doms (d : Dev) (r : Report) : (d.report r).doms = d.doms := rfl
@[simp] theorem Dev.report_gov (d : Dev) (r : Report) : (d.report r).gov = d.gov := rfl
@[simp] theorem Dev.report_dict (d : Dev) (r : Report) : (d.report r).dict = d.dict := rfl
@[simp] theorem Dev.report_errs (d : Dev) (r : Report) : (d.report r).errs = d.errs := rfl
@[simp] theorem Dev.report_board (d : Dev) (r : Report) : (d.report r).board = d.board := rfl
@[simp] theorem Dev.report_outWord (d : Dev) (r : Report) : (d.report r).outWord = d.outWord := rfl
@[simp] theorem Dev.report_outErr (d : Dev) (r : Report) : (d.report r).outErr = d.outErr := rfl
@[simp] theorem Dev.report_outMsgs (d : Dev) (r : Report) : (d.report r).outMsgs = d.outMsgs := rfl

/-! ### `Dev.setOd` -/

@[simp] theorem Dev.setOd_phase (d : Dev) (i j v : Nat) : (d.setOd i j v).phase = d.phase := rfl
@[simp] theorem Dev.setOd_pins (d : Dev) (i j v : Nat) : (d.setOd i j v).pins = d.pins := rfl
@[simp] theorem Dev.setOd_time (d : Dev) (i j v : Nat) : (d.setOd i j v).time = d.time := rfl
@[simp] theorem Dev.setOd_freeCtr (d : Dev) (i j v : Nat) : (d.setOd i j v).freeCtr = d.freeCtr := rfl
@[simp] theorem Dev.setOd_csr (d : Dev) (i j v : Nat) : (d.setOd i j v).csr = d.csr := rfl
@[simp] theorem Dev.setOd_cores (d : Dev) (i j v : Nat) : (d.setOd i j v).cores = d.cores := rfl
@[simp] theorem Dev.setOd_slices (d : Dev) (i j v : Nat) : (d.setOd i j v).slices = d.slices := rfl
@[simp] theorem Dev.setOd_hash (d : Dev) (i j v : Nat) : (d.setOd i j v).hash = d.hash := rfl
@[simp] theorem Dev.setOd_mem (d : Dev) (i j v : Nat) : (d.setOd i j v).mem = d.mem := rfl
@[simp] theorem Dev.setOd_lines (d : Dev) (i j v : Nat) : (d.setOd i j v).lines = d.lines := rfl
@[simp] theorem Dev.setOd_zclear (d : Dev) (i j v : Nat) : (d.setOd i j v).zclear = d.zclear := rfl
@[simp] theorem Dev.setOd_keys (d : Dev) (i j v : Nat) : (d.setOd i j v).keys = d.keys := rfl
@[simp] theorem Dev.setOd_chans (d : Dev) (i j v : Nat) : (d.setOd i j v).chans = d.chans := rfl
@[simp] theorem Dev.setOd_panels (d : Dev) (i j v : Nat) : (d.setOd i j v).panels = d.panels := rfl
@[simp] theorem Dev.setOd_fabric (d : Dev) (i j v : Nat) : (d.setOd i j v).fabric = d.fabric := rfl
@[simp] theorem Dev.setOd_ports (d : Dev) (i j v : Nat) : (d.setOd i j v).ports = d.ports := rfl
@[simp] theorem Dev.setOd_stops (d : Dev) (i j v : Nat) : (d.setOd i j v).stops = d.stops := rfl
@[simp] theorem Dev.setOd_brx (d : Dev) (i j v : Nat) : (d.setOd i j v).brx = d.brx := rfl
@[simp] theorem Dev.setOd_engines (d : Dev) (i j v : Nat) : (d.setOd i j v).engines = d.engines := rfl
@[simp] theorem Dev.setOd_queues (d : Dev) (i j v : Nat) : (d.setOd i j v).queues = d.queues := rfl
@[simp] theorem Dev.setOd_events (d : Dev) (i j v : Nat) : (d.setOd i j v).events = d.events := rfl
@[simp] theorem Dev.setOd_doms (d : Dev) (i j v : Nat) : (d.setOd i j v).doms = d.doms := rfl
@[simp] theorem Dev.setOd_gov (d : Dev) (i j v : Nat) : (d.setOd i j v).gov = d.gov := rfl
@[simp] theorem Dev.setOd_errs (d : Dev) (i j v : Nat) : (d.setOd i j v).errs = d.errs := rfl
@[simp] theorem Dev.setOd_reports (d : Dev) (i j v : Nat) : (d.setOd i j v).reports = d.reports := rfl
@[simp] theorem Dev.setOd_board (d : Dev) (i j v : Nat) : (d.setOd i j v).board = d.board := rfl
@[simp] theorem Dev.setOd_outWord (d : Dev) (i j v : Nat) : (d.setOd i j v).outWord = d.outWord := rfl
@[simp] theorem Dev.setOd_outErr (d : Dev) (i j v : Nat) : (d.setOd i j v).outErr = d.outErr := rfl
@[simp] theorem Dev.setOd_outMsgs (d : Dev) (i j v : Nat) : (d.setOd i j v).outMsgs = d.outMsgs := rfl

/-! ### `Dev.setForce` -/

@[simp] theorem Dev.setForce_phase (d : Dev) (i j v : Nat) : (d.setForce i j v).phase = d.phase := rfl
@[simp] theorem Dev.setForce_pins (d : Dev) (i j v : Nat) : (d.setForce i j v).pins = d.pins := rfl
@[simp] theorem Dev.setForce_time (d : Dev) (i j v : Nat) : (d.setForce i j v).time = d.time := rfl
@[simp] theorem Dev.setForce_freeCtr (d : Dev) (i j v : Nat) : (d.setForce i j v).freeCtr = d.freeCtr := rfl
@[simp] theorem Dev.setForce_csr (d : Dev) (i j v : Nat) : (d.setForce i j v).csr = d.csr := rfl
@[simp] theorem Dev.setForce_cores (d : Dev) (i j v : Nat) : (d.setForce i j v).cores = d.cores := rfl
@[simp] theorem Dev.setForce_slices (d : Dev) (i j v : Nat) : (d.setForce i j v).slices = d.slices := rfl
@[simp] theorem Dev.setForce_hash (d : Dev) (i j v : Nat) : (d.setForce i j v).hash = d.hash := rfl
@[simp] theorem Dev.setForce_mem (d : Dev) (i j v : Nat) : (d.setForce i j v).mem = d.mem := rfl
@[simp] theorem Dev.setForce_lines (d : Dev) (i j v : Nat) : (d.setForce i j v).lines = d.lines := rfl
@[simp] theorem Dev.setForce_zclear (d : Dev) (i j v : Nat) : (d.setForce i j v).zclear = d.zclear := rfl
@[simp] theorem Dev.setForce_keys (d : Dev) (i j v : Nat) : (d.setForce i j v).keys = d.keys := rfl
@[simp] theorem Dev.setForce_chans (d : Dev) (i j v : Nat) : (d.setForce i j v).chans = d.chans := rfl
@[simp] theorem Dev.setForce_panels (d : Dev) (i j v : Nat) : (d.setForce i j v).panels = d.panels := rfl
@[simp] theorem Dev.setForce_fabric (d : Dev) (i j v : Nat) : (d.setForce i j v).fabric = d.fabric := rfl
@[simp] theorem Dev.setForce_ports (d : Dev) (i j v : Nat) : (d.setForce i j v).ports = d.ports := rfl
@[simp] theorem Dev.setForce_stops (d : Dev) (i j v : Nat) : (d.setForce i j v).stops = d.stops := rfl
@[simp] theorem Dev.setForce_brx (d : Dev) (i j v : Nat) : (d.setForce i j v).brx = d.brx := rfl
@[simp] theorem Dev.setForce_engines (d : Dev) (i j v : Nat) : (d.setForce i j v).engines = d.engines := rfl
@[simp] theorem Dev.setForce_queues (d : Dev) (i j v : Nat) : (d.setForce i j v).queues = d.queues := rfl
@[simp] theorem Dev.setForce_events (d : Dev) (i j v : Nat) : (d.setForce i j v).events = d.events := rfl
@[simp] theorem Dev.setForce_doms (d : Dev) (i j v : Nat) : (d.setForce i j v).doms = d.doms := rfl
@[simp] theorem Dev.setForce_gov (d : Dev) (i j v : Nat) : (d.setForce i j v).gov = d.gov := rfl
@[simp] theorem Dev.setForce_errs (d : Dev) (i j v : Nat) : (d.setForce i j v).errs = d.errs := rfl
@[simp] theorem Dev.setForce_reports (d : Dev) (i j v : Nat) : (d.setForce i j v).reports = d.reports := rfl
@[simp] theorem Dev.setForce_board (d : Dev) (i j v : Nat) : (d.setForce i j v).board = d.board := rfl
@[simp] theorem Dev.setForce_outWord (d : Dev) (i j v : Nat) : (d.setForce i j v).outWord = d.outWord := rfl
@[simp] theorem Dev.setForce_outErr (d : Dev) (i j v : Nat) : (d.setForce i j v).outErr = d.outErr := rfl
@[simp] theorem Dev.setForce_outMsgs (d : Dev) (i j v : Nat) : (d.setForce i j v).outMsgs = d.outMsgs := rfl

/-! ### `Dev.draw` -/

@[simp] theorem Dev.draw_phase (d : Dev) : d.draw.2.phase = d.phase := rfl
@[simp] theorem Dev.draw_pins (d : Dev) : d.draw.2.pins = d.pins := rfl
@[simp] theorem Dev.draw_time (d : Dev) : d.draw.2.time = d.time := rfl
@[simp] theorem Dev.draw_csr (d : Dev) : d.draw.2.csr = d.csr := rfl
@[simp] theorem Dev.draw_cores (d : Dev) : d.draw.2.cores = d.cores := rfl
@[simp] theorem Dev.draw_slices (d : Dev) : d.draw.2.slices = d.slices := rfl
@[simp] theorem Dev.draw_hash (d : Dev) : d.draw.2.hash = d.hash := rfl
@[simp] theorem Dev.draw_mem (d : Dev) : d.draw.2.mem = d.mem := rfl
@[simp] theorem Dev.draw_lines (d : Dev) : d.draw.2.lines = d.lines := rfl
@[simp] theorem Dev.draw_zclear (d : Dev) : d.draw.2.zclear = d.zclear := rfl
@[simp] theorem Dev.draw_keys (d : Dev) : d.draw.2.keys = d.keys := rfl
@[simp] theorem Dev.draw_chans (d : Dev) : d.draw.2.chans = d.chans := rfl
@[simp] theorem Dev.draw_panels (d : Dev) : d.draw.2.panels = d.panels := rfl
@[simp] theorem Dev.draw_fabric (d : Dev) : d.draw.2.fabric = d.fabric := rfl
@[simp] theorem Dev.draw_ports (d : Dev) : d.draw.2.ports = d.ports := rfl
@[simp] theorem Dev.draw_stops (d : Dev) : d.draw.2.stops = d.stops := rfl
@[simp] theorem Dev.draw_brx (d : Dev) : d.draw.2.brx = d.brx := rfl
@[simp] theorem Dev.draw_engines (d : Dev) : d.draw.2.engines = d.engines := rfl
@[simp] theorem Dev.draw_queues (d : Dev) : d.draw.2.queues = d.queues := rfl
@[simp] theorem Dev.draw_events (d : Dev) : d.draw.2.events = d.events := rfl
@[simp] theorem Dev.draw_doms (d : Dev) : d.draw.2.doms = d.doms := rfl
@[simp] theorem Dev.draw_gov (d : Dev) : d.draw.2.gov = d.gov := rfl
@[simp] theorem Dev.draw_dict (d : Dev) : d.draw.2.dict = d.dict := rfl
@[simp] theorem Dev.draw_errs (d : Dev) : d.draw.2.errs = d.errs := rfl
@[simp] theorem Dev.draw_reports (d : Dev) : d.draw.2.reports = d.reports := rfl
@[simp] theorem Dev.draw_board (d : Dev) : d.draw.2.board = d.board := rfl
@[simp] theorem Dev.draw_outWord (d : Dev) : d.draw.2.outWord = d.outWord := rfl
@[simp] theorem Dev.draw_outErr (d : Dev) : d.draw.2.outErr = d.outErr := rfl
@[simp] theorem Dev.draw_outMsgs (d : Dev) : d.draw.2.outMsgs = d.outMsgs := rfl
@[simp] theorem Dev.draw_freeCtr (d : Dev) : d.draw.2.freeCtr = d.freeCtr + 1 := rfl
@[simp] theorem Dev.draw_fst (d : Dev) : d.draw.1 = d.freeCtr := rfl
@[simp] theorem Dev.report_reports (d : Dev) (r : Report) : (d.report r).reports = d.reports ++ [r] := rfl

/-! ### `State.next` -/

@[simp] theorem State.next_eq (s : State) (d : Dev) : s.next d = .next { s with dev := d } := rfl

end Sys2Proof.Machine
end

