-- ==== Sys2Proof/Laws/Table.lean ====
section
/-! SUPPORT. The laws of sparse tables and of bit slices: what is read after a write, that other entries stand, and that the
canonical form is kept. -/

namespace Sys2Proof.Machine

/-! ### Reading after writing -/

theorem Tbl.get_set_self {α : Type} (z : α) (k : Nat) (v : α) (t : Tbl α) : Tbl.get z k (Tbl.set k v t) = v := by
  induction t with
  | nil => simp [Tbl.set, Tbl.get]
  | cons e t ih =>
    obtain ⟨j, w⟩ := e
    by_cases h : j = k
    · simp [Tbl.set, Tbl.get, h]
    · by_cases h2 : k < j <;> simp [Tbl.set, Tbl.get, h, h2, ih]

theorem Tbl.get_set_other {α : Type} (z : α) {k n : Nat} (v : α) (t : Tbl α) (h : n ≠ k) :
    Tbl.get z n (Tbl.set k v t) = Tbl.get z n t := by
  induction t with
  | nil => simp [Tbl.set, Tbl.get, Ne.symm h]
  | cons e t ih =>
    obtain ⟨j, w⟩ := e
    by_cases h1 : j = k
    · subst h1; simp [Tbl.set, Tbl.get, Ne.symm h]
    · by_cases h2 : k < j <;> simp [Tbl.set, Tbl.get, h1, h2, ih, Ne.symm h]

theorem Tbl.get_del_self {α : Type} (z : α) (k : Nat) (t : Tbl α) : Tbl.get z k (Tbl.del k t) = z := by
  induction t with
  | nil => simp [Tbl.del, Tbl.get]
  | cons e t ih =>
    obtain ⟨j, w⟩ := e
    by_cases h : j = k <;> simp [Tbl.del, Tbl.get, h, ih]

theorem Tbl.get_del_other {α : Type} (z : α) {k n : Nat} (t : Tbl α) (h : n ≠ k) :
    Tbl.get z n (Tbl.del k t) = Tbl.get z n t := by
  induction t with
  | nil => simp [Tbl.del]
  | cons e t ih =>
    obtain ⟨j, w⟩ := e
    by_cases h1 : j = k
    · subst h1; simp [Tbl.del, Tbl.get, ih, Ne.symm h]
    · simp [Tbl.del, Tbl.get, h1, ih]

@[simp] theorem Tbl.get_put_self {α : Type} [DecidableEq α] (z : α) (k : Nat) (v : α) (t : Tbl α) :
    Tbl.get z k (Tbl.put z k v t) = v := by
  unfold Tbl.put
  split
  · next h => rw [Tbl.get_del_self, h]
  · exact Tbl.get_set_self z k v t

@[simp] theorem Tbl.get_put_other {α : Type} [DecidableEq α] (z : α) {k n : Nat} (v : α) (t : Tbl α) (h : n ≠ k) :
    Tbl.get z n (Tbl.put z k v t) = Tbl.get z n t := by
  unfold Tbl.put
  split
  · exact Tbl.get_del_other z t h
  · exact Tbl.get_set_other z v t h

/-! ### The canonical form -/

/-- Every key of a table is above `k`. -/
def Tbl.AllAbove {α : Type} (k : Nat) (t : Tbl α) : Prop := ∀ e ∈ t, k < e.1

theorem Tbl.sorted_cons {α : Type} (k : Nat) (v : α) (t : Tbl α) :
    Tbl.sorted ((k, v) :: t) = true ↔ Tbl.AllAbove k t ∧ Tbl.sorted t = true := by
  induction t generalizing k v with
  | nil => simp [Tbl.sorted, Tbl.above, Tbl.AllAbove]
  | cons e t ih =>
    obtain ⟨j, w⟩ := e
    have step := ih j w
    simp only [Tbl.sorted, Tbl.above, Bool.and_eq_true, decide_eq_true_eq] at step ⊢
    constructor
    · rintro ⟨h1, h2, h3⟩
      refine ⟨?_, h2, h3⟩
      intro e he
      rcases List.mem_cons.1 he with rfl | he
      · exact h1
      · exact lt_trans h1 ((step.1 ⟨h2, h3⟩).1 e he)
    · rintro ⟨h1, h2, h3⟩
      exact ⟨h1 (j, w) (by simp), h2, h3⟩

theorem Tbl.sorted_iff {α : Type} (t : Tbl α) : Tbl.sorted t = true ↔ t.Pairwise fun a b => a.1 < b.1 := by
  induction t with
  | nil => simp [Tbl.sorted]
  | cons e t ih =>
    obtain ⟨j, w⟩ := e
    rw [Tbl.sorted_cons, ih, List.pairwise_cons]
    rfl

theorem Tbl.wf_iff {α : Type} [DecidableEq α] (z : α) (t : Tbl α) :
    Tbl.wf z t = true ↔ (t.Pairwise fun a b => a.1 < b.1) ∧ ∀ e ∈ t, e.2 ≠ z := by
  simp [Tbl.wf, Tbl.sorted_iff]

theorem Tbl.mem_set {α : Type} (k : Nat) (v : α) (t : Tbl α) (e : Nat × α) (h : e ∈ Tbl.set k v t) : e = (k, v) ∨ e ∈ t := by
  induction t with
  | nil => simpa [Tbl.set] using h
  | cons f t ih =>
    obtain ⟨j, w⟩ := f
    unfold Tbl.set at h
    split at h
    · rcases List.mem_cons.1 h with h | h <;> simp [h]
    · split at h
      · rcases List.mem_cons.1 h with h | h
        · exact Or.inl h
        · exact Or.inr h
      · rcases List.mem_cons.1 h with h | h
        · simp [h]
        · rcases ih h with h | h <;> simp [h]

theorem Tbl.set_pairwise {α : Type} (k : Nat) (v : α) (t : Tbl α) (h : t.Pairwise fun a b => a.1 < b.1) :
    (Tbl.set k v t).Pairwise fun a b => a.1 < b.1 := by
  induction t with
  | nil => simp [Tbl.set]
  | cons f t ih =>
    obtain ⟨j, w⟩ := f
    rw [List.pairwise_cons] at h
    unfold Tbl.set
    split
    · next e => subst e; exact List.pairwise_cons.2 ⟨h.1, h.2⟩
    · split
      · next hk =>
        refine List.pairwise_cons.2 ⟨?_, List.pairwise_cons.2 h⟩
        intro e he
        rcases List.mem_cons.1 he with rfl | he
        · exact hk
        · exact lt_trans hk (h.1 e he)
      · next hne hlt =>
        refine List.pairwise_cons.2 ⟨?_, ih h.2⟩
        intro e he
        rcases Tbl.mem_set k v t e he with rfl | he
        · have : j ≠ k := hne
          simp only; omega
        · exact h.1 e he

theorem Tbl.del_sublist {α : Type} (k : Nat) (t : Tbl α) : List.Sublist (Tbl.del k t) t := by
  induction t with
  | nil => exact List.Sublist.refl _
  | cons f t ih =>
    obtain ⟨j, w⟩ := f
    unfold Tbl.del
    split
    · exact ih.trans (List.sublist_cons_self _ _)
    · exact ih.cons_cons _

/-- A table smaller than a canonical one is canonical. -/
theorem Tbl.wf_sublist {α : Type} [DecidableEq α] {z : α} {t u : Tbl α} (h : List.Sublist u t) (ht : Tbl.wf z t = true) :
    Tbl.wf z u = true := by
  rw [Tbl.wf_iff] at *
  exact ⟨ht.1.sublist h, fun e he => ht.2 e (h.subset he)⟩

theorem Tbl.wf_filter {α : Type} [DecidableEq α] {z : α} {t : Tbl α} (p : Nat × α → Bool) (ht : Tbl.wf z t = true) :
    Tbl.wf z (t.filter p) = true := Tbl.wf_sublist List.filter_sublist ht

theorem Tbl.wf_put {α : Type} [DecidableEq α] {z : α} {t : Tbl α} (k : Nat) (v : α) (ht : Tbl.wf z t = true) :
    Tbl.wf z (Tbl.put z k v t) = true := by
  unfold Tbl.put
  split
  · exact Tbl.wf_sublist (Tbl.del_sublist k t) ht
  · next hv =>
    rw [Tbl.wf_iff] at *
    refine ⟨Tbl.set_pairwise k v t ht.1, fun e he => ?_⟩
    rcases Tbl.mem_set k v t e he with rfl | he
    · exact hv
    · exact ht.2 e he

/-! ### Slices of words -/

theorem ofNat_bit (n i : Nat) (hi : i < 64) : (BitVec.ofNat 64 n).getLsbD i = n.testBit i := by
  rw [BitVec.getLsbD_ofNat]
  simp only [hi, decide_true, Bool.true_and]

theorem Fld.mask_getLsbD (f : Fld) (i : Nat) (hi : i < 64) :
    f.mask.getLsbD i = (decide (f.lo ≤ i) && decide (i < f.lo + f.width)) := by
  rw [Fld.mask, ofNat_bit _ _ hi, Nat.testBit_shiftLeft, Nat.testBit_two_pow_sub_one]
  by_cases h1 : f.lo ≤ i
  · have h : (i - f.lo < f.width) = (i < f.lo + f.width) := by apply propext; omega
    simp only [h1, h, decide_true]
  · simp only [h1, decide_false, Bool.false_and]

/-- What a slice reads after it is written. -/
theorem getF_setF_self (w : Word) (f : Fld) (x : Nat) (hf : f.lo + f.width ≤ 64) : getF (setF w f x) f = x % 2 ^ f.width := by
  apply Nat.eq_of_testBit_eq
  intro i
  simp only [getF, Nat.testBit_mod_two_pow, Nat.testBit_shiftRight]
  by_cases hi : i < f.width
  · have h64 : f.lo + i < 64 := by omega
    have e : (setF w f x).toNat.testBit (f.lo + i) = (setF w f x).getLsbD (f.lo + i) := rfl
    rw [e, setF, BitVec.getLsbD_or, BitVec.getLsbD_and, BitVec.getLsbD_not, Fld.mask_getLsbD f _ h64, ofNat_bit _ _ h64,
      Nat.testBit_shiftLeft, Nat.testBit_mod_two_pow]
    have h1 : f.lo + i < f.lo + f.width := by omega
    have h2 : f.lo + i - f.lo = i := by omega
    have h3 : f.lo ≤ f.lo + i := by omega
    simp only [hi, h1, h2, h3, decide_true, Bool.and_self, Bool.not_true, Bool.and_false, Bool.false_or, Bool.true_and]
  · simp only [hi, decide_false, Bool.false_and]

/-- What another slice reads after a slice is written. -/
theorem getF_setF_other (w : Word) (f g : Fld) (x : Nat) (hg : g.lo + g.width ≤ 64)
    (h : f.lo + f.width ≤ g.lo ∨ g.lo + g.width ≤ f.lo) : getF (setF w f x) g = getF w g := by
  apply Nat.eq_of_testBit_eq
  intro i
  simp only [getF, Nat.testBit_mod_two_pow, Nat.testBit_shiftRight]
  by_cases hi : i < g.width
  · have h64 : g.lo + i < 64 := by omega
    have e : ∀ y : Word, y.toNat.testBit (g.lo + i) = y.getLsbD (g.lo + i) := fun _ => rfl
    have out : (decide (f.lo ≤ g.lo + i) && decide (g.lo + i < f.lo + f.width)) = false := by
      rw [Bool.and_eq_false_iff, decide_eq_false_iff_not, decide_eq_false_iff_not]
      omega
    have zero : (BitVec.ofNat 64 ((x % 2 ^ f.width) <<< f.lo)).getLsbD (g.lo + i) = false := by
      rw [ofNat_bit _ _ h64, Nat.testBit_shiftLeft, Nat.testBit_mod_two_pow]
      by_cases a : f.lo ≤ g.lo + i
      · have b : ¬ g.lo + i - f.lo < f.width := by omega
        simp only [b, decide_false, Bool.false_and, Bool.and_false]
      · simp only [a, decide_false, Bool.false_and]
    rw [e, e, setF, BitVec.getLsbD_or, BitVec.getLsbD_and, BitVec.getLsbD_not, Fld.mask_getLsbD f _ h64, zero, out]
    simp only [h64, decide_true, Bool.not_false, Bool.and_true, Bool.or_false]
  · simp only [hi, decide_false, Bool.false_and]

end Sys2Proof.Machine
end

