-- ==== Sys2Proof/Laws/Units.lean ====
section
/-! SUPPORT. Units and registers read after they are written. -/

namespace Sys2Proof.Machine

@[simp] theorem Dev.core_modCore_self (d : Dev) (n : Nat) (f : Core → Core) : (d.modCore n f).core n = f (d.core n) :=
  Tbl.get_put_self _ _ _ _
@[simp] theorem Dev.core_modCore_other (d : Dev) {n k : Nat} (f : Core → Core) (h : k ≠ n) : (d.modCore n f).core k = d.core k :=
  Tbl.get_put_other _ _ _ h
@[simp] theorem Dev.slice_modSlice_self (d : Dev) (n : Nat) (f : Slice → Slice) : (d.modSlice n f).slice n = f (d.slice n) :=
  Tbl.get_put_self _ _ _ _
@[simp] theorem Dev.slice_modSlice_other (d : Dev) {n k : Nat} (f : Slice → Slice) (h : k ≠ n) : (d.modSlice n f).slice k = d.slice k :=
  Tbl.get_put_other _ _ _ h
@[simp] theorem Dev.chan_modChan_self (d : Dev) (n : Nat) (f : ChanSt → ChanSt) : (d.modChan n f).chan n = f (d.chan n) :=
  Tbl.get_put_self _ _ _ _
@[simp] theorem Dev.chan_modChan_other (d : Dev) {n k : Nat} (f : ChanSt → ChanSt) (h : k ≠ n) : (d.modChan n f).chan k = d.chan k :=
  Tbl.get_put_other _ _ _ h
@[simp] theorem Dev.panel_modPanel_self (d : Dev) (n : Nat) (f : Panel → Panel) : (d.modPanel n f).panel n = f (d.panel n) :=
  Tbl.get_put_self _ _ _ _
@[simp] theorem Dev.panel_modPanel_other (d : Dev) {n k : Nat} (f : Panel → Panel) (h : k ≠ n) : (d.modPanel n f).panel k = d.panel k :=
  Tbl.get_put_other _ _ _ h
@[simp] theorem Dev.port_modPort_self (d : Dev) (n : Nat) (f : PortSt → PortSt) : (d.modPort n f).port n = f (d.port n) :=
  Tbl.get_put_self _ _ _ _
@[simp] theorem Dev.port_modPort_other (d : Dev) {n k : Nat} (f : PortSt → PortSt) (h : k ≠ n) : (d.modPort n f).port k = d.port k :=
  Tbl.get_put_other _ _ _ h
@[simp] theorem Dev.stop_modStop_self (d : Dev) (n : Nat) (f : IoStop → IoStop) : (d.modStop n f).stop n = f (d.stop n) :=
  Tbl.get_put_self _ _ _ _
@[simp] theorem Dev.stop_modStop_other (d : Dev) {n k : Nat} (f : IoStop → IoStop) (h : k ≠ n) : (d.modStop n f).stop k = d.stop k :=
  Tbl.get_put_other _ _ _ h
@[simp] theorem Dev.link_modLink_self (d : Dev) (n : Nat) (f : BrxLink → BrxLink) : (d.modLink n f).link n = f (d.link n) :=
  Tbl.get_put_self _ _ _ _
@[simp] theorem Dev.link_modLink_other (d : Dev) {n k : Nat} (f : BrxLink → BrxLink) (h : k ≠ n) : (d.modLink n f).link k = d.link k :=
  Tbl.get_put_other _ _ _ h
@[simp] theorem Dev.engine_modEngine_self (d : Dev) (n : Nat) (f : Engine → Engine) : (d.modEngine n f).engine n = f (d.engine n) :=
  Tbl.get_put_self _ _ _ _
@[simp] theorem Dev.engine_modEngine_other (d : Dev) {n k : Nat} (f : Engine → Engine) (h : k ≠ n) : (d.modEngine n f).engine k = d.engine k :=
  Tbl.get_put_other _ _ _ h
@[simp] theorem Dev.queue_modQueue_self (d : Dev) (n : Nat) (f : QueueSt → QueueSt) : (d.modQueue n f).queue n = f (d.queue n) :=
  Tbl.get_put_self _ _ _ _
@[simp] theorem Dev.queue_modQueue_other (d : Dev) {n k : Nat} (f : QueueSt → QueueSt) (h : k ≠ n) : (d.modQueue n f).queue k = d.queue k :=
  Tbl.get_put_other _ _ _ h
@[simp] theorem Dev.dom_modDom_self (d : Dev) (n : Nat) (f : DomSt → DomSt) : (d.modDom n f).dom n = f (d.dom n) :=
  Tbl.get_put_self _ _ _ _
@[simp] theorem Dev.dom_modDom_other (d : Dev) {n k : Nat} (f : DomSt → DomSt) (h : k ≠ n) : (d.modDom n f).dom k = d.dom k :=
  Tbl.get_put_other _ _ _ h

@[simp] theorem Dev.arch_modArch_self (d : Dev) (n : Nat) (f : Arch → Arch) : (d.modArch n f).arch n = f (d.arch n) := by
  simp [Dev.arch, Dev.modArch]
@[simp] theorem Dev.arch_modArch_other (d : Dev) {n k : Nat} (f : Arch → Arch) (h : k ≠ n) : (d.modArch n f).arch k = d.arch k := by
  simp [Dev.arch, Dev.modArch, h]
@[simp] theorem Dev.reg_setReg_self (d : Dev) (r : Reg) (v : Word) : (d.setReg r v).reg r = v := Tbl.get_put_self _ _ _ _
@[simp] theorem Dev.reg_setReg_other (d : Dev) {r q : Reg} (v : Word) (h : q.offset ≠ r.offset) : (d.setReg r v).reg q = d.reg q := by
  unfold Dev.reg Dev.setReg Tbl.put
  split
  · exact Tbl.get_del_other _ _ h
  · exact Tbl.get_set_other _ _ _ h
@[simp] theorem Dev.reg_setFld_other (d : Dev) {r q : Reg} (f : Fld) (n : Nat) (h : q.offset ≠ r.offset) :
    (d.setFld r f n).reg q = d.reg q := Dev.reg_setReg_other d _ h
theorem Dev.fld_setFld_self (d : Dev) (r : Reg) (f : Fld) (n : Nat) (h : f.lo + f.width ≤ 64) :
    (d.setFld r f n).fld r f = n % 2 ^ f.width := by
  simp [Dev.fld, Dev.setFld, getF_setF_self _ _ _ h]
theorem Dev.fld_setFld_other (d : Dev) (r : Reg) (f g : Fld) (n : Nat) (hg : g.lo + g.width ≤ 64)
    (h : f.lo + f.width ≤ g.lo ∨ g.lo + g.width ≤ f.lo) : (d.setFld r f n).fld r g = d.fld r g := by
  simp [Dev.fld, Dev.setFld, getF_setF_other _ _ _ _ hg h]

/-! ### General, predicate and vector registers -/

@[simp] theorem Arch.getG_setG_self (a : Arch) (r : Fin 32) (v : Word) : (a.setG r v).getG r = if r = 0 then 0 else v := by
  unfold Arch.getG Arch.setG
  split <;> simp
theorem Arch.getG_setG_other (a : Arch) {r q : Fin 32} (v : Word) (h : q ≠ r) : (a.setG r v).getG q = a.getG q := by
  have : r.val ≠ q.val := fun e => h (Fin.ext e.symm)
  by_cases h1 : q = 0 <;> by_cases h2 : r = 0 <;> simp [Arch.getG, Arch.setG, h1, h2, this]
@[simp] theorem Arch.getG_zero (a : Arch) : a.getG 0 = 0 := rfl
@[simp] theorem Arch.getP_zero (a : Arch) : a.getP 0 = true := rfl
@[simp] theorem Arch.getP_setP_self (a : Arch) (r : Fin 8) (v : Bool) : (a.setP r v).getP r = if r = 0 then true else v := by
  unfold Arch.getP Arch.setP
  split <;> simp
theorem Arch.getP_setP_other (a : Arch) {r q : Fin 8} (v : Bool) (h : q ≠ r) : (a.setP r v).getP q = a.getP q := by
  have : r.val ≠ q.val := fun e => h (Fin.ext e.symm)
  by_cases h1 : q = 0 <;> by_cases h2 : r = 0 <;> simp [Arch.getP, Arch.setP, h1, h2, this]
@[simp] theorem Arch.getV_setV_self (a : Arch) (r : Fin 32) (v : Vec) : (a.setV r v).getV r = v := by
  simp [Arch.getV, Arch.setV]
theorem Arch.getV_setV_other (a : Arch) {r q : Fin 32} (v : Vec) (h : q ≠ r) : (a.setV r v).getV q = a.getV q := by
  have : r.val ≠ q.val := fun e => h (Fin.ext e.symm)
  simp [Arch.getV, Arch.setV, this]

end Sys2Proof.Machine
end

