-- ==== Sys2Proof/Laws/Instr.lean ====
section
/-! SUPPORT. What executing an instruction does, once for every instruction: the checks of R41 passed, its operation and then what
follows it; its guard failed, retirement alone; and how the recording of errors ends. -/

namespace Sys2Proof.Machine

/-! ### Recording errors -/

theorem Dev.settleN_quiet (n : Nat) (d : Dev) (h : d.reports = []) : Dev.settleN n d = d := by
  cases n with
  | zero => rfl
  | succ n => simp [Dev.settleN, h]

theorem Dev.settle_quiet (d : Dev) (h : d.reports = []) : d.settle = d := Dev.settleN_quiet 256 d h

/-! ### The end of a command -/

/-- A command that has not had to wait keeps its effect. -/
theorem Dev.orWait_done (d e : Dev) (h : e.fabric.waits = d.fabric.waits) : d.orWait e = e := if_pos h

/-- A device with nothing for another socket sends nothing. -/
theorem Dev.sendAsks_none (d : Dev) (h : d.fabric.asks = []) : d.sendAsks = d := by
  have hf : ({ d.fabric with asks := [] } : Fabric) = d.fabric := by rw [← h]
  unfold Dev.sendAsks
  rw [h, hf]
  rfl

/-- A command that waits for nothing, reports nothing, sends nothing to another socket and that no observation unit sees leaves just its effect. -/
theorem Dev.close_quiet (d e : Dev) (hw : e.fabric.waits = d.fabric.waits) (hr : e.reports = []) (ha : e.fabric.asks = []) (hs : e.fabric.seen = []) :
    d.close e = e := by
  unfold Dev.close
  simp only [Dev.orWait_done d e hw, Dev.settle_quiet e hr, hs]
  exact Dev.sendAsks_none e ha

/-! ### Issue -/

theorem Dev.modMember_other (d : Dev) {c k : Nat} (f : Member → Member) (h : k ≠ c) : (d.modMember c f).core k = d.core k := by
  simp [Dev.modMember, h]

@[simp] theorem Dev.fabric_modCore (d : Dev) (c : Nat) (f : Core → Core) : (d.modCore c f).fabric = d.fabric := rfl
@[simp] theorem Dev.fabric_modArch (d : Dev) (c : Nat) (f : Arch → Arch) : (d.modArch c f).fabric = d.fabric := rfl
@[simp] theorem Dev.fabric_withArch (d : Dev) (c : Nat) (a : Arch) : (d.withArch c a).fabric = d.fabric := rfl
@[simp] theorem Dev.fabric_modMember (d : Dev) (c : Nat) (f : Member → Member) : (d.modMember c f).fabric = d.fabric := rfl
@[simp] theorem Dev.fabric_endStitch (d : Dev) (c : Nat) (why : EndCause) : (d.endStitch c why).fabric = d.fabric := rfl

/-- Retirement sends nothing and waits for nothing. -/
@[simp] theorem Dev.fabric_retire (d : Dev) (c fetched : Nat) (next : Word) : (d.retire c fetched next).fabric = d.fabric := by
  unfold Dev.retire
  dsimp only
  repeat' split
  all_goals rfl

section Issue

variable {s : State} {x : Ctx} {i : Instr} {e : Dev} {t : Trans}

/-- An instruction that its core fetches is issued with no interrupt before it or inside it. -/
theorem Dev.instr_issue (w : Work) (h : Fetches s x.core.val e t) : s.dev.instr x i w = s.dev.issue x i w none none := by
  unfold Dev.instr
  simp only [h.issues, h.present, Bool.not_true, Bool.false_eq_true, if_false]
  rcases hs : s.dev.stitching x.core.val with _ | m
  · rcases h.calm with h3 | h3
    · simp [hs] at h3
    · simp [h3]
  · simp [Dev.stitchStep, h.unbound m hs]

/-- What is left of an instruction that its core fetches, where nothing makes it wait. -/
theorem Dev.run_issue (w : Work) (h : Fetches s x.core.val e t) {d : Dev} (hi : s.dev.issue x i w none none = d) :
    s.dev.run x i w = s.dev.close d := by
  unfold Dev.run
  rw [Dev.instr_issue w h, hi]

/-- The operation of an instruction that its core executes, and what follows it; microcoded instructions and branches apart. -/
theorem Dev.issue_executes (h : Executes s x i e t) (w : Work) (ha : w.allow (s.dev.arch x.core.val) = true)
    (hf : w.forbidden = false ∨ (e.stitching x.core.val).isSome = false) (hm : w.micro = none) (hb : w.branch = none) :
    s.dev.issue x i w none none = (w.body e).1.finish x.core.val t.pa (s.pc x) (i.encode.getD 0) (w.body e).2 := by
  have hn : (w.forbidden && (e.stitching x.core.val).isSome) = false := by
    rcases hf with hf | hf <;> simp [hf]
  simp [Dev.issue, h.fetches.fetched, h.formed, h.passes, ha, hn, State.pc, hm, hb]

theorem Dev.run_executes (h : Executes s x i e t) (w : Work) (ha : w.allow (s.dev.arch x.core.val) = true)
    (hf : w.forbidden = false ∨ (e.stitching x.core.val).isSome = false) (hm : w.micro = none) (hb : w.branch = none) :
    s.dev.run x i w = s.dev.close ((w.body e).1.finish x.core.val t.pa (s.pc x) (i.encode.getD 0) (w.body e).2) :=
  Dev.run_issue w h.fetches (Dev.issue_executes h w ha hf hm hb)

/-- An instruction below the level that it needs. -/
theorem Dev.run_denied (h : Executes s x i e t) (w : Work) (ha : w.allow (s.dev.arch x.core.val) = false) :
    s.dev.issue x i w none none = e.raise x.core.val ⟨1, 0, 0, s.pc x, i.encode.getD 0⟩ := by
  simp [Dev.issue, h.fetches.fetched, h.formed, h.passes, ha, State.pc]

/-- A guard that fails, of an instruction that is no branch. -/
theorem Dev.run_guarded (w : Work) (h : Fetches s x.core.val e t) (hi : i.wf = true)
    (hg : Guard.passes (s.dev.arch x.core.val) x.guard = false) (hb : w.branch = none) :
    s.dev.run x i w = s.dev.close (e.retire x.core.val t.pa (s.pc x + 4)) :=
  Dev.run_issue w h (by simp [Dev.issue, h.fetched, hi, hg, State.pc, hb])

/-- A term that is an undefined operation. -/
theorem Dev.issue_undefined (w : Work) (h : Fetches s x.core.val e t) (hi : i.wf = false) :
    s.dev.issue x i w none none = e.raise x.core.val ⟨0, 0, 0, s.pc x, i.encode.getD 0⟩ := by
  simp [Dev.issue, h.fetched, hi, State.pc]

theorem Dev.withArch_eq (d : Dev) (c : Nat) (f : Arch → Arch) : d.withArch c (f (d.arch c)) = d.modArch c f := rfl

/-- An instruction that only changes registers. -/
theorem Dev.run_regWork (h : Executes s x i e t) (srcs dsts : List Nat) (f : Arch → Arch) :
    s.dev.run x i (regWork x srcs dsts f) =
      s.dev.close ((e.withArch x.core.val (f (e.arch x.core.val))).retire x.core.val t.pa (s.pc x + 4)) :=
  Dev.run_executes h _ rfl (Or.inl rfl) rfl rfl

/-- A system instruction that any level may execute. -/
theorem Dev.run_sysWork (h : Executes s x i e t) (body : Dev → Dev × Ret) :
    s.dev.run x i (sysWork body) = s.dev.close ((body e).1.finish x.core.val t.pa (s.pc x) (i.encode.getD 0) (body e).2) :=
  Dev.run_executes h _ rfl (Or.inl rfl) rfl rfl

end Issue

/-! ### Retirement and traps -/

theorem Dev.modMember_member (d : Dev) (c : Nat) (f : Member → Member) :
    ((d.modMember c f).core c).member = (d.core c).member.map f := by
  simp [Dev.modMember]

theorem Dev.modMember_arch (d : Dev) (c k : Nat) (f : Member → Member) : (d.modMember c f).arch k = d.arch k := by
  by_cases h : k = c
  · subst h; simp [Dev.modMember, Dev.arch]
  · simp [Dev.modMember, Dev.arch, h]

end Sys2Proof.Machine
end

