-- ==== Sys2Proof/Laws/Memory.lean ====
section
/-! SUPPORT. Memory: what a byte reads after a write, and that every operation on memory keeps its canonical form. -/

namespace Sys2Proof.Machine

/-! ### Bytes -/

@[simp] theorem Memory.byte_write_self (m : List Host.Cell) (a : Nat) (b : Byte) : Memory.byte (Memory.write m a b) a = b :=
  Tbl.get_put_self _ _ _ _
@[simp] theorem Memory.byte_write_other (m : List Host.Cell) {a k : Nat} (b : Byte) (h : k ≠ a) :
    Memory.byte (Memory.write m a b) k = Memory.byte m k := Tbl.get_put_other _ _ _ h

theorem Memory.byte_writeBytes_outside (m : List Host.Cell) (a : Nat) (l : List Byte) (k : Nat) (h : k < a ∨ a + l.length ≤ k) :
    Memory.byte (Memory.writeBytes m a l) k = Memory.byte m k := by
  induction l generalizing m a with
  | nil => rfl
  | cons b t ih =>
    rw [List.length_cons] at h
    rw [Memory.writeBytes, ih _ _ (by omega), Memory.byte_write_other _ _ (by omega)]

theorem Memory.byte_writeBytes_inside (m : List Host.Cell) (a : Nat) (l : List Byte) (i : Nat) (h : i < l.length) :
    Memory.byte (Memory.writeBytes m a l) (a + i) = l[i] := by
  induction l generalizing m a i with
  | nil => simp at h
  | cons b t ih =>
    rw [Memory.writeBytes]
    cases i with
    | zero => rw [Memory.byte_writeBytes_outside _ _ _ _ (by omega)]; simp
    | succ i =>
      have e : a + (i + 1) = a + 1 + i := by omega
      rw [e, ih _ _ _ (by simpa using h)]
      simp

theorem leBytes_length (n x : Nat) : (leBytes n x).length = n := by
  induction n generalizing x with
  | zero => rfl
  | succ n ih => simp [leBytes, ih]

/-- A byte outside the line written reads as before. -/
theorem Memory.byte_putLine_outside (m : List Host.Cell) (ln : Nat) (x : Line) (k : Nat) (h : k / 64 ≠ ln) :
    Memory.byte (Memory.putLine m ln x) k = Memory.byte m k := by
  apply Memory.byte_writeBytes_outside
  rw [bytesOfLine, leBytes_length]
  omega

/-! ### The canonical form -/

theorem Memory.wf_write {m : List Host.Cell} (a : Nat) (b : Byte) (h : Memory.wf m = true) : Memory.wf (Memory.write m a b) = true :=
  Tbl.wf_put a b h

theorem Memory.wf_writeBytes {m : List Host.Cell} (a : Nat) (l : List Byte) (h : Memory.wf m = true) :
    Memory.wf (Memory.writeBytes m a l) = true := by
  induction l generalizing m a with
  | nil => exact h
  | cons b t ih => exact ih (a + 1) (Memory.wf_write a b h)

theorem Memory.wf_putLine {m : List Host.Cell} (ln : Nat) (x : Line) (h : Memory.wf m = true) :
    Memory.wf (Memory.putLine m ln x) = true := Memory.wf_writeBytes _ _ h

theorem Memory.wf_filter {m : List Host.Cell} (p : Host.Cell → Bool) (h : Memory.wf m = true) : Memory.wf (m.filter p) = true :=
  Tbl.wf_filter p h

/-- A fold whose every step keeps a property keeps it. -/
theorem fold_keeps {α β : Type} (P : β → Prop) (f : β → α → β) (h : ∀ b a, P b → P (f b a)) (l : List α) (b : β) (hb : P b) :
    P (l.foldl f b) := by
  induction l generalizing b with
  | nil => exact hb
  | cons a t ih => exact ih _ (h b a hb)

section Keeps

variable {d : Dev}

theorem Dev.store_wf (ln : Nat) (x : Line) (m : LineMeta) (h : Memory.wf d.mem = true) : Memory.wf (d.store ln x m).mem = true :=
  Memory.wf_putLine ln x h

theorem Dev.dramPut_wf (ln : Nat) (x : Line) (key : Nat) (p : Bool) (h : Memory.wf d.mem = true) :
    Memory.wf (d.dramPut ln x key p).mem = true := by
  unfold Dev.dramPut
  split <;> exact Dev.store_wf _ _ _ h

theorem Dev.fillLines_wf (e : FillEntry) (k i : Nat) (h : Memory.wf d.mem = true) : Memory.wf (d.fillLines e k i).mem = true := by
  induction k generalizing d i with
  | zero => exact h
  | succ k ih =>
    rw [Dev.fillLines]
    apply ih
    split
    · exact h
    · exact Dev.dramPut_wf _ _ _ _ h

theorem Dev.fillFinish_wf (ch : Nat) (e : FillEntry) (h : Memory.wf d.mem = true) : Memory.wf (d.fillFinish ch e).mem = true :=
  Dev.fillLines_wf e _ _ h

theorem Dev.mcPerform_wf (ch : Nat) (w : WqEntry) (h : Memory.wf d.mem = true) : Memory.wf (d.mcPerform ch w).mem = true := by
  unfold Dev.mcPerform
  dsimp only
  by_cases c : ((d.fillOf ch (w.line / 64)).isNone && d.zeroBit (w.line / 64)) = true
  · rw [if_pos c, Dev.modChan_mem]
    apply Dev.dramPut_wf
    split
    · exact h
    · split
      · exact Dev.fillFinish_wf ch _ h
      · exact h
  · rw [if_neg c]
    split
    · exact Dev.dramPut_wf _ _ _ _ h
    · split
      · exact Dev.dramPut_wf _ _ _ _ h
      · split
        · split
          · exact h
          · exact Dev.store_wf _ _ _ h
        · exact Dev.store_wf _ _ _ h
        · exact Dev.dramPut_wf _ _ _ _ h

theorem Dev.mcIssueLine_wf (ch : Nat) (w : WqEntry) (h : Memory.wf d.mem = true) : Memory.wf (d.mcIssueLine ch w).mem = true := by
  unfold Dev.mcIssueLine
  rw [Dev.modChan_mem]
  split
  · exact h
  · exact Dev.mcPerform_wf _ _ h

theorem Dev.mcFlushLine_wf (ch ln : Nat) (h : Memory.wf d.mem = true) : Memory.wf (d.mcFlushLine ch ln).mem = true :=
  fold_keeps (fun x : Dev => Memory.wf x.mem = true) _ (fun _ w hx => Dev.mcIssueLine_wf ch w hx) _ _ h

theorem Dev.noteHeld_wf (ch : Nat) (h : Memory.wf d.mem = true) : Memory.wf (d.noteHeld ch).mem = true := h

theorem Dev.zTouch_mem (ch g : Nat) (b : Bool) : (d.zTouch ch g b).mem = d.mem := by
  unfold Dev.zTouch
  dsimp only
  split <;> simp

theorem Dev.bucket_mem (ch r : Nat) : (d.bucket ch r).mem = d.mem := by
  unfold Dev.bucket
  dsimp only
  split
  · split <;> rfl
  · rfl

theorem Dev.checkLine_mem (ch ln n : Nat) (f : ReadAttempt) : (d.checkLine ch ln n f).1.mem = d.mem := by
  unfold Dev.checkLine
  split
  · rfl
  · split
    · rfl
    · split
      · rfl
      · split
        · rfl
        · exact Dev.bucket_mem _ _
        · rfl

theorem Dev.mcReadNow_mem (ch ln n : Nat) (key : Option (BitVec 11)) (f : ReadAttempt) : (d.mcReadNow ch ln n key f).1.mem = d.mem := by
  unfold Dev.mcReadNow
  dsimp only
  split
  · rfl
  · have h := Dev.checkLine_mem (d := d) ch ln n f
    split <;> (rename_i e; rw [e] at h; exact h)

theorem Dev.issueWrite_wf (ch : Nat) (w : WqEntry) (h : Memory.wf d.mem = true) : Memory.wf (d.issueWrite ch w).mem = true := by
  unfold Dev.issueWrite
  rw [Dev.modChan_mem]
  apply Dev.mcPerform_wf
  rw [Dev.zTouch_mem]
  split
  · split
    · rw [Dev.modChan_mem, Dev.checkLine_mem]; exact h
    · exact h
  · exact h

theorem Dev.issueRead_mem (ch : Nat) (r : RdEntry) : (d.issueRead ch r).1.mem = d.mem := by
  unfold Dev.issueRead
  simp only [Dev.modChan_mem, Dev.mcReadNow_mem, Dev.zTouch_mem]

theorem Dev.noteIssue_mem (ch : Nat) (l : List Req) (r : Req) : (d.noteIssue ch l r).mem = d.mem := rfl

theorem Dev.mcStep_wf (ch : Nat) (h : Memory.wf d.mem = true) : Memory.wf (d.mcStep ch).1.mem = true := by
  unfold Dev.mcStep
  dsimp only
  split
  · exact h
  · split
    · exact Dev.noteHeld_wf _ (Dev.issueWrite_wf _ _ h)
    · rw [Dev.issueRead_mem]; exact h
    · exact h

theorem Dev.mcUntil_wf (ch seq n : Nat) (h : Memory.wf d.mem = true) : Memory.wf (Dev.mcUntil ch seq n d).1.mem = true := by
  induction n generalizing d with
  | zero => exact h
  | succ n ih =>
    have hs := Dev.mcStep_wf ch h
    unfold Dev.mcUntil
    split
    · rename_i e
      rw [e] at hs
      split
      · exact hs
      · exact ih hs
    · rename_i e
      rw [e] at hs
      exact ih hs

theorem Dev.mcReadLine_wf (ch ln : Nat) (key : BitVec 11) (cls : Nat) (h : Memory.wf d.mem = true) :
    Memory.wf (d.mcReadLine ch ln key cls).1.mem = true := by
  unfold Dev.mcReadLine
  split
  · exact h
  · split
    · exact Dev.mcUntil_wf _ _ _ h
    · split
      · exact h
      · exact Dev.mcUntil_wf _ _ _ h

theorem Dev.mcWriteLine_wf (ch ln : Nat) (x : Line) (be : Word) (key : BitVec 11) (p : Bool) (cls : Nat) (h : Memory.wf d.mem = true) :
    Memory.wf (d.mcWriteLine ch ln x be key p cls).mem = true := by
  unfold Dev.mcWriteLine
  split
  · exact h
  · split
    · exact h
    · split
      · exact h
      · exact Dev.noteHeld_wf _ h

theorem Dev.mcZero_wf (ch g : Nat) (h : Memory.wf d.mem = true) : Memory.wf (d.mcZero ch g).mem = true := by
  refine Memory.wf_filter _ ?_
  rw [Dev.modChan_mem, Dev.zTouch_mem]
  exact h

theorem Dev.applyPatch_mem (c : Nat) : (d.applyPatch c).mem = d.mem := by
  unfold Dev.applyPatch
  split <;> rfl

theorem Dev.onWake_mem (k : Nat) : (d.onWake k).mem = d.mem := by
  unfold Dev.onWake
  split
  · exact Dev.applyPatch_mem _
  · split <;> rfl

theorem Dev.setPower_mem (k v : Nat) : (d.setPower k v).mem = d.mem := by
  unfold Dev.setPower Dev.setNow
  simp only [Dev.setFld_mem]
  split <;> rfl

theorem Dev.wake_mem (k : Nat) : (d.wake k).mem = d.mem := by
  unfold Dev.wake
  split
  · simp only [Dev.onWake_mem, Dev.modDom_mem, Dev.setPower_mem]
  · rfl

theorem Dev.makeRoom_wf (h : Memory.wf d.mem = true) : Memory.wf d.makeRoom.mem = true := by
  refine fold_keeps (fun x : Dev => Memory.wf x.mem = true) _ (fun x ch hx => ?_) _ _ h
  split
  · exact hx
  · exact fold_keeps (fun y : Dev => Memory.wf y.mem = true) _ (fun y _ hy => Dev.mcStep_wf ch hy) _ _ hx

theorem Dev.farWrite_wf (ln : Nat) (x : Line) (be : Word) (p : Bool) (h : Memory.wf d.mem = true) :
    Memory.wf (d.farWrite ln x be p).mem = true := Memory.wf_putLine _ _ h

theorem Dev.memWrite_wf (ln : Nat) (x : Line) (be : Word) (key : BitVec 11) (p : Bool) (h : Memory.wf d.mem = true) :
    Memory.wf (d.memWrite ln x be key p).1.mem = true := by
  unfold Dev.memWrite
  split
  · split
    · exact h
    · have hw := Dev.wake_mem (d := d)
      dsimp only
      split
      · rw [show ∀ x : Dev, x.wait.mem = x.mem from fun _ => rfl, hw]; exact h
      · exact Dev.mcWriteLine_wf _ _ _ _ _ _ _ (by rw [hw]; exact h)
  · split <;> exact h
  · split
    · exact h
    · exact Dev.farWrite_wf _ _ _ _ h
  · exact h

theorem Dev.markLost_wf (ln : Nat) (h : Memory.wf d.mem = true) : Memory.wf (d.markLost ln).mem = true := by
  unfold Dev.markLost
  split
  · have hw : ∀ k, Memory.wf (d.makeRoom.wake k).mem = true := fun k => by rw [Dev.wake_mem]; exact Dev.makeRoom_wf h
    dsimp only
    split
    · exact Dev.mcWriteLine_wf _ _ _ _ _ _ _ (hw _)
    · exact Dev.mcPerform_wf _ _ (Dev.mcFlushLine_wf _ _ (hw _))
  · exact Dev.memWrite_wf _ _ _ _ _ h
  · exact h

end Keeps

/-- The memory of the reset state is canonical. -/
theorem reset_mem_wf : Memory.wf State.reset.dev.mem = true := by decide

end Sys2Proof.Machine
end

