-- ==== Sys2Proof/Machine/Pins.lean ====
section
/-! DEFINITION. What the device shows at its pins: ERROR_N, THERMTRIP_N, the DDR resets and TIME_SYNC (R402, R454, R468), and what the
test access port selects (R472). -/

namespace Sys2Proof.Machine

/-- The output lands are driven: VAUX is present, and cast-on has begun and no cut has followed (R468). -/
def Dev.outputsLive (d : Dev) : Bool :=
  match d.phase with
  | .castOn | .romDict | .running | .castOff | .halted => true
  | .noAux | .waiting | .step1Held | .cut => false

/-- ERROR_N[k] is asserted: 0 by PIN_CE, 1 by PIN_UC, 2 by PIN_FATAL, which a cut leaves (R454, R468). -/
def Dev.errorPin (d : Dev) (k : Fin 3) : Bool :=
  d.pins.vaux &&
    (if k = 0 then d.outputsLive && d.bit .erbGlobal .ERB_GLOBAL_PIN_CE
     else if k = 1 then d.outputsLive && d.bit .erbGlobal .ERB_GLOBAL_PIN_UC
     else d.bit .erbGlobal .ERB_GLOBAL_PIN_FATAL)

/-- THERMTRIP_N is asserted (R402). -/
def Dev.thermTripPin (d : Dev) : Bool := d.pins.vaux && d.pins.thermTrip

/-- MEM_DRST_N of a channel is held low: its controller is Off or cut (R468). -/
def Dev.memReset (d : Dev) (ch : Nat) : Bool := d.pins.vaux && d.isOff (domOfChan ch)

/-- The level of the manager's TIME_SYNC from cast-on step 1 on; a worker does not drive it (R331, R468). -/
def Dev.timeSyncPin (d : Dev) : Option Bool :=
  if d.outputsLive && d.pins.isManager then some (d.pins.timeSync.getD false) else none

/-! ### JTAG (R472) -/

/-- What an instruction of the test access port selects. -/
inductive TapSelect
  | bypass | idcode | sample | extest | clamp | highz | debug
deriving DecidableEq, Repr

/-- What the instruction register's code selects: EXTEST, CLAMP and HIGHZ only while RESET_N is asserted, DEBUG only while
OD 0x8020:00 = 1, and BYPASS for every unlisted code. -/
def Dev.tapSelect (d : Dev) (code : Byte) : TapSelect :=
  match code.toNat with
  | 0x01 => .idcode
  | 0x02 => .sample
  | 0x03 => if d.pins.resetN then .bypass else .extest
  | 0x04 => if d.pins.resetN then .bypass else .clamp
  | 0x05 => if d.pins.resetN then .bypass else .highz
  | 0x20 => if d.od 0x8020 0 0 = 1 then .debug else .bypass
  | _ => .bypass

/-- The identification register. -/
def tapIdcode : Word32 := BitVec.ofNat 32 (Config.siliconRevision.toNat % 16 * 2 ^ 28 + 0x4E25 * 2 ^ 12 + 0x3D5 * 2 + 1)

end Sys2Proof.Machine
end

