-- ==== Sys2Proof/Tests/Slice0.lean ====
section
/-! SUPPORT. Tests: ill-formed terms that the checks refuse, words of the spec's encodings, single commands on small devices, and for
each statement with hypotheses a case that meets them. -/

namespace Sys2Proof.Tests

set_option Elab.async false
open Sys2Proof Sys2Proof.Machine

/-! ### A small device -/

/-- A running device with one channel of memory and core 0 at 0x1000, whose line its L2 holds modified. -/
def core0 : Core :=
  { Core.reset with
    arch := { Arch.reset with pc := 0x1000 }
    run := .running
    l2 := [⟨64, .modified, 0x0102030405060708, false, 0⟩]
    l1i := [64]
    l1d := [64] }
def dev0 : Dev :=
  ((({ Dev.reset with phase := .running }.modCore 0 fun _ => core0).modChan 0 fun c => { c with inSet := true, usable := 0x40000000 }).setReg
    (.fabSadRange 0) (setF (setF 0 .FAB_SAD_RANGE_EN 1) .FAB_SAD_RANGE_LIMIT 0))
/-- The same, core 0 changed. -/
def dev0With (f : Core → Core) : Dev := dev0.modCore 0 f
def st (d : Dev) : State := { pending := [], dev := d }
def x0 : Ctx := ⟨0, ⟨0, false⟩⟩
def noTrans : Trans := ⟨0, false, 0, 0, 0, none, none, [], none⟩
/-- What core 0's fetch gives. -/
def fetchOf (d : Dev) : Trans :=
  match d.fetch 0 with
  | (_, .inr t) => t
  | _ => noTrans
/-- Core 0 executes a well-formed instruction with a given context next, its fetch changing nothing. -/
def readyB (d : Dev) (x : Ctx) : Bool :=
  d.canIssue 0 && (d.core 0).runAhead.isNone && ((d.stitching 0).isSome || (d.accepted 0).isNone) &&
    decide (∀ m ∈ d.stitching 0, m.endAt = none) && decide (d.fetch 0 = (d, .inr (fetchOf d))) && Guard.passes (d.arch 0) x.guard && decide (x.core = 0)

theorem fetches (d : Dev) (x : Ctx) (h : readyB d x = true) : Fetches (st d) x.core.val d (fetchOf d) := by
  simp only [readyB, Bool.and_eq_true, decide_eq_true_eq, Option.isNone_iff_eq_none, Bool.or_eq_true] at h
  obtain ⟨⟨⟨⟨⟨⟨h1, h2⟩, h3⟩, hm⟩, h4⟩, h5⟩, h6⟩ := h
  have hc : x.core.val = 0 := by rw [h6]; rfl
  exact ⟨by rw [hc]; exact h1, by rw [hc]; exact h2, by rw [hc]; exact h3, by rw [hc]; exact fun m e => hm m e, by rw [hc]; exact h4, rfl⟩
theorem executes (d : Dev) (x : Ctx) (i : Instr) (h : readyB d x = true) (hw : i.wf = true) : Executes (st d) x i d (fetchOf d) := by
  refine ⟨fetches d x h, hw, ?_⟩
  simp only [readyB, Bool.and_eq_true, decide_eq_true_eq] at h
  have hc : x.core.val = 0 := by rw [h.2]; rfl
  rw [hc]; exact h.1.2

/-- Registers of core 0: g2 and g3 as given. -/
def regs (a b : Word) (k : Core) : Core := { k with arch := (k.arch.setG 2 a).setG 3 b }
theorem ready0 : readyB dev0 x0 = true := by decide +kernel

/-! ### Ill-formed terms are refused -/

theorem test_wf_guard : (Instr.add ⟨0, ⟨0, true⟩⟩ ⟨1, 2, 3⟩).wf = false ∧ (Instr.add ⟨0, ⟨1, true⟩⟩ ⟨1, 2, 3⟩).wf = true := by decide
theorem test_wf_pairOdd : (Instr.dadd x0 ⟨3, 4, 6, true, 1⟩).wf = false ∧ (Instr.dadd x0 ⟨3, 4, 6, false, 1⟩).wf = true := by decide
theorem test_wf_pairZero : (Instr.dsub x0 ⟨2, 0, 6, true, 1⟩).wf = false ∧ (Instr.dsub x0 ⟨2, 4, 6, true, 1⟩).wf = true := by decide
theorem test_wf_controlRegister : (Instr.mfc x0 1 0x3FF).wf = false ∧ (Instr.mtc x0 1 0x005).wf = false ∧ (Instr.mfc x0 1 0x003).wf = true := by decide
theorem test_wf_elementType : (Instr.vadd x0 ⟨1, 2, 3, .f32⟩).wf = false ∧ (Instr.vfadd x0 ⟨1, 2, 3, .i32⟩).wf = false ∧
    (Instr.vperm x0 ⟨1, 2, 3, .f32⟩).wf = true := by decide
theorem test_wf_inboundWrite : (Instr.inboundWrite 0 ⟨0, 0, 4, false, false, false, false, 0⟩ [1]).wf = false := by decide
theorem test_wf_boardBudgetSplit : (Instr.boardBudgetSplit [1, 2]).wf = false := by decide
theorem test_wf_castOn : (Instr.castOn ⟨[], [], [], [], [], [], true, [], [], [], [], true, [], [], [], false, true⟩).wf = false := by decide

/-! ### Words of the spec's encodings

R48 puts GP in bits 31 to 29, GS in 28, the opcode in 27 to 22; R49 the fields of each format. -/

/-- R-format: opcode 0x01, rd 3, rs1 4, rs2 5, func 1: SUB g3, g4, g5. -/
theorem test_decode_sub : decodeWord 0 0b00000000010001100100001010000001 = some (.sub x0 ⟨3, 4, 5⟩) := by decide
/-- I-format under guard p2 sensed false: opcode 0x04, rd 5, rs1 3, imm −4: the worked example of R50, 0x510A3FFC. -/
theorem test_decode_addi : decodeWord 7 0b01010001000010100011111111111100 = some (.addi ⟨7, ⟨2, true⟩⟩ ⟨5, 3, 0xFFC⟩) := by decide
/-- C-format with I = 1: opcode 0x0B, pd 1, cc 4, rs1 4, I, simm −1: CMP.LTU p1, g4, −1. -/
theorem test_decode_cmp : decodeWord 0 0b00000010110010100001001111111111 = some (.cmpCc x0 1 .ltu 4 (.imm 0x1FF)) := by decide
/-- Opcode 0x0B with cc 14, which is not listed. -/
theorem test_decode_cmpReserved : decodeWord 0 0b00000010110011110001000000000000 = none := by decide
/-- J-format: opcode 0x0E, offset −1: BL. -/
theorem test_decode_bl : decodeWord 0 0b00000011101111111111111111111111 = some (.bl x0 (BitVec.allOnes 22)) := by decide
/-- S-format: opcode 0x1B, data 3, base 2, offset 16: STD g3, 16(g2). -/
theorem test_decode_std : decodeWord 0 0b00000110110001100010000000010000 = some (.std x0 ⟨3, 2, 16⟩) := by decide
/-- I-format: opcode 0x10: LDB g5, −1(g6). -/
theorem test_decode_ldb : decodeWord 0 0b00000100000010100110111111111111 = some (.ldb x0 ⟨5, 6, 0xFFF⟩) := by decide
/-- R-format: opcode 0x1C, func 5: ACAS.D g1, g2, g3. -/
theorem test_decode_acas : decodeWord 0 0b00000111000000100010000110000101 = some (.acasD x0 ⟨1, 2, 3⟩) := by decide
/-- D-format: opcode 0x20, rd 2, rs1 4, rs2 6, W, func 4, pd 3: DMUL on pairs. -/
theorem test_decode_dmul : decodeWord 0 0b00001000000001000100001101100011 = some (.dmul x0 ⟨2, 4, 6, true, 3⟩) := by decide
/-- D-format with W and an odd register. -/
theorem test_decode_dmulOdd : decodeWord 0 0b00001000000001100100001101100011 = none := by decide
/-- V-format: opcode 0x28, vd 1, vs1 2, vs2 3, et 2, func 0: VADD of 32-bit elements. -/
theorem test_decode_vadd : decodeWord 0 0b00001010000000100010000110100000 = some (.vadd x0 ⟨1, 2, 3, .i32⟩) := by decide
/-- V-format: opcode 0x28 with et 5, which is not listed for an integer function. -/
theorem test_decode_vaddFloat : decodeWord 0 0b00001010000000100010000111010000 = none := by decide
/-- Opcode 0x03, func 1: MULH g3, g4, g5. -/
theorem test_decode_mulh : decodeWord 0 0b00000000110001100100001010000001 = some (.mulh x0 ⟨3, 4, 5⟩) := by decide
/-- Opcode 0x02, func 8: SRAW g3, g4, g5. -/
theorem test_decode_sraw : decodeWord 0 0b00000000100001100100001010001000 = some (.sraw x0 ⟨3, 4, 5⟩) := by decide
/-- Opcode 0x08, W, kind 2, amount 5: SHI, a 32-bit SRA (R68). -/
theorem test_decode_shi : decodeWord 0 0b00000010000001100100000110000101 = some (.shi x0 3 4 true .sra 5) := by decide
/-- Opcode 0x0C, func 4: PANDN p3, p3, p2. -/
theorem test_decode_pandn : decodeWord 0 0b00000011000001100011000100000100 = some (.pandn x0 ⟨3, 3, 2⟩) := by decide
/-- Opcode 0x0F, func 0: BR g1, g7. -/
theorem test_decode_br : decodeWord 0 0b00000011110000100111000000000000 = some (.br x0 1 7) := by decide
/-- Opcode 0x29, et 6, func 7: VFMA of binary64. -/
theorem test_decode_vfma : decodeWord 0 0b00001010010000100010000111100111 = some (.vfma x0 ⟨1, 2, 3, .f64⟩) := by decide
/-- Opcode 0x2A, et 0, func 2: VCLT of bytes. -/
theorem test_decode_vclt : decodeWord 0 0b00001010100000100010000110000010 = some (.vclt x0 ⟨1, 2, 3, .i8⟩) := by decide
/-- Opcode 0x2C, et the destination binary32, func the source i16: VCVT (R101). -/
theorem test_decode_vcvt : decodeWord 0 0b00001011000000100010000001010001 = some (.vcvt x0 1 2 .i16 .f32) := by decide
/-- Opcode 0x2D, func 0, et 3: VLD. -/
theorem test_decode_vld : decodeWord 0 0b00001011010000100010000000110000 = some (.vld x0 1 2 .i64) := by decide
/-- X-format: opcode 0x30, k 5, func 0: SYSCALL 5. -/
theorem test_decode_syscall : decodeWord 0 0b00001100000000000000001010000000 = some (.syscall x0 5) := by decide
/-- Opcode 0x31, ra 4, k 0x003, func 0: MFC g4, TIME. -/
theorem test_decode_mfc : decodeWord 0 0b00001100010010000000000110000000 = some (.mfc x0 4 3) := by decide
/-- MFC of control register 0x005, which no chapter lists. -/
theorem test_decode_mfcUnlisted : decodeWord 0 0b00001100010010000000001010000000 = none := by decide
/-- Opcode 0x32, ra 10, k 0, func 0: TINV page, g10. -/
theorem test_decode_tinv : decodeWord 0 0b00001100100101000000000000000000 = some (.tinvPage x0 10) := by decide
/-- Opcode 0x33, ra 4, func 2: PSETUP g4. -/
theorem test_decode_psetup : decodeWord 0 0b00001100110010000000000000000010 = some (.psetup x0 4) := by decide
/-- GP = 0 with GS = 1. -/
theorem test_decode_reservedGuard : decodeWord 0 0b00010000010001100100001010000001 = none := by decide
/-- Opcode 0x17 is reserved. -/
theorem test_decode_reservedOpcode : decodeWord 0 0b00000101110001100100000000000101 = none := by decide

/-! ### Cores at other levels, and members of panels -/

/-- Core 0 at level U or S, its descriptor and its code page translated. -/
def atLevel (l : Level) (k : Core) : Core :=
  let leaf : Word := if l = .u then 0x3F3 else 0x373
  let page : TlbEntry := ⟨.setS, 0, false, 0, 0x1000, 4096, 0x1000, 1, 0, leaf, true⟩
  { k with
    arch := { k.arch with pl := l }
    sdc := [⟨.setS, 0, ⟨if l = .u then 0x8F00000000000000 else 0x8E00000000000000, 0, 0, 0⟩⟩]
    itlb := [page]
    dtlb := [page] }
/-- Core 0 in a stitch of panel slot 0. -/
def member0 : Member where
  slot := 0
  index := 0
  phase := .running
  count := 0
  limit := 4096
  retry := false
  frogrun := 0
  cause := .limit
  access := .none
  word := 0
  overlay := []
  readSig := 0
  fetchSig := 0
  saved := Arch.reset
  first := none
  firstIntr := []
  trap := none
  intr := []
  endAt := none
  due := none
  held := []
  ends := []
  replaying := false
  resumed := false
def stitched (k : Core) : Core := { k with member := some member0 }
def devU : Dev := dev0With (atLevel .u)
def devS : Dev := dev0With (atLevel .s)
def devIn : Dev := dev0With stitched
def xOff : Ctx := ⟨0, ⟨1, false⟩⟩
theorem readyU : readyB devU x0 = true := by decide +kernel
theorem readyS : readyB devS x0 = true := by decide +kernel
theorem readyIn : readyB devIn x0 = true := by decide +kernel

/-- The line that the L2 holds. -/
def line0 : L2Line := ⟨64, .modified, 0x0102030405060708, false, 0⟩
/-- The frame of level M lies in the line that the L2 holds. -/
def devFrame : Dev := dev0With fun k => { k with arch := { k.arch with fspM := 0x1140 } }
theorem readyFrame : readyB devFrame x0 = true := by decide +kernel
theorem frameReady : devFrame.FrameReady 0 .m line0 :=
  ⟨by decide +kernel, by decide +kernel, by decide +kernel, by decide +kernel, ⟨0, 0x40, by decide +kernel⟩, by decide +kernel, by decide⟩
theorem routesM : ∀ v ∈ [0, 7, 8, 9], (devFrame.arch 0).route v = .m := by decide +kernel

/-! ### Cases that meet the statements' hypotheses: instructions -/

theorem test_case_StepRunsFront :
    ({ pending := [.reefNAssert], dev := Dev.reset } : State).pending = .reefNAssert :: [] ∧
    (State.reset.pending = [] ∧ ({ Dev.reset with pins := { Dev.reset.pins with vaux := false } }).pins.vaux = false) ∧
    (Dev.reset.pins.vaux = true ∧ Dev.reset.pins.syncAdjust = 0 ∧ Dev.reset.cores = [] ∧ Dev.reset.reports = []) ∧
    (({ Dev.reset with phase := .running } : Dev).phase = .running) := by decide

theorem test_case_ConstantRegisters : (1 : RegNo) ≠ 0 ∧ (31 : RegNo) ≠ 0 ∧ (7 : PredNo) ≠ 0 ∧ (3 : RegNo).val = (2 : RegNo).val + 1 ∧
    (31 : RegNo).val = (30 : RegNo).val + 1 ∧ 2 ^ 128 - 1 < 2 ^ 128 := by decide

theorem test_case_Retirement : (1 ≠ 0 ∧ dev0.stitching 0 = none) ∧ devIn.stitching 0 = some member0 ∧ dev0.reports = [] := by decide +kernel

theorem test_case_GuardedOff :
    (Instr.add xOff ⟨1, 2, 3⟩).fields = some (xOff, 0x1, lowR 1 2 3 0) ∧ Fetches (st dev0) 0 dev0 (fetchOf dev0) ∧
    (Instr.add xOff ⟨1, 2, 3⟩).wf = true ∧ Guard.passes (dev0.arch 0) xOff.guard = false ∧ branchOf (.add xOff ⟨1, 2, 3⟩) = none ∧
    ((Instr.b xOff 4).fields.isSome = true ∧ (Instr.b xOff 4).wf = true ∧ (branchOf (.b xOff 4)).isSome = true) :=
  ⟨by decide, fetches _ _ ready0, by decide, by decide +kernel, rfl, by decide⟩

theorem test_case_UndefinedOperations :
    (Instr.vadd x0 ⟨1, 2, 3, .f32⟩).fields = some (x0, 0x28, lowV 1 2 3 .f32 0) ∧ (Instr.vadd x0 ⟨1, 2, 3, .f32⟩).wf = false ∧
    Fetches (st dev0) 0 dev0 (fetchOf dev0) ∧ decodeWord 0 0 = none ∧ Fetches (st devFrame) 0 devFrame (fetchOf devFrame) ∧
    devFrame.FrameReady 0 ((devFrame.arch 0).route 0) line0 :=
  ⟨by decide, by decide, fetches _ _ ready0, by decide, fetches _ _ readyFrame, by rw [routesM 0 (by decide)]; exact frameReady⟩

theorem test_case_ForbiddenInstructions :
    (levelNeeded (.hvcall x0 5) = some (x0, .s) ∧ Executes (st devU) x0 (.hvcall x0 5) devU (fetchOf devU) ∧ Level.lt (devU.arch 0).pl .s = true) ∧
    (levelNeeded (.discard x0 4) = some (x0, .h) ∧ Executes (st devS) x0 (.discard x0 4) devS (fetchOf devS) ∧ Level.lt (devS.arch 0).pl .h = true) ∧
    (stitchForbidden (.zmark x0 4) = some (x0, .u) ∧ Executes (st devIn) x0 (.zmark x0 4) devIn (fetchOf devIn) ∧
      Level.le .u (devIn.arch 0).pl = true ∧ (devIn.arch 0).strap = false ∧ (devIn.stitching 0).isSome = true) := by
  refine ⟨⟨by decide, executes _ _ _ readyU (by decide), by decide +kernel⟩, ⟨by decide, executes _ _ _ readyS (by decide), by decide +kernel⟩,
    by decide, executes _ _ _ readyIn (by decide), by decide +kernel, by decide +kernel, by decide +kernel⟩

theorem test_case_IntegerResults :
    ((twoOperand (.sub x0 ⟨3, 4, 5⟩)).isSome = true ∧ Executes (st dev0) x0 (.sub x0 ⟨3, 4, 5⟩) dev0 (fetchOf dev0)) ∧
    ((7 : Word) ≠ 0 ∧ ¬ ((-9 : Word) = BitVec.intMin 64 ∧ (7 : Word) = BitVec.allOnes 64)) := by
  exact ⟨⟨rfl, executes _ _ _ ready0 (by decide)⟩, by decide, by decide⟩

theorem test_case_BitCounts : Executes (st dev0) x0 (.clz x0 3 2) dev0 (fetchOf dev0) ∧ Executes (st dev0) x0 (.ctz x0 3 2) dev0 (fetchOf dev0) ∧
    Executes (st dev0) x0 (.popc x0 3 2) dev0 (fetchOf dev0) :=
  ⟨executes _ _ _ ready0 (by decide), executes _ _ _ ready0 (by decide), executes _ _ _ ready0 (by decide)⟩

theorem test_case_ImmediateResults :
    ((immediateOperand (.addi x0 ⟨3, 2, 0xFFF⟩)).isSome = true ∧ Executes (st dev0) x0 (.addi x0 ⟨3, 2, 0xFFF⟩) dev0 (fetchOf dev0)) ∧
    ((immediateOperand (.shi x0 3 2 true .sra 31)).isSome = true ∧ Executes (st dev0) x0 (.shi x0 3 2 true .sra 31) dev0 (fetchOf dev0)) :=
  ⟨⟨rfl, executes _ _ _ ready0 (by decide)⟩, rfl, executes _ _ _ ready0 (by decide)⟩

theorem test_case_PredicateResults :
    (predicateResult (.cmpCc x0 1 .ltu 4 (.imm 0x1FF))).isSome = true ∧ Executes (st dev0) x0 (.cmpCc x0 1 .ltu 4 (.imm 0x1FF)) dev0 (fetchOf dev0) :=
  ⟨rfl, executes _ _ _ ready0 (by decide)⟩

theorem test_case_Branches :
    (∃ f, branchOf (.bl x0 4) = some (x0, f, 1) ∧ (f (dev0.arch 0)).toNat % 4 = 0) ∧ Executes (st dev0) x0 (.bl x0 4) dev0 (fetchOf dev0) ∧
    (∃ f, branchOf (.br x0 0 2) = some (x0, f, 0) ∧ (f ((dev0With (regs 2 0)).arch 0)).toNat % 4 ≠ 0) ∧
    Executes (st (dev0With (regs 2 0))) x0 (.br x0 0 2) (dev0With (regs 2 0)) (fetchOf (dev0With (regs 2 0))) :=
  ⟨⟨_, rfl, by decide +kernel⟩, executes _ _ _ ready0 (by decide), ⟨_, rfl, by decide +kernel⟩,
    executes _ _ _ (by decide +kernel) (by decide)⟩

/-- g2 points into the line that the L2 holds, or is an address that no range has. -/
def devLine : Dev := dev0With (regs 0x1008 7)
def devHole : Dev := dev0With (regs 0x0010000000000000 7)
def devOdd : Dev := dev0With (regs 0x1001 7)
theorem readyLine : readyB devLine x0 = true := by decide +kernel
theorem readyHole : readyB devHole x0 = true := by decide +kernel
theorem readyOdd : readyB devOdd x0 = true := by decide +kernel

theorem flat0 (d : Dev) (ea : Word) (w : Nat) (h : (decide ((d.arch 0).pl = .m) && !(d.arch 0).mxlate && decide (ea.toNat < 2 ^ 52) &&
    !deviceRange ea.toNat && decide (0 < w) && decide (ea.toNat % 64 + w ≤ 64)) = true) : d.Flat 0 w ea := by
  simp only [Bool.and_eq_true, decide_eq_true_eq, Bool.not_eq_true'] at h
  obtain ⟨⟨⟨⟨⟨h1, h2⟩, h3⟩, h4⟩, h5⟩, h6⟩ := h
  exact ⟨h1, h2, h3, h4, h5, h6⟩
/-- An access of core 0, at M, within the line that its L2 holds. -/
theorem near0 (d : Dev) (ea : Word) (w : Nat) (h : (decide ((d.arch 0).pl = .m) && !(d.arch 0).mxlate && decide (ea.toNat < 2 ^ 52) &&
    !deviceRange ea.toNat && decide (0 < w) && decide (ea.toNat % 64 + w ≤ 64)) = true) (hp : d.place ea.toNat = .dram 0 0x40)
    (hl : (d.core 0).l2Line (ea.toNat / 64) = some line0) : d.Near 0 w ea line0 :=
  ⟨flat0 d ea w h, ⟨0, 0x40, hp⟩, hl, rfl⟩

theorem test_case_Loads :
    (Executes (st devLine) x0 (.ldw x0 ⟨1, 2, 0⟩) devLine (fetchOf devLine) ∧ devLine.Loads 0 4 [0x1008] (.gpr 1 true)) ∧
    (Executes (st devHole) x0 (.ldw x0 ⟨1, 2, 0⟩) devHole (fetchOf devHole) ∧
      ∃ (v code : Nat) (f : Word), (devHole.loadAll 0 4 [0x0010000000000000] (.gpr 1 true)).2 = .inl (.trap v code f)) ∧
    ([0, 0, 0, 0x80] : List Byte).length ∈ [1, 2, 4, 8] ∧
    (devLine.stitching 0 = none ∧ (devLine.core 0).storeBuf = [] ∧ devLine.Near 0 4 0x103C line0) :=
  ⟨⟨executes _ _ _ readyLine (by decide), by decide +kernel, by decide +kernel⟩, ⟨executes _ _ _ readyHole (by decide), _, _, _, rfl⟩, by decide,
    by decide +kernel, by decide +kernel, near0 _ _ _ (by decide +kernel) (by decide +kernel) (by decide +kernel)⟩

theorem test_case_Stores :
    (Executes (st devLine) x0 (.std x0 ⟨3, 2, 0⟩) devLine (fetchOf devLine) ∧ devLine.Stores 0 8 [0x1008] (leBytes 8 7)) ∧
    (Executes (st devHole) x0 (.std x0 ⟨3, 2, 0⟩) devHole (fetchOf devHole) ∧
      ∃ (v code : Nat) (f : Word), (devHole.storeAll 0 8 [0x0010000000000000] (leBytes 8 7)).2 = some (.trap v code f)) ∧
    (∃ (d : Dev) (l : List Part), devLine.resolve 0 .store 8 false [0x1008] = (d, .inr l) ∧ d.stitching 0 = none) ∧
    (devLine.Flat 0 8 0x1038 ∧ (devLine.core 0).storeBuf.length + 1 ≤ 96) :=
  ⟨⟨executes _ _ _ readyLine (by decide), by decide +kernel, by decide +kernel⟩, ⟨executes _ _ _ readyHole (by decide), _, _, _, rfl⟩,
    ⟨_, _, rfl, by decide +kernel⟩, flat0 _ _ _ (by decide +kernel), by decide +kernel⟩

theorem test_case_StoreBuffer :
    ((⟨0, 0x103F, 1, false, 0⟩ : Part).device = false ∧ dev0.stitching 0 = none ∧ ([9] : List Byte) ≠ [] ∧ 0x103F % 64 + 1 ≤ 64 ∧
      (dev0.core 0).storeBuf.length < 96) ∧
    ((dev0With fun k => { k with storeBuf := [⟨0x1000, [5], 0⟩] }).core 0).buffered 0x1000 = some 5 ∧
    (dev0.place 0x103F = .dram 0 0x40 ∧ (dev0.core 0).storeBuf = [] ∧
      (dev0.core 0).l2Line (0x103F / 64) = some ⟨64, .modified, 0x0102030405060708, false, 0⟩ ∧ 0x103F % 64 + 1 ≤ 64) := by decide +kernel

theorem test_case_Atomics :
    ((atomicOf (.aaddD x0 ⟨1, 2, 3⟩)).isSome = true ∧ Executes (st devLine) x0 (.aaddD x0 ⟨1, 2, 3⟩) devLine (fetchOf devLine) ∧
      (devLine.atomic 0 8 0x1008 .add 7 0 1).2.isRight = true ∧ (devLine.atomic 0 8 0x1008 .add 7 0 1).1.fabric.waits = devLine.fabric.waits) ∧
    (Executes (st devOdd) x0 (.aaddD x0 ⟨1, 2, 3⟩) devOdd (fetchOf devOdd) ∧ (0x1001 : Word).toNat % 8 ≠ 0) ∧
    (dev0.stitching 0 = none ∧ (dev0.core 0).storeBuf = [] ∧ dev0.place 0x1038 = .dram 0 0x40 ∧
      (dev0.core 0).l2Line (0x1038 / 64) = some ⟨64, .modified, 0x0102030405060708, false, 0⟩ ∧ 0x1038 % 8 = 0) ∧
    (devLine.stitching 0 = none ∧ ((devLine.arch 0).getG 2).toNat % 8 = 0 ∧ devLine.Near 0 8 0x1008 line0 ∧ line0.st = .modified) :=
  ⟨⟨rfl, executes _ _ _ readyLine (by decide), by decide +kernel⟩, ⟨executes _ _ _ readyOdd (by decide), by decide⟩, by decide +kernel,
    by decide +kernel, by decide +kernel, near0 _ _ _ (by decide +kernel) (by decide +kernel) (by decide +kernel), rfl⟩

theorem test_case_MemoryBytes : Memory.wf [(3, 1), (9, 2)] = true ∧ Memory.wf [(3, 0)] = false ∧ Memory.wf [(9, 1), (3, 1)] = false ∧
    60 + ([1, 2, 3, 4] : List Byte).length ≤ 64 := by decide

/-- A patch of one microword that ends its routine, on a core that resumes there. -/
def devPatched : Dev := dev0With fun k => { regs 0x12C 0x5D k with
  patch := List.replicate 8 0 ++ [1, 0, 1, 0] ++ List.replicate 0x74 0 ++ [0x00, 0xC4] ++ List.replicate 30 0
  routine := some ⟨0x1000, 0, 0, [], false⟩ }
theorem readyPatched : readyB devPatched x0 = true := by decide +kernel
theorem patched_runs : (devPatched.runRoutine 0 ⟨0, ⟨4, 2, 3, false, 1⟩⟩ none).2 = .done := by decide +kernel
theorem patched_arch : (devPatched.runRoutine 0 ⟨0, ⟨4, 2, 3, false, 1⟩⟩ none).1.arch 0 = devPatched.arch 0 := by decide +kernel
theorem patched_core : (devPatched.core 0).routine ≠ none := by decide +kernel
theorem patched_bits : decimalOf (.dmul x0 ⟨4, 2, 3, false, 1⟩) (devPatched.arch 0) = some (x0, ⟨4, 2, 3, false, 1⟩, .ok 0x60D false) := by
  decide +kernel
def devDec (a : Word) : Dev := dev0With (regs a 0x5D)
theorem test_case_DecimalResults_microcoded :
    Executes (st devPatched) x0 (.dmul x0 ⟨4, 2, 3, false, 1⟩) devPatched (fetchOf devPatched) ∧
    ¬ ((devPatched.core 0).patch = [] ∧ (devPatched.core 0).routine = none) :=
  ⟨executes _ _ _ readyPatched (by decide), fun h => patched_core h.2⟩
theorem test_case_DecimalResults :
    (Executes (st (devDec 0x12C)) x0 (.dadd x0 ⟨4, 2, 3, false, 1⟩) (devDec 0x12C) (fetchOf (devDec 0x12C)) ∧
      decimalOf (.dadd x0 ⟨4, 2, 3, false, 1⟩) ((devDec 0x12C).arch 0) = some (x0, ⟨4, 2, 3, false, 1⟩, .ok 0x7C false)) ∧
    (Executes (st (devDec 0xA0C)) x0 (.dadd x0 ⟨4, 2, 3, false, 1⟩) (devDec 0xA0C) (fetchOf (devDec 0xA0C)) ∧
      decimalOf (.dadd x0 ⟨4, 2, 3, false, 1⟩) ((devDec 0xA0C).arch 0) = some (x0, ⟨4, 2, 3, false, 1⟩, .fault 0x211)) ∧
    decOverflow 999999999999999 16 = false ∧ decOverflow 1000000000000000 16 = true :=
  ⟨⟨executes _ _ _ (by decide +kernel) (by decide), by decide +kernel⟩,
    ⟨executes _ _ _ (by decide +kernel) (by decide), by decide +kernel⟩, by decide +kernel, by decide +kernel⟩

theorem test_case_TrapEntry : Level.m ≠ .u ∧ ∃ e : Dev, devFrame.enter 0 .m ⟨7, 5, 0, 0x1004, 0⟩ none = (e, false) := ⟨by decide, _, rfl⟩

theorem test_case_Calls :
    (Executes (st devU) x0 (.syscall x0 5) devU (fetchOf devU) ∧ devU.stitching 0 = none) ∧
    (Executes (st devIn) x0 (.syscall x0 5) devIn (fetchOf devIn) ∧ devIn.stitching 0 = some member0) ∧
    (Executes (st devS) x0 (.hvcall x0 5) devS (fetchOf devS) ∧ Level.le .s (devS.arch 0).pl = true ∧ devS.stitching 0 = none) ∧
    (Executes (st devFrame) x0 (.hvcall x0 5) devFrame (fetchOf devFrame) ∧ Level.le .s (devFrame.arch 0).pl = true ∧
      devFrame.FrameReady 0 ((devFrame.arch 0).route 8) line0) :=
  ⟨⟨executes _ _ _ readyU (by decide), by decide +kernel⟩, ⟨executes _ _ _ readyIn (by decide), by decide +kernel⟩,
    ⟨executes _ _ _ readyS (by decide), by decide +kernel, by decide +kernel⟩,
    executes _ _ _ readyFrame (by decide), by decide +kernel, by rw [routesM 8 (by decide)]; exact frameReady⟩

theorem test_case_Routing :
    bitF Arch.reset.tdelegM 7 = false ∧
    (bitF ({ Arch.reset with tdelegM := 0x80 }).tdelegM 7 = true ∧ bitF ({ Arch.reset with tdelegM := 0x80 }).tdelegH 7 = false) ∧
    (bitF ({ Arch.reset with tdelegM := 0x80, tdelegH := 0x80 }).tdelegM 7 = true ∧ bitF ({ Arch.reset with tdelegH := 0x80 }).tdelegH 7 = true) := by decide

/-- The frame of a RETI at M stands in the line that the L2 holds: pc 0x2000, STATUS of level U. -/
def devReti : Dev := dev0With fun k => { k with
  arch := { k.arch with fspM := 0x1000 }
  l2 := [⟨64, .modified, 0x2000, false, 0⟩] }
theorem test_case_Returns :
    Executes (st devReti) x0 (.reti x0) devReti (fetchOf devReti) ∧ Level.le .s (devReti.arch 0).pl = true ∧
    (match devReti.reti 0 with
      | (_, .left pc _) => decide (pc = 0x2000)
      | _ => false) = true ∧
    ((devReti.core 0).member = none ∧ (devReti.core 0).storeBuf = [] ∧ 0x1000 % 64 = 0 ∧ devReti.frameOk 0x1000 = true ∧
      devReti.place 0x1000 = .dram 0 0x40 ∧ (devReti.core 0).l2Line (0x1000 / 64) = some ⟨64, .modified, 0x2000, false, 0⟩ ∧
      BitVec.ofNat 64 (leNat (Line.slice 0x2000 0 8)) = 0x2000 ∧ (0x2000 : Word).toNat % 4 = 0 ∧ bitF (0 : Word) 63 = false ∧
      Level.lt (devReti.arch 0).pl (Level.dec ((0 : Word).toNat % 4)) = false) :=
  ⟨executes _ _ _ (by decide +kernel) (by decide), by decide +kernel, by decide +kernel, by decide +kernel⟩

theorem test_case_Waits :
    (Executes (st devLine) x0 (.wfe x0 2) devLine (fetchOf devLine) ∧ (devLine.core 0).isMember = false ∧ devLine.anyInterrupt 0 = false ∧
      devLine.time.toNat < (0x1008 : Word).toNat ∧ (devLine.dom 0).latest = none) ∧
    (Executes (st devIn) x0 (.wfe x0 0) devIn (fetchOf devIn) ∧ (devIn.core 0).isMember = true) ∧
    (((dev0With fun k => { k with run := .waiting (some 0) }).core 0).run = .waiting (some 0) ∧
      (dev0With fun k => { k with run := .waiting (some 0) }).power 0 ≠ 1 ∧ (0 : Word).toNat ≤ dev0.time.toNat) :=
  ⟨⟨executes _ _ _ readyLine (by decide), by decide +kernel⟩, ⟨executes _ _ _ readyIn (by decide), by decide +kernel⟩, by decide +kernel⟩

theorem test_case_Barriers :
    Executes (st dev0) x0 (.fence x0) dev0 (fetchOf dev0) ∧ Executes (st dev0) x0 (.fenceIo x0) dev0 (fetchOf dev0) ∧
    Executes (st dev0) x0 (.sbar x0) dev0 (fetchOf dev0) ∧ Executes (st dev0) x0 (.pbar x0) dev0 (fetchOf dev0) ∧
    (dev0.core 0).storeBuf = [] ∧
    (Executes (st dev0) x0 (.stbnd x0) dev0 (fetchOf dev0) ∧ dev0.stitching 0 = none ∧ (dev0.core 0).member = none) ∧
    (Executes (st devIn) x0 (.stbnd x0) devIn (fetchOf devIn) ∧ devIn.stitching 0 = some member0) ∧
    Executes (st dev0) x0 (.pflush x0 2 7) dev0 (fetchOf dev0) :=
  ⟨executes _ _ _ ready0 (by decide), executes _ _ _ ready0 (by decide), executes _ _ _ ready0 (by decide), executes _ _ _ ready0 (by decide),
    by decide +kernel, ⟨executes _ _ _ ready0 (by decide), by decide +kernel⟩, ⟨executes _ _ _ readyIn (by decide), by decide +kernel⟩,
    executes _ _ _ ready0 (by decide)⟩

theorem test_case_ControlRegisters :
    (Executes (st dev0) x0 (.mfc x0 1 0x003) dev0 (fetchOf dev0) ∧ crAllowed (dev0.arch 0) 0x003 false = true ∧ dev0.stitching 0 = none) ∧
    (Executes (st devIn) x0 (.mfc x0 1 0x003) devIn (fetchOf devIn) ∧ crAllowed (devIn.arch 0) 0x003 false = true ∧ (devIn.stitching 0).isSome = true) ∧
    (Executes (st devU) x0 (.mfc x0 1 0x008) devU (fetchOf devU) ∧ crAllowed (devU.arch 0) 0x008 false = false) ∧
    (Executes (st dev0) x0 (.mtc x0 1 0x00A) dev0 (fetchOf dev0) ∧ crAllowed (dev0.arch 0) 0x00A true = true ∧ (0x00A : BitVec 10) ≠ 0x1C1) ∧
    (Executes (st devIn) x0 (.mtc x0 1 0x1C1) devIn (fetchOf devIn) ∧ crAllowed (devIn.arch 0) 0x1C1 true = true ∧ (devIn.stitching 0).isSome = true) ∧
    (Executes (st devS) x0 (.mtc x0 1 0x00A) devS (fetchOf devS) ∧ crAllowed (devS.arch 0) 0x00A true = false) :=
  ⟨⟨executes _ _ _ ready0 (by decide), by decide +kernel⟩, ⟨executes _ _ _ readyIn (by decide), by decide +kernel⟩,
    ⟨executes _ _ _ readyU (by decide), by decide +kernel⟩, ⟨executes _ _ _ ready0 (by decide), by decide +kernel⟩,
    ⟨executes _ _ _ readyIn (by decide), by decide +kernel⟩, executes _ _ _ readyS (by decide), by decide +kernel⟩

/-- Core 0, logical core 0, is in a stitch that serves an entry of message 5, priority 7 (R366, R367). -/
def devServes : Dev := (({ devIn with events := { devIn.events with msgAct := [5] } }.setFld (.coreIdent 0) .CORE_IDENT_LVALID 1).setFld
  (.coreIdent 0) .CORE_IDENT_LOGICAL 0).setEvCount 0 7 1
/-- An EVEOI in a stitch lowers the count at once, ends the entry when the stitch commits, and a frog undoes it (R213, R214). -/
theorem test_stitchEnds :
    let d := devServes.crWrite 0 0x1C1 0x0007000000000005
    let m := (d.core 0).member
    (d.evCount 0 7 = 0 ∧ d.events.msgAct = [5]) ∧ ((d.giveEnds 0).evCount 0 7 = 1 ∧ (d.giveEnds 0).events.msgAct = [5]) ∧
    m.map (fun m => ((d.commitEnds 0 m).evCount 0 7, (d.commitEnds 0 m).events.msgAct)) = some (0, []) := by decide +kernel

/-- Core 0 has broadcast an invalidation that engine 0 has, or has not, acknowledged. -/
def devAcked : Dev := dev0With fun k => { k with tinvs := [⟨3, [], [], true⟩] }
def devUnacked : Dev := dev0With fun k => { k with tinvs := [⟨3, [.engine 0], [], false⟩] }
theorem test_case_TranslationInvalidation :
    (tinvOf (.tinvPage x0 2) = some (x0, 2, .page) ∧ Executes (st devS) x0 (.tinvPage x0 2) devS (fetchOf devS) ∧
      Level.le .s (devS.arch 0).pl = true ∧ ¬ ((devS.arch 0).strap = true ∧ (devS.arch 0).pl = .s) ∧ devS.stitching 0 = none ∧
      (devS.core 0).storeBuf = []) ∧
    (Executes (st devAcked) x0 (.tsync x0 4) devAcked (fetchOf devAcked) ∧ Level.le .s (devAcked.arch 0).pl = true ∧
      devAcked.stitching 0 = none ∧ ∀ b ∈ (devAcked.core 0).tinvs, b.targets = []) ∧
    (Executes (st devUnacked) x0 (.tsync x0 4) devUnacked (fetchOf devUnacked) ∧ Level.le .s (devUnacked.arch 0).pl = true ∧
      devUnacked.stitching 0 = none ∧ ∃ b ∈ (devUnacked.core 0).tinvs, b.targets ≠ []) :=
  ⟨⟨by decide, executes _ _ _ readyS (by decide), by decide +kernel⟩, ⟨executes _ _ _ (by decide +kernel) (by decide), by decide +kernel⟩,
    executes _ _ _ (by decide +kernel) (by decide), by decide +kernel⟩

def crng0 : Crng := ⟨.flush, 0x1000, 8, .m, 0, false, false⟩
def devRange : Dev := dev0With fun k => { k with crng := some crng0 }
def devFetch : Dev := dev0With fun k => { k with crng := some ⟨.prefetch, 0x1000, 1, .m, 0, false, false⟩ }
def devLong : Dev := dev0With (regs 0x1000 0x5000000000)
theorem test_case_RangeOperations :
    (rangeOf (.flush x0 2) = some (x0, 2, .flush, .s) ∧ Executes (st devLine) x0 (.flush x0 2) devLine (fetchOf devLine) ∧
      Level.le .s (devLine.arch 0).pl = true ∧ devLine.stitching 0 = none ∧ (devLine.core 0).crng = none ∧ (devLine.core 0).storeBuf = [] ∧
      ((devLine.arch 0).getG (2 + 1)).toNat ≠ 0 ∧ ((devLine.arch 0).getG (2 + 1)).toNat ≤ 2 ^ 38) ∧
    (Executes (st dev0) x0 (.clean x0 2) dev0 (fetchOf dev0) ∧ ((dev0.arch 0).getG (2 + 1)).toNat = 0) ∧
    (Executes (st devLong) x0 (.clean x0 2) devLong (fetchOf devLong) ∧ 2 ^ 38 < ((devLong.arch 0).getG (2 + 1)).toNat) ∧
    (Executes (st devRange) x0 (.discard x0 2) devRange (fetchOf devRange) ∧ (devRange.core 0).crng = some crng0 ∧ devRange.isOn 0 = true) ∧
    ((devFetch.core 0).crng = some ⟨.prefetch, 0x1000, 1, .m, 0, false, false⟩ ∧ devFetch.isOn 0 = true ∧ deviceRange 0x1000 = false ∧
      devFetch.frameOk 0x1000 = true ∧ devFetch.place 0x1000 = .dram 0 0x40 ∧ (devFetch.core 0).l2Line 64 = some line0) :=
  ⟨⟨by decide, executes _ _ _ readyLine (by decide), by decide +kernel⟩, ⟨executes _ _ _ ready0 (by decide), by decide +kernel⟩,
    ⟨executes _ _ _ (by decide +kernel) (by decide), by decide +kernel⟩,
    ⟨executes _ _ _ (by decide +kernel) (by decide), by decide +kernel⟩, by decide +kernel⟩

/-- g2 names a granule of memory. -/
theorem test_case_ZeroMarks :
    Executes (st devLine) x0 (.zmark x0 2) devLine (fetchOf devLine) ∧ devLine.stitching 0 = none ∧ (devLine.zmark 0 2).2 = .next ∧
    (devLine.zmark 0 2).1.fabric.waits = devLine.fabric.waits ∧
    (match (devLine.resolve 0 .store 4096 true [0x1000]).2 with
      | .inr (_ :: _) => true
      | _ => false) = true ∧
    ((devLine.arch 0).pl = .m ∧ (devLine.arch 0).mxlate = false ∧ ((devLine.arch 0).getG 2).toNat / 4096 = 1 ∧ deviceRange (1 * 4096) = false ∧
      devLine.place (1 * 4096) = .dram 0 0x40 ∧ devLine.chanFailed 0 = false ∧ (devLine.core 0).storeBuf = [] ∧ 64 / 64 = 1) :=
  ⟨executes _ _ _ readyLine (by decide), by decide +kernel, by decide +kernel, by decide +kernel, by decide +kernel, by decide +kernel⟩

/-- Six lines of a request in the L2 of core 0, a word of the first given. -/
def reqLine (n : Nat) : L2Line := ⟨n, .modified, if n = 0 then BitVec.ofNat 512 (2 ^ 8) else 0, false, 0⟩
def devReq : Dev := dev0With fun k => { k with l2 := ⟨64, .modified, 0x0102030405060708, false, 0⟩ :: (List.range 6).map reqLine }
theorem readyReq : readyB devReq x0 = true := by decide +kernel
theorem placesReq : ∀ i, i < 6 → devReq.place (0 + 64 * i) = .dram 0 i := by decide +kernel
theorem linesReq : ∀ i, i < 6 → (devReq.core 0).l2Line (0 / 64 + i) = some (reqLine i) := by decide +kernel
def devSlot : Dev := (dev0With (regs 0 0)).setFld (.pnlSlot 0) .PNL_SLOT_STATE 2
theorem test_case_PanelRequests :
    (Executes (st dev0) x0 (.ltime x0 2) dev0 (fetchOf dev0) ∧ dev0.inPanel 0 = none) ∧
    (Executes (st devOdd) x0 (.psetup x0 2) devOdd (fetchOf devOdd) ∧ Level.le .h (devOdd.arch 0).pl = true ∧ devOdd.stitching 0 = none ∧
      ((devOdd.arch 0).getG 2).toNat % 64 ≠ 0) ∧
    (Executes (st dev0) x0 (.psetup x0 2) dev0 (fetchOf dev0) ∧ Level.le .h (dev0.arch 0).pl = true ∧ ((dev0.arch 0).getG 2).toNat = 0 ∧
      dev0.normalAt 0 = true ∧ dev0.normalAt 0x17F = true ∧ (dev0.readNormal 0 0 8 0 0x180 0).2.2 = none) ∧
    (Executes (st devReq) x0 (.psetup x0 2) devReq (fetchOf devReq) ∧ ((devReq.arch 0).getG 2).toNat = 0 ∧ (devReq.core 0).storeBuf = [] ∧
      ∀ i, i < 6 → (∃ ch n, devReq.place (0 + 64 * i) = .dram ch n) ∧ (devReq.core 0).l2Line (0 / 64 + i) = some (reqLine i) ∧ (reqLine i).poison = false) ∧
    (Executes (st dev0) x0 (.pdissolve x0 2) dev0 (fetchOf dev0) ∧ dev0.slotState (((dev0.arch 0).getG 2).toNat % 16) = 0) ∧
    (Executes (st devSlot) x0 (.pdissolve x0 2) devSlot (fetchOf devSlot) ∧ devSlot.slotState (((devSlot.arch 0).getG 2).toNat % 16) = 2) :=
  ⟨⟨executes _ _ _ ready0 (by decide), by decide +kernel⟩, ⟨executes _ _ _ readyOdd (by decide), by decide +kernel⟩,
    ⟨executes _ _ _ ready0 (by decide), by decide +kernel⟩,
    ⟨executes _ _ _ readyReq (by decide), by decide +kernel, by decide +kernel, fun i h =>
      ⟨⟨0, i, placesReq i h⟩, linesReq i h, rfl⟩⟩,
    ⟨executes _ _ _ ready0 (by decide), by decide +kernel⟩,
    executes _ _ _ (by decide +kernel) (by decide), by decide +kernel⟩

theorem test_case_VectorIntegers :
    ((vectorInteger (.vmulh x0 ⟨1, 2, 3, .i8⟩)).isSome = true ∧ Executes (st dev0) x0 (.vmulh x0 ⟨1, 2, 3, .i8⟩) dev0 (fetchOf dev0)) ∧
    ((vectorMove (.vsel x0 ⟨1, 2, 3, .f64⟩)).isSome = true ∧ Executes (st dev0) x0 (.vsel x0 ⟨1, 2, 3, .f64⟩) dev0 (fetchOf dev0)) :=
  ⟨⟨rfl, executes _ _ _ ready0 (by decide)⟩, rfl, executes _ _ _ ready0 (by decide)⟩

theorem test_case_VectorFloats :
    ((vectorFloat (.vfma x0 ⟨1, 2, 3, .f16⟩)).isSome = true ∧ Executes (st dev0) x0 (.vfma x0 ⟨1, 2, 3, .f16⟩) dev0 (fetchOf dev0)) ∧
    Executes (st dev0) x0 (.vcvt x0 1 2 .i8 .i64) dev0 (fetchOf dev0) :=
  ⟨⟨rfl, executes _ _ _ ready0 (by decide)⟩, executes _ _ _ ready0 (by decide)⟩

/-! ### Cases that meet the statements' hypotheses: events of cores, the fabric -/

/-- Event priority 9 is pending for logical core 0, which core 0 is; and guest vector 3 for its descriptor in the line of its L2. -/
def devEvent : Dev :=
  let d := (dev0With fun k => { k with arch := { k.arch with ie := true, fspM := 0x1140 } }).setFld (.coreIdent 0) .CORE_IDENT_LVALID 1
  { d with events := { d.events with counts := [(9, 1)] } }
def devGuest : Dev := dev0With fun k => { k with
  arch := { k.arch with ie := true, vpdesc := 0x8000000000001000, tdelegM := 0x20000, tdelegH := 0x20000, pl := .s, fspS := 0x1180 }
  l2 := [⟨64, .modified, 8, false, 0⟩, ⟨65, .modified, 0, false, 0⟩] }

/-- Core 0 is about to load g3 from a line that its L2 does not hold. -/
def devMiss : Dev := dev0With fun k => { regs 0x2000 0 k with
  l2 := [⟨64, .modified, ((Instr.ldd x0 ⟨3, 2, 0⟩).encode.getD 0).setWidth 512, false, 0⟩] }
theorem test_case_CoreEvents :
    (devEvent.interruptible 0 = true ∧ devEvent.accepted 0 = some (0x10, 9) ∧ 9 ≤ 255) ∧
    devEvent.FrameReady 0 ((devEvent.arch 0).route 0x10) line0 ∧
    ((devGuest.arch 0).accepts 0x11 = true ∧ devGuest.vpPending 0 = some 3 ∧ (devGuest.vpTake 0 3).fabric.waits = devGuest.fabric.waits ∧
      (devGuest.vpTake 0 3).arch 0 = devGuest.arch 0 ∧
      (devGuest.vpTake 0 3).FrameReady 0 ((devGuest.arch 0).route 0x11) ⟨65, .modified, 0, false, 0⟩) ∧
    (devGuest.interruptible 0 = true ∧ devGuest.accepted 0 = some (0x11, 3)) ∧
    (devMiss.canIssue 0 = true ∧ (devMiss.core 0).runAhead = none ∧ (devMiss.core 0).routine = none ∧ bitF (devMiss.arch 0).predCtl 2 = false ∧
      15 * 50 ≤ 750 ∧ devMiss.missing 0 128 = some 3 ∧ devMiss.missing 0 64 = none ∧
      (dev0With fun k => { k with l2 := [⟨64, .modified, 0, false, 0⟩] }).missing 0 128 = none) ∧
    ((dev0With fun k => { k with runAhead := some ⟨Arch.reset, [1], 3⟩ }).core 0).runAhead = some ⟨Arch.reset, [1], 3⟩ := by
  refine ⟨by decide +kernel, ⟨by decide +kernel, by decide +kernel, by decide +kernel, by decide +kernel, ⟨0, 0x40, by decide +kernel⟩,
      by decide +kernel, rfl⟩, ⟨by decide +kernel, by decide +kernel, by decide +kernel, by decide +kernel,
      ⟨by decide +kernel, by decide +kernel, by decide +kernel, by decide +kernel, ⟨0, 0x41, by decide +kernel⟩, by decide +kernel, rfl⟩⟩,
    by decide +kernel, by decide +kernel, by decide +kernel⟩

/-- Core 0's prefetchers follow a load of the page that it executes from. -/
def devFollow : Dev := (dev0With fun k => { k with lastLoad := some 0x1000 }).setFld (.corePrefetch 0) .CORE_PREFETCH_L2_LVL 2
theorem test_case_CoreUpkeep :
    (dev0.isOn 0 = true ∧ (dev0.core 0).run ≠ .stopped ∧ (dev0.core 0).hardFault = false ∧ (dev0.core 0).replays < 3) ∧
    3 ≤ ((dev0With fun k => { k with replays := 3 }).core 0).replays ∧ (dev0.core 0).lastLoad = none ∧
    (devFollow.l2Read 0 (0x1FC0 / 64) 0).1.fabric.waits = devFollow.fabric.waits ∧
    (devFollow.isOn 0 = true ∧ (devFollow.core 0).run = .running ∧ devFollow.fld (.corePrefetch 0) .CORE_PREFETCH_L2_LVL ≠ 0 ∧
      ((devFollow.core 0).lastLoad.any fun a => a.toNat / 4096 == (0x1FC0 : Word).toNat / 4096) = true ∧
      devFollow.xlateHeld 0 0x1FC0 = some (0x1FC0, 0) ∧ deviceRange 0x1FC0 = false ∧ inSpad 0x1FC0 = false) ∧
    dev0.od 0x8020 0 0 ≠ 1 ∧ (dev0.setOd 0x8020 0 1).od 0x8020 0 0 = 1 := by decide +kernel

/-- Core 0 holds logical number 0, core 1 is a spare. -/
def devNamed : Dev := (dev0.setFld (.coreIdent 0) .CORE_IDENT_LVALID 1).setFld (.coreState 1) .CORE_STATE_ROLE 1
def devReplay : Dev := devNamed.modCore 0 fun k => { k with recovery := some (.stitchReplay 1), member := some member0 }
def devAgain : Dev := devNamed.modCore 0 fun k => { k with recovery := some (.stitchReplay 0), member := some member0 }
def devMove : Dev := devNamed.modCore 0 fun k => { k with recovery := some (.transplant 1 .running) }
/-- Core 0 degrades: its replays have filled the counter. -/
def devWeary : Dev := { devNamed with gov := { devNamed.gov with coreErrs := [(0, List.replicate 4096 0)] } }

theorem test_case_HardFaults :
    (devNamed.isOn 0 = true ∧ devNamed.lvalid 0 = true ∧ (devNamed.core 0).recovery = none ∧ (devNamed.core 0).member = none ∧
      (devNamed.core 0).runAhead = none) ∧
    devReplay.recovering 0 = some (0, .stitchReplay 1) ∧
    (((devNamed.modCore 0 fun k => { k with recovery := some (.stitchReplay 0) }).core 0).recovery = some (.stitchReplay 0) ∧
      (devAgain.core 0).recovery = some (.stitchReplay 0) ∧ (devAgain.core 0).member = some member0 ∧ member0.phase = .running ∧
      member0.first = none ∧ member0.firstIntr = [] ∧ member0.endAt = none ∧ member0.slot < 16 ∧ (devAgain.core 0).storeBuf = []) ∧ devNamed.recovering 1 = none ∧ devMove.recovering 0 = some (0, .transplant 1 .running) ∧
    (devWeary.coreDegrading 0 = true ∧ devWeary.spareCore 0 = some 1 ∧ devWeary.od 0x5200 0 0 = 0) := by decide +kernel

/-- A packet of core 0 to slice 0 about line 128, and the device to which it has been delivered. -/
def msg0 : Msg where
  src := coreNode 0
  dst := sliceNode 0
  who := .core 0
  addr := 0x2000
  epoch := 0
  txid := 1
  key := 0
  poison := false
  collide := false
  rstat := 0
  byteen := fullMask
  sdata := 0
  data := 0
def arrive (d : Dev) (o : Opc) (m : Msg) : Dev :=
  (((d.inTransit o m).leave o m).see o m ((d.inTransit o m).beganAt m)).abortEntry ((d.inTransit o m).packetDom o m)
theorem arrives (d : Dev) (o : Opc) (m : Msg)
    (h : (!(d.startTxn o m).overtakes o m && !(d.startTxn o m).linkOpen m && !(d.startTxn o m).deviceHeld o m && !(d.inTransit o m).blocked m &&
      ((d.inTransit o m).power ((d.inTransit o m).packetDom o m) == 0)) = true) : Delivered (st d) o m (arrive d o m) := by
  simp only [Bool.and_eq_true, Bool.not_eq_true', beq_iff_eq] at h
  obtain ⟨⟨⟨⟨h1, h2⟩, h3⟩, h4⟩, h5⟩ := h
  exact ⟨h1, h2, h3, h4, h5, rfl⟩
def llc0 : LlcLine := ⟨128, 0, 3, false, 0, 5, false⟩
/-- The home of line 128 has it in its cache. -/
def devLlc : Dev := dev0.modSlice (dev0.home 128).1 fun x => { x with llc := [{ llc0 with set := (dev0.home 128).2 }] }

theorem test_case_Homes :
    (homeRequest (.rds msg0) = some (.rds, msg0) ∧ Delivered (st dev0) .rds msg0 (arrive dev0 .rds msg0) ∧
      (let e := arrive dev0 .rds msg0
       let n := (e.home (lineOfMsg msg0)).1
       e.stale n msg0 = false ∧ e.farSocket msg0 = none ∧ inSpad msg0.addr.toNat = false ∧ e.homedAway (lineOfMsg msg0) = false ∧ (e.slice n).waitq = [] ∧
         e.homeWaits n .rds msg0 false = false ∧ (e.snoopList n .rds msg0).1 = [])) ∧
    (Delivered (st devLlc) .rds msg0 (arrive devLlc .rds msg0) ∧
      (let e := arrive devLlc .rds msg0
       let n := (e.home (lineOfMsg msg0)).1
       msg0.addr.toNat % 64 = 0 ∧ e.place msg0.addr.toNat = .dram 0 0x80 ∧ e.stale n msg0 = false ∧ (e.slice n).waitq = [] ∧ (e.slice n).dir = [] ∧
         e.homeWaits n .rds msg0 false = false ∧ ((e.slice n).llcLine (lineOfMsg msg0)).isSome = true)) ∧
    (Delivered (st dev0) .rdo { msg0 with epoch := 1 } (arrive dev0 .rdo { msg0 with epoch := 1 }) ∧
      (arrive dev0 .rdo { msg0 with epoch := 1 }).stale 0 { msg0 with epoch := 1 } = true) ∧
    (let d := dev0.modSlice 0 fun x => { x with llc := [llc0] }
     (d.slice 0).dirEntry 128 = none ∧ (d.slice 0).llcLine 128 = some llc0 ∧ d.unreachable 128 = false ∧ d.homedAway 128 = false) :=
  ⟨⟨rfl, arrives _ _ _ (by decide +kernel), by decide +kernel⟩, ⟨arrives _ _ _ (by decide +kernel), by decide +kernel⟩,
    ⟨arrives _ _ _ (by decide +kernel), by decide +kernel⟩, by decide +kernel⟩

/-- The same packet on its way to core 0. -/
def snoop0 : Msg := { msg0 with src := sliceNode 0, dst := coreNode 0 }
theorem test_case_Snoops :
    (snoopOf (.snpinv snoop0) = some (.snpinv, snoop0) ∧ Delivered (st dev0) .snpinv snoop0 (arrive dev0 .snpinv snoop0) ∧
      snoop0.who = .core (0 : CoreId) ∧ (arrive dev0 .snpinv snoop0).fabric.txns = [] ∧ (arrive dev0 .snpinv snoop0).deadHolder (.core 0) = false ∧
      (∀ k, k / 2 = 0 → (arrive dev0 .snpinv snoop0).power k ≠ 1)) ∧
    (dev0.fabric.ports = [] ∧ (dev0.setFlushAt 0 3 (.core 0)).fabric.waits = dev0.fabric.waits) ∧
    ((dev0.slice 0).dir = [] ∧ ∀ k, k / 2 = 1 → (dev0.core k).l2 = []) := by
  refine ⟨⟨rfl, arrives _ _ _ (by decide +kernel), rfl, by decide +kernel, by decide +kernel, ?_⟩, ⟨by decide +kernel, by decide +kernel⟩,
    by decide +kernel, ?_⟩ <;> intro k hk
  · have : k = 0 ∨ k = 1 := by omega
    rcases this with rfl | rfl <;> decide +kernel
  · have : k = 2 ∨ k = 3 := by omega
    rcases this with rfl | rfl <;> decide +kernel

/-- Slice 0 waits for core 2's answer about line 128; core 0 waits for its own transaction. -/
def homeTxn0 : HomeTxn := ⟨.rdo, msg0, [], [.core 2], none, false, none, false, false, false⟩
def homeTxnNa : HomeTxn := { homeTxn0 with opc := .rdna }
def devAsk : Dev := dev0.modSlice 0 fun x => { x with txns := [homeTxn0] }
def devAskNa : Dev := devLlc.modSlice (devLlc.home 128).1 fun x => { x with txns := [homeTxnNa] }
def ack0 : Msg := { msg0 with src := coreNode 2, who := .core 2 }
def outTxn0 : OutTxn := ⟨.core 0, .rdo, 1, 0x2000, 0, [], false, false, false⟩
def devWait : Dev := dev0.setFabric { dev0.fabric with txns := [outTxn0] }

theorem test_case_Answers :
    (((holderAnswer (.ack ack0)).map fun r => (r.1, r.2.1)) = some (.ack, ack0) ∧ Delivered (st devAsk) .ack ack0 (arrive devAsk .ack ack0) ∧
      (arrive devAsk .ack ack0).txnFor (lineOfMsg ack0) ack0.who = some (0, homeTxn0) ∧ (∀ a ∈ homeTxn0.acks, sameTile ack0.who a = true) ∧
      homeTxn0.waitWb = false ∧ (arrive devAsk .ack ack0).stale 0 ack0 = false ∧ ((arrive devAsk .ack ack0).slice 0).waitq = [] ∧
      (arrive devAsk .ack ack0).homedAway (lineOfMsg ack0) = false ∧
      ((arrive devAsk .ack ack0).homeAck ack0).fabric.waits = devAsk.fabric.waits) ∧
    (Delivered (st devAskNa) .ack ack0 (arrive devAskNa .ack ack0) ∧
      (let e := arrive devAskNa .ack ack0
       let n := (e.home 128).1
       e.txnFor (lineOfMsg ack0) ack0.who = some (n, homeTxnNa) ∧ (e.slice n).dir = [] ∧ ((e.slice n).llcLine (lineOfMsg ack0)).isSome = true)) ∧
    (((holderAnswer (.nocopy ack0)).map fun r => (r.1, r.2.1)) = some (.nocopy, ack0) ∧ Delivered (st devAsk) .nocopy ack0 (arrive devAsk .nocopy ack0) ∧
      homeTxn0.owner.any (sameTile ack0.who) = false) ∧
    (Delivered (st dev0) .copylost ack0 (arrive dev0 .copylost ack0) ∧ (arrive dev0 .copylost ack0).txnFor (lineOfMsg ack0) ack0.who = none) ∧
    (responseOf (.data snoop0) = some (.data, snoop0) ∧ Delivered (st devWait) .data snoop0 (arrive devWait .data snoop0) ∧
      ((arrive devWait .data snoop0).fabric.txns.find? fun x => x.who == snoop0.who && x.txid == snoop0.txid) = some outTxn0 ∧
      outTxn0.timed = false ∧ outTxn0.keep = false ∧ outTxn0.held = [] ∧ outTxn0.opc = .rdo ∧
      (arrive devWait .data snoop0).homedAway (lineOfMsg snoop0) = false ∧
      (((arrive devWait .data snoop0).core 0).l2.filter fun x => x.line != lineOfMsg snoop0 && x.line % 2048 == lineOfMsg snoop0 % 2048).length < 8) ∧
    (Delivered (st dev0) .cmp snoop0 (arrive dev0 .cmp snoop0) ∧
      ((arrive dev0 .cmp snoop0).fabric.txns.find? fun x => x.who == snoop0.who && x.txid == snoop0.txid) = none) ∧
    (devWait.fabric.txns.find? fun x => x.who == .core 0 && x.txid == 1 && !x.timed) = some outTxn0 :=
  ⟨⟨rfl, arrives _ _ _ (by decide +kernel), by decide +kernel⟩, ⟨arrives _ _ _ (by decide +kernel), by decide +kernel⟩,
    ⟨rfl, arrives _ _ _ (by decide +kernel), by decide +kernel⟩,
    ⟨arrives _ _ _ (by decide +kernel), by decide +kernel⟩, ⟨rfl, arrives _ _ _ (by decide +kernel), by decide +kernel⟩,
    ⟨arrives _ _ _ (by decide +kernel), by decide +kernel⟩, by decide +kernel⟩

/-- A read of control space: OD_CTL's register is reached over the service stop. -/
theorem plainReg : ∀ (x : Dev) (v w : Word), Dev.csrEffect x (.corePrefetch 0) v w = x.putFields (.corePrefetch 0) v w := fun _ _ _ => rfl
def csrPlain : Msg := { msg0 with addr := BitVec.ofNat 52 (0xFC00000000000 + (Reg.corePrefetch 0).offset), dst := coreNode 0, byteen := 0xFF }
def csr0 : Msg := { msg0 with addr := 0xFC00003000000, dst := ⟨0, 20, 3⟩, byteen := 0xFF }
theorem test_case_RegisterAccess :
    (Delivered (st dev0) .csrrd csr0 (arrive dev0 .csrrd csr0) ∧ (arrive dev0 .csrrd csr0).place csr0.addr.toNat = .control 0 0x3000000 ∧
      (arrive dev0 .csrrd csr0).stale ((arrive dev0 .csrrd csr0).epochSlice csr0) csr0 = false ∧
      ((arrive dev0 .csrrd csr0).csrRead 0x3000000 (byteSpan csr0)).2.isSome = true) ∧
    (Delivered (st dev0) .csrwr csrPlain (arrive dev0 .csrwr csrPlain) ∧
      (let e := arrive dev0 .csrwr csrPlain
       let o := (Reg.corePrefetch 0).offset
       e.place csrPlain.addr.toNat = .control e.socket o ∧ e.stale (e.epochSlice csrPlain) csrPlain = false ∧ o ≠ 0x6100000 ∧
         csrAligned o (byteSpan csrPlain) = true ∧ inFlash o = false ∧ Reg.ofOffset (o - o % 8) = some (.corePrefetch 0) ∧
         e.listed (.corePrefetch 0) = true ∧ e.dark (.corePrefetch 0) = false ∧ e.absent (.corePrefetch 0) = false)) ∧
    (Delivered (st dev0) .csrwr csr0 (arrive dev0 .csrwr csr0) ∧
      ((arrive dev0 .csrwr csr0).csrWrite 0x3000000 (byteSpan csr0) csr0.sdata).2 = false) ∧
    (dev0.csrRead 0x3000000 8).2.isSome = true ∧ (dev0.csrWrite 0x3000000 8 0).2 = false ∧ csrAligned 0x3000002 4 = false ∧
    Delivered (st dev0) .msg msg0 (arrive dev0 .msg msg0) ∧ (arrive dev0 .msg msg0).farSocket msg0 = none ∧ (arrive dev0 .msg msg0).stale 0 msg0 = false ∧
      (arrive dev0 .msg msg0).bit .evcMtab .EVC_MTAB_EN = false ∧ (0x00000000000FFFFF : Word).toNat % 2 ^ 32 < 2 ^ 20 :=
  ⟨⟨arrives _ _ _ (by decide +kernel), by decide +kernel⟩, ⟨arrives _ _ _ (by decide +kernel), by decide +kernel⟩,
    ⟨arrives _ _ _ (by decide +kernel), by decide +kernel⟩,
    by decide +kernel, by decide +kernel, by decide, arrives _ _ _ (by decide +kernel), by decide +kernel⟩

/-- Port 0 is assigned and up, with a window of stop 0 from offset 0; contained or not. -/
def devPort (contained : Bool) : Dev :=
  (dev0.modPort 0 fun p => { p with assigned := true, up := true, contained := contained }).setReg (.iosOwinRange 0 0) (setF 0 .IOS_OWIN_RANGE_EN 1)
def dev2msg : Msg := { msg0 with addr := 0xF000000000040, byteen := 0xF, dst := ⟨0, 8, 3⟩ }
def ecamMsg : Msg := { dev2msg with addr := 0xF03FFF0200000 }
theorem test_case_RegisterAccess_windows :
    (Delivered (st (devPort false)) .devwr dev2msg (arrive (devPort false) .devwr dev2msg) ∧ inMmio dev2msg.addr.toNat = true ∧
      mmioOf dev2msg.addr.toNat = ((arrive (devPort false) .devwr dev2msg).socket, 0, 0x40) ∧ inEcam 0x40 = false ∧
      (arrive (devPort false) .devwr dev2msg).stale 0 dev2msg = false ∧ (arrive (devPort false) .devwr dev2msg).farSocket dev2msg = none ∧
      ((arrive (devPort false) .devwr dev2msg).beginTxn dev2msg .devwr).mmioRes 0 0x40 (byteSpan dev2msg) = .out 0 false) ∧
    (Delivered (st (devPort true)) .devrd dev2msg (arrive (devPort true) .devrd dev2msg) ∧
      ((arrive (devPort true) .devrd dev2msg).beginTxn dev2msg .devrd).mmioRes 0 0x40 (byteSpan dev2msg) = .ones) ∧
    (Delivered (st (devPort false)) .devrd dev2msg (arrive (devPort false) .devrd dev2msg) ∧
      ((arrive (devPort false) .devrd dev2msg).beginTxn dev2msg .devrd).mmioRes 0 0x40 (byteSpan dev2msg) = .out 0 false) :=
  ⟨⟨arrives _ _ _ (by decide +kernel), by decide +kernel⟩, ⟨arrives _ _ _ (by decide +kernel), by decide +kernel⟩,
    arrives _ _ _ (by decide +kernel), by decide +kernel⟩

theorem test_case_AccessCodes :
    ((⟨.PWR_DOM_REQ, .rw, 0, 0, 2⟩ : FieldDesc) ∈ (Reg.pwrDom 0).fields ∧
      (Reg.pwrDom 0).fields.Pairwise (fun a b => a.f.mask &&& b.f.mask = 0) ∧ (⟨.PWR_DOM_STATE, .ro, 0, 0, 2 ^ 64⟩ : FieldDesc) ∈ (Reg.pwrDom 0).fields) ∧
    ((⟨.SLC_SPAD_COLL_VALID, .w1c, 0, 0, 2 ^ 64⟩ : FieldDesc) ∈ (Reg.slcSpadColl 0).fields ∧
      (Reg.slcSpadColl 0).fields.Pairwise fun a b => a.f.mask &&& b.f.mask = 0) ∧
    (∀ x ∈ (Reg.slcSpadStat 0).fields, x.f.mask &&& (0x8000000000000000 : Word) = 0 ∨ x.acc = .rc) ∧
    (csrAligned 0x2010404 4 = true ∧ inFlash 0x2010404 = false) ∧
    (Reg.ofOffset (Reg.coreReplay 0).offset = some (.coreReplay 0) ∧ dev0.listed (.coreReplay 0) = true ∧ csrAligned (Reg.coreReplay 0).offset 8 = true ∧
      inFlash (Reg.coreReplay 0).offset = false ∧ dev0.dark (.coreReplay 0) = false ∧ dev0.absent (.coreReplay 0) = false) := by decide +kernel

theorem test_case_FabricFaults :
    (flitOk (sealFlit 5 0) = true ∧ flitOk (sealFlit 5 0 ^^^ 1) = false ∧
      ((dev0.setFabric { dev0.fabric with retries := [(0, linkCode (.bridge false 0), 15)] }).fabric.retries.find? fun r => r.1 == 0 && r.2.1 == linkCode (.bridge false 0)) =
        some (0, linkCode (.bridge false 0), 15)) ∧
    (dev0.fabric.ports = [] ∧ dev0.watchHeld 0 0 4 = false) ∧
    ((dev0.setFabric { dev0.fabric with parked := [⟨264, .rds, msg0⟩] }).fabric.parked.find? fun x => x.dom == 264 && opcVc x.opc == 0) =
      some ⟨264, .rds, msg0⟩ ∧
    dev0.obsOn 0 0 = false ∧
    ((dev0.setReg (.fabObsCtl 0 0) (BitVec.allOnes 64)).obsOn 0 0 = true ∧ getF (0x8000000000000001 : Word) .FAB_OBS_CTL_EN = 1) := by decide +kernel

def holder0 : Holder := ⟨3, 4, 0, [], [], false, []⟩
def holder2 : Holder := ⟨5, 4, 0, [], [(0, 4096), (4096, 4096)], false, []⟩
def devHolder : Dev := (devPort false).modStop 0 fun s => { s with holders := [holder0, holder2] }
/-- Requester 3 behind port 0 has a cached context with ATS and CXL.cache, whose accesses are not translated. -/
def ctx0 : CtxEntry := ⟨3, 0xB400000000000000, 0, 0⟩
def devCtx : Dev :=
  (((devPort false).modStop 0 fun s => { s with ctxs := [ctx0] }).setFld (.iosCtxRoot 0) .IOS_CTX_ROOT_EN 1).modPort 0 fun p => { p with cxl := some 0 }
/-- Software has asked for the contexts of requesters 3 to 5 to be dropped. -/
def devInv : Dev := ((devCtx.setFld (.iosCtxInv 0) .IOS_CTX_INV_FIRST 3).setFld (.iosCtxInv 0) .IOS_CTX_INV_LAST 5).setFld (.iosCtxInv 0) .IOS_CTX_INV_BUSY 1
def tlp0 : Tlp := ⟨3, 0x1008, 8, false, false, false, false, 0⟩
theorem test_case_TranslationTargets :
    (((devHolder.stop 0).holders.find? fun h => h.rid == 3 && h.tenant == 4) = some holder0 ∧ holder0.reqs.length < 2 ∧
      holder0.evict = false) ∧
    (((devHolder.stop 0).holders.find? fun h => h.rid == 5 && h.tenant == 4) = some holder2 ∧ 2 ≤ holder2.reqs.length) ∧
    ((([⟨3, [.engine 0], [.engine 0], false⟩] : List OutTinv).any fun x => x.serial == 3 && x.applied.contains (.engine 0)) = true ∧
      (devUnacked.core 0).tinvs.any (fun x => x.serial == 3 && x.applied.contains (.engine 0)) = false) ∧
    ((devHolder.context 0 3).2 = none ∧ (devHolder.context 0 3).1.fabric.waits = devHolder.fabric.waits ∧
      ((devHolder.context 0 3).1.stops.all fun x => x.2.atsWait == []) = true) ∧
    (∀ h ∈ (devUnacked.stop 0).holders, (.core 0, 3) ∉ h.waiting) ∧
    (devInv.bit (.iosCtxInv 0) .IOS_CTX_INV_BUSY = true ∧ devInv.fld (.iosCtxInv 0) .IOS_CTX_INV_FIRST = 3 ∧ devInv.fld (.iosCtxInv 0) .IOS_CTX_INV_LAST = 5 ∧
      devCtx.bit (.iosCtxInv 0) .IOS_CTX_INV_BUSY = false) ∧
    (((devCtx.stop 0).ctxs.find? fun x => x.rid == tlp0.rid) = some ctx0 ∧ ctx0.mode = 1 ∧ tlp0.addr.toNat < 2 ^ 52 ∧
      devCtx.place tlp0.addr.toNat = .dram 0 0x40) ∧
    ((devPort false).portDead 0 = false ∧ (⟨3, 0, 4, false, true, false, false, 0⟩ : Tlp).pasid = true) ∧
    (devCtx.portDead 0 = false ∧ tlp0.pasid = false ∧ devCtx.bit (.iosCtxRoot 0) .IOS_CTX_ROOT_EN = true ∧
      devCtx.context 0 3 = (devCtx, some ctx0) ∧ ctx0.ats = true ∧ devCtx.dmaXlate 0 tlp0 .load = (devCtx, .ok 0x1008 0 4096) ∧
      (devCtx.stop 0).holders.length < 256) := by decide +kernel

/-- A rebuild of kind re-key runs, or one waits. -/
def devRebuild (p : Nat) : Dev := { dev0 with hash := { dev0.hash with active := .rekey, ptr := p, new := ⟨1, [1], [0]⟩ } }
def devQueued (r : RebuildReq) : Dev := { dev0 with hash := { dev0.hash with queue := [r] } }
/-- Slice 1 is a spare of slice 0's quadrant. -/
def devSpare : Dev := (devQueued ⟨.retirement, 0, false⟩).setFld (.slcState 1) .SLC_STATE_ROLE 1
theorem test_case_SliceMaps :
    (dev0.od 0x2100 0 0 = 0 ∧ dev0.gov.maskAt = 0) ∧ (dev0.setOd 0x2100 0 1).od 0x2100 0 0 = 1 ∧
    (dev0.od 0x2110 0 0 = 0 ∧ dev0.hash.queue = [] ∧ dev0.hash.lastAuto = none) ∧ (dev0.setOd 0x2110 0 1).od 0x2110 0 0 ≠ 0 ∧
    ((devQueued ⟨.rekey, 0, false⟩).hash.active = .none ∧
      (devQueued ⟨.rekey, 0, false⟩).hash.queue.find? (devQueued ⟨.rekey, 0, false⟩).rebuildReady = some ⟨.rekey, 0, false⟩) ∧
    (devSpare.hash.queue.find? devSpare.rebuildReady = some ⟨.retirement, 0, false⟩ ∧ devSpare.spareSlice 0 = some 1) ∧
    ((devRebuild 3070).hash.active ≠ .none ∧ (devRebuild 3070).hash.pausedAt = none ∧ (devRebuild 3070).setInUse = false ∧
      (∀ e ∈ (devRebuild 3070).slices, e.2.waitq = [] ∧ (∀ x ∈ e.2.llc, x.set ≠ 3070) ∧ ∀ x ∈ e.2.dir, x.set ≠ 3070) ∧
      (devRebuild 3070).hash.ptr + 1 < 3072) ∧
    (3072 ≤ (devRebuild 3071).hash.ptr + 1 ∧ (devRebuild 3071).setInUse = false) ∧
    ((devRebuild 0).modSlice 0 fun x => { x with txns := [homeTxn0] }).setInUse = true := by decide +kernel

theorem test_case_SliceWork :
    (dev0.bit (.slcSpadCtl 0) .SLC_SPAD_CTL_BUSY = false ∧ dev0.canCarve 0 = true ∧ 8 ≠ dev0.fld (.slcState 0) .SLC_STATE_SPWAYS) ∧
    ((dev0.setFld (.slcState 0) .SLC_STATE_ROLE 1).canCarve 0 = false ∧ (dev0.setFld (.slcState 0) .SLC_STATE_ROLE 1).sliceRole 0 ≠ 3) ∧
    ((dev0.setFld (.slcSpadCtl 0) .SLC_SPAD_CTL_BUSY 1).bit (.slcSpadCtl 0) .SLC_SPAD_CTL_BUSY = true ∧
      (dev0.setFld (.slcSpadCtl 0) .SLC_SPAD_CTL_BUSY 1).canCarve 0 = true) ∧
    (dev0.fld (.slcSpadCtl 0) .SLC_SPAD_CTL_STARVE_T < 2000 ∧ dev0.od 0x4010 2 2000 ≤ 2000) ∧
    ((dev0.setFld (.slcState 0) .SLC_STATE_ROLE 3).sliceRole 0 = 3 ∧ dev0.bit (.slcMarchCtl 0) .SLC_MARCH_CTL_BUSY = false ∧
      MarchMode.lr ≠ .preserving ∧ (dev0.setFld (.slcState 0) .SLC_STATE_ROLE 3).carved 0 = false) ∧
    (dev0.setFld (.slcMarchCtl 0) .SLC_MARCH_CTL_BUSY 1).bit (.slcMarchCtl 0) .SLC_MARCH_CTL_BUSY = true ∧
    (1 ≤ (repairAll (dev0.spares 0) [⟨.tag, 1, 0⟩]).2 ∧ (repairAll (dev0.spares 0) [⟨.tag, 1000, 1000⟩]).2 < 2000) := by decide +kernel

/-- Core 0 died and its reclamation runs, or is over and the core is failed. -/
def devDying : Dev := { (dev0.modSlice 0 fun x => { x with dir := [⟨128, 0, 0, true, [0], [], []⟩] }) with
  board := { dev0.board with reclaim := [.core 0] } }
def devOver : Dev := { dev0 with
  board := { dev0.board with reclaim := [.core 0] }
  slices := (List.range 132).map fun n => (n, { Slice.reset with walked := true }) }
def devDead : Dev := { (dev0.setFld (.coreState 0) .CORE_STATE_ROLE 3) with
  time := 1000000000, board := { dev0.board with deadAt := [(.core 0, 0), (.cxl 0, 0)] } }
def devManager : Dev := { dev0 with pins := { dev0.pins with isManager := true }, board := { dev0.board with present := [1] } }
def devLinked : Dev := devManager.modLink 0 fun l => { l with up := true, peer := 1 }
theorem test_case_DeadAgents :
    (devDying.board.reclaim ≠ [] ∧ (devDying.slice 0).walked = false ∧ devDying.walkDue 0 = true ∧ dev0.board.reclaim = [] ∧
      ∀ t ∈ (devDying.slice 0).txns, t.acks.any devDying.deadHolder = false) ∧
    (devOver.board.reclaim ≠ [] ∧ (∀ n, n < 132 → devOver.walkDue n = false) ∧ devOver.othersDue = false) ∧
    ({ devManager with board := { devManager.board with reclaim := [.core 0] } }).othersDue = true ∧
    (let d := { devManager with board := { devManager.board with present := [1, 2] } }
     1 ≠ d.socket ∧ 2 ≠ d.socket ∧ d.sockUp 1 = true ∧ d.sockUp 2 = true ∧ d.pins.isManager = true) ∧
    (.core 0, 0) ∈ devDead.board.deadAt ∧ (.cxl 0, 0) ∈ devDead.board.deadAt ∧
    ((devDead.past 0 (us (2 * devDead.od 0x4010 2 2000))) = true ∧ .core 0 ∉ devDead.board.reclaim ∧ devDead.coreRole 0 = 3 ∧
      devDead.lvalid 0 = false ∧ devCtx.cxlDown 0 = false ∧ .cxl 0 ∉ devDead.board.reclaim) ∧
    (dev0.board.deadAt.any fun x => x.1 == .core 0) = false ∧
    ((List.range 16).any fun j => (devLinked.link j).up && (devLinked.link j).peer == 1) = true ∧
    (((List.range 16).any fun j => (devManager.link j).up && (devManager.link j).peer == 1) = false ∧ 1 ≠ devManager.socket ∧
      devManager.present 1 = true ∧ devManager.sockDead 1 = false ∧ devManager.pins.isManager = true) := by decide +kernel

/-- Slot 0 has core 0 as its one member (logical number 0), in a phase of the row and of its stitch. -/
def devPanel (state : Nat) (r : RowPhase) (p : MemberPhase) (l : List Nat) : Dev :=
  ((((dev0With fun k => { k with member := some { member0 with phase := p } }).setFld (.coreIdent 0) .CORE_IDENT_LVALID 1).setFld
    (.pnlSlot 0) .PNL_SLOT_STATE state).modPanel 0 fun x => { x with members := l, phase := r })
theorem rowReady (d : Dev) (n : Nat) (h : (!d.playing n && (d.memberCores n).all fun c => !d.down c && (match (d.core c).member with
    | some m => decide (m.phase ≠ .suspended) && !m.retry && decide (m.trap = none) && decide (m.intr = [])
    | none => false) && decide ((d.core c).storeBuf = [])) = true) : d.RowReady n := by
  simp only [Bool.and_eq_true, Bool.not_eq_true', List.all_eq_true, decide_eq_true_eq] at h
  refine ⟨h.1, fun c hc => (h.2 c hc).1.1, fun c hc => ?_⟩
  have hb := (h.2 c hc).1.2
  split at hb
  · rename_i m hm
    simp only [Bool.and_eq_true, Bool.not_eq_true', decide_eq_true_eq] at hb
    exact ⟨m, hm, hb.1.1.1, hb.1.1.2, hb.1.2, hb.2, (h.2 c hc).2⟩
  · cases hb
/-- The same in record mode, one entry waiting to be journalled in the ring at 0x2000. -/
def devJournal : Dev := ((devPanel 2 .boundary .committed [0]).setFld (.pnlSlot 0) .PNL_SLOT_RECORD 1).modPanel 0 fun x =>
  { x with jrnl := [⟨1, 2, 3, 4⟩], jbase := 0x2000, jlog := 1 }
def jrnlBytes : List Byte := leBytes 8 1 ++ leBytes 8 2 ++ leBytes 8 3 ++ leBytes 8 4
/-- The device after the entry has been written. -/
def devJournalled : Dev :=
  let d := (devJournal.writeBytesAs evAgent 0 2 (devJournal.jrnlPa 0 (devJournal.fld (.pnlJrnl 0) .PNL_JRNL_DEV)) jrnlBytes).1
  ((d.wrapFld (.pnlJrnl 0) .PNL_JRNL_DEV 1).ringLevel (.journal 0) (d.jrnlLevel 0) (d.jrnlLevel 0 + 1)).modPanel 0 fun p => { p with jrnl := [] }
theorem test_case_PanelEvents_journal :
    ((devJournal.panel 0).phase = .boundary ∧ (devJournal.panel 0).jrnl = [⟨1, 2, 3, 4⟩] ∧ devJournal.recording 0 = true ∧
      devJournal.jrnlLevel 0 ≠ 2 ^ (devJournal.panel 0).jlog) ∧
    (let d := devJournal.setFld (.pnlJrnl 0) .PNL_JRNL_DEV 2
     d.jrnlLevel 0 = 2 ^ (d.panel 0).jlog) ∧
    (devJournal.writeBytesAs evAgent 0 2 (devJournal.jrnlPa 0 (devJournal.fld (.pnlJrnl 0) .PNL_JRNL_DEV)) jrnlBytes).2 = false ∧
    (devJournal.writeBytesAs evAgent 0 2 (devJournal.jrnlPa 0 (devJournal.fld (.pnlJrnl 0) .PNL_JRNL_DEV)) jrnlBytes).1.fabric.waits = devJournal.fabric.waits ∧
    devJournal.slotState 0 ≠ 4 ∧ (devJournalled.panel 0).dissolve = false ∧ devJournalled.RowReady 0 :=
  ⟨by decide +kernel, by decide +kernel, by decide +kernel, by decide +kernel, by decide +kernel, by decide +kernel, rowReady _ _ (by decide +kernel)⟩
theorem test_case_PanelEvents :
    ((devPanel 1 .idle .entered [0]).slotState 0 = 1 ∧ (devPanel 1 .idle .entered [0]).memberCores 0 = [0] ∧
      ((devPanel 1 .idle .entered [0]).panel 0).members.length = 1 ∧
      ((devPanel 1 .idle .entered [0]).core 0).member = some { member0 with phase := .entered } ∧
      (devPanel 1 .idle .entered [0]).RowReady 0) ∧
    (0 ∈ (devPanel 1 .idle .named [0]).memberCores 0 ∧ ((devPanel 1 .idle .named [0]).core 0).member = some { member0 with phase := .named }) ∧
    (devIn.stitching 0 = some member0 ∧ (devIn.core 0).runAhead = none ∧ devIn.stitchDone 0 member0 = none) ∧
    (let d := dev0With fun k => { k with member := some { member0 with count := 4096 } }
     d.stitching 0 = some { member0 with count := 4096 } ∧ d.stitchDone 0 { member0 with count := 4096 } = some .limit) ∧
    (((devPanel 2 .stitches .running [0]).panel 0).phase = .stitches ∧ (devPanel 2 .stitches .running [0]).nextRetry 0 = none ∧
      (devPanel 2 .stitches .running [0]).allEnded 0 = false ∧ (devPanel 2 .stitches .ended [0]).allEnded 0 = true ∧
      (devPanel 2 .stitches .ended [0]).nextRetry 0 = none ∧ (devPanel 2 .stitches .ended [0]).slotState 0 ≠ 4 ∧
      ((devPanel 2 .stitches .ended [0]).panel 0).outside = [] ∧ ((devPanel 2 .stitches .ended [0]).panel 0).wset = [] ∧
      (devPanel 2 .stitches .ended [0]).memberCores 0 = [0] ∧
      ((devPanel 2 .stitches .ended [0]).core 0).member = some { member0 with phase := .ended }) ∧
    (((devPanel 2 .committed .committed []).panel 0).phase = .committed ∧ (devPanel 2 .committed .committed []).memberCores 0 = [] ∧
      ((devPanel 2 .committed .committed []).panel 0).gates = [] ∧ (devPanel 2 .committed .committed []).playing 0 = false ∧
      (devPanel 2 .committed .committed []).recording 0 = false ∧ (devPanel 2 .committed .committed []).slotState 0 = 2) ∧
    (((devPanel 2 .boundary .committed [0]).panel 0).phase = .boundary ∧ ((devPanel 2 .boundary .committed [0]).panel 0).jrnl = [] ∧
      ((devPanel 2 .boundary .committed [0]).panel 0).dissolve = false ∧ (devPanel 2 .boundary .committed [0]).slotState 0 ≠ 4 ∧
      (devPanel 2 .boundary .committed [0]).RowReady 0) ∧
    (let d := (devPanel 3 .boundary .committed []).modPanel 0 fun x => { x with dissolve := true }
     (d.panel 0).dissolve = true ∧ (d.panel 0).phase = .boundary ∧ (d.panel 0).jrnl = [] ∧ d.memberCores 0 = [] ∧ d.slotState 0 ≠ 4) ∧
    (dev0.panel 0).phase = .idle ∧ dev0.slotState 0 ≠ 4 :=
  ⟨⟨by decide +kernel, by decide +kernel, by decide +kernel, by decide +kernel, rowReady _ _ (by decide +kernel)⟩, by decide +kernel, by decide +kernel,
    by decide +kernel, by decide +kernel, by decide +kernel, ⟨by decide +kernel, by decide +kernel, by decide +kernel, by decide +kernel,
      rowReady _ _ (by decide +kernel)⟩, by decide +kernel, by decide +kernel, by decide +kernel⟩

/-! ### Cases that meet the statements' hypotheses: memory, input and output, the board -/

def wq0 : WqEntry := ⟨128, 7, fullMask, 0, false, false, 0, 0⟩
def rd0 : RdEntry := ⟨128, none, ⟨.clean, .clean⟩, 0, 0, false⟩
def key0 : KeySlot := ⟨1, 2⟩
/-- One write waits for channel 0, which has one DIMM of two ranks and key 0; granule 3 is being filled with zeros. -/
def devWrite : Dev :=
  { dev0.modChan 0 fun c => { c with wq := [wq0], dimms := some ⟨1, 2, 16, true, []⟩ } with keys := [(0, key0)], zclear := [2] }
def devRead : Dev := dev0.modChan 0 fun c => { c with reads := [rd0] }
def devFill (n : Nat) : Dev := dev0.modChan 0 fun c => { c with fill := [⟨3, 0, n, 0⟩] }
theorem test_case_DramAccess :
    (dev0.place (0x2000 / 64 * 64) = .dram 0 0x80 ∧ dev0.power (domOfChan 0) ≠ 1 ∧ dev0.chanFailed 0 = false ∧ (dev0.chan 0).wq = []) ∧
    ((devWrite.chan 0).wq = [wq0] ∧ wq0.line = msg0.addr.toNat / 64 ∧ wq0.issued = false ∧ devWrite.place (0x2000 / 64 * 64) = .dram 0 0x80) ∧
    (dev0.place (128 * 64) = .dram 0 0x80 ∧ dev0.readsFull 0 = false ∧ (⟨.clean, .clean⟩ : ReadAttempt).first = .clean) ∧
    (devWrite.chanState 0 = 0 ∧ devWrite.isOn (domOfChan 0) = true ∧ (devWrite.chan 0).reads = [] ∧ wq0.byteen = fullMask ∧ wq0.poison = false ∧
      devWrite.keySlot wq0.key.toNat = some key0 ∧ devWrite.zeroBit (wq0.line / 64) = false) ∧
    ((devRead.chan 0).wq = [] ∧ (devRead.chan 0).reads = [rd0] ∧ rd0.issued = false ∧ rd0.key = none ∧ devRead.readsZero 0 rd0.line = true) ∧
    (let d := { devRead with zclear := [2] }
     d.readsZero 0 rd0.line = false ∧ ((d.lineMeta rd0.line).map (·.lost)).getD false = false ∧ rd0.att.first = .clean) ∧
    (let d := { devRead with zclear := [2], lines := [(128, ⟨true, key0⟩)] }
     d.readsZero 0 rd0.line = false ∧ ((d.lineMeta rd0.line).map (·.lost)).getD false = true) ∧
    (dev0.setFld (.mcCtl 0) .MC_CTL_STATE 2).chanState 0 ≠ 0 ∧
    ((devWrite.chan 0).dimms = some ⟨1, 2, 16, true, []⟩ ∧ ∀ x ∈ (devWrite.chan 0).refAt, x.1 ≠ 0) ∧
    (let d := (dev0.modChan 0 fun c => { c with refAt := [(0, 0)] }).setFld (.mcTimingA2 0) .MC_TIMING2_TREFI 100
     (0, 0) ∈ (d.chan 0).refAt ∧ d.past 0 (d.refInterval 0) = false) ∧
    ((devFill 0).chanState 0 = 0 ∧ ((devFill 0).chan 0).fill = ⟨3, 0, 0, 0⟩ :: [] ∧ 0 + 8 < 64 ∧ ((devFill 56).chan 0).fill = ⟨3, 0, 56, 0⟩ :: [] ∧
      64 ≤ 56 + 8) ∧ (dev0.chan 0).fill = [] := by
  decide +kernel

def devTrain (n : Nat) : Dev := dev0.setFld (.mcCtl 0) .MC_CTL_STATE n
theorem test_case_DramTraining :
    (0 ∈ (devTrain 2).setChannels ∧ (devTrain 2).chanState 0 = 2) ∧
    ((∀ ch ∈ dev0.setChannels, dev0.chanState ch = 0 ∧ dev0.power (domOfChan ch) ≠ 1) ∧ 500 ≤ dev0.od 0x4010 2 2000 ∧
      ∃ ch ∈ dev0.setChannels, dev0.bit (.mcCtl ch) .MC_CTL_TSEL ≠ true) ∧
    ((∀ ch ∈ dev0.setChannels, dev0.chanState ch ≠ 2 ∧ dev0.chanState ch ≠ 4) ∧ (dev0.setOd 0x4010 2 400).od 0x4010 2 2000 < 500) ∧
    (devTrain 1).od 0x3010 0 0 = bitNat false ∧
    (let d := devWrite.modChan 0 fun c => { c with wq := [{ wq0 with issued := true }] }
     d.chanFailed 0 = false ∧ (∀ r ∈ (d.chan 0).reads, r.issued = false) ∧ (d.chan 0).wq = [{ wq0 with issued := true }] ∧ d.keySlot 0 = some key0 ∧
       d.zeroBit (128 / 64) = false) ∧
    (∀ ch, ch < 16 → dev0.chanState ch ≠ 1) ∧ ((devTrain 1).chanState 0 = 1) ∧ (devTrain 6).chanFailed 0 = true ∧
    (dev0.chanFailed 0 = false ∧ ∀ w ∈ (dev0.chan 0).wq, w.issued = false) ∧
    (dev0.chanState 0 = 0 ∧ (dev0.chan 0).retrainDue = false) ∧ (∀ w ∈ ((devTrain 2).chan 0).wq, w.issued = false) ∧ ((dev0.modChan 0 fun c => { c with retrainDue := true }).chan 0).retrainDue = true := by
  decide +kernel
theorem test_case_DramTraining_none : ∀ ch, ((devTrain 1).chan ch).retrainDue = false := by
  obtain ⟨x, hx, hr⟩ : ∃ x, (devTrain 1).chans = [(0, x)] ∧ x.retrainDue = false := ⟨(devTrain 1).chan 0, by decide +kernel, by decide +kernel⟩
  intro ch
  simp only [Dev.chan, hx, Tbl.get]
  split
  · exact hr
  · rfl

theorem test_case_DramScrubs :
    dev0.bit (.mcDscrubCtl 0) .MC_DSCRUB_CTL_BUSY = false ∧ (dev0.setFld (.mcDscrubCtl 0) .MC_DSCRUB_CTL_BUSY 1).bit (.mcDscrubCtl 0) .MC_DSCRUB_CTL_BUSY = true ∧
    ((dev0.modChan 0 fun c => { c with scrub := some (2, 3) }).chan 0).scrub ≠ none ∧
    (let d := { dev0.modChan 0 fun c => { c with scrub := some (128, 1) } with zclear := [2] }
     (d.chan 0).scrub = some (128, 1) ∧ d.place (128 * 64) = .dram 0 0x80 ∧ (d.chan 0).wq = [] ∧ d.readsZero 0 128 = false ∧
       ((d.lineMeta 128).map (·.lost)).getD false = false) ∧
    (bitF (0x4000000000000000 : Word) 62 = true ∧ bitF (0 : Word) 62 = false) ∧
    (dev0.od 0x3021 0 1 ≠ 0 ∧ (dev0.chan 0).scrub = none ∧ dev0.chanState 0 = 0 ∧ dev0.isOn (domOfChan 0) = true ∧
      (dev0.chan 0).inSet = true ∧ 64 ≤ (dev0.chan 0).usable) ∧
    dev0.bit (.mcSwatchCtl 0) .MC_SWATCH_CTL_BUSY = false ∧ (dev0.setFld (.mcSwatchCtl 0) .MC_SWATCH_CTL_BUSY 1).bit (.mcSwatchCtl 0) .MC_SWATCH_CTL_BUSY = true := by
  decide +kernel

/-- A requester without a valid context, translation being on. -/
def devNoCtx : Dev := (devPort false).setFld (.iosCtxRoot 0) .IOS_CTX_ROOT_EN 1
def msgTlp : Tlp := { tlp0 with addr := BitVec.ofNat 64 (msgdbPa dev0), len := 4 }
def devSpad : Dev := (devPort false).setFld (.slcState 0) .SLC_STATE_SPWAYS 3
/-- A device whose context lets it reach MMIO windows of its socket. -/
def ctxP2p : CtxEntry := ⟨3, 0xA800000000000000, 0, 0⟩
def devP2p : Dev := ((devPort false).modStop 0 fun s => { s with ctxs := [ctxP2p] }).setFld (.iosCtxRoot 0) .IOS_CTX_ROOT_EN 1
def p2pTlp : Tlp := { tlp0 with addr := 0xF000000000040, len := 4 }
theorem test_case_InboundAccesses :
    (devPort true).portDead 0 = true ∧
    ((devNoCtx.dmaXlate 0 tlp0 .load).2 = .fault 1 0 ∧ (devNoCtx.dmaXlate 0 tlp0 .store).2 = .fault 1 0 ∧ tlp0.addr.toNat ≠ msgdbPa devNoCtx ∧
      devNoCtx.peerMsgdb tlp0.addr.toNat = none) ∧
    (devCtx.dmaXlate 0 tlp0 .store = (devCtx, .ok 0x1008 0 4096) ∧ devCtx.place 0x1008 = .dram 0 0x40 ∧
      (devCtx.readBytes (ioAgent 0) 0 8 0x1008 8).2.2 = (false, false) ∧
      (devCtx.writeBytesAs (ioAgent 0) 0 8 0x1008 [1, 2, 3, 4, 5, 6, 7, 8]).2 = false) ∧
    (let d := (devCtx.readBytes (ioAgent 0) 0 8 0x1008 8).1
     (d.writeBytesAs (ioAgent 0) 0 8 0x1008 (leBytes 8 (atomicRun .fetchAdd 8 5 6 0))).2 = false) ∧
    ((devPort false).portDead 0 = false ∧ msgTlp.addr.toNat = msgdbPa (devPort false) ∧ msgTlp.pasid = false ∧
      (devPort false).peerMsgdb msgTlp.addr.toNat = none ∧
      msgTlp.translated = false ∧ (devPort false).bit (.iosCtxRoot 0) .IOS_CTX_ROOT_EN = false) ∧
    ((devPort false).place (0x1008 % 2 ^ 52) = .dram 0 0x40 ∧ devSpad.place (0xF800000000100 % 2 ^ 52) = .spad 0 0 0x100 ∧
      devSpad.bit (.iosCtxRoot 0) .IOS_CTX_ROOT_EN = false) ∧
    (devP2p.portDead 0 = false ∧ p2pTlp.addr.toNat ≠ msgdbPa devP2p ∧ devP2p.peerMsgdb p2pTlp.addr.toNat = none ∧
      devP2p.dmaXlate 0 p2pTlp .store = (devP2p, .ok 0xF000000000040 0 4096) ∧ devP2p.place 0xF000000000040 = .mmio devP2p.socket 0 0x40 ∧
      devP2p.mmioRes 0 0x40 4 = .out 0 false) := by decide +kernel

def outReq0 : OutReq := ⟨5, 0, .core 0, 1, false, false, 4⟩
def devOut : Dev := (devPort false).modStop 0 fun s => { s with outs := [outReq0] }
/-- The configuration space of the root port of port 0, and of a device on bus 2 behind it. -/
def ecamHdr : Msg := { dev2msg with addr := 0xF03FFF0000010 }
def ecamBus : Msg := { dev2msg with addr := 0xF03FFF0200000 }
def devBus : Dev := (devPort false).modPort 0 fun p => { p with subBuses := (1, 3) }
def devOutTxn : Dev := devOut.setFabric { devOut.fabric with txns := [⟨.core 0, .devrd, 1, 0xF000000000040, 0, [], false, false, false⟩] }
/-- A caching device of type 1 behind port 0. -/
def devCxl : Dev := devCtx.modPort 0 fun p => { p with dev := some ⟨1, false, false⟩ }
theorem test_case_PortEvents :
    ((dev0.port 0).assigned = false ∧ ((devPort true).port 0).contained = true ∧ ((devPort false).port 0).contained = false ∧
      ((devPort false).port 0).assigned = true ∧ ((devPort false).port 0).cxl = none ∧ ((devPort false).stop 0).outs = [] ∧
      ((devPort false).stop 0).holders = []) ∧
    (((devOut.stop 0).outs.find? fun r => r.tag == 5) = some outReq0 ∧ (devOut.fabric.txns.find? fun x => x.who == .core 0 && x.txid == 1) = none ∧
      outReq0.config = false) ∧
    (inMmio 0xF000000000040 = true ∧ mmioOf 0xF000000000040 = (dev0.socket, 0, 0x40) ∧ inEcam 0x40 = false ∧
      (dev0.beginTxn dev2msg .devrd).mmioRes 0 0x40 4 = .err) ∧
    (inMmio ecamMsg.addr.toNat = true ∧ mmioOf ecamMsg.addr.toNat = (dev0.socket, 0, 0x3FFF0200000) ∧ inEcam 0x3FFF0200000 = true ∧
      (dev0.beginTxn ecamMsg .devrd).mmioRes 0 0x3FFF0200000 4 = .ones) ∧
    ((devPort false).beginTxn dev2msg .devwr).mmioRes 0 0x40 4 = .out 0 false ∧
    (devCtx.cxlPort 0 = some 0 ∧ devCtx.portDead 0 = false ∧ devCtx.bit (.iosCtxRoot (stopOfPort 0)) .IOS_CTX_ROOT_EN = true ∧
      devCtx.context (stopOfPort 0) 3 = (devCtx, some ctx0) ∧ ctx0.cache = true ∧ ctx0.mode = 1 ∧ devCtx.walkable (0x1008 % 2 ^ 52) = true ∧
      cxlOpc .rdOwn = some .rdo) ∧
    (let o := 0x3FFF0000010
     inMmio 0xF03FFF0000010 = true ∧ mmioOf 0xF03FFF0000010 = (dev0.socket, 0, o) ∧ inEcam o = true ∧
      ((devPort false).beginTxn ecamHdr .devwr).mmioRes 0 o 4 = .header 0 0x10 ∧ ((devPort false).beginTxn ecamHdr .devrd).mmioRes 0 o 4 = .header 0 0x10 ∧
      0x10 / 4 ≠ 6 ∧ 0x10 / 4 ≠ 0x59) ∧
    (devBus.beginTxn ecamBus .devrd).mmioRes 0 0x3FFF0200000 4 = .out 0 true ∧
    ((devOutTxn.fabric.txns.find? fun x => x.who == outReq0.who && x.txid == outReq0.txid).isSome = true ∧ outReq0.write = false) ∧
    (devCxl.cxlPort 0 = some 0 ∧ devCxl.portDead 0 = false ∧ (devCxl.port 0).caches = true ∧
      devCxl.bit (.iosCtxRoot (stopOfPort 0)) .IOS_CTX_ROOT_EN = true ∧ devCxl.context (stopOfPort 0) 3 = (devCxl, some ctx0) ∧
      (devCxl.homeServe .rdo (.cxl 0) 0x41 0 0 fullMask false).1.fabric.waits = devCxl.fabric.waits) ∧
    ((devCtx.port 0).caches = false ∧ (devCxl.setFld (.iosCtxRoot 0) .IOS_CTX_ROOT_EN 0).bit (.iosCtxRoot (stopOfPort 0)) .IOS_CTX_ROOT_EN = false) ∧
    (((devPort false).port (4 * 0 + 0)).assigned = true ∧ ∀ j, j < 4 → (dev0.port (4 * 0 + j)).assigned = false) := by decide +kernel

/-- Link 0 is up, in generation 0, expecting sequence 0; transaction 1 of a peer has been answered, transaction 2 not. -/
def devLink : Dev := dev0.modLink 0 fun l => { l with
  up := true
  buffer := [(4, none), (5, some (.rds, msg0, true))]
  credits := [64, 64, 64, 64]
  proxied := [⟨1, 1, .rds, msg0, some (.data, msg0), 0⟩, ⟨2, 2, .rds, msg0, none, 0⟩]
  started := [⟨7, .rds, { msg0 with txid := 7 }⟩]
  resent := [7] }
def flit0 : BrxFlit := ⟨0, 0, 4, false, [], [], 0, true⟩
def devTrainLink : Dev := devLink.modLink 0 fun l => { l with retrain := true, started := [] }
def devSync : Dev := { dev0 with pins := { dev0.pins with syncSent := some 0x40000000 } }
def devDrive : Dev := { devManager with time := 0x40000000, pins := { devManager.pins with syncSent := some 0x40000000 } }
theorem test_case_Board :
    ((dev0.link 0).up = false ∧ (dev0.link 0).retrain = false) ∧
    ((devLink.link 0).up = true ∧ ({ flit0 with gen := 1 } : BrxFlit).gen.toNat ≠ devLink.fld (.sknBrx (skeinOfLink 0)) .SKN_BRX_GEN) ∧
    (flit0.gen.toNat = devLink.fld (.sknBrx (skeinOfLink 0)) .SKN_BRX_GEN ∧ ({ flit0 with seq := 1 } : BrxFlit).seq ≠ (devLink.link 0).rxSeq ∧
      (devLink.link 0).nakSeq = (devLink.link 0).rxSeq ∧ (devLink.link 0).naks < 7) ∧
    (flit0.crcOk = true ∧ flit0.seq = (devLink.link 0).rxSeq ∧ flit0.packets = [] ∧ flit0.nak = false ∧ (devLink.link 0).queue = [] ∧
      ({ flit0 with nak := true } : BrxFlit).nak = true ∧ (devLink.link 0).gotNaks < 7) ∧ (devLink.link 0).retrain = false ∧
    ((devTrainLink.link 0).retrain = true ∧ (devTrainLink.link 0).started = [] ∧ (devTrainLink.link 0).queue = []) ∧
    (let d := devTrainLink.modLink 0 fun l => { l with started := [⟨7, .rds, { msg0 with txid := 7 }⟩], resent := [] }
     (d.link 0).retrain = true ∧ (d.link 0).queue = [] ∧ (d.link 0).started = [⟨7, .rds, { msg0 with txid := 7 }⟩] ∧ (d.link 0).resent = [] ∧
       1 + opcLen .rds { msg0 with txid := 7 } ≤ 64) ∧
    devLink.proxiedBy 0 1 = some ⟨1, 1, .rds, msg0, some (.data, msg0), 0⟩ ∧
    (devLink.past 0 (us (8 * devLink.od 0x4010 5 50)) = false ∧ (devLink.link 0).retrain = false ∧ (devLink.link 0).queue = [] ∧
      1 + opcLen .data msg0 ≤ (devLink.link 0).credits.getD (opcVc .data) 0) ∧
    devLink.proxiedBy 0 2 = some ⟨2, 2, .rds, msg0, none, 0⟩ ∧
    (devLink.proxiedBy 0 7 = none ∧ isResponse .data = true ∧
      ((devLink.link 0).started.find? fun y => y.txid == 7) = some ⟨7, .rds, { msg0 with txid := 7 }⟩) ∧
    ((devLink.link 0).started.find? fun y => y.txid == 7 && (devLink.link 0).resent.contains 7) = some ⟨7, .rds, { msg0 with txid := 7 }⟩ ∧
    (devManager.pins.isManager = true ∧ devDrive.pins.isManager = true ∧ devDrive.pins.syncSent = some devDrive.time ∧ devManager.sockUp 1 = true ∧
      devManager.pins.syncSent ≠ some devManager.time) ∧
    ([700][devSync.socket]? = some 700 ∧ ([] : List Nat)[devSync.socket]? = none) ∧
    (devSync.pins.isManager = false ∧ devSync.pins.syncSent = some 0x40000000 ∧ devSync.pins.syncFirst = false) ∧
    ({ devSync with pins := { devSync.pins with syncFirst := true } }).pins.syncFirst = true ∧
    ({ dev0 with phase := .castOn }).phase = .castOn ∧ dev0.phase ≠ .castOn := by decide +kernel

/-! ### Cases that meet the statements' hypotheses: engines, events, power, the dictionary, cast-on -/

/-- Lane 0 of engine 0 runs a COPY of 16 bytes from 0x1000 to 0x1100 for queue 0 of share 0, whose segment table stands at 0x3000. -/
def copyDesc : List Word := [1, 0x1000, 0x1100, 16, 0, 0, 0, 0]
def partial0 : EngPartial := ⟨[], 0, 0, [], 0, 0⟩
def eng0 : EngCtx := ⟨0, copyDesc, 0, partial0, none, none, false, some 0, (0, partial0), none, 0, 0⟩
def devEng (c : EngCtx) : Dev :=
  let d := (dev0.modEngine 0 fun e => { e with lanes := [(0, 0)], xlate := [⟨.setS, 0, false, 0, 0x1000, 4096, 0x1000, 1, 0, 0x3F3, true⟩] }).modQueue 0
    fun q => { q with started := some c }
  { ((d.setReg (.denIseg 0) 3).setFld (.denStat 0) .DEN_STAT_LANES 1) with mem := [(0x3007, 0x8F)], zclear := [3], keys := [(0, ⟨0, 0⟩)] }
theorem test_case_EngineQuanta :
    (∃ f, engineOf (.engCopy 0 ⟨0, 7⟩) = some (0, 0, 7, 1, f)) ∧
    ((devEng eng0).isOn (domOfEngine 0) = true ∧ laneUp (devEng eng0) 0 0 = true ∧ laneQueue (devEng eng0) 0 0 = some 0 ∧
      ((devEng eng0).queue 0).started = some eng0 ∧ eng0.done = false ∧ descOp eng0.desc = 1) ∧
    (∃ f, engineOf (.engFill 0 ⟨0, 7⟩) = some (0, 0, 7, 2, f)) ∧
    (((devEng eng0).engRead 0 0 2 0x1000 16).2.2 = none ∧
      (((devEng eng0).engRead 0 0 2 0x1000 16).1.engWrite 0 0 2 0x1100 (List.replicate 16 0)).2 = none) ∧
    ((dev0.engRead 0 0 2 0x1000 16).2.2).isSome = true ∧
    (((devEng { eng0 with status := some (1, 0, 0) }).queue 0).started = some { eng0 with status := some (1, 0, 0) } ∧
      ({ eng0 with status := some (1, 0, 0) } : EngCtx).status.isSome = true) ∧
    (((devEng { eng0 with done := true, status := some (0, 0, 0) }).queue 0).started = some { eng0 with done := true, status := some (0, 0, 0) } ∧
      (devEng { eng0 with done := true, status := some (0, 0, 0) }).isOn (domOfEngine 0) = true ∧
      laneQueue (devEng { eng0 with done := true, status := some (0, 0, 0) }) 0 0 = some 0) ∧
    (((devEng { eng0 with done := true }).queue 0).started = some { eng0 with done := true } ∧ instState (devEng { eng0 with done := true }) (0 / 64) ≠ 4 ∧
      engChoose (devEng { eng0 with done := true }) 0 = none ∧ laneUp (devEng { eng0 with done := true }) 0 0 = true) ∧
    (0 + 16384 ≤ ({ eng0 with pos := 16384 } : EngCtx).pos) ∧
    (eng0.fails = 0 ∧ ((devEng eng0).engine 0).fails = []) ∧ ({ eng0 with fails := 1 } : EngCtx).fails ≠ 0 :=
  ⟨⟨_, rfl⟩, by decide +kernel, ⟨_, rfl⟩, by decide +kernel⟩

/-- Share 1 in a state, with 4 queues granted and rings of 64 entries. -/
def devInst (n : Nat) : Dev := (dev0.setFlds (.denIctl 1) [(.DEN_ICTL_STATE, n), (.DEN_ICTL_NQ, 4)]).setFld (.qSq 1 0) .Q_SQ_SLOG 6
def devRing : Dev := dev0.setReg (.evcEqBase 0) (setF (setF 0 .EVC_EQ_BASE_EN 1) .EVC_EQ_BASE_LOG 6)
def devNotice : Dev := { dev0 with events := { dev0.events with notices := [(0x300000, ⟨some 0, true⟩)] } }
/-- Source 5 waits, the only one, for logical core 0's queue. -/
def devWaits : Dev := { devRing with csr := [((Reg.evcWroute 5).offset, 0xC001000000000000)] }
theorem wroute_reset (n : Nat) : (getF (Reg.evcWroute n).reset .EVC_WROUTE_PEND != 0) = false := by
  have : (Reg.evcWroute n).reset = (Reg.evcWroute 0).reset := rfl
  rw [this]; decide +kernel
theorem waits_only : ∀ m, devWaits.pend true m = decide (m = 5) := by
  intro m
  by_cases h : m = 5
  · subst h; decide +kernel
  · have e : ¬ (Reg.evcWroute 5).offset = (Reg.evcWroute m).offset := by simp only [Reg.offset]; omega
    simp only [Dev.pend, Dev.bit, Dev.fld, Dev.reg, devWaits, Tbl.get, e, if_false, if_true, h, decide_false]
    exact wroute_reset m
theorem test_case_InstancesAndEvents_rescan :
    (∀ m, devWaits.pend true m = decide (m = 5)) ∧ devWaits.events.msgPend = [] ∧
    devWaits.route true 5 = (devWaits, .entry 0xC001000000000000) ∧ bitF (0xC001000000000000 : Word) 63 = true ∧
    bitF (0xC001000000000000 : Word) 60 = false ∧ devWaits.queueOf (getF (0xC001000000000000 : Word) .EVC_WROUTE_TARGET % 256) = 0 ∧
    (devWaits.reoffer true 5).events.msgPend = [] :=
  ⟨waits_only, by decide +kernel⟩
theorem none_waits : ∀ n, ({ devWaits with csr := [] } : Dev).pend true n = false := by
  intro n
  simp only [Dev.pend, Dev.bit, Dev.fld, Dev.reg, Tbl.get, if_true]
  exact wroute_reset n
theorem test_case_InstancesAndEvents :
    (dev0.isOn (domOfEngine (1 / 1024)) = true ∧ (dev0.setPower (domOfEngine 0) 2).isOff (domOfEngine (1 / 1024)) = true) ∧
    (0 < instNq (devInst 2) 1 ∧ 2 ^ sLog (devInst 2) 1 0 < idxLevel 65 (sqHead (devInst 2) 1 0) ∧
      idxLevel 64 (sqHead (devInst 2) 1 0) ≤ 2 ^ sLog (devInst 2) 1 0) ∧ instNq dev0 1 ≤ 0 ∧
    (instState (devInst 0) 1 = 0 ∧ (devInst 0).fld (.denIctl 1) .DEN_ICTL_NQ ≤ 64 ∧
      deviceRange ((devInst 0).fld (.denIsave 1) .DEN_ISAVE_ADDR * 2048) = false ∧ deviceRange (segBase ((devInst 0).reg (.denIseg 1)) * 4096) = false) ∧
    instState (devInst 1) 1 = 1 ∧ (instState (devInst 2) 1 = 2 ∧ (devInst 2).instStarted 1 = []) ∧ (instState dev0 1 ≠ 2 ∧ instState dev0 1 ≠ 3) ∧
    dev0.events.msgPend = [] ∧
    (dev0.putFields (.evcEqBase 0) (setF (setF 0 .EVC_EQ_BASE_EN 1) .EVC_EQ_BASE_LOG 6) (BitVec.allOnes 64)).eqInUse 0 = true ∧
    (dev0.putFields (.evcEqBase 0) 0 (BitVec.allOnes 64)).eqInUse 0 = false ∧
    (devNotice.notice .errorLog).held = true ∧ (dev0.notice .errorLog).held = false := by decide +kernel

/-- A domain in the states of its transitions; core 1's clock is idle in WFE. -/
def devDom (k : Nat) (f : DomSt → DomSt) : Dev := dev0.modDom k f
def devIdle : Dev := (dev0With fun k => { k with run := .waiting none }).setFld (.pwrDom 0) .PWR_DOM_AUTO 1
def devVolt (target prev step : Nat) : Dev :=
  (dev0.setFlds (.pwrVset 0) [(.PWR_VSET_BUSY, 1), (.PWR_VSET_TARGET, target), (.PWR_VSET_PREV, prev)]).modDom 0 fun x => { x with stepMv := step }
theorem test_case_Power :
    (requestable 400 = false ∧ requestable 0 = true ∧ (dev0.dom 0).step = .settled) ∧
    (devIdle.bit (.pwrDom 0) .PWR_DOM_AUTO = true ∧ devIdle.isOn 0 = true ∧ devIdle.domIdle 0 = true ∧ (devIdle.dom 0).step = .settled ∧
      devIdle.refuser 0 false = none) ∧
    ((devIdle.modCore 0 fun k => { k with debug := true }).refuser 0 false = some 5 ∧ (devIdle.modCore 0 fun k => { k with debug := true }).domIdle 0 = true) ∧
    (dev0.setFld (.pwrDom 0) .PWR_DOM_AUTO 0).bit (.pwrDom 0) .PWR_DOM_AUTO = false ∧
    ((devIdle.modDom 0 fun x => { x with step := .drainRet }).isOn 0 = true ∧ ((devIdle.modDom 0 fun x => { x with step := .drainRet }).dom 0).step = .drainRet ∧
      (devIdle.modDom 0 fun x => { x with step := .drainRet }).domIdle 0 = true ∧
      ((devIdle.modDom 0 fun x => { x with step := .drainRet }).dom 0).latest = none) ∧
    (((devIdle.modDom 0 fun x => { x with step := .drainOff }).dom 0).step = .drainOff ∧
      (devIdle.modDom 0 fun x => { x with step := .drainOff }).domIdle 0 = true) ∧
    (requestable 448 = false ∧ dev0.isOn 448 = true ∧ dev0.chiefRetains 448 = true ∧ dev0.refuser 448 false = none) ∧
    ((dev0.setPower 444 1).power 444 = 1 ∧ ((dev0.setPower 444 1).dom 444).latest = none ∧ ((dev0.setPower 444 1).dom 444).step = .settled ∧
      (dev0.setPower 444 1).power (domOfFabric (quadOfDom 444)) = 0) ∧
    ((dev0.dom 412).step = .settled ∧ (∀ j, j < 4 → (dev0.port ((412 - 412) * 4 + j)).assigned = false) ∧
      ((devPort false).port ((412 - 412) * 4 + 0)).assigned = true) ∧
    (dev0.isOff 0 = false ∧ ((dev0.setPower 0 2).setFld (.coreState 0) .CORE_STATE_ROLE 1).isOff 0 = true ∧
      ((dev0.setPower 0 2).setFld (.coreState 0) .CORE_STATE_ROLE 1).coreRole 0 ≠ 0) ∧
    ((dev0.setPower 444 2).isOff 444 = true ∧ (dev0.setPower 444 2).wakesNext 444 = true ∧
      (dev0.setPower 444 2).power (domOfFabric (quadOfDom 444)) = 0) ∧
    (sliceDom 0 = false ∧ ((devDom 0 fun x => { x with step := .drainOff }).dom 0).step = .drainOff) := by decide +kernel
theorem test_case_Power_voltage :
    (dev0.vBusy 0 = false ∧ 755 ≠ dev0.vPrev 0 ∧ dev0.isOn 0 = true ∧ (dev0.setPower 0 2).isOn 0 = false ∧
      755 < 2 ^ (Fld.PWR_VSET_TARGET).width) ∧
    ((devVolt 755 750 750).vBusy 0 = true ∧ ((devVolt 755 750 750).dom 0).undo = false ∧
      ((devVolt 755 750 750).dom 0).stepMv < (devVolt 755 750 750).fld (.pwrVset 0) .PWR_VSET_TARGET ∧
      (devVolt 755 750 750).fld (.pwrVset 0) .PWR_VSET_TARGET ≤ ((devVolt 755 750 750).dom 0).stepMv + 5 ∧ (devVolt 755 750 750).gov.reef = false ∧
      ((devVolt 755 750 750).dom 0).cooling = false ∧ ((devVolt 755 750 750).dom 0).owed = false ∧
      600 ≤ ((devVolt 755 750 750).dom 0).stepMv) ∧
    (agrees (dev0.setpoint 0 + 40) (dev0.setpoint 0) = true ∧ agrees (dev0.setpoint 0) (dev0.setpoint 0) = true ∧
      (⟨dev0.setpoint 0 + 40, dev0.setpoint 0, false⟩ : SenseReport).wireFail = false) ∧
    (dev0.dom 0).suspect = none ∧
    (ivrDom 0 = true ∧ (dev0.dom 0).monitor = true ∧ dev0.bit (.pwrSense 0) .PWR_SENSE_SFAULT = false ∧ dev0.power 0 ≠ 1) ∧
    (let d := (devDom 448 fun x => { x with suspect := some 0 }).setFld (.pwrSense 448) .PWR_SENSE_KIND 3
     (d.dom 448).suspect.isSome = true ∧ d.fld (.pwrSense 448) .PWR_SENSE_KIND = 3) := by decide +kernel

theorem test_case_GovernorAndSafety :
    ((dev0.setFld (.coreState 0) .CORE_STATE_ROLE 1).coreRole 0 ≠ 0 ∧ dev0.isOn 0 = true ∧ dev0.coreRole 0 = 0 ∧ dev0.od 0x2001 0 0 = 0 ∧
      dev0.vBusy 0 = false ∧ (dev0.dom 0).guard = false ∧ dev0.coreTarget 0 (min (max 800 (dev0.od 0x2001 2 600)) (dev0.od 0x2001 3 950)) = 800 ∧ 800 ≠ dev0.vPrev 0 ∧
      800 < 2 ^ (Fld.PWR_VSET_TARGET).width) ∧
    (dev0.setOd 0x2200 0 1).od 0x2200 0 0 = 1 ∧
    (100 * 875 ≤ 125 * dev0.govLimit ∧ 480 ≤ dev0.od 0x2000 2 480 ∧ 95 * 125 * dev0.govLimit ≤ 10000 * 875) ∧
    (125 * dev0.govLimit < 100 * 900 ∧ dev0.gov.fastThr < 12) ∧
    (100 * dev0.govLimit < 100 * 701 ∧ 110 * dev0.govLimit < 100 * 771) ∧
    (dev0.od 0x2000 0 0 = 0 ∧ dev0.gov.slowOn = false ∧ dev0.gov.medOn = false ∧ 100 * 700 ≤ 100 * dev0.govLimit ∧ 100 * 770 ≤ 110 * dev0.govLimit ∧ dev0.gov.reefUntil = none ∧ 95 * 110 * dev0.govLimit ≤ 10000 * 770 ∧
      770 < 2 ^ (Fld.PWR_STAT_P100).width ∧ dev0.gov.allocation = none) ∧
    ((dev0.byNode 4 (fun ch => (dev0.chan ch).inSet) [1, 1]).any (hotIn (dev0.od 0x2110 1 4)) = false ∧
      (dev0.byNode 33 (fun n => dev0.sliceRole n == 0 && !dev0.isOff (domOfSlice n)) []).any (hotIn (dev0.od 0x2110 1 4)) = false ∧
      (let l := dev0.byNode 33 (fun n => dev0.sliceRole n == 0 && !dev0.isOff (domOfSlice n)) [9]
       l.length = 1 ∧ l.all (hotIn (dev0.od 0x2110 1 4)) = true) ∧
      0 < dev0.od 0x2110 2 10 ∧ Tbl.get 0 0 dev0.hash.hotSecs + 1 < dev0.od 0x2110 2 10) ∧
    (Dev.reset.phase ≠ .running ∧ ({ dev0 with cores := [] }).liveCores = []) ∧
    ((80 : Int) < (dev0.od 0x1030 0 100 : Nat) ∧ (dev0.dom 0).cooling = false ∧ (dev0.od 0x1030 0 100 : Nat) ≤ (110 : Int)) ∧
    (dev0.pins.vaux = true ∧ (∃ t ∈ [(125 : Int)], 125 ≤ t ∧ t ≤ 150) ∧ dev0.pins.thermTrip = false ∧ ∀ t ∈ [(124 : Int)], t < 125) ∧
    (dev0.phase = .running ∧ Dev.reset.phase = .waiting ∧ ({ dev0 with pins := { dev0.pins with vaux := false } }).pins.vaux = false) ∧
    (dev0.pins.disagree = none ∧ ({ dev0 with pins := { dev0.pins with disagree := some 4 } }).pins.disagree = some 4 ∧ dev0.pins.discLatch = false) ∧
    (dev0.pins.forceCut = none ∧ ({ dev0 with pins := { dev0.pins with forceCut := some 4 } }).pins.forceCut.isSome = true) ∧ 64 < 65 := by decide +kernel

/-- A request of the operating system's path about OD 0x2001:01, its one session, and a device with that session and a value staged. -/
def od0 : OdRequest := ⟨.bmc, 0, 0x2001, 1, 5, 0, 2, [0xF8, 0x02]⟩
def sess0 (l : List Staged) : Session := ⟨5, .bmc, 0, 0, l⟩
def devSess (l : List Staged) : Dev := { dev0 with dict := { dev0.dict with sessions := [sess0 l] } }
def stage0 : Staged := ⟨odKey 0x2001 1, [0xF8, 0x02], 0⟩
/-- OD 0x0220:00, which persists nowhere and takes effect at once. -/
def stageOpen : Staged := ⟨odKey 0x0220 0, [1], 0⟩
def stageBad : Staged := ⟨odKey 0x2001 1, [0xFF, 0xFF], 0⟩
/-- Mailbox page 1 holds an OPEN of socket 0, and GO hands it over (R418, R441). -/
def devMail : Dev := (dev0.setReg (.odmMbReq 1 0) 1).mailboxGo 1
def odMail : OdRequest := ⟨.os, 0, 0, 0, 0, 0, 0, []⟩
theorem test_mailbox_request_is_the_page : devMail.mailMeets odMail 1 = true ∧ devMail.mailMeets odMail 3 = false ∧
    ((dev0.setReg (.odmMbReq 1 0) 8).mailboxGo 1).reg (.odmMbRsp 1 0) = 0x0908 := by decide +kernel
theorem test_case_Dictionary :
    ({ dev0 with phase := .noAux }).phase = .noAux ∧
    ({ od0 with token := 0 }.socket.val = dev0.socket ∧ dev0.mailMeets od0 1 = true ∧ odMalformed od0 1 = false ∧ dev0.dict.sessions.length < 8 ∧
      (dev0.dict.sessions.filter fun s => s.cls == .os).length < 4) ∧
    8 ≤ (List.replicate 8 (sess0 [])).length ∧ dev0.bit (.odmMbCtl 1) .ODM_MB_CTL_BUSY = false ∧
    (∀ op ∈ [2, 3, 4, 5, 6, 7], Served (devSess [stage0]) od0 op (sess0 [stage0])) ∧
    (odLookup { od0 with index := 0x9999 } = .inl 1 ∧ odLookup { od0 with index := 0xF000 } = .inl 2) ∧
    (match odLookup od0 with
      | .inr o => odMayRead .bmc o.index && o.access != 3 && o.access != 1 && o.access != 5 && odMayWrite dev0 .bmc o.index && !o.long &&
          (od0.len == odWidth o.type) && (devSess []).odRange o 1 760 && !(devSess []).odRange o 1 0xFFFF
      | .inl _ => false) = true ∧
    (devSess [stageBad]).odCheck 5 (sortStaged [stageBad]) = some (odKey 0x2001 1, 3) ∧
    (([stage0].all fun t => t.key != odKey 0x1000 0) = true ∧ (devSess [stage0]).odCheck 5 (sortStaged [stage0]) = none ∧
      odCross ((devSess [stage0]).odAfter (sortStaged [stage0])) = none) ∧
    (Served (devSess [stageOpen]) od0 5 (sess0 [stageOpen]) ∧ ([stageOpen].all fun t => t.key != odKey 0x1000 0) = true ∧
      ((sortStaged [stageOpen]).all fun t => t.key != odKey 0x1000 0) = true ∧ (devSess [stageOpen]).odCheck 5 (sortStaged [stageOpen]) = none ∧
      odCross ((devSess [stageOpen]).odAfter (sortStaged [stageOpen])) = none ∧ ((devSess [stageOpen]).odStore (sortStaged [stageOpen])).2 = true ∧
      stageOpen.key / 256 = 0x0220) ∧
    (match odFind (stageOpen.key / 256) (stageOpen.key % 256) with
      | some o => !o.long && o.access != 3
      | none => false) = true ∧
    (match odLookup { od0 with len := 224 } with
      | .inr o => decide (0 ≤ ((devSess []).odRead o od0.sub.toNat).2.length)
      | .inl _ => false) = true := by
  refine ⟨rfl, by decide +kernel, by decide, by decide +kernel, ?_, by decide +kernel, by decide +kernel, by decide +kernel, by decide +kernel,
    ⟨⟨by decide +kernel, by decide +kernel, by decide +kernel, by decide +kernel, by decide +kernel, by decide +kernel⟩, by decide +kernel, by decide +kernel,
      by decide +kernel, by decide +kernel, by decide +kernel, by decide +kernel⟩, by decide +kernel, by decide +kernel⟩
  intro op h
  simp only [List.mem_cons, List.not_mem_nil, or_false] at h
  rcases h with rfl | rfl | rfl | rfl | rfl | rfl <;> refine ⟨?_, ?_, ?_, ?_, ?_, ?_⟩ <;> decide +kernel

def cast0 : CastOnInput := ⟨[0, 0, 0], [], [], [], [], [], true, [], [], [], [], true, [], [], [], false, true⟩
def record0 : Record := ⟨0, 0, 0, false, 0, 0, 0, 0, none, 0, 0, 0⟩
/-! What a cast-on that halts does to the fabric: nothing, where the log's ring is off. -/

theorem persist_fabric (d : Dev) (ok : Bool) : (d.persist ok).fabric = d.fabric := by
  unfold Dev.persist
  split
  · rfl
  · split <;> rfl
theorem reg_other (d : Dev) (r q : Reg) (v : Word) (h : r.offset ≠ q.offset) : (d.setReg r v).reg q = d.reg q := by
  simp only [Dev.setReg, Dev.reg]
  unfold Tbl.put
  split
  · exact Tbl.get_del_other _ _ (Ne.symm h)
  · exact Tbl.get_set_other _ _ _ (Ne.symm h)
theorem logBase_bankTake (d : Dev) (code : Nat) (w : Word) : (d.bankTake 430 code 0 none w none).reg .erbLogBase = d.reg .erbLogBase := by
  have h1 : (Reg.erbStatus 430).offset ≠ Reg.erbLogBase.offset := by decide
  have h2 : (Reg.erbAddr 430).offset ≠ Reg.erbLogBase.offset := by decide
  have h3 : (Reg.erbSynd 430).offset ≠ Reg.erbLogBase.offset := by decide
  have h4 : (Reg.erbMisc 430).offset ≠ Reg.erbLogBase.offset := by decide
  unfold Dev.bankTake
  dsimp only
  split <;> simp only [Dev.countFld, Dev.setFld, Dev.setFlds, List.foldl, reg_other _ _ _ _ h1, reg_other _ _ _ _ h2, reg_other _ _ _ _ h3, reg_other _ _ _ _ h4]
theorem ringTake_off (d : Dev) (r : Record) (h : d.reg .erbLogBase = 0) : d.ringTake r = d := by
  have hb : d.bit .erbLogBase .ERB_LOG_BASE_EN = false := by simp only [Dev.bit, Dev.fld, h]; decide
  simp only [Dev.ringTake, hb, Bool.false_and, Bool.not_false, Bool.true_or, if_true]
theorem pendTake_fabric (d : Dev) (r : Record) : (d.pendTake r).fabric = d.fabric := by
  simp only [Dev.pendTake]
  split
  · rfl
  · split
    · rfl
    · split <;> rfl
theorem bankTake_fabric (d : Dev) (code : Nat) (w : Word) : (d.bankTake 430 code 0 none w none).fabric = d.fabric := by
  unfold Dev.bankTake
  dsimp only
  split <;> rfl
theorem record_fabric (d : Dev) (n : Nat) (h : d.reg .erbLogBase = 0) : (d.makeRecord 430 0x81 0 none none n).fabric = d.fabric := by
  have h5 : (Reg.erbGlobal).offset ≠ Reg.erbLogBase.offset := by decide
  have hc : ∀ (x : Dev), (x.countFld .erbGlobal .ERB_GLOBAL_RECORDS 1).reg .erbLogBase = x.reg .erbLogBase := fun x => reg_other _ _ _ _ h5
  simp only [Dev.makeRecord]
  rw [ringTake_off]
  · simp only [show errClass 0x81 = 5 by decide, show errReportable 0x81 = false by decide, show ¬ ((5 : Nat) = 2 ∨ (5 : Nat) = 3) by decide, show ¬ (5 : Nat) = 4 by decide, show ¬ ((decide (264 ≤ 430) && decide (430 < 396) && (5 : Nat) == 1) = true) by decide, if_false, Bool.and_false, Bool.false_eq_true, pendTake_fabric, Dev.countFld, Dev.setFld_fabric]
    exact bankTake_fabric _ _ _
  · rw [hc]
    show (Dev.bankTake _ 430 0x81 0 none _ none).reg .erbLogBase = 0
    rw [logBase_bankTake]
    exact h
theorem halt_fabric (d : Dev) (n : Nat) (p : Phase) (h : d.reg .erbLogBase = 0) : (d.castHalt n p).fabric = d.fabric := by
  show ((Dev.persist _ _).fabric) = _
  rw [persist_fabric]
  show (Dev.makeRecord _ 430 0x81 0 none none n).fabric = _
  exact record_fabric (d.setFld .erbGlobal .ERB_GLOBAL_PIN_FATAL 1) n ((reg_other _ _ _ _ (by decide)).trans h)
theorem castFrom2_halts (d : Dev) (k : CastOnInput) (warm : Bool) (h : k.chiefOk = false) : d.castFrom2 k warm = (d.clearFor warm).castHalt 2 .halted := by
  simp only [Dev.castFrom2, h, Bool.not_false, if_true]
/-- A cast-on whose chief steward fails its test makes no access wait. -/
theorem test_case_CastOnOff_halts (k : CastOnInput) (h : k.chiefOk = false) :
    ((Dev.reset.castStep1 k).castFrom2 k false).fabric.waits = Dev.reset.fabric.waits := by
  rw [castFrom2_halts _ _ _ h, halt_fabric]
  · rfl
  · rfl
theorem test_case_CastOnOff :
    ({ Dev.reset with phase := .noAux }).phase = .noAux ∧ Dev.reset.phase ≠ .noAux ∧ (dev0.phase ≠ .waiting ∧ dev0.phase ≠ .step1Held) ∧
    (Dev.reset.phase = .waiting ∧ Dev.reset.dict.resetReq ≠ some 2 ∧ (Dev.reset.castStep1 cast0).heldAtStep1 = false) ∧
    (({ Dev.reset with pins := { Dev.reset.pins with foA := true } }).castStep1 cast0).heldAtStep1 = true ∧
    ({ Dev.reset with dict := { Dev.reset.dict with resetReq := some 2 } }).dict.resetReq = some 2 ∧
    ((((Dev.reset.clearFor false).openStore false).chooseFw cast0).2 = none ∧ (((Dev.reset.clearFor true).openStore true).chooseFw cast0).2 = none ∧
      (((Dev.reset.clearFor true).openStore true).chooseFw cast0).1.fabric.waits = Dev.reset.fabric.waits ∧
      ({ Dev.reset with dict := { Dev.reset.dict with resetReq := some 2 } }).phase = .waiting ∧ ({ cast0 with chiefOk := false } : CastOnInput).chiefOk = false ∧
      (Dev.reset.castStep1 cast0).fabric.waits = Dev.reset.fabric.waits) ∧ dev0.phase = .running ∧ Dev.reset.errs.pend = [] ∧
    cast0.chiefOk = true ∧ Dev.reset.past 0 (ms 1000) = false ∧ ({ Dev.reset with time := 1000000001 }).past 0 (ms 1000) = true ∧
    (({ Dev.reset with errs := { Dev.reset.errs with pend := [record0] } }).errs.pend ≠ [] ∧ Dev.reset.errs.wroteAt = none) := by decide +kernel

theorem test_case_DecodeEncode :
    (Instr.dmul x0 ⟨2, 4, 6, true, 3⟩).fields = some (x0, 0x20, lowD ⟨2, 4, 6, true, 3⟩ 4) ∧ (Instr.dmul x0 ⟨2, 4, 6, true, 3⟩).wf = true ∧
    (Instr.dmul x0 ⟨2, 4, 6, true, 3⟩).encode = some 0x08044363 := by decide
theorem test_case_MemoryCanonical : (st dev0).Canonical ∧ ∃ t, step { pending := [.reefNAssert], dev := dev0 } = .next t :=
  ⟨by unfold State.Canonical; decide +kernel, _, rfl⟩

/-! ### Worked examples of the spec, and single steps -/

/-- The device after one command. -/
def after (d : Dev) (i : Instr) : Dev :=
  match step { pending := [i], dev := d } with
  | .next t => t.dev
  | _ => d

/-- R18's example: physical core 139 is in quadrant 2, tile 69 of the socket, whose stop is row 0, column 4, and its steward is 33. -/
theorem test_core139 : quadOfCore 139 = 2 ∧ tileOfCore 139 = 69 ∧ stopOfTile (69 % 33) = 4 ∧ stewardOfDom 139 = 33 := by decide
/-- R28's example: the registers of slice 69 begin at 0x0145_0000, those of its directory at 0x0145_8000. -/
theorem test_slice69 : (Reg.slcState 69).offset / 0x8000 = 0x1450000 / 0x8000 ∧ (Reg.dirStat 69).offset / 0x8000 = 0x1458000 / 0x8000 := by decide
/-- The table after R81: DADD of +125 and −300, of the largest value and 1, of −125 and 125, and of an invalid digit. -/
theorem test_dadd_examples :
    decTwo 0x125C 0x300D 16 (fun u v => decStore (u + v) 16) = .ok 0x175D false ∧
    decTwo 0x999999999999999C 0x1C 16 (fun u v => decStore (u + v) 16) = .ok 0xC true ∧
    decTwo 0x125D 0x125F 16 (fun u v => decStore (u + v) 16) = .ok 0xC false ∧
    decTwo 0x1A5C 0x1C 16 (fun u v => decStore (u + v) 16) = .fault 0x211 := by decide +kernel
/-- The example's word for DADD g5, g6, g7 with p3. -/
theorem test_dadd_word : decodeWord 0 0x080A6383 = some (.dadd x0 ⟨5, 6, 7, false, 3⟩) ∧ (Instr.dadd x0 ⟨5, 6, 7, false, 3⟩).encode = some 0x080A6383 := by decide
/-- The signature bits of the line at 0x1_0000_0040 in the example of panels. -/
theorem test_signature : sigBits 0x4000001 = BitVec.ofNat 4096 (2 ^ 0x041 + 2 ^ 0x501 + 2 ^ 0x800 + 2 ^ 0xC05) := by decide +kernel
/-- The placement example of R264: channel 0, local line 0x48D_1581. -/
theorem test_place :
    ((List.range 16).foldl (fun d n => d.modChan n fun c => { c with inSet := true, usable := 0x1000000000 }) Dev.reset).placeIn 0 0x1234567040 =
      .dram 0 0x48D1581 := by decide +kernel
/-- R184's example: byte 0x100 of way 2 of slice 69 in socket 1. -/
theorem test_scratchpad :
    ({ (Dev.reset.setFld (.slcState 69) .SLC_STATE_SPWAYS 3) with pins := { Dev.reset.pins with socketId := 1 } }).place 0xF804008A60100 =
      .spad 69 2 0x100 := by decide +kernel
/-- The check value of CRC-32C in the example of the data engines. -/
theorem test_crc : crc32c 0xFFFFFFFF ((List.range 9).map fun n => BitVec.ofNat 8 (0x31 + n)) = 0x1CF96D7C := by decide +kernel

/-- The walk of the example of translation, its tables in the core's L2; the descriptor's ADM as given. -/
def devWalk (adm : Nat) : Dev :=
  let d0 : Nat := 2 ^ 63 + adm * 2 ^ 60 + 2 ^ 59 + 2 ^ 58 + 2 ^ 56 + 0xFFFF
  let word := fun (n : Nat) (v : Nat) => BitVec.ofNat 512 (v * 2 ^ (64 * n))
  dev0With fun k => { k with
    arch := { k.arch with pl := .u, segtabS := BitVec.ofNat 64 (0xFF * 2 ^ 40 + 0x100) }
    l2 := [⟨0x4001, .modified, word 4 d0 ||| word 5 0x200000 ||| word 6 (5 * 2 ^ 16 + 0x2A), false, 0⟩,
      ⟨0x8000, .modified, word 0 0x201001, false, 5⟩, ⟨0x8040, .modified, word 1 0x202001, false, 5⟩,
      ⟨0x808A, .modified, word 1 0x1234001B3, false, 5⟩] }
theorem test_walk :
    (match ((devWalk 2).translate 0 .u false ((devWalk 2).arch 0).segtabS true 0x000300004A3F5C18 .store).2 with
      | .ok t => decide (t.pa = 0x1235F5C18 ∧ t.key = 5 ∧ t.tenant = 0x2A ∧ t.device = false ∧ t.mark = some (0x202288, 0x1234001B3, 0x1234003B3))
      | _ => false) = true := by decide +kernel
theorem test_walk_dirtyFault :
    ((devWalk 1).translate 0 .u false ((devWalk 1).arch 0).segtabS true 0x000300004A3F5C18 .store).2 = .fault 0x20B := by decide +kernel

theorem test_step_sub : ((after (dev0With (regs 5 7)) (.sub x0 ⟨4, 2, 3⟩)).arch 0).getG 4 = 0xFFFFFFFFFFFFFFFE := by decide +kernel
theorem test_step_divByZero : ((after (dev0With (regs 5 0)) (.div x0 ⟨2, 2, 3⟩)).arch 0).getG 2 = 0xFFFFFFFFFFFFFFFF := by decide +kernel
theorem test_step_g0 : ((after (dev0With (regs 5 7)) (.add x0 ⟨0, 2, 3⟩)).arch 0).getG 0 = 0 := by decide +kernel
theorem test_step_sraw : ((after (dev0With (regs 0x80000000 31)) (.sraw x0 ⟨4, 2, 3⟩)).arch 0).getG 4 = 0xFFFFFFFFFFFFFFFF := by decide +kernel
theorem test_step_cmpLtu : ((after (dev0With (regs 5 0)) (.cmpCc x0 1 .ltu 2 (.imm 0x1FF))).arch 0).getP 1 = true := by decide +kernel
theorem test_step_guardedOff : ((after (dev0With (regs 5 7)) (.add xOff ⟨4, 2, 3⟩)).arch 0).getG 4 = 0 ∧
    ((after (dev0With (regs 5 7)) (.add xOff ⟨4, 2, 3⟩)).arch 0).pc = 0x1004 := by decide +kernel
theorem test_step_bl : ((after dev0 (.bl x0 (BitVec.allOnes 22))).arch 0).getG 1 = 0x1004 ∧ ((after dev0 (.bl x0 (BitVec.allOnes 22))).arch 0).pc = 0xFFC := by
  decide +kernel
theorem test_step_ldb : ((after (dev0With (regs 0x1007 0)) (.ldb x0 ⟨4, 2, 0xFF9⟩)).arch 0).getG 4 = 8 := by decide +kernel
/-- SYSCALL at M enters the handler of vector 7 at VBAR_M, with the frame below FSP_M. -/
theorem test_step_syscall : ((after devFrame (.syscall x0 5)).arch 0).pc = 0x1C0 ∧ ((after devFrame (.syscall x0 5)).arch 0).fspM = 0x1000 ∧
    (((after devFrame (.syscall x0 5)).core 0).l2Line 64).map (fun l => (leNat (Line.slice l.data 0 8), leNat (Line.slice l.data 16 8))) =
      some (0x1004, 0x50007) := by decide +kernel
/-- MFC of a register of M at U writes nothing and traps to M; the frame saves its address. -/
theorem test_step_mfcPrivileged :
    let d := after (devU.modCore 0 fun k => { k with arch := { k.arch with fspM := 0x1140 } }) (.mfc x0 4 0x008)
    (d.arch 0).getG 4 = 0 ∧ (d.arch 0).pl = .m ∧ ((d.core 0).l2Line 64).map (fun l => leNat (Line.slice l.data 0 8)) = some 0x1000 := by decide +kernel
theorem test_step_pdissolveFree : ((after dev0 (.pdissolve x0 4)).arch 0).getG 4 = 7 := by decide +kernel
theorem test_step_vadds :
    elemOf (((after (dev0With fun k => { k with arch := (k.arch.setV 2 0x7F).setV 3 1 }) (.vadds x0 ⟨1, 2, 3, .i8⟩)).arch 0).getV 1) 8 0 = 0x7F := by
  decide +kernel
theorem test_step_reefN : (after dev0 .reefNAssert).fld .pwrStat .PWR_STAT_REEFPIN = 1 := by decide +kernel
/-- A powered device with no command waiting lets one nanosecond pass. -/
theorem test_step_idle :
    (match step (st Dev.reset) with
      | .next t => t.dev.time
      | _ => 0) = 1 := by decide +kernel
/-- The example of R404 with D = 4 ms: a disagreement of 3.2 ms counts as near, one of 1.5 ms does not. -/
def devAt (d : Dev) (us : Nat) : Dev := { d with time := BitVec.ofNat 64 (1000 * us) }
theorem test_disagreement :
    (after (devAt (after (devAt (dev0.setFld .pwrSafe .PWR_SAFE_DTIME 4) 10000) (.disagreementBegin false)) 13200) (.disagreementEnd false)).od 0x8001 0 0 = 1 ∧
    (after (devAt (after (devAt (dev0.setFld .pwrSafe .PWR_SAFE_DTIME 4) 10000) (.disagreementBegin false)) 11500) (.disagreementEnd false)).od 0x8001 0 0 = 0 := by
  decide +kernel

end Sys2Proof.Tests
end

/-! Prover's part. What every command leaves of the queue, what a write and a read of a register leave in it, and what accesses to registers and
windows by packet and by command do. -/

namespace Sys2Proof.Machine

/-! ### The queue -/

/-- Settles O2. The meaning of each command of the table ends in `State.next` or `State.done`, and both write the device alone. -/
theorem commandsKeepQueue : Obligations.CommandsKeepQueue := by
  unfold Obligations.CommandsKeepQueue
  intro i s
  cases i
  all_goals exact ⟨_, rfl⟩

/-! ### Slices of words under a mask -/

/-- A value put into its slice's place lies within the slice's mask. -/
theorem Fld.placed_and_mask (f : Fld) (n : Nat) :
    BitVec.ofNat 64 ((n % 2 ^ f.width) <<< f.lo) &&& f.mask = BitVec.ofNat 64 ((n % 2 ^ f.width) <<< f.lo) := by
  apply BitVec.eq_of_getLsbD_eq
  intro i hi
  rw [BitVec.getLsbD_and, Fld.mask_getLsbD f i hi, ofNat_bit _ _ hi, Nat.testBit_shiftLeft, Nat.testBit_mod_two_pow]
  by_cases hlo : f.lo ≤ i
  · have hw : (i - f.lo < f.width) = (i < f.lo + f.width) := propext (by omega)
    simp +contextual [hlo, hw]
  · simp [hlo]

/-- A slice's value, put back into its place, is the word under the slice's mask. -/
theorem Fld.placed_getF (w : Word) (f : Fld) : BitVec.ofNat 64 ((getF w f % 2 ^ f.width) <<< f.lo) = w &&& f.mask := by
  apply BitVec.eq_of_getLsbD_eq
  intro i hi
  rw [BitVec.getLsbD_and, Fld.mask_getLsbD f i hi, ofNat_bit _ _ hi, Nat.testBit_shiftLeft, getF, Nat.mod_mod, Nat.testBit_mod_two_pow,
    Nat.testBit_shiftRight]
  by_cases hlo : f.lo ≤ i
  · have hw : (i - f.lo < f.width) = (i < f.lo + f.width) := propext (by omega)
    have hadd : f.lo + (i - f.lo) = i := by omega
    simp [hlo, hw, hadd, Bool.and_comm, BitVec.getLsbD]
  · simp [hlo]

/-- Clearing bits changes nothing under a mask that they do not meet. -/
theorem and_not_and_of_disjoint (w : Word) {a m : Word} (h : a &&& m = 0) : w &&& ~~~ a &&& m = w &&& m := by
  apply BitVec.eq_of_getLsbD_eq
  intro i hi
  have hbit : (a.getLsbD i && m.getLsbD i) = false := by rw [← BitVec.getLsbD_and, h]; simp
  rw [BitVec.getLsbD_and, BitVec.getLsbD_and, BitVec.getLsbD_and, BitVec.getLsbD_not]
  cases ha : a.getLsbD i
  · simp [hi]
  · have hm : m.getLsbD i = false := by simpa [ha] using hbit
    simp [hm]

/-- Under a mask, clearing what lies in the mask is clearing. -/
theorem and_not_masked_and (w a m : Word) : w &&& ~~~ (a &&& m) &&& m = w &&& m &&& ~~~ a := by
  apply BitVec.eq_of_getLsbD_eq
  intro i hi
  simp only [BitVec.getLsbD_and, BitVec.getLsbD_not, hi, decide_true, Bool.true_and]
  cases m.getLsbD i
  · simp
  · simp

/-- Writing a slice changes no bit of a mask that the slice does not meet. -/
theorem setF_and_of_disjoint (w : Word) {f : Fld} {m : Word} (n : Nat) (h : f.mask &&& m = 0) : setF w f n &&& m = w &&& m := by
  rw [setF, ← Fld.placed_and_mask, BitVec.and_or_distrib_right, and_not_and_of_disjoint w h, BitVec.and_assoc _ _ m, h]
  simp

/-- A slice written with another word's value of it holds that word's bits. -/
theorem setF_getF_and_mask (w v : Word) (f : Fld) : setF w f (getF v f) &&& f.mask = v &&& f.mask := by
  rw [setF, Fld.placed_getF, BitVec.and_or_distrib_right, BitVec.and_assoc w, BitVec.and_assoc v, BitVec.and_self]
  simp

/-! ### What a write leaves in a register (R5 to R7) -/

/-- The word that a write of `v` with the bits `reach` would leave if every bit were RW. -/
def mergeReach (old v reach : Word) : Word := (old &&& ~~~ reach) ||| (v &&& reach)

/-- What a write does to one field, in the word `w` that it has made so far. -/
def storeField (old v reach w : Word) (x : FieldDesc) : Word :=
  match x.acc with
  | .rw =>
    let n := getF (mergeReach old v reach) x.f
    if x.vmin ≤ n ∧ n ≤ x.vmax then setF w x.f n else w
  | .w1c => w &&& ~~~ (v &&& reach &&& x.f.mask)
  | _ => w

theorem storeFields_eq_foldl (l : List FieldDesc) (old v reach : Word) :
    storeFields l old v reach = l.foldl (storeField old v reach) old := rfl

section StoreField

variable (old v reach w : Word) {x : FieldDesc}

theorem storeField_rw (ha : x.acc = .rw) (hmin : x.vmin ≤ getF (mergeReach old v reach) x.f)
    (hmax : getF (mergeReach old v reach) x.f ≤ x.vmax) :
    storeField old v reach w x = setF w x.f (getF (mergeReach old v reach) x.f) := by
  simp [storeField, ha, hmin, hmax]

theorem storeField_rw_reserved (ha : x.acc = .rw)
    (h : getF (mergeReach old v reach) x.f < x.vmin ∨ x.vmax < getF (mergeReach old v reach) x.f) : storeField old v reach w x = w := by
  have hn : ¬ (x.vmin ≤ getF (mergeReach old v reach) x.f ∧ getF (mergeReach old v reach) x.f ≤ x.vmax) := by omega
  simp [storeField, ha, hn]

theorem storeField_w1c (ha : x.acc = .w1c) : storeField old v reach w x = w &&& ~~~ (v &&& reach &&& x.f.mask) := by
  simp [storeField, ha]

theorem storeField_fixed (ha : x.acc ≠ .rw) (hc : x.acc ≠ .w1c) : storeField old v reach w x = w := by
  unfold storeField
  split
  · exact absurd ‹x.acc = .rw› ha
  · exact absurd ‹x.acc = .w1c› hc
  · rfl

end StoreField

/-- A field's write changes no bit outside the field. -/
theorem storeField_and_of_disjoint (old v reach w : Word) {x : FieldDesc} {m : Word} (h : x.f.mask &&& m = 0) :
    storeField old v reach w x &&& m = w &&& m := by
  by_cases ha : x.acc = .rw
  · by_cases hr : getF (mergeReach old v reach) x.f < x.vmin ∨ x.vmax < getF (mergeReach old v reach) x.f
    · rw [storeField_rw_reserved _ _ _ _ ha hr]
    · rw [storeField_rw _ _ _ _ ha (by omega) (by omega), setF_and_of_disjoint _ _ h]
  · by_cases hc : x.acc = .w1c
    · have hm : v &&& reach &&& x.f.mask &&& m = 0 := by rw [BitVec.and_assoc, h]; simp
      rw [storeField_w1c _ _ _ _ hc, and_not_and_of_disjoint _ hm]
    · rw [storeField_fixed _ _ _ _ ha hc]

/-- The writes of fields that a mask does not meet change nothing under the mask. -/
theorem foldl_storeField_and_of_disjoint (old v reach : Word) {l : List FieldDesc} {m : Word} (h : ∀ x ∈ l, x.f.mask &&& m = 0) (w : Word) :
    l.foldl (storeField old v reach) w &&& m = w &&& m := by
  induction l generalizing w with
  | nil => rfl
  | cons x l ih =>
    obtain ⟨hx, hl⟩ := List.forall_mem_cons.1 h
    rw [List.foldl_cons, ih hl, storeField_and_of_disjoint _ _ _ _ hx]

/-- Of a register whose fields do not meet, each field is written on its own: the writes before it leave some word `w` that agrees with the old
value there, and those after it leave it alone. -/
theorem storeFields_and_mask (old v reach : Word) {l : List FieldDesc} {x : FieldDesc} (hx : x ∈ l)
    (hl : l.Pairwise fun a b => a.f.mask &&& b.f.mask = 0) :
    ∃ w, w &&& x.f.mask = old &&& x.f.mask ∧ storeFields l old v reach &&& x.f.mask = storeField old v reach w x &&& x.f.mask := by
  obtain ⟨before, after, rfl⟩ := List.append_of_mem hx
  obtain ⟨-, hafter, hbefore⟩ := List.pairwise_append.1 hl
  refine ⟨before.foldl (storeField old v reach) old, ?_, ?_⟩
  · exact foldl_storeField_and_of_disjoint _ _ _ (fun y hy => hbefore y hy x List.mem_cons_self) old
  · rw [storeFields_eq_foldl, List.foldl_append, List.foldl_cons]
    refine foldl_storeField_and_of_disjoint _ _ _ (fun y hy => ?_) _
    rw [BitVec.and_comm]
    exact (List.pairwise_cons.1 hafter).1 y hy

@[simp] theorem Dev.reg_putFields (d : Dev) (r : Reg) (v reach : Word) :
    (d.putFields r v reach).reg r = storeFields r.fields (d.reg r) v reach := Dev.reg_setReg_self _ _ _

/-! ### What a read leaves in a register (R8) -/

/-- A read of a listed register whose unit is powered wakes the unit and clears the RC bits that it reaches. -/
theorem Dev.csrRead_reg (d : Dev) (r : Reg) (o n : Nat) (ha : csrAligned o n = true) (hf : inFlash o = false)
    (hr : Reg.ofOffset (o - o % 8) = some r) (hl : d.listed r = true) (hd : d.dark r = false) (hb : d.absent r = false) :
    (d.csrRead o n).1.reg r = (d.wakeFor r).reg r &&& ~~~ (accMask r.fields .rc &&& reachMask o n) := by
  simp only [Dev.csrRead, ha, hf, hr, hl, hd, hb, Bool.not_true, Bool.or_self, Bool.false_eq_true, if_false]
  by_cases hrc : accMask r.fields .rc &&& reachMask o n = 0
  · rw [if_pos hrc, hrc]
    exact (BitVec.and_allOnes).symm
  · rw [if_neg hrc, Dev.reg_setReg_self]

/-! ### Access codes -/

/-- Settles O40. Where the fields of a register do not meet, what a write does to each is one access code's rule (`storeField`); bits that no field
holds are reached by none of them. -/
theorem accessCodes : Obligations.AccessCodes := by
  unfold Obligations.AccessCodes
  refine ⟨fun d r v reach x hx hl => ?_, fun d r v reach m hm => ?_, fun d r o n => Dev.csrRead_reg d r o n⟩
  · obtain ⟨w, hw, hmask⟩ := storeFields_and_mask (d.reg r) v reach hx hl
    rw [Dev.reg_putFields, hmask]
    refine ⟨fun ha hmin hmax => ?_, fun ha hr => ?_, fun ha => ?_, fun ha => ?_⟩
    · rw [storeField_rw _ _ _ _ ha hmin hmax, setF_getF_and_mask, mergeReach]
    · rw [storeField_rw_reserved _ _ _ _ ha hr, hw]
    · rw [storeField_w1c _ _ _ _ ha]
      rw [and_not_masked_and, hw]
      ac_rfl
    · rw [storeField_fixed _ _ _ _ (by rcases ha with ha | ha <;> simp [ha]) (by rcases ha with ha | ha <;> simp [ha]), hw]
  · rw [Dev.reg_putFields, storeFields_eq_foldl, foldl_storeField_and_of_disjoint _ _ _ hm]

/-! ### Updates that make no command wait (log entry 106) -/

@[simp] theorem Dev.waits_beginTxn (d : Dev) (m : Msg) (o : Opc) : (d.beginTxn m o).fabric.waits = d.fabric.waits := by
  unfold Dev.beginTxn Dev.setFabric txnOf
  dsimp only
  split <;> rfl

@[simp] theorem Dev.waits_startTxn (d : Dev) (o : Opc) (m : Msg) : (d.startTxn o m).fabric.waits = d.fabric.waits := by
  unfold Dev.startTxn
  split
  · exact Dev.waits_beginTxn d m o
  · rfl

@[simp] theorem Dev.fabric_setPower (d : Dev) (k x : Nat) : (d.setPower k x).fabric = d.fabric := by
  unfold Dev.setPower Dev.setNow
  split <;> rfl

@[simp] theorem Dev.fabric_onWake (d : Dev) (k : Nat) : (d.onWake k).fabric = d.fabric := by
  unfold Dev.onWake Dev.applyPatch
  repeat' split
  all_goals rfl

@[simp] theorem Dev.waits_wake (d : Dev) (k : Nat) : (d.wake k).fabric.waits = d.fabric.waits := by
  unfold Dev.wake
  split
  · simp
  · rfl

@[simp] theorem Dev.waits_wakeRoute (d : Dev) (a b : Node) : (d.wakeRoute a b).fabric.waits = d.fabric.waits := by
  unfold Dev.wakeRoute
  induction routeQuads a b generalizing d with
  | nil => rfl
  | cons q l ih => rw [List.foldl_cons, ih, Dev.waits_wake]

@[simp] theorem Dev.waits_leave (d : Dev) (o : Opc) (m : Msg) : (d.leave o m).fabric.waits = d.fabric.waits := rfl
@[simp] theorem Dev.waits_send (d : Dev) (o : Opc) (m : Msg) : (d.send o m).fabric.waits = d.fabric.waits := rfl

@[simp] theorem Dev.waits_see (d : Dev) (o : Opc) (m : Msg) (began : Word) : (d.see o m began).fabric.waits = d.fabric.waits := by
  unfold Dev.see
  split <;> rfl

@[simp] theorem Dev.fabric_abortEntry (d : Dev) (k : Nat) : (d.abortEntry k).fabric = d.fabric := by
  unfold Dev.abortEntry
  repeat' split
  all_goals rfl

@[simp] theorem Dev.waits_wakeFor (d : Dev) (r : Reg) : (d.wakeFor r).fabric.waits = d.fabric.waits := by
  unfold Dev.wakeFor
  repeat' split
  all_goals simp

@[simp] theorem Dev.fabric_putFields (d : Dev) (r : Reg) (v reach : Word) : (d.putFields r v reach).fabric = d.fabric := rfl
@[simp] theorem Dev.fabric_countFld (d : Dev) (r : Reg) (f : Fld) (k : Nat) : (d.countFld r f k).fabric = d.fabric := rfl
@[simp] theorem Dev.fabric_emit (d : Dev) (g o p : Nat) (config write : Bool) (size : Nat) (v : Word) :
    (d.emit g o p config write size v).fabric = d.fabric := rfl
@[simp] theorem Dev.fabric_outBegin (d : Dev) (g p : Nat) (m : Msg) (config write : Bool) (size : Nat) :
    (d.outBegin g p m config write size).fabric = d.fabric := rfl

@[simp] theorem Dev.waits_csrRead (d : Dev) (o n : Nat) : (d.csrRead o n).1.fabric.waits = d.fabric.waits := by
  unfold Dev.csrRead
  dsimp only
  repeat' split
  all_goals simp

/-! ### A packet that reaches its unit (R246 to R251) -/

/-- A unit that is On takes every packet. -/
theorem Dev.asleep_of_on (d : Dev) (o : Opc) (m : Msg) (h : d.power (d.packetDom o m) = 0) : d.asleep o m = none := by
  simp [Dev.asleep, Dev.isOff, h]

namespace Delivered

variable {s : State} {o : Opc} {m : Msg} {e : Dev}

/-- What a packet that reaches its unit does is what the unit does with it. -/
theorem deliver_eq (h : Delivered s o m e) (f : Dev → Dev) : s.dev.deliver o m f = f e := by
  have hasleep : ((s.dev.startTxn o m).wakeRoute m.src m.dst).asleep o m = none := Dev.asleep_of_on _ _ _ h.on
  have hported : ((s.dev.startTxn o m).wakeRoute m.src m.dst).blocked m = false := h.ported
  simp only [Dev.deliver, h.oldest, h.linked, h.turn, hported, hasleep, Bool.or_self, Bool.false_eq_true, if_false]
  rw [h.after]
  rfl

/-- Its way there makes nothing wait. -/
theorem waits_eq (h : Delivered s o m e) : e.fabric.waits = s.dev.fabric.waits := by
  simp [h.after, Dev.inTransit]

end Delivered

theorem Dev.freshAt_of_fresh (d : Dev) (n : Nat) (m : Msg) (f : Dev → Dev) (h : d.stale n m = false) : d.freshAt n m f = f d := by
  simp [Dev.freshAt, h]

/-! ### Registers by offset (R8, R27 to R29) -/

theorem Dev.csrRead_misaligned (d : Dev) {o n : Nat} (h : csrAligned o n = false) : d.csrRead o n = (d, none) := by
  simp [Dev.csrRead, h]

theorem Dev.csrWrite_misaligned (d : Dev) {o n : Nat} (v : Word) (hdb : o ≠ 0x6100000) (h : csrAligned o n = false) :
    d.csrWrite o n v = (d, true) := by
  simp [Dev.csrWrite, hdb, h]

/-- The register that an aligned access at an offset reaches: listed for its block, in a unit that is not Off, and present. -/
structure Dev.Reaches (d : Dev) (o n : Nat) (r : Reg) : Prop where
  plain   : o ≠ 0x6100000
  aligned : csrAligned o n = true
  control : inFlash o = false
  named   : Reg.ofOffset (o - o % 8) = some r
  listed  : d.listed r = true
  lit     : d.dark r = false
  present : d.absent r = false

/-- A write of a register that a write only stores. -/
theorem Dev.Reaches.csrWrite_eq {d : Dev} {o n : Nat} {r : Reg} (h : d.Reaches o n r) (v : Word)
    (hs : ∀ x v w, Dev.csrEffect x r v w = x.putFields r v w) :
    d.csrWrite o n v = ((d.wakeFor r).putFields r (laneIn o n v) (reachMask o n), false) := by
  simp [Dev.csrWrite, h.plain, h.aligned, h.control, h.named, h.listed, h.lit, h.present, hs]

section Packets

variable {d e : Dev} {m : Msg} {o : Nat}

theorem Dev.csrPacket_read {v : Word} (hp : e.place m.addr.toNat = .control e.socket o) (hf : e.stale (e.epochSlice m) m = false)
    (hr : e.csrRead o (byteSpan m) = (d, some v)) : e.csrPacket m false = d.send .data { backOf m with sdata := v } := by
  simp [Dev.csrPacket, hp, Dev.freshAt_of_fresh _ _ _ _ hf, hr, Dev.answer]

theorem Dev.csrPacket_write (hp : e.place m.addr.toNat = .control e.socket o) (hf : e.stale (e.epochSlice m) m = false)
    (hw : e.csrWrite o (byteSpan m) m.sdata = (d, false)) : e.csrPacket m true = d.send .cmp (backOf m) := by
  simp [Dev.csrPacket, hp, Dev.freshAt_of_fresh _ _ _ _ hf, hw, Dev.answer]

/-! ### Message writes (R362) -/

/-- A word write of an identifier to EVC_MSGDB fires it. -/
theorem Dev.msgDoorbell_word (d : Dev) (rid : Nat) (v : Word) (h : v.toNat % 2 ^ 32 < 2 ^ 20) :
    d.msgDoorbell rid v 4 = d.fire false (v.toNat % 2 ^ 20) (some rid) := by
  have hn : ¬ ((4 : Nat) ≠ 4 ∨ v.toNat % 2 ^ 32 ≥ 2 ^ 20) := by omega
  rw [Dev.msgDoorbell, if_neg hn]

/-- A message write of another size is counted as malformed. -/
theorem Dev.msgDoorbell_malformed (d : Dev) (rid : Nat) (v : Word) {n : Nat} (h : n ≠ 4) :
    d.msgDoorbell rid v n = d.countFld .evcStat .EVC_STAT_BADMSG 1 := if_pos (Or.inl h)

/-- A firing of an identifier while no table of message routes is in use is dropped and counted. -/
theorem Dev.fire_message_disabled (d : Dev) (n : Nat) (rid : Option Nat) (h : d.bit .evcMtab .EVC_MTAB_EN = false) :
    d.fire false n rid = d.countFld .evcStat .EVC_STAT_DISABLED 1 := by
  simp [Dev.fire, Dev.fireFrom, Dev.route, h]

/-- A core's message that reaches the event controller is a word write by requester 0xFFFF. -/
theorem Dev.msgPacket_core {c : CoreId} (hs : e.farSocket m = none) (hf : e.stale 0 m = false) (hc : m.who = .core c) :
    e.msgPacket m = e.msgDoorbell 0xFFFF (BitVec.ofNat 64 (m.sdata.toNat % 2 ^ 32)) 4 := by
  simp [Dev.msgPacket, hs, hc, Dev.freshAt_of_fresh _ _ _ _ hf]

/-! ### Device accesses (R304, R305) -/

/-- A device access of this socket's own range, outside configuration space, is an access to a window. -/
theorem Dev.devPacket_window {g : Nat} (write : Bool) (hf : e.stale 0 m = false) (hs : e.farSocket m = none)
    (hr : inMmio m.addr.toNat = true) (ho : mmioOf m.addr.toNat = (e.socket, g, o)) (hg : g < 8) (hc : inEcam o = false) :
    e.devPacket m write = e.mmioAccess m write (byteSpan m) g o := by
  have hg' : ¬ 8 ≤ g := by omega
  simp [Dev.devPacket, Dev.freshAt_of_fresh _ _ _ _ hf, hs, hr, ho, hc, Dev.windowAccess, hg']

/-- A write through a window is posted: it leaves by its port and is answered at once. -/
theorem Dev.mmioAccess_posted {size g p : Nat} (h : (d.beginTxn m .devwr).mmioRes g o size = .out p false) :
    d.mmioAccess m true size g o = ((d.beginTxn m .devwr).emit g o p false true size m.sdata).send .cmp (backOf m) := by
  simp [Dev.mmioAccess, h, Dev.answer]

/-- A read of a contained port, or where no device is, is all ones. -/
theorem Dev.mmioAccess_ones {size g : Nat} (h : (d.beginTxn m .devrd).mmioRes g o size = .ones) :
    d.mmioAccess m false size g o =
      (d.beginTxn m .devrd).send .data { backOf m with sdata := BitVec.ofNat 64 (2 ^ (8 * size) - 1) } := by
  simp [Dev.mmioAccess, h, Dev.answer]

/-- A read through a window leaves by its port and waits for its completion. -/
theorem Dev.mmioAccess_read {size g p : Nat} (h : (d.beginTxn m .devrd).mmioRes g o size = .out p false) :
    d.mmioAccess m false size g o = ((d.beginTxn m .devrd).emit g o p false false size 0).outBegin g p m false false size := by
  simp [Dev.mmioAccess, h]

end Packets

/-! ### What the commands leave -/

/-- A packet's command, where the packet reaches its unit: `i` delivers it and `f` is what the unit does with it. -/
theorem Delivered.does {s : State} {o : Opc} {m : Msg} {e d : Dev} {i : Instr} {f : Dev → Dev} (h : Delivered s o m e)
    (hi : exec i s = s.done (s.dev.deliver o m f)) (hf : f e = d) : Does i s d := by
  rw [h.deliver_eq, hf] at hi
  exact hi

theorem Delivered.completes {s : State} {o : Opc} {m : Msg} {e d : Dev} {i : Instr} {f : Dev → Dev} (h : Delivered s o m e)
    (hi : exec i s = s.done (s.dev.deliver o m f)) (hf : f e = d) (hw : d.fabric.waits = e.fabric.waits) : Completes i s d :=
  ⟨hw.trans h.waits_eq, h.does hi hf⟩

theorem does_registerWrite {o : BitVec 40} {n : Nat} {v : Word} {s : State} {d : Dev} {err : Bool} (h : s.dev.csrWrite o.toNat n v = (d, err)) :
    Does (.registerWrite o n v) s { d with outWord := 0, outErr := err } := by
  have hx : exec (.registerWrite o n v) s = s.done ((s.dev.csrWrite o.toNat n v).1.out 0 (s.dev.csrWrite o.toNat n v).2) := rfl
  rw [h] at hx
  exact hx

theorem becomes_registerReadClear {o : BitVec 40} {n : Nat} {s : State} {d : Dev} {r : Option Word} (h : s.dev.csrRead o.toNat n = (d, r)) :
    Becomes (.registerReadClear o n) s { d with outWord := r.getD 0, outErr := r.isNone } := by
  have hx : exec (.registerReadClear o n) s =
      s.next ((s.dev.csrRead o.toNat n).1.out ((s.dev.csrRead o.toNat n).2.getD 0) (s.dev.csrRead o.toNat n).2.isNone) := rfl
  rw [h] at hx
  exact hx

theorem does_evcMsgdb {rid : Half} {v : Word} {n : Nat} {s : State} {d : Dev} (h : s.dev.msgDoorbell rid.toNat v n = d) :
    Does (.evcMsgdb rid v n) s d := by
  subst h
  rfl

/-- Settles O39. A packet that reaches its unit leaves what the unit does with it (`Delivered.does`), and neither its way there nor a plain access
makes anything wait (`Delivered.waits_eq`); the command of a register access does the same access with no packet. -/
theorem registerAccess : Obligations.RegisterAccess := by
  unfold Obligations.RegisterAccess
  refine ⟨?csrrd, ?csrwr, ?csrwrStored, ?readClear, ?misaligned, ?write, ?writeStored, ?msg, ?msgdb, ?devwr, ?devrd⟩
  case csrrd =>
    intro m s e d v o h hp hf hr
    have hw : d.fabric.waits = e.fabric.waits := by rw [← Dev.waits_csrRead e o (byteSpan m), hr]
    exact h.completes rfl (Dev.csrPacket_read hp hf hr) hw
  case csrwr =>
    intro m s e d o h hp hf hw
    exact h.does rfl (Dev.csrPacket_write hp hf hw)
  case csrwrStored =>
    intro m s e o r h hp hf hdb ha hc hr hl hd hb hs
    have reaches : e.Reaches o (byteSpan m) r := ⟨hdb, ha, hc, hr, hl, hd, hb⟩
    exact h.completes rfl (Dev.csrPacket_write hp hf (reaches.csrWrite_eq _ hs)) (by simp)
  case readClear =>
    intro o n s d v h
    exact becomes_registerReadClear h
  case misaligned =>
    intro o n s ha
    refine ⟨becomes_registerReadClear (Dev.csrRead_misaligned _ ha), fun hdb v => ⟨rfl, ?_⟩⟩
    exact does_registerWrite (Dev.csrWrite_misaligned _ _ hdb ha)
  case write =>
    intro o n v s d h
    exact does_registerWrite h
  case writeStored =>
    intro o n v s r hdb ha hc hr hl hd hb hs
    have reaches : s.dev.Reaches o.toNat n r := ⟨hdb, ha, hc, hr, hl, hd, hb⟩
    exact ⟨by simp, does_registerWrite (reaches.csrWrite_eq v hs)⟩
  case msg =>
    rintro m s e h hs hf ⟨c, hc⟩
    have hpacket := Dev.msgPacket_core hs hf hc
    refine ⟨h.does rfl hpacket, fun hid hen => ?_⟩
    have hv : (BitVec.ofNat 64 (m.sdata.toNat % 2 ^ 32)).toNat % 2 ^ 32 < 2 ^ 20 := by
      rw [BitVec.toNat_ofNat]
      omega
    refine h.completes rfl ?_ (by simp)
    rw [hpacket, Dev.msgDoorbell_word _ _ _ hv, Dev.fire_message_disabled _ _ _ hen]
  case msgdb =>
    intro rid v s
    refine ⟨fun hid => ⟨does_evcMsgdb (Dev.msgDoorbell_word _ _ _ hid), fun hen => ⟨by simp, does_evcMsgdb ?_⟩⟩,
      fun n hn => ⟨by simp, ?_⟩⟩
    · rw [Dev.msgDoorbell_word _ _ _ hid, Dev.fire_message_disabled _ _ _ hen]
    · exact does_evcMsgdb (Dev.msgDoorbell_malformed _ _ _ hn)
  case devwr =>
    intro m s e g o p h hf hs hr ho hg hc hres
    exact h.completes rfl ((Dev.devPacket_window true hf hs hr ho hg hc).trans (Dev.mmioAccess_posted hres)) (by simp)
  case devrd =>
    intro m s e g o h hf hs hr ho hg hc
    have hwindow := Dev.devPacket_window false hf hs hr ho hg hc
    exact ⟨fun hres => h.completes rfl (hwindow.trans (Dev.mmioAccess_ones hres)) (by simp),
      fun p hres => h.completes rfl (hwindow.trans (Dev.mmioAccess_read hres)) (by simp)⟩

end Sys2Proof.Machine

/-! Prover's part. A step on an empty queue and on a command, and what the device holds before its first cast-on. -/

namespace Sys2Proof.Machine

/-! ### The step (log entry 1) -/

/-- A nanosecond of a powered device that corrects no time and has no core: the time base counts, and there is nothing to close. -/
theorem Dev.tick_calm (d : Dev) (hv : d.pins.vaux = true) (ha : d.pins.syncAdjust = 0) (hc : d.cores = []) (hq : d.Quiet) :
    d.tick = { d with time := d.time + 1 } := by
  obtain ⟨hreports, hasks, hseen⟩ := hq
  have hcount : d.count = { d with time := d.time + 1 } := if_pos ha
  have hcores : d.liveCores = [] := by rw [Dev.liveCores, hc, List.map_nil]
  rw [Dev.tick, if_pos hv, hcount, hcores, List.foldl_nil]
  exact Dev.close_quiet _ _ rfl hreports hasks hseen

theorem Dev.tick_unpowered (d : Dev) (hv : d.pins.vaux = false) : d.tick = d := by simp [Dev.tick, hv]

theorem Dev.idle_stopped (d : Dev) (h : d.phase ≠ .running) : d.idle = d.tick := by simp [Dev.idle, h]

/-- A nanosecond of a device that runs: the draw tells whether an error arises first (log entry 104). -/
theorem Dev.idle_running (d : Dev) (h : d.phase = .running) :
    d.idle = d.draw.2.tick ∨ ∃ u : Upset, d.idle = (d.draw.2.orWait (d.draw.2.upset u)).tick := by
  simp only [Dev.idle, h, Dev.draw]
  cases Config.upset d.freeCtr with
  | none => exact Or.inl rfl
  | some u => exact Or.inr ⟨u, rfl⟩

theorem step_cons {s : State} {i : Instr} {rest : List Instr} (h : s.pending = i :: rest) : step s = exec i { s with pending := rest } := by
  rw [step, h]

theorem step_nil {s : State} (h : s.pending = []) : step s = .next { s with dev := s.dev.idle } := by
  simp [step, h]

/-- Settles O1. -/
theorem stepRunsFront : Obligations.StepRunsFront := by
  unfold Obligations.StepRunsFront
  refine ⟨fun s i rest h => step_cons h, fun s hp hs => ⟨fun hv => ?_, fun hv ha hc hq => ?_⟩, fun s hp hr => ?_⟩
  · rw [step_nil hp, Dev.idle_stopped _ hs, Dev.tick_unpowered _ hv]
  · rw [step_nil hp, Dev.idle_stopped _ hs, Dev.tick_calm _ hv ha hc hq]
  · rw [step_nil hp]
    rcases Dev.idle_running s.dev hr with h | ⟨u, h⟩
    · exact ⟨_, by rw [h], Or.inl rfl⟩
    · exact ⟨_, by rw [h], Or.inr ⟨u, rfl⟩⟩

/-! ### The reset state (R22, log entries 2 and 3) -/

theorem State.reset_reg (r : Reg) : State.reset.dev.reg r = r.reset := rfl

/-- Before any cast-on every core has the registers of `Arch.reset`. -/
theorem State.reset_arch (c : Nat) : State.reset.dev.arch c = Arch.reset := rfl

theorem Arch.reset_getG (r : RegNo) : Arch.reset.getG r = 0 := by
  simp [Arch.getG, Arch.reset, unstatedReset]

theorem Arch.reset_getV (r : RegNo) : Arch.reset.getV r = 0 := by
  simp [Arch.getV, Arch.reset, unstatedReset]

theorem Arch.reset_getP (r : PredNo) : Arch.reset.getP r = decide (r = 0) := by
  by_cases h : r = 0 <;> simp [Arch.getP, Arch.reset, h]

/-- Settles O3. -/
theorem resetState : Obligations.ResetState := by
  unfold Obligations.ResetState
  exact ⟨rfl, rfl, rfl, rfl, reset_mem_wf, rfl, ⟨rfl, rfl, rfl⟩, State.reset_reg,
    fun _ => Arch.reset_getG, fun _ => Arch.reset_getV, fun _ => Arch.reset_getP⟩

end Sys2Proof.Machine
/-! Prover's part. Every step keeps memory canonical (R25, R54, log entry 11). Memory is written by `Dev.store`, `Dev.mcZero`, `Dev.farWrite`
and `Dev.zeroGranule` alone, and emptied or kept by cast-on and the loss of VAUX. So there is one lemma per function that gives a device,
in the order of the model: a device with canonical memory leaves one with canonical memory. -/

namespace Sys2Proof.Machine

section MemoryCanonical

/-- The device's memory is in its canonical form. -/
def Dev.Wf (d : Dev) : Prop := Memory.wf d.mem = true

theorem Dev.wf_of_mem_eq {d e : Dev} (h : d.Wf) (he : e.mem = d.mem) : e.Wf := by
  rw [Dev.Wf, he]
  exact h

variable {d : Dev}

/-- A device written out field by field, whose memory is that of a device with canonical memory. -/
theorem Dev.wf_mk {phase : Phase} {pins : Pins} {time : Word} {freeCtr : Nat} {csr : Tbl Word} {cores : Tbl Core} {slices : Tbl Slice}
    {hash : Hash} {lines : Tbl LineMeta} {zclear : List Nat} {keys : Tbl KeySlot} {chans : Tbl ChanSt} {panels : Tbl Panel}
    {fabric : Fabric} {ports : Tbl PortSt} {stops : Tbl IoStop} {brx : Tbl BrxLink} {engines : Tbl Engine} {queues : Tbl QueueSt}
    {events : Events} {doms : Tbl DomSt} {gov : Governor} {dict : Dict} {errs : ErrorLog} {reports : List Report} {board : Board}
    {outWord : Word} {outErr : Bool} {outMsgs : List (Opc × Msg)} (h : d.Wf) :
    Dev.Wf ⟨phase, pins, time, freeCtr, csr, cores, slices, hash, d.mem, lines, zclear, keys, chans, panels, fabric, ports, stops, brx,
      engines, queues, events, doms, gov, dict, errs, reports, board, outWord, outErr, outMsgs⟩ := h

theorem Dev.wf_fst {α : Type} {p : Dev × α} {d : Dev} {x : α} (e : p = (d, x)) (h : p.1.Wf) : d.Wf := by
  rw [e] at h
  exact h

theorem Dev.wf_snd {α : Type} {p : α × Dev} {d : Dev} {x : α} (e : p = (x, d)) (h : p.2.Wf) : d.Wf := by
  rw [e] at h
  exact h

theorem Dev.ite_wf {c : Prop} [Decidable c] {d e : Dev} (hd : d.Wf) (he : e.Wf) :
    (if c then d else e).Wf := by
  split
  · exact hd
  · exact he

theorem Dev.ite_fst_wf {α : Type} {c : Prop} [Decidable c] {p q : Dev × α} (hp : p.1.Wf) (hq : q.1.Wf) : (if c then p else q).1.Wf := by
  split
  · exact hp
  · exact hq

theorem Dev.foldl_wf {α : Type} {f : Dev → α → Dev} {l : List α} {d : Dev}
    (hf : ∀ x a, x.Wf → (f x a).Wf) (h : d.Wf) : (l.foldl f d).Wf :=
  fold_keeps (fun x : Dev => x.Wf) f hf l d h

theorem Dev.foldl_fst_wf {α β : Type} {f : Dev × β → α → Dev × β} {l : List α} {p : Dev × β}
    (hf : ∀ x a, x.1.Wf → (f x a).1.Wf) (h : p.1.Wf) : (l.foldl f p).1.Wf :=
  fold_keeps (fun x : Dev × β => x.1.Wf) f hf l p h

/-! ### Acc -/

theorem Dev.setCore_wf {c : Nat} {k : Core} (h : d.Wf) : (d.setCore c k).Wf := Dev.wf_of_mem_eq h (Dev.setCore_mem ..)

theorem Dev.modCore_wf {c : Nat} {f : Core → Core} (h : d.Wf) : (d.modCore c f).Wf := Dev.wf_of_mem_eq h (Dev.modCore_mem ..)

theorem Dev.modArch_wf {c : Nat} {f : Arch → Arch} (h : d.Wf) : (d.modArch c f).Wf := Dev.wf_of_mem_eq h (Dev.modArch_mem ..)

theorem Dev.modSlice_wf {n : Nat} {f : Slice → Slice} (h : d.Wf) : (d.modSlice n f).Wf := Dev.wf_of_mem_eq h (Dev.modSlice_mem ..)

theorem Dev.modChan_wf {n : Nat} {f : ChanSt → ChanSt} (h : d.Wf) : (d.modChan n f).Wf := Dev.wf_of_mem_eq h (Dev.modChan_mem ..)

theorem Dev.modPanel_wf {n : Nat} {f : Panel → Panel} (h : d.Wf) : (d.modPanel n f).Wf := Dev.wf_of_mem_eq h (Dev.modPanel_mem ..)

theorem Dev.modPort_wf {n : Nat} {f : PortSt → PortSt} (h : d.Wf) : (d.modPort n f).Wf := Dev.wf_of_mem_eq h (Dev.modPort_mem ..)

theorem Dev.modStop_wf {n : Nat} {f : IoStop → IoStop} (h : d.Wf) : (d.modStop n f).Wf := Dev.wf_of_mem_eq h (Dev.modStop_mem ..)

theorem Dev.modLink_wf {n : Nat} {f : BrxLink → BrxLink} (h : d.Wf) : (d.modLink n f).Wf := Dev.wf_of_mem_eq h (Dev.modLink_mem ..)

theorem Dev.modEngine_wf {n : Nat} {f : Engine → Engine} (h : d.Wf) : (d.modEngine n f).Wf := Dev.wf_of_mem_eq h (Dev.modEngine_mem ..)

theorem Dev.modQueue_wf {n : Nat} {f : QueueSt → QueueSt} (h : d.Wf) : (d.modQueue n f).Wf := Dev.wf_of_mem_eq h (Dev.modQueue_mem ..)

theorem Dev.modDom_wf {n : Nat} {f : DomSt → DomSt} (h : d.Wf) : (d.modDom n f).Wf := Dev.wf_of_mem_eq h (Dev.modDom_mem ..)

theorem Dev.setReg_wf {r : Reg} {v : Word} (h : d.Wf) : (d.setReg r v).Wf := Dev.wf_of_mem_eq h (Dev.setReg_mem ..)

theorem Dev.setFld_wf {r : Reg} {f : Fld} {x : Nat} (h : d.Wf) : (d.setFld r f x).Wf := Dev.wf_of_mem_eq h (Dev.setFld_mem ..)

theorem Dev.setFlds_wf {r : Reg} {fs : List (Fld × Nat)} (h : d.Wf) : (d.setFlds r fs).Wf := Dev.wf_of_mem_eq h (Dev.setFlds_mem ..)

theorem Dev.countFld_wf {r : Reg} {f : Fld} {k : Nat} (h : d.Wf) : (d.countFld r f k).Wf :=
  Dev.setFld_wf h

theorem Dev.wrapFld_wf {r : Reg} {f : Fld} {k : Nat} (h : d.Wf) : (d.wrapFld r f k).Wf :=
  Dev.setFld_wf h

theorem Dev.draw_wf (h : d.Wf) : d.draw.2.Wf := Dev.wf_of_mem_eq h (Dev.draw_mem ..)

theorem Dev.report_wf {r : Report} (h : d.Wf) : (d.report r).Wf := Dev.wf_of_mem_eq h (Dev.report_mem ..)

theorem Dev.err_wf {bank code unit : Nat} (h : d.Wf) : (d.err bank code unit).Wf :=
  Dev.report_wf h

theorem Dev.errAux_wf {bank code unit aux : Nat} (h : d.Wf) : (d.errAux bank code unit aux).Wf :=
  Dev.report_wf h

theorem Dev.errAt_wf {bank code unit addr : Nat} (h : d.Wf) : (d.errAt bank code unit addr).Wf :=
  Dev.report_wf h

theorem Dev.wire_wf {source : Nat} (h : d.Wf) : (d.wire source).Wf :=
  Dev.report_wf h

theorem Dev.setOd_wf {index sub v : Nat} (h : d.Wf) : (d.setOd index sub v).Wf := Dev.wf_of_mem_eq h (Dev.setOd_mem ..)

theorem Dev.setNow_wf {k x : Nat} (h : d.Wf) : (d.setNow k x).Wf := by
  unfold Dev.setNow
  split
  exacts [Dev.setFld_wf h, h]

theorem Dev.setPower_wf {k x : Nat} (h : d.Wf) : (d.setPower k x).Wf := Dev.wf_of_mem_eq h (Dev.setPower_mem ..)

theorem Dev.modMember_wf {c : Nat} {f : Member → Member} (h : d.Wf) : (d.modMember c f).Wf := Dev.wf_of_mem_eq h (Dev.modMember_mem ..)

/-! ### Mem -/

theorem Dev.lastUe_wf {ch kind ln n : Nat} (h : d.Wf) : (d.lastUe ch kind ln n).Wf :=
  Dev.wire_wf (Dev.setFlds_wf h)

theorem Dev.spadStore_wf {n way off : Nat} {l : List (Option Byte)} (h : d.Wf) : (d.spadStore n way off l).Wf :=
  Dev.modSlice_wf h

theorem Dev.spadMeet_wf {n : Nat} {now : SpadAcc} (h : d.Wf) : (d.spadMeet n now).1.Wf := by
  unfold Dev.spadMeet
  dsimp only
  split
  · exact Dev.modSlice_wf h
  · split
    exacts [Dev.modSlice_wf h, Dev.modSlice_wf (Dev.draw_wf h)]

theorem Dev.spadCollide_wf {n unit : Nat} {engine : Bool} (h : d.Wf) : (d.spadCollide n unit engine).Wf :=
  Dev.setFlds_wf (Dev.countFld_wf h)

theorem Dev.spadGetMark_wf {engine : Bool} {n way off len : Nat} (h : d.Wf) :
    (d.spadGetMark engine n way off len).1.Wf := by
  rw [Dev.spadGetMark]
  split
  next e =>
    have h1 := Dev.wf_fst e (Dev.spadMeet_wf h)
    split
    next g l _ =>
      split
      · exact h1
      · exact Dev.draw_wf (Dev.spadCollide_wf h1)

theorem Dev.spadGet_wf {engine : Bool} {n way off len : Nat} (h : d.Wf) : (d.spadGet engine n way off len).1.Wf :=
  Dev.spadGetMark_wf h

theorem Dev.spadPutMark_wf {engine : Bool} {n way off : Nat} {l : List (Option Byte)} (h : d.Wf) :
    (d.spadPutMark engine n way off l).1.Wf := by
  unfold Dev.spadPutMark
  dsimp only
  split
  · split
    · exact Dev.spadStore_wf (Dev.spadMeet_wf h)
    · exact Dev.spadCollide_wf (Dev.spadStore_wf (Dev.spadMeet_wf h))
  · exact Dev.spadStore_wf (Dev.spadMeet_wf h)

theorem Dev.spadPut_wf {engine : Bool} {n way off : Nat} {l : List Byte} (h : d.Wf) : (d.spadPut engine n way off l).Wf :=
  Dev.spadPutMark_wf h

/-! ### Channel -/

theorem Dev.setFabric_wf {f : Fabric} (h : d.Wf) : (d.setFabric f).Wf :=
  Dev.wf_mk h

theorem Dev.wait_wf (h : d.Wf) : d.wait.Wf :=
  Dev.setFabric_wf h

theorem Dev.setCeLevel_wf {ch r x : Nat} (h : d.Wf) : (d.setCeLevel ch r x).Wf :=
  Dev.setReg_wf h

theorem Dev.setCeArmed_wf {ch r : Nat} {v : Bool} (h : d.Wf) : (d.setCeArmed ch r v).Wf :=
  Dev.setReg_wf h

theorem Dev.bucket_wf {ch r : Nat} (h : d.Wf) : (d.bucket ch r).Wf := Dev.wf_of_mem_eq h (Dev.bucket_mem ..)

theorem Dev.lastCe_wf {ch ln n dev : Nat} {bits : Word} (h : d.Wf) : (d.lastCe ch ln n dev bits).Wf :=
  Dev.setReg_wf (Dev.setFlds_wf h)

theorem Dev.loseLine_wf {ln : Nat} (h : d.Wf) : (d.loseLine ln).Wf :=
  Dev.wf_mk h

theorem Dev.retryClean_wf {ch : Nat} (h : d.Wf) : (d.retryClean ch).Wf :=
  Dev.modChan_wf (Dev.countFld_wf h)

theorem Dev.checkLine_wf {ch ln n : Nat} {f : ReadAttempt} (h : d.Wf) :
    (d.checkLine ch ln n f).1.Wf := Dev.wf_of_mem_eq h (Dev.checkLine_mem ..)

theorem Dev.mcReadNow_wf {ch ln n : Nat} {key : Option (BitVec 11)} {f : ReadAttempt} (h : d.Wf) :
    (d.mcReadNow ch ln n key f).1.Wf := Dev.wf_of_mem_eq h (Dev.mcReadNow_mem ..)

theorem Dev.zTouch_wf {ch g : Nat} {dirty : Bool} (h : d.Wf) : (d.zTouch ch g dirty).Wf := Dev.wf_of_mem_eq h (Dev.zTouch_mem ..)

theorem Dev.noteIssue_wf {ch : Nat} {ready : List Req} {r : Req} (h : d.Wf) :
    (d.noteIssue ch ready r).Wf := Dev.wf_of_mem_eq h (Dev.noteIssue_mem ..)

theorem Dev.issueRead_wf {ch : Nat} {r : RdEntry} (h : d.Wf) : (d.issueRead ch r).1.Wf := Dev.wf_of_mem_eq h (Dev.issueRead_mem ..)

theorem Dev.addRead_wf {ch ln : Nat} {key : Option (BitVec 11)} {f : ReadAttempt} {cls : Nat} (h : d.Wf) : (d.addRead ch ln key f cls).Wf :=
  Dev.modChan_wf h

/-! ### Links -/

theorem Dev.send_wf {o : Opc} {m : Msg} (h : d.Wf) : (d.send o m).Wf :=
  Dev.setFabric_wf h

theorem Dev.beginTxn_wf {m : Msg} {o : Opc} (h : d.Wf) : (d.beginTxn m o).Wf :=
  Dev.setFabric_wf h

theorem Dev.putFlit_wf {k : Nat} {seq : BitVec 12} {nak : Bool} {p : Option (Opc × Msg × Bool)} (h : d.Wf) :
    (d.putFlit k seq nak p).Wf := by
  unfold Dev.putFlit
  split
  exacts [Dev.wf_mk (Dev.modLink_wf h), Dev.modLink_wf h]

theorem Dev.sendFlit_wf {k : Nat} {nak : Bool} {p : Option (Opc × Msg × Bool)} (h : d.Wf) : (d.sendFlit k nak p).Wf :=
  Dev.modLink_wf (Dev.putFlit_wf h)

theorem Dev.replayFlits_wf {k : Nat} (h : d.Wf) : (d.replayFlits k).Wf :=
  Dev.countFld_wf (Dev.foldl_wf (fun _ _ hx => Dev.putFlit_wf hx) h)

theorem Dev.brxPump_wf {k n : Nat} (h : d.Wf) : (d.brxPump k n).Wf := by
  induction n generalizing d with
  | zero =>
    exact h
  | succ n ih =>
    unfold Dev.brxPump
    dsimp only
    split
    · exact h
    · split
      exacts [h, ih (Dev.sendFlit_wf (Dev.modLink_wf h))]

theorem Dev.brxSend_wf {k : Nat} {o : Opc} {m : Msg} {again : Bool} (h : d.Wf) : (d.brxSend k o m again).Wf :=
  Dev.brxPump_wf (Dev.modLink_wf h)

theorem Dev.linkId_wf {k : Nat} (h : d.Wf) : (d.linkId k).1.Wf :=
  Dev.modLink_wf h

theorem Dev.noteAway_wf {m : Msg} (h : d.Wf) : (d.noteAway m).Wf :=
  Dev.setFabric_wf h

theorem Dev.cross_wf {s : Nat} {o : Opc} {m : Msg} (h : d.Wf) : (d.cross s o m).Wf := by
  unfold Dev.cross
  dsimp only
  split
  · exact Dev.noteAway_wf h
  · refine Dev.brxSend_wf ?_
    split
    · exact Dev.linkId_wf (Dev.noteAway_wf h)
    · exact Dev.modLink_wf (Dev.linkId_wf (Dev.noteAway_wf h))

theorem Dev.tellAll_wf {m : BoardMsg} (h : d.Wf) : (d.tellAll m).Wf := by
  unfold Dev.tellAll
  split
  exacts [h, Dev.wf_mk h]

theorem Dev.farGet_wf {o : Opc} {m : Msg} (h : d.Wf) : (d.farGet o m).1.Wf := by
  unfold Dev.farGet
  dsimp only
  split <;> exact Dev.setFabric_wf h

theorem Dev.farPost_wf {o : Opc} {m : Msg} (h : d.Wf) : (d.farPost o m).Wf :=
  Dev.setFabric_wf h

theorem Dev.orWait_wf {e : Dev} (hd : d.Wf) (he : e.Wf) : (d.orWait e).Wf := by
  unfold Dev.orWait
  split
  exacts [he, Dev.setFabric_wf hd]

theorem Dev.sendAsk_wf {a : FarAsk} (h : d.Wf) : (d.sendAsk a).Wf := by
  unfold Dev.sendAsk
  split
  exacts [h, Dev.cross_wf (Dev.setFabric_wf h)]

theorem Dev.sendAsks_wf (h : d.Wf) : d.sendAsks.Wf :=
  Dev.foldl_wf (fun _ _ hx => Dev.sendAsk_wf hx) (Dev.setFabric_wf h)

/-! ### Coh -/

theorem Dev.applyPatch_wf {c : Nat} (h : d.Wf) : (d.applyPatch c).Wf := Dev.wf_of_mem_eq h (Dev.applyPatch_mem ..)

theorem Dev.onWake_wf {k : Nat} (h : d.Wf) : (d.onWake k).Wf := Dev.wf_of_mem_eq h (Dev.onWake_mem ..)

theorem Dev.wake_wf {k : Nat} (h : d.Wf) : (d.wake k).Wf := Dev.wf_of_mem_eq h (Dev.wake_mem ..)

theorem Dev.wakeRoute_wf {a b : Node} (h : d.Wf) : (d.wakeRoute a b).Wf :=
  Dev.foldl_wf (fun _ _ hx => Dev.wake_wf hx) h

theorem Dev.memRead_wf {ln : Nat} {key : BitVec 11} {cls : Nat} (h : d.Wf) : (d.memRead ln key cls).1.Wf := by
  unfold Dev.memRead
  dsimp only
  split
  · split
    · exact Dev.wait_wf (Dev.wake_wf h)
    · exact Dev.mcReadLine_wf _ _ _ _ (Dev.wake_wf h)
  · exact h
  · exact h

theorem Dev.victimOut_wf {ln : Nat} {x : Line} {key : BitVec 11} {poison : Bool} (h : d.Wf) : (d.victimOut ln x key poison).Wf :=
  Dev.memWrite_wf _ _ _ _ _ h

theorem Dev.lateAt_wf {q : Nat} (h : d.Wf) : (d.lateAt q).Wf :=
  Dev.countFld_wf h

theorem Dev.see_wf {o : Opc} {m : Msg} {began : Word} (h : d.Wf) : (d.see o m began).Wf := by
  unfold Dev.see
  split
  exacts [Dev.setFabric_wf h, h]

theorem Dev.reach_wf {o : Opc} {m : Msg} (h : d.Wf) : (d.reach o m).1.Wf := by
  unfold Dev.reach
  dsimp only
  split
  · exact Dev.lateAt_wf (Dev.see_wf (Dev.wakeRoute_wf h))
  · exact Dev.see_wf (Dev.wakeRoute_wf h)

theorem Dev.seeBack_wf {o : Opc} {m : Msg} {x : Line} {poison : Bool} (h : d.Wf) : (d.seeBack o m x poison).Wf :=
  Dev.see_wf h

theorem Dev.dropLlc_wf {n ln : Nat} (h : d.Wf) : (d.dropLlc n ln).Wf :=
  Dev.modSlice_wf h

theorem Dev.setDir_wf {n : Nat} {e : DirEntry} (h : d.Wf) : (d.setDir n e).Wf :=
  Dev.modSlice_wf h

theorem Dev.dropDir_wf {n ln : Nat} (h : d.Wf) : (d.dropDir n ln).Wf :=
  Dev.modSlice_wf h

theorem Dev.allocLlc_wf {n set ln cls : Nat} {x : Line} {dirty : Bool} {key : BitVec 11} {poison : Bool} (h : d.Wf) :
    (d.allocLlc n set ln cls x dirty key poison).Wf := by
  unfold Dev.allocLlc
  dsimp only
  split
  · exact Dev.modSlice_wf h
  · split
    · exact Dev.modSlice_wf h
    · split
      · split
        exacts [Dev.victimOut_wf h, h]
      · split
        · split
          exacts [Dev.victimOut_wf (Dev.modSlice_wf h), Dev.modSlice_wf h]
        · exact Dev.modSlice_wf h

theorem Dev.snoopCore_wf {c ln : Nat} {k : SnoopKind} (h : d.Wf) : (d.snoopCore c ln k).1.Wf := by
  unfold Dev.snoopCore
  dsimp only
  split
  exacts [Dev.wake_wf h, Dev.modCore_wf (Dev.wake_wf h)]

theorem Dev.snoopAfar_wf {ln : Nat} {owner : Bool} (h : d.Wf) : (d.snoopAfar ln owner).1.Wf := by
  unfold Dev.snoopAfar
  split
  exacts [Dev.draw_wf h, h]

theorem Dev.snoopDevice_wf {q ln : Nat} {k : SnoopKind} (h : d.Wf) : (d.snoopDevice q ln k).Wf := by
  unfold Dev.snoopDevice
  split
  exacts [Dev.modPort_wf h, h]

theorem Dev.snoop_wf {a : Agent} {except : Option Nat} {ln : Nat} {k : SnoopKind} {owner : Bool} (h : d.Wf) :
    (d.snoop a except ln k owner).1.Wf := by
  unfold Dev.snoop
  dsimp only
  split
  · split
    · exact h
    · split
      · split
        exacts [h, Dev.snoopCore_wf h]
      · refine Dev.snoopCore_wf ?_
        split
        exacts [h, Dev.snoopCore_wf h]
  · split
    exacts [h, Dev.snoopAfar_wf h]
  · split
    exacts [h, Dev.snoopAfar_wf (Dev.snoopDevice_wf h)]
  · exact h

theorem Dev.homeData_wf {n ln : Nat} {key : BitVec 11} {cls : Nat} (h : d.Wf) : (d.homeData n ln key cls).1.Wf := by
  unfold Dev.homeData
  split
  exacts [h, Dev.memRead_wf h]

theorem Dev.lineLost_wf {n ln : Nat} (h : d.Wf) : (d.lineLost n ln).Wf :=
  Dev.countFld_wf (Dev.markLost_wf _ (Dev.dropLlc_wf h))

theorem Dev.noteLost_wf {n : Nat} {e : DirEntry} {r : SnoopAns} (h : d.Wf) : (d.noteLost n e r).Wf := by
  unfold Dev.noteLost
  split
  · exact Dev.lineLost_wf h
  · split
    exacts [Dev.errAux_wf (Dev.lineLost_wf h), h]

theorem Dev.backInvalidate_wf {n : Nat} {e : DirEntry} (h : d.Wf) : (d.backInvalidate n e).Wf := by
  unfold Dev.backInvalidate
  refine Dev.dropDir_wf (Dev.dropLlc_wf (Dev.noteLost_wf ?_))
  split
  · exact Dev.victimOut_wf (Dev.foldl_fst_wf (fun _ _ hx => Dev.snoop_wf hx) h)
  · split
    · split
      · exact Dev.victimOut_wf (Dev.foldl_fst_wf (fun _ _ hx => Dev.snoop_wf hx) h)
      · exact Dev.foldl_fst_wf (fun _ _ hx => Dev.snoop_wf hx) h
    · split
      · split
        · exact Dev.farPost_wf (Dev.foldl_fst_wf (fun _ _ hx => Dev.snoop_wf hx) h)
        · exact Dev.foldl_fst_wf (fun _ _ hx => Dev.snoop_wf hx) h
      · exact Dev.foldl_fst_wf (fun _ _ hx => Dev.snoop_wf hx) h

theorem Dev.dirRoom_wf {n set : Nat} (h : d.Wf) : (d.dirRoom n set).Wf := by
  unfold Dev.dirRoom
  dsimp only
  split
  · exact h
  · split
    · exact h
    · exact Dev.countFld_wf (Dev.backInvalidate_wf (Dev.modSlice_wf h))

theorem Dev.ownerData_wf {n ln : Nat} {key : BitVec 11} {cls : Nat} {r : SnoopAns} (h : d.Wf) : (d.ownerData n ln key cls r).1.Wf := by
  unfold Dev.ownerData
  split
  exacts [h, Dev.homeData_wf h]

theorem Dev.homeEvict_wf {n set : Nat} {who : Agent} {from_ : Option Nat} {ln : Nat} {key : BitVec 11} {x : Line} {dirty poison : Bool}
    (h : d.Wf) : (d.homeEvict n set who from_ ln key x dirty poison).Wf := by
  unfold Dev.homeEvict
  refine Dev.dropDir_wf ?_
  split
  · exact Dev.farPost_wf h
  · split
    · split
      exacts [Dev.victimOut_wf (Dev.dropLlc_wf h), h]
    · exact Dev.allocLlc_wf h

theorem Dev.farFinish_wf {n set : Nat} {opc : Opc} {who : Agent} {ln : Nat} {key : BitVec 11} {x : Line} {be : Word} {poison : Bool}
    {r : SnoopAns} (h : d.Wf) : (d.farFinish n set opc who ln key x be poison r).1.Wf := by
  unfold Dev.farFinish
  dsimp only
  split
  · split
    · exact Dev.setDir_wf h
    · split
      exacts [Dev.farPost_wf (Dev.dropDir_wf h), h]
  · split
    · exact Dev.farPost_wf (Dev.dropDir_wf h)
    · split
      · split
        next e => exact Dev.wf_fst e (Dev.farGet_wf h)
        next e => exact Dev.wf_fst e (Dev.farGet_wf h)
      · split
        · refine Dev.setDir_wf ?_
          split
          next e => exact Dev.wf_fst e (Dev.farGet_wf h)
          next e => exact Dev.wf_fst e (Dev.farGet_wf h)
        · refine Dev.setDir_wf ?_
          split
          next e => exact Dev.wf_fst e (Dev.farGet_wf h)
          next e => exact Dev.wf_fst e (Dev.farGet_wf h)

theorem Dev.nearFinish_wf {n set : Nat} {opc : Opc} {who : Agent} {ln : Nat} {key : BitVec 11} {x : Line} {be : Word} {poison : Bool}
    {r : SnoopAns} (h : d.Wf) : (d.nearFinish n set opc who ln key x be poison r).1.Wf := by
  unfold Dev.nearFinish
  dsimp only
  split
  · split
    · split
      · split
        · exact Dev.setDir_wf (Dev.allocLlc_wf h)
        · split
          · exact Dev.homeData_wf h
          · split
            · exact Dev.setDir_wf (Dev.homeData_wf h)
            · exact Dev.setDir_wf (Dev.dropDir_wf (Dev.homeData_wf h))
      · split
        exacts [Dev.homeData_wf h, Dev.setDir_wf (Dev.homeData_wf h)]
    · split
      · exact Dev.homeData_wf h
      · exact Dev.setDir_wf (Dev.dirRoom_wf (Dev.homeData_wf h))
  · split
    · exact Dev.setDir_wf (Dev.dropLlc_wf h)
    · split
      · exact Dev.ownerData_wf h
      · refine Dev.setDir_wf (Dev.dropLlc_wf ?_)
        split
        exacts [Dev.dirRoom_wf (Dev.ownerData_wf h), Dev.ownerData_wf h]
  · split
    · exact Dev.setDir_wf (Dev.dropLlc_wf h)
    · split
      · exact Dev.ownerData_wf h
      · refine Dev.setDir_wf (Dev.dropLlc_wf ?_)
        split
        exacts [Dev.dirRoom_wf (Dev.ownerData_wf h), Dev.ownerData_wf h]
  · exact Dev.ownerData_wf h
  · split <;> exact Dev.memWrite_wf _ _ _ _ _ (Dev.dropDir_wf (Dev.dropLlc_wf h))
  · exact h

theorem Dev.homeFinish_wf {n set : Nat} {opc : Opc} {who : Agent} {ln : Nat} {key : BitVec 11} {x : Line} {be : Word} {poison : Bool}
    {r : SnoopAns} (h : d.Wf) : (d.homeFinish n set opc who ln key x be poison r).1.Wf := by
  unfold Dev.homeFinish
  dsimp only
  split
  · split
    exacts [Dev.dropDir_wf h, h]
  · split
    · exact Dev.homeEvict_wf h
    · exact Dev.homeEvict_wf h
    · split
      · refine Dev.nearFinish_wf ?_
        split
        exacts [Dev.noteLost_wf h, h]
      · split
        · refine Dev.dropDir_wf ?_
          split
          exacts [Dev.noteLost_wf h, h]
        · refine Dev.farFinish_wf ?_
          split
          exacts [Dev.noteLost_wf h, h]

theorem Dev.seeSnoop_wf {m : Msg} {a : Agent} {k : SnoopKind} {r : SnoopAns} (h : d.Wf) : (d.seeSnoop m a k r).Wf := by
  unfold Dev.seeSnoop
  dsimp only
  split
  · exact Dev.see_wf (Dev.see_wf h)
  · split
    · exact Dev.see_wf (Dev.see_wf h)
    · split <;> exact Dev.see_wf (Dev.see_wf h)

theorem Dev.snoopAll_wf {m : Msg} {ts : List Agent} {except : Option Nat} {k : SnoopKind} {owner : Bool} (h : d.Wf) :
    (d.snoopAll m ts except k owner).1.Wf :=
  Dev.foldl_fst_wf (fun _ _ hx => Dev.seeSnoop_wf (Dev.snoop_wf hx)) h

theorem Dev.homeServe_wf {opc : Opc} {who : Agent} {ln : Nat} {key : BitVec 11} {x : Line} {be : Word} {poison : Bool} (h : d.Wf) :
    (d.homeServe opc who ln key x be poison).1.Wf := by
  unfold Dev.homeServe
  dsimp only
  split
  next e => exact Dev.wf_fst e (Dev.reach_wf h)
  next e =>
    refine Dev.seeBack_wf (Dev.homeFinish_wf (Dev.snoopAll_wf ?_))
    split
    · exact Dev.wait_wf (Dev.wf_fst e (Dev.reach_wf h))
    · exact Dev.wake_wf (Dev.wf_fst e (Dev.reach_wf h))

theorem Dev.noteOutside_wf {except : Option Nat} {ln : Nat} (h : d.Wf) : (d.noteOutside except ln).Wf :=
  Dev.wf_mk h

theorem Dev.keepBit_wf {c ln : Nat} (h : d.Wf) : (d.keepBit c ln).Wf := by
  unfold Dev.keepBit
  split
  exacts [Dev.setDir_wf h, h]

theorem Dev.evictL2_wf {c : Nat} {e : L2Line} (h : d.Wf) : (d.evictL2 c e).Wf := by
  unfold Dev.evictL2
  split
  · exact Dev.keepBit_wf (Dev.homeServe_wf (Dev.modCore_wf h))
  · exact Dev.keepBit_wf (Dev.homeServe_wf (Dev.modCore_wf h))
  · exact Dev.modCore_wf h

theorem Dev.fillL2_wf {c : Nat} {e : L2Line} (h : d.Wf) : (d.fillL2 c e).Wf := by
  unfold Dev.fillL2
  dsimp only
  refine Dev.modCore_wf ?_
  split
  · exact h
  · split
    exacts [Dev.evictL2_wf (Dev.draw_wf h), Dev.draw_wf h]

theorem Dev.l2Read_wf {c ln : Nat} {key : BitVec 11} (h : d.Wf) : (d.l2Read c ln key).1.Wf := by
  unfold Dev.l2Read
  dsimp only
  split
  · exact h
  · split
    exacts [Dev.fillL2_wf (Dev.homeServe_wf h), Dev.homeServe_wf h]

theorem Dev.l2Own_wf {c ln : Nat} {key : BitVec 11} (h : d.Wf) : (d.l2Own c ln key).1.Wf := by
  unfold Dev.l2Own
  dsimp only
  split
  · split
    · exact h
    · exact Dev.fillL2_wf h
    · split
      exacts [Dev.fillL2_wf (Dev.homeServe_wf h), Dev.homeServe_wf h]
  · split
    exacts [Dev.fillL2_wf (Dev.homeServe_wf h), Dev.homeServe_wf h]

theorem Dev.l2Write_wf {c ln : Nat} {x : Line} {be : Word} {key : BitVec 11} (h : d.Wf) : (d.l2Write c ln x be key).1.Wf := by
  unfold Dev.l2Write
  dsimp only
  split
  · exact Dev.l2Own_wf h
  · exact Dev.noteOutside_wf (Dev.modCore_wf (Dev.l2Own_wf h))

theorem Dev.fillL1_wf {c ln : Nat} {fetch : Bool} (h : d.Wf) : (d.fillL1 c ln fetch).Wf := by
  unfold Dev.fillL1
  split
  exacts [h, Dev.modCore_wf h]

theorem Dev.rdNa_wf {who : Agent} {ln : Nat} {key : BitVec 11} (h : d.Wf) : (d.rdNa who ln key).1.Wf :=
  Dev.homeServe_wf h

theorem Dev.ioW_wf {who : Agent} {ln : Nat} {x : Line} {be : Word} {key : BitVec 11} {poison : Bool} (h : d.Wf) :
    (d.ioW who ln x be key poison).1.Wf := by
  unfold Dev.ioW
  dsimp only
  split
  exacts [Dev.homeServe_wf h, Dev.noteOutside_wf (Dev.homeServe_wf h)]

theorem Dev.spadLoad_wf {who : Agent} {n way off len : Nat} (h : d.Wf) : (d.spadLoad who n way off len).1.Wf := by
  unfold Dev.spadLoad
  dsimp only
  split
  next e => exact Dev.wf_fst e (Dev.reach_wf h)
  next e => exact Dev.seeBack_wf (Dev.spadGet_wf (Dev.wake_wf (Dev.wf_fst e (Dev.reach_wf h))))

theorem Dev.spadSave_wf {who : Agent} {n way off : Nat} {l : List Byte} (h : d.Wf) : (d.spadSave who n way off l).1.Wf := by
  unfold Dev.spadSave
  dsimp only
  split
  next e => exact Dev.wf_fst e (Dev.reach_wf h)
  next e => exact Dev.seeBack_wf (Dev.spadPut_wf (Dev.wake_wf (Dev.wf_fst e (Dev.reach_wf h))))

theorem Dev.farLoad_wf {who : Agent} {pa len : Nat} (h : d.Wf) : (d.farLoad who pa len).1.Wf := by
  unfold Dev.farLoad
  split
  · exact h
  · split
    next e => exact Dev.wf_fst e (Dev.farGet_wf h)
    next e => exact Dev.wf_fst e (Dev.farGet_wf h)

theorem Dev.farSave_wf {who : Agent} {pa : Nat} {l : List Byte} (h : d.Wf) : (d.farSave who pa l).1.Wf := by
  unfold Dev.farSave
  dsimp only
  split
  · exact h
  · split
    exacts [Dev.wait_wf h, Dev.farPost_wf h]

theorem Dev.readBytes_wf {who : Agent} {key : BitVec 11} {n m k : Nat} (h : d.Wf) :
    (d.readBytes who key n m k).1.Wf := by
  induction n generalizing d m k with
  | zero => exact h
  | succ n ih =>
    cases k with
    | zero => exact h
    | succ k =>
      unfold Dev.readBytes
      refine ih ?_
      split
      · exact Dev.spadLoad_wf h
      · exact Dev.farLoad_wf h
      · exact Dev.rdNa_wf h

theorem Dev.writeBytesAs_wf {who : Agent} {key : BitVec 11} {n m : Nat} {l : List Byte} (h : d.Wf) :
    (d.writeBytesAs who key n m l).1.Wf := by
  induction n generalizing d m l with
  | zero => exact h
  | succ n ih =>
    cases l with
    | nil => exact h
    | cons b bs =>
      unfold Dev.writeBytesAs
      refine ih ?_
      split
      · exact Dev.spadSave_wf h
      · exact Dev.farSave_wf h
      · exact Dev.ioW_wf h

theorem Dev.readD_wf {who : Agent} {key : BitVec 11} {pa : Nat} (h : d.Wf) : (d.readD who key pa).1.Wf := by
  unfold Dev.readD
  exact Dev.readBytes_wf h

theorem Dev.writeD_wf {who : Agent} {key : BitVec 11} {pa : Nat} {v : Word} (h : d.Wf) : (d.writeD who key pa v).1.Wf :=
  Dev.writeBytesAs_wf h

theorem Dev.upsetL2_wf {c ln : Nat} {multi : Bool} (h : d.Wf) : (d.upsetL2 c ln multi).Wf := by
  unfold Dev.upsetL2
  split
  · exact h
  · split
    · exact Dev.errAt_wf h
    · split
      · exact Dev.errAt_wf (Dev.modCore_wf h)
      · exact Dev.errAt_wf (Dev.fillL2_wf (Dev.rdNa_wf (Dev.modCore_wf h)))

theorem Dev.upsetLlc_wf {n ln : Nat} {multi : Bool} (h : d.Wf) : (d.upsetLlc n ln multi).Wf := by
  unfold Dev.upsetLlc
  split
  · exact h
  · split
    · exact Dev.errAt_wf h
    · split
      · exact Dev.errAt_wf (Dev.modSlice_wf h)
      · exact Dev.errAt_wf (Dev.dropLlc_wf h)

theorem Dev.upsetTag_wf {n set : Nat} {multi : Bool} (h : d.Wf) : (d.upsetTag n set multi).Wf := by
  unfold Dev.upsetTag
  split
  · exact Dev.err_wf h
  · refine Dev.err_wf (Dev.foldl_wf (fun _ _ hx => ?_) h)
    split
    exacts [Dev.lineLost_wf hx, Dev.dropLlc_wf hx]

theorem Dev.upsetSpad_wf {n unit : Nat} {multi : Bool} (h : d.Wf) : (d.upsetSpad n unit multi).Wf := by
  unfold Dev.upsetSpad
  split
  · exact Dev.err_wf h
  · split
    exacts [Dev.err_wf (Dev.modSlice_wf h), h]

theorem Dev.flushHolder_wf {n set : Nat} {a : Agent} (h : d.Wf) : (d.flushHolder n set a).Wf := by
  unfold Dev.flushHolder
  dsimp only
  refine Dev.foldl_wf (fun _ _ hx => ?_) h
  split
  · refine Dev.dropDir_wf ?_
    split
    · exact Dev.homeEvict_wf (Dev.snoop_wf (Dev.makeRoom_wf hx))
    · exact Dev.noteLost_wf (Dev.snoop_wf (Dev.makeRoom_wf hx))
  · refine Dev.setDir_wf ?_
    split
    · exact Dev.homeEvict_wf (Dev.snoop_wf (Dev.makeRoom_wf hx))
    · exact Dev.noteLost_wf (Dev.snoop_wf (Dev.makeRoom_wf hx))

theorem Dev.setFlush_wf {n set : Nat} {a : Agent} (h : d.Wf) : (d.setFlush n set a).Wf := by
  unfold Dev.setFlush
  split
  · refine Dev.foldl_wf (fun _ _ hx => Dev.foldl_wf (fun _ _ hy => Dev.modCore_wf ?_) (Dev.wake_wf hx)) (Dev.flushHolder_wf h)
    split
    exacts [Dev.homeEvict_wf (Dev.makeRoom_wf hy), hy]
  · exact Dev.flushHolder_wf h

theorem Dev.upsetDir_wf {n set : Nat} {multi : Bool} (h : d.Wf) : (d.upsetDir n set multi).Wf := by
  unfold Dev.upsetDir
  split
  · exact Dev.err_wf h
  · split
    · exact Dev.wait_wf h
    · exact Dev.err_wf (Dev.modSlice_wf (Dev.foldl_wf (fun _ _ hx => Dev.setFlush_wf hx) h))

theorem Dev.upset_wf {u : Upset} (h : d.Wf) : (d.upset u).Wf := by
  unfold Dev.upset
  split
  · split
    exacts [Dev.upsetL2_wf h, h]
  · split
    · exact h
    · split
      exacts [Dev.modCore_wf h, Dev.err_wf h]
  · split
    exacts [Dev.upsetLlc_wf h, h]
  · split
    exacts [Dev.upsetTag_wf h, h]
  · split
    exacts [Dev.upsetDir_wf h, h]
  · split
    exacts [Dev.upsetSpad_wf h, h]

/-! ### Xlate -/

theorem Dev.loadD_wf {who : Agent} {key : BitVec 11} {pa : Nat} (h : d.Wf) : (d.loadD who key pa).1.Wf := by
  unfold Dev.loadD
  split
  · exact Dev.spadLoad_wf h
  · exact Dev.farLoad_wf h
  · split
    exacts [h, Dev.l2Read_wf h]
  · exact Dev.readBytes_wf h

theorem Dev.tableRead_wf {who : Agent} {pa l : Nat} {key : BitVec 11} (h : d.Wf) : (d.tableRead who pa l key).1.Wf := by
  unfold Dev.tableRead
  split
  exacts [Dev.loadD_wf h, h]

theorem Dev.walkFrom_wf {b : WalkBy} {key : BitVec 11} {x : Descriptor} {seg tenant : Half} {off n m k : Nat} {l : List WalkEntry}
    (h : d.Wf) : (d.walkFrom b key x seg tenant off n m k l).1.Wf := by
  induction n generalizing d m k l with
  | zero =>
    exact h
  | succ n ih =>
    unfold Dev.walkFrom
    dsimp only
    split
    next e => exact Dev.wf_fst e (Dev.tableRead_wf h)
    next e => exact Dev.wf_fst e (Dev.tableRead_wf h)
    next e =>
      split
      · exact Dev.wf_fst e (Dev.tableRead_wf h)
      · split
        · exact Dev.wf_fst e (Dev.tableRead_wf h)
        · split
          · exact Dev.wf_fst e (Dev.tableRead_wf h)
          · exact ih (Dev.wf_fst e (Dev.tableRead_wf h))

theorem Dev.readGroup_wf {who : Agent} {key : BitVec 11} {pa n : Nat} (h : d.Wf) :
    (d.readGroup who key pa n).1.Wf := by
  induction n generalizing d pa with
  | zero => exact h
  | succ n ih =>
    unfold Dev.readGroup
    split
    next e =>
      have h1 := Dev.wf_fst e (Dev.loadD_wf h)
      split
      · exact h1
      · split
        next e2 => exact Dev.wf_fst e2 (ih h1)
        · exact ih h1

theorem Dev.descriptor_wf {b : WalkBy} {seg : Nat} (h : d.Wf) : (d.descriptor b seg).1.Wf := by
  unfold Dev.descriptor
  dsimp only
  split
  · exact h
  · split
    next e => exact Dev.wf_fst e (Dev.tableRead_wf h)
    next e => exact Dev.wf_fst e (Dev.tableRead_wf h)
    next d1 w0 e =>
      have h1 : d1.Wf := Dev.wf_fst e (Dev.tableRead_wf h)
      split
      next e1 _ _ => exact Dev.wf_fst e1 (Dev.tableRead_wf h1)
      next e1 => exact Dev.wf_fst e1 (Dev.tableRead_wf h1)
      · exact h1

theorem Dev.walk_wf {b : WalkBy} {ea : Word} {kind : AccKind} (h : d.Wf) : (d.walk b ea kind).1.Wf := by
  unfold Dev.walk
  extract_lets seg off _
  refine Dev.ite_fst_wf h ?_
  split
  next e => exact Dev.wf_fst e (Dev.descriptor_wf h)
  next e => exact Dev.wf_fst e (Dev.descriptor_wf h)
  next d1 x e =>
    have h1 : d1.Wf := Dev.wf_fst e (Dev.descriptor_wf h)
    refine Dev.ite_fst_wf h1 (Dev.ite_fst_wf h1 (Dev.ite_fst_wf h1 ?_))
    dsimp only
    split
    · exact h1
    · split
      next e => exact Dev.wf_fst e (Dev.walkFrom_wf h1)
      next e => exact Dev.wf_fst e (Dev.walkFrom_wf h1)
      next d2 l pa w ws e =>
        have h2 : d2.Wf := Dev.wf_fst e (Dev.walkFrom_wf h1)
        refine Dev.ite_fst_wf ?_ h2
        split
        next e => exact Dev.wf_fst e (Dev.readGroup_wf h2)
        next e => exact Dev.wf_fst e (Dev.readGroup_wf h2)

theorem Dev.forgetLeaf_wf {who : Agent} {leafPa : Nat} (h : d.Wf) : (d.forgetLeaf who leafPa).Wf := by
  unfold Dev.forgetLeaf
  split
  · exact Dev.modCore_wf h
  · exact Dev.modStop_wf h
  · exact Dev.modEngine_wf h
  · exact h

theorem Dev.fillXlate_wf {who : Agent} {kind : AccKind} {t : Trans} (h : d.Wf) : (d.fillXlate who kind t).Wf := by
  unfold Dev.fillXlate
  dsimp only
  split
  · exact h
  · split
    · exact Dev.modCore_wf (Dev.draw_wf h)
    · exact Dev.modStop_wf (Dev.draw_wf h)
    · exact Dev.modEngine_wf (Dev.draw_wf h)
    · exact Dev.draw_wf h

theorem Dev.markLine_wf {c : Nat} {key : BitVec 11} {pa : Nat} {v : Word} (h : d.Wf) : (d.markLine c key pa v).1.Wf :=
  Dev.l2Write_wf h

theorem Dev.markSpec_wf {c : Nat} {key : BitVec 11} {pa : Nat} {old v : Word} {y : SpecLine} (h : d.Wf) :
    (d.markSpec c key pa old v y).1.Wf := by
  unfold Dev.markSpec
  dsimp only
  split
  · exact Dev.l2Read_wf (Dev.modMember_wf h)
  · exact Dev.markLine_wf (Dev.l2Read_wf (Dev.modMember_wf h))

theorem Dev.setMarks_wf {who : Agent} {key : BitVec 11} {m : Option (Nat × Word × Word)} (h : d.Wf) : (d.setMarks who key m).1.Wf := by
  unfold Dev.setMarks
  dsimp only
  split
  · exact h
  · split
    · exact Dev.loadD_wf h
    · split
      · exact Dev.loadD_wf h
      · split
        · exact Dev.spadSave_wf (Dev.loadD_wf h)
        · exact Dev.farSave_wf (Dev.loadD_wf h)
        · split
          · exact Dev.markSpec_wf (Dev.loadD_wf h)
          · exact Dev.markLine_wf (Dev.loadD_wf h)
        · exact Dev.writeD_wf (Dev.loadD_wf h)

theorem Dev.settleTrans_wf {who : Agent} {kind : AccKind} {go : Dev → Dev × XRes} {n : Nat}
    (hgo : ∀ {x : Dev}, x.Wf → (go x).1.Wf) (h : d.Wf) : (Dev.settleTrans who kind go n d).1.Wf := by
  induction n generalizing d with
  | zero => exact hgo h
  | succ n ih =>
    unfold Dev.settleTrans
    split
    next d1 t e =>
      have h1 : d1.Wf := Dev.wf_fst e (hgo h)
      split
      next e2 => exact Dev.fillXlate_wf (Dev.wf_fst e2 (Dev.setMarks_wf h1))
      next e2 => exact Dev.wf_fst e2 (Dev.setMarks_wf h1)
      next e2 => exact ih (Dev.forgetLeaf_wf (Dev.wf_fst e2 (Dev.setMarks_wf h1)))
    · exact hgo h

theorem Dev.translate_wf {c : Nat} {lvl : Level} {mxlate : Bool} {segtab : Word} {marks : Bool} {ea : Word} {kind : AccKind} (h : d.Wf) :
    (d.translate c lvl mxlate segtab marks ea kind).1.Wf := by
  unfold Dev.translate
  dsimp only
  split
  · split
    · exact h
    · split <;> exact h
  · exact Dev.walk_wf h

theorem Dev.translateNow_wf {c : Nat} {ea : Word} {kind : AccKind} (h : d.Wf) : (d.translateNow c ea kind).1.Wf :=
  Dev.translate_wf h

/-! ### Events -/

theorem Dev.sendNotice_wf {r : Ring} (h : d.Wf) : (d.sendNotice r).Wf := by
  unfold Dev.sendNotice
  split
  · exact Dev.wire_wf h
  · split
    exacts [Dev.report_wf h, h]
  · exact Dev.wire_wf h
  · exact Dev.wire_wf h
  · exact Dev.wire_wf h

theorem Dev.setNotice_wf {r : Ring} {n : NoticeSt} (h : d.Wf) : (d.setNotice r n).Wf :=
  Dev.wf_mk h

theorem Dev.raiseNotice_wf {r : Ring} (h : d.Wf) : (d.raiseNotice r).Wf := by
  unfold Dev.raiseNotice
  dsimp only
  split
  · split
    exacts [Dev.setNotice_wf (Dev.sendNotice_wf h), Dev.setNotice_wf h]
  · exact Dev.setNotice_wf (Dev.sendNotice_wf h)

theorem Dev.ringLevel_wf {r : Ring} {l0 l1 : Nat} (h : d.Wf) : (d.ringLevel r l0 l1).Wf := by
  unfold Dev.ringLevel
  dsimp only
  split
  exacts [Dev.raiseNotice_wf (Dev.countFld_wf (Dev.setFld_wf h)), h]

theorem Dev.windowEnd_wf {r : Ring} (h : d.Wf) : (d.windowEnd r).Wf := by
  unfold Dev.windowEnd
  split
  exacts [Dev.setNotice_wf (Dev.sendNotice_wf h), Dev.setNotice_wf h]

theorem Dev.setAct_wf {wired : Bool} {n : Nat} {v : Bool} (h : d.Wf) : (d.setAct wired n v).Wf := by
  unfold Dev.setAct
  split
  exacts [Dev.setFld_wf h, Dev.wf_mk h]

theorem Dev.setPend_wf {wired : Bool} {n : Nat} {v : Bool} (h : d.Wf) : (d.setPend wired n v).Wf := by
  unfold Dev.setPend
  split
  exacts [Dev.setFld_wf h, Dev.wf_mk h]

theorem Dev.setWaiting_wf {wired : Bool} {n : Nat} {at_ : Word} (h : d.Wf) : (d.setWaiting wired n at_).Wf := by
  unfold Dev.setWaiting
  split
  exacts [h, Dev.wf_mk (Dev.setPend_wf h)]

theorem Dev.takeWaiting_wf {wired : Bool} {n : Nat} (h : d.Wf) : (d.takeWaiting wired n).1.Wf :=
  Dev.wf_mk (Dev.setPend_wf h)

theorem Dev.setEvCount_wf {l p n : Nat} (h : d.Wf) : (d.setEvCount l p n).Wf :=
  Dev.wf_mk h

theorem Dev.abortEntry_wf {k : Nat} (h : d.Wf) : (d.abortEntry k).Wf := by
  unfold Dev.abortEntry
  split
  · split
    · exact h
    · refine Dev.countFld_wf (Dev.setFld_wf (Dev.modDom_wf ?_))
      split
      exacts [Dev.wf_mk h, h]
  · split
    · exact h
    · refine Dev.countFld_wf (Dev.setFld_wf (Dev.modDom_wf ?_))
      split
      exacts [Dev.wf_mk h, h]
  · exact h

theorem Dev.evaluate_wf {l : Nat} (h : d.Wf) : (d.evaluate l).Wf := by
  unfold Dev.evaluate
  split
  · exact h
  · split
    · exact h
    · split
      exacts [Dev.wake_wf h, Dev.abortEntry_wf h]

theorem Dev.rouse_wf {l : Nat} (h : d.Wf) : (d.rouse l).Wf := by
  unfold Dev.rouse
  split
  · exact h
  · split
    exacts [Dev.modDom_wf h, Dev.evaluate_wf h]

theorem Dev.eqWrite_wf {l kind number pri : Nat} {at_ : Word} (h : d.Wf) : (d.eqWrite l kind number pri at_).1.Wf := by
  unfold Dev.eqWrite
  dsimp only
  split
  · exact h
  · split
    · exact Dev.setFld_wf h
    · split
      · exact Dev.err_wf (Dev.writeD_wf (Dev.writeD_wf h))
      · exact Dev.rouse_wf (Dev.ringLevel_wf (Dev.setEvCount_wf (Dev.wrapFld_wf (Dev.writeD_wf (Dev.writeD_wf h)))))

theorem Dev.eqAppend_wf {target kind number pri : Nat} {at_ : Word} {wired : Bool} {source : Nat} (h : d.Wf) :
    (d.eqAppend target kind number pri at_ wired source).1.Wf := by
  unfold Dev.eqAppend
  dsimp only
  split
  exacts [Dev.modMember_wf h, Dev.eqWrite_wf h]

theorem Dev.route_wf {wired : Bool} {n : Nat} (h : d.Wf) : (d.route wired n).1.Wf := by
  unfold Dev.route
  dsimp only
  split
  · exact h
  · split
    · exact h
    · split
      · exact h
      · split
        exacts [Dev.readD_wf h, Dev.wf_mk (Dev.readD_wf h)]

theorem Dev.postWake_wf {n : Nat} {on at_ : Word} {wired : Bool} {source : Nat} (h : d.Wf) : (d.postWake n on at_ wired source).1.Wf := by
  unfold Dev.postWake
  dsimp only
  split
  · exact Dev.evaluate_wf h
  · split
    exacts [Dev.err_wf (Dev.readD_wf h), Dev.eqAppend_wf (Dev.readD_wf h)]

theorem Dev.postVirtual_wf {n v : Nat} {at_ : Word} {wired : Bool} {source : Nat} (h : d.Wf) :
    (d.postVirtual n v at_ wired source).1.Wf := by
  unfold Dev.postVirtual
  dsimp only
  split
  · exact Dev.err_wf (Dev.readD_wf (Dev.readD_wf h))
  · split
    · exact Dev.writeD_wf (Dev.readD_wf (Dev.readD_wf h))
    · exact Dev.postWake_wf (Dev.writeD_wf (Dev.writeD_wf (Dev.readD_wf (Dev.readD_wf h))))

theorem Dev.fireRoute_wf {wired : Bool} {n : Nat} {rid : Option Nat} {at_ w : Word} (h : d.Wf) : (d.fireRoute wired n rid at_ w).Wf := by
  unfold Dev.fireRoute
  dsimp only
  refine Dev.ite_wf (Dev.countFld_wf h) (Dev.ite_wf (Dev.ite_wf (Dev.setWaiting_wf h) (Dev.countFld_wf h))
    (Dev.ite_wf (Dev.ite_wf (Dev.setWaiting_wf (Dev.postVirtual_wf h)) (Dev.postVirtual_wf h)) (Dev.ite_wf (Dev.setWaiting_wf h) ?_)))
  split
  · exact Dev.setAct_wf (Dev.eqAppend_wf h)
  · exact Dev.setWaiting_wf (Dev.eqAppend_wf h)
  · exact Dev.setWaiting_wf (Dev.eqAppend_wf h)
  · exact Dev.eqAppend_wf h

theorem Dev.fireFrom_wf {wired : Bool} {n : Nat} {rid : Option Nat} {at_ : Word} (h : d.Wf) : (d.fireFrom wired n rid at_).Wf := by
  unfold Dev.fireFrom
  split
  · exact h
  · split
    next e => exact Dev.fireRoute_wf (Dev.wf_fst e (Dev.route_wf h))
    next e => exact Dev.countFld_wf (Dev.wf_fst e (Dev.route_wf h))
    next e => exact Dev.err_wf (Dev.wf_fst e (Dev.route_wf h))

theorem Dev.fire_wf {wired : Bool} {n : Nat} {rid : Option Nat} (h : d.Wf) : (d.fire wired n rid).Wf :=
  Dev.fireFrom_wf h

theorem Dev.reoffer_wf {wired : Bool} {n : Nat} (h : d.Wf) : (d.reoffer wired n).Wf := by
  unfold Dev.reoffer
  split
  exacts [Dev.fireFrom_wf (Dev.takeWaiting_wf h), h]

theorem Dev.rescanSource_wf {l : Nat} {wired : Bool} {n : Nat} (h : d.Wf) : (d.rescanSource l wired n).Wf := by
  unfold Dev.rescanSource
  dsimp only
  split
  next e =>
    split
    · exact h
    · split
      · split
        exacts [Dev.reoffer_wf h, h]
      · split
        · exact h
        · split
          · exact Dev.setWaiting_wf (Dev.postWake_wf (Dev.takeWaiting_wf (Dev.wf_fst e (Dev.route_wf h))))
          · exact Dev.postWake_wf (Dev.takeWaiting_wf (Dev.wf_fst e (Dev.route_wf h)))
  · exact h

theorem Dev.rescan_wf {l : Nat} (h : d.Wf) : (d.rescan l).Wf :=
  Dev.foldl_wf (fun _ _ hx => Dev.rescanSource_wf hx) (Dev.foldl_wf (fun _ _ hx => Dev.rescanSource_wf hx) h)

theorem Dev.msgDoorbell_wf {rid : Nat} {v : Word} {size : Nat} (h : d.Wf) : (d.msgDoorbell rid v size).Wf := by
  unfold Dev.msgDoorbell
  split
  exacts [Dev.countFld_wf h, Dev.fire_wf h]

theorem Dev.endEntry_wf {l : Nat} {v : Word} (h : d.Wf) : (d.endEntry l v).Wf := by
  unfold Dev.endEntry
  dsimp only
  split
  · exact Dev.countFld_wf h
  · split
    · exact Dev.setEvCount_wf h
    · split
      · exact Dev.countFld_wf h
      · exact Dev.reoffer_wf (Dev.setAct_wf (Dev.setEvCount_wf h))

theorem Dev.holdEnd_wf {c l : Nat} {m : Member} {v : Word} (h : d.Wf) : (d.holdEnd c l m v).Wf :=
  Dev.modMember_wf (Dev.setEvCount_wf h)

theorem Dev.giveEnds_wf {c : Nat} (h : d.Wf) : (d.giveEnds c).Wf := by
  unfold Dev.giveEnds
  split
  · exact Dev.modMember_wf (Dev.foldl_wf (fun _ _ hx => Dev.setEvCount_wf hx) h)
  · exact h

theorem Dev.commitEnds_wf {c : Nat} {m : Member} (h : d.Wf) : (d.commitEnds c m).Wf := by
  unfold Dev.commitEnds
  split
  · exact Dev.foldl_wf (fun _ _ hx => Dev.endEntry_wf hx) (Dev.giveEnds_wf h)
  · exact h

theorem Dev.vpTake_wf {c v : Nat} (h : d.Wf) : (d.vpTake c v).Wf := by
  unfold Dev.vpTake
  dsimp only
  split
  · exact h
  · split
    · exact Dev.writeD_wf (Dev.readD_wf (Dev.writeD_wf (Dev.readD_wf h)))
    · exact Dev.writeD_wf (Dev.readD_wf h)

theorem Dev.vpGive_wf {c v : Nat} (h : d.Wf) : (d.vpGive c v).Wf := by
  unfold Dev.vpGive
  split
  · exact h
  · exact Dev.writeD_wf (Dev.readD_wf (Dev.writeD_wf (Dev.readD_wf h)))

/-! ### Observe -/

theorem Dev.obsTrace_wf {q u port : Nat} {o : Opc} {m : Msg} (h : d.Wf) : (d.obsTrace q u port o m).Wf := by
  unfold Dev.obsTrace
  dsimp only
  split
  · exact h
  · split
    · exact Dev.countFld_wf (Dev.setFld_wf h)
    · split
      · exact Dev.countFld_wf (Dev.setFld_wf (Dev.writeBytesAs_wf h))
      · exact Dev.ringLevel_wf (Dev.wrapFld_wf (Dev.writeBytesAs_wf h))

theorem Dev.observeStats_wf {q u stop : Nat} {o : Opc} {m : Msg} {began : Word} (h : d.Wf) : (d.observeStats q u stop o m began).Wf := by
  unfold Dev.observeStats
  dsimp only
  split
  · refine Dev.countFld_wf ?_
    split
    · refine Dev.countFld_wf ?_
      split
      exacts [Dev.countFld_wf h, h]
    · split
      exacts [Dev.countFld_wf h, h]
  · split
    exacts [Dev.countFld_wf h, h]

theorem Dev.observeProbe_wf {q u stop : Nat} {o : Opc} {m : Msg} (h : d.Wf) : (d.observeProbe q u stop o m).Wf := by
  unfold Dev.observeProbe
  dsimp only
  split
  · exact h
  · split
    · exact h
    · split
      · exact Dev.countFld_wf (Dev.setFabric_wf h)
      · split
        · exact Dev.countFld_wf (Dev.countFld_wf (Dev.setFabric_wf h))
        · split
          · exact Dev.obsTrace_wf (Dev.countFld_wf (Dev.setFabric_wf h))
          · exact Dev.countFld_wf (Dev.setFabric_wf h)

theorem Dev.observeBy_wf {q u : Nat} {o : Opc} {m : Msg} {began : Word} (h : d.Wf) : (d.observeBy q u o m began).Wf := by
  unfold Dev.observeBy
  dsimp only
  split
  · exact h
  · split
    exacts [Dev.observeStats_wf h, Dev.observeProbe_wf h]

theorem Dev.observe_wf {o : Opc} {m : Msg} {began : Word} (h : d.Wf) : (d.observe o m began).Wf :=
  Dev.foldl_wf (fun _ _ hx => Dev.observeBy_wf hx) h

theorem Dev.observeSeen_succ (n : Nat) (d : Dev) : Dev.observeSeen (n + 1) d = match d.fabric.seen with
    | [] => d
    | (o, m, t) :: rest =>
      let e := (d.setFabric { d.fabric with seen := [] }).observe o m t
      if e.fabric.waits = d.fabric.waits then Dev.observeSeen n (e.setFabric { e.fabric with seen := rest }) else d.orWait e := by
  delta Dev.observeSeen
  rfl

theorem Dev.observeSeen_wf {n : Nat} (h : d.Wf) : (Dev.observeSeen n d).Wf := by
  induction n generalizing d with
  | zero => exact h
  | succ n ih =>
    rw [Dev.observeSeen_succ]
    split
    · exact h
    · extract_lets _ e
      have he : e.Wf := Dev.observe_wf (Dev.setFabric_wf h)
      exact Dev.ite_wf (ih (Dev.setFabric_wf he)) (Dev.orWait_wf h he)

/-! ### Errors -/

theorem Dev.cleanCore_wf {c : Nat} (h : d.Wf) : (d.cleanCore c).Wf :=
  Dev.foldl_wf (fun _ _ hx => Dev.evictL2_wf (Dev.makeRoom_wf hx)) h

theorem Dev.cleanSlice_wf {n : Nat} (h : d.Wf) : (d.cleanSlice n).Wf := by
  unfold Dev.cleanSlice
  refine Dev.modSlice_wf (Dev.foldl_wf (fun _ _ hx => ?_) h)
  split
  exacts [Dev.victimOut_wf (Dev.makeRoom_wf hx), hx]

theorem Dev.drainChan_wf {ch : Nat} (h : d.Wf) : (d.drainChan ch).Wf := by
  unfold Dev.drainChan
  refine Dev.modChan_wf (Dev.foldl_wf (fun _ _ hx => Dev.fillFinish_wf _ _ (Dev.zTouch_wf hx))
    (Dev.foldl_wf (fun _ _ hx => Dev.mcIssueLine_wf _ _ hx) (Dev.foldl_wf (fun _ _ hx => ?_) h)))
  split
  exacts [hx, Dev.mcStep_wf _ hx]

theorem Dev.storeLine_wf {c pa : Nat} {l : List Byte} {key : BitVec 11} (h : d.Wf) : (d.storeLine c pa l key).1.Wf := by
  unfold Dev.storeLine
  split
  exacts [Dev.spadSave_wf h, Dev.farSave_wf h, Dev.l2Write_wf h]

theorem Dev.performStore_wf {c : Nat} {e : StoreEntry} (h : d.Wf) : (d.performStore c e).Wf :=
  Dev.ite_wf (Dev.report_wf (Dev.ite_fst_wf (Dev.storeLine_wf h) (Dev.storeLine_wf (Dev.storeLine_wf h))))
    (Dev.ite_fst_wf (Dev.storeLine_wf h) (Dev.storeLine_wf (Dev.storeLine_wf h)))

theorem Dev.drainStores_wf {c : Nat} (h : d.Wf) : (d.drainStores c).Wf :=
  Dev.foldl_wf (fun _ _ hx => Dev.performStore_wf hx) (Dev.modCore_wf h)

theorem Dev.drainOne_wf {c : Nat} (h : d.Wf) : (d.drainOne c).Wf := by
  unfold Dev.drainOne
  split
  exacts [h, Dev.performStore_wf (Dev.modCore_wf h)]

theorem Dev.cleanAll_wf (h : d.Wf) : d.cleanAll.Wf :=
  Dev.foldl_wf (fun _ _ hx => Dev.cleanSlice_wf hx) (Dev.foldl_wf (fun _ _ hx => Dev.cleanCore_wf
    (Dev.drainStores_wf (Dev.makeRoom_wf hx))) h)

theorem Dev.cutDomains_wf (h : d.Wf) : d.cutDomains.Wf :=
  Dev.foldl_wf (fun _ _ hx => Dev.setPower_wf hx) (Dev.wf_mk h)

theorem Dev.bankTake_wf {bank code unit : Nat} {addr : Option Nat} {synd : Word} {lcore : Option Nat} (h : d.Wf) :
    (d.bankTake bank code unit addr synd lcore).Wf := by
  unfold Dev.bankTake
  refine Dev.countFld_wf ?_
  split
  · exact Dev.setFlds_wf (Dev.setReg_wf (Dev.setReg_wf (Dev.setFlds_wf h)))
  · exact Dev.setFld_wf h

theorem Dev.ringTake_wf {r : Record} (h : d.Wf) : (d.ringTake r).Wf := by
  unfold Dev.ringTake
  dsimp only
  split
  · exact h
  · split
    · exact Dev.countFld_wf h
    · split
      · exact Dev.setFld_wf (Dev.countFld_wf (Dev.writeBytesAs_wf (Dev.writeBytesAs_wf h)))
      · split
        · exact Dev.wire_wf (Dev.ringLevel_wf (Dev.wrapFld_wf (Dev.writeBytesAs_wf (Dev.writeBytesAs_wf h))))
        · exact Dev.ringLevel_wf (Dev.wrapFld_wf (Dev.writeBytesAs_wf (Dev.writeBytesAs_wf h)))

theorem Dev.pendTake_wf {r : Record} (h : d.Wf) : (d.pendTake r).Wf := by
  unfold Dev.pendTake
  dsimp only
  split
  · exact h
  · split
    · exact Dev.wf_mk h
    · split
      exacts [Dev.wf_mk (Dev.countFld_wf h), Dev.countFld_wf h]

theorem Dev.makeRecord_wf {bank code unit : Nat} {addr lcore : Option Nat} {aux : Nat} (h : d.Wf) :
    (d.makeRecord bank code unit addr lcore aux).Wf := by
  unfold Dev.makeRecord
  split
  next i d0 e =>
    have h0 : d0.Wf := Dev.wf_snd e (Dev.draw_wf h)
    extract_lets synd d1 cls rec_ _ d2 d3 d4 d5 d6 d7
    have h4 : d4.Wf := Dev.pendTake_wf (Dev.ringTake_wf (Dev.countFld_wf (Dev.wf_mk (Dev.bankTake_wf h0))))
    have h5 : d5.Wf := Dev.ite_wf (Dev.wire_wf (Dev.setFld_wf h4)) h4
    have h6 : d6.Wf := Dev.ite_wf (Dev.setFld_wf h5) h5
    have h7 : d7.Wf := Dev.ite_wf (Dev.report_wf (Dev.setFld_wf h6)) h6
    exact Dev.ite_wf (Dev.wf_mk h7) (Dev.ite_wf (Dev.wf_mk h7) h7)

theorem Dev.storeWorks_wf (h : d.Wf) : d.storeWorks.1.Wf :=
  Dev.draw_wf h

theorem Dev.persist_wf {ok : Bool} (h : d.Wf) : (d.persist ok).Wf := by
  unfold Dev.persist
  split
  · exact h
  · split
    exacts [Dev.err_wf (Dev.wf_mk h), Dev.wf_mk h]

theorem Dev.persistNow_wf (h : d.Wf) : d.persistNow.Wf :=
  Dev.persist_wf (Dev.storeWorks_wf h)

theorem Dev.castHalt_wf {step : Nat} {ph : Phase} (h : d.Wf) : (d.castHalt step ph).Wf :=
  Dev.wf_mk (Dev.persistNow_wf (Dev.makeRecord_wf (Dev.setFld_wf h)))

theorem Dev.castOffRun_wf {why : CastOffCause} (h : d.Wf) : (d.castOffRun why).Wf :=
  Dev.wf_mk (Dev.cutDomains_wf (Dev.persistNow_wf (Dev.makeRecord_wf (Dev.foldl_wf (fun _ _ hx => Dev.setFld_wf (Dev.drainChan_wf hx))
    (Dev.wf_mk (Dev.cleanAll_wf h))))))

theorem Dev.settleOne_wf {r : Report} (h : d.Wf) : (d.settleOne r).Wf := by
  unfold Dev.settleOne
  split
  · exact Dev.makeRecord_wf h
  · split
    exacts [Dev.fire_wf h, h]
  · split
    exacts [Dev.fire_wf h, h]
  · split
    · exact Dev.castOffRun_wf h
    · exact Dev.castHalt_wf h
    · exact Dev.wf_mk h
    · exact Dev.wf_mk h
    · exact h

theorem Dev.settleN_wf {n : Nat} (h : d.Wf) : (d.settleN n).Wf := by
  induction n generalizing d with
  | zero =>
    exact h
  | succ n ih =>
    unfold Dev.settleN
    dsimp only
    split
    · exact h
    · split
      · exact ih (Dev.settleOne_wf (Dev.wf_mk h))
      · exact Dev.orWait_wf h (Dev.settleOne_wf (Dev.wf_mk h))

theorem Dev.settle_wf (h : d.Wf) : d.settle.Wf :=
  Dev.settleN_wf h

theorem Dev.close_wf {e : Dev} (hd : d.Wf) (he : e.Wf) : (d.close e).Wf :=
  Dev.sendAsks_wf (Dev.observeSeen_wf (Dev.settle_wf (Dev.orWait_wf hd he)))

/-! ### Slices -/

theorem Dev.newKey_wf (h : d.Wf) : d.newKey.1.Wf := by
  unfold Dev.newKey
  generalize drawKey (2 ^ 64) d.freeCtr = p
  exact Dev.wf_mk h

theorem Dev.unitOff_wf {k : Nat} (h : d.Wf) : (d.unitOff k).Wf := by
  unfold Dev.unitOff
  refine Dev.setPower_wf (Dev.modDom_wf ?_)
  split
  · exact Dev.modCore_wf (Dev.wf_mk h)
  · split
    · exact Dev.modSlice_wf (Dev.wf_mk h)
    · split
      · exact Dev.wf_mk h
      · split
        · exact Dev.wf_mk h
        · split
          exacts [Dev.wf_mk (Dev.wf_mk h), Dev.wf_mk h]

theorem Dev.setHash_wf {q : Hash} (h : d.Wf) : (d.setHash q).Wf :=
  Dev.wf_mk h

theorem Dev.queueReq_wf {r : RebuildReq} (h : d.Wf) : (d.queueReq r).Wf :=
  Dev.setHash_wf h

theorem Dev.queueRebuild_wf {k : RebuildKind} {n : Nat} (h : d.Wf) : (d.queueRebuild k n).Wf :=
  Dev.queueReq_wf h

theorem Dev.setSliceRole_wf {n x : Nat} (h : d.Wf) : (d.setSliceRole n x).Wf :=
  Dev.setFld_wf h

theorem Dev.ckAssign_wf {t from_ : Nat} (h : d.Wf) : (d.ckAssign t from_).Wf :=
  Dev.setFld_wf (Dev.setFld_wf h)

theorem Dev.ckMove_wf {which : Nat → Bool} (h : d.Wf) : (d.ckMove which).Wf := by
  unfold Dev.ckMove
  dsimp only
  refine Dev.foldl_wf (fun _ _ hx => ?_) h
  split
  exacts [Dev.ckAssign_wf hx, hx]

theorem Dev.ckInit_wf (h : d.Wf) : d.ckInit.Wf :=
  Dev.foldl_wf (fun _ _ hx => Dev.ckAssign_wf hx) (Dev.foldl_wf (fun _ _ hx => Dev.setFld_wf hx) h)

theorem Dev.rebuildPick_wf (h : d.Wf) : d.rebuildPick.Wf := by
  unfold Dev.rebuildPick
  dsimp only
  split
  · exact h
  · split
    · exact h
    · split
      · exact Dev.setHash_wf (Dev.newKey_wf h)
      · exact Dev.setHash_wf (Dev.setSliceRole_wf h)
      · split
        · refine Dev.setHash_wf (Dev.setReg_wf (Dev.setPower_wf (Dev.setSliceRole_wf ?_)))
          split
          exacts [h, Dev.setSliceRole_wf h]
        · refine Dev.setHash_wf ?_
          split
          exacts [h, Dev.setSliceRole_wf h]
      · exact Dev.setHash_wf (Dev.setPower_wf (Dev.setSliceRole_wf h))
      · exact h

theorem Dev.rebuildBegin_wf (h : d.Wf) : d.rebuildBegin.Wf :=
  Dev.ckMove_wf (Dev.rebuildPick_wf h)

theorem Dev.migrate_wf {s p : Nat} (h : d.Wf) : (d.migrate s p).Wf := by
  unfold Dev.migrate
  dsimp only
  refine Dev.foldl_wf (fun _ _ hx => ?_) ?_
  · split
    · refine Dev.setDir_wf ?_
      split
      · exact Dev.dirRoom_wf (Dev.dropDir_wf (Dev.makeRoom_wf hx))
      · exact Dev.wait_wf (Dev.dropDir_wf (Dev.makeRoom_wf hx))
    · exact hx
  · refine Dev.foldl_wf (fun _ _ hx => ?_) h
    split
    · refine Dev.dropLlc_wf ?_
      split
      exacts [Dev.victimOut_wf (Dev.makeRoom_wf hx), hx]
    · exact hx

theorem Dev.rebuildEnd_wf (h : d.Wf) : d.rebuildEnd.Wf := by
  unfold Dev.rebuildEnd
  dsimp only
  split
  · split
    · exact Dev.unitOff_wf (Dev.err_wf (Dev.setHash_wf (Dev.wrapFld_wf (Dev.setHash_wf h))))
    · exact Dev.unitOff_wf (Dev.setSliceRole_wf (Dev.wrapFld_wf (Dev.setHash_wf h)))
  · split
    · exact Dev.unitOff_wf (Dev.err_wf (Dev.wrapFld_wf (Dev.setHash_wf h)))
    · exact Dev.setSliceRole_wf (Dev.err_wf (Dev.wrapFld_wf (Dev.setHash_wf h)))
  · split
    · exact Dev.wrapFld_wf (Dev.setHash_wf h)
    · exact Dev.setSliceRole_wf (Dev.wrapFld_wf (Dev.setHash_wf h))
  · exact Dev.wrapFld_wf (Dev.setHash_wf h)

theorem Dev.rebuildStep_wf {late : Bool} (h : d.Wf) : (d.rebuildStep late).Wf :=
  Dev.ite_wf h (Dev.ite_wf (Dev.ite_wf (Dev.err_wf (Dev.setFld_wf (Dev.setHash_wf (Dev.foldl_wf (fun _ _ hx => Dev.migrate_wf hx) h))))
    (Dev.setHash_wf (Dev.foldl_wf (fun _ _ hx => Dev.migrate_wf hx) h))) (Dev.rebuildEnd_wf
    (Dev.ite_wf (Dev.err_wf (Dev.setFld_wf (Dev.setHash_wf (Dev.foldl_wf (fun _ _ hx => Dev.migrate_wf hx) h))))
    (Dev.setHash_wf (Dev.foldl_wf (fun _ _ hx => Dev.migrate_wf hx) h)))))

theorem Dev.spadConvert_wf {n w : Nat} (h : d.Wf) : (d.spadConvert n w).Wf := by
  unfold Dev.spadConvert
  split
  · exact h
  · split
    exacts [Dev.setFld_wf h, Dev.setFlds_wf h]

theorem Dev.spadDone_wf {n : Nat} (h : d.Wf) : (d.spadDone n).Wf := by
  unfold Dev.spadDone
  split
  · exact h
  · split
    · exact Dev.setFld_wf h
    · refine Dev.setFld_wf (Dev.setFld_wf (Dev.modSlice_wf (Dev.foldl_wf (fun _ _ hx => ?_) h)))
      split
      exacts [Dev.victimOut_wf (Dev.makeRoom_wf hx), hx]

theorem Dev.loseSpad_wf {n : Nat} (h : d.Wf) : (d.loseSpad n).Wf := by
  unfold Dev.loseSpad
  dsimp only
  split
  · exact Dev.err_wf (Dev.modSlice_wf (Dev.setFlds_wf (Dev.setFld_wf h)))
  · exact Dev.modSlice_wf (Dev.setFlds_wf (Dev.setFld_wf h))

theorem Dev.failSlice_wf {n : Nat} (h : d.Wf) : (d.failSlice n).Wf := by
  unfold Dev.failSlice
  dsimp only
  split
  · split
    · exact Dev.setHash_wf (Dev.loseSpad_wf (Dev.setSliceRole_wf h))
    · exact Dev.queueRebuild_wf (Dev.setHash_wf (Dev.loseSpad_wf (Dev.setSliceRole_wf h)))
  · exact Dev.unitOff_wf (Dev.err_wf (Dev.setHash_wf (Dev.loseSpad_wf (Dev.setSliceRole_wf h))))

theorem Dev.marchStart_wf {n : Nat} {m : MarchMode} (h : d.Wf) : (d.marchStart n m).Wf := by
  unfold Dev.marchStart
  dsimp only
  split
  · exact h
  · split
    · exact Dev.setFld_wf h
    · split
      · refine Dev.setFld_wf ?_
        split
        exacts [Dev.setPower_wf h, Dev.wake_wf h]
      · refine Dev.modSlice_wf (Dev.setFld_wf ?_)
        split
        exacts [Dev.setPower_wf h, Dev.wake_wf h]

theorem Dev.showSpares_wf {n : Nat} (h : d.Wf) : (d.showSpares n).Wf :=
  Dev.setFlds_wf h

theorem Dev.storeRepairs_wf (h : d.Wf) : d.storeRepairs.Wf := by
  unfold Dev.storeRepairs
  split
  next e => exact Dev.wf_mk (Dev.wf_fst e (Dev.storeWorks_wf h))
  next e => exact Dev.err_wf (Dev.wf_mk (Dev.wf_fst e (Dev.storeWorks_wf h)))

theorem Dev.marchRepair_wf {n cells : Nat} {found : List ArrayFault} (h : d.Wf) : (d.marchRepair n cells found).1.Wf := by
  unfold Dev.marchRepair
  refine Dev.showSpares_wf (Dev.setFlds_wf ?_)
  split
  exacts [h, Dev.storeRepairs_wf (Dev.wf_mk h)]

theorem Dev.marchEnd_wf {n cells : Nat} {found : List ArrayFault} (h : d.Wf) : (d.marchEnd n cells found).Wf := by
  unfold Dev.marchEnd
  split
  · exact h
  · split
    next e => exact Dev.wf_fst e (Dev.marchRepair_wf (Dev.setFld_wf h))
    next e => exact Dev.setReg_wf (Dev.failSlice_wf (Dev.wf_fst e (Dev.marchRepair_wf (Dev.setFld_wf h))))

/-! ### Inst -/

theorem Dev.instCstat_wf {i x : Nat} (h : d.Wf) : (d.instCstat i x).Wf :=
  Dev.setFld_wf h

theorem Dev.instGo_wf {i x c : Nat} (h : d.Wf) : (d.instGo i x c).Wf :=
  Dev.setFlds_wf h

theorem Dev.instDrained_wf {i : Nat} (h : d.Wf) : (d.instDrained i).Wf := by
  unfold Dev.instDrained
  split
  exacts [Dev.instGo_wf h, h]

theorem Dev.writeTail_wf {i q v : Nat} (h : d.Wf) : (d.writeTail i q v).Wf := by
  unfold Dev.writeTail
  split
  · exact h
  · split
    exacts [Dev.countFld_wf h, Dev.setFld_wf h]

theorem Dev.writeHead_wf {i q v : Nat} (h : d.Wf) : (d.writeHead i q v).Wf := by
  unfold Dev.writeHead
  split
  exacts [h, Dev.ringLevel_wf (Dev.setFld_wf h)]

theorem Dev.queueStop_wf {key : Nat} (h : d.Wf) : (d.queueStop key).Wf :=
  Dev.countFld_wf (Dev.modQueue_wf h)

theorem Dev.engXlate_wf {e i : Nat} {ea : Word} {kind : AccKind} (h : d.Wf) : (d.engXlate e i ea kind).1.Wf := by
  unfold Dev.engXlate
  dsimp only
  have hgo : ∀ {x : Dev}, x.Wf → (match x.walk (engBy d e i) ea kind with
      | (y, .ok t) => (y, XRes.ok (if t.device || !y.engTarget t.pa then { t with mark := none, fill := none } else t))
      | r => r).1.Wf := by
    intro x hx
    split
    next e => exact Dev.wf_fst e (Dev.walk_wf hx)
    · exact Dev.walk_wf hx
  split
  next e => exact Dev.wf_fst e (Dev.settleTrans_wf hgo h)
  next e => exact Dev.wf_fst e (Dev.settleTrans_wf hgo h)
  next e => exact Dev.wf_fst e (Dev.settleTrans_wf hgo h)

theorem Dev.engRead_wf {e i n : Nat} {v : Word} {m : Nat} (h : d.Wf) : (d.engRead e i n v m).1.Wf := by
  induction n generalizing d v m with
  | zero => exact h
  | succ n ih =>
    cases m with
    | zero => exact h
    | succ m =>
      rw [Dev.engRead]
      · split
        next he => exact Dev.wf_fst he (Dev.engXlate_wf h)
        next d1 pa he =>
          have h1 : d1.Wf := Dev.wf_fst he (Dev.engXlate_wf h)
          generalize hr : d1.readBytes _ _ 2 pa _ = r
          have h2 : r.1.Wf := hr ▸ Dev.readBytes_wf h1
          exact Dev.ite_fst_wf h2 (Dev.ite_fst_wf h2 (ih h2))
      · exact Nat.succ_ne_zero m

theorem Dev.engWrite_wf {e i n : Nat} {v : Word} {l : List Byte} (h : d.Wf) : (d.engWrite e i n v l).1.Wf := by
  induction n generalizing d v l with
  | zero => exact h
  | succ n ih =>
    cases l with
    | nil => exact h
    | cons b bs =>
      rw [Dev.engWrite]
      · split
        next he => exact Dev.wf_fst he (Dev.engXlate_wf h)
        next d1 pa he =>
          have h1 : d1.Wf := Dev.wf_fst he (Dev.engXlate_wf h)
          split
          next he2 => exact Dev.wf_fst he2 (Dev.writeBytesAs_wf h1)
          next he2 => exact ih (Dev.wf_fst he2 (Dev.writeBytesAs_wf h1))
      · exact List.cons_ne_nil b bs

theorem Dev.engComplete_wf {key : Nat} {c : EngCtx} {x : EngEnd} (h : d.Wf) : (d.engComplete key c x).Wf := by
  unfold Dev.engComplete
  dsimp only
  split
  next e => exact Dev.queueStop_wf (Dev.wf_fst e (Dev.engWrite_wf h))
  next e =>
    split
    next e1 => exact Dev.queueStop_wf (Dev.wf_fst e1 (Dev.engWrite_wf (Dev.wf_fst e (Dev.engWrite_wf h))))
    next e1 =>
      split
      · exact Dev.raiseNotice_wf (Dev.ringLevel_wf (Dev.modQueue_wf (Dev.wf_fst e1 (Dev.engWrite_wf (Dev.wf_fst e (Dev.engWrite_wf h))))))
      · exact Dev.ringLevel_wf (Dev.modQueue_wf (Dev.wf_fst e1 (Dev.engWrite_wf (Dev.wf_fst e (Dev.engWrite_wf h)))))

theorem Dev.modCtx_wf {key : Nat} {f : EngCtx → EngCtx} (h : d.Wf) : (d.modCtx key f).Wf :=
  Dev.modQueue_wf h

theorem Dev.engSpill_wf {e key : Nat} (h : d.Wf) : (d.engSpill e key).Wf := by
  unfold Dev.engSpill
  dsimp only
  have h1 : d.draw.2.Wf := Dev.draw_wf h
  have hw := Dev.writeBytesAs_wf (who := .engine (Fin.ofNat 4 e)) (key := engKey d (key / 64)) (n := 33)
    (m := d.fld (.denIsave (key / 64)) .DEN_ISAVE_ADDR * 2048) (l := leBytes 2048 (Config.saveImage d.draw.1)) h1
  exact Dev.countFld_wf (Dev.modCtx_wf hw)

theorem Dev.engRestore_wf {e key n : Nat} (h : d.Wf) : (d.engRestore e key n).Wf := by
  unfold Dev.engRestore
  dsimp only
  have hr := Dev.readBytes_wf (who := .engine (Fin.ofNat 4 e)) (key := engKey d (key / 64)) (n := 33)
    (m := d.fld (.denIsave (key / 64)) .DEN_ISAVE_ADDR * 2048) (k := 2048) h
  exact Dev.modCtx_wf hr

theorem Dev.laneFree_wf {e l : Nat} (h : d.Wf) : (d.laneFree e l).Wf := by
  unfold Dev.laneFree
  refine Dev.modEngine_wf ?_
  split
  exacts [Dev.modCtx_wf h, h]

theorem Dev.instAssign_wf {i : Nat} (h : d.Wf) : (d.instAssign i).Wf := by
  unfold Dev.instAssign
  split
  · exact Dev.instCstat_wf h
  · split
    exacts [Dev.instCstat_wf h, Dev.instGo_wf h]

theorem Dev.instEnable_wf {i : Nat} (h : d.Wf) : (d.instEnable i).Wf := by
  unfold Dev.instEnable
  split
  exacts [Dev.instCstat_wf h, Dev.instGo_wf h]

theorem Dev.instQuiesce_wf {i : Nat} (h : d.Wf) : (d.instQuiesce i).Wf := by
  unfold Dev.instQuiesce
  split
  exacts [Dev.instCstat_wf h, Dev.instDrained_wf (Dev.instGo_wf h)]

theorem Dev.engAbort_wf {key : Nat} (h : d.Wf) : (d.engAbort key).Wf := by
  unfold Dev.engAbort
  split
  · exact h
  · split
    exacts [Dev.engComplete_wf h, Dev.modQueue_wf h]

theorem Dev.instAbort_wf {i : Nat} (h : d.Wf) : (d.instAbort i).Wf := by
  unfold Dev.instAbort
  split
  · exact Dev.instCstat_wf h
  · exact Dev.instDrained_wf (Dev.foldl_wf (fun _ _ hx => Dev.engAbort_wf hx) (Dev.instGo_wf h))

theorem Dev.instClear_wf {i : Nat} (h : d.Wf) : (d.instClear i).Wf :=
  Dev.setFld_wf (Dev.wf_mk h)

theorem Dev.instReset_wf {i : Nat} (h : d.Wf) : (d.instReset i).Wf := by
  unfold Dev.instReset
  split
  exacts [Dev.instCstat_wf (Dev.instClear_wf h), Dev.instCstat_wf h]

theorem Dev.instRemove_wf {i : Nat} (h : d.Wf) : (d.instRemove i).Wf := by
  unfold Dev.instRemove
  split
  · exact Dev.setReg_wf (Dev.setReg_wf (Dev.setReg_wf (Dev.setReg_wf (Dev.instClear_wf h))))
  · exact Dev.instCstat_wf h

theorem Dev.tenantMail_wf {i : Nat} (h : d.Wf) : (d.tenantMail i).Wf := by
  unfold Dev.tenantMail
  split
  exacts [Dev.report_wf h, h]

theorem Dev.mailTxGo_wf {i : Nat} (h : d.Wf) : (d.mailTxGo i).Wf :=
  Dev.wire_wf (Dev.setFld_wf h)

theorem Dev.mailTxAck_wf {i : Nat} (h : d.Wf) : (d.mailTxAck i).Wf :=
  Dev.tenantMail_wf (Dev.setFld_wf h)

theorem Dev.mailRxGo_wf {i : Nat} (h : d.Wf) : (d.mailRxGo i).Wf :=
  Dev.tenantMail_wf (Dev.setFld_wf h)

theorem Dev.mailRxAck_wf {i : Nat} (h : d.Wf) : (d.mailRxAck i).Wf :=
  Dev.wire_wf (Dev.setFld_wf h)

/-! ### Eng -/

theorem Dev.purgeLine_wf {ln : Nat} (h : d.Wf) : (d.purgeLine ln).Wf := by
  unfold Dev.purgeLine
  refine Dev.dropDir_wf (Dev.dropLlc_wf ?_)
  split
  · refine Dev.snoopAll_wf ?_
    split
    exacts [Dev.wait_wf h, h]
  · split
    exacts [Dev.wait_wf h, h]

theorem Dev.farZero_wf {g : Nat} (h : d.Wf) : (d.farZero g).Wf :=
  Dev.foldl_wf (fun _ _ hx => Dev.farPost_wf hx) h

theorem Dev.zeroGranule_wf {pa : Nat} (h : d.Wf) : (d.zeroGranule pa).Wf := by
  unfold Dev.zeroGranule
  extract_lets g d1
  have h1 : d1.Wf := Dev.foldl_wf (fun _ _ hx => Dev.noteOutside_wf (Dev.purgeLine_wf hx)) h
  clear_value d1 g
  split
  · exact Dev.mcZero_wf _ _ (Dev.wake_wf h1)
  · exact Dev.farZero_wf h1
  · exact Memory.wf_filter (fun e => e.1 / 4096 != g) h1

theorem Dev.engCrypto_wf {e i : Nat} {c : EngCtx} (h : d.Wf) : (d.engCrypto e i c).1.Wf := by
  unfold Dev.engCrypto
  split
  next e => exact Dev.wf_fst e (Dev.engRead_wf h)
  next e =>
    split
    · exact Dev.wf_fst e (Dev.engRead_wf h)
    · split
      · split
        next e1 => exact Dev.wf_fst e1 (Dev.engRead_wf (Dev.wf_fst e (Dev.engRead_wf h)))
        next e1 => exact Dev.wf_fst e1 (Dev.engRead_wf (Dev.wf_fst e (Dev.engRead_wf h)))
      · exact Dev.wf_fst e (Dev.engRead_wf h)

theorem Dev.engRoom_wf {e : Nat} (h : d.Wf) : (d.engRoom e).Wf := by
  unfold Dev.engRoom
  split
  · exact h
  · split
    exacts [Dev.engSpill_wf h, h]

theorem Dev.engBegin_wf {e l key : Nat} (h : d.Wf) : (d.engBegin e l key).Wf := by
  unfold Dev.engBegin
  extract_lets i q d0 held hold head ea _
  have h0 : d0.Wf := Dev.modQueue_wf (Dev.modEngine_wf h)
  have hhold : ∀ {x}, x.Wf → (hold x).Wf := fun hx => Dev.modEngine_wf (Dev.modCtx_wf hx)
  clear_value d0 hold
  split
  · split
    · exact hhold (Dev.engRestore_wf (Dev.engRoom_wf h0))
    · exact hhold h0
  · split
    next e => exact Dev.queueStop_wf (Dev.wf_fst e (Dev.engRead_wf (Dev.engRoom_wf h0)))
    next d1 b e =>
      have h1 : d1.Wf := Dev.wf_fst e (Dev.engRead_wf (Dev.engRoom_wf h0))
      extract_lets desc st st0 c d2
      have h2 : d2.Wf := by
        clear_value st
        unfold d2
        split
        exacts [Dev.countFld_wf h1, h1]
      split
      next d3 c3 e => exact hhold (Dev.modQueue_wf (Dev.wrapFld_wf (Dev.wf_fst e (Dev.ite_fst_wf (Dev.engCrypto_wf h2) h2))))

theorem readUnit_wf {e i unit : Nat} {f : Dev → EngCtx → List Byte → Dev × EngCtx} {c : EngCtx}
    (hf : ∀ {x : Dev} {c : EngCtx} {l : List Byte}, x.Wf → (f x c l).1.Wf) (h : d.Wf) : (readUnit e i unit f d c).1.Wf := by
  unfold readUnit
  dsimp only
  split
  next e => exact Dev.wf_fst e (Dev.engRead_wf h)
  next e => exact hf (Dev.wf_fst e (Dev.engRead_wf h))

theorem writeUnit_wf {e i : Nat} {c : EngCtx} {b : List Byte} {r : Word} (h : d.Wf) : (writeUnit e i d c b r).1.Wf := by
  unfold writeUnit
  split
  next e => exact Dev.wf_fst e (Dev.engWrite_wf h)
  next e => exact Dev.wf_fst e (Dev.engWrite_wf h)

theorem copyStep_wf {e i : Nat} {c : EngCtx} (h : d.Wf) : (copyStep e i d c).1.Wf :=
  readUnit_wf writeUnit_wf h

theorem fillStep_wf {e i : Nat} {c : EngCtx} (h : d.Wf) : (fillStep e i d c).1.Wf :=
  writeUnit_wf h

theorem compareStep_wf {e i : Nat} {c : EngCtx} (h : d.Wf) : (compareStep e i d c).1.Wf := by
  unfold compareStep
  refine readUnit_wf (fun hx => ?_) h
  split
  next e => exact Dev.wf_fst e (Dev.engRead_wf hx)
  next e =>
    split <;> exact Dev.wf_fst e (Dev.engRead_wf hx)

theorem zeroStep_wf {e i : Nat} {c : EngCtx} (h : d.Wf) : (zeroStep e i d c).1.Wf := by
  unfold zeroStep
  dsimp only
  split
  · split
    next e => exact Dev.wf_fst e (Dev.engXlate_wf h)
    next e =>
      split
      · exact Dev.zeroGranule_wf (Dev.wf_fst e (Dev.engXlate_wf h))
      · exact Dev.wf_fst e (Dev.engXlate_wf h)
      · exact writeUnit_wf (Dev.wf_fst e (Dev.engXlate_wf h))
  · exact writeUnit_wf h

theorem crcStep_wf {e i : Nat} {c : EngCtx} (h : d.Wf) : (crcStep e i d c).1.Wf :=
  readUnit_wf (fun hx => hx) h

theorem shaEnd_wf {e i : Nat} {k : ShaKind} {c : EngCtx} {q : List (BitVec k.w)} {tail : List Byte} (h : d.Wf) :
    (shaEnd e i k d c q tail).1.Wf := by
  unfold shaEnd
  dsimp only
  split
  next e => exact Dev.wf_fst e (Dev.engWrite_wf h)
  next e => exact Dev.wf_fst e (Dev.engWrite_wf h)

theorem shaStep_wf {e i : Nat} {k : ShaKind} {c : EngCtx} (h : d.Wf) : (shaStep e i k d c).1.Wf := by
  unfold shaStep
  dsimp only
  refine readUnit_wf (fun hx => ?_) h
  split
  · exact shaEnd_wf hx
  · split
    exacts [shaEnd_wf hx, hx]

theorem gcmEnd_wf {e i : Nat} {enc : Bool} {c : EngCtx} (h : d.Wf) : (gcmEnd e i enc d c).1.Wf := by
  unfold gcmEnd
  split
  · split
    next e => exact Dev.wf_fst e (Dev.engWrite_wf h)
    next e => exact Dev.wf_fst e (Dev.engWrite_wf h)
  · exact h

theorem gcmStep_wf {e i : Nat} {enc : Bool} {c : EngCtx} (h : d.Wf) : (gcmStep e i enc d c).1.Wf := by
  unfold gcmStep
  dsimp only
  split
  · exact gcmEnd_wf h
  · refine readUnit_wf (fun hx => ?_) h
    split
    next e => exact Dev.wf_fst e (Dev.engWrite_wf hx)
    next e =>
      split
      · exact gcmEnd_wf (Dev.wf_fst e (Dev.engWrite_wf hx))
      · exact Dev.wf_fst e (Dev.engWrite_wf hx)

theorem xtsStep_wf {e i : Nat} {enc : Bool} {c : EngCtx} (h : d.Wf) : (xtsStep e i enc d c).1.Wf := by
  unfold xtsStep
  split
  exacts [h, readUnit_wf writeUnit_wf h]

theorem streamEnd_wf {e i : Nat} {c : EngCtx} {out : List Byte} {pos : Nat} {x : EngEnd} (h : d.Wf) :
    (streamEnd e i d c out pos x).1.Wf := by
  unfold streamEnd
  split
  next e => exact Dev.wf_fst e (Dev.engWrite_wf h)
  next e => exact Dev.wf_fst e (Dev.engWrite_wf h)

theorem deflateStep_wf {e i : Nat} {c : EngCtx} (h : d.Wf) : (deflateStep e i d c).1.Wf := by
  unfold deflateStep
  dsimp only
  refine readUnit_wf (fun hx => ?_) h
  split
  · exact hx
  · split <;> exact streamEnd_wf hx

theorem inflateStep_wf {e i : Nat} {c : EngCtx} (h : d.Wf) : (inflateStep e i d c).1.Wf := by
  unfold inflateStep
  dsimp only
  refine readUnit_wf (fun hx => ?_) h
  split
  · exact streamEnd_wf hx
  · exact streamEnd_wf hx
  · exact streamEnd_wf hx
  · split
    exacts [hx, streamEnd_wf hx]

theorem quantumLoop_wf {step : EngStep} {start n : Nat} {c : EngCtx}
    (hstep : ∀ {x : Dev} {c : EngCtx}, x.Wf → (step x c).1.Wf) (h : d.Wf) : (quantumLoop step start n d c).1.Wf := by
  induction n generalizing d c with
  | zero => exact h
  | succ n ih =>
    unfold quantumLoop
    exact Dev.ite_fst_wf h (ih (hstep h))

theorem Dev.quantum_wf {key units : Nat} {step : EngStep} (h : d.Wf) (hstep : ∀ {x : Dev} {c : EngCtx}, x.Wf → (step x c).1.Wf) :
    (d.quantum key units step).Wf := by
  unfold Dev.quantum
  split
  exacts [h, Dev.modCtx_wf (quantumLoop_wf hstep h)]

theorem Dev.engRun_wf {e l op units : Nat} {step : Nat → EngStep} (h : d.Wf)
    (hstep : ∀ {i : Nat} {x : Dev} {c : EngCtx}, x.Wf → (step i x c).1.Wf) : (d.engRun e l op units step).Wf := by
  unfold Dev.engRun
  dsimp only
  refine Dev.ite_wf h ?_
  split
  · split
    · exact Dev.ite_wf h (Dev.quantum_wf h hstep)
    · exact h
  · split
    · exact h
    · exact Dev.ite_wf (Dev.quantum_wf (Dev.engBegin_wf h) hstep) h

theorem Dev.laneNext_wf {e l : Nat} (h : d.Wf) : (d.laneNext e l).Wf := by
  unfold Dev.laneNext
  split
  · exact h
  · split
    exacts [Dev.engBegin_wf h, h]

theorem Dev.quantumEnd_wf {e l : Nat} (h : d.Wf) : (d.quantumEnd e l).Wf := by
  unfold Dev.quantumEnd
  refine Dev.ite_wf h ?_
  split
  · exact Dev.laneNext_wf h
  · split
    · exact Dev.laneNext_wf (Dev.laneFree_wf h)
    · refine Dev.ite_wf h ?_
      split
      · exact Dev.laneNext_wf (Dev.instDrained_wf (Dev.engComplete_wf (Dev.laneFree_wf h)))
      · exact Dev.ite_wf (Dev.laneNext_wf (Dev.instDrained_wf (Dev.engAbort_wf (Dev.laneFree_wf h))))
          (Dev.ite_wf (Dev.laneNext_wf (Dev.laneFree_wf h)) (Dev.modQueue_wf (Dev.modEngine_wf (Dev.modCtx_wf h))))

theorem Dev.spadStarve_wf {n us e l : Nat} {ea : Word} (h : d.Wf) : (d.spadStarve n us e l ea).Wf := by
  unfold Dev.spadStarve
  refine Dev.ite_wf (Dev.ite_wf (Dev.countFld_wf h) h) ?_
  split
  · exact Dev.modCtx_wf (Dev.ite_wf (Dev.countFld_wf h) h)
  · exact Dev.ite_wf (Dev.countFld_wf h) h

theorem Dev.engDead_wf {e : Nat} (h : d.Wf) : (d.engDead e).Wf := by
  unfold Dev.engDead
  refine Dev.err_wf (Dev.setFld_wf (Dev.foldl_wf (fun _ _ hx => ?_) (Dev.modEngine_wf
    (Dev.foldl_wf (fun _ _ hx => Dev.engComplete_wf (Dev.countFld_wf (Dev.modCtx_wf hx))) h))))
  split
  exacts [hx, Dev.queueStop_wf hx]

theorem Dev.laneOut_wf {e l : Nat} (h : d.Wf) : (d.laneOut e l).Wf :=
  Dev.ite_wf (Dev.engDead_wf (Dev.err_wf (Dev.wire_wf (Dev.setFld_wf (Dev.laneFree_wf h)))))
    (Dev.err_wf (Dev.wire_wf (Dev.setFld_wf (Dev.laneFree_wf h))))

theorem Dev.quantumReplay_wf {e l : Nat} (h : d.Wf) : (d.quantumReplay e l).Wf := by
  unfold Dev.quantumReplay
  dsimp only
  split
  · exact h
  · split
    · exact h
    · split
      · split
        · exact Dev.laneOut_wf (Dev.modEngine_wf (Dev.countFld_wf (Dev.modCtx_wf h)))
        · exact Dev.modEngine_wf (Dev.countFld_wf (Dev.modCtx_wf h))
      · exact Dev.err_wf (Dev.countFld_wf (Dev.modCtx_wf h))

/-! ### Power -/

theorem Dev.refused_wf {k code : Nat} (h : d.Wf) : (d.refused k code).Wf :=
  Dev.countFld_wf (Dev.setFld_wf (Dev.modDom_wf h))

theorem Dev.beginEntry_wf {k : Nat} {off : Bool} (h : d.Wf) : (d.beginEntry k off).Wf := by
  unfold Dev.beginEntry
  dsimp only
  split
  · exact h
  · split
    · exact Dev.refused_wf h
    · split
      exacts [Dev.queueRebuild_wf (Dev.modDom_wf h), Dev.modDom_wf h]

theorem Dev.actLatest_wf {k : Nat} (h : d.Wf) : (d.actLatest k).Wf := by
  unfold Dev.actLatest
  split
  · exact h
  · split
    · exact h
    · exact h
    · split
      exacts [Dev.beginEntry_wf h, h]
    · split
      exacts [h, Dev.beginEntry_wf (Dev.wake_wf h)]

theorem Dev.returnSlice_wf {n : Nat} (h : d.Wf) : (d.returnSlice n).Wf := by
  unfold Dev.returnSlice
  split
  exacts [h, Dev.queueRebuild_wf h]

theorem Dev.requestDomain_wf {k : Nat} {st : PowerState} (h : d.Wf) : (d.requestDomain k st).Wf := by
  unfold Dev.requestDomain
  dsimp only
  split
  · exact h
  · split
    · split
      · exact Dev.returnSlice_wf (Dev.modDom_wf (Dev.setFld_wf h))
      · exact Dev.modDom_wf (Dev.setFld_wf h)
    · exact Dev.actLatest_wf (Dev.modDom_wf (Dev.setFld_wf h))
    · exact Dev.abortEntry_wf (Dev.modDom_wf (Dev.setFld_wf h))
    · exact Dev.modDom_wf (Dev.setFld_wf h)

theorem Dev.forgetCore_wf {c : Nat} (h : d.Wf) : (d.forgetCore c).Wf :=
  Dev.wf_mk h

theorem Dev.autoRetention_wf {k : Nat} (h : d.Wf) : (d.autoRetention k).Wf := by
  unfold Dev.autoRetention
  split
  · split
    exacts [Dev.refused_wf h, Dev.setPower_wf h]
  · exact h

theorem Dev.enterRetention_wf {k : Nat} (h : d.Wf) : (d.enterRetention k).Wf := by
  unfold Dev.enterRetention
  dsimp only
  split
  · exact h
  · split
    · split
      · exact Dev.actLatest_wf (Dev.setPower_wf (Dev.modDom_wf (Dev.actLatest_wf h)))
      · split
        exacts [Dev.abortEntry_wf (Dev.actLatest_wf h), Dev.actLatest_wf h]
    · split
      · exact h
      · split
        · exact Dev.refused_wf h
        · split
          exacts [Dev.setFld_wf (Dev.setPower_wf h), Dev.setPower_wf h]

theorem Dev.exitRetention_wf {k : Nat} (h : d.Wf) : (d.exitRetention k).Wf := by
  unfold Dev.exitRetention
  split
  exacts [Dev.actLatest_wf (Dev.wake_wf (Dev.wake_wf h)), h]

theorem Dev.enterOff_wf {k : Nat} (h : d.Wf) : (d.enterOff k).Wf := by
  unfold Dev.enterOff
  extract_lets d1 ready
  have h1 : d1.Wf := Dev.ite_wf (Dev.actLatest_wf h) h
  have hoff : ∀ {c : Prop} [Decidable c], (if c then d1.unitOff k else d1).Wf := Dev.ite_wf (Dev.unitOff_wf h1) h1
  refine Dev.ite_wf (Dev.abortEntry_wf h1) (Dev.ite_wf (Dev.ite_wf ?_ h1) (Dev.ite_wf hoff (Dev.ite_wf hoff (Dev.ite_wf hoff h1))))
  exact Dev.unitOff_wf (Dev.forgetCore_wf (Dev.cleanCore_wf (Dev.drainStores_wf h1)))

theorem Dev.startCore_wf {c : Nat} {pc : Word} (h : d.Wf) : (d.startCore c pc).Wf :=
  Dev.applyPatch_wf (Dev.modCore_wf h)

theorem Dev.wakeOff_wf {k : Nat} (h : d.Wf) : (d.wakeOff k).Wf := by
  unfold Dev.wakeOff
  split
  · exact h
  · split
    · exact Dev.setReg_wf (Dev.setReg_wf (Dev.startCore_wf (Dev.modDom_wf (Dev.setReg_wf (Dev.setPower_wf (Dev.wake_wf h))))))
    · split
      · exact Dev.queueRebuild_wf (Dev.showSpares_wf (Dev.modSlice_wf (Dev.draw_wf
          (Dev.modDom_wf (Dev.setReg_wf (Dev.setPower_wf (Dev.wake_wf h)))))))
      · exact Dev.modDom_wf (Dev.setReg_wf (Dev.setPower_wf (Dev.wake_wf h)))

/-! ### Dram -/

theorem Dev.leak_wf (h : d.Wf) : d.leak.Wf := by
  unfold Dev.leak
  exact Dev.foldl_wf (fun _ _ hx => Dev.foldl_wf (fun _ _ hy => Dev.ite_wf (Dev.setCeArmed_wf (Dev.ite_wf (Dev.setCeLevel_wf hy) hy))
    (Dev.ite_wf (Dev.setCeLevel_wf hy) hy)) hx) h

theorem Dev.chanFail_wf {ch : Nat} (h : d.Wf) : (d.chanFail ch).Wf := by
  unfold Dev.chanFail
  refine Dev.err_wf (Dev.lastUe_wf (Dev.setFld_wf (Dev.modChan_wf ?_)))
  split
  exacts [Dev.setFlds_wf h, h]

theorem Dev.retrainBegin_wf {ch : Nat} (h : d.Wf) : (d.retrainBegin ch).Wf := by
  unfold Dev.retrainBegin
  split
  exacts [Dev.countFld_wf (Dev.setFld_wf (Dev.modChan_wf h)), h]

theorem Dev.retrainEnd_wf {ch : Nat} {ok : Bool} (h : d.Wf) : (d.retrainEnd ch ok).Wf := by
  unfold Dev.retrainEnd
  split
  · exact h
  · split
    · exact Dev.err_wf (Dev.setFld_wf (Dev.foldl_wf (fun _ _ hx => Dev.mcPerform_wf _ _ hx) h))
    · exact Dev.chanFail_wf h

theorem Dev.loseZeroLine_wf {ch z : Nat} (h : d.Wf) : (d.loseZeroLine ch z).Wf := by
  unfold Dev.loseZeroLine
  refine Dev.err_wf (Dev.lastUe_wf (Dev.foldl_wf (fun _ _ hx => ?_) h))
  split
  · exact hx
  · exact Dev.wf_mk (Dev.modChan_wf (Dev.foldl_wf (fun _ _ hy => Dev.loseLine_wf hy) hx))

theorem Dev.mcRead_wf {ch : Nat} {l : McLine} {f : ReadAttempt} (h : d.Wf) : (d.mcRead ch l f).Wf := by
  unfold Dev.mcRead
  dsimp only
  split
  · exact h
  · split
    · split
      · split
        · exact Dev.wake_wf h
        · split
          exacts [Dev.wait_wf (Dev.wake_wf h), Dev.addRead_wf (Dev.wake_wf h)]
      · exact Dev.wake_wf h
    · split
      · exact Dev.wake_wf h
      · split
        · exact Dev.wake_wf h
        · exact Dev.retryClean_wf (Dev.wake_wf h)
        · exact Dev.bucket_wf (Dev.report_wf (Dev.countFld_wf (Dev.lastCe_wf (Dev.wake_wf h))))
        · exact Dev.loseZeroLine_wf (Dev.countFld_wf (Dev.wake_wf h))

theorem Dev.mcIssue_wf {ch : Nat} (h : d.Wf) : (d.mcIssue ch).Wf := by
  unfold Dev.mcIssue
  split
  exacts [h, Dev.mcStep_wf _ h]

theorem Dev.refreshRank_wf {ch r : Nat} (h : d.Wf) : (d.refreshRank ch r).Wf := by
  unfold Dev.refreshRank
  dsimp only
  split
  exacts [h, Dev.modChan_wf h]

theorem Dev.dimmTemps_wf {ch : Nat} {t : List Int} (h : d.Wf) : (d.dimmTemps ch t).Wf :=
  Dev.modChan_wf h

theorem Dev.mcAccept_wf {ch : Nat} {m : Msg} (h : d.Wf) : (d.mcAccept ch m).Wf := by
  unfold Dev.mcAccept
  dsimp only
  split
  · split
    exacts [h, Dev.mcWriteLine_wf _ _ _ _ _ _ _ (Dev.wake_wf h)]
  · exact h

theorem Dev.freqBegin_wf {low : Bool} (h : d.Wf) : (d.freqBegin low).Wf := by
  unfold Dev.freqBegin
  dsimp only
  split
  · exact Dev.setOd_wf h
  · split
    · exact Dev.setOd_wf h
    · split
      · exact h
      · split
        · exact Dev.setOd_wf (Dev.setOd_wf h)
        · exact Dev.setOd_wf (Dev.setOd_wf (Dev.foldl_wf (fun _ _ hx => Dev.setFld_wf (Dev.modChan_wf (Dev.wake_wf hx))) h))

theorem Dev.freqEnd_wf (h : d.Wf) : d.freqEnd.Wf := by
  unfold Dev.freqEnd
  dsimp only
  split
  · exact h
  · exact Dev.setOd_wf (Dev.foldl_wf (fun _ _ hx => Dev.retrainBegin_wf (Dev.setFlds_wf hx)) h)

theorem Dev.readAgain_wf {ch : Nat} {r : RdEntry} (h : d.Wf) : (d.readAgain ch r).Wf :=
  Dev.mcReadNow_wf h

theorem Dev.alert_wf {ch : Nat} (h : d.Wf) : (d.alert ch).Wf := by
  unfold Dev.alert
  split
  · exact h
  · exact Dev.countFld_wf (Dev.modChan_wf (Dev.foldl_wf (fun _ _ hx => Dev.readAgain_wf hx)
      (Dev.foldl_wf (fun _ _ hx => Dev.mcPerform_wf _ _ hx) (Dev.foldl_wf (fun _ _ hx => Dev.readAgain_wf hx) h))))

theorem Dev.scrubGo_wf {ch : Nat} (h : d.Wf) : (d.scrubGo ch).Wf := by
  unfold Dev.scrubGo
  split
  · exact Dev.setFld_wf h
  · exact Dev.modChan_wf (Dev.setFlds_wf (Dev.setReg_wf (Dev.setReg_wf (Dev.setReg_wf (Dev.setReg_wf h)))))

theorem Dev.scrubMark_wf {ch ln : Nat} (h : d.Wf) : (d.scrubMark ch ln).Wf := by
  unfold Dev.scrubMark
  refine Dev.setFlds_wf ?_
  split
  exacts [h, Dev.setFlds_wf h]

theorem Dev.scrubRange_wf {ch n m : Nat} {l : List ReadAttempt} (h : d.Wf) : (d.scrubRange ch n m l).Wf := by
  induction n generalizing d m l with
  | zero => exact h
  | succ n ih =>
    unfold Dev.scrubRange
    split
    · refine Dev.ite_wf (ih h) ?_
      split
      next e => exact ih (Dev.countFld_wf (Dev.wf_fst e (Dev.checkLine_wf (Dev.mcFlushLine_wf _ _ h))))
      next d1 r _ e =>
        extract_lets d2 d3
        have h2 : d2.Wf := Dev.countFld_wf (Dev.wf_fst e (Dev.checkLine_wf (Dev.mcFlushLine_wf _ _ h)))
        have h3 : d3.Wf := by
          unfold d3
          split
          exacts [Dev.scrubMark_wf (Dev.countFld_wf h2), Dev.scrubMark_wf (Dev.countFld_wf h2), Dev.scrubMark_wf (Dev.countFld_wf h2), h2]
        exact ih h3
    · exact ih h

theorem Dev.scrubStop_wf {ch result lines : Nat} {found : List ReadAttempt} (h : d.Wf) : (d.scrubStop ch result lines found).Wf := by
  unfold Dev.scrubStop
  split
  exacts [h, Dev.modChan_wf (Dev.setFlds_wf (Dev.scrubRange_wf h))]

theorem Dev.scrubAbort_wf {ch lines : Nat} {found : List ReadAttempt} (h : d.Wf) : (d.scrubAbort ch lines found).Wf :=
  Dev.scrubStop_wf h

theorem Dev.scrubEnd_wf {ch : Nat} {found : List ReadAttempt} (h : d.Wf) : (d.scrubEnd ch found).Wf :=
  Dev.scrubStop_wf h

theorem Dev.patrol_wf {ch : Nat} {found : List ReadAttempt} (h : d.Wf) : (d.patrol ch found).Wf :=
  Dev.ite_wf h (Dev.ite_wf (Dev.wrapFld_wf (Dev.setFld_wf (Dev.modChan_wf (Dev.checkLine_wf (Dev.mcFlushLine_wf _ _ h)))))
    (Dev.setFld_wf (Dev.modChan_wf (Dev.checkLine_wf (Dev.mcFlushLine_wf _ _ h)))))

theorem Dev.zeroFill_wf {ch : Nat} (h : d.Wf) : (d.zeroFill ch).Wf := by
  unfold Dev.zeroFill
  dsimp only
  split
  · exact h
  · split
    · exact h
    · split
      · exact Dev.modChan_wf (Dev.fillLines_wf _ _ _ h)
      · exact Dev.fillFinish_wf _ _ (Dev.zTouch_wf h)

theorem Dev.swatchGo_wf {ch : Nat} {ctl pat scan : Word} (h : d.Wf) : (d.swatchGo ch ctl pat scan).Wf := by
  unfold Dev.swatchGo
  split
  · exact h
  · split
    · exact Dev.foldl_wf (fun _ _ hx => Dev.ite_wf (Dev.setFld_wf hx) hx) (Dev.setReg_wf
        (Dev.foldl_wf (fun _ _ hx => Dev.ite_wf (Dev.setFld_wf hx) hx) h))
    · exact Dev.setFld_wf (Dev.foldl_wf (fun _ _ hx => Dev.setReg_wf hx) (Dev.foldl_wf (fun _ _ hx => Dev.ite_wf (Dev.setFld_wf hx) hx)
        (Dev.setReg_wf (Dev.foldl_wf (fun _ _ hx => Dev.ite_wf (Dev.setFld_wf hx) hx) h))))

theorem Dev.swatchEnd_wf {ch : Nat} {received : List (List Bool)} (h : d.Wf) : (d.swatchEnd ch received).Wf := by
  unfold Dev.swatchEnd
  split
  · exact h
  · exact Dev.setFld_wf (Dev.foldl_wf (fun _ _ hx => Dev.setReg_wf hx) h)

/-! ### Gov -/

theorem Dev.vBegin_wf {k mv : Nat} (h : d.Wf) : (d.vBegin k mv).Wf := by
  unfold Dev.vBegin
  split
  · exact h
  · split
    exacts [Dev.setFlds_wf h, Dev.modDom_wf (Dev.setFlds_wf h)]

theorem Dev.vUndo_wf {k : Nat} (h : d.Wf) : (d.vUndo k).Wf := by
  unfold Dev.vUndo
  split
  exacts [Dev.modDom_wf h, h]

theorem Dev.vAim_wf {k mv : Nat} (h : d.Wf) : (d.vAim k mv).Wf :=
  Dev.vBegin_wf h

theorem Dev.choose_wf {k mv : Nat} (h : d.Wf) : (d.choose k mv).Wf :=
  Dev.wf_mk h

theorem Dev.keepChosen_wf (h : d.Wf) : d.keepChosen.Wf :=
  Dev.foldl_wf (fun _ _ hx => Dev.choose_wf hx) h

theorem Dev.vFollow_wf {k : Nat} (h : d.Wf) : (d.vFollow k).Wf := by
  unfold Dev.vFollow
  split
  · exact Dev.vAim_wf (Dev.modDom_wf h)
  · split
    exacts [Dev.vAim_wf h, h]

theorem Dev.vStep_wf {k reading : Nat} (h : d.Wf) : (d.vStep k reading).Wf :=
  Dev.ite_wf h (Dev.ite_wf (Dev.ite_wf (Dev.modDom_wf (Dev.setFlds_wf (Dev.modDom_wf (Dev.setFld_wf (Dev.setFld_wf h)))))
    (Dev.modDom_wf (Dev.modDom_wf (Dev.setFld_wf (Dev.setFld_wf h))))) (Dev.ite_wf
    (Dev.ite_wf (Dev.vFollow_wf (Dev.modDom_wf (Dev.setFlds_wf (Dev.modDom_wf (Dev.setFld_wf (Dev.setFld_wf h))))))
    (Dev.vFollow_wf (Dev.setFlds_wf (Dev.modDom_wf (Dev.setFld_wf (Dev.setFld_wf h)))))) (Dev.modDom_wf (Dev.setFld_wf (Dev.setFld_wf h)))))

theorem Dev.setGov_wf {g : Governor} (h : d.Wf) : (d.setGov g).Wf :=
  Dev.wf_mk h

theorem Dev.govLog_wf {behaviour reason applied obj old new : Nat} (h : d.Wf) : (d.govLog behaviour reason applied obj old new).Wf := by
  unfold Dev.govLog
  split
  · exact Dev.wire_wf (Dev.setFld_wf (Dev.setGov_wf h))
  · exact Dev.setFld_wf (Dev.setGov_wf h)

theorem Dev.showLimits_wf (h : d.Wf) : d.showLimits.Wf :=
  Dev.setFld_wf (Dev.foldl_wf (fun _ _ hx => Dev.setFld_wf hx) h)

theorem Dev.lowerStep_wf (h : d.Wf) : d.lowerStep.Wf := by
  unfold Dev.lowerStep
  dsimp only
  split
  exacts [h, Dev.setGov_wf h]

theorem Dev.lowerSteps_wf {n : Nat} (h : d.Wf) : (d.lowerSteps n).Wf := by
  induction n generalizing d with
  | zero =>
    exact h
  | succ n ih =>
    unfold Dev.lowerSteps
    exact ih (Dev.lowerStep_wf h)

theorem Dev.raiseStep_wf (h : d.Wf) : d.raiseStep.Wf := by
  unfold Dev.raiseStep
  dsimp only
  split
  exacts [h, Dev.setGov_wf h]

theorem Dev.raiseSteps_wf {n : Nat} (h : d.Wf) : (d.raiseSteps n).Wf := by
  induction n generalizing d with
  | zero =>
    exact h
  | succ n ih =>
    unfold Dev.raiseSteps
    exact ih (Dev.raiseStep_wf h)

theorem Dev.amount_wf {n : Nat} (h : d.Wf) : (d.amount n).1.Wf :=
  Dev.draw_wf h

theorem Dev.moveCores_wf (h : d.Wf) : d.moveCores.Wf :=
  Dev.foldl_wf (fun _ _ hx => Dev.vAim_wf hx) h

theorem Dev.dramLow_wf {low : Bool} (h : d.Wf) : (d.dramLow low).Wf := by
  unfold Dev.dramLow
  split
  exacts [Dev.freqBegin_wf h, h]

theorem Dev.reefOver_wf (h : d.Wf) : d.reefOver.Wf := by
  unfold Dev.reefOver
  dsimp only
  split
  · split
    · split
      · exact Dev.moveCores_wf (Dev.setGov_wf h)
      · exact Dev.dramLow_wf (Dev.moveCores_wf (Dev.setGov_wf h))
    · exact h
  · exact h

theorem Dev.fastLoop_wf {watts amps : Nat} (h : d.Wf) : (d.fastLoop watts amps).Wf := by
  unfold Dev.fastLoop
  dsimp only
  split
  · split
    · exact Dev.showLimits_wf h
    · exact Dev.showLimits_wf (Dev.govLog_wf (Dev.setGov_wf (Dev.amount_wf h)))
  · split
    · split
      · exact Dev.showLimits_wf (Dev.reefOver_wf h)
      · exact Dev.showLimits_wf (Dev.govLog_wf (Dev.setGov_wf (Dev.amount_wf (Dev.reefOver_wf h))))
    · exact Dev.showLimits_wf h

theorem Dev.voltLoop_wf {watts pct reason : Nat} {medium : Bool} (h : d.Wf) :
    (d.voltLoop watts pct reason medium).Wf := by
  have hset : ∀ {x : Dev} {v : Bool}, x.Wf →
      (x.setGov (if medium then { x.gov with medOn := v } else { x.gov with slowOn := v })).Wf := Dev.setGov_wf
  have hlow := Dev.amount_wf (n := 70) (Dev.keepChosen_wf h)
  have hhigh := Dev.amount_wf (n := 70) (Dev.reefOver_wf h)
  unfold Dev.voltLoop
  dsimp only
  refine Dev.ite_wf (Dev.showLimits_wf (Dev.govLog_wf (Dev.moveCores_wf (Dev.keepChosen_wf h))))
    (Dev.ite_wf (Dev.ite_wf (Dev.govLog_wf h) ?_) (Dev.ite_wf (Dev.ite_wf (Dev.showLimits_wf (Dev.reefOver_wf h)) ?_)
    (Dev.showLimits_wf h)))
  · have h2 := hset (v := true) (Dev.lowerSteps_wf (n := (d.keepChosen.amount 70).2) hlow)
    exact Dev.showLimits_wf (Dev.govLog_wf (Dev.moveCores_wf (Dev.ite_wf (Dev.dramLow_wf h2) h2)))
  · have h2 := Dev.raiseSteps_wf (n := (d.reefOver.amount 70).2) hhigh
    exact Dev.showLimits_wf (Dev.govLog_wf (Dev.moveCores_wf (Dev.ite_wf (Dev.ite_wf (Dev.dramLow_wf (hset h2)) (hset h2)) h2)))

theorem Dev.mediumLoop_wf {watts : Nat} (h : d.Wf) : (d.mediumLoop watts).Wf :=
  Dev.voltLoop_wf (Dev.setFld_wf h)

theorem Dev.slowLoop_wf {watts : Nat} (h : d.Wf) : (d.slowLoop watts).Wf :=
  Dev.voltLoop_wf h

theorem Dev.setVoltageShown_wf {c mv : Nat} (h : d.Wf) : (d.setVoltageShown c mv).Wf := by
  unfold Dev.setVoltageShown
  split
  exacts [Dev.setOd_wf h, h]

theorem Dev.govVoltage_wf {c mv : Nat} (h : d.Wf) : (d.govVoltage c mv).Wf := by
  unfold Dev.govVoltage
  dsimp only
  split
  · exact h
  · split
    · exact Dev.govLog_wf (Dev.setVoltageShown_wf (Dev.vAim_wf (Dev.choose_wf h)))
    · split
      · exact Dev.govLog_wf (Dev.vAim_wf (Dev.choose_wf h))
      · exact Dev.govLog_wf (Dev.setVoltageShown_wf (Dev.vAim_wf (Dev.choose_wf h)))

theorem Dev.govPrefetch_wf {c usedPct dramPct : Nat} (h : d.Wf) : (d.govPrefetch c usedPct dramPct).Wf := by
  unfold Dev.govPrefetch
  dsimp only
  split
  · exact h
  · split
    · exact Dev.govLog_wf (Dev.setReg_wf h)
    · split
      · split
        exacts [Dev.setReg_wf h, h]
      · split <;> exact Dev.govLog_wf (Dev.setReg_wf h)

theorem Dev.reKey_wf {requested : Bool} (h : d.Wf) : (d.reKey requested).Wf :=
  Dev.ite_wf (Dev.govLog_wf (Dev.queueRebuild_wf h)) (Dev.ite_wf h (Dev.ite_wf (Dev.govLog_wf (Dev.queueReq_wf h)) h))

theorem Dev.chooseSched_wf (h : d.Wf) : d.chooseSched.Wf := by
  unfold Dev.chooseSched
  split
  exacts [h, Dev.setGov_wf (Dev.draw_wf h)]

theorem Dev.spotChannel_wf {chans : List Nat} {live : Nat → Bool} {node : Nat} (h : d.Wf) : (d.spotChannel chans live node).Wf :=
  Dev.govLog_wf (Dev.setGov_wf h)

theorem Dev.rateWindow_wf {slices chans : List Nat} (h : d.Wf) : (d.rateWindow slices chans).Wf := by
  unfold Dev.rateWindow
  dsimp only
  split
  · refine Dev.setGov_wf ?_
    split
    · exact Dev.setHash_wf h
    · split
      · exact Dev.reKey_wf (Dev.setHash_wf h)
      · split
        exacts [Dev.govLog_wf (Dev.setHash_wf h), Dev.setHash_wf h]
  · refine Dev.chooseSched_wf (Dev.foldl_wf (fun _ _ hx => Dev.spotChannel_wf hx) (Dev.setGov_wf ?_))
    split
    · exact Dev.setHash_wf h
    · split
      · exact Dev.reKey_wf (Dev.setHash_wf h)
      · split
        exacts [Dev.govLog_wf (Dev.setHash_wf h), Dev.setHash_wf h]

theorem Dev.wayMask_wf {cls : Nat} {mask : Half} (h : d.Wf) : (d.wayMask cls mask).Wf := by
  unfold Dev.wayMask
  split
  · split
    · exact h
    · exact Dev.govLog_wf (Dev.setOd_wf (Dev.setGov_wf (Dev.foldl_wf (fun _ _ hx => Dev.setFld_wf hx) h)))
  · exact Dev.govLog_wf (Dev.setOd_wf h)
  · exact h

theorem Dev.reefAssert_wf (h : d.Wf) : d.reefAssert.Wf := by
  unfold Dev.reefAssert
  split
  · exact Dev.wf_mk h
  · refine Dev.showLimits_wf (Dev.govLog_wf (Dev.dramLow_wf (Dev.foldl_wf (fun _ _ hx => ?_)
      (Dev.setGov_wf (Dev.setFld_wf (Dev.wf_mk (Dev.keepChosen_wf h)))))))
    split
    · split
      exacts [Dev.vUndo_wf hx, hx]
    · exact Dev.vAim_wf hx

theorem Dev.reefRelease_wf (h : d.Wf) : d.reefRelease.Wf :=
  Dev.setGov_wf (Dev.setFld_wf (Dev.wf_mk h))

theorem Dev.thermal_wf {k : Nat} {l : List Int} (h : d.Wf) : (d.thermal k l).Wf := by
  unfold Dev.thermal
  extract_lets d0 d1 v cp t held p low d2 d3 d4
  have h1 : d1.Wf := Dev.setFld_wf (Dev.setFld_wf (Dev.modDom_wf h))
  have hheld : held.Wf := Dev.foldl_wf (fun _ _ hx => Dev.vAim_wf (Dev.choose_wf hx)) h1
  have h2 : d2.Wf := Dev.modDom_wf (Dev.ite_wf (Dev.choose_wf h1) h1)
  have h3 : d3.Wf := by
    refine Dev.ite_wf ?_ (Dev.vAim_wf h2)
    split
    next e => exact Dev.setGov_wf (Dev.wf_fst e (Dev.amount_wf h2))
  refine Dev.ite_wf (Dev.ite_wf (Dev.ite_wf hheld (Dev.showLimits_wf (Dev.govLog_wf hheld))) h1) (Dev.ite_wf (Dev.ite_wf h1 ?_) (Dev.ite_wf ?_ h1))
  · exact Dev.showLimits_wf (Dev.govLog_wf h3)
  · exact Dev.showLimits_wf (Dev.vAim_wf (Dev.setGov_wf (Dev.modDom_wf h1)))

theorem Dev.cutNow_wf {code : Nat} {ph : Phase} (h : d.Wf) : (d.cutNow code ph).Wf :=
  Dev.wf_mk (Dev.cutDomains_wf (Dev.persistNow_wf (Dev.makeRecord_wf h)))

theorem Dev.thermTrip_wf {l : List Int} (h : d.Wf) : (d.thermTrip l).Wf := by
  unfold Dev.thermTrip
  split
  exacts [Dev.cutNow_wf (Dev.setOd_wf (Dev.wf_mk h)), h]

theorem Dev.setFo_wf {a b : Bool} (h : d.Wf) : (d.setFo a b).Wf :=
  Dev.setFlds_wf (Dev.wf_mk h)

theorem Dev.forceOffRun_wf {why : CastOffCause} (h : d.Wf) : (d.forceOffRun why).Wf := by
  unfold Dev.forceOffRun
  split
  · exact Dev.castOffRun_wf (Dev.wf_mk h)
  · exact Dev.castOffRun_wf (Dev.wf_mk h)
  · exact Dev.wf_mk (Dev.cutDomains_wf (Dev.wf_mk h))
  · exact Dev.wf_mk (Dev.cutDomains_wf (Dev.wf_mk h))
  · exact Dev.wf_mk h

theorem Dev.forceOff_wf (h : d.Wf) : d.forceOff.Wf := by
  unfold Dev.forceOff
  split
  exacts [Dev.forceOffRun_wf (Dev.setFo_wf h), h]

theorem Dev.forceOffCut_wf (h : d.Wf) : d.forceOffCut.Wf := by
  unfold Dev.forceOffCut
  split
  exacts [Dev.wf_mk (Dev.cutDomains_wf h), h]

theorem Dev.disagreeBegin_wf {b : Bool} (h : d.Wf) : (d.disagreeBegin b).Wf := by
  unfold Dev.disagreeBegin
  split
  exacts [h, Dev.setFld_wf (Dev.wf_mk (Dev.setFo_wf h))]

theorem Dev.disagreeEnd_wf {asserted : Bool} (h : d.Wf) : (d.disagreeEnd asserted).Wf := by
  unfold Dev.disagreeEnd
  dsimp only
  split
  · exact h
  · split
    · refine Dev.forceOffRun_wf ?_
      split
      · exact Dev.setFld_wf (Dev.setOd_wf (Dev.setFld_wf (Dev.wf_mk (Dev.setFo_wf h))))
      · exact Dev.setFld_wf (Dev.wf_mk (Dev.setFo_wf h))
    · split
      · exact Dev.setFld_wf (Dev.setOd_wf (Dev.setFld_wf (Dev.wf_mk (Dev.setFo_wf h))))
      · exact Dev.setFld_wf (Dev.wf_mk (Dev.setFo_wf h))

theorem Dev.discFault_wf (h : d.Wf) : d.discFault.Wf := by
  unfold Dev.discFault
  split
  · refine Dev.forceOffRun_wf (Dev.wf_mk ?_)
    split
    · exact Dev.makeRecord_wf (Dev.setOd_wf (Dev.wf_mk h))
    · exact Dev.persistNow_wf (Dev.makeRecord_wf (Dev.setOd_wf (Dev.wf_mk h)))
  · exact h

theorem Dev.noteFault_wf {k kind : Nat} (h : d.Wf) : (d.noteFault k kind).Wf :=
  Dev.wf_mk h

theorem Dev.failUnit_wf {k : Nat} (h : d.Wf) : (d.failUnit k).Wf := by
  unfold Dev.failUnit
  split
  · exact Dev.err_wf h
  · split
    · exact Dev.modCore_wf (Dev.err_wf (Dev.modDom_wf h))
    · split
      · exact Dev.failSlice_wf (Dev.err_wf (Dev.modDom_wf h))
      · split
        · exact Dev.chanFail_wf (Dev.err_wf (Dev.modDom_wf h))
        · split
          · exact Dev.err_wf (Dev.modDom_wf h)
          · exact Dev.engDead_wf (Dev.err_wf (Dev.modDom_wf h))

theorem Dev.senseFault_wf {kind k : Nat} (h : d.Wf) : (d.senseFault kind k).Wf := by
  unfold Dev.senseFault
  split
  · exact Dev.failUnit_wf (Dev.setFld_wf h)
  · split
    · exact h
    · exact Dev.govLog_wf (Dev.err_wf (Dev.noteFault_wf (Dev.vBegin_wf (Dev.modDom_wf
        (Dev.countFld_wf (Dev.setFlds_wf (Dev.setFld_wf (Dev.exitRetention_wf h))))))))

theorem Dev.senseTest_wf {k : Nat} {f : SenseReport} {others : Bool} (h : d.Wf) : (d.senseTest k f others).Wf := by
  unfold Dev.senseTest
  extract_lets d0 sp d1
  have h0 : d0.Wf := Dev.modDom_wf (Dev.setFld_wf (Dev.setFlds_wf h))
  have h1 : d1.Wf := Dev.countFld_wf h0
  refine Dev.ite_wf h (Dev.ite_wf (Dev.ite_wf ?_ (Dev.senseFault_wf h1)) (Dev.ite_wf h0 (Dev.ite_wf ?_ (Dev.ite_wf ?_ h0))))
  · exact Dev.foldl_wf (fun _ _ hx => Dev.senseFault_wf hx) h1
  · exact Dev.modDom_wf (Dev.vUndo_wf (Dev.noteFault_wf (Dev.setFld_wf h0)))
  · exact Dev.modDom_wf (Dev.err_wf (Dev.noteFault_wf (Dev.setFld_wf h0)))

theorem Dev.faultCheck_wf {k : Nat} {stillWrong : Bool} (h : d.Wf) : (d.faultCheck k stillWrong).Wf := by
  unfold Dev.faultCheck
  split
  · split
    · exact Dev.failUnit_wf (Dev.modDom_wf h)
    · exact Dev.setFld_wf (Dev.modDom_wf h)
  · exact h

theorem Dev.stewardRestart_wf {n : Nat} (h : d.Wf) : (d.stewardRestart n).Wf := by
  unfold Dev.stewardRestart
  split
  · exact h
  · refine Dev.foldl_wf (fun _ _ hx => ?_) (Dev.err_wf (Dev.countFld_wf h))
    split
    exacts [Dev.vUndo_wf hx, hx]

theorem Dev.chiefWatchdog_wf (h : d.Wf) : d.chiefWatchdog.Wf := by
  unfold Dev.chiefWatchdog
  split
  exacts [Dev.cutNow_wf h, h]

/-! ### Mgmt -/

theorem Dev.ackTinv_wf {issuer : Agent} {serial : Nat} {target : Agent} {dropped : Bool} (h : d.Wf) :
    (d.ackTinv issuer serial target dropped).Wf := by
  unfold Dev.ackTinv
  split
  exacts [Dev.modCore_wf h, h]

theorem Dev.noteApplied_wf {issuer : Agent} {serial : Nat} {target : Agent} (h : d.Wf) : (d.noteApplied issuer serial target).Wf := by
  unfold Dev.noteApplied
  split
  exacts [Dev.modCore_wf h, h]

theorem Dev.noteDropped_wf {issuer : Agent} {serial : Nat} (h : d.Wf) : (d.noteDropped issuer serial).Wf := by
  unfold Dev.noteDropped
  split
  exacts [Dev.modCore_wf h, h]

theorem Dev.xlateAck_wf {issuer : CoreId} {serial : Nat} {target : Agent} {dropped : Bool} (h : d.Wf) :
    (d.xlateAck issuer serial target dropped).Wf := by
  unfold Dev.xlateAck
  dsimp only
  split
  · exact Dev.ackTinv_wf h
  · exact Dev.ackTinv_wf h
  · split
    exacts [Dev.ackTinv_wf h, h]
  · split
    exacts [Dev.ackTinv_wf h, h]

theorem Dev.dropTarget_wf {a : Agent} (h : d.Wf) : (d.dropTarget a).Wf :=
  Dev.wf_mk h

theorem Dev.setDirEpoch_wf {c x : Nat} (h : d.Wf) : (d.setDirEpoch c x).Wf :=
  Dev.foldl_wf (fun _ _ hx => Dev.setFld_wf hx) h

theorem Dev.loseMember_wf {c : Nat} (h : d.Wf) : (d.loseMember c).Wf := by
  unfold Dev.loseMember
  dsimp only
  split
  · exact Dev.giveEnds_wf h
  · split
    · exact Dev.modCore_wf (Dev.giveEnds_wf h)
    · exact Dev.setFld_wf (Dev.modCore_wf (Dev.giveEnds_wf h))

theorem Dev.loseCore_wf {c : Nat} (h : d.Wf) : (d.loseCore c).Wf := by
  unfold Dev.loseCore
  split
  · exact Dev.wf_mk (Dev.setFlds_wf (Dev.setDirEpoch_wf (Dev.setFld_wf (Dev.loseMember_wf (Dev.modCore_wf h)))))
  · exact Dev.setDirEpoch_wf (Dev.setFld_wf (Dev.loseMember_wf (Dev.modCore_wf h)))

theorem Dev.setDead_wf {f : Fld} {i : Nat} {v : Bool} (h : d.Wf) : (d.setDead f i v).Wf :=
  Dev.foldl_wf (fun _ _ hx => Dev.setFld_wf hx) h

theorem Dev.declareDead_wf {a : DeadAgent} (h : d.Wf) : (d.declareDead a).Wf := by
  unfold Dev.declareDead
  refine Dev.tellAll_wf (Dev.setDead_wf (Dev.wf_mk (Dev.wf_mk ?_)))
  split
  · exact Dev.dropTarget_wf (Dev.loseCore_wf h)
  · exact Dev.dropTarget_wf (Dev.dropTarget_wf (Dev.loseCore_wf (Dev.loseCore_wf h)))
  · exact Dev.dropTarget_wf (Dev.setDead_wf (Dev.wf_mk h))
  · exact Dev.dropTarget_wf (Dev.setDead_wf h)

theorem Dev.walkFor_wf {n : Nat} {a : DeadAgent} (h : d.Wf) : (d.walkFor n a).1.Wf := by
  unfold Dev.walkFor
  dsimp only
  refine Dev.modSlice_wf (Dev.foldl_fst_wf (fun _ _ hx => ?_) h)
  split
  · exact Dev.dropDir_wf (Dev.lineLost_wf hx)
  · split
    exacts [Dev.dropDir_wf hx, Dev.setDir_wf hx]

theorem Dev.reclaimWalk_wf {n : Nat} (h : d.Wf) : (d.reclaimWalk n).Wf := by
  unfold Dev.reclaimWalk
  dsimp only
  split
  · exact h
  · split
    · exact Dev.modSlice_wf (Dev.foldl_fst_wf (fun _ _ hx => Dev.walkFor_wf hx) h)
    · exact Dev.errAux_wf (Dev.modSlice_wf (Dev.foldl_fst_wf (fun _ _ hx => Dev.walkFor_wf hx) h))

theorem Dev.walkDone_wf {w : Walker} (h : d.Wf) : (d.walkDone w).Wf := by
  unfold Dev.walkDone
  split
  · exact Dev.reclaimWalk_wf h
  · split
    exacts [h, Dev.wf_mk h]

theorem Dev.reclaimEnd_wf (h : d.Wf) : d.reclaimEnd.Wf := by
  unfold Dev.reclaimEnd
  split
  exacts [h, Dev.setDead_wf (Dev.wf_mk h)]

theorem Dev.readmitCore_wf {c : Nat} (h : d.Wf) : (d.readmitCore c).Wf := by
  unfold Dev.readmitCore
  split
  · exact h
  · split
    · exact Dev.setFld_wf (Dev.modCore_wf (Dev.setReg_wf (Dev.setDirEpoch_wf (Dev.setFld_wf h))))
    · exact Dev.setPower_wf (Dev.setFld_wf (Dev.modCore_wf (Dev.setReg_wf (Dev.setDirEpoch_wf (Dev.setFld_wf h)))))

theorem Dev.readmit_wf {a : DeadAgent} (h : d.Wf) : (d.readmit a).Wf := by
  unfold Dev.readmit
  dsimp only
  split
  · exact h
  · split
    · exact Dev.readmitCore_wf (Dev.wf_mk h)
    · exact Dev.readmitCore_wf (Dev.readmitCore_wf (Dev.wf_mk h))
    · exact h
    · split
      exacts [Dev.setDead_wf (Dev.wf_mk h), h]

theorem Dev.xlateInv_wf {target : Agent} {v : Tinv} (h : d.Wf) : (d.xlateInv target v).Wf := by
  unfold Dev.xlateInv
  dsimp only
  split
  · exact Dev.modCore_wf (Dev.noteApplied_wf h)
  · exact Dev.modEngine_wf (Dev.noteApplied_wf h)
  · exact Dev.modStop_wf (Dev.noteApplied_wf h)
  · split
    exacts [Dev.wf_mk (Dev.noteApplied_wf h), Dev.noteApplied_wf h]
  · exact Dev.noteApplied_wf h

theorem Dev.atEngine_wf {i : Nat} {f : Dev → Dev} (h : d.Wf) (hf : ∀ {x : Dev}, x.Wf → (f x).Wf) : (d.atEngine i f).Wf := by
  unfold Dev.atEngine
  dsimp only
  split
  exacts [h, hf (Dev.wake_wf h)]

/-! ### Ports -/

theorem Dev.cfgPut_wf {g dev off : Nat} {v : Word32} (h : d.Wf) : (d.cfgPut g dev off v).Wf :=
  Dev.modStop_wf h

theorem Dev.cfgSet_wf {p off bits : Nat} (h : d.Wf) : (d.cfgSet p off bits).Wf :=
  Dev.cfgPut_wf h

theorem Dev.cfgWrite_wf {g dev r size : Nat} {v : Word} (h : d.Wf) : (d.cfgWrite g dev r size v).Wf :=
  Dev.cfgPut_wf h

theorem Dev.dpcRecord_wf {p : Nat} {why : ContainCause} (h : d.Wf) : (d.dpcRecord p why).Wf := by
  unfold Dev.dpcRecord
  split
  · exact Dev.cfgSet_wf (Dev.cfgSet_wf h)
  · exact Dev.cfgSet_wf h
  · exact Dev.cfgSet_wf h
  · exact Dev.cfgSet_wf h

/-! ### Io -/

theorem Dev.answer_wf {m : Msg} {write : Bool} {v : Word} {err : Bool} (h : d.Wf) : (d.answer m write v err).Wf := by
  unfold Dev.answer
  split
  · exact Dev.send_wf h
  · split <;> exact Dev.send_wf h

theorem Dev.out_wf {v : Word} {err : Bool} (h : d.Wf) : (d.out v err).Wf :=
  Dev.wf_mk h

theorem Dev.outBegin_wf {g p : Nat} {m : Msg} {config write : Bool} {size : Nat} (h : d.Wf) : (d.outBegin g p m config write size).Wf :=
  Dev.modStop_wf h

theorem Dev.emit_wf {g o p : Nat} {config write : Bool} {size : Nat} {v : Word} (h : d.Wf) : (d.emit g o p config write size v).Wf :=
  Dev.modStop_wf h

theorem Dev.peerAccess_wf {g o size : Nat} {write : Bool} {v answer : Word} (h : d.Wf) : (d.peerAccess g o size write v answer).Wf := by
  unfold Dev.peerAccess
  split
  · split
    exacts [Dev.emit_wf h, Dev.out_wf (Dev.emit_wf h)]
  · split
    exacts [h, Dev.out_wf h]
  · split
    exacts [h, Dev.out_wf h]

theorem Dev.context_wf {g : Nat} {rid : Half} (h : d.Wf) : (d.context g rid).1.Wf := by
  unfold Dev.context
  split
  · exact h
  · extract_lets root
    split
    next e1 =>
      have h1 := Dev.wf_fst e1 (Dev.readD_wf h)
      refine Dev.ite_fst_wf h1 ?_
      extract_lets a
      split
      next e2 =>
        have h2 := Dev.wf_fst e2 (Dev.readD_wf h1)
        split
        next e3 =>
          have h3 := Dev.wf_fst e3 (Dev.readD_wf h2)
          exact Dev.ite_fst_wf h3 (Dev.modStop_wf h3)

theorem Dev.dmaFault_wf {g reason code : Nat} {rid : Half} {addr : Word} (h : d.Wf) : (d.dmaFault g reason code rid addr).Wf := by
  unfold Dev.dmaFault
  refine Dev.wire_wf ?_
  split
  · exact Dev.countFld_wf h
  · exact Dev.setReg_wf (Dev.setFlds_wf (Dev.countFld_wf h))

theorem Dev.dmaXlate_wf {g : Nat} {t : Tlp} {kind : AccKind} (h : d.Wf) : (d.dmaXlate g t kind).1.Wf := by
  unfold Dev.dmaXlate
  dsimp only
  split
  · exact h
  · split
    · split
      · exact h
      · split <;> exact h
    · split
      · exact Dev.context_wf h
      · split
        · exact Dev.context_wf h
        · split
          · split
            · exact Dev.context_wf h
            · split <;> exact Dev.context_wf h
          · split
            · split <;> exact Dev.context_wf h
            · split
              next e => exact Dev.wf_fst e (Dev.settleTrans_wf Dev.walk_wf (Dev.context_wf h))
              next e => exact Dev.wf_fst e (Dev.settleTrans_wf Dev.walk_wf (Dev.context_wf h))
              next e =>
                split <;> exact Dev.wf_fst e (Dev.settleTrans_wf Dev.walk_wf (Dev.context_wf h))

theorem Dev.inboundRead_wf {g : Nat} {t : Tlp} (h : d.Wf) : (d.inboundRead g t).Wf := by
  unfold Dev.inboundRead
  split
  · exact h
  · split
    next e => exact Dev.out_wf (Dev.dmaFault_wf (Dev.wf_fst e (Dev.dmaXlate_wf h)))
    next e =>
      split
      · split
        · exact Dev.peerAccess_wf (Dev.draw_wf (Dev.wf_fst e (Dev.dmaXlate_wf h)))
        · split
          · exact Dev.out_wf (Dev.wf_fst e (Dev.dmaXlate_wf h))
          · split
            next e1 => exact Dev.wf_fst e1 (Dev.farGet_wf (Dev.wf_fst e (Dev.dmaXlate_wf h)))
            next e1 => exact Dev.out_wf (Dev.wf_fst e1 (Dev.farGet_wf (Dev.wf_fst e (Dev.dmaXlate_wf h))))
      · exact Dev.out_wf (Dev.readBytes_wf (Dev.wf_fst e (Dev.dmaXlate_wf h)))

theorem Dev.inboundWrite_wf {g : Nat} {t : Tlp} {b : List Byte} (h : d.Wf) : (d.inboundWrite g t b).Wf := by
  unfold Dev.inboundWrite
  dsimp only
  split
  · exact h
  · split
    · split
      · refine Dev.dmaFault_wf ?_
        split
        exacts [Dev.context_wf h, h]
      · refine Dev.msgDoorbell_wf ?_
        split
        exacts [Dev.context_wf h, h]
    · split
      next e => exact Dev.dmaFault_wf (Dev.wf_fst e (Dev.dmaXlate_wf h))
      next e =>
        split
        · split
          · exact Dev.peerAccess_wf (Dev.wf_fst e (Dev.dmaXlate_wf h))
          · split
            · exact Dev.farPost_wf (Dev.wf_fst e (Dev.dmaXlate_wf h))
            · exact Dev.wf_fst e (Dev.dmaXlate_wf h)
        · split
          · exact Dev.errAt_wf (Dev.writeBytesAs_wf (Dev.wf_fst e (Dev.dmaXlate_wf h)))
          · exact Dev.writeBytesAs_wf (Dev.wf_fst e (Dev.dmaXlate_wf h))

theorem Dev.inboundAtomic_wf {g : Nat} {t : Tlp} {k : AtomicKind} {operand compare : Word} (h : d.Wf) :
    (d.inboundAtomic g t k operand compare).Wf := by
  unfold Dev.inboundAtomic
  dsimp only
  split
  · exact h
  · split
    next e => exact Dev.out_wf (Dev.dmaFault_wf (Dev.wf_fst e (Dev.dmaXlate_wf h)))
    next e =>
      split
      · exact Dev.out_wf (Dev.readBytes_wf (Dev.wf_fst e (Dev.dmaXlate_wf h)))
      · refine Dev.out_wf ?_
        split
        · exact Dev.errAt_wf (Dev.writeBytesAs_wf (Dev.readBytes_wf (Dev.wf_fst e (Dev.dmaXlate_wf h))))
        · exact Dev.writeBytesAs_wf (Dev.readBytes_wf (Dev.wf_fst e (Dev.dmaXlate_wf h)))

theorem Dev.translationRequest_wf {g : Nat} {t : Tlp} (h : d.Wf) : (d.translationRequest g t).Wf := by
  unfold Dev.translationRequest
  dsimp only
  split
  · exact h
  · split
    · exact Dev.out_wf (Dev.dmaFault_wf h)
    · split
      · exact Dev.out_wf (Dev.dmaFault_wf h)
      · split
        · exact Dev.out_wf (Dev.dmaFault_wf (Dev.context_wf h))
        · split
          · exact Dev.out_wf (Dev.dmaFault_wf (Dev.context_wf h))
          · split
            next e => exact Dev.out_wf (Dev.dmaFault_wf (Dev.wf_fst e (Dev.dmaXlate_wf (Dev.context_wf h))))
            next e =>
              split
              · exact Dev.out_wf (Dev.modStop_wf (Dev.wf_fst e (Dev.dmaXlate_wf (Dev.context_wf h))))
              · split
                · exact Dev.out_wf (Dev.modStop_wf (Dev.wf_fst e (Dev.dmaXlate_wf (Dev.context_wf h))))
                · exact Dev.modStop_wf (Dev.wf_fst e (Dev.dmaXlate_wf (Dev.context_wf h)))

theorem Dev.holderDone_wf {g : Nat} {l : List (Agent × Nat)} {dropped : Bool} (h : d.Wf) : (d.holderDone g l dropped).Wf := by
  unfold Dev.holderDone
  exact Dev.foldl_wf (fun _ _ hx => Dev.ite_wf (Dev.ite_wf (Dev.noteDropped_wf hx) hx)
    (Dev.ackTinv_wf (Dev.ite_wf (Dev.noteDropped_wf hx) hx))) h

theorem Dev.atsRetry_wf {g : Nat} (h : d.Wf) : (d.atsRetry g).Wf := by
  unfold Dev.atsRetry
  split
  exacts [h, Dev.translationRequest_wf (Dev.modStop_wf h)]

theorem Dev.atsRetries_wf {g n : Nat} (h : d.Wf) : (d.atsRetries g n).Wf :=
  Dev.foldl_wf (fun _ _ hx => Dev.atsRetry_wf hx) h

theorem Dev.invalCompletion_wf {g : Nat} {rid tenant : Half} (h : d.Wf) : (d.invalCompletion g rid tenant).Wf := by
  unfold Dev.invalCompletion
  split
  · exact h
  · split
    · exact Dev.modStop_wf h
    · split
      · exact Dev.atsRetry_wf (Dev.holderDone_wf (Dev.modStop_wf h))
      · exact Dev.holderDone_wf (Dev.modStop_wf h)

theorem Dev.outDone_wf {g : Nat} {r : OutReq} {v : Word} {err : Bool} (h : d.Wf) : (d.outDone g r v err).Wf := by
  unfold Dev.outDone
  dsimp only
  split
  exacts [Dev.send_wf (Dev.modStop_wf h), Dev.out_wf (Dev.modStop_wf h)]

theorem Dev.contain_wf {p : Nat} {why : ContainCause} (h : d.Wf) : (d.contain p why).Wf := by
  unfold Dev.contain
  extract_lets x g down d1 d2 freed d3 d4 d4' d5 d6
  have h2 : d2.Wf := Dev.ite_wf (Dev.setFld_wf (Dev.modPort_wf h)) (Dev.modPort_wf h)
  have h4 : d4.Wf := Dev.foldl_wf (fun _ _ hx => Dev.holderDone_wf hx) (Dev.modStop_wf h2)
  have h5 : d5.Wf := Dev.foldl_wf (fun _ _ hx => Dev.outDone_wf hx) (Dev.atsRetries_wf h4)
  have h6 : d6.Wf := by
    unfold d6
    split
    · exact Dev.ite_wf (Dev.declareDead_wf h5) h5
    · exact h5
  exact Dev.ite_wf h (Dev.wire_wf (Dev.wire_wf (Dev.errAux_wf (Dev.countFld_wf (Dev.dpcRecord_wf h6)))))

theorem Dev.containRelease_wf {p : Nat} (h : d.Wf) : (d.containRelease p).Wf := by
  unfold Dev.containRelease
  split
  exacts [h, Dev.setFld_wf (Dev.modPort_wf (Dev.cfgPut_wf h))]

theorem Dev.headerWrite_wf {g dev r size : Nat} {v : Word} (h : d.Wf) : (d.headerWrite g dev r size v).Wf := by
  unfold Dev.headerWrite
  dsimp only
  split
  · exact Dev.modPort_wf (Dev.cfgWrite_wf h)
  · split
    exacts [Dev.contain_wf (Dev.cfgWrite_wf h), Dev.cfgWrite_wf h]
  · split
    exacts [Dev.containRelease_wf (Dev.cfgWrite_wf h), Dev.cfgWrite_wf h]
  · exact Dev.cfgWrite_wf h

theorem Dev.atsTimeout_wf {g : Nat} {rid tenant : Half} (h : d.Wf) : (d.atsTimeout g rid tenant).Wf := by
  unfold Dev.atsTimeout
  dsimp only
  split
  · exact h
  · refine Dev.contain_wf ?_
    split
    · refine Dev.atsRetry_wf (Dev.wire_wf (Dev.holderDone_wf (Dev.countFld_wf (Dev.setFlds_wf (Dev.modStop_wf ?_)))))
      split
      · exact Dev.context_wf h
      · refine Dev.modStop_wf ?_
        split
        · exact Dev.readD_wf (Dev.context_wf h)
        · exact Dev.writeD_wf (Dev.readD_wf (Dev.context_wf h))
    · refine Dev.wire_wf (Dev.holderDone_wf (Dev.countFld_wf (Dev.setFlds_wf (Dev.modStop_wf ?_))))
      split
      · exact Dev.context_wf h
      · refine Dev.modStop_wf ?_
        split
        · exact Dev.readD_wf (Dev.context_wf h)
        · exact Dev.writeD_wf (Dev.readD_wf (Dev.context_wf h))

theorem Dev.ctxInvGo_wf {g : Nat} (h : d.Wf) : (d.ctxInvGo g).Wf :=
  Dev.setFld_wf h

theorem Dev.ctxInval_wf {g : Nat} {first last : Half} (h : d.Wf) : (d.ctxInval g first last).Wf := by
  unfold Dev.ctxInval
  split
  exacts [h, Dev.setFld_wf (Dev.modStop_wf h)]

theorem Dev.mmioAccess_wf {m : Msg} {write : Bool} {size g o : Nat} (h : d.Wf) : (d.mmioAccess m write size g o).Wf := by
  unfold Dev.mmioAccess
  dsimp only
  split
  · exact Dev.answer_wf (Dev.beginTxn_wf h)
  · exact Dev.answer_wf (Dev.beginTxn_wf h)
  · split
    · exact Dev.answer_wf (Dev.headerWrite_wf (Dev.beginTxn_wf h))
    · exact Dev.answer_wf (Dev.beginTxn_wf h)
  · split
    · exact Dev.answer_wf (Dev.emit_wf (Dev.beginTxn_wf h))
    · exact Dev.outBegin_wf (Dev.emit_wf (Dev.beginTxn_wf h))

theorem Dev.windowAccess_wf {m : Msg} {write : Bool} {size : Nat} (h : d.Wf) : (d.windowAccess m write size).Wf := by
  unfold Dev.windowAccess
  dsimp only
  split
  exacts [h, Dev.mmioAccess_wf h]

theorem Dev.configAccess_wf {m : Msg} {write : Bool} {size : Nat} (h : d.Wf) : (d.configAccess m write size).Wf := by
  unfold Dev.configAccess
  dsimp only
  split
  exacts [h, Dev.mmioAccess_wf h]

theorem Dev.inboundCompletion_wf {g tag : Nat} {v : Word} {ok poison : Bool} (h : d.Wf) : (d.inboundCompletion g tag v ok poison).Wf := by
  unfold Dev.inboundCompletion
  split
  · exact h
  · split
    · exact Dev.outDone_wf h
    · split <;> exact Dev.outDone_wf h

theorem Dev.completionTimeout_wf {g tag : Nat} (h : d.Wf) : (d.completionTimeout g tag).Wf := by
  unfold Dev.completionTimeout
  split
  · exact h
  · exact Dev.wire_wf (Dev.err_wf (Dev.cfgSet_wf (Dev.outDone_wf h)))

theorem Dev.cxlRequest_wf {i : CxlId} {t : Tlp} {q : CxlReq} {x : Line} (h : d.Wf) :
    (d.cxlRequest i t q x).Wf := by
  unfold Dev.cxlRequest
  dsimp only
  split
  · exact h
  next p _ =>
    refine Dev.ite_wf h (Dev.ite_wf (Dev.out_wf (Dev.dmaFault_wf h)) ?_)
    have h1 := Dev.context_wf (g := stopOfPort p) (rid := t.rid) h
    split
    · exact Dev.out_wf (Dev.dmaFault_wf h1)
    · refine Dev.ite_wf (Dev.out_wf (Dev.dmaFault_wf h1)) (Dev.ite_wf (Dev.out_wf (Dev.dmaFault_wf h1)) ?_)
      split
      · exact h1
      · exact Dev.out_wf (Dev.ite_wf (Dev.noteOutside_wf (Dev.homeServe_wf h1)) (Dev.homeServe_wf h1))

theorem Dev.inboundWriteFrom_wf {g : Nat} {t : Tlp} {b : List Byte} (h : d.Wf) : (d.inboundWriteFrom g t b).Wf := by
  unfold Dev.inboundWriteFrom
  dsimp only
  split
  · exact Dev.inboundWrite_wf h
  · split
    · exact Dev.inboundWrite_wf h
    · split
      · refine Dev.dmaFault_wf ?_
        split
        exacts [Dev.context_wf h, h]
      · split
        · refine Dev.countFld_wf ?_
          split
          exacts [Dev.context_wf h, h]
        · refine Dev.cross_wf ?_
          split
          exacts [Dev.context_wf h, h]

theorem Dev.proxySnoop_wf {o : Opc} {m : Msg} (h : d.Wf) : (d.proxySnoop o m).1.Wf := by
  unfold Dev.proxySnoop
  dsimp only
  split
  · exact h
  · refine Dev.ite_fst_wf (Dev.ite_wf (Dev.setDir_wf (Dev.snoopAll_wf h)) (Dev.dropDir_wf (Dev.dropLlc_wf (Dev.snoopAll_wf h)))) ?_
    split
    · exact Dev.ite_wf (Dev.setDir_wf (Dev.snoopAll_wf h)) (Dev.dropDir_wf (Dev.dropLlc_wf (Dev.snoopAll_wf h)))
    · exact Dev.ite_fst_wf (Dev.ite_wf (Dev.setDir_wf (Dev.snoopAll_wf h)) (Dev.dropDir_wf (Dev.dropLlc_wf (Dev.snoopAll_wf h))))
        (Dev.ite_wf (Dev.setDir_wf (Dev.snoopAll_wf h)) (Dev.dropDir_wf (Dev.dropLlc_wf (Dev.snoopAll_wf h))))

theorem Dev.proxyDone_wf {o : Opc} {own : Half} {m : Msg} (h : d.Wf) : (d.proxyDone o own m).Wf := by
  unfold Dev.proxyDone
  dsimp only
  split
  exacts [h, Dev.brxSend_wf (Dev.modLink_wf h)]

theorem Dev.inject_wf {k : Nat} {p : BrxPacket} (h : d.Wf) : (d.inject k p).Wf := by
  unfold Dev.inject
  dsimp only
  split
  · split
    exacts [Dev.send_wf (Dev.modLink_wf h), h]
  · split
    · exact Dev.send_wf h
    · split
      · exact Dev.proxyDone_wf (Dev.proxySnoop_wf (Dev.modLink_wf (Dev.linkId_wf h)))
      · exact Dev.beginTxn_wf (Dev.send_wf (Dev.modLink_wf (Dev.linkId_wf h)))

theorem Dev.brxRetry_wf {k : Nat} {p : BrxPacket} (h : d.Wf) : (d.brxRetry k p).Wf := by
  unfold Dev.brxRetry
  split
  · exact Dev.inject_wf h
  · split
    · split
      exacts [Dev.inject_wf h, Dev.brxSend_wf h]
    · exact h

theorem Dev.brxRetrain_wf {k : Nat} (h : d.Wf) : (d.brxRetrain k).Wf :=
  Dev.countFld_wf (Dev.wrapFld_wf (Dev.modLink_wf h))

theorem Dev.brxNak_wf {k : Nat} (h : d.Wf) : (d.brxNak k).Wf :=
  Dev.ite_wf (Dev.brxRetrain_wf (Dev.sendFlit_wf (Dev.modLink_wf h))) (Dev.sendFlit_wf (Dev.modLink_wf h))

theorem Dev.brxFlit_wf {k : Nat} {f : BrxFlit} (h : d.Wf) : (d.brxFlit k f).Wf :=
  Dev.ite_wf h (Dev.ite_wf (Dev.countFld_wf h) (Dev.ite_wf (Dev.brxNak_wf h) (Dev.ite_wf
    (Dev.brxRetrain_wf (Dev.brxPump_wf (Dev.foldl_wf (fun _ _ hx => Dev.ite_wf (Dev.brxRetry_wf hx) (Dev.inject_wf hx))
    (Dev.ite_wf (Dev.replayFlits_wf (Dev.modLink_wf h)) (Dev.modLink_wf h)))))
    (Dev.brxPump_wf (Dev.foldl_wf (fun _ _ hx => Dev.ite_wf (Dev.brxRetry_wf hx) (Dev.inject_wf hx))
    (Dev.ite_wf (Dev.replayFlits_wf (Dev.modLink_wf h)) (Dev.modLink_wf h)))))))

theorem Dev.keepAlive_wf {k : Nat} (h : d.Wf) : (d.keepAlive k).Wf := by
  unfold Dev.keepAlive
  split
  exacts [h, Dev.sendFlit_wf h]

theorem Dev.brxTimeout_wf {k : Nat} (h : d.Wf) : (d.brxTimeout k).Wf := by
  unfold Dev.brxTimeout
  split
  exacts [Dev.brxRetrain_wf h, h]

theorem Dev.resend_wf {k : Nat} {l : List Crossing} (h : d.Wf) : (d.resend k l).Wf :=
  Dev.foldl_wf (fun _ _ hx => Dev.brxSend_wf hx) (Dev.countFld_wf (Dev.modLink_wf h))

theorem Dev.brxFail_wf {k : Nat} {c : Crossing} (h : d.Wf) : (d.brxFail k c).Wf :=
  Dev.err_wf (Dev.send_wf (Dev.modLink_wf h))

theorem Dev.brxRetrained_wf {k : Nat} {ok : Bool} (h : d.Wf) : (d.brxRetrained k ok).Wf := by
  unfold Dev.brxRetrained
  dsimp only
  split
  · exact h
  · split
    · exact Dev.brxPump_wf (Dev.resend_wf (Dev.err_wf (Dev.modLink_wf h)))
    · split
      · refine Dev.resend_wf (Dev.modLink_wf (Dev.foldl_wf (fun _ _ hx => Dev.brxFail_wf hx) ?_))
        split
        · exact Dev.setFld_wf (Dev.err_wf (Dev.modLink_wf h))
        · exact Dev.wf_mk (Dev.setFld_wf (Dev.err_wf (Dev.modLink_wf h)))
      · refine Dev.foldl_wf (fun _ _ hx => Dev.brxFail_wf hx) ?_
        split
        · exact Dev.setFld_wf (Dev.err_wf (Dev.modLink_wf h))
        · exact Dev.wf_mk (Dev.setFld_wf (Dev.err_wf (Dev.modLink_wf h)))

theorem Dev.retriedTimeout_wf {k : Nat} {txid : Half} (h : d.Wf) : (d.retriedTimeout k txid).Wf := by
  unfold Dev.retriedTimeout
  split
  exacts [Dev.brxFail_wf h, h]

theorem Dev.peerLost_wf {w : LostPeer} (h : d.Wf) : (d.peerLost w).Wf := by
  unfold Dev.peerLost
  dsimp only
  split
  · split
    · exact h
    · split
      · exact Dev.declareDead_wf (Dev.errAux_wf h)
      · split
        exacts [Dev.err_wf h, h]
  · split
    exacts [h, Dev.declareDead_wf (Dev.errAux_wf h)]

theorem Dev.sendSync_wf (h : d.Wf) : d.sendSync.Wf :=
  Dev.tellAll_wf (Dev.wf_mk h)

theorem Dev.syncDrive_wf (h : d.Wf) : d.syncDrive.Wf := by
  unfold Dev.syncDrive
  split
  exacts [h, Dev.sendSync_wf (Dev.wf_mk h)]

theorem Dev.syncEdge_wf (h : d.Wf) : d.syncEdge.Wf := by
  unfold Dev.syncEdge
  dsimp only
  split
  · exact h
  · split
    · refine Dev.wf_mk ?_
      split
      exacts [h, Dev.draw_wf h]
    · refine Dev.wf_mk ?_
      split
      exacts [h, Dev.draw_wf h]

theorem Dev.count_wf (h : d.Wf) : d.count.Wf := by
  unfold Dev.count
  dsimp only
  split
  · exact Dev.wf_mk h
  · split
    · exact Dev.wf_mk h
    · split <;> exact Dev.wf_mk h

theorem Dev.tick_wf (h : d.Wf) : d.tick.Wf := by
  unfold Dev.tick
  split
  · exact Dev.close_wf (Dev.count_wf h) (Dev.foldl_wf (fun _ _ hx => Dev.orWait_wf hx (Dev.drainOne_wf hx)) (Dev.count_wf h))
  · exact h

theorem Dev.idle_wf (h : d.Wf) : d.idle.Wf := by
  unfold Dev.idle
  dsimp only
  split
  · exact Dev.tick_wf h
  · split
    · exact Dev.tick_wf (Dev.orWait_wf (Dev.draw_wf h) (Dev.upset_wf (Dev.draw_wf h)))
    · exact Dev.tick_wf (Dev.draw_wf h)

theorem Dev.setAllocation_wf {a : Nat} (h : d.Wf) : (d.setAllocation a).Wf :=
  Dev.setFld_wf (Dev.setGov_wf h)

theorem Dev.shareOut_wf {l : List Nat} {n : Nat} (h : d.Wf) : (d.shareOut l n).Wf := by
  induction l generalizing n d with
  | nil =>
    exact h
  | cons a l ih =>
    unfold Dev.shareOut
    dsimp only
    exact ih (Dev.ite_wf (Dev.govLog_wf (Dev.setAllocation_wf (Dev.wf_mk (Dev.amount_wf h)))) (Dev.wf_mk (Dev.amount_wf h)))

theorem Dev.budgetSplit_wf {watts : List Nat} (h : d.Wf) : (d.budgetSplit watts).Wf := by
  unfold Dev.budgetSplit
  split
  · exact Dev.shareOut_wf h
  · split
    exacts [Dev.govLog_wf (Dev.setAllocation_wf h), h]

theorem Dev.allocTimeout_wf (h : d.Wf) : d.allocTimeout.Wf := by
  unfold Dev.allocTimeout
  split
  exacts [h, Dev.govLog_wf (Dev.setAllocation_wf h)]

theorem Dev.rootPort_wf {k : Nat} (h : d.Wf) : (d.rootPort k).Wf := by
  unfold Dev.rootPort
  split
  exacts [Dev.wire_wf h, h]

/-! ### Csr -/

theorem Dev.wakeFor_wf {r : Reg} (h : d.Wf) : (d.wakeFor r).Wf := by
  unfold Dev.wakeFor
  split
  · split
    exacts [h, Dev.wake_wf h]
  · exact h

theorem Dev.csrRead_wf {o size : Nat} (h : d.Wf) : (d.csrRead o size).1.Wf := by
  unfold Dev.csrRead
  dsimp only
  split
  · exact h
  · split
    · exact h
    · split
      · exact h
      · split
        · exact h
        · split
          · exact h
          · split
            exacts [Dev.wakeFor_wf h, Dev.setReg_wf (Dev.wakeFor_wf h)]

theorem Dev.putFields_wf {r : Reg} {v reach : Word} (h : d.Wf) : (d.putFields r v reach).Wf :=
  Dev.setReg_wf h

theorem Dev.putIndex_wf {r : Reg} {v reach : Word} {g : Ring} {level : Dev → Nat} (h : d.Wf) :
    (d.putIndex r v reach g level).Wf :=
  Dev.ringLevel_wf (Dev.putFields_wf h)

theorem Dev.obsCtl_wf {q u : Nat} {v reach : Word} (h : d.Wf) : (d.obsCtl q u v reach).Wf := by
  unfold Dev.obsCtl
  split
  exacts [h, Dev.putFields_wf h]

theorem Dev.instCommand_wf {i c : Nat} (h : d.Wf) : (d.instCommand i c).Wf := by
  unfold Dev.instCommand
  split
  · exact Dev.instEnable_wf h
  · exact Dev.instQuiesce_wf h
  · exact Dev.instAbort_wf h
  · exact Dev.instReset_wf h
  · exact Dev.instRemove_wf h
  · exact Dev.instAssign_wf h
  · exact h

theorem Dev.putInst_wf {i : Nat} {r : Reg} {v reach : Word} (h : d.Wf) : (d.putInst i r v reach).Wf := by
  unfold Dev.putInst
  split
  exacts [Dev.putFields_wf h, Dev.instCstat_wf h]

theorem Dev.dropRoute_wf {m : Nat} (h : d.Wf) : (d.dropRoute m).Wf :=
  Dev.wf_mk h

theorem Dev.eqBase_wf {c : Nat} {v reach : Word} (h : d.Wf) : (d.eqBase c v reach).Wf := by
  unfold Dev.eqBase
  dsimp only
  split
  exacts [Dev.rescan_wf (Dev.putFields_wf h), Dev.putFields_wf h]

theorem Dev.putRoute_wf {n : Nat} {v reach : Word} (h : d.Wf) : (d.putRoute n v reach).Wf := by
  unfold Dev.putRoute
  dsimp only
  split
  exacts [Dev.reoffer_wf (Dev.putFields_wf h), Dev.putFields_wf h]

theorem Dev.putPdt_wf {v reach : Word} (h : d.Wf) : (d.putPdt v reach).Wf := by
  unfold Dev.putPdt
  dsimp only
  split
  · exact Dev.putFields_wf h
  · exact Dev.foldl_wf (fun _ _ hx => Dev.reoffer_wf hx) (Dev.putFields_wf h)

theorem Dev.hfwClose_wf (h : d.Wf) : d.hfwClose.Wf :=
  Dev.setFld_wf h

theorem Dev.mailAnswer_wf {p : Nat} {b : List Byte} (h : d.Wf) : (d.mailAnswer p b).Wf := by
  unfold Dev.mailAnswer
  dsimp only
  split
  · exact Dev.wire_wf (Dev.setFlds_wf (Dev.foldl_wf (fun _ _ hx => Dev.setReg_wf hx) h))
  · exact Dev.setFlds_wf (Dev.foldl_wf (fun _ _ hx => Dev.setReg_wf hx) h)

theorem Dev.mailboxGo_wf {p : Nat} (h : d.Wf) : (d.mailboxGo p).Wf := by
  unfold Dev.mailboxGo
  dsimp only
  split
  · exact h
  · split
    exacts [Dev.setFlds_wf h, Dev.mailAnswer_wf (Dev.setFlds_wf h)]

theorem Dev.csrEffect_wf {r : Reg} {v reach : Word} (h : d.Wf) : (d.csrEffect r v reach).Wf := by
  have hput : ∀ {r : Reg}, (d.putFields r v reach).Wf := Dev.putFields_wf h
  unfold Dev.csrEffect
  split
  · exact Dev.ite_wf (Dev.spadConvert_wf (Dev.setFld_wf hput)) (Dev.setFld_wf hput)
  · exact hput
  · exact Dev.ite_wf (Dev.marchStart_wf hput) hput
  · extract_lets d1 d2
    have h2 : d2.Wf := Dev.ite_wf (Dev.scrubGo_wf hput) hput
    exact Dev.ite_wf (Dev.scrubAbort_wf (Dev.draw_wf h2)) h2
  · exact Dev.obsCtl_wf h
  · exact Dev.ite_wf h hput
  · exact Dev.ite_wf h hput
  · exact Dev.ite_wf h hput
  · exact Dev.ite_wf h hput
  · exact Dev.ite_wf h hput
  · exact Dev.putIndex_wf h
  · exact Dev.ite_wf (Dev.ctxInvGo_wf hput) hput
  · exact Dev.ite_wf (Dev.dropRoute_wf h) h
  · exact h
  · exact Dev.putPdt_wf h
  · exact Dev.putRoute_wf h
  · exact Dev.eqBase_wf h
  · exact Dev.putIndex_wf h
  · exact Dev.ite_wf (Dev.rescan_wf hput) hput
  · extract_lets q d1
    have h1 : d1.Wf := Dev.setFld_wf hput
    refine Dev.ite_wf ?_ h1
    split
    · exact Dev.requestDomain_wf h1
    · exact Dev.requestDomain_wf h1
    · exact Dev.requestDomain_wf h1
    · exact h1
  · exact Dev.ite_wf (Dev.mailboxGo_wf hput) hput
  · exact Dev.ite_wf h hput
  · exact Dev.ite_wf (Dev.hfwClose_wf h) h
  · exact Dev.putIndex_wf h
  · exact h
  · exact Dev.putIndex_wf h
  · extract_lets d1
    have h1 : d1.Wf := Dev.ite_wf (Dev.ite_wf hput (Dev.instCstat_wf h)) h
    exact Dev.ite_wf (Dev.instCommand_wf h1) h1
  · exact Dev.putInst_wf h
  · exact Dev.putInst_wf h
  · exact Dev.putInst_wf h
  · extract_lets d1
    have h1 : d1.Wf := Dev.ite_wf (Dev.mailTxAck_wf h) h
    exact Dev.ite_wf (Dev.mailRxGo_wf h1) h1
  · exact Dev.ite_wf h (Dev.setReg_wf h)
  · exact Dev.ite_wf h hput
  · extract_lets d1
    have h1 : d1.Wf := Dev.ite_wf (Dev.mailTxGo_wf h) h
    exact Dev.ite_wf (Dev.mailRxAck_wf h1) h1
  · exact Dev.ite_wf h hput
  · exact Dev.ite_wf h hput
  · extract_lets d1
    have h1 : d1.Wf := Dev.ite_wf (Dev.writeTail_wf h) h
    exact Dev.ite_wf (Dev.writeHead_wf h1) h1
  · exact hput

theorem Dev.csrWrite_wf {o size : Nat} {v : Word} (h : d.Wf) : (d.csrWrite o size v).1.Wf := by
  unfold Dev.csrWrite
  split
  · exact Dev.msgDoorbell_wf h
  · split
    · exact h
    · split
      · exact h
      · split
        · exact h
        · split
          exacts [h, Dev.csrEffect_wf (Dev.wakeFor_wf h)]

theorem Dev.persistDue_wf {ok : Bool} (h : d.Wf) : (d.persistDue ok).Wf := by
  unfold Dev.persistDue
  split
  · split
    exacts [Dev.persist_wf h, h]
  · exact Dev.persist_wf h

/-! ### Dictionary -/

theorem Dev.odLong_wf {e : OdEntry} {sub : Nat} (h : d.Wf) : (d.odLong e sub).1.Wf := by
  unfold Dev.odLong
  split <;> exact h

theorem Dev.odRead_wf {e : OdEntry} {sub : Nat} (h : d.Wf) : (d.odRead e sub).1.Wf := by
  unfold Dev.odRead
  split
  exacts [Dev.odLong_wf h, h]

theorem Dev.patchWrite_wf {b : List Byte} (h : d.Wf) : (d.patchWrite b).Wf := by
  unfold Dev.patchWrite
  dsimp only
  split
  · exact Dev.setOd_wf h
  · exact Dev.foldl_wf (fun _ _ hx => Dev.setFlds_wf hx) (Dev.wf_mk (Dev.setOd_wf h))

theorem Dev.writeSettings_wf (h : d.Wf) : d.writeSettings.1.Wf := by
  unfold Dev.writeSettings
  dsimp only
  split
  · exact Dev.wf_mk (Dev.storeWorks_wf h)
  · exact Dev.err_wf (Dev.wf_mk (Dev.storeWorks_wf h))

theorem Dev.loadSettings_wf (h : d.Wf) : d.loadSettings.Wf := by
  unfold Dev.loadSettings
  dsimp only
  split
  · exact h
  · refine Dev.wf_mk (Dev.foldl_wf (fun _ _ hx => ?_) h)
    split
    · split
      · split
        exacts [Dev.wf_mk hx, Dev.setOd_wf hx]
      · exact hx
    · exact hx

/-! ### Fabric -/

theorem Dev.leave_wf {o : Opc} {m : Msg} (h : d.Wf) : (d.leave o m).Wf :=
  Dev.setFabric_wf h

theorem Dev.hold_wf {o : Opc} {m : Msg} (h : d.Wf) : (d.hold o m).Wf := by
  unfold Dev.hold
  split
  exacts [h, Dev.send_wf h]

theorem Dev.asleep_wf {e : Dev} {o : Opc} {m : Msg} (h : d.Wf) (he : d.asleep o m = some e) : e.Wf := by
  revert he
  unfold Dev.asleep
  dsimp only
  split
  · exact fun he => nomatch he
  · split
    · split
      · rintro ⟨⟩
        exact Dev.wf_mk h
      · rintro ⟨⟩
        exact Dev.modDom_wf (Dev.setFabric_wf h)
    · split
      · rintro ⟨⟩
        exact Dev.ite_wf (Dev.answer_wf (Dev.err_wf (Dev.leave_wf h))) (Dev.err_wf (Dev.leave_wf h))
      · exact fun he => nomatch he

theorem Dev.startTxn_wf {o : Opc} {m : Msg} (h : d.Wf) : (d.startTxn o m).Wf := by
  unfold Dev.startTxn
  split
  exacts [Dev.beginTxn_wf h, h]

theorem Dev.deliver_wf {o : Opc} {m : Msg} {f : Dev → Dev} (h : d.Wf) (hf : ∀ {x : Dev}, x.Wf → (f x).Wf) : (d.deliver o m f).Wf := by
  have h0 := Dev.startTxn_wf (o := o) (m := m) h
  have h1 := Dev.wakeRoute_wf (a := m.src) (b := m.dst) h0
  unfold Dev.deliver
  dsimp only
  split
  · exact Dev.hold_wf h0
  · split
    · exact Dev.lateAt_wf (Dev.leave_wf h1)
    · split
      next hs => exact Dev.asleep_wf h1 hs
      next => exact hf (Dev.abortEntry_wf (Dev.see_wf (Dev.leave_wf h1)))

theorem Dev.freshAt_wf {n : Nat} {m : Msg} {f : Dev → Dev} (h : d.Wf) (hf : ∀ {x : Dev}, x.Wf → (f x).Wf) : (d.freshAt n m f).Wf := by
  unfold Dev.freshAt
  split
  exacts [Dev.countFld_wf h, hf h]

theorem Dev.fresh_wf {m : Msg} {f : Dev → Dev} (h : d.Wf) (hf : ∀ {x : Dev}, x.Wf → (f x).Wf) : (d.fresh m f).Wf :=
  Dev.freshAt_wf h hf

theorem Dev.respond_wf {n : Nat} {o : Opc} {m : Msg} {r : HomeRes} {upgrade : Bool} (h : d.Wf) : (d.respond n o m r upgrade).Wf := by
  unfold Dev.respond
  split
  · exact Dev.send_wf h
  · split
    · exact Dev.send_wf h
    · exact Dev.send_wf h
    · exact Dev.send_wf h
    · split <;> exact Dev.send_wf h
    · exact Dev.send_wf h

theorem Dev.endTxn_wf {n : Nat} {t : HomeTxn} (h : d.Wf) : (d.endTxn n t).Wf := by
  unfold Dev.endTxn
  dsimp only
  split
  · refine Dev.cross_wf ?_
    split
    exacts [Dev.dropDir_wf (Dev.modSlice_wf h), Dev.modSlice_wf h]
  · exact Dev.respond_wf (Dev.homeFinish_wf (Dev.modSlice_wf h))

theorem Dev.tryEnd_wf {n : Nat} {t : HomeTxn} (h : d.Wf) : (d.tryEnd n t).Wf := by
  unfold Dev.tryEnd
  split
  exacts [Dev.endTxn_wf h, h]

theorem Dev.homeStart_wf {n : Nat} {o : Opc} {m : Msg} (h : d.Wf) : (d.homeStart n o m).Wf :=
  Dev.tryEnd_wf (Dev.foldl_wf (fun _ _ hx => Dev.send_wf hx) (Dev.modSlice_wf h))

theorem Dev.serveWaiting_wf {n m : Nat} (h : d.Wf) : (d.serveWaiting n m).Wf := by
  induction m generalizing d with
  | zero =>
    exact h
  | succ m ih =>
    unfold Dev.serveWaiting
    split
    · exact h
    · refine ih ?_
      split
      · exact Dev.homeStart_wf (Dev.modSlice_wf h)
      · exact Dev.send_wf (Dev.modSlice_wf h)

theorem Dev.wakeQueue_wf {n : Nat} (h : d.Wf) : (d.wakeQueue n).Wf :=
  Dev.serveWaiting_wf h

theorem Dev.spadPacket_wf {n w off : Nat} {o : Opc} {m : Msg} (h : d.Wf) : (d.spadPacket n w off o m).Wf := by
  unfold Dev.spadPacket
  dsimp only
  split
  · split
    exacts [Dev.send_wf h, Dev.send_wf (Dev.spadPutMark_wf h)]
  · exact Dev.send_wf h
  · exact Dev.send_wf h
  · exact Dev.send_wf (Dev.spadGetMark_wf h)

theorem Dev.modTxn_wf {n : Nat} {t t' : HomeTxn} (h : d.Wf) : (d.modTxn n t t').Wf :=
  Dev.wakeQueue_wf (Dev.tryEnd_wf (Dev.modSlice_wf h))

theorem Dev.homeTake_wf {o : Opc} {m : Msg} (h : d.Wf) : (d.homeTake o m).Wf := by
  unfold Dev.homeTake
  dsimp only
  split
  · exact Dev.cross_wf h
  · exact Dev.freshAt_wf h Dev.spadPacket_wf
  · refine Dev.fresh_wf h (fun hx => ?_)
    split
    · exact Dev.send_wf (Dev.modTxn_wf (Dev.ite_wf hx (Dev.ite_wf (Dev.noteOutside_wf hx) hx)))
    · exact Dev.ite_wf (Dev.wakeQueue_wf (Dev.homeStart_wf (Dev.ite_wf hx (Dev.ite_wf (Dev.noteOutside_wf hx) hx))))
        (Dev.ite_wf (Dev.setFabric_wf (Dev.countFld_wf (Dev.ite_wf hx (Dev.ite_wf (Dev.noteOutside_wf hx) hx))))
        (Dev.modSlice_wf (Dev.ite_wf hx (Dev.ite_wf (Dev.noteOutside_wf hx) hx))))

theorem Dev.answered_wf {m : Msg} {f : Nat → HomeTxn → HomeTxn} (h : d.Wf) : (d.answered m f).Wf := by
  unfold Dev.answered
  refine Dev.fresh_wf h (fun hx => ?_)
  split
  exacts [Dev.modTxn_wf hx, Dev.lateAt_wf hx]

theorem Dev.homeAck_wf {m : Msg} (h : d.Wf) : (d.homeAck m).Wf :=
  Dev.answered_wf h

theorem Dev.homeNoCopy_wf {m : Msg} (h : d.Wf) : (d.homeNoCopy m).Wf := by
  unfold Dev.homeNoCopy
  dsimp only
  split
  · split
    · exact Dev.answered_wf h
    · exact Dev.answered_wf (Dev.send_wf (Dev.modSlice_wf h))
  · exact Dev.answered_wf h

theorem Dev.homeLost_wf {m : Msg} (h : d.Wf) : (d.homeLost m).Wf :=
  Dev.answered_wf h

theorem Dev.homeSnpData_wf {m : Msg} (h : d.Wf) : (d.homeSnpData m).Wf := by
  unfold Dev.homeSnpData
  split
  · exact Dev.answered_wf h
  · refine Dev.fresh_wf h (fun hx => ?_)
    split
    exacts [Dev.victimOut_wf hx, hx]

theorem Dev.snoopAnswer_wf {o : Opc} {m : Msg} (h : d.Wf) : (d.snoopAnswer o m).Wf := by
  unfold Dev.snoopAnswer
  dsimp only
  split
  · exact Dev.send_wf (Dev.snoop_wf h)
  · split
    · exact Dev.send_wf (Dev.snoop_wf h)
    · split <;> exact Dev.send_wf (Dev.snoop_wf h)

theorem Dev.snoopArrive_wf {o : Opc} {m : Msg} (h : d.Wf) : (d.snoopArrive o m).Wf := by
  unfold Dev.snoopArrive
  dsimp only
  split
  · exact Dev.setFabric_wf h
  · split
    · split
      exacts [Dev.cross_wf h, Dev.snoopAnswer_wf h]
    · exact Dev.snoopAnswer_wf h

theorem Dev.dropTxn_wf {t : OutTxn} (h : d.Wf) : (d.dropTxn t).Wf :=
  Dev.setFabric_wf h

theorem Dev.answerHeld_wf {t : OutTxn} (h : d.Wf) : (d.answerHeld t).Wf :=
  Dev.foldl_wf (fun _ _ hx => Dev.snoopAnswer_wf hx) h

theorem Dev.complete_wf {o : Opc} {m : Msg} {f : Dev → OutTxn → Dev} (h : d.Wf) (hf : ∀ {x : Dev} {y : OutTxn}, x.Wf → (f x y).Wf) :
    (d.complete o m f).Wf := by
  unfold Dev.complete
  split
  · exact Dev.lateAt_wf h
  · split
    · exact Dev.lateAt_wf h
    · split
      · exact Dev.proxyDone_wf (Dev.dropTxn_wf h)
      · exact Dev.answerHeld_wf (hf (Dev.dropTxn_wf h))

theorem Dev.farArrive_wf {c : CoreId} {o : Opc} {m : Msg} (h : d.Wf) : (d.farArrive c o m).1.Wf := by
  unfold Dev.farArrive
  dsimp only
  split
  · split
    · exact Dev.setDir_wf h
    · split <;> exact Dev.setDir_wf (Dev.dirRoom_wf (Dev.draw_wf h))
  · refine Dev.setDir_wf ?_
    split
    exacts [Dev.dirRoom_wf (Dev.snoopAll_wf h), Dev.snoopAll_wf h]

theorem Dev.takeGrant_wf {m : Msg} (h : d.Wf) : (d.takeGrant m).Wf := by
  unfold Dev.takeGrant
  refine Dev.complete_wf h (fun hx => ?_)
  split
  · refine Dev.modCore_wf ?_
    split
    exacts [Dev.farArrive_wf hx, hx]
  · exact hx

theorem Dev.keepAnswer_wf {t : OutTxn} {x : Line} {poison err : Bool} (h : d.Wf) : (d.keepAnswer t x poison err).Wf :=
  Dev.setFabric_wf h

theorem Dev.takeData_wf {m : Msg} (h : d.Wf) : (d.takeData m).Wf := by
  unfold Dev.takeData
  dsimp only
  refine Dev.complete_wf h (fun hx => ?_)
  split
  · refine Dev.fillL2_wf ?_
    split
    exacts [Dev.farArrive_wf hx, hx]
  · split
    exacts [Dev.keepAnswer_wf hx, Dev.out_wf hx]

theorem Dev.takeCmp_wf {m : Msg} (h : d.Wf) : (d.takeCmp m).Wf := by
  unfold Dev.takeCmp
  refine Dev.complete_wf h (fun hx => ?_)
  split
  exacts [Dev.keepAnswer_wf hx, Dev.out_wf hx]

theorem Dev.failTxn_wf {who : Agent} {o : Opc} {addr : Nat} (h : d.Wf) : (d.failTxn who o addr).Wf := by
  unfold Dev.failTxn
  split
  · exact Dev.report_wf (Dev.out_wf h)
  · exact Dev.report_wf (Dev.out_wf h)
  · exact Dev.report_wf (Dev.out_wf h)
  · exact Dev.report_wf (Dev.out_wf h)
  · exact Dev.errAt_wf (Dev.out_wf h)
  · exact Dev.out_wf h

theorem Dev.takeErr_wf {m : Msg} (h : d.Wf) : (d.takeErr m).Wf := by
  unfold Dev.takeErr
  refine Dev.complete_wf h (fun hx => ?_)
  split
  exacts [Dev.keepAnswer_wf hx, Dev.failTxn_wf hx]

theorem Dev.endToEnd_wf {a : Agent} {txid : Half} (h : d.Wf) : (d.endToEnd a txid).Wf := by
  unfold Dev.endToEnd
  dsimp only
  split
  · exact h
  · split
    · split
      exacts [Dev.proxyDone_wf (Dev.setFabric_wf h), Dev.setFabric_wf h]
    · refine Dev.answerHeld_wf ?_
      split
      · exact Dev.keepAnswer_wf (Dev.setFabric_wf h)
      · exact Dev.failTxn_wf (Dev.setFabric_wf h)

theorem Dev.csrPacket_wf {m : Msg} {write : Bool} (h : d.Wf) : (d.csrPacket m write).Wf := by
  unfold Dev.csrPacket
  split
  · split
    · split
      exacts [Dev.cross_wf h, Dev.answer_wf h]
    · refine Dev.freshAt_wf h (fun hx => ?_)
      split
      · exact Dev.answer_wf (Dev.csrWrite_wf hx)
      · exact Dev.answer_wf (Dev.csrRead_wf hx)
  · exact Dev.answer_wf h

theorem Dev.devPacket_wf {m : Msg} {write : Bool} (h : d.Wf) : (d.devPacket m write).Wf := by
  unfold Dev.devPacket
  refine Dev.freshAt_wf h (fun hx => ?_)
  split
  · exact Dev.cross_wf hx
  · split
    · split
      exacts [Dev.configAccess_wf hx, Dev.windowAccess_wf hx]
    · exact Dev.answer_wf hx

theorem Dev.msgPacket_wf {m : Msg} (h : d.Wf) : (d.msgPacket m).Wf := by
  unfold Dev.msgPacket
  split
  exacts [Dev.cross_wf h, Dev.freshAt_wf h Dev.msgDoorbell_wf]

theorem Dev.linkRetry_wf {q : Nat} {l : LinkKind} {flit : BitVec 288} (h : d.Wf) : (d.linkRetry q l flit).Wf :=
  Dev.countFld_wf (Dev.setFabric_wf h)

theorem Dev.retirePort_wf {q s p : Nat} (h : d.Wf) : (d.retirePort q s p).Wf := by
  unfold Dev.retirePort
  dsimp only
  split
  · split <;> exact Dev.err_wf (Dev.setFld_wf (Dev.setFabric_wf h))
  · split
    · exact Dev.failSlice_wf (Dev.declareDead_wf (Dev.err_wf (Dev.setFld_wf (Dev.setFabric_wf h))))
    · exact Dev.err_wf (Dev.setFld_wf (Dev.setFabric_wf h))

theorem Dev.isolate_wf {q s p vc dst : Nat} (h : d.Wf) : (d.isolate q s p vc dst).Wf := by
  unfold Dev.isolate
  dsimp only
  split
  · exact h
  · split
    · exact Dev.retirePort_wf (Dev.wire_wf (Dev.err_wf (Dev.setFlds_wf (Dev.countFld_wf
        (Dev.foldl_wf (fun _ _ hx => Dev.lateAt_wf hx) (Dev.setFabric_wf (Dev.setFabric_wf h)))))))
    · exact Dev.wire_wf (Dev.err_wf (Dev.setFlds_wf (Dev.countFld_wf (Dev.foldl_wf (fun _ _ hx => Dev.lateAt_wf hx)
        (Dev.setFabric_wf (Dev.setFabric_wf h))))))

theorem Dev.wormAbort_wf {q s p : Nat} (h : d.Wf) : (d.wormAbort q s p).Wf := by
  unfold Dev.wormAbort
  split
  exacts [Dev.leave_wf (Dev.countFld_wf h), Dev.countFld_wf h]

theorem Dev.reenable_wf {q s p : Nat} {ok : Bool} (h : d.Wf) : (d.reenable q s p ok).Wf :=
  Dev.setFabric_wf h

theorem Dev.discardParked_wf {k vc : Nat} (h : d.Wf) : (d.discardParked k vc).Wf := by
  unfold Dev.discardParked
  split
  exacts [h, Dev.err_wf (Dev.setFlds_wf (Dev.setFabric_wf h))]

theorem Dev.wakeQueues_wf (h : d.Wf) : d.wakeQueues.Wf :=
  Dev.foldl_wf (fun _ _ hx => Dev.wakeQueue_wf hx) h

theorem Dev.rebuildSet_wf {late : Bool} (h : d.Wf) : (d.rebuildSet late).Wf := by
  unfold Dev.rebuildSet
  dsimp only
  split
  · exact Dev.wakeOff_wf (Dev.wakeQueues_wf (Dev.rebuildStep_wf h))
  · exact Dev.wakeQueues_wf (Dev.rebuildStep_wf h)

theorem Dev.answerDead_wf {n : Nat} (h : d.Wf) : (d.answerDead n).Wf :=
  Dev.foldl_wf (fun _ _ hx => Dev.modTxn_wf hx) h

theorem Dev.setFlushAt_wf {n set : Nat} {a : Agent} (h : d.Wf) : (d.setFlushAt n set a).Wf := by
  unfold Dev.setFlushAt
  dsimp only
  split
  next e => exact Dev.setFlush_wf (Dev.wf_fst e (Dev.reach_wf h))
  next e => exact Dev.wf_fst e (Dev.reach_wf h)

theorem Dev.walkStep_wf {w : Walker} (h : d.Wf) : (d.walkStep w).Wf := by
  unfold Dev.walkStep
  split
  exacts [Dev.walkDone_wf (Dev.answerDead_wf h), Dev.walkDone_wf h]

/-! ### Access -/

theorem Dev.xlateElem_wf {c : Nat} {kind : AccKind} {l : List (Word × Nat)} (h : d.Wf) :
    (d.xlateElem c kind l).1.Wf := by
  induction l generalizing d with
  | nil => exact h
  | cons p rest ih =>
    obtain ⟨ea, n⟩ := p
    unfold Dev.xlateElem
    split
    next e => exact Dev.wf_fst e (Dev.translateNow_wf h)
    next e => exact Dev.wf_fst e (Dev.translateNow_wf h)
    next e => exact ih (Dev.wf_fst e (Dev.translateNow_wf h))

theorem Dev.xlateAll_wf {c : Nat} {kind : AccKind} {l : List (List (Word × Nat))} (h : d.Wf) : (d.xlateAll c kind l).1.Wf := by
  induction l generalizing d with
  | nil =>
    exact h
  | cons a l ih =>
    unfold Dev.xlateAll
    exact ih (Dev.xlateElem_wf h)

theorem Dev.useTrans_wf {c : Nat} {kind : AccKind} {l : List (Part × Trans)} (h : d.Wf) :
    (d.useTrans c kind l).1.Wf := by
  induction l generalizing d with
  | nil => exact h
  | cons p rest ih =>
    obtain ⟨p, t⟩ := p
    unfold Dev.useTrans
    dsimp only
    split
    next e => exact Dev.wf_fst e (Dev.setMarks_wf h)
    next e => exact Dev.wf_fst e (Dev.setMarks_wf h)
    next e => exact ih (Dev.fillXlate_wf (Dev.wf_fst e (Dev.setMarks_wf h)))

theorem Dev.resolveN_wf {c : Nat} {kind : AccKind} {width : Part → Nat} {atomic : Bool} {els : List (List (Word × Nat))} {n : Nat}
    (h : d.Wf) : (d.resolveN c kind width atomic els n).1.Wf := by
  induction n generalizing d with
  | zero =>
    exact h
  | succ n ih =>
    unfold Dev.resolveN
    dsimp only
    split
    · exact Dev.xlateAll_wf h
    · split
      · exact Dev.xlateAll_wf h
      · split
        · exact Dev.xlateAll_wf h
        · split
          · exact Dev.xlateAll_wf h
          · split
            next e => exact Dev.wf_fst e (Dev.useTrans_wf (Dev.xlateAll_wf h))
            next e => exact ih (Dev.forgetLeaf_wf (Dev.wf_fst e (Dev.useTrans_wf (Dev.xlateAll_wf h))))
            next e => exact Dev.wf_fst e (Dev.useTrans_wf (Dev.xlateAll_wf h))
            next e => exact Dev.wf_fst e (Dev.useTrans_wf (Dev.xlateAll_wf h))

theorem Dev.resolve_wf {c : Nat} {kind : AccKind} {width : Nat} {atomic : Bool} {eas : List Word} (h : d.Wf) :
    (d.resolve c kind width atomic eas).1.Wf :=
  Dev.resolveN_wf h

theorem Dev.resolveAgain_wf {c : Nat} {kind : AccKind} {atomic : Bool} {ps : List Part} (h : d.Wf) :
    (d.resolveAgain c kind atomic ps).1.Wf :=
  Dev.resolveN_wf h

theorem Dev.readChunk_wf {c : Nat} {key : BitVec 11} {pa n : Nat} (h : d.Wf) : (d.readChunk c key pa n).1.Wf := by
  unfold Dev.readChunk
  dsimp only
  split
  · exact h
  · split
    · exact h
    · split
      · exact Dev.spadLoad_wf h
      · exact Dev.farLoad_wf h
      · exact Dev.fillL1_wf (Dev.l2Read_wf h)

theorem Dev.readNormal_wf {c : Nat} {key : BitVec 11} {n m k j : Nat} (h : d.Wf) : (d.readNormal c key n m k j).1.Wf := by
  induction n generalizing d m k j with
  | zero =>
    exact h
  | succ n ih =>
    unfold Dev.readNormal
    dsimp only
    split
    · exact h
    · split
      next e => exact Dev.wf_fst e (Dev.readChunk_wf h)
      next e => exact ih (Dev.wf_fst e (Dev.readChunk_wf h))

theorem Dev.devReadHere_wf {p : Part} (h : d.Wf) : (d.devReadHere p).1.Wf := by
  unfold Dev.devReadHere
  split
  · exact Dev.csrRead_wf h
  · split
    · exact h
    · exact h
    · exact h
    · exact Dev.draw_wf (Dev.emit_wf h)
  · exact h

theorem Dev.devRead_wf {c : Nat} {p : Part} (h : d.Wf) : (d.devRead c p).1.Wf := by
  unfold Dev.devRead
  dsimp only
  split
  · exact Dev.wait_wf h
  · split
    · exact Dev.spadLoad_wf h
    · exact Dev.farLoad_wf h
    · exact h
    · split
      · split
        next e => exact Dev.wf_fst e (Dev.reach_wf h)
        next e => exact Dev.see_wf (Dev.devReadHere_wf (Dev.wf_fst e (Dev.reach_wf h)))
      · split
        · exact h
        · split
          next e => exact Dev.wf_fst e (Dev.farGet_wf h)
          next e => exact Dev.wf_fst e (Dev.farGet_wf h)
    · split
      · split
        next e => exact Dev.wf_fst e (Dev.reach_wf h)
        next e => exact Dev.see_wf (Dev.devReadHere_wf (Dev.wf_fst e (Dev.reach_wf h)))
      · split
        · exact h
        · split
          next e => exact Dev.wf_fst e (Dev.farGet_wf h)
          next e => exact Dev.wf_fst e (Dev.farGet_wf h)
    · exact Dev.rdNa_wf h

theorem Dev.devWriteHere_wf {p : Part} {v : Word} (h : d.Wf) : (d.devWriteHere p v).1.Wf := by
  unfold Dev.devWriteHere
  split
  · exact Dev.csrWrite_wf h
  · split
    · exact h
    · exact Dev.headerWrite_wf h
    · exact Dev.emit_wf h
    · exact h
  · exact h

theorem Dev.devWrite_wf {c : Nat} {p : Part} {b : List Byte} (h : d.Wf) : (d.devWrite c p b).Wf := by
  have hpost : ∀ {o : Opc} {m : Msg}, (match d.reach o m with
      | (d1, false) => (d1, true)
      | (d1, true) =>
        let (d2, e) := d1.devWriteHere p (BitVec.ofNat 64 (leNat b))
        (d2.see (if e then .err else .cmp) (backOf m) d.time, e)).1.Wf := by
    intro o m
    split
    next e => exact Dev.wf_fst e (Dev.reach_wf h)
    next e => exact Dev.see_wf (Dev.devWriteHere_wf (Dev.wf_fst e (Dev.reach_wf h)))
  unfold Dev.devWrite
  refine Dev.ite_wf (Dev.wait_wf h) ?_
  split
  next d1 err e =>
    have h1 : d1.Wf := by
      refine Dev.wf_fst e ?_
      split
      · exact Dev.ite_fst_wf hpost (Dev.ite_fst_wf (Dev.farPost_wf h) h)
      · exact Dev.ite_fst_wf hpost (Dev.ite_fst_wf (Dev.farPost_wf h) h)
      · exact Dev.spadSave_wf h
      · exact Dev.farSave_wf h
      · exact h
      · split
        exact Dev.ioW_wf h
    exact Dev.ite_wf (Dev.report_wf h1) h1

theorem Dev.enterRead_wf {c : Nat} {p : Part} (h : d.Wf) : (d.enterRead c p).Wf := by
  unfold Dev.enterRead
  split
  exacts [Dev.modMember_wf h, h]

theorem Dev.readParts_wf {c : Nat} {l : List Part} (h : d.Wf) : (d.readParts c l).1.Wf := by
  induction l generalizing d with
  | nil =>
    exact h
  | cons a l ih =>
    unfold Dev.readParts
    refine ih ?_
    split
    exacts [Dev.devRead_wf h, Dev.readNormal_wf h]

theorem Dev.trainDependence_wf {c : Nat} {ps : List Part} (h : d.Wf) : (d.trainDependence c ps).Wf := by
  unfold Dev.trainDependence
  dsimp only
  split
  · exact h
  · split
    exacts [Dev.modCore_wf h, h]

theorem Dev.loadAll_wf {c width : Nat} {eas : List Word} {dest : LoadDest} (h : d.Wf) : (d.loadAll c width eas dest).1.Wf := by
  unfold Dev.loadAll
  split
  next e => exact Dev.wf_fst e (Dev.resolve_wf h)
  next e =>
    split
    · exact Dev.wf_fst e (Dev.resolve_wf h)
    · split
      next e1 => exact Dev.foldl_wf (fun _ _ hz => Dev.enterRead_wf hz) (Dev.modCore_wf
          (Dev.wf_fst e1 (Dev.readParts_wf (Dev.trainDependence_wf (Dev.wf_fst e (Dev.resolve_wf h))))))
      next e1 => exact Dev.wf_fst e1 (Dev.readParts_wf (Dev.trainDependence_wf (Dev.wf_fst e (Dev.resolve_wf h))))

theorem Dev.pushStore_wf {c pa : Nat} {b : List Byte} {key : BitVec 11} (h : d.Wf) : (d.pushStore c pa b key).Wf := by
  unfold Dev.pushStore
  refine Dev.modCore_wf ?_
  split
  exacts [Dev.drainOne_wf h, h]

theorem Dev.specAcquire_wf {c ln : Nat} {key : BitVec 11} (h : d.Wf) : (d.specAcquire c ln key).1.Wf := by
  unfold Dev.specAcquire
  dsimp only
  split
  · exact Dev.ite_fst_wf h (Dev.l2Own_wf h)
  · exact Dev.ite_fst_wf (Dev.ite_fst_wf h (Dev.l2Own_wf h)) (Dev.ite_fst_wf (Dev.modCore_wf
      (Dev.allocLlc_wf (Dev.ite_fst_wf h (Dev.l2Own_wf h)))) (Dev.ite_fst_wf h (Dev.l2Own_wf h)))

theorem Dev.specPut_wf {c pa : Nat} {b : List Byte} {key : BitVec 11} (h : d.Wf) : (d.specPut c pa b key).1.Wf := by
  unfold Dev.specPut
  dsimp only
  split
  · exact Dev.modMember_wf h
  · split
    next e => exact Dev.wf_fst e (Dev.specAcquire_wf h)
    next e => exact Dev.modMember_wf (Dev.wf_fst e (Dev.specAcquire_wf h))

theorem Dev.specStore_wf {c pa : Nat} {b : List Byte} {key : BitVec 11} (h : d.Wf) : (d.specStore c pa b key).Wf := by
  unfold Dev.specStore
  split
  next e => exact Dev.report_wf (Dev.wf_fst e (Dev.specPut_wf h))
  next e => exact Dev.wf_fst e (Dev.specPut_wf h)

theorem Dev.storeParts_wf {c : Nat} {l : List (Part × List Byte)} (h : d.Wf) : (d.storeParts c l).Wf := by
  unfold Dev.storeParts
  refine Dev.foldl_wf (fun _ _ hx => ?_) h
  split
  · exact Dev.devWrite_wf hx
  · refine Dev.foldl_wf (fun _ _ hy => ?_) hx
    split
    exacts [Dev.specStore_wf hy, Dev.pushStore_wf hy]

theorem Dev.storeAll_wf {c width : Nat} {eas : List Word} {b : List Byte} (h : d.Wf) : (d.storeAll c width eas b).1.Wf := by
  unfold Dev.storeAll
  dsimp only
  split
  next e => exact Dev.wf_fst e (Dev.resolve_wf h)
  next e =>
    split
    · exact Dev.storeParts_wf (Dev.wf_fst e (Dev.resolve_wf h))
    · split
      · exact Dev.wf_fst e (Dev.resolve_wf h)
      · split
        · exact Dev.wf_fst e (Dev.resolve_wf h)
        · exact Dev.storeParts_wf (Dev.wf_fst e (Dev.resolve_wf h))

theorem Dev.atomicNow_wf {c : Nat} {p : Part} {op : AtomOp} {operand expect : Word} (h : d.Wf) :
    (d.atomicNow c p op operand expect).1.Wf := by
  unfold Dev.atomicNow
  extract_lets run d0 who atSpad
  have h0 : d0.Wf := Dev.drainStores_wf h
  have hspad : ∀ (y : Dev) (g : Got) (l : List Byte) (save : Dev → List Byte → Dev × Bool), y.Wf →
      (∀ x b, x.Wf → (save x b).1.Wf) → (atSpad y g l save).1.Wf := by
    intro y g l save hy hsave
    refine Dev.ite_fst_wf hy (Dev.ite_fst_wf hy ?_)
    dsimp only
    split
    next => exact hy
    next v _ =>
      split
      next e => exact Dev.wf_fst e (hsave y _ hy)
      next e => exact Dev.wf_fst e (hsave y _ hy)
  clear_value d0 atSpad
  refine Dev.ite_fst_wf ?_ ?_
  · split
    next d1 bad e =>
      have h1 : d1.Wf := by
        refine Dev.wf_fst e (Dev.ite_fst_wf h ?_)
        split
        next e => exact Dev.wf_fst e (Dev.specAcquire_wf h)
        next e => exact Dev.wf_fst e (Dev.specAcquire_wf h)
      split
      · exact h1
      · split
        next e => exact Dev.wf_fst e (Dev.readNormal_wf h1)
        next d2 b e =>
          extract_lets old d3
          have h3 : d3.Wf := Dev.enterRead_wf (Dev.wf_fst e (Dev.readNormal_wf h1))
          dsimp only
          split
          · exact Dev.specStore_wf h3
          · exact h3
  · split
    next => exact hspad _ _ _ _ (Dev.spadLoad_wf h0) fun _ _ hx => Dev.spadSave_wf hx
    next => exact hspad _ _ _ _ (Dev.farLoad_wf h0) fun _ _ hx => Dev.farSave_wf hx
    next =>
      split
      next d1 err e =>
        have h1 : d1.Wf := Dev.wf_fst e (Dev.l2Own_wf h0)
        refine Dev.ite_fst_wf h1 ?_
        split
        · exact h1
        · refine Dev.ite_fst_wf h1 ?_
          dsimp only
          split
          · exact h1
          · exact Dev.l2Write_wf h1

theorem Dev.atomic_wf {c n : Nat} {ea : Word} {op : AtomOp} {operand expect : Word} {rd : RegNo} (h : d.Wf) :
    (d.atomic c n ea op operand expect rd).1.Wf := by
  unfold Dev.atomic
  split
  · exact h
  · split
    next e => exact Dev.wf_fst e (Dev.resolve_wf h)
    next e =>
      split
      · exact Dev.wf_fst e (Dev.resolve_wf h)
      · split
        · split
          · exact Dev.wf_fst e (Dev.resolve_wf h)
          · split
            · exact Dev.wf_fst e (Dev.resolve_wf h)
            · split
              next e1 => exact Dev.wf_fst e1 (Dev.atomicNow_wf (Dev.wf_fst e (Dev.resolve_wf h)))
              next e1 => exact Dev.wf_fst e1 (Dev.atomicNow_wf (Dev.wf_fst e (Dev.resolve_wf h)))
        · split
          next e1 => exact Dev.wf_fst e1 (Dev.atomicNow_wf (Dev.wf_fst e (Dev.resolve_wf h)))
          next e1 => exact Dev.wf_fst e1 (Dev.atomicNow_wf (Dev.wf_fst e (Dev.resolve_wf h)))

/-! ### Micro -/

theorem Dev.nano_wf {c : Nat} {m : MicroOp} {tbase : Nat} {w : BitVec 120} {s : MicroSt} (h : d.Wf) : (d.nano c m tbase w s).1.Wf := by
  unfold Dev.nano
  extract_lets f a x y ea n r _
  have hr : r.1.Wf := by
    unfold r
    split
    · split
      next e => exact Dev.wf_fst e (Dev.loadAll_wf h)
      next e => exact Dev.wf_fst e (Dev.loadAll_wf h)
    · split
      next e => exact Dev.wf_fst e (Dev.loadAll_wf h)
      next e => exact Dev.wf_fst e (Dev.loadAll_wf h)
    · split
      next e => exact Dev.wf_fst e (Dev.storeAll_wf h)
      next e => exact Dev.wf_fst e (Dev.storeAll_wf h)
    · exact h
  clear_value r
  split
  · exact hr
  · exact hr

theorem Dev.routine_wf {c : Nat} {m : MicroOp} {n : Nat} {b : Bool} {x : Option Nat} {y : MicroSt} (h : d.Wf) :
    (d.routine c m n b x y).1.Wf := by
  induction n generalizing b x y d with
  | zero =>
    exact h
  | succ n ih =>
    unfold Dev.routine
    dsimp only
    split
    · exact h
    · split
      · exact h
      · split
        · exact h
        · split
          next e => exact Dev.wf_fst e (Dev.nano_wf h)
          next e =>
            split
            · exact Dev.wf_fst e (Dev.nano_wf h)
            · exact ih (Dev.wf_fst e (Dev.nano_wf h))

theorem Dev.runRoutine_wf {c : Nat} {m : MicroOp} {left : Option Nat} (h : d.Wf) : (d.runRoutine c m left).1.Wf := by
  unfold Dev.runRoutine
  split
  exacts [Dev.routine_wf h, Dev.routine_wf (Dev.draw_wf h)]

/-! ### Journal -/

theorem Dev.voidSlot_wf {s : Nat} (h : d.Wf) : (d.voidSlot s).Wf :=
  Dev.setFld_wf h

theorem Dev.forMembers_wf {s : Nat} {f : Dev → Nat → Member → Dev}
    (h : d.Wf) (hf : ∀ {x : Dev} {n : Nat} {y : Member}, x.Wf → (f x n y).Wf) : (d.forMembers s f).Wf := by
  unfold Dev.forMembers
  refine Dev.foldl_wf (fun _ _ hy => ?_) h
  split
  exacts [hf hy, hy]

theorem Dev.leavePanel_wf {c : Nat} (h : d.Wf) : (d.leavePanel c).Wf :=
  Dev.modCore_wf h

theorem Dev.freeSlot_wf {s : Nat} (h : d.Wf) : (d.freeSlot s).Wf :=
  Dev.modPanel_wf (Dev.setFld_wf h)

theorem Dev.readEntry_wf {s i : Nat} (h : d.Wf) : (d.readEntry s i).1.Wf := by
  unfold Dev.readEntry
  exact Dev.readBytes_wf h

theorem Dev.readEntries_wf {s n m : Nat} (h : d.Wf) : (d.readEntries s n m).1.Wf := by
  induction n generalizing d m with
  | zero =>
    exact h
  | succ n ih =>
    unfold Dev.readEntries
    split
    next e => exact Dev.wf_fst e (Dev.readEntry_wf h)
    next e => exact ih (Dev.wf_fst e (Dev.readEntry_wf h))

theorem Dev.scanRow_wf {s row n m k : Nat} (h : d.Wf) : (d.scanRow s row n m k).1.Wf := by
  induction n generalizing d m k with
  | zero =>
    exact h
  | succ n ih =>
    unfold Dev.scanRow
    refine Dev.ite_fst_wf h ?_
    split
    next e => exact Dev.wf_fst e (Dev.readEntry_wf h)
    next e =>
      refine Dev.ite_fst_wf (Dev.wf_fst e (Dev.readEntry_wf h)) (Dev.ite_fst_wf (Dev.wf_fst e (Dev.readEntry_wf h))
        (Dev.ite_fst_wf (Dev.wf_fst e (Dev.readEntry_wf h)) ?_))
      split
      next e1 => exact Dev.wf_fst e1 (Dev.readEntries_wf (Dev.wf_fst e (Dev.readEntry_wf h)))
      next e1 => exact ih (Dev.wf_fst e1 (Dev.readEntries_wf (Dev.wf_fst e (Dev.readEntry_wf h))))

theorem Dev.scan_wf {s row : Nat} (h : d.Wf) : (d.scan s row).1.Wf :=
  Dev.scanRow_wf h

theorem Dev.setEnds_wf {s : Nat} {cs : List Nat} (h : d.Wf) : (d.setEnds s cs).Wf := by
  have h1 := Dev.scan_wf (s := s) (row := d.row s) h
  rw [Dev.setEnds]
  refine Dev.ite_wf h ?_
  split
  next e => exact Dev.foldl_wf (fun _ _ hx => Dev.modMember_wf hx) (Dev.wf_fst e h1)

/-! ### Ops -/

theorem Dev.noteMember_wf {c n : Nat} (h : d.Wf) : (d.noteMember c n).Wf := by
  unfold Dev.noteMember
  split
  exacts [Dev.voidSlot_wf (Dev.countFld_wf h), h]

theorem Dev.pushLine_wf {c pa : Nat} {b : List Byte} (h : d.Wf) : (d.pushLine c pa b).1.Wf := by
  unfold Dev.pushLine
  split
  · exact h
  · split
    · exact Dev.spadSave_wf (Dev.noteMember_wf h)
    · exact Dev.farSave_wf (Dev.noteMember_wf h)
    · split
      exacts [Dev.specPut_wf h, Dev.l2Write_wf h]

theorem Dev.pushLines_wf {c n m : Nat} {l : List Byte} (h : d.Wf) : (d.pushLines c n m l).1.Wf := by
  induction n generalizing d m l with
  | zero =>
    exact h
  | succ n ih =>
    unfold Dev.pushLines
    split
    next e => exact Dev.wf_fst e (Dev.pushLine_wf h)
    next e => exact ih (Dev.wf_fst e (Dev.pushLine_wf h))

theorem Dev.enter_wf {c : Nat} {t : Level} {q : TrapReq} {r : Option Routine} (h : d.Wf) : (d.enter c t q r).1.Wf := by
  unfold Dev.enter
  dsimp only
  split
  next e => exact Dev.wf_fst e (Dev.pushLines_wf (Dev.drainStores_wf h))
  next e => exact Dev.modCore_wf (Dev.wf_fst e (Dev.pushLines_wf (Dev.drainStores_wf h)))

theorem Dev.noteCheck_wf {c : Nat} {q : TrapReq} (h : d.Wf) : (d.noteCheck c q).Wf := by
  unfold Dev.noteCheck
  split
  exacts [Dev.report_wf h, h]

theorem Dev.trapEntry_wf {c : Nat} {q : TrapReq} {r : Option Routine} (h : d.Wf) : (d.trapEntry c q r).Wf := by
  unfold Dev.trapEntry
  dsimp only
  split
  next e => exact Dev.noteCheck_wf (Dev.wf_fst e (Dev.enter_wf h))
  next e =>
    split
    · exact Dev.report_wf (Dev.wf_fst e (Dev.enter_wf h))
    · split
      next e1 => exact Dev.noteCheck_wf (Dev.wf_fst e1 (Dev.enter_wf (Dev.wf_fst e (Dev.enter_wf h))))
      next e1 => exact Dev.report_wf (Dev.wf_fst e1 (Dev.enter_wf (Dev.wf_fst e (Dev.enter_wf h))))

theorem Dev.endStitch_wf {c : Nat} {why : EndCause} (h : d.Wf) : (d.endStitch c why).Wf :=
  Dev.modMember_wf h

theorem Dev.endTrap_wf {c : Nat} {why : EndCause} {q : TrapReq} (h : d.Wf) : (d.endTrap c why q).Wf :=
  Dev.modMember_wf h

theorem Dev.stitchEntry_wf {c : Nat} {q : TrapReq} (h : d.Wf) : (d.stitchEntry c q).Wf := by
  unfold Dev.stitchEntry
  split
  next e => exact Dev.noteCheck_wf (Dev.wf_fst e (Dev.enter_wf h))
  next e => exact Dev.modMember_wf (Dev.wf_fst e (Dev.enter_wf h))

theorem Dev.startStitch_wf {c : Nat} (h : d.Wf) : (d.startStitch c).Wf := by
  unfold Dev.startStitch
  dsimp only
  split
  · exact Dev.drainStores_wf h
  · refine Dev.foldl_wf (fun _ _ hx => Dev.stitchEntry_wf hx) (Dev.modMember_wf ?_)
    split
    · exact Dev.stitchEntry_wf (Dev.modMember_wf (Dev.drainStores_wf h))
    · exact Dev.modMember_wf (Dev.drainStores_wf h)

theorem Dev.takeEntries_wf {c : Nat} {m : Member} (h : d.Wf) : (d.takeEntries c m).Wf := by
  unfold Dev.takeEntries
  refine Dev.foldl_wf (fun _ _ hx => Dev.trapEntry_wf hx) ?_
  split
  exacts [Dev.trapEntry_wf h, h]

theorem Dev.retire_wf {c fetched : Nat} {next : Word} (h : d.Wf) : (d.retire c fetched next).Wf := by
  unfold Dev.retire
  dsimp only
  split
  · exact Dev.modCore_wf h
  · split
    · exact Dev.modMember_wf (Dev.modCore_wf h)
    · split
      · exact Dev.endStitch_wf (Dev.modMember_wf (Dev.modCore_wf h))
      · exact Dev.modMember_wf (Dev.modCore_wf h)

theorem Dev.countWalk_wf {c : Nat} {q : TrapReq} (h : d.Wf) : (d.countWalk c q).Wf := by
  unfold Dev.countWalk
  split
  exacts [Dev.countFld_wf h, h]

theorem Dev.raise_wf {c : Nat} {q : TrapReq} (h : d.Wf) : (d.raise c q).Wf := by
  unfold Dev.raise
  dsimp only
  split
  · exact Dev.trapEntry_wf (Dev.countWalk_wf h)
  · refine Dev.endTrap_wf (Dev.modCore_wf ?_)
    split
    exacts [Dev.voidSlot_wf (Dev.countWalk_wf h), Dev.countWalk_wf h]

theorem Dev.beginStitch_wf {s c : Nat} (h : d.Wf) : (d.beginStitch s c).Wf :=
  Dev.setEnds_wf (Dev.startStitch_wf h)

theorem Dev.afterReti_wf {c : Nat} (h : d.Wf) : (d.afterReti c).Wf := by
  unfold Dev.afterReti
  dsimp only
  split
  · exact h
  · split
    · exact h
    · split
      · split
        · exact Dev.trapEntry_wf (Dev.modCore_wf h)
        · refine Dev.modMember_wf ?_
          split
          exacts [Dev.voidSlot_wf h, h]
      · split
        · exact Dev.trapEntry_wf (Dev.modCore_wf h)
        · split
          exacts [Dev.beginStitch_wf (Dev.modMember_wf h), Dev.modMember_wf h]
      · exact Dev.trapEntry_wf (Dev.modCore_wf h)
      · exact h

theorem Dev.fetch_wf {c : Nat} (h : d.Wf) : (d.fetch c).1.Wf := by
  unfold Dev.fetch
  dsimp only
  split
  next e => exact Dev.wf_fst e (Dev.settleTrans_wf Dev.translateNow_wf h)
  next e => exact Dev.wf_fst e (Dev.settleTrans_wf Dev.translateNow_wf h)
  next e =>
    split
    · exact Dev.loadD_wf (Dev.wf_fst e (Dev.settleTrans_wf Dev.translateNow_wf h))
    · exact Dev.fillL1_wf (Dev.loadD_wf (Dev.wf_fst e (Dev.settleTrans_wf Dev.translateNow_wf h)))

theorem Dev.finish_wf {c fetched : Nat} {pc : Word} {word : Word32} {r : Ret} (h : d.Wf) : (d.finish c fetched pc word r).Wf := by
  unfold Dev.finish
  dsimp only
  split
  · exact Dev.retire_wf h
  · exact Dev.retire_wf h
  · exact h
  · split
    · exact Dev.endStitch_wf (Dev.retire_wf h)
    · exact Dev.modMember_wf (Dev.retire_wf h)
  · split
    exacts [Dev.endTrap_wf (Dev.retire_wf h), Dev.trapEntry_wf h]
  · exact Dev.afterReti_wf (Dev.modCore_wf (Dev.retire_wf h))
  · exact Dev.raise_wf h
  · exact Dev.modMember_wf (Dev.endStitch_wf h)
  · split
    exacts [Dev.raise_wf h, Dev.endStitch_wf h]

/-- An instruction's work keeps memory canonical, in run-ahead too. -/
structure Work.KeepsWf (w : Work) : Prop where
  body : ∀ {d : Dev}, d.Wf → (w.body d).1.Wf
  ahead : ∀ {d : Dev}, d.Wf → (w.ahead d).1.Wf

theorem Dev.microRun_wf {c fetched : Nat} {pc : Word} {word : Word32} {w : Work} {m : MicroOp} {mid : Option (Nat × Nat)}
    {left : Option Nat} (hw : w.KeepsWf) (h : d.Wf) : (d.microRun c fetched pc word w m mid left).Wf := by
  unfold Dev.microRun
  extract_lets complete
  have hc : ∀ {y : Dev}, y.Wf → (complete y).Wf := fun hy => Dev.finish_wf (hw.body hy)
  clear_value complete
  refine Dev.ite_wf (hc h) ?_
  split
  next e => exact hc (Dev.wf_fst e (Dev.runRoutine_wf h))
  next e =>
    have h1 := Dev.wf_fst e (Dev.runRoutine_wf h)
    split
    · exact Dev.trapEntry_wf (Dev.ite_wf (Dev.vpTake_wf h1) h1)
    · exact h1
  next e => exact Dev.finish_wf (Dev.modCore_wf (Dev.wf_fst e (Dev.runRoutine_wf h)))
  next e => exact Dev.modCore_wf (Dev.wf_fst e (Dev.runRoutine_wf h))
  next e => exact Dev.modCore_wf (Dev.wf_fst e (Dev.runRoutine_wf h))

theorem Dev.issue_wf {x : Ctx} {i : Instr} {w : Work} {mid : Option (Nat × Nat)} {left : Option Nat}
    (hw : w.KeepsWf) (h : d.Wf) : (d.issue x i w mid left).Wf := by
  unfold Dev.issue
  extract_lets c a word
  split
  next e => exact Dev.raise_wf (Dev.wf_fst e (Dev.fetch_wf h))
  next d1 t e =>
    have h1 : d1.Wf := Dev.wf_fst e (Dev.fetch_wf h)
    refine Dev.ite_wf (Dev.raise_wf h1) (Dev.ite_wf (Dev.retire_wf ?_)
      (Dev.ite_wf (Dev.raise_wf h1) (Dev.ite_wf (Dev.raise_wf h1) ?_)))
    · split
      · exact Dev.modCore_wf h1
      · exact h1
    · split
      next d2 r e2 =>
        have h2 : d2.Wf := Dev.wf_fst e2 (hw.body h1)
        split
        · exact Dev.microRun_wf hw h1
        · exact Dev.finish_wf (Dev.modCore_wf h2)
        · exact Dev.finish_wf h2

theorem Dev.takeInterrupt_wf {c v code : Nat} (h : d.Wf) : (d.takeInterrupt c v code).Wf := by
  unfold Dev.takeInterrupt
  refine Dev.trapEntry_wf ?_
  split
  exacts [Dev.vpTake_wf h, h]

theorem Dev.stitchStep_wf {x : Ctx} {i : Instr} {w : Work} {m : Member} (hw : w.KeepsWf) (h : d.Wf) :
    (d.stitchStep x i w m).Wf := by
  unfold Dev.stitchStep
  extract_lets c e
  have he : e.Wf := Dev.issue_wf hw h
  split
  · exact he
  · exact Dev.ite_wf he (Dev.endStitch_wf h)

theorem Dev.aheadStep_wf {x : Ctx} {i : Instr} {w : Work} {r : RunAhead} (hw : w.KeepsWf) (h : d.Wf) :
    (d.aheadStep x i w r).Wf := by
  unfold Dev.aheadStep
  extract_lets c a put step
  have hstep : ∀ {y : Dev} {l : List Nat}, y.Wf → (step (put y l)).Wf := fun hy => Dev.modArch_wf (Dev.modCore_wf hy)
  clear_value step put
  exact Dev.ite_wf h (Dev.ite_wf (hstep h) (Dev.ite_wf (hstep h) (Dev.ite_wf (hstep h) (hstep (hw.ahead h)))))

theorem Dev.endAhead_wf {c : Nat} (h : d.Wf) : (d.endAhead c).Wf := by
  unfold Dev.endAhead
  split
  exacts [Dev.modCore_wf h, h]

theorem Dev.instr_wf {x : Ctx} {i : Instr} {w : Work} (hw : w.KeepsWf) (h : d.Wf) : (d.instr x i w).Wf := by
  unfold Dev.instr
  extract_lets c
  refine Dev.ite_wf h ?_
  split
  · exact Dev.aheadStep_wf hw h
  · split
    · exact Dev.stitchStep_wf hw h
    · exact Dev.issue_wf hw h
    · refine Dev.ite_wf (Dev.takeInterrupt_wf h) (Dev.ite_wf (Dev.issue_wf hw h) ?_)
      split
      next e =>
        have h1 := Dev.wf_snd e (Dev.draw_wf h)
        split
        · exact Dev.takeInterrupt_wf h1
        · exact Dev.issue_wf hw h1

theorem Dev.run_wf {x : Ctx} {i : Instr} {w : Work} (hw : w.KeepsWf) (h : d.Wf) : (d.run x i w).Wf :=
  Dev.close_wf h (Dev.instr_wf hw h)

/-! ### Operands -/

theorem Dev.aheadChunk_wf {c : Nat} {key : BitVec 11} {pa n : Nat} (h : d.Wf) : (d.aheadChunk c key pa n).1.Wf := by
  unfold Dev.aheadChunk
  dsimp only
  split
  · exact h
  · split
    · exact h
    · split
      exacts [Dev.l2Read_wf h, h]

theorem Dev.aheadLines_wf {c : Nat} {key : BitVec 11} {n m k : Nat} (h : d.Wf) : (d.aheadLines c key n m k).1.Wf := by
  induction n generalizing d m k with
  | zero =>
    exact h
  | succ n ih =>
    unfold Dev.aheadLines
    split
    exacts [h, ih (Dev.aheadChunk_wf h)]

theorem Dev.aheadLoad_wf {c : Nat} {kind : AccKind} {width : Nat} {eas : List Word} {dest : LoadDest} (h : d.Wf) :
    (d.aheadLoad c kind width eas dest).1.Wf := by
  unfold Dev.aheadLoad
  split
  next d1 g e =>
    have h1 : d1.Wf := by
      refine Dev.wf_fst e (Dev.foldl_fst_wf (fun _ _ hx => ?_) h)
      split
      next e => exact Dev.ite_fst_wf (Dev.wf_fst e (Dev.translateNow_wf hx)) (Dev.aheadLines_wf (Dev.wf_fst e (Dev.translateNow_wf hx)))
      next e => exact Dev.wf_fst e (Dev.translateNow_wf hx)
    split
    exacts [Dev.modArch_wf h1, Dev.modArch_wf h1, h1]

/-! ### System -/

theorem Dev.crWrite_wf {c k : Nat} {v : Word} (h : d.Wf) : (d.crWrite c k v).Wf := by
  unfold Dev.crWrite
  dsimp only
  split
  · exact Dev.modArch_wf h
  · exact Dev.modArch_wf h
  · exact Dev.modArch_wf h
  · exact Dev.modArch_wf h
  · exact Dev.modArch_wf h
  · exact Dev.modArch_wf h
  · exact Dev.modArch_wf h
  · exact Dev.modArch_wf h
  · exact Dev.modArch_wf h
  · exact Dev.modArch_wf h
  · exact Dev.modArch_wf h
  · exact Dev.modArch_wf h
  · exact Dev.modArch_wf h
  · exact Dev.modCore_wf (Dev.modArch_wf h)
  · exact Dev.modCore_wf h
  · exact Dev.modCore_wf h
  · exact Dev.modCore_wf h
  · split
    exacts [Dev.modCore_wf (Dev.modArch_wf h), Dev.modArch_wf h]
  · exact Dev.modArch_wf h
  · split
    exacts [Dev.holdEnd_wf h, Dev.endEntry_wf h, h]
  · exact Dev.modArch_wf h
  · exact Dev.modArch_wf h
  · exact h

theorem frameRead_wf {c n m : Nat} (h : d.Wf) : (frameRead c d n m).1.Wf := by
  unfold frameRead
  split
  · exact h
  · split
    next e => exact Dev.enterRead_wf (Dev.wf_fst e (Dev.readNormal_wf h))
    next e => exact Dev.wf_fst e (Dev.readNormal_wf h)

theorem Dev.retiBy_wf {c : Nat} {read : FrameRead} (h : d.Wf) (hread : ∀ {x : Dev} {n : Nat} {m : Nat}, x.Wf → (read x n m).1.Wf) :
    (d.retiBy c read).1.Wf := by
  unfold Dev.retiBy
  dsimp only
  split
  next e => exact Dev.wf_fst e (hread h)
  next e =>
    split
    · exact Dev.wf_fst e (hread h)
    · split
      · exact Dev.wf_fst e (hread h)
      · split
        · split
          next e1 => exact Dev.wf_fst e1 (hread (Dev.wf_fst e (hread h)))
          next e1 => exact Dev.modArch_wf (Dev.wf_fst e1 (hread (Dev.wf_fst e (hread h))))
        · exact Dev.modArch_wf (Dev.wf_fst e (hread h))

theorem Dev.reti_wf {c : Nat} (h : d.Wf) : (d.reti c).1.Wf := by
  unfold Dev.reti
  dsimp only
  split
  exacts [h, Dev.retiBy_wf h frameRead_wf]

theorem Dev.wfe_wf {c : Nat} {ra : RegNo} (h : d.Wf) : (d.wfe c ra).Wf :=
  Dev.ite_wf h (Dev.actLatest_wf (Dev.modCore_wf h))

theorem Dev.pflush_wf {c : Nat} {ra : RegNo} {k : Nat} (h : d.Wf) : (d.pflush c ra k).Wf :=
  Dev.modCore_wf h

theorem Dev.tinv_wf {x : Ctx} {ra : RegNo} {scope : TinvScope} (h : d.Wf) : (d.tinv x ra scope).Wf :=
  Dev.ite_wf (Dev.modCore_wf (Dev.drainStores_wf h)) (Dev.modCore_wf (Dev.modCore_wf (Dev.drainStores_wf h)))

theorem Dev.tsync_wf {c : Nat} {ra : RegNo} (h : d.Wf) : (d.tsync c ra).1.Wf := by
  unfold Dev.tsync
  dsimp only
  split
  exacts [h, Dev.modCore_wf h]

theorem Dev.rangeStatus_wf {c busy err lines : Nat} (h : d.Wf) : (d.rangeStatus c busy err lines).Wf :=
  Dev.setReg_wf h

theorem Dev.crngStart_wf {c : Nat} {ra : RegNo} {op : RangeOp} (h : d.Wf) : (d.crngStart c ra op).1.Wf := by
  unfold Dev.crngStart
  dsimp only
  split
  · exact h
  · split
    · exact Dev.rangeStatus_wf (Dev.drainStores_wf h)
    · split
      · exact Dev.rangeStatus_wf (Dev.drainStores_wf h)
      · exact Dev.rangeStatus_wf (Dev.modCore_wf (Dev.drainStores_wf h))

theorem Dev.writeClean_wf {n ln : Nat} {x : Line} {key : BitVec 11} {poison : Bool} (h : d.Wf) : (d.writeClean n ln x key poison).1.Wf :=
  Dev.modSlice_wf (Dev.memWrite_wf _ _ _ _ _ h)

theorem Dev.rangeSnoop_wf {n ln : Nat} {k : SnoopKind} (h : d.Wf) : (d.rangeSnoop n ln k).1.Wf := by
  unfold Dev.rangeSnoop
  dsimp only
  split
  · refine Dev.snoopAll_wf (Dev.makeRoom_wf ?_)
    split
    exacts [Dev.wait_wf h, h]
  · refine Dev.makeRoom_wf ?_
    split
    exacts [Dev.wait_wf h, h]

theorem Dev.cleanLine_wf {ln : Nat} (h : d.Wf) : (d.cleanLine ln).1.Wf := by
  unfold Dev.cleanLine
  split
  next n set _ =>
    extract_lets owned away
    clear_value owned
    split
    next e =>
      have h1 := Dev.wf_fst e (Dev.rangeSnoop_wf h)
      refine Dev.ite_fst_wf (Dev.markLost_wf _ h1) (Dev.ite_fst_wf ?_ ?_)
      · split
        · exact Dev.homeEvict_wf h1
        · exact h1
      · extract_lets d2
        have h2 : d2.Wf := by
          unfold d2
          split
          · exact Dev.setDir_wf h1
          · exact h1
        split
        · exact Dev.ite_fst_wf (Dev.writeClean_wf h2) h2
        · split
          · exact Dev.ite_fst_wf (Dev.writeClean_wf h2) h2
          · exact h2

theorem Dev.dropLine_wf {ln : Nat} (h : d.Wf) : (d.dropLine ln).1.Wf :=
  Dev.dropDir_wf (Dev.dropLlc_wf (Dev.rangeSnoop_wf h))

theorem Dev.rangeLine_wf {c ln : Nat} {op : RangeOp} {key : BitVec 11} (h : d.Wf) : (d.rangeLine c ln op key).1.Wf := by
  unfold Dev.rangeLine
  split
  · exact Dev.cleanLine_wf h
  · split
    next e =>
      split
      next e1 => exact Dev.wf_fst e1 (Dev.dropLine_wf (Dev.wf_fst e (Dev.cleanLine_wf h)))
  · exact Dev.dropLine_wf h
  · split
    next e => exact Dev.wf_fst e (Dev.l2Read_wf h)

theorem Dev.rangeRun_wf {c : Nat} {r : Crng} {n m : Nat} {b : Bool} (h : d.Wf) : (d.rangeRun c r n m b).1.Wf := by
  induction n generalizing d m b with
  | zero =>
    exact h
  | succ n ih =>
    unfold Dev.rangeRun
    dsimp only
    split
    next e => exact Dev.wf_fst e (Dev.translate_wf h)
    next e => exact Dev.wf_fst e (Dev.translate_wf h)
    next e =>
      split
      · exact Dev.wf_fst e (Dev.translate_wf h)
      · split
        · exact ih (Dev.wf_fst e (Dev.translate_wf h))
        · exact ih (Dev.rangeLine_wf (Dev.wf_fst e (Dev.translate_wf h)))

theorem Dev.crngEnd_wf {c : Nat} (h : d.Wf) : (d.crngEnd c).Wf := by
  unfold Dev.crngEnd
  split
  · exact h
  · split
    exacts [h, Dev.rangeStatus_wf (Dev.modCore_wf (Dev.rangeRun_wf h))]

theorem Dev.zmarkAt_wf {c pa : Nat} {key : BitVec 11} (h : d.Wf) : (d.zmarkAt c pa key).Wf := by
  unfold Dev.zmarkAt
  dsimp only
  split
  · split
    · exact Dev.report_wf h
    · exact Dev.mcZero_wf _ _ (Dev.wake_wf (Dev.foldl_wf (fun _ _ hx => Dev.noteOutside_wf (Dev.dropLine_wf hx)) h))
  · split
    · exact Dev.farZero_wf (Dev.foldl_wf (fun _ _ hx => Dev.noteOutside_wf (Dev.dropLine_wf hx)) h)
    · exact Dev.report_wf h
  · exact Dev.report_wf h
  · exact Dev.foldl_wf (fun _ _ hx => Dev.pushStore_wf hx) h

theorem Dev.zmark_wf {c : Nat} {ra : RegNo} (h : d.Wf) : (d.zmark c ra).1.Wf := by
  unfold Dev.zmark
  dsimp only
  split
  next e => exact Dev.wf_fst e (Dev.resolve_wf h)
  next e =>
    split
    · exact Dev.wf_fst e (Dev.resolve_wf h)
    · exact Dev.zmarkAt_wf (Dev.drainStores_wf (Dev.wf_fst e (Dev.resolve_wf h)))

theorem Dev.undefinedOp_wf {c : CoreId} {w : Word32} (h : d.Wf) : (d.undefinedOp c w).Wf := by
  unfold Dev.undefinedOp
  split
  · exact h
  · split
    · exact h
    · split
      · exact Dev.takeInterrupt_wf h
      · split
        next e => exact Dev.raise_wf (Dev.wf_fst e (Dev.fetch_wf h))
        next e => exact Dev.raise_wf (Dev.wf_fst e (Dev.fetch_wf h))

theorem Dev.interrupt_wf {c : Nat} (h : d.Wf) : (d.interrupt c).Wf := by
  unfold Dev.interrupt
  split
  · exact h
  · split
    exacts [Dev.takeInterrupt_wf h, h]

theorem Dev.virtualInterrupt_wf {c : Nat} (h : d.Wf) : (d.virtualInterrupt c).Wf := by
  unfold Dev.virtualInterrupt
  split
  · exact h
  · split
    exacts [Dev.takeInterrupt_wf h, h]

theorem Dev.wfeWake_wf {c : Nat} {why : WakeReason} (h : d.Wf) : (d.wfeWake c why).Wf := by
  unfold Dev.wfeWake
  split
  exacts [Dev.ite_wf (Dev.modCore_wf (Dev.wake_wf h)) h, h]

theorem Dev.aheadEnter_wf {c line ns : Nat} (h : d.Wf) : (d.aheadEnter c line ns).Wf := by
  unfold Dev.aheadEnter
  refine Dev.ite_wf ?_ h
  split
  exacts [Dev.modCore_wf h, h]

theorem Dev.aheadLeave_wf {c : Nat} {why : RunAheadEnd} (h : d.Wf) : (d.aheadLeave c why).Wf := by
  unfold Dev.aheadLeave
  dsimp only
  split
  · exact h
  · split
    · exact Dev.endAhead_wf h
    · split
      exacts [Dev.endAhead_wf h, h]
    · split
      exacts [Dev.endAhead_wf h, h]

theorem Dev.reloadPatch_wf {c : Nat} (h : d.Wf) : (d.reloadPatch c).Wf :=
  Dev.modCore_wf h

theorem Dev.replay_wf {c : Nat} {det : Detector} (h : d.Wf) : (d.replay c det).Wf := by
  unfold Dev.replay
  split
  · exact h
  · split
    · exact Dev.modCore_wf h
    · refine Dev.modCore_wf (Dev.setFld_wf (Dev.countFld_wf ?_))
      split
      exacts [Dev.reloadPatch_wf h, h]

theorem Dev.hwPrefetch_wf {c : Nat} {p : Prefetcher} {ea : Word} (h : d.Wf) : (d.hwPrefetch c p ea).Wf := by
  unfold Dev.hwPrefetch
  refine Dev.ite_wf h ?_
  split
  · exact Dev.ite_wf h (Dev.ite_wf (Dev.fillL1_wf (Dev.l2Read_wf h)) (Dev.l2Read_wf h))
  · exact h

theorem Dev.debugAttach_wf {c : Nat} {attach : Bool} (h : d.Wf) : (d.debugAttach c attach).Wf := by
  unfold Dev.debugAttach
  dsimp only
  split
  · exact Dev.modCore_wf h
  · split
    · exact h
    · split
      · split
        exacts [Dev.setFld_wf (Dev.modCore_wf h), Dev.modCore_wf h]
      · exact Dev.modCore_wf h

/-! ### Panels -/

theorem Dev.setUp_wf {r : Request} {s : Nat} (h : d.Wf) : (d.setUp r s).Wf := by
  unfold Dev.setUp
  refine Dev.foldl_wf (fun _ _ hx => ?_) (Dev.modPanel_wf (Dev.foldl_wf (fun _ _ hx => Dev.setReg_wf (Dev.setReg_wf hx))
    (Dev.setReg_wf (Dev.setReg_wf (Dev.setFlds_wf (Dev.setReg_wf h))))))
  split
  exacts [Dev.modCore_wf hx, hx]

theorem Dev.psetup_wf {c : Nat} {ra : RegNo} (h : d.Wf) : (d.psetup c ra).1.Wf := by
  unfold Dev.psetup
  dsimp only
  split
  · exact Dev.modArch_wf h
  · split
    next e => exact Dev.wf_fst e (Dev.readNormal_wf h)
    next e =>
      split
      · exact Dev.modArch_wf (Dev.setUp_wf (Dev.wf_fst e (Dev.readNormal_wf h)))
      · exact Dev.modArch_wf (Dev.wf_fst e (Dev.readNormal_wf h))

theorem Dev.diverge_wf {s : Nat} (h : d.Wf) : (d.diverge s).Wf :=
  Dev.setFlds_wf h

theorem Dev.commitLine_wf {c s ln : Nat} {x : SpecLine} (h : d.Wf) : (d.commitLine c s ln x).Wf := by
  unfold Dev.commitLine
  dsimp only
  split
  · exact Dev.report_wf (Dev.l2Own_wf h)
  · exact Dev.noteOutside_wf (Dev.modCore_wf (Dev.l2Own_wf h))

theorem Dev.commitMember_wf {s c : Nat} {m : Member} (h : d.Wf) : (d.commitMember s c m).Wf :=
  Dev.commitEnds_wf (Dev.modMember_wf (Dev.modPanel_wf (Dev.foldl_wf (fun _ _ hx => Dev.commitLine_wf hx) h)))

theorem Dev.frogMember_wf {s c : Nat} {m : Member} {cause : Nat} (h : d.Wf) : (d.frogMember s c m cause).Wf := by
  unfold Dev.frogMember
  refine Dev.modMember_wf (Dev.modCore_wf ?_)
  split
  · refine Dev.foldl_wf (fun _ _ hx => ?_) ?_
    · split
      exacts [Dev.vpGive_wf hx, hx]
    · split
      · exact Dev.voidSlot_wf (Dev.countFld_wf (Dev.countFld_wf (Dev.countFld_wf (Dev.modPanel_wf (Dev.giveEnds_wf h)))))
      · exact Dev.countFld_wf (Dev.countFld_wf (Dev.modPanel_wf (Dev.giveEnds_wf h)))
  · split
    · exact Dev.voidSlot_wf (Dev.countFld_wf (Dev.countFld_wf (Dev.countFld_wf (Dev.modPanel_wf (Dev.giveEnds_wf h)))))
    · exact Dev.countFld_wf (Dev.countFld_wf (Dev.modPanel_wf (Dev.giveEnds_wf h)))

theorem Dev.takeLost_wf {c : Nat} {m : Member} (h : d.Wf) : (d.takeLost c m).Wf := by
  unfold Dev.takeLost
  split
  · exact h
  · refine Dev.trapEntry_wf (Dev.modArch_wf (Dev.leavePanel_wf ?_))
    split
    · exact Dev.endAhead_wf h
    · refine Dev.foldl_wf (fun _ _ hx => ?_) (Dev.endAhead_wf h)
      split
      exacts [Dev.vpGive_wf hx, hx]

theorem Dev.rowAdvance_wf {s n : Nat} (h : d.Wf) : (d.rowAdvance s n).Wf := by
  induction n generalizing d with
  | zero =>
    exact h
  | succ n ih =>
    unfold Dev.rowAdvance
    dsimp only
    split
    · split
      · exact h
      · split
        · exact Dev.beginStitch_wf h
        · refine ih ?_
          split
          exacts [Dev.frogMember_wf h, Dev.commitMember_wf h]
    · split
      · exact h
      · split
        · refine Dev.modPanel_wf (Dev.forMembers_wf (Dev.forMembers_wf h (fun hx => ?_)) Dev.takeLost_wf)
          split
          · exact hx
          · split
            · exact Dev.frogMember_wf hx
            · split
              exacts [Dev.frogMember_wf hx, Dev.commitMember_wf hx]
        · refine Dev.modPanel_wf (Dev.forMembers_wf h (fun hx => ?_))
          split
          · exact hx
          · split
            · exact Dev.frogMember_wf hx
            · split
              exacts [Dev.frogMember_wf hx, Dev.commitMember_wf hx]

theorem Dev.rowCommit_wf {s : Nat} (h : d.Wf) : (d.rowCommit s).Wf := by
  unfold Dev.rowCommit
  split
  exacts [Dev.rowAdvance_wf h, h]

theorem Dev.startRow_wf {s : Nat} (h : d.Wf) : (d.startRow s).Wf := by
  unfold Dev.startRow
  dsimp only
  split
  · split
    · refine Dev.beginStitch_wf (Dev.forMembers_wf (Dev.modPanel_wf h) (fun hx => ?_))
      split
      · exact hx
      · split
        exacts [Dev.modMember_wf hx, Dev.beginStitch_wf hx]
    · refine Dev.forMembers_wf (Dev.modPanel_wf h) (fun hx => ?_)
      split
      · exact hx
      · split
        exacts [Dev.modMember_wf hx, Dev.beginStitch_wf hx]
  · refine Dev.forMembers_wf (Dev.modPanel_wf h) (fun hx => ?_)
    split
    · exact hx
    · split
      exacts [Dev.modMember_wf hx, Dev.beginStitch_wf hx]

theorem Dev.beginRow_wf {s : Nat} (h : d.Wf) : (d.beginRow s).Wf :=
  Dev.ite_wf h (Dev.ite_wf (Dev.startRow_wf (Dev.ite_fst_wf (Dev.scan_wf h) h)) (Dev.ite_fst_wf (Dev.scan_wf h) h))

theorem Dev.panelStart_wf {s : Nat} (h : d.Wf) : (d.panelStart s).Wf := by
  unfold Dev.panelStart
  dsimp only
  split
  exacts [Dev.beginRow_wf (Dev.modPanel_wf (Dev.setFld_wf h)), h]

theorem Dev.endBroken_wf {s : Nat} (h : d.Wf) : (d.endBroken s).Wf := by
  unfold Dev.endBroken
  dsimp only
  split
  · exact Dev.forMembers_wf (Dev.forMembers_wf h (fun hx => Dev.ite_wf (Dev.modMember_wf hx) hx)) Dev.takeLost_wf
  · exact Dev.rowAdvance_wf (Dev.forMembers_wf (Dev.forMembers_wf h (fun hx => Dev.ite_wf (Dev.modMember_wf hx) hx))
      (fun hx => Dev.ite_wf (Dev.modMember_wf (Dev.modCore_wf (Dev.giveEnds_wf hx)))
      (Dev.ite_wf (Dev.endStitch_wf (Dev.endAhead_wf hx)) (Dev.ite_wf (Dev.modMember_wf hx) hx))))

theorem Dev.pdissolve_wf {c : Nat} {ra : RegNo} (h : d.Wf) : (d.pdissolve c ra).1.Wf := by
  have hdrop : ∀ {x : Dev} (k : Nat), x.Wf → ((x.forMembers k fun x k _ => x.leavePanel k).freeSlot k).Wf :=
    fun _ hx => Dev.freeSlot_wf (Dev.forMembers_wf hx Dev.leavePanel_wf)
  rw [Dev.pdissolve]
  generalize ((d.arch c).getG ra).toNat % 16 = s
  split <;> dsimp only
  · exact Dev.modArch_wf h
  · exact Dev.modArch_wf (hdrop s h)
  · exact Dev.modArch_wf (hdrop s (Dev.endBroken_wf h))
  · exact Dev.modArch_wf (Dev.setFld_wf h)
  · exact Dev.modArch_wf h

theorem Dev.stitchEndEvent_wf {c : Nat} (h : d.Wf) : (d.stitchEndEvent c).Wf := by
  unfold Dev.stitchEndEvent
  dsimp only
  split
  · exact h
  · split
    exacts [Dev.endStitch_wf (Dev.endAhead_wf h), h]

theorem Dev.gateRead_wf {pa : Nat} (h : d.Wf) : (d.gateRead pa).1.Wf := by
  unfold Dev.gateRead
  exact Dev.readBytes_wf h

theorem Dev.gateWrite_wf {s pa : Nat} {x : Line} {poison : Bool} (h : d.Wf) : (d.gateWrite s pa x poison).Wf := by
  unfold Dev.gateWrite
  refine Dev.modPanel_wf ?_
  split
  exacts [Dev.spadSave_wf h, Dev.farSave_wf h, Dev.ioW_wf h]

theorem Dev.gateCopy_wf {s : Nat} {g : Gate} {n m : Nat} (h : d.Wf) : (d.gateCopy s g n m).1.Wf := by
  induction n generalizing d m with
  | zero =>
    exact h
  | succ n ih =>
    unfold Dev.gateCopy
    dsimp only
    split
    next e => exact Dev.wf_fst e (Dev.gateRead_wf h)
    next e => exact ih (Dev.gateWrite_wf (Dev.wf_fst e (Dev.gateRead_wf h)))

/-- `Dev.gateLive` with the gate's room as a parameter, so that no comparison of its two sides computes the room. -/
def Dev.gateLiveUpTo (d : Dev) (s gi : Nat) (g : Gate) (room : Nat) : Dev × List JEntry :=
  let head_ := d.fld (.pnlGstat s gi) .PNL_GSTAT_ADMIT
  let (d1, n, l) := d.gateCopy s g room head_
  if n = 0 then (d1, []) else (d1.wrapFld (.pnlGstat s gi) .PNL_GSTAT_ADMIT n, jent (d.point s 0 0) 4 gi n (BitVec.ofNat 64 head_) 0 :: l)

theorem Dev.gateLiveUpTo_room (d : Dev) (s gi : Nat) (g : Gate) :
    d.gateLive s gi g = d.gateLiveUpTo s gi g (d.gateRoom s gi g) := rfl

theorem Dev.gateLiveUpTo_wf {s gi room : Nat} {g : Gate} (h : d.Wf) : (d.gateLiveUpTo s gi g room).1.Wf := by
  rw [Dev.gateLiveUpTo]
  split
  next e =>
    have h1 := Dev.wf_fst e (Dev.gateCopy_wf h)
    exact Dev.ite_fst_wf h1 (Dev.wrapFld_wf h1)

theorem Dev.gateLive_wf {s gi : Nat} {g : Gate} (h : d.Wf) : (d.gateLive s gi g).1.Wf := by
  rw [Dev.gateLiveUpTo_room]
  exact Dev.gateLiveUpTo_wf h

theorem Dev.gatePlay_wf {s gi : Nat} {g : Gate} {items : List JItem} (h : d.Wf) : (d.gatePlay s gi g items).Wf := by
  unfold Dev.gatePlay
  split
  · exact h
  · refine Dev.wrapFld_wf (Dev.foldl_wf (fun _ _ hx => ?_) h)
    split
    exacts [Dev.gateWrite_wf hx, hx]

theorem Dev.suspend_wf {s c : Nat} {m : Member} {q : TrapReq} (h : d.Wf) : (d.suspend s c m q).1.Wf :=
  Dev.trapEntry_wf (Dev.modMember_wf h)

theorem Dev.noteAccess_wf {s : Nat} {ps : List Part} (h : d.Wf) : (d.noteAccess s ps).Wf := by
  unfold Dev.noteAccess
  split
  exacts [h, Dev.voidSlot_wf (Dev.countFld_wf h)]

theorem Dev.accessDone_wf {c : Nat} (h : d.Wf) : (d.accessDone c).Wf :=
  Dev.modMember_wf (Dev.modArch_wf h)

theorem Dev.accessTrap_wf {s c : Nat} {m : Member} {v code : Nat} {ea : Word} (h : d.Wf) : (d.accessTrap s c m v code ea).1.Wf :=
  Dev.ite_fst_wf (Dev.suspend_wf (Dev.ite_wf (Dev.voidSlot_wf h) h)) (Dev.modMember_wf (Dev.ite_wf (Dev.voidSlot_wf h) h))

theorem Dev.stopAccess_wf {s c : Nat} {m : Member} {q : Stop} (h : d.Wf) : (d.stopAccess s c m q).1.Wf := by
  unfold Dev.stopAccess
  split
  exacts [Dev.accessTrap_wf h, h]

theorem Dev.accessWrite_wf {c : Nat} {play : Bool} {p : Part} {b : List Byte} (h : d.Wf) : (d.accessWrite c play p b).Wf := by
  unfold Dev.accessWrite
  split
  · exact Dev.storeParts_wf h
  · split
    · split
      · exact Dev.setFld_wf h
      · split
        exacts [h, Dev.devWrite_wf h]
    · split
      exacts [h, Dev.devWrite_wf h]

theorem Dev.frameBytes_wf {c : Nat} (h : d.Wf) : (d.frameBytes c).1.Wf := by
  unfold Dev.frameBytes
  dsimp only
  split
  next e =>
    split
    · split
      next e1 => exact Dev.wf_fst e1 (frameRead_wf (Dev.wf_fst e (frameRead_wf h)))
      next e1 => exact Dev.wf_fst e1 (frameRead_wf (Dev.wf_fst e (frameRead_wf h)))
    · exact Dev.wf_fst e (frameRead_wf h)
  next e => exact Dev.wf_fst e (frameRead_wf h)

theorem Dev.retiFrom_wf {c : Nat} {b : List Byte} (h : d.Wf) : (d.retiFrom c b).1.Wf :=
  Dev.retiBy_wf h (fun hx => hx)

theorem Dev.endAccess_wf {s c : Nat} {m : Member} {vals : Option (List Word)} (h : d.Wf) : (d.endAccess s c m vals).1.Wf := by
  have hnote : ∀ {l}, (d.noteAccess s l).Wf := Dev.noteAccess_wf h
  unfold Dev.endAccess
  extract_lets pt entry _ _ f part
  split
  · exact Dev.ite_fst_wf h (Dev.takeEntries_wf (Dev.modMember_wf h))
  · split
    exacts [Dev.suspend_wf h, h]
  · exact Dev.accessDone_wf (Dev.modArch_wf h)
  · split
    next d0 b e =>
      have h0 : d0.Wf := by
        refine Dev.wf_fst e ?_
        split
        exacts [h, Dev.frameBytes_wf h]
      extract_lets d1 d2
      have h2 : d2.Wf := Dev.countFld_wf (Dev.voidSlot_wf h0)
      split
      next e => exact Dev.modMember_wf (Dev.modCore_wf (Dev.wf_fst e (Dev.retiFrom_wf h2)))
      next e => exact Dev.accessTrap_wf (Dev.wf_fst e (Dev.retiFrom_wf h2))
      next e => exact Dev.wf_fst e (Dev.retiFrom_wf h2)
  · split
    · exact Dev.accessDone_wf (Dev.modArch_wf hnote)
    · split
      next e => exact Dev.stopAccess_wf (Dev.wf_fst e (Dev.resolveAgain_wf h))
      next d0 parts e =>
        have h1 : ((d0.noteAccess s parts).readParts c parts).1.Wf :=
          Dev.readParts_wf (Dev.noteAccess_wf (Dev.wf_fst e (Dev.resolveAgain_wf h)))
        dsimp only
        split
        exacts [Dev.accessDone_wf (Dev.modArch_wf h1), Dev.accessTrap_wf h1]
  · split
    next e => exact Dev.stopAccess_wf (Dev.wf_fst e (Dev.resolveAgain_wf h))
    next e => exact Dev.accessDone_wf (Dev.foldl_wf (fun _ _ hy => Dev.accessWrite_wf hy)
        (Dev.noteAccess_wf (Dev.wf_fst e (Dev.resolveAgain_wf h))))
  · split
    · exact Dev.accessDone_wf (Dev.modArch_wf hnote)
    · split
      next e => exact Dev.stopAccess_wf (Dev.wf_fst e (Dev.resolveAgain_wf h))
      next d0 parts e =>
        have h0 : ∀ {l}, (d0.noteAccess s l).Wf := Dev.noteAccess_wf (Dev.wf_fst e (Dev.resolveAgain_wf h))
        dsimp only
        split
        next e => exact Dev.accessTrap_wf (Dev.wf_fst e (Dev.atomicNow_wf h0))
        next e => exact Dev.accessDone_wf (Dev.modArch_wf (Dev.wf_fst e (Dev.atomicNow_wf h0)))

theorem Dev.flushHeld_wf {c : Nat} {m : Member} (h : d.Wf) : (d.flushHeld c m).Wf := by
  unfold Dev.flushHeld
  dsimp only
  split
  · exact Dev.modMember_wf h
  · refine Dev.foldl_wf (fun _ _ hx => ?_) (Dev.modMember_wf h)
    split
    · exact Dev.eqWrite_wf hx
    · split
      · split
        exacts [Dev.eqWrite_wf hx, Dev.setAct_wf (Dev.eqWrite_wf hx)]
      · refine Dev.setWaiting_wf ?_
        split
        exacts [Dev.eqWrite_wf hx, Dev.setAct_wf (Dev.eqWrite_wf hx)]

theorem Dev.chooseInterrupt_wf {s c : Nat} {m : Member} {play : Option (Option (Nat × Nat))} (h : d.Wf) :
    (d.chooseInterrupt s c m play).1.Wf := by
  unfold Dev.chooseInterrupt
  dsimp only
  split
  · exact h
  · exact Dev.ite_fst_wf (Dev.trapEntry_wf (Dev.modMember_wf (Dev.takeEntries_wf (Dev.ite_wf (Dev.vpTake_wf h) h))))
      (Dev.modMember_wf (Dev.ite_wf (Dev.vpTake_wf h) h))

theorem Dev.eachMember_wf {s : Nat} {f : Dev → Nat → Member → Dev × List JEntry}
    (h : d.Wf) (hf : ∀ {x : Dev} {n : Nat} {y : Member}, x.Wf → (f x n y).1.Wf) : (d.eachMember s f).1.Wf := by
  unfold Dev.eachMember
  refine Dev.foldl_fst_wf (fun _ _ hy => ?_) h
  split
  · split
    exacts [hy, hf hy]
  · exact hy

theorem Dev.writeJournal_wf {s n : Nat} (h : d.Wf) : (d.writeJournal s n).Wf := by
  induction n generalizing d with
  | zero =>
    exact h
  | succ n ih =>
    unfold Dev.writeJournal
    dsimp only
    split
    · exact h
    · split
      · exact Dev.modPanel_wf h
      · split
        · exact h
        · split
          · exact Dev.modPanel_wf (Dev.setFld_wf (Dev.writeBytesAs_wf h))
          · exact ih (Dev.modPanel_wf (Dev.ringLevel_wf (Dev.wrapFld_wf (Dev.writeBytesAs_wf h))))

theorem Dev.rowNext_wf {s : Nat} (h : d.Wf) : (d.rowNext s).Wf := by
  unfold Dev.rowNext
  dsimp only
  split
  · exact Dev.writeJournal_wf h
  · split
    · exact Dev.freeSlot_wf (Dev.forMembers_wf (Dev.writeJournal_wf h) (fun hx => Dev.takeEntries_wf (Dev.leavePanel_wf hx)))
    · exact Dev.beginRow_wf (Dev.modPanel_wf (Dev.setFld_wf (Dev.writeJournal_wf h)))

theorem Dev.lostAll_wf {s : Nat} (h : d.Wf) : (d.lostAll s).Wf :=
  Dev.modPanel_wf (Dev.forMembers_wf h Dev.takeLost_wf)

theorem Dev.coreLost_wf {c : Nat} (h : d.Wf) : (d.coreLost c).Wf := by
  unfold Dev.coreLost
  dsimp only
  split
  · split
    · exact Dev.lostAll_wf (Dev.declareDead_wf (Dev.report_wf h))
    · exact Dev.declareDead_wf (Dev.report_wf h)
  · exact Dev.declareDead_wf (Dev.report_wf h)

theorem Dev.boundaryStep_wf {s : Nat} (h : d.Wf) : (d.boundaryStep s).Wf := by
  rw [Dev.boundaryStep]
  refine Dev.ite_wf (Dev.lostAll_wf h) ?_
  split
  · exact Dev.beginRow_wf h
  · exact Dev.rowNext_wf h
  · refine Dev.ite_wf h ?_
    extract_lets cores moved homeless lost
    have hm : moved.Wf := Dev.ckMove_wf h
    refine Dev.ite_wf (Dev.lostAll_wf (Dev.foldl_wf (fun _ _ hx => Dev.coreLost_wf hx) hm)) ?_
    split
    next d1 r e1 =>
      have h1 : d1.Wf := Dev.wf_fst e1 (Dev.ite_fst_wf (Dev.scan_wf hm) hm)
      extract_lets play d2 frogs gates
      have h2 : d2.Wf := Dev.ite_wf (Dev.diverge_wf h1) h1
      clear_value play d2 frogs gates
      split
      next d3 gs e3 =>
        have h3 : d3.Wf := by
          refine Dev.wf_fst e3 (Dev.foldl_fst_wf (fun _ _ hx => Dev.ite_fst_wf (Dev.gatePlay_wf hx) ?_) h2)
          split
          next e => exact Dev.wf_fst e (Dev.gateLive_wf hx)
        split
        next d4 accs e4 =>
          have h4 : d4.Wf := Dev.wf_fst e4 (Dev.eachMember_wf h3 Dev.endAccess_wf)
          extract_lets resumes d5 dissolve
          have h5 : d5.Wf := Dev.forMembers_wf (Dev.forMembers_wf h4 Dev.flushHeld_wf) Dev.modMember_wf
          split
          next d6 intrs e6 =>
            have h6 : d6.Wf := Dev.wf_fst e6 (Dev.ite_fst_wf h5 (Dev.eachMember_wf h5 Dev.chooseInterrupt_wf))
            extract_lets fin out d7 d8
            have h7 : d7.Wf := Dev.ite_wf (Dev.setFld_wf h6) h6
            have h8 : d8.Wf := Dev.ite_wf (Dev.setFld_wf h7) h7
            exact Dev.rowNext_wf (Dev.modPanel_wf h8)
  · exact h

theorem Dev.journalGo_wf {s : Nat} (h : d.Wf) : (d.journalGo s).Wf := by
  unfold Dev.journalGo
  split
  · exact h
  · split
    exacts [Dev.rowNext_wf h, Dev.beginRow_wf h, h]

/-! ### Recover -/

theorem Dev.setCoreClass_wf {c x : Nat} (h : d.Wf) : (d.setCoreClass c x).Wf :=
  Dev.foldl_wf (fun _ _ hx => Dev.setFld_wf hx) h

theorem Dev.substitute_wf {c t : Nat} (h : d.Wf) : (d.substitute c t).Wf := by
  unfold Dev.substitute
  refine Dev.setCore_wf (Dev.applyPatch_wf (Dev.setReg_wf (Dev.setReg_wf ?_)))
  split
  · exact Dev.setPower_wf (Dev.setCoreClass_wf (Dev.setFld_wf (Dev.setFlds_wf (Dev.setFld_wf (Dev.setFlds_wf h)))))
  · exact Dev.setFlds_wf (Dev.setPower_wf (Dev.setCoreClass_wf (Dev.setFld_wf (Dev.setFlds_wf (Dev.setFld_wf (Dev.setFlds_wf h))))))

theorem Dev.release_wf {c : Nat} (h : d.Wf) : (d.release c).Wf :=
  Dev.wf_mk (Dev.unitOff_wf h)

theorem Dev.retarget_wf {c t : Nat} (h : d.Wf) : (d.retarget c t).Wf :=
  Dev.wf_mk h

theorem Dev.cleanFaulted_wf {c : Nat} {readable : Bool} (h : d.Wf) : (d.cleanFaulted c readable).Wf := by
  unfold Dev.cleanFaulted
  refine Dev.forgetCore_wf ?_
  split
  · exact Dev.cleanCore_wf (Dev.drainStores_wf h)
  · refine Dev.modCore_wf (Dev.foldl_wf (fun _ _ hx => ?_) h)
    split
    exacts [Dev.markLost_wf _ hx, hx]

theorem Dev.recovered_wf {c t : Nat} (h : d.Wf) : (d.recovered c t).Wf :=
  Dev.report_wf h

theorem Dev.hardFault_wf {c : Nat} {f : FaultReport} (h : d.Wf) : (d.hardFault c f).Wf := by
  unfold Dev.hardFault
  refine Dev.ite_wf h ?_
  extract_lets was d0 set lost d1 d1'
  have h0 : d0.Wf := Dev.modCore_wf h
  have hset : ∀ {x r}, x.Wf → (set x r).Wf := Dev.modCore_wf
  have hlost : ∀ {x}, x.Wf → (lost x).Wf := fun hx => Dev.ite_wf (Dev.coreLost_wf hx) (Dev.unitOff_wf (Dev.setFld_wf (Dev.coreLost_wf hx)))
  clear_value d0 set lost
  split
  · have h1 : d1.Wf := Dev.cleanFaulted_wf (Dev.modMember_wf (Dev.giveEnds_wf h0))
    refine Dev.ite_wf (hset h1) ?_
    split
    · exact hset (Dev.substitute_wf h1)
    · exact hlost h1
  · have h1 : d1'.Wf := Dev.cleanFaulted_wf h0
    refine Dev.ite_wf (hlost h1) (Dev.ite_wf (Dev.recovered_wf (Dev.modCore_wf h0)) ?_)
    split
    · exact hset (Dev.substitute_wf h1)
    · exact hlost h1

theorem Dev.countReplay_wf {t : Nat} {m : Member} (h : d.Wf) : (d.countReplay t m).Wf :=
  Dev.countFld_wf (Dev.countFld_wf (Dev.modPanel_wf h))

theorem Dev.moveCore_wf {c t : Nat} {run : RunState} (h : d.Wf) : (d.moveCore c t run).Wf :=
  Dev.release_wf (Dev.retarget_wf (Dev.modCore_wf (Dev.setReg_wf h)))

theorem Dev.replayOn_wf {c t : Nat} (h : d.Wf) : (d.replayOn c t).Wf := by
  unfold Dev.replayOn
  split
  · exact Dev.recovered_wf (Dev.ite_wf (Dev.modCore_wf h) (Dev.moveCore_wf h))
  · exact Dev.recovered_wf (Dev.ite_wf (Dev.modCore_wf (Dev.ite_wf h (Dev.release_wf h)))
      (Dev.ite_wf (Dev.endStitch_wf (Dev.countReplay_wf (Dev.modMember_wf (Dev.startStitch_wf
      (Dev.modCore_wf (Dev.ite_wf h (Dev.release_wf h))))))) (Dev.countReplay_wf
      (Dev.modMember_wf (Dev.startStitch_wf (Dev.modCore_wf (Dev.ite_wf h (Dev.release_wf h))))))))

theorem Dev.stitchReplay_wf {c : Nat} (h : d.Wf) : (d.stitchReplay c).Wf := by
  unfold Dev.stitchReplay
  split
  exacts [Dev.replayOn_wf h, h]

theorem Dev.coreTransplant_wf {c : Nat} (h : d.Wf) : (d.coreTransplant c).Wf := by
  unfold Dev.coreTransplant
  split
  exacts [Dev.recovered_wf (Dev.moveCore_wf h), h]

theorem Dev.substituteNow_wf {c t : Nat} (h : d.Wf) : (d.substituteNow c t).Wf :=
  Dev.ite_wf h (Dev.govLog_wf (Dev.setGov_wf (Dev.moveCore_wf (Dev.substitute_wf (Dev.cleanFaulted_wf h)))))

theorem Dev.spareSub_wf {u : SpareUnit} (h : d.Wf) : (d.spareSub u).Wf := by
  unfold Dev.spareSub
  dsimp only
  split
  · split
    · exact h
    · split
      · exact Dev.govLog_wf h
      · split
        · exact Dev.substituteNow_wf h
        · split
          exacts [Dev.govLog_wf h, h]
  · split
    · exact h
    · split
      · exact Dev.govLog_wf h
      · split
        · split
          exacts [h, Dev.govLog_wf (Dev.queueRebuild_wf h)]
        · split
          exacts [Dev.govLog_wf h, h]
  · exact Dev.govLog_wf h
  · exact Dev.govLog_wf h
  · exact Dev.govLog_wf h

/-! ### OdServe -/

theorem Dev.setDict_wf {x : Dict} (h : d.Wf) : (d.setDict x).Wf :=
  Dev.wf_mk h

theorem Dev.odAnswer_wf {r : OdRequest} {x : OdResponse} (h : d.Wf) : (d.odAnswer r x).Wf := by
  unfold Dev.odAnswer
  split
  · exact Dev.setDict_wf h
  · exact Dev.mailAnswer_wf (Dev.setDict_wf h)
  · exact Dev.mailAnswer_wf (Dev.setDict_wf h)

theorem Dev.odStatus_wf {r : OdRequest} {op status : Nat} (h : d.Wf) : (d.odStatus r op status).Wf :=
  Dev.odAnswer_wf h

theorem Dev.odForward_wf {r : OdRequest} {op : Nat} (h : d.Wf) : (d.odForward r op).Wf := by
  unfold Dev.odForward
  split
  · exact h
  · split
    exacts [Dev.odStatus_wf h, Dev.wf_mk h]

theorem Dev.odBadToken_wf {r : OdRequest} {op : Nat} (h : d.Wf) : (d.odBadToken r op).Wf := by
  unfold Dev.odBadToken
  dsimp only
  split
  · split
    · exact Dev.setFld_wf (Dev.countFld_wf (Dev.odStatus_wf h))
    · exact Dev.countFld_wf (Dev.odStatus_wf h)
  · exact Dev.odStatus_wf h

theorem Dev.odServe_wf {r : OdRequest} {op : Nat} {f : Dev → Session → Dev} (h : d.Wf) (hf : ∀ {x : Dev} {y : Session}, x.Wf → (f x y).Wf) :
    (d.odServe r op f).Wf := by
  unfold Dev.odServe
  split
  · exact h
  · split
    · exact Dev.odForward_wf h
    · split
      · exact Dev.odStatus_wf h
      · split
        · exact Dev.odStatus_wf h
        · split
          · exact Dev.odStatus_wf h
          · split
            exacts [Dev.odBadToken_wf h, hf h]

theorem Dev.modSession_wf {t : Word32} {f : Session → Session} (h : d.Wf) : (d.modSession t f).Wf :=
  Dev.setDict_wf h

theorem Dev.newToken_wf (h : d.Wf) : d.newToken.1.Wf := by
  unfold Dev.newToken
  dsimp only
  split <;> exact Dev.wf_mk h

theorem Dev.odOpen_wf {r : OdRequest} (h : d.Wf) : (d.odOpen r).Wf := by
  unfold Dev.odOpen
  split
  · exact h
  · split
    · exact Dev.odForward_wf h
    · split
      · exact Dev.odStatus_wf h
      · split
        · exact Dev.odStatus_wf h
        · split
          · exact Dev.odStatus_wf h
          · split
            · exact Dev.odStatus_wf h
            · exact Dev.odAnswer_wf (Dev.setDict_wf (Dev.newToken_wf h))

theorem Dev.endSession_wf {t : Word32} (h : d.Wf) : (d.endSession t).Wf :=
  Dev.setDict_wf h

theorem Dev.odClose_wf {r : OdRequest} (h : d.Wf) : (d.odClose r).Wf :=
  Dev.odServe_wf h (fun hx => Dev.odStatus_wf (Dev.endSession_wf hx))

theorem Dev.transferStall_wf {n : Nat} (h : d.Wf) : (d.transferStall n).Wf := by
  unfold Dev.transferStall
  split
  exacts [Dev.setDict_wf h, h]

theorem Dev.odRequestRead_wf {r : OdRequest} (h : d.Wf) : (d.odRequestRead r).Wf := by
  unfold Dev.odRequestRead
  dsimp only
  refine Dev.odServe_wf h (fun hx => ?_)
  split
  · exact Dev.odStatus_wf hx
  · split
    · exact Dev.odStatus_wf hx
    · split
      · exact Dev.odStatus_wf hx
      · split
        · exact Dev.odStatus_wf (Dev.odRead_wf hx)
        · exact Dev.odAnswer_wf (Dev.odRead_wf hx)

theorem Dev.odRequestDescribe_wf {r : OdRequest} (h : d.Wf) : (d.odRequestDescribe r).Wf := by
  unfold Dev.odRequestDescribe
  refine Dev.odServe_wf h (fun hx => ?_)
  split
  · exact Dev.odStatus_wf hx
  · split
    exacts [Dev.odStatus_wf hx, Dev.odAnswer_wf hx]

theorem Dev.odStage_wf {r : OdRequest} (h : d.Wf) : (d.odStage r).Wf := by
  unfold Dev.odStage
  refine Dev.odServe_wf h (fun hx => ?_)
  split
  · exact Dev.odStatus_wf hx
  · exact Dev.ite_wf (Dev.odStatus_wf hx) (Dev.ite_wf (Dev.odStatus_wf hx) (Dev.ite_wf (Dev.odStatus_wf hx)
      (Dev.ite_wf (Dev.odStatus_wf hx) (Dev.ite_wf (Dev.odStatus_wf hx) (Dev.ite_wf (Dev.odStatus_wf hx)
      (Dev.odStatus_wf (Dev.modSession_wf hx)))))))

theorem Dev.odDiscard_wf {r : OdRequest} (h : d.Wf) : (d.odDiscard r).Wf :=
  Dev.odServe_wf h (fun hx => Dev.odStatus_wf (Dev.modSession_wf hx))

theorem Dev.operatorMasks_wf (h : d.Wf) : d.operatorMasks.Wf := by
  unfold Dev.operatorMasks
  dsimp only
  refine Dev.foldl_wf (fun _ _ hx => ?_) h
  split
  · exact hx
  · exact Dev.govLog_wf (Dev.foldl_wf (fun _ _ hy => Dev.setFld_wf hy) hx)

theorem Dev.operatorVolts_wf (h : d.Wf) : d.operatorVolts.Wf := by
  unfold Dev.operatorVolts
  dsimp only
  split
  · exact h
  · refine Dev.foldl_wf (fun _ _ hx => ?_) h
    split
    · split
      · exact Dev.choose_wf hx
      · exact Dev.govLog_wf (Dev.vAim_wf (Dev.choose_wf hx))
    · exact hx

theorem Dev.otherVolts_wf (h : d.Wf) : d.otherVolts.Wf :=
  Dev.foldl_wf (fun _ _ hx => Dev.vAim_wf hx) h

theorem Dev.operatorPrefetch_wf (h : d.Wf) : d.operatorPrefetch.Wf := by
  unfold Dev.operatorPrefetch
  dsimp only
  split
  · exact h
  · refine Dev.foldl_wf (fun _ _ hx => ?_) h
    split
    · exact hx
    · split
      exacts [hx, Dev.govLog_wf (Dev.setReg_wf hx)]

theorem Dev.mirrorTimeouts_wf (h : d.Wf) : d.mirrorTimeouts.Wf :=
  Dev.foldl_wf (fun _ _ hx => Dev.setFlds_wf hx) h

theorem Dev.mirrorHolds_wf (h : d.Wf) : d.mirrorHolds.Wf :=
  Dev.foldl_wf (fun _ _ hx => Dev.setFld_wf hx) h

theorem Dev.keyCommand_wf {b : List Byte} (h : d.Wf) : (d.keyCommand b).Wf :=
  Dev.wf_mk h

theorem Dev.bootGood_wf (h : d.Wf) : d.bootGood.Wf := by
  unfold Dev.bootGood
  split
  exacts [Dev.setDict_wf h, h]

theorem Dev.odEffect_wf {index sub v : Nat} {b : List Byte} (h : d.Wf) : (d.odEffect index sub v b).Wf := by
  unfold Dev.odEffect
  split
  · split
    exacts [Dev.bootGood_wf h, h]
  · exact Dev.setDict_wf h
  · exact Dev.mirrorHolds_wf h
  · exact Dev.setFld_wf (Dev.showLimits_wf h)
  · split
    exacts [Dev.otherVolts_wf h, Dev.operatorVolts_wf h]
  · split
    exacts [h, Dev.operatorMasks_wf h]
  · split
    exacts [h, Dev.operatorMasks_wf h]
  · split
    exacts [Dev.govLog_wf (Dev.setCoreClass_wf h), h]
  · split
    exacts [Dev.reKey_wf h, h]
  · exact Dev.operatorPrefetch_wf h
  · exact Dev.operatorPrefetch_wf h
  · split
    · exact Dev.foldl_wf (fun _ _ hx => Dev.foldl_wf (fun _ _ hy => Dev.setCeLevel_wf hy) hx) h
    · exact h
  · split
    exacts [h, Dev.govLog_wf h]
  · split
    exacts [h, Dev.govLog_wf h]
  · exact Dev.keyCommand_wf h
  · exact Dev.mirrorTimeouts_wf h
  · exact Dev.patchWrite_wf h
  · exact Dev.setFlds_wf h
  · exact h

theorem Dev.odApply_wf {token : Word32} {s : Staged} (h : d.Wf) : (d.odApply token s).Wf := by
  unfold Dev.odApply
  dsimp only
  split
  · exact h
  · split
    · exact Dev.setDict_wf (Dev.freqBegin_wf h)
    · refine Dev.setDict_wf ?_
      split
      · refine Dev.odEffect_wf ?_
        split
        · exact h
        · split
          exacts [Dev.setDict_wf h, Dev.setOd_wf h]
      · split
        · exact h
        · split
          exacts [Dev.setDict_wf h, Dev.setOd_wf h]

theorem Dev.odStore_wf {l : List Staged} (h : d.Wf) : (d.odStore l).1.Wf := by
  unfold Dev.odStore
  dsimp only
  split
  · exact h
  · refine Dev.wf_mk (Dev.writeSettings_wf (Dev.foldl_wf (fun _ _ hx => ?_) h))
    split
    · split
      exacts [Dev.setDict_wf hx, Dev.setOd_wf hx]
    · exact hx

theorem Dev.commitStaged_wf {r : OdRequest} {s : Session} (h : d.Wf) : (d.commitStaged r s).Wf := by
  unfold Dev.commitStaged
  dsimp only
  split
  · exact Dev.odStatus_wf h
  · split
    · exact Dev.odStatus_wf h
    · split
      · exact Dev.odAnswer_wf (Dev.modSession_wf h)
      · exact Dev.odAnswer_wf h
      · split
        · exact Dev.odAnswer_wf h
        · split
          next e => exact Dev.odStatus_wf (Dev.wf_fst e (Dev.odStore_wf h))
          next e => exact Dev.odStatus_wf (Dev.modSession_wf (Dev.foldl_wf (fun _ _ hy => Dev.odApply_wf hy)
              (Dev.setDict_wf (Dev.wf_fst e (Dev.odStore_wf h)))))

/-! ### Cast -/

theorem Dev.vauxUp_wf (h : d.Wf) : d.vauxUp.Wf := by
  unfold Dev.vauxUp
  split
  exacts [h, Dev.wf_mk h]

theorem Dev.vauxLoss_wf (h : d.Wf) : d.vauxLoss.Wf := by
  unfold Dev.vauxLoss
  exact Dev.ite_wf h rfl

theorem Dev.coldCut_wf {good resetN : Bool} (h : d.Wf) : (d.coldCut good resetN).Wf := by
  unfold Dev.coldCut
  split
  exacts [h, Dev.wf_mk (Dev.cutDomains_wf h)]

theorem Dev.resetPin_wf (h : d.Wf) : d.resetPin.Wf :=
  Dev.coldCut_wf h

theorem Dev.pwrGoodLoss_wf (h : d.Wf) : d.pwrGoodLoss.Wf :=
  Dev.coldCut_wf h

theorem Dev.warmPrepare_wf (h : d.Wf) : d.warmPrepare.Wf :=
  Dev.wf_mk (Dev.cutDomains_wf (Dev.foldl_wf (fun _ _ hx => Dev.drainChan_wf hx)
    (Dev.cleanAll_wf (Dev.persistNow_wf (Dev.makeRecord_wf h)))))

theorem Dev.resetGo_wf (h : d.Wf) : d.resetGo.Wf := by
  unfold Dev.resetGo
  split
  · exact Dev.castOffRun_wf h
  · exact Dev.warmPrepare_wf h
  · exact Dev.castOffRun_wf h
  · exact h

theorem Dev.odCommit_wf {r : OdRequest} (h : d.Wf) : (d.odCommit r).Wf := by
  unfold Dev.odCommit
  dsimp only
  refine Dev.odServe_wf h (fun hx => ?_)
  split
  · exact Dev.resetGo_wf (Dev.commitStaged_wf hx)
  · exact Dev.commitStaged_wf hx

theorem Dev.castStep1_wf {k : CastOnInput} (h : d.Wf) : (d.castStep1 k).Wf :=
  Dev.wf_mk (Dev.setOd_wf h)

theorem Dev.keepSense_wf {old : Dev} (h : d.Wf) : (d.keepSense old).Wf := by
  unfold Dev.keepSense
  dsimp only
  refine Dev.foldl_wf (fun _ _ hy => ?_) h
  split
  · split
    exacts [hy, Dev.modDom_wf hy]
  · refine Dev.countFld_wf (Dev.setFlds_wf (Dev.setFld_wf (Dev.modDom_wf ?_)))
    split
    exacts [hy, Dev.modDom_wf hy]

theorem Dev.clearFor_wf {warm : Bool} (h : d.Wf) : (d.clearFor warm).Wf := by
  have hm : Memory.wf (if warm then d.mem else []) = true := by
    cases warm
    · rfl
    · exact h
  unfold Dev.clearFor
  extract_lets r keepCsr _ _ _ d0 d1 d2 d3
  have h0 : d0.Wf := hm
  have h1 : d1.Wf := Dev.foldl_wf (fun _ _ hx => Dev.setDead_wf hx) h0
  have h2 : d2.Wf := Dev.ite_wf (Dev.keepSense_wf h1) h1
  have h3 : d3.Wf := Dev.ite_wf (Dev.setFld_wf (Dev.setReg_wf (Dev.setReg_wf (Dev.setReg_wf h2)))) h2
  exact Dev.setDict_wf h3

theorem Dev.chooseFw_wf {k : CastOnInput} (h : d.Wf) : (d.chooseFw k).1.Wf := by
  unfold Dev.chooseFw
  dsimp only
  split
  · exact Dev.foldl_wf (fun _ _ hx => Dev.err_wf hx) (Dev.setDict_wf h)
  · exact Dev.setDict_wf (Dev.foldl_wf (fun _ _ hx => Dev.err_wf hx) (Dev.setDict_wf h))

theorem Dev.openStore_wf {warm : Bool} (h : d.Wf) : (d.openStore warm).Wf := by
  unfold Dev.openStore
  extract_lets pick any d1 d2 d3 d4 d5
  have hpick : ∀ {x r ok put}, x.Wf → (∀ y q, y.Wf → (put y q).Wf) → (pick x r ok put).Wf :=
    fun hx hput => Dev.ite_wf (Dev.err_wf (hput _ _ hx)) (hput _ _ hx)
  clear_value pick
  have h1 : d1.Wf := hpick h fun _ _ hy => Dev.setDict_wf hy
  have h2 : d2.Wf := hpick h1 fun _ _ hy => Dev.setDict_wf hy
  have h3 : d3.Wf := hpick h2 fun _ _ hy => Dev.setDict_wf hy
  have h4 : d4.Wf := hpick h3 fun _ _ hy => Dev.setDict_wf hy
  have h5 : d5.Wf := Dev.ite_wf (Dev.loadSettings_wf h4) h4
  exact Dev.ite_wf h4 (Dev.setDict_wf h5)

theorem Dev.powerUp_wf {d0 : Dev} {k : CastOnInput} {s : FwSource} (h : d0.Wf) : (d0.powerUp k s).Wf :=
  Dev.mirrorTimeouts_wf (Dev.mirrorHolds_wf (Dev.setFlds_wf (Dev.setFlds_wf (Dev.foldl_wf (fun _ _ hx => Dev.setFlds_wf hx)
    (Dev.foldl_wf (fun _ _ hx => Dev.setFlds_wf hx) (Dev.foldl_wf (fun _ _ hx => Dev.setFlds_wf hx)
    (Dev.foldl_wf (fun _ _ hx => Dev.modDom_wf hx) h)))))))

theorem Dev.setDomain_wf {k st : Nat} (h : d.Wf) : (d.setDomain k st).Wf :=
  Dev.setFld_wf (Dev.setPower_wf h)

theorem Dev.castMarch_wf {k : CastOnInput} {warm : Bool} (h : d.Wf) : (d.castMarch k warm).1.Wf :=
  Dev.ite_fst_wf (Dev.foldl_wf (fun _ _ hx => Dev.showSpares_wf hx) h) (Dev.foldl_fst_wf (fun _ _ hx => Dev.marchRepair_wf hx)
    (Dev.foldl_wf (fun _ _ hx => Dev.showSpares_wf hx) h))

theorem Dev.enable_wf {d0 : Dev} {k : CastOnInput} {warm : Bool} (h : d0.Wf) : (d0.enable k warm).Wf :=
  Dev.foldl_wf (fun _ _ hx => Dev.setCoreClass_wf hx) (Dev.foldl_wf (fun _ _ hx => Dev.foldl_wf (fun _ _ hy => Dev.setFld_wf hy) hx)
    (Dev.foldl_wf (fun _ _ hx => Dev.modSlice_wf (Dev.setDomain_wf (Dev.setFld_wf (Dev.draw_wf hx))))
    (Dev.foldl_wf (fun _ _ hx => Dev.setFld_wf (Dev.setReg_wf hx)) (Dev.foldl_wf (fun _ _ hx => Dev.setFlds_wf hx)
    (Dev.foldl_wf (fun _ _ hx => Dev.setDomain_wf (Dev.setFld_wf (Dev.setFlds_wf hx))) (Dev.castMarch_wf h))))))

theorem Dev.mapSlices_wf (h : d.Wf) : d.mapSlices.Wf := by
  unfold Dev.mapSlices
  extract_lets numa
  split
  next e =>
    have h1 := Dev.wf_fst e (Dev.newKey_wf h)
    extract_lets map d2 d3
    have h2 : d2.Wf := Dev.ckInit_wf (Dev.setHash_wf h1)
    have h3 : d3.Wf := Dev.foldl_wf (fun _ _ hx => Dev.setDomain_wf hx) h2
    exact Dev.foldl_wf (fun _ _ hx => Dev.setDomain_wf (Dev.engDead_wf hx)) h3

theorem Dev.fillMc_wf {ch : Nat} (h : d.Wf) : (d.fillMc ch).Wf :=
  Dev.setFlds_wf (Dev.setFld_wf (Dev.setFld_wf (Dev.setReg_wf (Dev.setReg_wf (Dev.setReg_wf
    (Dev.setReg_wf (Dev.setReg_wf (Dev.setReg_wf (Dev.setReg_wf (Dev.setReg_wf h))))))))))

theorem Dev.decoders_wf (h : d.Wf) : d.decoders.Wf := by
  unfold Dev.decoders
  dsimp only
  refine Dev.foldl_wf (fun _ _ hx => ?_) h
  split
  · exact Dev.setReg_wf (Dev.setReg_wf hx)
  · exact Dev.setFlds_wf (Dev.setFlds_wf hx)

theorem Dev.storeTraining_wf (h : d.Wf) : d.storeTraining.Wf := by
  unfold Dev.storeTraining
  split
  next e => exact Dev.setDict_wf (Dev.wf_fst e (Dev.storeWorks_wf h))
  next e => exact Dev.err_wf (Dev.setDict_wf (Dev.wf_fst e (Dev.storeWorks_wf h)))

theorem Dev.castMemory_wf {e : Dev} {k : CastOnInput} {warm : Bool} (h : d.Wf)
    (he : d.castMemory k warm = some e) : e.Wf := by
  unfold Dev.castMemory at he
  extract_lets set _ d1 at he
  have hset : ∀ {x : Dev}, x.Wf → (set x).decoders.Wf := fun hx =>
    Dev.decoders_wf (Dev.foldl_wf (fun _ _ hy =>
      Dev.ite_wf (Dev.setDomain_wf (Dev.fillMc_wf hy)) (Dev.setDomain_wf (Dev.setFld_wf hy))) hx)
  have h1 : d1.Wf := by
    refine Dev.foldl_wf (fun _ _ hx => ?_) h
    split
    · exact Dev.modChan_wf hx
    · exact hx
  split at he
  · obtain rfl := Option.some.inj he
    exact hset h
  · split at he
    · exact nomatch he
    · extract_lets d2 n fast codes d3 at he
      have h3 : d3.Wf :=
        Dev.foldl_wf (fun _ _ hx => Dev.modChan_wf hx) (Dev.foldl_wf (fun _ _ hx => Dev.modChan_wf hx) h1)
      obtain rfl := Option.some.inj he
      exact hset (Dev.ite_wf h3 (Dev.storeTraining_wf h3))

theorem Dev.castPatch_wf {warm : Bool} (h : d.Wf) : (d.castPatch warm).Wf := by
  unfold Dev.castPatch
  dsimp only
  split
  · refine Dev.foldl_wf (fun _ _ hx => Dev.modCore_wf (Dev.setFlds_wf hx)) (Dev.wf_mk ?_)
    split
    exacts [Dev.setOd_wf h, h]
  · split
    · refine Dev.foldl_wf (fun _ _ hx => Dev.modCore_wf (Dev.setFlds_wf hx)) (Dev.wf_mk ?_)
      split
      exacts [Dev.setOd_wf h, h]
    · split
      · refine Dev.foldl_wf (fun _ _ hx => Dev.modCore_wf (Dev.setFlds_wf hx)) (Dev.wf_mk (Dev.setOd_wf ?_))
        split
        exacts [Dev.setOd_wf h, h]
      · refine Dev.err_wf (Dev.foldl_wf (fun _ _ hx => Dev.modCore_wf (Dev.setFlds_wf hx)) (Dev.wf_mk (Dev.setOd_wf ?_)))
        split
        exacts [Dev.setOd_wf h, h]

theorem Dev.castPorts_wf {k : CastOnInput} (h : d.Wf) : (d.castPorts k).Wf := by
  unfold Dev.castPorts
  dsimp only
  refine Dev.foldl_wf (fun _ _ hx => Dev.setDomain_wf (Dev.setFlds_wf hx)) (Dev.foldl_wf (fun _ _ hx => ?_) (Dev.wf_mk h))
  split
  exacts [hx, Dev.modPort_wf hx]

theorem Dev.castBrx_wf {k : CastOnInput} (h : d.Wf) : (d.castBrx k).Wf := by
  unfold Dev.castBrx
  dsimp only
  refine Dev.foldl_wf (fun _ _ hx => ?_) h
  split
  · exact hx
  · split
    exacts [Dev.wf_mk hx, Dev.wf_mk (Dev.setFlds_wf (Dev.modLink_wf hx))]

theorem Dev.castCauses_wf {warm byPin : Bool} (h : d.Wf) : (d.castCauses warm byPin).Wf :=
  Dev.foldl_wf (fun _ _ hx => Dev.setReg_wf hx) (Dev.setReg_wf h)

theorem Dev.loadImage_wf {n m : Nat} {l : List Byte} (h : d.Wf) : (d.loadImage n m l).Wf := by
  induction n generalizing d m l with
  | zero => exact h
  | succ n ih =>
    cases l with
    | nil => exact h
    | cons b bs =>
      unfold Dev.loadImage
      have hw := Dev.writeBytesAs_wf (who := evAgent) (key := 0) (n := 2) (m := m)
        (l := (b :: bs).take (64 - m % 64)) (Dev.makeRoom_wf h)
      exact ih hw

theorem Dev.castDone_wf {ok : Bool} (h : d.Wf) : (d.castDone ok).Wf := by
  unfold Dev.castDone
  dsimp only
  split
  · split
    · exact Dev.startCore_wf (Dev.setDomain_wf (Dev.setFld_wf (Dev.loadImage_wf (Dev.wf_mk (Dev.persist_wf (Dev.makeRecord_wf h))))))
    · exact Dev.setFld_wf (Dev.loadImage_wf (Dev.wf_mk (Dev.persist_wf (Dev.makeRecord_wf h))))
  · exact Dev.setFld_wf (Dev.draw_wf (Dev.wf_mk (Dev.persist_wf (Dev.makeRecord_wf h))))

theorem Dev.castFrom2_wf {k : CastOnInput} {warm : Bool} (h : d.Wf) : (d.castFrom2 k warm).Wf := by
  unfold Dev.castFrom2
  have hc : (d.clearFor warm).Wf := Dev.clearFor_wf h
  refine Dev.ite_wf (Dev.castHalt_wf hc) ?_
  extract_lets d1
  have h1 : d1.Wf := Dev.openStore_wf hc
  clear_value d1
  split
  next e => exact Dev.castHalt_wf (Dev.wf_fst e (Dev.chooseFw_wf h1))
  next d2 s e =>
    have h2 : d2.Wf := Dev.wf_fst e (Dev.chooseFw_wf h1)
    extract_lets d30 d3
    have h30 : d30.Wf := Dev.powerUp_wf (Dev.castCauses_wf h2)
    have h3 : d3.Wf := Dev.enable_wf h30
    clear_value d3 d30
    refine Dev.ite_wf (Dev.castHalt_wf h30) ?_
    refine Dev.ite_wf (Dev.castHalt_wf h3) ?_
    split
    · exact Dev.castHalt_wf (Dev.mapSlices_wf h3)
    next d4 e4 =>
      have h4 : d4.Wf := Dev.castMemory_wf (Dev.mapSlices_wf h3) e4
      split
      next i d5 e5 =>
        have h5 : d5.Wf := Dev.wf_snd e5 (Dev.draw_wf h4)
        extract_lets d6 d7 _ d8
        have h6 : d6.Wf := Dev.ite_wf h5 (Dev.wf_mk h5)
        have h7 : d7.Wf := Dev.castBrx_wf (Dev.castPorts_wf (Dev.castPatch_wf h6))
        have h8 : d8.Wf := Dev.wf_mk h7
        exact Dev.ite_wf (Dev.castDone_wf (Dev.wf_mk (Dev.sendSync_wf h8))) h8

theorem Dev.castOn_wf {k : CastOnInput} (h : d.Wf) : (d.castOn k).Wf := by
  unfold Dev.castOn
  dsimp only
  split
  · split
    · exact Dev.castFrom2_wf h
    · split
      · exact Dev.wf_mk (Dev.castStep1_wf h)
      · exact Dev.castFrom2_wf (Dev.castStep1_wf h)
  · split
    · exact Dev.castFrom2_wf h
    · split
      · exact Dev.wf_mk (Dev.castStep1_wf h)
      · exact Dev.castFrom2_wf (Dev.castStep1_wf h)
  · exact h

theorem Dev.workerRelease_wf (h : d.Wf) : d.workerRelease.Wf := by
  unfold Dev.workerRelease
  split
  exacts [Dev.castDone_wf (Dev.wf_mk (Dev.storeWorks_wf h)), h]

theorem Dev.castOffCommand_wf {why : CastOffCause} (h : d.Wf) : (d.castOffCommand why).Wf := by
  unfold Dev.castOffCommand
  split
  exacts [Dev.castOffRun_wf h, h]

/-! ### Instructions (R44): the work of each keeps memory canonical -/

theorem regWork_keepsWf {x : Ctx} {srcs dsts : List Nat} {f : Arch → Arch} : (regWork x srcs dsts f).KeepsWf :=
  ⟨Dev.modArch_wf, Dev.modArch_wf⟩

theorem sysWork_keepsWf {body : Dev → Dev × Ret} (hb : ∀ {d : Dev}, d.Wf → (body d).1.Wf) : (sysWork body).KeepsWf :=
  ⟨hb, id⟩

theorem branchWork_keepsWf {x : Ctx} {srcs dsts : List Nat} {indirect pop : Bool} {target : Arch → Word} {link : Option RegNo} :
    (branchWork x srcs dsts indirect target link pop).KeepsWf where
  body h := Dev.ite_fst_wf h (Dev.modCore_wf h)
  ahead h := Dev.modArch_wf h

theorem loadWork_keepsWf {x : Ctx} {srcs dsts : List Nat} {width : Nat} {eas : Arch → List Word} {dest : LoadDest} :
    (loadWork x srcs dsts width eas dest).KeepsWf where
  body h := by
    dsimp only [loadWork]
    split
    next e => exact Dev.wf_fst e (Dev.loadAll_wf h)
    next e => exact Dev.modArch_wf (Dev.wf_fst e (Dev.loadAll_wf h))
  ahead h := Dev.aheadLoad_wf h

theorem storeWork_keepsWf {x : Ctx} {srcs : List Nat} {width : Nat} {eas : Arch → List Word} {bytes : Arch → List Byte} :
    (storeWork x srcs width eas bytes).KeepsWf where
  body h := by
    dsimp only [storeWork]
    split
    next e => exact Dev.wf_fst e (Dev.storeAll_wf h)
    next e => exact Dev.wf_fst e (Dev.storeAll_wf h)
  ahead h := h

theorem atomWork_keepsWf {x : Ctx} {o : OpsR} {n : Nat} {op : AtomOp} : (atomWork x o n op).KeepsWf where
  body h := by
    dsimp only [atomWork]
    split
    next e => exact Dev.wf_fst e (Dev.atomic_wf h)
    next e => exact Dev.modArch_wf (Dev.wf_fst e (Dev.atomic_wf h))
  ahead h := Dev.ite_wf h (Dev.aheadLoad_wf h)

theorem decWork_keepsWf {x : Ctx} {o : OpsD} {srcs : List Nat} {micro : Option MicroOp} {f : Arch → DecRes} :
    (decWork x o srcs micro f).KeepsWf where
  body h := by
    dsimp only [decWork]
    split
    · exact h
    · exact Dev.modArch_wf h
  ahead h := by
    dsimp only [decWork]
    split
    · exact Dev.modArch_wf h
    · exact h

theorem mfcWork_keepsWf {x : Ctx} {ra : RegNo} {k : BitVec 10} : (mfcWork x ra k).KeepsWf where
  body h := Dev.ite_fst_wf h (Dev.modArch_wf h)
  ahead h := h

theorem mtcWork_keepsWf {x : Ctx} {ra : RegNo} {k : BitVec 10} : (mtcWork x ra k).KeepsWf where
  body h := Dev.crWrite_wf h
  ahead h := h

/-! ### Commands: every one that answers leaves memory canonical -/

/-- What the outcome leaves, if it leaves a state, has canonical memory. -/
def KeepsMem (o : Host.Outcome State Fault Refusal) : Prop := ∀ t, o = .next t → t.Canonical

theorem keepsMem_next {s : State} {e : Dev} (he : e.Wf) : KeepsMem (s.next e) := by
  rintro t ⟨⟩
  exact he

theorem keepsMem_done {s : State} {e : Dev} (h : s.dev.Wf) (he : e.Wf) : KeepsMem (s.done e) :=
  keepsMem_next (Dev.close_wf h he)

theorem keepsMem_run {s : State} {x : Ctx} {i : Instr} {w : Work} (hw : w.KeepsWf) (h : s.dev.Wf) :
    KeepsMem (s.next (s.dev.run x i w)) := keepsMem_next (Dev.run_wf hw h)

theorem keepsMem_exec {i : Instr} {s : State} (h : s.dev.Wf) : KeepsMem (exec i s) := by
  cases i with
  | add | sub | and | or | xor | andn | sll | srl | sra | ror | min | max | minu | maxu | clz | ctz | popc | addw | subw | sllw | srlw
  | sraw | mul | mulh | mulhu | div | divu | rem | remu | addi | andi | ori | xori | shi | addis | addpc | cmpCc | pand | por | pnot | pxor
  | pandn | vadd | vsub | vmul | vmulh | vmin | vmax | vminu | vmaxu | vand | vor | vxor | vsll | vsrl | vsra | vadds | vsubs | vfadd
  | vfsub | vfmul | vfdiv | vfsqrt | vfmin | vfmax | vfma | vfnma | vfabs | vfneg | vceq | vcne | vclt | vcle | vcltu | vcleu | vcfeq
  | vcflt | vcfle | vcfun | vperm | vbcast | vziplo | vziphi | vunzipe | vunzipo | vsel | vcvt => exact keepsMem_run regWork_keepsWf h
  | b | bl | br | ret => exact keepsMem_run branchWork_keepsWf h
  | ldb | ldbu | ldh | ldhu | ldw | ldwu | ldd | vld | vlds | vldb => exact keepsMem_run loadWork_keepsWf h
  | stb | sth | stw | std | vst | vsts => exact keepsMem_run storeWork_keepsWf h
  | aaddW | aaddD | aswpW | aswpD | acasW | acasD => exact keepsMem_run atomWork_keepsWf h
  | dadd | dsub | dadj | dcmp | dmul | ddiv | dcvb | dcvd => exact keepsMem_run decWork_keepsWf h
  | syscall | stbnd => exact keepsMem_run (sysWork_keepsWf fun h => h) h
  | hvcall => exact keepsMem_run ⟨fun h => h, fun h => h⟩ h
  | reti => exact keepsMem_run ⟨fun h => Dev.reti_wf h, fun h => h⟩ h
  | wfe => exact keepsMem_run (sysWork_keepsWf fun h => Dev.wfe_wf h) h
  | fence | fenceIo | sbar => exact keepsMem_run (sysWork_keepsWf fun h => Dev.drainStores_wf h) h
  | pflush => exact keepsMem_run (sysWork_keepsWf fun h => Dev.pflush_wf h) h
  | pbar => exact keepsMem_run (sysWork_keepsWf fun h => Dev.modCore_wf h) h
  | mfc => exact keepsMem_run mfcWork_keepsWf h
  | mtc => exact keepsMem_run mtcWork_keepsWf h
  | tinvPage | tinvRange | tinvSegment | tinvTenant | tinvAll => exact keepsMem_run ⟨fun h => Dev.tinv_wf h, fun h => h⟩ h
  | tsync => exact keepsMem_run ⟨fun h => Dev.tsync_wf h, fun h => h⟩ h
  | clean | flush | discard | prefetch => exact keepsMem_run ⟨fun h => Dev.crngStart_wf h, fun h => h⟩ h
  | crngComplete => exact keepsMem_done h (Dev.crngEnd_wf h)
  | zmark => exact keepsMem_run ⟨fun h => Dev.zmark_wf h, fun h => h⟩ h
  | ltime => exact keepsMem_run (sysWork_keepsWf fun h => Dev.modArch_wf h) h
  | psetup => exact keepsMem_run ⟨fun h => Dev.psetup_wf h, fun h => h⟩ h
  | pdissolve => exact keepsMem_run ⟨fun h => Dev.pdissolve_wf h, fun h => h⟩ h
  | undefinedOperation => exact keepsMem_done h (Dev.undefinedOp_wf h)
  | interrupt => exact keepsMem_done h (Dev.interrupt_wf h)
  | wfeWake => exact keepsMem_next (Dev.wfeWake_wf h)
  | runAheadEntry => exact keepsMem_done h (Dev.aheadEnter_wf h)
  | runAheadEnd => exact keepsMem_done h (Dev.aheadLeave_wf h)
  | transientReplay => exact keepsMem_next (Dev.replay_wf h)
  | hardFault => exact keepsMem_done h (Dev.hardFault_wf h)
  | stitchReplay => exact keepsMem_done h (Dev.stitchReplay_wf h)
  | coreTransplant => exact keepsMem_done h (Dev.coreTransplant_wf h)
  | spareSubstitution => exact keepsMem_done h (Dev.spareSub_wf h)
  | hardwarePrefetch => exact keepsMem_done h (Dev.hwPrefetch_wf h)
  | rds | rdo | upg | rdna | iow | wbd | evc => exact keepsMem_done h (Dev.deliver_wf h Dev.homeTake_wf)
  | csrrd | csrwr => exact keepsMem_done h (Dev.deliver_wf h Dev.csrPacket_wf)
  | devrd | devwr => exact keepsMem_done h (Dev.deliver_wf h Dev.devPacket_wf)
  | msg => exact keepsMem_done h (Dev.deliver_wf h Dev.msgPacket_wf)
  | snp | snpinv | backinv => exact keepsMem_done h (Dev.deliver_wf h Dev.snoopArrive_wf)
  | setflush => exact keepsMem_done h (Dev.setFlushAt_wf h)
  | xlateinv => exact keepsMem_done h (Dev.xlateInv_wf h)
  | grant => exact keepsMem_done h (Dev.deliver_wf h Dev.takeGrant_wf)
  | ack => exact keepsMem_done h (Dev.deliver_wf h Dev.homeAck_wf)
  | nocopy => exact keepsMem_done h (Dev.deliver_wf h Dev.homeNoCopy_wf)
  | copylost => exact keepsMem_done h (Dev.deliver_wf h Dev.homeLost_wf)
  | cmp => exact keepsMem_done h (Dev.deliver_wf h Dev.takeCmp_wf)
  | err => exact keepsMem_done h (Dev.deliver_wf h Dev.takeErr_wf)
  | xlateack => exact keepsMem_next (Dev.xlateAck_wf h)
  | data => exact keepsMem_done h (Dev.deliver_wf h Dev.takeData_wf)
  | snpdata => exact keepsMem_done h (Dev.deliver_wf h Dev.homeSnpData_wf)
  | linkRetry => exact keepsMem_next (Dev.linkRetry_wf h)
  | portIsolation => exact keepsMem_done h (Dev.isolate_wf h)
  | wormAbort => exact keepsMem_next (Dev.wormAbort_wf h)
  | portReenable => exact keepsMem_next (Dev.reenable_wf h)
  | parkedPacketDiscard => exact keepsMem_done h (Dev.discardParked_wf h)
  | endToEndTimeout => exact keepsMem_done h (Dev.endToEnd_wf h)
  | fabObsCtl => exact keepsMem_next (Dev.obsCtl_wf h)
  | wayMaskUpdate => exact keepsMem_done h (Dev.wayMask_wf h)
  | reKey => exact keepsMem_done h (Dev.reKey_wf h)
  | rebuildStart => exact keepsMem_done h (Dev.rebuildBegin_wf h)
  | rebuildSet => exact keepsMem_done h (Dev.rebuildSet_wf h)
  | deadAgentDeclaration => exact keepsMem_done h (Dev.declareDead_wf h)
  | reclamationWalk => exact keepsMem_done h (Dev.walkStep_wf h)
  | reclamationEnd => exact keepsMem_next (Dev.reclaimEnd_wf h)
  | readmission => exact keepsMem_done h (Dev.readmit_wf h)
  | scratchpadConversion => exact keepsMem_done h (Dev.spadConvert_wf h)
  | conversionDone => exact keepsMem_done h (Dev.spadDone_wf h)
  | scratchpadStarve => exact keepsMem_done h (Dev.spadStarve_wf h)
  | marchTest => exact keepsMem_done h (Dev.marchStart_wf h)
  | marchTestDone => exact keepsMem_done h (Dev.marchEnd_wf h)
  | panelStart => exact keepsMem_done h (Dev.panelStart_wf h)
  | stitchEnd => exact keepsMem_done h (Dev.stitchEndEvent_wf h)
  | rowCommit => exact keepsMem_done h (Dev.rowCommit_wf h)
  | boundaryStep => exact keepsMem_done h (Dev.boundaryStep_wf h)
  | journalWrite => exact keepsMem_done h (Dev.journalGo_wf h)
  | mcRead => exact keepsMem_done h (Dev.mcRead_wf h)
  | mcWrite => exact keepsMem_done h (Dev.mcAccept_wf h)
  | mcIssue => exact keepsMem_done h (Dev.mcIssue_wf h)
  | refresh => exact keepsMem_next (Dev.refreshRank_wf h)
  | dimmTemperatureRead => exact keepsMem_next (Dev.dimmTemps_wf h)
  | frequencyChange => exact keepsMem_next (Dev.freqBegin_wf h)
  | alertN => exact keepsMem_done h (Dev.alert_wf h)
  | retrain => exact keepsMem_done h (Dev.retrainBegin_wf h)
  | bucketLeak => exact keepsMem_next (Dev.leak_wf h)
  | demandScrub => exact keepsMem_next (Dev.scrubGo_wf h)
  | demandScrubAbort => exact keepsMem_done h (Dev.scrubAbort_wf h)
  | demandScrubDone => exact keepsMem_done h (Dev.scrubEnd_wf h)
  | patrolScrub => exact keepsMem_done h (Dev.patrol_wf h)
  | zeroFillWrite => exact keepsMem_next (Dev.zeroFill_wf h)
  | swatchRun => exact keepsMem_next (Dev.swatchGo_wf h)
  | swatchRunDone => exact keepsMem_next (Dev.swatchEnd_wf h)
  | inboundRead => exact keepsMem_done h (Dev.inboundRead_wf h)
  | inboundWrite => exact keepsMem_done h (Dev.inboundWriteFrom_wf h)
  | atomicop => exact keepsMem_done h (Dev.inboundAtomic_wf h)
  | translationRequest => exact keepsMem_done h (Dev.translationRequest_wf h)
  | contextInvalidation => exact keepsMem_next (Dev.ctxInval_wf h)
  | invalidationCompletion => exact keepsMem_done h (Dev.invalCompletion_wf h)
  | atsTimeout => exact keepsMem_done h (Dev.atsTimeout_wf h)
  | containment => exact keepsMem_done h (Dev.contain_wf h)
  | containmentRelease => exact keepsMem_next (Dev.containRelease_wf h)
  | completionTimeout => exact keepsMem_done h (Dev.completionTimeout_wf h)
  | cxlCacheRequest => exact keepsMem_done h (Dev.cxlRequest_wf h)
  | outboundWindowAccess => exact keepsMem_next (Dev.windowAccess_wf h)
  | configurationAccess => exact keepsMem_done h (Dev.configAccess_wf h)
  | brixnilFlit => exact keepsMem_done h (Dev.brxFlit_wf h)
  | keepAlive => exact keepsMem_next (Dev.keepAlive_wf h)
  | brixnilLinkTimeout => exact keepsMem_next (Dev.brxTimeout_wf h)
  | brixnilRetrainDone => exact keepsMem_done h (Dev.brxRetrained_wf h)
  | retry => exact keepsMem_done h (Dev.brxRetry_wf h)
  | retriedTransactionTimeout => exact keepsMem_done h (Dev.retriedTimeout_wf h)
  | deadAgentTime => exact keepsMem_done h (Dev.peerLost_wf h)
  | workerRelease => exact keepsMem_done h (Dev.workerRelease_wf h)
  | timeSyncDrive => exact keepsMem_next (Dev.syncDrive_wf h)
  | timeSync => exact keepsMem_next (Dev.syncEdge_wf h)
  | boardBudgetSplit => exact keepsMem_done h (Dev.budgetSplit_wf h)
  | allocationTimeout => exact keepsMem_done h (Dev.allocTimeout_wf h)
  | engCopy => exact keepsMem_done h (Dev.engRun_wf h copyStep_wf)
  | engFill => exact keepsMem_done h (Dev.engRun_wf h fillStep_wf)
  | engCompare => exact keepsMem_done h (Dev.engRun_wf h compareStep_wf)
  | engZero => exact keepsMem_done h (Dev.engRun_wf h zeroStep_wf)
  | engCrc32c => exact keepsMem_done h (Dev.engRun_wf h crcStep_wf)
  | engSha256 | engSha512 => exact keepsMem_done h (Dev.engRun_wf h shaStep_wf)
  | engGcmEnc | engGcmDec => exact keepsMem_done h (Dev.engRun_wf h gcmStep_wf)
  | engXtsEnc | engXtsDec => exact keepsMem_done h (Dev.engRun_wf h xtsStep_wf)
  | engDeflate => exact keepsMem_done h (Dev.engRun_wf h deflateStep_wf)
  | engInflate => exact keepsMem_done h (Dev.engRun_wf h inflateStep_wf)
  | sqtail => exact keepsMem_next (Dev.atEngine_wf h Dev.writeTail_wf)
  | cqhead => exact keepsMem_done h (Dev.atEngine_wf h Dev.writeHead_wf)
  | quantumEnd => exact keepsMem_done h (Dev.quantumEnd_wf h)
  | quantumReplay => exact keepsMem_done h (Dev.quantumReplay_wf h)
  | instAssign => exact keepsMem_done h (Dev.atEngine_wf h Dev.instAssign_wf)
  | instEnable => exact keepsMem_done h (Dev.atEngine_wf h Dev.instEnable_wf)
  | instQuiesce => exact keepsMem_done h (Dev.atEngine_wf h Dev.instQuiesce_wf)
  | instAbort => exact keepsMem_done h (Dev.atEngine_wf h Dev.instAbort_wf)
  | instReset => exact keepsMem_done h (Dev.atEngine_wf h Dev.instReset_wf)
  | instRemove => exact keepsMem_done h (Dev.atEngine_wf h Dev.instRemove_wf)
  | txgo => exact keepsMem_done h (Dev.atEngine_wf h Dev.mailTxGo_wf)
  | txack => exact keepsMem_done h (Dev.atEngine_wf h Dev.mailTxAck_wf)
  | rxgo => exact keepsMem_done h (Dev.atEngine_wf h Dev.mailRxGo_wf)
  | rxack => exact keepsMem_done h (Dev.atEngine_wf h Dev.mailRxAck_wf)
  | evcMsgdb => exact keepsMem_done h (Dev.msgDoorbell_wf h)
  | virtualInterrupt => exact keepsMem_done h (Dev.virtualInterrupt_wf h)
  | evcMtinv => exact keepsMem_next (Dev.dropRoute_wf h)
  | rescan => exact keepsMem_done h (Dev.rescan_wf h)
  | evcEqBase => exact keepsMem_done h (Dev.eqBase_wf h)
  | watermarkNotice => exact keepsMem_done h (Dev.windowEnd_wf h)
  | domainRequest => exact keepsMem_done h (Dev.requestDomain_wf h)
  | automaticRetention => exact keepsMem_done h (Dev.autoRetention_wf h)
  | retentionEntry => exact keepsMem_done h (Dev.enterRetention_wf h)
  | retentionExit => exact keepsMem_done h (Dev.exitRetention_wf h)
  | offEntry => exact keepsMem_done h (Dev.enterOff_wf h)
  | wakeFromOff => exact keepsMem_done h (Dev.wakeOff_wf h)
  | entryAbort => exact keepsMem_done h (Dev.abortEntry_wf h)
  | voltageTransition => exact keepsMem_next (Dev.vBegin_wf (Dev.choose_wf h))
  | voltageStep => exact keepsMem_next (Dev.vStep_wf h)
  | openWireTest => exact keepsMem_done h (Dev.senseTest_wf h)
  | domainFaultCheck => exact keepsMem_done h (Dev.faultCheck_wf h)
  | governorVoltage => exact keepsMem_done h (Dev.govVoltage_wf h)
  | governorPrefetch => exact keepsMem_done h (Dev.govPrefetch_wf h)
  | fastLoop => exact keepsMem_done h (Dev.fastLoop_wf h)
  | mediumLoop => exact keepsMem_done h (Dev.mediumLoop_wf h)
  | slowLoop => exact keepsMem_done h (Dev.slowLoop_wf h)
  | sliceRateWindow => exact keepsMem_done h (Dev.rateWindow_wf h)
  | reefNAssert => exact keepsMem_done h (Dev.reefAssert_wf h)
  | reefNRelease => exact keepsMem_next (Dev.reefRelease_wf h)
  | thermalControl => exact keepsMem_done h (Dev.thermal_wf h)
  | thermtrip => exact keepsMem_next (Dev.thermTrip_wf h)
  | forceOff => exact keepsMem_next (Dev.forceOff_wf h)
  | disagreementEnd => exact keepsMem_next (Dev.disagreeEnd_wf h)
  | discrepancyFault => exact keepsMem_next (Dev.discFault_wf h)
  | forceOffCut => exact keepsMem_next (Dev.forceOffCut_wf h)
  | stewardRestart => exact keepsMem_done h (Dev.stewardRestart_wf h)
  | chiefWatchdog => exact keepsMem_next (Dev.chiefWatchdog_wf h)
  | odOpen => exact keepsMem_done h (Dev.odOpen_wf h)
  | odClose => exact keepsMem_done h (Dev.odClose_wf h)
  | odRead => exact keepsMem_done h (Dev.odRequestRead_wf h)
  | odStage => exact keepsMem_done h (Dev.odStage_wf h)
  | odCommit => exact keepsMem_done h (Dev.odCommit_wf h)
  | odDiscard => exact keepsMem_done h (Dev.odDiscard_wf h)
  | odDescribe => exact keepsMem_done h (Dev.odRequestDescribe_wf h)
  | sessionTimeout => exact keepsMem_next (Dev.endSession_wf h)
  | transferStall => exact keepsMem_next (Dev.transferStall_wf h)
  | hfwclose => exact keepsMem_next (Dev.hfwClose_wf h)
  | vauxUp => exact keepsMem_next (Dev.vauxUp_wf h)
  | castOn => exact keepsMem_done h (Dev.castOn_wf h)
  | castOff => exact keepsMem_done h (Dev.castOffCommand_wf h)
  | resetN => exact keepsMem_next (Dev.resetPin_wf h)
  | pwrGoodLoss => exact keepsMem_next (Dev.pwrGoodLoss_wf h)
  | vauxLoss => exact keepsMem_next (Dev.vauxLoss_wf h)
  | persistentLogWrite => exact keepsMem_done h (Dev.persistDue_wf h)
  | registerReadClear => exact keepsMem_next (Dev.out_wf (Dev.csrRead_wf h))
  | registerWrite => exact keepsMem_done h (Dev.out_wf (Dev.csrWrite_wf h))
  | disagreementBegin => exact keepsMem_next (Dev.disagreeBegin_wf h)
  | debugAttachment => exact keepsMem_next (Dev.debugAttach_wf h)
  | retrainDone => exact keepsMem_done h (Dev.retrainEnd_wf h)
  | frequencyChangeDone => exact keepsMem_next (Dev.freqEnd_wf h)
  | lateFlit => exact keepsMem_next (Dev.lateAt_wf h)
  | rootPortEvent => exact keepsMem_done h (Dev.rootPort_wf h)
  | inboundCompletion => exact keepsMem_next (Dev.inboundCompletion_wf h)

theorem step_canonical {s t : State} (h : s.Canonical) (hst : step s = .next t) : t.Canonical := by
  unfold step at hst
  split at hst
  · exact keepsMem_next (Dev.idle_wf h) t hst
  next i rest _ => exact keepsMem_exec (s := { s with pending := rest }) h t hst

end MemoryCanonical

/-- Settles O60: every function that an instruction or a command runs keeps memory canonical. -/
theorem memoryCanonical : Obligations.MemoryCanonical := by
  unfold Obligations.MemoryCanonical
  intro s t h hst
  exact step_canonical h hst

end Sys2Proof.Machine

/-! Prover's part. What the commands of power and of cast-on leave unchanged: fields of other registers, and the parts of the device that a write of a
register does not reach. -/

namespace Sys2Proof.Machine

/-! ### A command that has not had to wait -/

theorem completes_of_done {i : Instr} {s : State} {e : Dev} (hx : exec i s = s.done e) (hw : e.fabric.waits = s.dev.fabric.waits) :
    Completes i s e := ⟨hw, hx⟩

theorem leaves_of_done {i : Instr} {s : State} {P : Dev → Prop} {e : Dev} (hx : exec i s = s.done e)
    (hw : e.fabric.waits = s.dev.fabric.waits) (hp : P e) : Leaves i s P := ⟨e, completes_of_done hx hw, hp⟩

/-! ### Fields of registers -/

theorem Dev.fld_setFld_reg_other (d : Dev) {r q : Reg} (f g : Fld) (n : Nat) (h : q.offset ≠ r.offset) : (d.setFld r f n).fld q g = d.fld q g := by
  simp [Dev.fld, h]

theorem Dev.reg_congr {d e : Dev} (h : e.csr = d.csr) (r : Reg) : e.reg r = d.reg r := by rw [Dev.reg, Dev.reg, h]

theorem Dev.fld_congr {d e : Dev} (h : e.csr = d.csr) (r : Reg) (f : Fld) : e.fld r f = d.fld r f := by
  rw [Dev.fld, Dev.fld, Dev.reg_congr h]

theorem Dev.power_congr {d e : Dev} (h : e.csr = d.csr) (k : Nat) : e.power k = d.power k := Dev.fld_congr h _ _

/-- A part of the device that every step of a fold keeps, the fold keeps. -/
theorem Dev.foldl_frame {α β : Type} (g : Dev → β) {f : Dev → α → Dev} (hf : ∀ x a, g (f x a) = g x) (l : List α) (d : Dev) :
    g (l.foldl f d) = g d :=
  fold_keeps (fun x : Dev => g x = g d) f (fun x a hx => (hf x a).trans hx) l d rfl

/-! ### The power of a domain (R377) -/

theorem Reg.offset_pwrDom_ne_pwrVset (k j : Nat) : (Reg.pwrDom k).offset ≠ (Reg.pwrVset j).offset := by
  simp only [Reg.offset]
  omega

theorem Reg.offset_pwrDom_ne {k j : Nat} (h : k ≠ j) : (Reg.pwrDom k).offset ≠ (Reg.pwrDom j).offset := by
  simp only [Reg.offset]
  omega

theorem Dev.setNow_eq (d : Dev) (k x : Nat) : d.setNow k x = { d with csr := (d.setNow k x).csr } := by
  unfold Dev.setNow
  split <;> rfl

theorem Dev.fld_pwrDom_setNow (d : Dev) (k x j : Nat) (f : Fld) : (d.setNow k x).fld (.pwrDom j) f = d.fld (.pwrDom j) f := by
  unfold Dev.setNow
  split
  · exact Dev.fld_setFld_reg_other _ _ _ _ (Reg.offset_pwrDom_ne_pwrVset j k)
  · rfl

/-- The power of a domain changes registers alone. -/
theorem Dev.setPower_eq (d : Dev) (k x : Nat) : d.setPower k x = { d with csr := (d.setPower k x).csr } := by
  rw [Dev.setPower, Dev.setNow_eq]
  rfl

@[simp] theorem Dev.setPower_cores (d : Dev) (k x : Nat) : (d.setPower k x).cores = d.cores := by rw [Dev.setPower_eq]
@[simp] theorem Dev.setPower_pins (d : Dev) (k x : Nat) : (d.setPower k x).pins = d.pins := by rw [Dev.setPower_eq]
@[simp] theorem Dev.setPower_errs (d : Dev) (k x : Nat) : (d.setPower k x).errs = d.errs := by rw [Dev.setPower_eq]
@[simp] theorem Dev.setPower_dict (d : Dev) (k x : Nat) : (d.setPower k x).dict = d.dict := by rw [Dev.setPower_eq]
@[simp] theorem Dev.setPower_doms (d : Dev) (k x : Nat) : (d.setPower k x).doms = d.doms := by rw [Dev.setPower_eq]

theorem Dev.power_setPower_self (d : Dev) (k : Nat) {x : Nat} (hx : x < 4) : (d.setPower k x).power k = x := by
  have h := Dev.fld_setFld_self (d.setNow k x) (.pwrDom k) .PWR_DOM_STATE x (by decide)
  exact h.trans (Nat.mod_eq_of_lt hx)

theorem Dev.power_setPower_other (d : Dev) {k j : Nat} (x : Nat) (h : j ≠ k) : (d.setPower k x).power j = d.power j :=
  (Dev.fld_setFld_reg_other _ _ _ _ (Reg.offset_pwrDom_ne h)).trans (Dev.fld_pwrDom_setNow d k x j _)

/-- Setting the power of the first `m` domains one after the other sets each of them. -/
theorem Dev.power_setPower_range (d : Dev) {x : Nat} (hx : x < 4) (m : Nat) {n : Nat} (hn : n < m) :
    ((List.range m).foldl (fun y k => y.setPower k x) d).power n = x := by
  induction m with
  | zero => exact absurd hn (Nat.not_lt_zero n)
  | succ m ih =>
    rw [List.range_succ, List.foldl_append, List.foldl_cons, List.foldl_nil]
    by_cases h : n = m
    · rw [h]
      exact Dev.power_setPower_self _ m hx
    · rw [Dev.power_setPower_other _ x h]
      exact ih (by omega)

/-! ### Every domain is cut (R433, R439) -/

@[simp] theorem Dev.cutDomains_cores (d : Dev) : d.cutDomains.cores = [] := by
  unfold Dev.cutDomains
  rw [Dev.foldl_frame Dev.cores fun x a => Dev.setPower_cores x a 2]

@[simp] theorem Dev.cutDomains_pins (d : Dev) : d.cutDomains.pins = d.pins := by
  unfold Dev.cutDomains
  rw [Dev.foldl_frame Dev.pins fun x a => Dev.setPower_pins x a 2]

theorem Dev.power_cutDomains (d : Dev) {n : Nat} (hn : n < 452) : d.cutDomains.power n = 2 := by
  unfold Dev.cutDomains
  rw [Dev.power_setPower_range _ (by decide) 452 hn]

end Sys2Proof.Machine

/-! Prover's part. Cast-on, cast-off, the pins, VAUX and the persistent log (R22, R402, R425, R433 to R440, R453). -/

namespace Sys2Proof.Machine

/-! ### Cuts at once: RESET_N and PWR_GOOD (R433, R464) -/

theorem Dev.coldCut_noAux {d : Dev} {good resetN : Bool} (h : d.phase = .noAux) : d.coldCut good resetN = d := by
  rw [Dev.coldCut, h]
  rfl

theorem Dev.coldCut_spec {d : Dev} {good resetN : Bool} (h : d.phase ≠ .noAux) :
    (d.coldCut good resetN).phase = .waiting ∧ (d.coldCut good resetN).cores = [] ∧ (d.coldCut good resetN).pins.pwrGood = good ∧
      (d.coldCut good resetN).pins.resetN = resetN ∧ ∀ n, n < 452 → (d.coldCut good resetN).power n = 2 := by
  have hc := d.cutDomains_cores
  have hp := fun n => d.power_cutDomains (n := n)
  have hne : (d.phase == Phase.noAux) = false := by simpa using h
  rw [Dev.coldCut, hne]
  generalize d.cutDomains = e at hc hp
  exact ⟨rfl, hc, rfl, rfl, hp⟩

/-! ### VAUX (R22, R425, R433) -/

theorem Dev.vauxLoss_noAux {d : Dev} (h : d.phase = .noAux) : d.vauxLoss = d := by
  rw [Dev.vauxLoss, h]
  rfl

theorem Dev.vauxLoss_spec {d : Dev} (h : d.phase ≠ .noAux) :
    d.vauxLoss.phase = .noAux ∧ d.vauxLoss.cores = [] ∧ d.vauxLoss.mem = [] ∧ d.vauxLoss.errs.slots = d.errs.slots ∧
      d.vauxLoss.dict.settings = d.dict.settings ∧ d.vauxLoss.dict.golden = d.dict.golden := by
  have hne : (d.phase == Phase.noAux) = false := by simpa using h
  rw [Dev.vauxLoss, hne]
  exact ⟨rfl, rfl, rfl, rfl, rfl, rfl⟩

theorem Dev.vauxUp_powered {d : Dev} (h : d.phase ≠ .noAux) : d.vauxUp = d := by
  simp [Dev.vauxUp, h]

theorem Dev.vauxUp_noAux {d : Dev} (h : d.phase = .noAux) :
    d.vauxUp = { d with phase := .waiting, time := 0, pins := { d.pins with vaux := true } } := by
  simp [Dev.vauxUp, h]

/-! ### The persistent log (R402, R453) -/

theorem Dev.persist_empty {d : Dev} {ok : Bool} (h : d.errs.pend = []) : d.persist ok = d := by
  simp [Dev.persist, h]

theorem Dev.persistDue_empty {d : Dev} {ok : Bool} (h : d.errs.pend = []) : d.persistDue ok = d := by
  unfold Dev.persistDue
  split
  · split
    · exact Dev.persist_empty h
    · rfl
  · exact Dev.persist_empty h

theorem Dev.persistDue_early {d : Dev} {ok : Bool} {t : Word} (hw : d.errs.wroteAt = some t) (hp : d.past t (ms 1000) = false) :
    d.persistDue ok = d := by
  rw [Dev.persistDue, hw]
  simp [hp]

theorem Dev.persistDue_due {d : Dev} {ok : Bool} (h : ∀ t, d.errs.wroteAt = some t → d.past t (ms 1000) = true) :
    d.persistDue ok = d.persist ok := by
  unfold Dev.persistDue
  split
  next t ht => rw [if_pos (h t ht)]
  · rfl

/-- The place of one record in the log, which counts it as written (R453). -/
def ErrorLog.put (x : ErrorLog) (r : Record) : ErrorLog :=
  let k := x.written.toNat % 2047
  { x with slots := if k < x.slots.length then x.slots.set k r else x.slots ++ [r], written := x.written + 1 }

theorem ErrorLog.written_foldl_put (l : List Record) (x : ErrorLog) : (l.foldl ErrorLog.put x).written = x.written + BitVec.ofNat 32 l.length := by
  induction l generalizing x with
  | nil => simp
  | cons r l ih =>
    rw [List.foldl_cons, ih, List.length_cons, BitVec.ofNat_add]
    have : (x.put r).written = x.written + 1 := rfl
    rw [this]
    ac_rfl

theorem Dev.persist_ok {d : Dev} (h : d.errs.pend ≠ []) :
    (d.persist true).fabric = d.fabric ∧ (d.persist true).errs.pend = [] ∧
      (d.persist true).errs.written = d.errs.written + BitVec.ofNat 32 d.errs.pend.length := by
  have he : ¬ d.errs.pend.isEmpty = true := by simpa using h
  have hput := ErrorLog.written_foldl_put d.errs.pend d.errs
  unfold ErrorLog.put at hput
  unfold Dev.persist
  rw [if_neg he, if_neg (by decide)]
  generalize d.errs.pend.foldl _ d.errs = e at hput ⊢
  exact ⟨rfl, rfl, hput⟩

theorem Dev.persist_fails {d : Dev} (h : d.errs.pend ≠ []) :
    (d.persist false).fabric = d.fabric ∧ (d.persist false).errs.pend = (d.errs.pend.filter fun r => r.code != 0x82 && r.code != 0x83) ∧
      (d.persist false).errs.slots = d.errs.slots ∧ (d.persist false).dict.errlog.fault = true := by
  have he : ¬ d.errs.pend.isEmpty = true := by simpa using h
  unfold Dev.persist
  rw [if_neg he, if_pos (by decide)]
  exact ⟨rfl, rfl, rfl, rfl⟩

/-! ### Cast-off (R439) -/

/-- Steps 1 to 5 of cast-off: cores stop, every dirty line goes to memory, controllers drain, and the record is written. -/
def Dev.castOffStopped (d : Dev) (why : CastOffCause) : Dev :=
  let d1 := d.cleanAll
  let d2 : Dev := { d1 with
    cores := d1.cores.map (fun (e : Nat × Core) => (e.1, { e.2 with run := RunState.stopped })),
    slices := d1.slices.map (fun (e : Nat × Slice) => (e.1, { e.2 with spad := [], spadBad := [] })),
    queues := d1.queues.map (fun (e : Nat × QueueSt) => (e.1, { e.2 with started := none })) }
  let d3 := (d2.chans.map (·.1)).foldl (fun x ch => (x.drainChan ch).setFld (.mcCtl ch) .MC_CTL_STATE 3) d2
  (d3.makeRecord 430 0x80 0 none none (castOffAux why)).persistNow

/-- Step 6 after every domain is cut: links are down, and the device waits or halts by the cause. -/
def Dev.castOffCut (d : Dev) (waits : Nat) (why : CastOffCause) : Dev :=
  { d with
    ports := d.ports.map (fun (e : Nat × PortSt) => (e.1, { e.2 with flushed := e.2.flushed || (e.2.cxl.isSome && e.2.up && !e.2.contained) })),
    fabric := { d.fabric with waits := waits },
    phase := (match why with
      | .forceOff | .discrepancy => Phase.cut
      | .coldReset => Phase.waiting
      | _ => Phase.halted),
    dict := { d.dict with resetReq := (match why with
      | .coldReset => some 1
      | _ => none) } }

theorem Dev.castOffRun_eq (d : Dev) (why : CastOffCause) :
    d.castOffRun why = (d.castOffStopped why).cutDomains.castOffCut d.fabric.waits why := by
  unfold Dev.castOffRun
  extract_lets d1 d2 d3 d4 d5
  have h : d5 = (d.castOffStopped why).cutDomains := congrArg Dev.cutDomains (by with_unfolding_all rfl)
  rw [← h]
  rfl

theorem Dev.castOffCut_phase (d : Dev) (waits : Nat) (why : CastOffCause) : (d.castOffCut waits why).phase = (match why with
    | .forceOff | .discrepancy => .cut
    | .coldReset => .waiting
    | _ => .halted) := by
  cases why <;> rfl

theorem Dev.castOffCut_waits (d : Dev) (waits : Nat) (why : CastOffCause) : (d.castOffCut waits why).fabric.waits = waits := rfl

theorem Dev.castOffCut_cores (d : Dev) (waits : Nat) (why : CastOffCause) : (d.castOffCut waits why).cores = d.cores := rfl

theorem Dev.power_castOffCut (d : Dev) (waits : Nat) (why : CastOffCause) (n : Nat) : (d.castOffCut waits why).power n = d.power n :=
  Dev.power_congr rfl n

theorem Dev.castOffRun_waits (d : Dev) (why : CastOffCause) : (d.castOffRun why).fabric.waits = d.fabric.waits := by
  rw [Dev.castOffRun_eq, Dev.castOffCut_waits]

theorem Dev.castOffRun_cores (d : Dev) (why : CastOffCause) : (d.castOffRun why).cores = [] := by
  rw [Dev.castOffRun_eq, Dev.castOffCut_cores, Dev.cutDomains_cores]

theorem Dev.power_castOffRun (d : Dev) (why : CastOffCause) {n : Nat} (hn : n < 452) : (d.castOffRun why).power n = 2 := by
  rw [Dev.castOffRun_eq, Dev.power_castOffCut, Dev.power_cutDomains _ hn]

theorem Dev.castOffRun_phase (d : Dev) (why : CastOffCause) : (d.castOffRun why).phase = (match why with
    | .forceOff | .discrepancy => .cut
    | .coldReset => .waiting
    | _ => .halted) := by
  rw [Dev.castOffRun_eq, Dev.castOffCut_phase]

/-! ### A cast-on that halts (R440): its record reaches no ring, which a reset has left unused -/

/-- The ring of the error log is in use (R452). -/
def Dev.logsToRing (d : Dev) : Bool := d.bit .erbLogBase .ERB_LOG_BASE_EN

theorem Dev.logsToRing_congr {d e : Dev} (h : e.reg .erbLogBase = d.reg .erbLogBase) : e.logsToRing = d.logsToRing := by
  rw [Dev.logsToRing, Dev.logsToRing, Dev.bit, Dev.bit, Dev.fld, Dev.fld, h]

theorem Dev.ringTake_unused {d : Dev} {r : Record} (h : d.logsToRing = false) : d.ringTake r = d := by
  have hen : d.bit .erbLogBase .ERB_LOG_BASE_EN = false := h
  simp [Dev.ringTake, hen]

theorem Dev.pendTake_fabric (d : Dev) (r : Record) : (d.pendTake r).fabric = d.fabric := by
  unfold Dev.pendTake
  split
  · rfl
  · dsimp only
    split
    · rfl
    · split <;> rfl

theorem Dev.bankTake_fabric (d : Dev) (bank code unit : Nat) (addr : Option Nat) (synd : Word) (lcore : Option Nat) :
    (d.bankTake bank code unit addr synd lcore).fabric = d.fabric := by
  unfold Dev.bankTake
  dsimp only
  split <;> simp only [Dev.fabric_countFld, Dev.setFld_fabric, Dev.setFlds_fabric, Dev.setReg_fabric]

theorem Reg.offset_erbLogBase_ne {bank : Nat} :
    Reg.erbLogBase.offset ≠ (Reg.erbStatus bank).offset ∧ Reg.erbLogBase.offset ≠ (Reg.erbAddr bank).offset ∧
      Reg.erbLogBase.offset ≠ (Reg.erbSynd bank).offset ∧ Reg.erbLogBase.offset ≠ (Reg.erbMisc bank).offset := by
  simp only [Reg.offset]
  omega

theorem Dev.logsToRing_bankTake (d : Dev) (bank code unit : Nat) (addr : Option Nat) (synd : Word) (lcore : Option Nat) :
    (d.bankTake bank code unit addr synd lcore).logsToRing = d.logsToRing := by
  obtain ⟨hstatus, haddr, hsynd, hmisc⟩ := Reg.offset_erbLogBase_ne (bank := bank)
  refine Dev.logsToRing_congr ?_
  unfold Dev.bankTake
  dsimp only
  split
  · simp [Dev.setFlds, Dev.countFld, hstatus, haddr, hsynd, hmisc]
  · simp [Dev.countFld, hstatus]

theorem Dev.logsToRing_setFld_other (d : Dev) {r : Reg} (f : Fld) (n : Nat) (h : Reg.erbLogBase.offset ≠ r.offset) :
    (d.setFld r f n).logsToRing = d.logsToRing := Dev.logsToRing_congr (Dev.reg_setFld_other d f n h)

theorem Dev.makeRecord_fabric {d : Dev} (h : d.logsToRing = false) (bank code unit : Nat) (addr lcore : Option Nat) (aux : Nat) :
    (d.makeRecord bank code unit addr lcore aux).fabric = d.fabric := by
  unfold Dev.makeRecord
  split
  next i d0 e0 =>
    obtain rfl : d.draw.2 = d0 := congrArg Prod.snd e0
    extract_lets synd d1 cls rec_ _ d2 d3 d4 d5 d6 d7
    have h1 : d1.fabric = d.fabric := Dev.bankTake_fabric ..
    have hoff : (d2.countFld .erbGlobal .ERB_GLOBAL_RECORDS 1).logsToRing = false :=
      (Dev.logsToRing_setFld_other d2 (r := .erbGlobal) _ _ (by decide)).trans ((Dev.logsToRing_bankTake d.draw.2 ..).trans h)
    have h3 : d3.fabric = d.fabric := by
      unfold d3
      rw [Dev.ringTake_unused hoff]
      exact h1
    have h4 : d4.fabric = d.fabric := (Dev.pendTake_fabric ..).trans h3
    have h5 : d5.fabric = d.fabric := by
      unfold d5
      split <;> exact h4
    have h6 : d6.fabric = d.fabric := by
      unfold d6
      split <;> exact h5
    have h7 : d7.fabric = d.fabric := by
      unfold d7
      split <;> exact h6
    split
    · exact h7
    · split <;> exact h7

theorem Dev.persist_fabric (d : Dev) (ok : Bool) : (d.persist ok).fabric = d.fabric := by
  unfold Dev.persist
  split
  · rfl
  · split <;> rfl

theorem Dev.persistNow_fabric (d : Dev) : d.persistNow.fabric = d.fabric := Dev.persist_fabric d.draw.2 _

theorem Dev.castHalt_fabric {d : Dev} (h : d.logsToRing = false) (step : Nat) (ph : Phase) : (d.castHalt step ph).fabric = d.fabric := by
  have hr := Dev.makeRecord_fabric (d := d.setFld .erbGlobal .ERB_GLOBAL_PIN_FATAL 1)
    ((Dev.logsToRing_setFld_other d _ _ (by decide)).trans h) 430 0x81 0 none none step
  exact (Dev.persistNow_fabric _).trans hr

/-! ### A reset clears the device, and a source of firmware is chosen (R430, R437) -/

theorem Dev.setDead_fabric (d : Dev) (f : Fld) (i : Nat) (v : Bool) : (d.setDead f i v).fabric = d.fabric := by
  unfold Dev.setDead
  generalize List.range 132 = l
  exact Dev.foldl_frame Dev.fabric (by intros; rfl) l d

theorem Dev.keepSense_fabric (d old : Dev) : (d.keepSense old).fabric = d.fabric := by
  unfold Dev.keepSense
  rw [Dev.foldl_frame Dev.fabric]
  intro x k
  dsimp only
  split <;> split <;> simp only [Dev.fabric_countFld, Dev.setFld_fabric, Dev.setFlds_fabric, Dev.modDom_fabric]

theorem Dev.setDict_logsToRing (d : Dev) (x : Dict) : (d.setDict x).logsToRing = d.logsToRing := rfl

theorem Dev.clearFor_waits (d : Dev) (warm : Bool) : (d.clearFor warm).fabric.waits = d.fabric.waits := by
  unfold Dev.clearFor
  extract_lets r keepCsr _ _ _ d0 d1 d2 d3
  have h1 : d1.fabric = d0.fabric := Dev.foldl_frame Dev.fabric (fun x a => Dev.setDead_fabric x _ a true) _ _
  have h2 : d2.fabric = d0.fabric := by
    unfold d2
    split
    · exact (Dev.keepSense_fabric d1 d).trans h1
    · exact h1
  have h3 : d3.fabric = d0.fabric := by
    unfold d3
    split <;> exact h2
  clear_value d3
  split
  change d3.fabric.waits = d.fabric.waits
  rw [h3]

theorem Dev.clearFor_logsToRing (d : Dev) : (d.clearFor true).logsToRing = false := by
  unfold Dev.clearFor
  extract_lets r keepCsr _ _ _ d0 d1 d2 d3
  have h3 : d3.logsToRing = false := by
    have hbase : d3.reg .erbLogBase = 0 := by
      unfold d3
      rw [if_pos rfl, Dev.reg_setFld_other _ _ _ (by decide), Dev.reg_setReg_other _ _ (by decide), Dev.reg_setReg_other _ _ (by decide),
        Dev.reg_setReg_self]
    rw [Dev.logsToRing, Dev.bit, Dev.fld, hbase]
    decide
  clear_value d3
  split
  exact h3

theorem Dev.chooseFw_logsToRing (d : Dev) (k : CastOnInput) : (d.chooseFw k).1.logsToRing = d.logsToRing := by
  unfold Dev.chooseFw
  extract_lets check l pick passed _ d1
  have h1 : d1.logsToRing = d.logsToRing := 
    (Dev.foldl_frame Dev.logsToRing (by intros; rfl) _ _).trans (Dev.setDict_logsToRing ..)
  clear_value d1 pick l
  split <;> exact h1

theorem Dev.openStore_logsToRing (d : Dev) : (d.openStore true).logsToRing = d.logsToRing := by
  unfold Dev.openStore
  extract_lets pick any d1 d2 d3 d4
  have hpick : ∀ (x : Dev) (r : Region) (ok : List Byte → Bool) (put : Dev → Region → Dev), (∀ y q, (put y q).logsToRing = y.logsToRing) →
      (pick x r ok put).logsToRing = x.logsToRing := by
    intro x r ok put hput
    unfold pick
    dsimp only
    split
    · exact hput _ _
    · exact hput _ _
  clear_value pick
  rw [if_pos rfl]
  have h1 : d1.logsToRing = d.logsToRing := hpick _ _ _ _ fun y _ => Dev.setDict_logsToRing y _
  have h2 : d2.logsToRing = d.logsToRing := (hpick _ _ _ _ fun y _ => Dev.setDict_logsToRing y _).trans h1
  have h3 : d3.logsToRing = d.logsToRing := (hpick _ _ _ _ fun y _ => Dev.setDict_logsToRing y _).trans h2
  exact (hpick _ _ _ _ fun y _ => Dev.setDict_logsToRing y _).trans h3

/-! ### Cast-on (R434) -/

theorem Dev.castStep1_waits (d : Dev) (k : CastOnInput) : (d.castStep1 k).fabric.waits = d.fabric.waits := rfl

theorem Dev.castOn_elsewhere {d : Dev} (k : CastOnInput) (hw : d.phase ≠ .waiting) (hh : d.phase ≠ .step1Held) : d.castOn k = d := by
  unfold Dev.castOn
  split
  next h => exact absurd h hw
  next h => exact absurd h hh
  · rfl

/-- The device waits for cast-on, or cast-on is held at step 1. -/
def Dev.AwaitsCastOn (d : Dev) : Prop := d.phase = .waiting ∨ d.phase = .step1Held

theorem Dev.castOn_held {d : Dev} {k : CastOnInput} (hp : d.AwaitsCastOn) (hr : d.dict.resetReq ≠ some 2)
    (hh : (d.castStep1 k).heldAtStep1 = true) : d.castOn k = { d.castStep1 k with phase := .step1Held } := by
  unfold Dev.castOn
  rcases hp with hp | hp <;> rw [hp] <;> dsimp only <;> rw [if_neg hr, if_pos hh]

theorem Dev.castOn_cold {d : Dev} {k : CastOnInput} (hp : d.AwaitsCastOn) (hr : d.dict.resetReq ≠ some 2)
    (hh : (d.castStep1 k).heldAtStep1 = false) : d.castOn k = (d.castStep1 k).castFrom2 k false := by
  have hn : ¬ (d.castStep1 k).heldAtStep1 = true := by simp [hh]
  unfold Dev.castOn
  rcases hp with hp | hp <;> rw [hp] <;> dsimp only <;> rw [if_neg hr, if_neg hn]

theorem Dev.castOn_warm {d : Dev} {k : CastOnInput} (hp : d.phase = .waiting) (hr : d.dict.resetReq = some 2) :
    d.castOn k = d.castFrom2 k true := by
  rw [Dev.castOn, hp]
  exact if_pos hr

theorem Dev.castFrom2_noChief {d : Dev} {k : CastOnInput} (warm : Bool) (h : k.chiefOk = false) :
    d.castFrom2 k warm = (d.clearFor warm).castHalt 2 .halted := by
  have hn : (!k.chiefOk) = true := by simp [h]
  rw [Dev.castFrom2, if_pos hn]

theorem Dev.castFrom2_noFirmware {d d2 : Dev} {k : CastOnInput} {warm : Bool} (h : k.chiefOk = true)
    (hf : ((d.clearFor warm).openStore warm).chooseFw k = (d2, none)) : d.castFrom2 k warm = d2.castHalt 3 .romDict := by
  have hn : ¬ (!k.chiefOk) = true := by simp [h]
  rw [Dev.castFrom2, if_neg hn]
  dsimp only
  rw [hf]

/-- Where no source is chosen, the ring of the error log stays unused. -/
theorem Dev.noFirmware_logsToRing {d d2 : Dev} {k : CastOnInput} (hf : ((d.clearFor true).openStore true).chooseFw k = (d2, none)) :
    d2.logsToRing = false := by
  have h := Dev.chooseFw_logsToRing ((d.clearFor true).openStore true) k
  rw [hf, Dev.openStore_logsToRing, Dev.clearFor_logsToRing] at h
  exact h

theorem castOn_completes {k : CastOnInput} {s : State} {e : Dev} (he : s.dev.castOn k = e) (hw : e.fabric.waits = s.dev.fabric.waits) :
    Completes (.castOn k) s e := completes_of_done (congrArg s.done he) hw

/-- Settles O58: the pins, VAUX, cast-on, cast-off and the persistent log each by what their function leaves. -/
theorem castOnOff : Obligations.CastOnOff := by
  unfold Obligations.CastOnOff
  refine ⟨fun s => ⟨fun h => ?_, fun h => ?_⟩, fun k s => ⟨fun hw hh => ?_, fun hp hr => ⟨fun hh => ?_, fun hh hw => ?_⟩, fun hp hr => ⟨?_, ?_, ?_⟩⟩,
    fun d d2 k warm hc hf => ?_, fun why s => ⟨fun h => ?_, fun h => ?_⟩, fun s => ⟨fun h => ⟨?_, ?_, ?_⟩, fun h => ?_⟩, fun ok s h => ?_,
    fun ok t s hw hp => ?_, fun s hne hdue => ⟨?_, ?_⟩⟩
  · exact ⟨_, congrArg s.next (Dev.vauxUp_noAux h), rfl, rfl, rfl, rfl⟩
  · exact congrArg s.next (Dev.vauxUp_powered h)
  · exact castOn_completes (Dev.castOn_elsewhere k hw hh) rfl
  · exact ⟨_, castOn_completes (Dev.castOn_held hp hr hh) rfl, rfl, rfl⟩
  · exact castOn_completes (Dev.castOn_cold hp hr hh) hw
  · exact castOn_completes (Dev.castOn_warm hp hr)
  · intro hc
    refine castOn_completes ((Dev.castOn_warm hp hr).trans (Dev.castFrom2_noChief true hc)) ?_
    rw [Dev.castHalt_fabric (Dev.clearFor_logsToRing _), Dev.clearFor_waits]
  · intro d2 hc hf hw
    refine castOn_completes ((Dev.castOn_warm hp hr).trans (Dev.castFrom2_noFirmware hc hf)) ?_
    rw [Dev.castHalt_fabric (Dev.noFirmware_logsToRing hf), hw]
  · rw [Dev.castFrom2_noFirmware hc hf]
    rfl
  · refine leaves_of_done (congrArg s.done (if_pos (by simp [h]))) (Dev.castOffRun_waits _ why)
      ⟨Dev.castOffRun_cores _ why, fun n hn => Dev.power_castOffRun _ why hn, Dev.castOffRun_phase _ why⟩
  · exact completes_of_done (congrArg s.done (if_neg (by simp [h]))) rfl
  · obtain ⟨hphase, hcores, hgood, hreset, hpower⟩ := Dev.coldCut_spec (good := s.dev.pins.pwrGood) (resetN := false) h
    exact ⟨s.dev.resetPin, rfl, hphase, hreset, hgood, hcores, hpower⟩
  · obtain ⟨hphase, hcores, hgood, hreset, -⟩ := Dev.coldCut_spec (good := false) (resetN := s.dev.pins.resetN) h
    exact ⟨s.dev.pwrGoodLoss, rfl, hphase, hgood, hreset, hcores⟩
  · exact ⟨s.dev.vauxLoss, rfl, Dev.vauxLoss_spec h⟩
  · intro i hi
    simp only [List.mem_cons, List.not_mem_nil, or_false] at hi
    rcases hi with rfl | rfl | rfl
    · exact congrArg s.next (Dev.coldCut_noAux h)
    · exact congrArg s.next (Dev.coldCut_noAux h)
    · exact congrArg s.next (Dev.vauxLoss_noAux h)
  · exact completes_of_done (congrArg s.done (Dev.persistDue_empty h)) rfl
  · exact completes_of_done (congrArg s.done (Dev.persistDue_early hw hp)) rfl
  · obtain ⟨hfabric, hpend, hwritten⟩ := Dev.persist_ok hne
    exact leaves_of_done (congrArg s.done (Dev.persistDue_due hdue)) (congrArg Fabric.waits hfabric) ⟨hpend, hwritten⟩
  · obtain ⟨hfabric, hpend, hslots, hfault⟩ := Dev.persist_fails hne
    exact leaves_of_done (congrArg s.done (Dev.persistDue_due hdue)) (congrArg Fabric.waits hfabric) ⟨hpend, hslots, hfault⟩

end Sys2Proof.Machine

/-! Prover's part. Power states of domains (R377 to R385) and voltage transactions and sensing (R386 to R390): what each command of power leaves. -/

namespace Sys2Proof.Machine

/-! ### Reading registers and domains after they are written -/

theorem Dev.fld_setFlds_self (d : Dev) (r : Reg) (l : List (Fld × Nat)) (g : Fld) :
    (d.setFlds r l).fld r g = getF (l.foldl (fun w p => setF w p.1 p.2) (d.reg r)) g := by
  rw [Dev.fld, Dev.setFlds, Dev.reg_setReg_self]

theorem Dev.fld_setReg_other (d : Dev) {r q : Reg} (v : Word) (g : Fld) (h : q.offset ≠ r.offset) : (d.setReg r v).fld q g = d.fld q g := by
  rw [Dev.fld, Dev.reg_setReg_other d v h, Dev.fld]

theorem Dev.fld_setFlds_other (d : Dev) {r q : Reg} (l : List (Fld × Nat)) (g : Fld) (h : q.offset ≠ r.offset) :
    (d.setFlds r l).fld q g = d.fld q g := Dev.fld_setReg_other d _ g h

/-- A field apart from the one that is counted up. -/
theorem Dev.fld_countFld_other (d : Dev) (r : Reg) (f g : Fld) (n : Nat) (hg : g.lo + g.width ≤ 64)
    (h : f.lo + f.width ≤ g.lo ∨ g.lo + g.width ≤ f.lo) : (d.countFld r f n).fld r g = d.fld r g := Dev.fld_setFld_other d r f g _ hg h

theorem Dev.fld_countFld_reg_other (d : Dev) {r q : Reg} (f g : Fld) (n : Nat) (h : q.offset ≠ r.offset) :
    (d.countFld r f n).fld q g = d.fld q g := Dev.fld_setFld_reg_other d f g _ h

@[simp] theorem Dev.fld_modDom (d : Dev) (k : Nat) (f : DomSt → DomSt) (r : Reg) (g : Fld) : (d.modDom k f).fld r g = d.fld r g := Dev.fld_congr (d.modDom_csr k f) r g
@[simp] theorem Dev.power_modDom (d : Dev) (k : Nat) (f : DomSt → DomSt) (j : Nat) : (d.modDom k f).power j = d.power j := Dev.power_congr (d.modDom_csr k f) j
@[simp] theorem Dev.dom_setFld (d : Dev) (r : Reg) (f : Fld) (n k : Nat) : (d.setFld r f n).dom k = d.dom k := by rw [Dev.dom, Dev.setFld_doms, Dev.dom]
@[simp] theorem Dev.dom_setFlds (d : Dev) (r : Reg) (l : List (Fld × Nat)) (k : Nat) : (d.setFlds r l).dom k = d.dom k := by rw [Dev.dom, Dev.setFlds_doms, Dev.dom]
@[simp] theorem Dev.dom_countFld (d : Dev) (r : Reg) (f : Fld) (n k : Nat) : (d.countFld r f n).dom k = d.dom k := by rw [Dev.countFld, Dev.dom_setFld]
@[simp] theorem Dev.dom_setPower (d : Dev) (k x j : Nat) : (d.setPower k x).dom j = d.dom j := by rw [Dev.dom, Dev.setPower_doms, Dev.dom]

theorem Reg.offset_pwrSense_ne_pwrVset (k j : Nat) : (Reg.pwrSense k).offset ≠ (Reg.pwrVset j).offset := by
  simp only [Reg.offset]
  omega
theorem Reg.offset_pwrSense_ne_pwrDom (k j : Nat) : (Reg.pwrSense k).offset ≠ (Reg.pwrDom j).offset := by
  simp only [Reg.offset]
  omega
theorem Reg.offset_pwrVset_ne_pwrDom (k j : Nat) : (Reg.pwrVset k).offset ≠ (Reg.pwrDom j).offset := by
  simp only [Reg.offset]
  omega
theorem Reg.offset_pwrDom_ne_mcCtl (k : Nat) {n : Nat} (h : n < 16) : (Reg.pwrDom k).offset ≠ (Reg.mcCtl n).offset := by
  simp only [Reg.offset]
  omega
theorem Reg.offset_pwrDom_ne_odmRcause {k : Nat} (h : k < 452) (j : Nat) : (Reg.pwrDom k).offset ≠ (Reg.odmRcause j).offset := by
  simp only [Reg.offset]
  omega
theorem Reg.offset_pwrDom_ne_stwStat {k : Nat} (h : k < 452) (n : Nat) : (Reg.pwrDom k).offset ≠ (Reg.stwStat n).offset := by
  simp only [Reg.offset]
  omega
theorem Reg.offset_pwrSense_ne_stwStat (k n : Nat) : (Reg.pwrSense k).offset ≠ (Reg.stwStat n).offset := by
  simp only [Reg.offset]
  omega
theorem Reg.offset_pwrDom_ne_pwrStat (k : Nat) : (Reg.pwrDom k).offset ≠ Reg.pwrStat.offset ∧ (Reg.pwrSense k).offset ≠ Reg.pwrStat.offset := by
  simp only [Reg.offset]
  omega

/-! ### A domain whose power is known -/

theorem Dev.isOn_iff {d : Dev} {k : Nat} : d.isOn k = true ↔ d.power k = 0 := by simp [Dev.isOn]
theorem Dev.isOff_iff {d : Dev} {k : Nat} : d.isOff k = true ↔ d.power k = 2 := by simp [Dev.isOff]

theorem Dev.wake_of_power_ne {d : Dev} {k : Nat} (h : d.power k ≠ 1) : d.wake k = d := if_neg h

/-- With nothing requested of it, a domain has no request to act on. -/
theorem Dev.actLatest_none {d : Dev} {k : Nat} (h : (d.dom k).latest = none) : d.actLatest k = d := by
  unfold Dev.actLatest
  rw [h]
  split <;> rfl

theorem Dev.actLatest_unsettled {d : Dev} {k : Nat} (h : (d.dom k).step ≠ .settled) : d.actLatest k = d := by
  simp [Dev.actLatest, h]

/-! ### Requests and automatic Retention (R379 to R381) -/

theorem Dev.requestDomain_unrequestable {d : Dev} {k : Nat} (st : PowerState) (h : requestable k = false) : d.requestDomain k st = d := by
  simp [Dev.requestDomain, h]

theorem Dev.returnSlice_eq (d : Dev) (n : Nat) : d.returnSlice n = { d with hash := (d.returnSlice n).hash } := by
  unfold Dev.returnSlice
  split <;> rfl

/-- What a settled domain that is asked On is, but for the queue of rebuilds. -/
theorem Dev.requestDomain_on {d : Dev} {k : Nat} (hr : requestable k = true) (hs : (d.dom k).step = .settled) :
    ∃ hash : Hash, d.requestDomain k .on =
      { (d.setFld (.pwrDom k) .PWR_DOM_REQ 0).modDom k fun x => { x with latest := some .on } with hash := hash } := by
  have hstep : (((d.setFld (.pwrDom k) .PWR_DOM_REQ 0).modDom k fun x => { x with latest := some .on }).dom k).step = .settled := by
    simp [hs]
  simp only [Dev.requestDomain, hr, hstep, Bool.not_true, Bool.false_eq_true, if_false]
  split
  · exact ⟨_, Dev.returnSlice_eq _ _⟩
  · exact ⟨_, rfl⟩

theorem Dev.autoRetention_manual {d : Dev} {k : Nat} (h : d.bit (.pwrDom k) .PWR_DOM_AUTO = false) : d.autoRetention k = d := by
  simp [Dev.autoRetention, h]

theorem Dev.autoRetention_idle {d : Dev} {k : Nat} (ha : d.bit (.pwrDom k) .PWR_DOM_AUTO = true) (hr : requestable k = true)
    (hon : d.isOn k = true) (hi : d.domIdle k = true) (hs : (d.dom k).step = .settled) :
    (d.refuser k false = none → d.autoRetention k = d.setPower k 1) ∧
      ∀ code, d.refuser k false = some code → d.autoRetention k = d.refused k code := by
  refine ⟨fun h => ?_, fun code h => ?_⟩ <;> simp [Dev.autoRetention, ha, hr, hon, hi, hs, h]

theorem Dev.fabric_refused (d : Dev) (k code : Nat) : (d.refused k code).fabric = d.fabric := rfl

theorem Dev.power_refused (d : Dev) (k code : Nat) : (d.refused k code).power k = d.power k := by
  unfold Dev.power Dev.refused
  rw [Dev.fld_countFld_other _ _ _ _ _ (by decide) (by decide), Dev.fld_setFld_other _ _ _ _ _ (by decide) (by decide), Dev.fld_modDom]

theorem Dev.lastref_refused (d : Dev) (k : Nat) {code : Nat} (h : code < 8) : (d.refused k code).fld (.pwrDom k) .PWR_DOM_LASTREF = code := by
  unfold Dev.refused
  rw [Dev.fld_countFld_other _ _ _ _ _ (by decide) (by decide), Dev.fld_setFld_self _ _ _ _ (by decide)]
  exact Nat.mod_eq_of_lt (Nat.lt_trans h (by decide))

/-! ### Retention (R383) -/

theorem Dev.exitRetention_awake {d : Dev} {k : Nat} (h : d.power k ≠ 1) : d.exitRetention k = d := if_neg h

theorem Dev.enterRetention_drained {d : Dev} {k : Nat} (hon : d.isOn k = true) (hr : requestable k = true) (hs : (d.dom k).step = .drainRet)
    (hi : d.domIdle k = true) (hl : (d.dom k).latest = none) :
    d.enterRetention k = (d.modDom k fun x => { x with step := .settled }).setPower k 1 := by
  have hact : d.actLatest k = d := Dev.actLatest_none hl
  have hlast : (((d.modDom k fun x => { x with step := .settled }).setPower k 1).dom k).latest = none := by simp [hl]
  simp [Dev.enterRetention, hon, hr, hact, hs, hi, Dev.actLatest_none hlast]

theorem Dev.enterRetention_chief {d : Dev} {k : Nat} (hon : d.isOn k = true) (hr : requestable k = false) (hc : d.chiefRetains k = true)
    (hf : d.refuser k false = none) : (d.enterRetention k).fabric = d.fabric ∧ (d.enterRetention k).power k = 1 := by
  simp only [Dev.enterRetention, hon, hr, hc, hf, Bool.not_true, Bool.false_eq_true, if_false]
  split
  next hk =>
    refine ⟨by simp, ?_⟩
    rw [Dev.power, Dev.fld_setFld_reg_other _ _ _ _ (Reg.offset_pwrDom_ne_mcCtl k (by omega))]
    exact Dev.power_setPower_self d k (by decide)
  · exact ⟨by simp, Dev.power_setPower_self d k (by decide)⟩

/-- An engine or fabric domain that wakes from Retention is On, its state as it was. -/
theorem Dev.wake_spec {d : Dev} {k : Nat} (hp : d.power k = 1) (hk : 412 ≤ k) (hs : (d.dom k).step = .settled) :
    (d.wake k).power k = 0 ∧ (d.wake k).dom k = d.dom k := by
  have hlo : ¬ k < 264 := by omega
  unfold Dev.wake Dev.onWake
  rw [if_pos hp, if_neg hlo, if_neg (fun h => by omega)]
  refine ⟨?_, ?_⟩
  · rw [Dev.power_modDom]
    exact Dev.power_setPower_self _ k (by decide)
  · rw [Dev.dom_modDom_self, Dev.dom_setPower]
    exact if_neg (by simp [Dev.dom] at hs ⊢; simp [hs])

theorem Dev.exitRetention_engine {d : Dev} {k : Nat} (hp : d.power k = 1) (hl : (d.dom k).latest = none) (hs : (d.dom k).step = .settled)
    (hk : 412 ≤ k) (hf : d.power (domOfFabric (quadOfDom k)) = 0) : d.exitRetention k = d.wake k := by
  have hlast : ((d.wake k).dom k).latest = none := by rw [(Dev.wake_spec hp hk hs).2, hl]
  rw [Dev.exitRetention, if_pos hp, Dev.wake_of_power_ne (k := domOfFabric _) (by simp [hf]), Dev.actLatest_none hlast]

/-! ### Off (R382, R384, R385) -/

theorem Dev.fabric_unitOff (d : Dev) (k : Nat) : (d.unitOff k).fabric = d.fabric := by
  unfold Dev.unitOff
  extract_lets d1 _ d2 d3
  have h2 : d2.fabric = d.fabric := by
    unfold d2
    split_ifs <;> rfl
  rw [Dev.fabric_setPower]
  exact h2

theorem Dev.power_unitOff (d : Dev) (k : Nat) : (d.unitOff k).power k = 2 := Dev.power_setPower_self _ k (by decide)

theorem not_requestable {k : Nat} (h1 : 396 ≤ k) (h2 : k < 444 ∨ 448 ≤ k) : requestable k = false := by
  simp [requestable]
  omega

theorem requestable_engine {k : Nat} (h1 : 444 ≤ k) (h2 : k < 448) : requestable k = true := by
  simp [requestable]
  omega

/-- A skein's domain goes Off when none of its four ports is assigned (R299). -/
theorem Dev.enterOff_skein {d : Dev} {k : Nat} (h1 : 412 ≤ k) (h2 : k < 444) (hs : (d.dom k).step = .settled) :
    d.enterOff k = if (List.range 4).all fun j => !(d.port ((k - 412) * 4 + j)).assigned then d.unitOff k else d := by
  have hr := not_requestable (k := k) (by omega) (.inl h2)
  have hc : coreDom k = false := by simp [coreDom]; omega
  have he : engineDom k = false := by simp [engineDom]; omega
  have hn : (PowerStep.settled == PowerStep.drainOff) = false := rfl
  unfold Dev.enterOff
  simp only [hr, hs, hc, he, hn, Bool.false_and, Bool.false_eq_true, if_false]
  rw [if_neg (by omega), if_pos ⟨h1, h2⟩]

theorem Dev.drainStores_nil {d : Dev} {c : Nat} (h : (d.core c).storeBuf = []) :
    d.drainStores c = d.modCore c fun q => { q with storeBuf := [] } := by
  rw [Dev.drainStores, h]
  rfl

theorem Dev.cleanCore_nil {d : Dev} {c : Nat} (h : (d.core c).l2 = []) : d.cleanCore c = d := by
  rw [Dev.cleanCore, h]
  rfl

/-- A core that waits for Off with nothing left to store or write back goes Off. -/
theorem Dev.enterOff_core {d : Dev} {c : Nat} (hc : c < 264) (hs : (d.dom c).step = .drainOff) (hi : d.domIdle c = true)
    (hb : (d.core c).storeBuf = []) (hl : (d.core c).l2 = []) :
    d.enterOff c = ((d.modCore c fun q => { q with storeBuf := [] }).forgetCore c).unitOff c := by
  have hr : requestable c = true := by simp [requestable]; omega
  have hcd : coreDom c = true := by simp [coreDom, hc]
  have hl' : ((d.modCore c fun q => { q with storeBuf := [] }).core c).l2 = [] := by simp [hl]
  have hact : d.actLatest c = d := Dev.actLatest_unsettled (by simp [hs])
  unfold Dev.enterOff
  simp only [hr, hact, hs, hi, hcd, if_true, Bool.not_true, Bool.and_false, Bool.false_eq_true, if_false, beq_self_eq_true]
  rw [Dev.drainStores_nil hb, Dev.cleanCore_nil hl']

theorem Dev.fabric_forgetCore (d : Dev) (c : Nat) : (d.forgetCore c).fabric = d.fabric := rfl

theorem Dev.wakeOff_not {d : Dev} {k : Nat} (h : d.isOff k = false ∨ d.wakeable k = false) : d.wakeOff k = d := by
  unfold Dev.wakeOff
  rw [if_pos]
  rcases h with h | h <;> simp [h]

theorem Dev.wakeable_core {d : Dev} {c : Nat} (hc : c < 264) : d.wakeable c = (d.coreRole c == 0) := by
  simp [Dev.wakeable, coreDom, hc]

/-- An engine that leaves Off is On with its cause recorded, and nothing more is asked of it (R384). -/
theorem Dev.wakeOff_engine {d : Dev} {k : Nat} (h1 : 444 ≤ k) (h2 : k < 448) (ho : d.isOff k = true)
    (hf : d.power (domOfFabric (quadOfDom k)) = 0) (hn : d.wakesNext k = true) :
    d.wakeOff k = ((d.setPower k 0).setReg (.odmRcause k) (setF 0 .ODM_RCAUSE_WAKE 1)).modDom k fun x => { x with latest := none } := by
  have hc : coreDom k = false := by simp [coreDom]; omega
  have hs : sliceDom k = false := by simp [sliceDom]; omega
  have hw : d.wakeable k = true := by
    simp only [Dev.wakeable, hc, hs, Bool.false_eq_true, if_false]
    rw [if_neg (by omega), if_neg (by omega)]
  unfold Dev.wakeOff
  simp only [ho, hw, hn, hc, hs, Bool.not_true, Bool.or_self, Bool.false_eq_true, if_false]
  rw [Dev.wake_of_power_ne (k := domOfFabric _) (by simp [hf])]

/-! ### An entry that is aborted (R381) -/

theorem Dev.abortEntry_settled {d : Dev} {k : Nat} (h : (d.dom k).step = .settled) : d.abortEntry k = d := by
  rw [Dev.abortEntry, h]

theorem Dev.abortEntry_draining {d : Dev} {k : Nat} (hs : sliceDom k = false) (h : (d.dom k).step = .drainRet ∨ (d.dom k).step = .drainOff) :
    d.abortEntry k = ((d.modDom k fun x => { x with step := .settled, aborts := x.aborts + 1 }).setFld (.pwrDom k) .PWR_DOM_LASTREF 0).countFld
      (.pwrDom k) .PWR_DOM_ABORTED 1 := by
  rcases h with h | h <;> simp only [Dev.abortEntry, h, hs, Bool.false_and, Bool.false_eq_true, if_false]

/-! ### Voltage transactions (R386, R393, R394) -/

theorem Dev.bit_eq_false_iff {d : Dev} {r : Reg} {f : Fld} : d.bit r f = false ↔ d.fld r f = 0 := by simp [Dev.bit]

theorem Dev.vBusy_congr {d e : Dev} (h : e.csr = d.csr) (k : Nat) : e.vBusy k = d.vBusy k := by
  rw [Dev.vBusy, Dev.vBusy, Dev.bit, Dev.bit, Dev.fld_congr h]

theorem Dev.vPrev_congr {d e : Dev} (h : e.csr = d.csr) (k : Nat) : e.vPrev k = d.vPrev k := Dev.fld_congr h _ _

@[simp] theorem Dev.vBusy_choose (d : Dev) (k mv j : Nat) : (d.choose k mv).vBusy j = d.vBusy j := rfl
@[simp] theorem Dev.vPrev_choose (d : Dev) (k mv j : Nat) : (d.choose k mv).vPrev j = d.vPrev j := rfl
@[simp] theorem Dev.isOn_choose (d : Dev) (k mv j : Nat) : (d.choose k mv).isOn j = d.isOn j := rfl
@[simp] theorem Dev.vBusy_modDom (d : Dev) (k j : Nat) (f : DomSt → DomSt) : (d.modDom k f).vBusy j = d.vBusy j :=
  Dev.vBusy_congr (d.modDom_csr k f) j
@[simp] theorem Dev.vPrev_modDom (d : Dev) (k j : Nat) (f : DomSt → DomSt) : (d.modDom k f).vPrev j = d.vPrev j :=
  Dev.vPrev_congr (d.modDom_csr k f) j

theorem Dev.vBegin_busy {d : Dev} {k mv : Nat} (h : d.vBusy k = true) : d.vBegin k mv = d := by
  simp [Dev.vBegin, h]

/-- A domain that is not On has nothing to step: its setpoint is recorded at once. -/
theorem Dev.vBegin_notOn {d : Dev} {k mv : Nat} (hb : d.vBusy k = false) (hm : mv ≠ d.vPrev k) (ho : d.isOn k = false) :
    d.vBegin k mv = d.setFlds (.pwrVset k) [(.PWR_VSET_PREV, mv), (.PWR_VSET_TARGET, mv)] := by
  simp [Dev.vBegin, hb, hm, ho]

/-- A transaction of a domain that is On starts from PREV. -/
theorem Dev.vBegin_on {d : Dev} {k mv : Nat} (hb : d.vBusy k = false) (hm : mv ≠ d.vPrev k) (ho : d.isOn k = true) :
    d.vBegin k mv = (d.setFlds (.pwrVset k) [(.PWR_VSET_BUSY, 1), (.PWR_VSET_ROLLBACK, 0), (.PWR_VSET_TARGET, mv)]).modDom k fun x =>
      { x with stepMv := d.vPrev k, undo := false } := by
  simp [Dev.vBegin, hb, hm, ho]

theorem Dev.vBegin_notOn_spec {d : Dev} {k mv : Nat} (hb : d.vBusy k = false) (hm : mv ≠ d.vPrev k) (ho : d.isOn k = false)
    (hw : mv < 2 ^ (Fld.PWR_VSET_TARGET).width) :
    (d.vBegin k mv).vBusy k = false ∧ (d.vBegin k mv).fld (.pwrVset k) .PWR_VSET_TARGET = mv := by
  rw [Dev.vBegin_notOn hb hm ho, Dev.vBusy, Dev.bit_eq_false_iff, Dev.fld_setFlds_self, Dev.fld_setFlds_self]
  simp only [List.foldl_cons, List.foldl_nil]
  refine ⟨?_, ?_⟩
  · rw [getF_setF_other _ _ _ _ (by decide) (by decide), getF_setF_other _ _ _ _ (by decide) (by decide)]
    exact Dev.bit_eq_false_iff.mp hb
  · rw [getF_setF_self _ _ _ (by decide)]
    exact Nat.mod_eq_of_lt hw

theorem Dev.vBegin_on_spec {d : Dev} {k mv : Nat} (hb : d.vBusy k = false) (hm : mv ≠ d.vPrev k) (ho : d.isOn k = true)
    (hw : mv < 2 ^ (Fld.PWR_VSET_TARGET).width) :
    (d.vBegin k mv).vBusy k = true ∧ (d.vBegin k mv).fld (.pwrVset k) .PWR_VSET_TARGET = mv ∧
      ((d.vBegin k mv).dom k).stepMv = d.vPrev k ∧ (d.vBegin k mv).vPrev k = d.vPrev k := by
  rw [Dev.vBegin_on hb hm ho, Dev.vBusy_modDom, Dev.vPrev_modDom, Dev.fld_modDom, Dev.dom_modDom_self]
  simp only [Dev.vBusy, Dev.bit, Dev.vPrev, Dev.fld_setFlds_self, List.foldl_cons, List.foldl_nil]
  refine ⟨?_, ?_, trivial, ?_⟩
  · rw [getF_setF_other _ _ _ _ (by decide) (by decide), getF_setF_other _ _ _ _ (by decide) (by decide), getF_setF_self _ _ _ (by decide)]
    decide
  · rw [getF_setF_self _ _ _ (by decide)]
    exact Nat.mod_eq_of_lt hw
  · rw [getF_setF_other _ _ _ _ (by decide) (by decide), getF_setF_other _ _ _ _ (by decide) (by decide),
      getF_setF_other _ _ _ _ (by decide) (by decide)]
    rfl

/-- What a new transaction writes of a domain's state: the step it begins from, which is PREV, and that it does not turn back. -/
theorem Dev.dom_vBegin (d : Dev) (k mv : Nat) :
    (d.vBegin k mv).dom k = d.dom k ∨ (d.vBegin k mv).dom k = { d.dom k with stepMv := d.vPrev k, undo := false } := by
  unfold Dev.vBegin
  split_ifs
  · exact .inl rfl
  · exact .inl rfl
  · exact .inr (by rw [Dev.dom_modDom_self, Dev.dom_setFlds])

/-- What follows the end of a transaction at PREV begins from there. -/
theorem Dev.stepMv_vFollow {d : Dev} {k : Nat} (h : d.vPrev k = (d.dom k).stepMv) : ((d.vFollow k).dom k).stepMv = (d.dom k).stepMv := by
  have key : ∀ (e : Dev) (mv : Nat), e.vPrev k = d.vPrev k → (e.dom k).stepMv = (d.dom k).stepMv →
      ((e.vBegin k mv).dom k).stepMv = (d.dom k).stepMv := by
    intro e mv hp hs
    rcases Dev.dom_vBegin e k mv with he | he <;> rw [he]
    · exact hs
    · exact hp.trans h
  unfold Dev.vFollow Dev.vAim
  split
  · exact key _ _ rfl (by rw [Dev.dom_modDom_self])
  · split
    · exact key _ _ rfl rfl
    · rfl

theorem Dev.vFollow_none {d : Dev} {k : Nat} (hc : (d.dom k).cooling = false) (ho : (d.dom k).owed = false) (hr : d.gov.reef = false) :
    d.vFollow k = d := by
  simp [Dev.vFollow, hc, ho, hr]

/-! ### A step of a transaction (R386) -/

/-- Where a running transaction goes: its target, or back to PREV. -/
def Dev.vHeads (d : Dev) (k : Nat) : Nat := if (d.dom k).undo then d.vPrev k else d.fld (.pwrVset k) .PWR_VSET_TARGET

/-- One step of 5 mV from `a` toward `goal`, no further than the goal. -/
def stepToward (a goal : Nat) : Nat := if a < goal then min goal (a + 5) else max goal (a - 5)

/-- A domain that has made its step: its meter and NOW show the reading. -/
def Dev.vStepped (d : Dev) (k now nxt : Nat) : Dev :=
  ((d.setFld (.pwrSense k) (if d.bit (.pwrSense k) .PWR_SENSE_SFAULT then Fld.PWR_SENSE_DMON else Fld.PWR_SENSE_SENSE) now).setFld
    (.pwrVset k) .PWR_VSET_NOW now).modDom k fun s => { s with stepMv := nxt }

/-- A transaction that has returned to PREV ends with ROLLBACK. -/
def Dev.vBack (d : Dev) (k : Nat) : Dev := d.setFlds (.pwrVset k) [(.PWR_VSET_BUSY, 0), (.PWR_VSET_ROLLBACK, 1)]

theorem stepToward_near (a goal : Nat) : stepToward a goal ≤ a + 5 ∧ a ≤ stepToward a goal + 5 := by
  unfold stepToward
  split <;> omega

/-- The output is clamped to the lower of setpoint + 100 mV and 1.00 V. -/
def vClamp (reading nxt : Nat) : Nat := min reading (min (nxt + 100) 1000)

theorem Dev.vStep_idle {d : Dev} {k r : Nat} (h : d.vBusy k = false) : d.vStep k r = d := by
  simp [Dev.vStep, h]

theorem Dev.vStep_busy {d : Dev} {k r : Nat} (h : d.vBusy k = true) :
    d.vStep k r =
      let nxt := stepToward (d.dom k).stepMv (d.vHeads k)
      let d1 := d.vStepped k (vClamp r nxt) nxt
      if !decide (natDist (vClamp r nxt) nxt ≤ 15) then
        if (d.dom k).undo then (d1.vBack k).modDom k fun s => { s with undo := false, suspect := some d.time }
        else d1.modDom k fun s => { s with undo := true }
      else if nxt == d.vHeads k then
        if (d.dom k).undo then ((d1.vBack k).modDom k fun s => { s with undo := false }).vFollow k
        else (d1.setFlds (.pwrVset k) [(.PWR_VSET_BUSY, 0), (.PWR_VSET_PREV, d.vHeads k)]).vFollow k
      else d1 := by
  unfold Dev.vStep
  rw [h]
  rfl

@[simp] theorem Dev.dom_vStepped (d : Dev) (k now nxt : Nat) : (d.vStepped k now nxt).dom k = { d.dom k with stepMv := nxt } := by
  simp [Dev.vStepped]

@[simp] theorem Dev.dom_vBack (d : Dev) (k j : Nat) : (d.vBack k).dom j = d.dom j := by rw [Dev.vBack, Dev.dom_setFlds]

theorem Dev.fld_pwrVset_vStepped (d : Dev) (k now nxt : Nat) (g : Fld) (hg : g.lo + g.width ≤ 64) (h : 10 ≤ g.lo) :
    (d.vStepped k now nxt).fld (.pwrVset k) g = d.fld (.pwrVset k) g := by
  have hnow : Fld.PWR_VSET_NOW.lo + Fld.PWR_VSET_NOW.width ≤ g.lo := h
  rw [Dev.vStepped, Dev.fld_modDom, Dev.fld_setFld_other _ _ _ _ _ hg (.inl hnow),
    Dev.fld_setFld_reg_other _ _ _ _ (Reg.offset_pwrSense_ne_pwrVset k k).symm]

theorem Dev.vPrev_vStepped (d : Dev) (k now nxt : Nat) : (d.vStepped k now nxt).vPrev k = d.vPrev k :=
  Dev.fld_pwrVset_vStepped d k now nxt _ (by decide) (by decide)

theorem Dev.vBusy_vStepped (d : Dev) (k now nxt : Nat) : (d.vStepped k now nxt).vBusy k = d.vBusy k := by
  rw [Dev.vBusy, Dev.bit, Dev.fld_pwrVset_vStepped d k now nxt _ (by decide) (by decide)]
  rfl

theorem Dev.vPrev_vBack (d : Dev) (k : Nat) : (d.vBack k).vPrev k = d.vPrev k := by
  rw [Dev.vPrev, Dev.vBack, Dev.fld_setFlds_self]
  simp only [List.foldl_cons, List.foldl_nil]
  rw [getF_setF_other _ _ _ _ (by decide) (by decide), getF_setF_other _ _ _ _ (by decide) (by decide)]
  rfl

/-- A transaction that ends at its goal: BUSY is 0, and PREV is the goal. -/
theorem Dev.vEnd_spec (d : Dev) (k : Nat) {goal : Nat} (hw : goal < 2 ^ (Fld.PWR_VSET_TARGET).width) :
    (d.setFlds (.pwrVset k) [(.PWR_VSET_BUSY, 0), (.PWR_VSET_PREV, goal)]).vBusy k = false ∧
      (d.setFlds (.pwrVset k) [(.PWR_VSET_BUSY, 0), (.PWR_VSET_PREV, goal)]).vPrev k = goal := by
  rw [Dev.vBusy, Dev.bit_eq_false_iff, Dev.vPrev, Dev.fld_setFlds_self, Dev.fld_setFlds_self]
  simp only [List.foldl_cons, List.foldl_nil]
  refine ⟨?_, ?_⟩
  · rw [getF_setF_other _ _ _ _ (by decide) (by decide), getF_setF_self _ _ _ (by decide)]
    decide
  · rw [getF_setF_self _ _ _ (by decide)]
    exact Nat.mod_eq_of_lt hw

theorem Dev.target_lt (d : Dev) (k : Nat) : d.fld (.pwrVset k) .PWR_VSET_TARGET < 2 ^ (Fld.PWR_VSET_TARGET).width :=
  Nat.mod_lt _ (by decide)

/-- Every step leaves the domain at the step that it takes toward its goal. -/
theorem Dev.stepMv_vStep {d : Dev} {k : Nat} (r : Nat) (h : d.vBusy k = true) :
    ((d.vStep k r).dom k).stepMv = stepToward (d.dom k).stepMv (d.vHeads k) := by
  rw [Dev.vStep_busy h]
  extract_lets nxt d1
  split_ifs with hok hu hg hu
  · simp [d1, nxt]
  · simp [d1, nxt]
  · have hgoal : nxt = d.vPrev k := by
      rw [beq_iff_eq.mp hg, Dev.vHeads, if_pos hu]
    rw [Dev.stepMv_vFollow]
    · simp [d1, nxt]
    · rw [Dev.vPrev_modDom, Dev.vPrev_vBack, Dev.vPrev_vStepped, ← hgoal]
      simp [d1]
  · have hgoal : nxt = d.vHeads k := beq_iff_eq.mp hg
    rw [Dev.stepMv_vFollow]
    · simp [d1, nxt]
    · rw [(Dev.vEnd_spec d1 k (by rw [Dev.vHeads, if_neg hu]; exact d.target_lt k)).2, ← hgoal]
      simp [d1]
  · simp [d1, nxt]

/-- The last step, with a reading at the goal, ends the transaction there (R386). -/
theorem Dev.vStep_last {d : Dev} {k : Nat} (hb : d.vBusy k = true) (hu : (d.dom k).undo = false)
    (h1 : (d.dom k).stepMv < d.fld (.pwrVset k) .PWR_VSET_TARGET) (h2 : d.fld (.pwrVset k) .PWR_VSET_TARGET ≤ (d.dom k).stepMv + 5)
    (h3 : d.fld (.pwrVset k) .PWR_VSET_TARGET ≤ 1000) (hr : d.gov.reef = false) (hc : (d.dom k).cooling = false) (ho : (d.dom k).owed = false) :
    (d.vStep k (d.fld (.pwrVset k) .PWR_VSET_TARGET)).vBusy k = false ∧
      (d.vStep k (d.fld (.pwrVset k) .PWR_VSET_TARGET)).vPrev k = d.fld (.pwrVset k) .PWR_VSET_TARGET := by
  have hh : d.vHeads k = d.fld (.pwrVset k) .PWR_VSET_TARGET := by rw [Dev.vHeads, hu]; rfl
  have hlt := d.target_lt k
  rw [Dev.vStep_busy hb, hh]
  generalize d.fld (.pwrVset k) .PWR_VSET_TARGET = goal at *
  have hn : stepToward (d.dom k).stepMv goal = goal := by
    unfold stepToward
    rw [if_pos h1]
    omega
  have hnow : vClamp goal goal = goal := by
    unfold vClamp
    omega
  have hok : natDist goal goal ≤ 15 := by
    unfold natDist
    omega
  simp only [hn, hnow, hok, hu, decide_true, Bool.not_true, Bool.false_eq_true, if_false, beq_self_eq_true, if_true]
  rw [Dev.vFollow_none (by simp [hc]) (by simp [ho]) (by exact hr)]
  exact Dev.vEnd_spec _ k hlt

/-- A reading more than 15 mV off turns the transaction back to PREV. -/
theorem Dev.vStep_off {d : Dev} {k r : Nat} (hb : d.vBusy k = true) (hu : (d.dom k).undo = false)
    (ho : ¬ natDist (vClamp r (stepToward (d.dom k).stepMv (d.vHeads k))) (stepToward (d.dom k).stepMv (d.vHeads k)) ≤ 15) :
    ((d.vStep k r).dom k).undo = true ∧ (d.vStep k r).vBusy k = true := by
  rw [Dev.vStep_busy hb]
  simp only [ho, hu, decide_false, Bool.not_false, if_true, Bool.false_eq_true, if_false]
  refine ⟨by rw [Dev.dom_modDom_self], ?_⟩
  rw [Dev.vBusy_modDom, Dev.vBusy_vStepped, hb]

theorem reading_off {a goal r : Nat} (h1 : 600 ≤ a) (h2 : a < goal) (hr : r ≤ 500) : ¬ natDist (vClamp r (stepToward a goal)) (stepToward a goal) ≤ 15 := by
  simp only [natDist, vClamp, stepToward, if_pos h2]
  omega

/-! ### What a transaction, a note and an entry of the governor log leave alone -/

theorem Dev.fabric_vBegin (d : Dev) (k mv : Nat) : (d.vBegin k mv).fabric = d.fabric := by
  unfold Dev.vBegin
  split_ifs <;> simp only [Dev.modDom_fabric, Dev.setFlds_fabric]

theorem Dev.fld_vBegin_other (d : Dev) (k mv : Nat) {q : Reg} (g : Fld) (h : q.offset ≠ (Reg.pwrVset k).offset) :
    (d.vBegin k mv).fld q g = d.fld q g := by
  unfold Dev.vBegin
  split_ifs
  · rfl
  · exact Dev.fld_setFlds_other d _ g h
  · rw [Dev.fld_modDom]
    exact Dev.fld_setFlds_other d _ g h

theorem Dev.guard_vBegin (d : Dev) (k mv : Nat) : ((d.vBegin k mv).dom k).guard = (d.dom k).guard := by
  rcases Dev.dom_vBegin d k mv with h | h <;> rw [h]

theorem Dev.fabric_govLog (d : Dev) (behaviour reason applied obj old new : Nat) :
    (d.govLog behaviour reason applied obj old new).fabric = d.fabric := by
  unfold Dev.govLog
  split <;> simp only [Dev.wire, Dev.report_fabric, Dev.setFld_fabric, Dev.setGov]

theorem Dev.dom_govLog (d : Dev) (behaviour reason applied obj old new k : Nat) :
    (d.govLog behaviour reason applied obj old new).dom k = d.dom k := by
  have hdoms : (d.govLog behaviour reason applied obj old new).doms = d.doms := by
    unfold Dev.govLog
    split <;> simp only [Dev.wire, Dev.report_doms, Dev.setFld_doms, Dev.setGov]
  rw [Dev.dom, hdoms, Dev.dom]

/-- A decision that is logged changes no register but PWR_STAT. -/
theorem Dev.fld_govLog_other (d : Dev) (behaviour reason applied obj old new : Nat) {q : Reg} (g : Fld) (h : q.offset ≠ Reg.pwrStat.offset) :
    (d.govLog behaviour reason applied obj old new).fld q g = d.fld q g := by
  have hgov : ∀ gov, (d.setGov gov).csr = d.csr := fun _ => rfl
  unfold Dev.govLog
  split
  · rw [Dev.wire, Dev.fld_congr (Dev.report_csr _ _), Dev.fld_setFld_reg_other _ _ _ _ h, Dev.fld_congr (hgov _)]
  · rw [Dev.fld_setFld_reg_other _ _ _ _ h, Dev.fld_congr (hgov _)]

/-! ### Sense loops (R388 to R390) -/

/-- The registers that show a sense fault: the domain's, the sense loop's and the steward's count. -/
def Dev.showSenseFault (d : Dev) (kind k : Nat) : Dev :=
  ((d.setFld (.pwrDom k) .PWR_DOM_SFAULT 1).setFlds (.pwrSense k) [(.PWR_SENSE_SFAULT, 1), (.PWR_SENSE_KIND, kind)]).countFld
    (.stwStat (stewardOfDom k)) .STW_STAT_SFAULTS 1

theorem Dev.fabric_showSenseFault (d : Dev) (kind k : Nat) : (d.showSenseFault kind k).fabric = d.fabric := by
  simp only [Dev.showSenseFault, Dev.fabric_countFld, Dev.setFlds_fabric, Dev.setFld_fabric]

theorem Dev.fld_showSenseFault (d : Dev) {kind k : Nat} (hk : k < 452) (hkind : kind < 8) :
    (d.showSenseFault kind k).fld (.pwrSense k) .PWR_SENSE_SFAULT = 1 ∧ (d.showSenseFault kind k).fld (.pwrSense k) .PWR_SENSE_KIND = kind ∧
      (d.showSenseFault kind k).fld (.pwrDom k) .PWR_DOM_SFAULT = 1 := by
  unfold Dev.showSenseFault
  rw [Dev.fld_countFld_reg_other _ _ _ _ (Reg.offset_pwrSense_ne_stwStat k _), Dev.fld_countFld_reg_other _ _ _ _ (Reg.offset_pwrSense_ne_stwStat k _),
    Dev.fld_countFld_reg_other _ _ _ _ (Reg.offset_pwrDom_ne_stwStat hk _), Dev.fld_setFlds_self, Dev.fld_setFlds_self,
    Dev.fld_setFlds_other _ _ _ (Reg.offset_pwrSense_ne_pwrDom k k).symm, Dev.fld_setFld_self _ _ _ _ (by decide)]
  simp only [List.foldl_cons, List.foldl_nil]
  refine ⟨?_, ?_, by decide⟩
  · rw [getF_setF_other _ _ _ _ (by decide) (by decide), getF_setF_self _ _ _ (by decide)]
    decide
  · rw [getF_setF_self _ _ _ (by decide)]
    exact Nat.mod_eq_of_lt hkind

/-- A domain with a monitor in use that loses its sense is regulated 25 mV higher (R390). -/
theorem Dev.senseFault_eq {d : Dev} {k : Nat} (kind : Nat) (hm : (d.dom k).monitor = true) (hs : d.bit (.pwrSense k) .PWR_SENSE_SFAULT = false)
    (hp : d.power k ≠ 1) : ∃ owed mv old new applied, d.senseFault kind k =
      (((((d.showSenseFault kind k).modDom k fun x => { x with guard := true, owed := owed }).vBegin k mv).noteFault k kind).err 429 0x60 k).govLog
        1 0x07 applied k old new := by
  refine ⟨(d.showSenseFault kind k).vBusy k, (d.showSenseFault kind k).vPrev k + 25, (d.showSenseFault kind k).vPrev k,
    (d.showSenseFault kind k).vPrev k + 25, bitNat (d.od 0x2001 0 0 == 1), ?_⟩
  unfold Dev.senseFault
  rw [hm, hs, Dev.exitRetention_awake hp]
  rfl

theorem Dev.senseFault_spec {d : Dev} {kind k : Nat} (hk : k < 452) (hkind : kind < 8) (hm : (d.dom k).monitor = true)
    (hs : d.bit (.pwrSense k) .PWR_SENSE_SFAULT = false) (hp : d.power k ≠ 1) :
    (d.senseFault kind k).fabric = d.fabric ∧ (d.senseFault kind k).fld (.pwrSense k) .PWR_SENSE_SFAULT = 1 ∧
      (d.senseFault kind k).fld (.pwrSense k) .PWR_SENSE_KIND = kind ∧ (d.senseFault kind k).fld (.pwrDom k) .PWR_DOM_SFAULT = 1 ∧
      ((d.senseFault kind k).dom k).guard = true := by
  obtain ⟨owed, mv, old, new, applied, h⟩ := Dev.senseFault_eq kind hm hs hp
  rw [h]
  clear h
  have hfab := d.fabric_showSenseFault kind k
  obtain ⟨hsf, hkd, hdf⟩ := d.fld_showSenseFault (kind := kind) hk hkind
  generalize d.showSenseFault kind k = e at hfab hsf hkd hdf
  have bfab := (e.modDom k fun x => { x with guard := true, owed := owed }).fabric_vBegin k mv
  have bfld := fun (q : Reg) (g : Fld) => (e.modDom k fun x => { x with guard := true, owed := owed }).fld_vBegin_other k mv (q := q) g
  have bguard := (e.modDom k fun x => { x with guard := true, owed := owed }).guard_vBegin k mv
  rw [Dev.dom_modDom_self] at bguard
  rw [Dev.modDom_fabric, hfab] at bfab
  simp only [Dev.fld_modDom] at bfld
  generalize (e.modDom k fun x => { x with guard := true, owed := owed }).vBegin k mv = b at bfab bfld bguard
  have gfld := fun (q : Reg) (g : Fld) => ((b.noteFault k kind).err 429 0x60 k).fld_govLog_other 1 0x07 applied k old new (q := q) g
  have hcsr : ((b.noteFault k kind).err 429 0x60 k).csr = b.csr := rfl
  obtain ⟨hdn, hsn⟩ := Reg.offset_pwrDom_ne_pwrStat k
  refine ⟨(Dev.fabric_govLog _ _ _ _ _ _ _).trans bfab, ?_, ?_, ?_, ?_⟩
  · rw [gfld _ _ hsn, Dev.fld_congr hcsr, bfld _ _ (Reg.offset_pwrSense_ne_pwrVset k k), hsf]
  · rw [gfld _ _ hsn, Dev.fld_congr hcsr, bfld _ _ (Reg.offset_pwrSense_ne_pwrVset k k), hkd]
  · rw [gfld _ _ hdn, Dev.fld_congr hcsr, bfld _ _ (Reg.offset_pwrDom_ne_pwrVset k k), hdf]
  · rw [Dev.dom_govLog]
    exact bguard

/-- A domain whose readings are taken: the meters show them, and no doubt of earlier readings stays. -/
def Dev.senseRead (d : Dev) (k : Nat) (f : SenseReport) : Dev :=
  ((d.setFlds (.pwrSense k) [(.PWR_SENSE_SENSE, f.senseMv), (.PWR_SENSE_DMON, f.dmonMv)]).setFld (.pwrVset k) .PWR_VSET_NOW
    (if d.bit (.pwrSense k) .PWR_SENSE_SFAULT then f.dmonMv else f.senseMv)).modDom k fun x => { x with suspect := none }

theorem Dev.fabric_senseRead (d : Dev) (k : Nat) (f : SenseReport) : (d.senseRead k f).fabric = d.fabric := by
  simp only [Dev.senseRead, Dev.modDom_fabric, Dev.setFld_fabric, Dev.setFlds_fabric]

theorem Dev.reports_senseRead (d : Dev) (k : Nat) (f : SenseReport) : (d.senseRead k f).reports = d.reports := by
  simp only [Dev.senseRead, Dev.modDom_reports, Dev.setFld_reports, Dev.setFlds_reports]

theorem Dev.dom_senseRead (d : Dev) (k : Nat) (f : SenseReport) : (d.senseRead k f).dom k = { d.dom k with suspect := none } := by
  rw [Dev.senseRead, Dev.dom_modDom_self, Dev.dom_setFld, Dev.dom_setFlds]

theorem Dev.sfault_senseRead (d : Dev) (k : Nat) (f : SenseReport) :
    (d.senseRead k f).fld (.pwrSense k) .PWR_SENSE_SFAULT = d.fld (.pwrSense k) .PWR_SENSE_SFAULT := by
  rw [Dev.senseRead, Dev.fld_modDom, Dev.fld_setFld_reg_other _ _ _ _ (Reg.offset_pwrSense_ne_pwrVset k k), Dev.fld_setFlds_self]
  simp only [List.foldl_cons, List.foldl_nil]
  rw [getF_setF_other _ _ _ _ (by decide) (by decide), getF_setF_other _ _ _ _ (by decide) (by decide), Dev.fld]

theorem Dev.power_senseRead (d : Dev) (k : Nat) (f : SenseReport) : (d.senseRead k f).power k = d.power k := by
  rw [Dev.senseRead, Dev.power_modDom, Dev.power, Dev.fld_setFld_reg_other _ _ _ _ (Reg.offset_pwrDom_ne_pwrVset k k),
    Dev.fld_setFlds_other _ _ _ (Reg.offset_pwrSense_ne_pwrDom k k).symm, Dev.power]

theorem Dev.senseTest_wireFail {d : Dev} {k : Nat} {f : SenseReport} (hi : ivrDom k = true) (hw : f.wireFail = true) :
    d.senseTest k f false = ((d.senseRead k f).countFld (.pwrSense k) .PWR_SENSE_TESTFAIL 1).senseFault 1 k := by
  unfold Dev.senseTest
  rw [hi, hw]
  rfl

theorem Dev.senseTest_wireFail_spec {d : Dev} {k : Nat} {f : SenseReport} (hk : k < 452) (hi : ivrDom k = true) (hw : f.wireFail = true)
    (hm : (d.dom k).monitor = true) (hs : d.bit (.pwrSense k) .PWR_SENSE_SFAULT = false) (hp : d.power k ≠ 1) :
    (d.senseTest k f false).fabric = d.fabric ∧ (d.senseTest k f false).fld (.pwrSense k) .PWR_SENSE_SFAULT = 1 ∧
      (d.senseTest k f false).fld (.pwrSense k) .PWR_SENSE_KIND = 1 ∧ (d.senseTest k f false).fld (.pwrDom k) .PWR_DOM_SFAULT = 1 ∧
      ((d.senseTest k f false).dom k).guard = true := by
  rw [Dev.senseTest_wireFail hi hw, ← d.fabric_senseRead k f, ← Dev.fabric_countFld (d.senseRead k f) (.pwrSense k) .PWR_SENSE_TESTFAIL 1]
  refine Dev.senseFault_spec hk (by decide) ?_ ?_ ?_
  · rw [Dev.dom_countFld, Dev.dom_senseRead, hm]
  · rw [Dev.bit_eq_false_iff, Dev.fld_countFld_other _ _ _ _ _ (by decide) (by decide), Dev.sfault_senseRead]
    exact Dev.bit_eq_false_iff.mp hs
  · rw [Dev.power, Dev.fld_countFld_reg_other _ _ _ _ (Reg.offset_pwrSense_ne_pwrDom k k).symm]
    exact (d.power_senseRead k f).trans_ne hp

/-- Readings that agree with the setpoint are shown, and nothing more follows. -/
theorem Dev.senseTest_agrees {d : Dev} {k : Nat} {f : SenseReport} (others : Bool) (hi : ivrDom k = true) (hw : f.wireFail = false)
    (h1 : agrees f.senseMv (d.setpoint k) = true) (h2 : agrees f.dmonMv (d.setpoint k) = true) :
    d.senseTest k f others = d.senseRead k f := by
  unfold Dev.senseTest
  simp only [hi, hw, h1, h2, Bool.not_true, Bool.false_and, Bool.and_false, Bool.false_eq_true, if_false, ite_self]
  rfl

/-! ### A domain that was returned for its readings (R390) -/

theorem Dev.faultCheck_none {d : Dev} {k : Nat} (b : Bool) (h : (d.dom k).suspect = none) : d.faultCheck k b = d := by
  simp [Dev.faultCheck, h]

theorem Dev.faultCheck_right {d : Dev} {k : Nat} (h : (d.dom k).suspect.isSome = true) (hk : d.fld (.pwrSense k) .PWR_SENSE_KIND = 3) :
    d.faultCheck k false = (d.modDom k fun x => { x with suspect := none }).setFld (.pwrSense k) .PWR_SENSE_KIND 0 := by
  simp [Dev.faultCheck, h, hk]

theorem Dev.faultCheck_wrong {d : Dev} {k : Nat} (h : (d.dom k).suspect.isSome = true) (hk : d.fld (.pwrSense k) .PWR_SENSE_KIND = 3)
    (hb : 448 ≤ k) : d.faultCheck k true = (d.modDom k fun x => { x with suspect := none }).err 429 0x62 k := by
  simp [Dev.faultCheck, Dev.failUnit, h, hk, hb]

/-! ### What the commands of power leave -/

theorem Dev.requestDomain_on_spec {d : Dev} {k : Nat} (hr : requestable k = true) (hs : (d.dom k).step = .settled) :
    (d.requestDomain k .on).fabric = d.fabric ∧ (d.requestDomain k .on).fld (.pwrDom k) .PWR_DOM_REQ = 0 ∧
      ((d.requestDomain k .on).dom k).latest = some .on := by
  obtain ⟨hash, h⟩ := Dev.requestDomain_on hr hs
  rw [h]
  have hf := d.setFld_fabric (.pwrDom k) .PWR_DOM_REQ 0
  have hreg := d.fld_setFld_self (.pwrDom k) .PWR_DOM_REQ 0 (by decide)
  generalize d.setFld (.pwrDom k) .PWR_DOM_REQ 0 = e at hf hreg
  have hlatest : ((e.modDom k fun x => { x with latest := some .on }).dom k).latest = some .on := by rw [Dev.dom_modDom_self]
  exact ⟨hf, hreg.trans (Nat.zero_mod _), hlatest⟩

theorem Dev.wakeOff_engine_spec {d : Dev} {k : Nat} (h1 : 444 ≤ k) (h2 : k < 448) (ho : d.isOff k = true)
    (hf : d.power (domOfFabric (quadOfDom k)) = 0) (hn : d.wakesNext k = true) :
    (d.wakeOff k).fabric = d.fabric ∧ (d.wakeOff k).power k = 0 ∧ ((d.wakeOff k).dom k).latest = none := by
  rw [Dev.wakeOff_engine h1 h2 ho hf hn, Dev.modDom_fabric, Dev.setReg_fabric, Dev.fabric_setPower, Dev.power_modDom, Dev.dom_modDom_self]
  refine ⟨rfl, ?_, rfl⟩
  rw [Dev.power, Dev.fld_setReg_other _ _ _ (Reg.offset_pwrDom_ne_odmRcause (by omega) k)]
  exact Dev.power_setPower_self d k (by decide)

theorem Dev.abortEntry_spec {d : Dev} {k : Nat} (hs : sliceDom k = false) (h : (d.dom k).step = .drainRet ∨ (d.dom k).step = .drainOff) :
    ((d.abortEntry k).dom k).step = .settled ∧ (d.abortEntry k).fld (.pwrDom k) .PWR_DOM_LASTREF = 0 := by
  rw [Dev.abortEntry_draining hs h, Dev.dom_countFld, Dev.dom_setFld, Dev.dom_modDom_self,
    Dev.fld_countFld_other _ _ _ _ _ (by decide) (by decide), Dev.fld_setFld_self _ _ _ _ (by decide)]
  exact ⟨rfl, Nat.zero_mod _⟩

/-! ### The commands of power (R379 to R385) -/

section Commands
variable {k : DomId} {s : State}

theorem domainRequest_on (hr : requestable k.val = true) (hs : (s.dev.dom k.val).step = .settled) :
    Leaves (.domainRequest k .on) s fun e => e.fld (.pwrDom k.val) .PWR_DOM_REQ = 0 ∧ (e.dom k.val).latest = some .on := by
  obtain ⟨hfabric, hreq, hlatest⟩ := Dev.requestDomain_on_spec hr hs
  exact leaves_of_done rfl (congrArg Fabric.waits hfabric) ⟨hreq, hlatest⟩

theorem automaticRetention_enters (ha : s.dev.bit (.pwrDom k.val) .PWR_DOM_AUTO = true) (hr : requestable k.val = true)
    (hon : s.dev.isOn k.val = true) (hi : s.dev.domIdle k.val = true) (hs : (s.dev.dom k.val).step = .settled)
    (hf : s.dev.refuser k.val false = none) : Leaves (.automaticRetention k) s fun e => e.power k.val = 1 :=
  leaves_of_done (congrArg s.done ((Dev.autoRetention_idle ha hr hon hi hs).1 hf)) (congrArg Fabric.waits (Dev.fabric_setPower _ _ _))
    (Dev.power_setPower_self _ _ (by decide))

theorem automaticRetention_refused (ha : s.dev.bit (.pwrDom k.val) .PWR_DOM_AUTO = true) (hr : requestable k.val = true)
    (hon : s.dev.isOn k.val = true) (hi : s.dev.domIdle k.val = true) (hs : (s.dev.dom k.val).step = .settled) {n : Nat}
    (hf : s.dev.refuser k.val false = some n) (hn : n < 8) :
    Leaves (.automaticRetention k) s fun e => e.power k.val = 0 ∧ e.fld (.pwrDom k.val) .PWR_DOM_LASTREF = n :=
  leaves_of_done (congrArg s.done ((Dev.autoRetention_idle ha hr hon hi hs).2 n hf)) (congrArg Fabric.waits (Dev.fabric_refused _ _ _))
    ⟨(Dev.power_refused _ _ _).trans (Dev.isOn_iff.mp hon), Dev.lastref_refused _ _ hn⟩

theorem retentionEntry_drained (hon : s.dev.isOn k.val = true) (hr : requestable k.val = true) (hs : (s.dev.dom k.val).step = .drainRet)
    (hi : s.dev.domIdle k.val = true) (hl : (s.dev.dom k.val).latest = none) :
    Leaves (.retentionEntry k) s fun e => e.power k.val = 1 ∧ (e.dom k.val).step = .settled := by
  refine leaves_of_done (congrArg s.done (Dev.enterRetention_drained hon hr hs hi hl)) ?_ ⟨Dev.power_setPower_self _ _ (by decide), ?_⟩
  · rw [Dev.fabric_setPower, Dev.modDom_fabric]
  · rw [Dev.dom_setPower, Dev.dom_modDom_self]

theorem retentionEntry_chief (hon : s.dev.isOn k.val = true) (hr : requestable k.val = false) (hc : s.dev.chiefRetains k.val = true)
    (hf : s.dev.refuser k.val false = none) : Leaves (.retentionEntry k) s fun e => e.power k.val = 1 := by
  obtain ⟨hfabric, hpower⟩ := Dev.enterRetention_chief hon hr hc hf
  exact leaves_of_done rfl (congrArg Fabric.waits hfabric) hpower

theorem retentionExit_engine (hp : s.dev.power k.val = 1) (hl : (s.dev.dom k.val).latest = none) (hs : (s.dev.dom k.val).step = .settled)
    (hk : 444 ≤ k.val) (hf : s.dev.power (domOfFabric (quadOfDom k.val)) = 0) :
    Leaves (.retentionExit k) s fun e => e.power k.val = 0 :=
  leaves_of_done (congrArg s.done (Dev.exitRetention_engine hp hl hs (by omega) hf)) (Dev.waits_wake _ _)
    (Dev.wake_spec hp (by omega) hs).1

theorem offEntry_unitOff {e : Dev} (h : s.dev.enterOff k.val = e.unitOff k.val) (hf : e.fabric = s.dev.fabric) :
    Leaves (.offEntry k) s fun x => x.power k.val = 2 :=
  leaves_of_done (congrArg s.done h) (congrArg Fabric.waits ((Dev.fabric_unitOff _ _).trans hf)) (Dev.power_unitOff _ _)

theorem offEntry_skein_free (h1 : 412 ≤ k.val) (h2 : k.val < 444) (hs : (s.dev.dom k.val).step = .settled)
    (hp : ∀ j, j < 4 → (s.dev.port ((k.val - 412) * 4 + j)).assigned = false) : Leaves (.offEntry k) s fun e => e.power k.val = 2 := by
  refine offEntry_unitOff ((Dev.enterOff_skein h1 h2 hs).trans (if_pos ?_)) rfl
  rw [List.all_eq_true]
  intro j hj
  rw [hp j (List.mem_range.mp hj), Bool.not_false]

theorem offEntry_skein_assigned (h1 : 412 ≤ k.val) (h2 : k.val < 444) (hs : (s.dev.dom k.val).step = .settled) {j : Nat} (hj : j < 4)
    (hp : (s.dev.port ((k.val - 412) * 4 + j)).assigned = true) : Completes (.offEntry k) s s.dev := by
  refine completes_of_done (congrArg s.done ((Dev.enterOff_skein h1 h2 hs).trans (if_neg fun hall => ?_))) rfl
  have hfree := List.all_eq_true.mp hall j (List.mem_range.mpr hj)
  rw [hp] at hfree
  exact Bool.false_ne_true hfree

theorem offEntry_core (hk : k.val < 264) (hs : (s.dev.dom k.val).step = .drainOff) (hi : s.dev.domIdle k.val = true)
    (hb : (s.dev.core k.val).storeBuf = []) (hl : (s.dev.core k.val).l2 = []) : Leaves (.offEntry k) s fun e => e.power k.val = 2 :=
  offEntry_unitOff (Dev.enterOff_core hk hs hi hb hl) rfl

theorem wakeFromOff_engine (h1 : 444 ≤ k.val) (h2 : k.val < 448) (ho : s.dev.isOff k.val = true)
    (hf : s.dev.power (domOfFabric (quadOfDom k.val)) = 0) (hn : s.dev.wakesNext k.val = true) :
    Leaves (.wakeFromOff k) s fun e => e.power k.val = 0 ∧ (e.dom k.val).latest = none := by
  obtain ⟨hfabric, hpower, hlatest⟩ := Dev.wakeOff_engine_spec h1 h2 ho hf hn
  exact leaves_of_done rfl (congrArg Fabric.waits hfabric) ⟨hpower, hlatest⟩

theorem wakeFromOff_role (hk : k.val < 264) (hr : s.dev.coreRole k.val ≠ 0) : Completes (.wakeFromOff k) s s.dev :=
  completes_of_done (congrArg s.done (Dev.wakeOff_not (.inr ((Dev.wakeable_core hk).trans (by simpa using hr))))) rfl

theorem entryAbort_draining (hn : sliceDom k.val = false) (h : (s.dev.dom k.val).step = .drainRet ∨ (s.dev.dom k.val).step = .drainOff) :
    Leaves (.entryAbort k) s fun e => (e.dom k.val).step = .settled ∧ e.fld (.pwrDom k.val) .PWR_DOM_LASTREF = 0 :=
  leaves_of_done rfl (congrArg Fabric.waits (Dev.fabric_abortEntry _ _)) (Dev.abortEntry_spec hn h)

/-! ### The commands of voltage and of sensing (R386 to R390) -/

theorem voltageStep_near (r : Nat) (hb : s.dev.vBusy k.val = true) : Gives (.voltageStep k r) s fun e =>
    (e.dom k.val).stepMv ≤ (s.dev.dom k.val).stepMv + 5 ∧ (s.dev.dom k.val).stepMv ≤ (e.dom k.val).stepMv + 5 := by
  have hnear := stepToward_near (s.dev.dom k.val).stepMv (s.dev.vHeads k.val)
  rw [← Dev.stepMv_vStep r hb] at hnear
  exact ⟨_, rfl, hnear⟩

theorem voltageStep_off {r : Nat} (hb : s.dev.vBusy k.val = true) (hu : (s.dev.dom k.val).undo = false) (hr : r ≤ 500)
    (hg : (s.dev.dom k.val).stepMv < s.dev.fld (.pwrVset k.val) .PWR_VSET_TARGET) (h6 : 600 ≤ (s.dev.dom k.val).stepMv) :
    Gives (.voltageStep k r) s fun e => (e.dom k.val).undo = true ∧ e.vBusy k.val = true := by
  have hh : s.dev.vHeads k.val = s.dev.fld (.pwrVset k.val) .PWR_VSET_TARGET := by rw [Dev.vHeads, hu]; rfl
  exact ⟨_, rfl, Dev.vStep_off hb hu (hh.symm ▸ reading_off h6 hg hr)⟩

theorem openWireTest_fails {f : SenseReport} (hi : ivrDom k.val = true) (hw : f.wireFail = true) (hm : (s.dev.dom k.val).monitor = true)
    (hs : s.dev.bit (.pwrSense k.val) .PWR_SENSE_SFAULT = false) (hp : s.dev.power k.val ≠ 1) :
    Leaves (.openWireTest k f false) s fun e => e.fld (.pwrSense k.val) .PWR_SENSE_SFAULT = 1 ∧ e.fld (.pwrSense k.val) .PWR_SENSE_KIND = 1 ∧
      e.fld (.pwrDom k.val) .PWR_DOM_SFAULT = 1 ∧ (e.dom k.val).guard = true := by
  obtain ⟨hfabric, hspec⟩ := Dev.senseTest_wireFail_spec k.isLt hi hw hm hs hp
  exact leaves_of_done rfl (congrArg Fabric.waits hfabric) hspec

theorem openWireTest_agrees {f : SenseReport} (o : Bool) (hi : ivrDom k.val = true) (hw : f.wireFail = false)
    (h1 : agrees f.senseMv (s.dev.setpoint k.val) = true) (h2 : agrees f.dmonMv (s.dev.setpoint k.val) = true) :
    Leaves (.openWireTest k f o) s fun e => e.reports = s.dev.reports ∧ e.fld (.pwrSense k.val) .PWR_SENSE_SFAULT =
      s.dev.fld (.pwrSense k.val) .PWR_SENSE_SFAULT ∧ (e.dom k.val).suspect = none :=
  leaves_of_done (congrArg s.done (Dev.senseTest_agrees o hi hw h1 h2)) (congrArg Fabric.waits (Dev.fabric_senseRead _ _ _))
    ⟨Dev.reports_senseRead _ _ _, Dev.sfault_senseRead _ _ _, congrArg DomSt.suspect (Dev.dom_senseRead _ _ _)⟩

theorem domainFaultCheck_right (h : (s.dev.dom k.val).suspect.isSome = true) (hk : s.dev.fld (.pwrSense k.val) .PWR_SENSE_KIND = 3) :
    Leaves (.domainFaultCheck k false) s fun e => e.fld (.pwrSense k.val) .PWR_SENSE_KIND = 0 ∧ (e.dom k.val).suspect = none := by
  refine leaves_of_done (congrArg s.done (Dev.faultCheck_right h hk)) ?_ ⟨?_, ?_⟩
  · rw [Dev.setFld_fabric, Dev.modDom_fabric]
  · rw [Dev.fld_setFld_self _ _ _ _ (by decide)]
    exact Nat.zero_mod _
  · rw [Dev.dom_setFld, Dev.dom_modDom_self]

end Commands

/-- Settles O55: power states, voltage transactions and sensing, each command by what its function leaves. -/
theorem power : Obligations.Power := by
  unfold Obligations.Power
  refine ⟨⟨?_, ?_, ?_, ?_, ?_, ?_, ?_, ?_, ?_, ?_, ?_, ?_, ?_⟩, ?_, ?_, ?_, ?_, ?_, ?_, ?_, ?_, ?_, ?_⟩
  · exact fun k st s hr => completes_of_done (congrArg s.done (Dev.requestDomain_unrequestable st hr)) rfl
  · exact fun k s hr hs => domainRequest_on hr hs
  · exact fun k s ha hr hon hi hs => ⟨automaticRetention_enters ha hr hon hi hs, fun n => automaticRetention_refused ha hr hon hi hs⟩
  · exact fun k s ha => completes_of_done (congrArg s.done (Dev.autoRetention_manual ha)) rfl
  · intro k s hon
    have hawake : s.dev.power k.val ≠ 1 := by simp [Dev.isOn_iff.mp hon]
    exact ⟨retentionEntry_drained hon, retentionEntry_chief hon,
      completes_of_done (congrArg s.done (Dev.exitRetention_awake hawake)) rfl⟩
  · exact fun k s hp hl hs hk _ hf => retentionExit_engine hp hl hs hk hf
  · exact fun k s h1 h2 hs => ⟨offEntry_skein_free h1 h2 hs, fun j => offEntry_skein_assigned h1 h2 hs⟩
  · intro c k s hkc
    rw [← hkc]
    exact offEntry_core (hkc ▸ c.isLt)
  · exact fun k s ho => completes_of_done (congrArg s.done (Dev.wakeOff_not (.inl ho))) rfl
  · intro c k s hkc _ hr
    rw [← hkc] at hr
    exact wakeFromOff_role (hkc ▸ c.isLt) hr
  · exact fun k s h1 h2 ho hf hn => wakeFromOff_engine h1 h2 ho hf hn
  · exact fun k s hs => completes_of_done (congrArg s.done (Dev.abortEntry_settled hs)) rfl
  · exact fun k s hn h => entryAbort_draining hn h
  · exact fun k mv s hb => congrArg s.next (Dev.vBegin_busy hb)
  · intro k mv s hb hm hw
    exact ⟨fun ho => ⟨_, rfl, Dev.vBegin_notOn_spec (d := s.dev.choose k.val mv) hb hm ho hw⟩,
      fun ho => ⟨_, rfl, Dev.vBegin_on_spec (d := s.dev.choose k.val mv) hb hm ho hw⟩⟩
  · exact fun k r s hb => congrArg s.next (Dev.vStep_idle hb)
  · exact fun k r s hb => voltageStep_near r hb
  · exact fun k s hb hu h1 h2 h3 hr hc ho => ⟨_, rfl, Dev.vStep_last hb hu h1 h2 h3 hr hc ho⟩
  · exact fun k r s hb hu hr hg h6 => voltageStep_off hb hu hr hg h6
  · exact fun k f s hi hw hm hs hp => openWireTest_fails hi hw hm hs hp
  · exact fun k f o s hi hw h1 h2 => openWireTest_agrees o hi hw h1 h2
  · exact fun k s hs b => completes_of_done (congrArg s.done (Dev.faultCheck_none b hs)) rfl
  · exact fun k s h hk => ⟨domainFaultCheck_right h hk, fun hb => completes_of_done (congrArg s.done (Dev.faultCheck_wrong h hk hb)) rfl⟩

end Sys2Proof.Machine

/-! Prover's part. Decoding the word of an instruction gives it back (R48 to R52): what the decoder reads in each field of a packed word, by format,
and from that each group's decoder. -/

namespace Sys2Proof

/-! ### A packed word (R48) -/

/-- The word of a guard, a major opcode and bits [21:0]. -/
def packWord (g : Guard) (opc low : Nat) : Word32 :=
  BitVec.ofNat 32 (g.gp.val * 2 ^ 29 + (if g.gs then 2 ^ 28 else 0) + opc * 2 ^ 22 + low)

theorem Instr.encode_eq {i : Instr} {x : Ctx} {opc low : Nat} (h : i.fields = some (x, opc, low)) :
    i.encode = some (packWord x.guard opc low) := by
  rw [Instr.encode, h]
  rfl

theorem getLsbD_eq_bits (w : Word32) (i : Nat) : w.getLsbD i = decide (bits w i 1 = 1) := by
  rw [BitVec.getLsbD, Nat.testBit_eq_decide_div_mod_eq, bits, pow_one]

section Packed
variable (g : Guard) {opc low : Nat}

theorem packWord_toNat (ho : opc < 64) (hl : low < 2 ^ 22) :
    (packWord g opc low).toNat = g.gp.val * 2 ^ 29 + (if g.gs then 2 ^ 28 else 0) + opc * 2 ^ 22 + low := by
  have := g.gp.isLt
  rw [packWord, BitVec.toNat_ofNat, Nat.mod_eq_of_lt]
  split <;> omega

/-- Below the opcode a packed word reads as its low part. -/
theorem bits_packWord (ho : opc < 64) (hl : low < 2 ^ 22) (lo n : Nat) (h : lo + n ≤ 22) :
    bits (packWord g opc low) lo n = low / 2 ^ lo % 2 ^ n := by
  have hd : 2 ^ (lo + n) ∣ 2 ^ 22 := Nat.pow_dvd_pow 2 h
  have hw : (packWord g opc low).toNat % 2 ^ 22 = low := by
    rw [packWord_toNat g ho hl]
    split <;> omega
  calc (packWord g opc low).toNat / 2 ^ lo % 2 ^ n
      = (packWord g opc low).toNat % 2 ^ 22 % 2 ^ (lo + n) / 2 ^ lo := by
        rw [Nat.mod_mod_of_dvd _ hd, pow_add, Nat.mod_mul_right_div_self]
    _ = low / 2 ^ lo % 2 ^ n := by rw [hw, pow_add, Nat.mod_mul_right_div_self]

theorem bits_packWord_opc (ho : opc < 64) (hl : low < 2 ^ 22) : bits (packWord g opc low) 22 6 = opc := by
  rw [bits, packWord_toNat g ho hl]
  split <;> omega

/-- The guard that the decoder reads. -/
theorem guard_packWord (ho : opc < 64) (hl : low < 2 ^ 22) :
    (⟨Fin.ofNat 8 (bits (packWord g opc low) 29 3), (packWord g opc low).getLsbD 28⟩ : Guard) = g := by
  have hgp : bits (packWord g opc low) 29 3 = g.gp.val := by
    have := g.gp.isLt
    rw [bits, packWord_toNat g ho hl]
    split <;> omega
  have hgs : (packWord g opc low).getLsbD 28 = g.gs := by
    rw [getLsbD_eq_bits, bits, packWord_toNat g ho hl]
    cases g.gs
    · simp only [Bool.false_eq_true, if_false, decide_eq_false_iff_not]
      omega
    · simp only [if_true, decide_eq_true_eq]
      omega
  rw [hgp, hgs, Fin.ofNat_val_eq_self]

/-- A well-formed instruction whose form is decoded is the one decoded. -/
theorem decodeWord_packWord {x : Ctx} {i : Instr} (ho : opc < 64) (hl : low < 2 ^ 22)
    (hf : decodeForm x (packWord x.guard opc low) = some i) (hi : i.wf = true) : decodeWord x.core (packWord x.guard opc low) = some i := by
  rw [decodeWord, guard_packWord x.guard ho hl, hf]
  simp [hi]

end Packed

/-! ### Codes (R50, R69, R100) -/

@[simp] theorem Cond.ofCode_code (c : Cond) : Cond.ofCode c.code = some c := by cases c <;> rfl
@[simp] theorem Elem.ofCode_code (e : Elem) : Elem.ofCode e.code = some e := by cases e <;> rfl
@[simp] theorem ShiftKind.ofCode_code (k : ShiftKind) : ShiftKind.ofCode k.code = k := by cases k <;> rfl
theorem Cond.code_lt (c : Cond) : c.code < 14 := by cases c <;> decide
theorem Elem.code_lt (e : Elem) : e.code < 7 := by cases e <;> decide
theorem ShiftKind.code_lt (k : ShiftKind) : k.code < 4 := by cases k <;> decide

/-! ### What the decoder reads of each format (R49) -/

theorem regNo_ofNat {n : Nat} {r : RegNo} (h : n = r.val) : Fin.ofNat 32 n = r := by rw [h, Fin.ofNat_val_eq_self]
theorem predNo_ofNat {n : Nat} {p : PredNo} (h : n = p.val) : Fin.ofNat 8 n = p := by rw [h, Fin.ofNat_val_eq_self]

section Formats
variable (g : Guard) {opc func : Nat} (rd rs1 rs2 : RegNo) (imm : BitVec 12)

theorem lowR_lt (hf : func < 128) : lowR rd rs1 rs2 func < 2 ^ 22 := by
  have := rd.isLt
  have := rs1.isLt
  have := rs2.isLt
  rw [lowR]
  omega

theorem lowI_lt : lowI rd rs1 imm < 2 ^ 22 := by
  have := rd.isLt
  have := rs1.isLt
  have := imm.isLt
  rw [lowI]
  omega

/-- The registers and the function of an R-format word. -/
theorem reads_lowR (ho : opc < 64) (hf : func < 128) :
    let w := packWord g opc (lowR rd rs1 rs2 func)
    bits w 22 6 = opc ∧ fd w = rd ∧ f1 w = rs1 ∧ f2 w = rs2 ∧ bits w 0 7 = func := by
  have hl := lowR_lt rd rs1 rs2 hf
  have hd := rd.isLt
  have h1 := rs1.isLt
  have h2 := rs2.isLt
  refine ⟨bits_packWord_opc g ho hl, regNo_ofNat ?_, regNo_ofNat ?_, regNo_ofNat ?_, ?_⟩
  all_goals
    rw [bits_packWord g ho hl _ _ (by decide), lowR]
    omega

/-- The registers and the immediate of an I-format or S-format word. -/
theorem reads_lowI (ho : opc < 64) :
    let w := packWord g opc (lowI rd rs1 imm)
    bits w 22 6 = opc ∧ fd w = rd ∧ f1 w = rs1 ∧ fi w = imm := by
  have hl := lowI_lt rd rs1 imm
  have hd := rd.isLt
  have h1 := rs1.isLt
  have hi := imm.isLt
  refine ⟨bits_packWord_opc g ho hl, regNo_ofNat ?_, regNo_ofNat ?_, ?_⟩
  · rw [bits_packWord g ho hl _ _ (by decide), lowI]
    omega
  · rw [bits_packWord g ho hl _ _ (by decide), lowI]
    omega
  · have h : bits (packWord g opc (lowI rd rs1 imm)) 0 12 = imm.toNat := by
      rw [bits_packWord g ho hl _ _ (by decide), lowI]
      omega
    rw [fi, h, BitVec.ofNat_toNat, BitVec.setWidth_eq]

theorem lowX_lt (k : BitVec 10) (hf : func < 128) : lowX rd k func < 2 ^ 22 := by
  have := rd.isLt
  have := k.isLt
  rw [lowX]
  omega

/-- The register, the constant and the function of an X-format word. -/
theorem reads_lowX (k : BitVec 10) (ho : opc < 64) (hf : func < 128) :
    let w := packWord g opc (lowX rd k func)
    bits w 22 6 = opc ∧ fd w = rd ∧ bits w 7 10 = k.toNat ∧ bits w 0 7 = func := by
  have hl := lowX_lt rd k hf
  have hd := rd.isLt
  have hk := k.isLt
  refine ⟨bits_packWord_opc g ho hl, regNo_ofNat ?_, ?_, ?_⟩
  all_goals
    rw [bits_packWord g ho hl _ _ (by decide), lowX]
    omega

theorem lowV_lt (et : Elem) (hf : func < 16) : lowV rd rs1 rs2 et func < 2 ^ 22 := by
  have := rd.isLt
  have := rs1.isLt
  have := rs2.isLt
  have := et.code_lt
  rw [lowV]
  omega

/-- The registers, the element type and the function of a V-format word. -/
theorem reads_lowV (et : Elem) (ho : opc < 64) (hf : func < 16) :
    let w := packWord g opc (lowV rd rs1 rs2 et func)
    bits w 22 6 = opc ∧ fd w = rd ∧ f1 w = rs1 ∧ f2 w = rs2 ∧ bits w 4 3 = et.code ∧ bits w 0 4 = func := by
  have hl := lowV_lt rd rs1 rs2 et hf
  have hd := rd.isLt
  have h1 := rs1.isLt
  have h2 := rs2.isLt
  have he := et.code_lt
  refine ⟨bits_packWord_opc g ho hl, regNo_ofNat ?_, regNo_ofNat ?_, regNo_ofNat ?_, ?_, ?_⟩
  all_goals
    rw [bits_packWord g ho hl _ _ (by decide), lowV]
    omega

theorem lowD_lt (o : OpsD) (hf : func < 8) : lowD o func < 2 ^ 22 := by
  have := o.rd.isLt
  have := o.rs1.isLt
  have := o.rs2.isLt
  have := o.pd.isLt
  rw [lowD]
  split <;> omega

/-- The operands and the function of a D-format word. -/
theorem reads_lowD (o : OpsD) (ho : opc < 64) (hf : func < 8) :
    let w := packWord g opc (lowD o func)
    bits w 22 6 = opc ∧ (⟨fd w, f1 w, f2 w, w.getLsbD 6, fp w 0⟩ : OpsD) = o ∧ bits w 3 3 = func := by
  have hl := lowD_lt o hf
  obtain ⟨rd, rs1, rs2, wide, pd⟩ := o
  have hd := rd.isLt
  have h1 := rs1.isLt
  have h2 := rs2.isLt
  have hp := pd.isLt
  refine ⟨bits_packWord_opc g ho hl, ?_, ?_⟩
  · have hwide : (packWord g opc (lowD ⟨rd, rs1, rs2, wide, pd⟩ func)).getLsbD 6 = wide := by
      rw [getLsbD_eq_bits, bits_packWord g ho hl _ _ (by decide), lowD]
      cases wide
      · simp only [Bool.false_eq_true, if_false, decide_eq_false_iff_not]
        omega
      · simp only [if_true, decide_eq_true_eq]
        omega
    rw [OpsD.mk.injEq]
    refine ⟨regNo_ofNat ?_, regNo_ofNat ?_, regNo_ofNat ?_, hwide, predNo_ofNat ?_⟩
    all_goals
      rw [bits_packWord g ho hl _ _ (by decide), lowD]
      dsimp only
      split <;> omega
  · rw [bits_packWord g ho hl _ _ (by decide), lowD]
    dsimp only
    split <;> omega

/-- The operands and the function of a predicate-logic word, and its reserved bits. -/
theorem reads_lowR_wide (o : OpsP) (ho : opc < 64) (hf : func < 128) :
    let w := packWord g opc (lowR (wide o.pd) (wide o.ps1) (wide o.ps2) func)
    bits w 22 6 = opc ∧ (bits w 20 2 = 0 ∧ bits w 15 2 = 0 ∧ bits w 10 2 = 0) ∧
      fp w 17 = o.pd ∧ fp w 12 = o.ps1 ∧ fp w 7 = o.ps2 ∧ bits w 0 7 = func := by
  have hl := lowR_lt (wide o.pd) (wide o.ps1) (wide o.ps2) hf
  have hd := o.pd.isLt
  have h1 := o.ps1.isLt
  have h2 := o.ps2.isLt
  refine ⟨bits_packWord_opc g ho hl, ⟨?_, ?_, ?_⟩, predNo_ofNat ?_, predNo_ofNat ?_, predNo_ofNat ?_, ?_⟩
  all_goals
    rw [bits_packWord g ho hl _ _ (by decide), lowR]
    dsimp only [wide]
    omega

/-- The immediate of SHI holds its width, kind and amount (R68). -/
theorem reads_shi (w : Bool) (k : ShiftKind) (n : BitVec 6) (ho : opc < 64) :
    let p := packWord g opc (lowI rd rs1 (BitVec.ofNat 12 ((if w then 256 else 0) + k.code * 64 + n.toNat)))
    p.getLsbD 8 = w ∧ ShiftKind.ofCode (bits p 6 2) = k ∧ BitVec.ofNat 6 (bits p 0 6) = n := by
  have hk := k.code_lt
  have hn := n.isLt
  have himm : (BitVec.ofNat 12 ((if w then 256 else 0) + k.code * 64 + n.toNat)).toNat = (if w then 256 else 0) + k.code * 64 + n.toNat := by
    rw [BitVec.toNat_ofNat, Nat.mod_eq_of_lt]
    split <;> omega
  have hb := fun lo len h => bits_packWord g ho (lowI_lt rd rs1 (BitVec.ofNat 12 ((if w then 256 else 0) + k.code * 64 + n.toNat))) lo len h
  rw [lowI, himm] at hb
  rw [lowI, himm]
  refine ⟨?_, ?_, ?_⟩
  · rw [getLsbD_eq_bits, hb _ _ (by decide)]
    cases w
    · simp only [Bool.false_eq_true, if_false, decide_eq_false_iff_not]
      omega
    · simp only [if_true, decide_eq_true_eq]
      omega
  · have h : bits (packWord g opc (rd.val * 2 ^ 17 + rs1.val * 2 ^ 12 + ((if w then 256 else 0) + k.code * 64 + n.toNat))) 6 2 = k.code := by
      rw [hb _ _ (by decide)]
      split <;> omega
    rw [h, ShiftKind.ofCode_code]
  · have h : bits (packWord g opc (rd.val * 2 ^ 17 + rs1.val * 2 ^ 12 + ((if w then 256 else 0) + k.code * 64 + n.toNat))) 0 6 = n.toNat := by
      rw [hb _ _ (by decide)]
      split <;> omega
    rw [h, BitVec.ofNat_toNat, BitVec.setWidth_eq]

/-- The offset of a branch word. -/
theorem reads_offset (off : BitVec 22) (ho : opc < 64) :
    let w := packWord g opc off.toNat
    bits w 22 6 = opc ∧ BitVec.ofNat 22 (bits w 0 22) = off := by
  have hoff := off.isLt
  refine ⟨bits_packWord_opc g ho hoff, ?_⟩
  have h : bits (packWord g opc off.toNat) 0 22 = off.toNat := by
    rw [bits_packWord g ho hoff _ _ (by decide)]
    omega
  rw [h, BitVec.ofNat_toNat, BitVec.setWidth_eq]

/-- The right operand of CMP.cc as bits [9:0] hold it (R49). -/
def CmpOperand.low : CmpOperand → Nat
  | .reg rs2 => rs2.val * 16
  | .imm s => 512 + s.toNat

/-- Bits [21:0] of CMP.cc. -/
def lowCmp (pd : PredNo) (cc : Cond) (rs1 : RegNo) (b : CmpOperand) : Nat := pd.val * 2 ^ 19 + cc.code * 2 ^ 15 + rs1.val * 2 ^ 10 + b.low

theorem CmpOperand.low_lt (b : CmpOperand) : b.low < 1024 := by
  cases b with
  | reg rs2 =>
    have := rs2.isLt
    rw [CmpOperand.low]
    omega
  | imm s =>
    have := s.isLt
    rw [CmpOperand.low]
    omega

theorem lowCmp_lt (pd : PredNo) (cc : Cond) (b : CmpOperand) : lowCmp pd cc rs1 b < 2 ^ 22 := by
  have := pd.isLt
  have := cc.code_lt
  have := rs1.isLt
  have := b.low_lt
  rw [lowCmp]
  omega

theorem fields_cmpCc (x : Ctx) (pd : PredNo) (cc : Cond) (b : CmpOperand) :
    (Instr.cmpCc x pd cc rs1 b).fields = some (x, 0xb, lowCmp pd cc rs1 b) := by
  cases b with
  | reg rs2 => rfl
  | imm s => exact congrArg (fun n => some (x, 0xb, n)) (Nat.add_assoc _ 512 s.toNat)

theorem decodeCmp_reg (x : Ctx) {w : Word32} {cc : Cond} (hcc : Cond.ofCode (bits w 15 4) = some cc) (hI : w.getLsbD 9 = false)
    (hz : bits w 0 4 = 0) :
    decodeCmp x w = some (.cmpCc x (fp w 19) cc (Fin.ofNat 32 (bits w 10 5)) (.reg (Fin.ofNat 32 (bits w 4 5)))) := by
  simp only [decodeCmp, hcc, hI, hz, Bool.false_eq_true, if_false, if_true]

theorem decodeCmp_imm (x : Ctx) {w : Word32} {cc : Cond} (hcc : Cond.ofCode (bits w 15 4) = some cc) (hI : w.getLsbD 9 = true) :
    decodeCmp x w = some (.cmpCc x (fp w 19) cc (Fin.ofNat 32 (bits w 10 5)) (.imm (BitVec.ofNat 9 (bits w 0 9)))) := by
  simp only [decodeCmp, hcc, hI, if_true]

/-- The predicate, the comparison and the left operand of a CMP.cc word. -/
theorem reads_lowCmp (pd : PredNo) (cc : Cond) (b : CmpOperand) (ho : opc < 64) :
    let w := packWord g opc (lowCmp pd cc rs1 b)
    bits w 22 6 = opc ∧ Cond.ofCode (bits w 15 4) = some cc ∧ fp w 19 = pd ∧ Fin.ofNat 32 (bits w 10 5) = rs1 := by
  have hl := lowCmp_lt rs1 pd cc b
  have hp := pd.isLt
  have hc := cc.code_lt
  have h1 := rs1.isLt
  have hb := b.low_lt
  have hcc : bits (packWord g opc (lowCmp pd cc rs1 b)) 15 4 = cc.code := by
    rw [bits_packWord g ho hl _ _ (by decide), lowCmp]
    omega
  refine ⟨bits_packWord_opc g ho hl, by rw [hcc, Cond.ofCode_code], predNo_ofNat ?_, regNo_ofNat ?_⟩
  all_goals
    rw [bits_packWord g ho hl _ _ (by decide), lowCmp]
    omega

/-- CMP.cc is decoded from its own word. -/
theorem decodeCmp_lowCmp (x : Ctx) (pd : PredNo) (cc : Cond) (b : CmpOperand) (ho : opc < 64) :
    decodeCmp x (packWord g opc (lowCmp pd cc rs1 b)) = some (.cmpCc x pd cc rs1 b) := by
  have hl := lowCmp_lt rs1 pd cc b
  obtain ⟨-, hcc, hpd, hrs⟩ := reads_lowCmp g rs1 pd cc b ho
  have hbits := fun lo n h => bits_packWord g ho hl lo n h
  cases b with
  | reg rs2 =>
    have h2 := rs2.isLt
    have hI : (packWord g opc (lowCmp pd cc rs1 (.reg rs2))).getLsbD 9 = false := by
      rw [getLsbD_eq_bits, hbits _ _ (by decide), lowCmp, CmpOperand.low, decide_eq_false_iff_not]
      omega
    have hz : bits (packWord g opc (lowCmp pd cc rs1 (.reg rs2))) 0 4 = 0 := by
      rw [hbits _ _ (by decide), lowCmp, CmpOperand.low]
      omega
    have hr : Fin.ofNat 32 (bits (packWord g opc (lowCmp pd cc rs1 (.reg rs2))) 4 5) = rs2 := by
      apply regNo_ofNat
      rw [hbits _ _ (by decide), lowCmp, CmpOperand.low]
      omega
    rw [decodeCmp_reg x hcc hI hz, hpd, hrs, hr]
  | imm s =>
    have hs := s.isLt
    have hI : (packWord g opc (lowCmp pd cc rs1 (.imm s))).getLsbD 9 = true := by
      rw [getLsbD_eq_bits, hbits _ _ (by decide), lowCmp, CmpOperand.low, decide_eq_true_eq]
      omega
    have hv : bits (packWord g opc (lowCmp pd cc rs1 (.imm s))) 0 9 = s.toNat := by
      rw [hbits _ _ (by decide), lowCmp, CmpOperand.low]
      omega
    rw [decodeCmp_imm x hcc hI, hpd, hrs, hv, BitVec.ofNat_toNat, BitVec.setWidth_eq]

end Formats

/-! ### Each form from its own word (R51, R52) -/

/-- Opcode and low part fit their fields, and the form of their word is the instruction. -/
def DecodesTo (x : Ctx) (opc low : Nat) (i : Instr) : Prop :=
  opc < 64 ∧ low < 2 ^ 22 ∧ decodeForm x (packWord x.guard opc low) = some i

section Forms
variable {x : Ctx} {i : Instr} {opc func : Nat} {rd rs1 rs2 : RegNo}

theorem decodesTo_lowR (ho : opc < 64) (hf : func < 128)
    (h : ∀ w, bits w 22 6 = opc → fd w = rd → f1 w = rs1 → f2 w = rs2 → bits w 0 7 = func → decodeForm x w = some i) :
    DecodesTo x opc (lowR rd rs1 rs2 func) i := by
  obtain ⟨hopc, hd, h1, h2, hfunc⟩ := reads_lowR x.guard rd rs1 rs2 ho hf
  exact ⟨ho, lowR_lt _ _ _ hf, h _ hopc hd h1 h2 hfunc⟩

theorem decodesTo_lowI {imm : BitVec 12} (ho : opc < 64)
    (h : ∀ w, bits w 22 6 = opc → fd w = rd → f1 w = rs1 → fi w = imm → decodeForm x w = some i) :
    DecodesTo x opc (lowI rd rs1 imm) i := by
  obtain ⟨hopc, hd, h1, himm⟩ := reads_lowI x.guard rd rs1 imm ho
  exact ⟨ho, lowI_lt _ _ _, h _ hopc hd h1 himm⟩

theorem decodesTo_lowX {k : BitVec 10} (ho : opc < 64) (hf : func < 128)
    (h : ∀ w, bits w 22 6 = opc → fd w = rd → fk w = k → bits w 7 10 = k.toNat → bits w 0 7 = func → decodeForm x w = some i) :
    DecodesTo x opc (lowX rd k func) i := by
  obtain ⟨hopc, hd, hk, hfunc⟩ := reads_lowX x.guard rd k ho hf
  exact ⟨ho, lowX_lt _ _ hf, h _ hopc hd (by rw [fk, hk, BitVec.ofNat_toNat, BitVec.setWidth_eq]) hk hfunc⟩

theorem decodesTo_lowV {et : Elem} (ho : opc < 64) (hf : func < 16)
    (h : ∀ w, bits w 22 6 = opc → fd w = rd → f1 w = rs1 → f2 w = rs2 → Elem.ofCode (bits w 4 3) = some et → bits w 0 4 = func →
      decodeForm x w = some i) : DecodesTo x opc (lowV rd rs1 rs2 et func) i := by
  obtain ⟨hopc, hd, h1, h2, het, hfunc⟩ := reads_lowV x.guard rd rs1 rs2 et ho hf
  exact ⟨ho, lowV_lt _ _ _ _ hf, h _ hopc hd h1 h2 (by rw [het, Elem.ofCode_code]) hfunc⟩

theorem decodesTo_lowD {o : OpsD} (ho : opc < 64) (hf : func < 8)
    (h : ∀ w, bits w 22 6 = opc → (⟨fd w, f1 w, f2 w, w.getLsbD 6, fp w 0⟩ : OpsD) = o → bits w 3 3 = func → decodeForm x w = some i) :
    DecodesTo x opc (lowD o func) i := by
  obtain ⟨hopc, hops, hfunc⟩ := reads_lowD x.guard o ho hf
  exact ⟨ho, lowD_lt _ hf, h _ hopc hops hfunc⟩

theorem decodesTo_lowR_wide {pd ps1 ps2 : PredNo} (hf : func < 128)
    (h : ∀ w, fp w 17 = pd → fp w 12 = ps1 → fp w 7 = ps2 → bits w 0 7 = func → decodePlogFunc x w = some i) :
    DecodesTo x 0xc (lowR (wide pd) (wide ps1) (wide ps2) func) i := by
  obtain ⟨hopc, hz, hd, h1, h2, hfunc⟩ := reads_lowR_wide x.guard ⟨pd, ps1, ps2⟩ (opc := 0xc) (by decide) hf
  refine ⟨by decide, lowR_lt _ _ _ hf, ?_⟩
  simp only [decodeForm, hopc, decodePlog]
  rw [if_pos hz]
  exact h _ hd h1 h2 hfunc

theorem decodesTo_offset {off : BitVec 22} (ho : opc < 64)
    (h : ∀ w, bits w 22 6 = opc → BitVec.ofNat 22 (bits w 0 22) = off → decodeForm x w = some i) : DecodesTo x opc off.toNat i := by
  obtain ⟨hopc, hoff⟩ := reads_offset x.guard off ho
  exact ⟨ho, off.isLt, h _ hopc hoff⟩

theorem decodesTo_shi {w : Bool} {k : ShiftKind} {n : BitVec 6} :
    DecodesTo x 0x8 (lowI rd rs1 (BitVec.ofNat 12 ((if w then 256 else 0) + k.code * 64 + n.toNat))) (.shi x rd rs1 w k n) := by
  obtain ⟨hw, hk, hn⟩ := reads_shi x.guard rd rs1 w k n (opc := 0x8) (by decide)
  obtain ⟨hopc, hd, h1, -⟩ := reads_lowI x.guard rd rs1 (BitVec.ofNat 12 ((if w then 256 else 0) + k.code * 64 + n.toNat)) (opc := 0x8) (by decide)
  refine ⟨by decide, lowI_lt _ _ _, ?_⟩
  simp only [decodeForm, hopc, hd, h1]
  rw [hw, hk, hn]

theorem decodesTo_lowCmp {pd : PredNo} {cc : Cond} {b : CmpOperand} : DecodesTo x 0xb (lowCmp pd cc rs1 b) (.cmpCc x pd cc rs1 b) := by
  obtain ⟨hopc, -⟩ := reads_lowCmp x.guard rs1 pd cc b (opc := 0xb) (by decide)
  refine ⟨by decide, lowCmp_lt _ _ _ _, ?_⟩
  simp only [decodeForm, hopc]
  exact decodeCmp_lowCmp x.guard rs1 x pd cc b (by decide)

end Forms

/-- Every instruction is the form of its own word, group by group of R51. -/
theorem decodesTo_fields {i : Instr} {x : Ctx} {opc low : Nat} (h : i.fields = some (x, opc, low)) : DecodesTo x opc low i := by
  cases i
  case cmpCc =>
    rw [fields_cmpCc] at h
    obtain ⟨rfl, rfl, rfl⟩ := by simpa only [Option.some.injEq, Prod.mk.injEq] using h
    exact decodesTo_lowCmp
  all_goals simp only [Instr.fields, Option.some.injEq, Prod.mk.injEq, reduceCtorEq] at h
  all_goals obtain ⟨rfl, rfl, rfl⟩ := h
  case shi => exact decodesTo_shi
  case add | sub | and | or | xor | andn | sll | srl | sra | ror | min | max | minu | maxu | clz | ctz | popc =>
    exact decodesTo_lowR (by decide) (by decide) fun w hopc hd h1 h2 hf => by simp only [decodeForm, hopc, decodeAlu, hf, hd, h1, h2]
  case addw | subw | sllw | srlw | sraw =>
    exact decodesTo_lowR (by decide) (by decide) fun w hopc hd h1 h2 hf => by simp only [decodeForm, hopc, decodeAluw, hf, hd, h1, h2]
  case mul | mulh | mulhu | div | divu | rem | remu =>
    exact decodesTo_lowR (by decide) (by decide) fun w hopc hd h1 h2 hf => by simp only [decodeForm, hopc, decodeMuldiv, hf, hd, h1, h2]
  case br | ret =>
    exact decodesTo_lowR (by decide) (by decide) fun w hopc hd h1 h2 hf => by simp only [decodeForm, hopc, decodeJr, hf, hd, h1]
  case aaddW | aaddD | aswpW | aswpD | acasW | acasD =>
    exact decodesTo_lowR (by decide) (by decide) fun w hopc hd h1 h2 hf => by simp only [decodeForm, hopc, decodeAtom, hf, hd, h1, h2]
  case addi | andi | ori | xori | addis | addpc | ldb | ldbu | ldh | ldhu | ldw | ldwu | ldd | stb | sth | stw | std =>
    exact decodesTo_lowI (by decide) fun w hopc hd h1 himm => by simp only [decodeForm, hopc, hd, h1, himm]
  case pand | por | pxor | pandn =>
    exact decodesTo_lowR_wide (by decide) fun w hd h1 h2 hf => by simp only [decodePlogFunc, hf, hd, h1, h2]
  case pnot =>
    exact decodesTo_lowR_wide (ps2 := 0) (by decide) fun w hd h1 h2 hf => by simp only [decodePlogFunc, hf, hd, h1]
  case b | bl => exact decodesTo_offset (by decide) fun w hopc hoff => by simp only [decodeForm, hopc, hoff]
  case dadd | dsub | dadj | dcmp | dmul | ddiv | dcvb | dcvd =>
    exact decodesTo_lowD (by decide) (by decide) fun w hopc hops hf => by simp only [decodeForm, hopc, decodeDec, hf, hops]
  case syscall | hvcall | reti | wfe | fence | fenceIo | sbar | pflush | pbar =>
    exact decodesTo_lowX (by decide) (by decide) fun w hopc hd hk _ hf => by simp only [decodeForm, hopc, decodeSys, hf, hd, hk]
  case mfc | mtc =>
    exact decodesTo_lowX (by decide) (by decide) fun w hopc hd hk _ hf => by simp only [decodeForm, hopc, decodeCtl, hf, hd, hk]
  case tinvPage | tinvRange | tinvSegment | tinvTenant | tinvAll | tsync | clean | flush | discard | prefetch | zmark =>
    exact decodesTo_lowX (by decide) (by decide) fun w hopc hd _ hk hf => by
      simp [decodeForm, hopc, decodeMemop, hf, hk, hd]
  case stbnd | ltime | psetup | pdissolve =>
    exact decodesTo_lowX (by decide) (by decide) fun w hopc hd hk _ hf => by simp only [decodeForm, hopc, decodePanel, hf, hd]
  case vadd | vsub | vmul | vmulh | vmin | vmax | vminu | vmaxu | vand | vor | vxor | vsll | vsrl | vsra | vadds | vsubs =>
    exact decodesTo_lowV (by decide) (by decide) fun w hopc hd h1 h2 het hf => by
      simp only [decodeForm, hopc, decodeVec, het, decodeVint, hf, hd, h1, h2]
  case vfadd | vfsub | vfmul | vfdiv | vfsqrt | vfmin | vfmax | vfma | vfnma | vfabs | vfneg =>
    exact decodesTo_lowV (by decide) (by decide) fun w hopc hd h1 h2 het hf => by
      simp only [decodeForm, hopc, decodeVec, het, decodeVfp, hf, hd, h1, h2]
  case vceq | vcne | vclt | vcle | vcltu | vcleu | vcfeq | vcflt | vcfle | vcfun =>
    exact decodesTo_lowV (by decide) (by decide) fun w hopc hd h1 h2 het hf => by
      simp only [decodeForm, hopc, decodeVec, het, decodeVcmp, hf, hd, h1, h2]
  case vperm | vbcast | vziplo | vziphi | vunzipe | vunzipo | vsel =>
    exact decodesTo_lowV (by decide) (by decide) fun w hopc hd h1 h2 het hf => by
      simp only [decodeForm, hopc, decodeVec, het, decodeVperm, hf, hd, h1, h2]
  case vld | vlds | vldb =>
    exact decodesTo_lowV (by decide) (by decide) fun w hopc hd h1 h2 het hf => by
      simp only [decodeForm, hopc, decodeVec, het, decodeVld, hf, hd, h1, h2]
  case vst | vsts =>
    exact decodesTo_lowV (by decide) (by decide) fun w hopc hd h1 h2 het hf => by
      simp only [decodeForm, hopc, decodeVec, het, decodeVst, hf, hd, h1, h2]
  case vcvt src et =>
    exact decodesTo_lowV (by decide) (src.code_lt.trans (by decide)) fun w hopc hd h1 h2 het hf => by
      simp [decodeForm, hopc, decodeVec, het, hf, hd, h1]

/-- Settles O59: the decoder reads in an instruction's word the fields that its encoding packed. -/
theorem decodeEncode : Obligations.DecodeEncode := by
  unfold Obligations.DecodeEncode
  intro i x opc low w hfields hwf hw
  obtain ⟨ho, hl, hform⟩ := decodesTo_fields hfields
  obtain rfl : packWord x.guard opc low = w := Option.some.inj ((Instr.encode_eq hfields).symm.trans hw)
  exact decodeWord_packWord ho hl hform hwf

end Sys2Proof

/-! Prover's part. The registers of a core, where a trap is taken, and what every Miund instruction does before and in place of its operation:
its guard failed, its word undefined, its level or its stitch against it. -/

namespace Sys2Proof.Machine

/-! ### Registers (R30, R31) -/

theorem Arch.getG_setG (a : Arch) {r : RegNo} (q : RegNo) (v : Word) (hr : r ≠ 0) :
    (a.setG r v).getG q = if q = r then v else a.getG q := by
  by_cases h : q = r
  · subst h
    simp [hr]
  · simp [Arch.getG_setG_other a v h, h]

theorem Arch.getP_setP (a : Arch) {r : PredNo} (q : PredNo) (b : Bool) (hr : r ≠ 0) :
    (a.setP r b).getP q = if q = r then b else a.getP q := by
  by_cases h : q = r
  · subst h
    simp [hr]
  · simp [Arch.getP_setP_other a b h, h]

theorem Arch.getV_setV (a : Arch) (r q : RegNo) (v : Vec) : (a.setV r v).getV q = if q = r then v else a.getV q := by
  by_cases h : q = r
  · subst h
    simp
  · simp [Arch.getV_setV_other a v h, h]

/-- The odd register of a pair. -/
theorem nextReg_eq {r q : RegNo} (h : q.val = r.val + 1) : nextReg r = q := by
  apply Fin.ext
  rw [h, nextReg, Fin.val_add]
  exact Nat.mod_eq_of_lt (by have := q.isLt; simp; omega)

/-- What a pair holds after it is written (R30): each half keeps the 64 bits that it is given. -/
theorem Arch.getPair_setPair (a : Arch) {r q : RegNo} {n : Nat} (hr : r ≠ 0) (hq : q.val = r.val + 1) (hn : n < 2 ^ 128) :
    ((a.setPair r n).getG r).toNat + 2 ^ 64 * ((a.setPair r n).getG q).toNat = n := by
  have hqr : q ≠ r := fun e => by simp [e] at hq
  have hq0 : q ≠ 0 := fun e => by simp [e] at hq
  rw [Arch.setPair, nextReg_eq hq, Arch.getG_setG _ _ _ hq0, Arch.getG_setG _ _ _ hq0, if_neg hqr.symm, if_pos rfl, Arch.getG_setG _ _ _ hr,
    if_pos rfl, BitVec.toNat_ofNat, BitVec.toNat_ofNat]
  omega

/-- Settles O4. -/
theorem constantRegisters : Obligations.ConstantRegisters := by
  unfold Obligations.ConstantRegisters
  refine ⟨fun _ => ⟨rfl, rfl⟩, fun _ _ => rfl, fun _ _ => rfl, fun a r q v hr => a.getG_setG q v hr, fun a r q b hr => a.getP_setP q b hr,
    Arch.getV_setV, fun a r q hq => ?_, fun a r q n => a.getPair_setPair⟩
  rw [Arch.getPair, nextReg_eq hq]

/-! ### Routing (R39, R40) -/

/-- Settles O22. -/
theorem routing : Obligations.Routing := by
  unfold Obligations.Routing
  intro a v
  refine ⟨fun h => ?_, fun hm hh => ?_, fun hm hh => ?_, fun h1 h2 => ?_, fun h => ?_, ?_⟩
  · simp [Arch.delegated, h]
  · simp [Arch.delegated, hm, hh]
  · simp [Arch.delegated, hm, hh]
  · simp [Arch.route, h1, h2]
  · simp [Arch.route, h]
  · simp [Arch.accepts]

/-! ### The work of an instruction -/

theorem Dev.finish_next (d : Dev) (c fetched : Nat) (pc : Word) (word : Word32) : d.finish c fetched pc word .next = d.retire c fetched (pc + 4) := rfl

/-- The command is one instruction of core `x.core` with its guard, whose own operation is `w`. -/
def RunsAs (i : Instr) (x : Ctx) (w : Work) : Prop := ∀ s : State, exec i s = s.next (s.dev.run x i w)

/-- Each command that has an encoding is one instruction of its core; its work is a branch's where `branchOf` says so. -/
theorem runsAs_of_fields {i : Instr} {x : Ctx} {opc low : Nat} (h : i.fields = some (x, opc, low)) :
    ∃ w : Work, RunsAs i x w ∧ (w.branch = none ↔ branchOf i = none) := by
  cases i
  case cmpCc b =>
    cases b
    all_goals
      obtain ⟨rfl, -⟩ := Prod.mk.inj (Option.some.inj h)
      exact ⟨_, fun _ => rfl, iff_of_true rfl rfl⟩
  case b | bl | br | ret =>
    obtain ⟨rfl, -⟩ := Prod.mk.inj (Option.some.inj h)
    exact ⟨_, fun _ => rfl, by simp [branchWork, branchOf]⟩
  all_goals simp only [Instr.fields, Option.some.injEq, Prod.mk.injEq, reduceCtorEq] at h
  all_goals
    obtain ⟨rfl, -, -⟩ := h
    exact ⟨_, fun _ => rfl, iff_of_true rfl rfl⟩

namespace RunsAs
variable {i : Instr} {x : Ctx} {w : Work} {s : State} {e d : Dev} {t : Trans}

/-- What an instruction that its core fetches leaves, of what its issue gives. -/
theorem does_issue (hr : RunsAs i x w) (h : Fetches s x.core.val e t) (hi : s.dev.issue x i w none none = d) : Does i s d := by
  rw [Does, Becomes, hr, Dev.run_issue w h hi]
  rfl

/-- A term that is an undefined operation (R52). -/
theorem does_undefined (hr : RunsAs i x w) (h : Fetches s x.core.val e t) (hi : i.wf = false) :
    Does i s (e.raise x.core.val ⟨0, 0, 0, s.pc x, i.encode.getD 0⟩) := hr.does_issue h (Dev.issue_undefined w h hi)

/-- A level below the one that the instruction needs (R41). -/
theorem does_denied (hr : RunsAs i x w) (h : Executes s x i e t) (ha : w.allow (s.dev.arch x.core.val) = false) :
    Does i s (e.raise x.core.val ⟨1, 0, 0, s.pc x, i.encode.getD 0⟩) := hr.does_issue h.fetches (Dev.run_denied h w ha)

/-- An instruction that a stitch forbids (R227). -/
theorem does_forbidden (hr : RunsAs i x w) (h : Executes s x i e t) (ha : w.allow (s.dev.arch x.core.val) = true) (hf : w.forbidden = true)
    (hs : (e.stitching x.core.val).isSome = true) :
    Does i s (e.raise x.core.val ⟨0x0A, 1, 0, s.pc x, i.encode.getD 0⟩) :=
  hr.does_issue h.fetches (by simp [Dev.issue, h.fetches.fetched, h.formed, h.passes, ha, hf, hs, State.pc])

/-- The operation of an instruction and what follows it; microcoded instructions and branches apart. -/
theorem does_body (hr : RunsAs i x w) (h : Executes s x i e t) (ha : w.allow (s.dev.arch x.core.val) = true)
    (hf : w.forbidden = false ∨ (e.stitching x.core.val).isSome = false) (hm : w.micro = none) (hb : w.branch = none) {r : Ret}
    (hbody : w.body e = (d, r)) : Does i s (d.finish x.core.val t.pa (s.pc x) (i.encode.getD 0) r) := by
  have hissue := Dev.issue_executes h w ha hf hm hb
  rw [hbody] at hissue
  exact hr.does_issue h.fetches hissue

/-- An operation after which the core goes to the next instruction. -/
theorem does_next (hr : RunsAs i x w) (h : Executes s x i e t) (ha : w.allow (s.dev.arch x.core.val) = true)
    (hf : w.forbidden = false ∨ (e.stitching x.core.val).isSome = false) (hm : w.micro = none) (hb : w.branch = none)
    (hbody : w.body e = (d, .next)) : Does i s (d.retire x.core.val t.pa (s.pc x + 4)) := by
  have hdoes := hr.does_body h ha hf hm hb hbody
  rwa [Dev.finish_next] at hdoes

/-- A system instruction that any level may execute. -/
theorem does_sysWork {body : Dev → Dev × Ret} (hr : RunsAs i x (sysWork body)) (h : Executes s x i e t) {r : Ret} (hbody : body e = (d, r)) :
    Does i s (d.finish x.core.val t.pa (s.pc x) (i.encode.getD 0) r) := hr.does_body h rfl (Or.inl rfl) rfl rfl hbody

/-- An instruction that only changes registers. -/
theorem registersBecome {srcs dsts : List Nat} {f : Arch → Arch} (hr : RunsAs i x (regWork x srcs dsts f)) (h : Executes s x i e t) :
    RegistersBecome s x i e t f :=
  ⟨by simp [h.fetches.free], by rw [Does, Becomes, hr, Dev.run_regWork h]; rfl⟩

end RunsAs

/-! ### A guard that fails (R48) -/

/-- A core differs from another in its predictor alone. -/
def Core.PredOnly (k q : Core) : Prop := ∃ p : List PredEntry, q = { k with pred := p }

theorem Core.PredOnly.learn {k q : Core} (h : k.PredOnly q) (e : PredEntry) : k.PredOnly (q.learn e) := by
  obtain ⟨p, rfl⟩ := h
  exact ⟨_, rfl⟩

theorem Core.PredOnly.ite {k q r : Core} {c : Prop} [Decidable c] (hq : k.PredOnly q) (hr : k.PredOnly r) : k.PredOnly (if c then q else r) := by
  split
  · exact hq
  · exact hr

/-- A branch that has retired changes its core's predictor and branch history alone (R103, log entry 105). -/
theorem Core.trained_eq (k : Core) (pc : Word) (lvl : Level) (tenant : Half) (indirect : Bool) (taken : Option Word) :
    ∃ (p : List PredEntry) (h : List Bool), k.trained pc lvl tenant indirect taken = { k with pred := p, history := h } := by
  have hist : ∀ {q : Core}, k.PredOnly q → ∃ (p : List PredEntry) (h : List Bool),
      { q with history := (taken.isSome :: q.history).take 640 } = { k with pred := p, history := h } := by
    rintro q ⟨p, rfl⟩
    exact ⟨p, _, rfl⟩
  have base : ∀ e : PredEntry, k.PredOnly (k.learn e) := fun e => ⟨_, rfl⟩
  unfold Core.trained
  cases taken with
  | none => exact hist (.ite (base _) ((base _).learn _))
  | some g => exact hist ((Core.PredOnly.ite (base _) ((base _).learn _)).learn _)

/-- Settles O6: after its fetch an instruction whose guard fails goes straight to retirement, a branch by way of the direction tables. -/
theorem guardedOff : Obligations.GuardedOff := by
  unfold Obligations.GuardedOff
  intro i x opc low s e t hfields hfetch hwf hguard
  obtain ⟨w, hr, hbranch⟩ := runsAs_of_fields hfields
  refine ⟨fun hn => ⟨by simp [hfetch.free], hr.does_issue hfetch ?_⟩, fun hs => ?_⟩
  · simp [Dev.issue, hfetch.fetched, hwf, hguard, State.pc, hbranch.2 hn]
  · obtain ⟨indirect, hb⟩ : ∃ b, w.branch = some b :=
      Option.ne_none_iff_exists'.mp fun hn => by simp [hbranch.1 hn] at hs
    obtain ⟨p, hist, htrained⟩ := Core.trained_eq (e.core x.core.val) (s.pc x) (s.dev.arch x.core.val).pl t.tenant indirect none
    refine ⟨p, hist, by simp [hfetch.free], hr.does_issue hfetch ?_⟩
    simp only [Dev.issue, hfetch.fetched, hwf, hguard, hb, Dev.modCore, Bool.not_true, Bool.not_false, Bool.false_eq_true, if_false, if_true]
    exact congrArg (fun k => (e.setCore x.core.val k).retire x.core.val t.pa (s.pc x + 4)) htrained

/-! ### Forbidden instructions (R41, R227) -/

/-- The instructions of `levelNeeded` are allowed from their level up. -/
theorem levelNeeded_runsAs {i : Instr} {x : Ctx} {l : Level} (h : levelNeeded i = some (x, l)) :
    ∃ w : Work, RunsAs i x w ∧ w.allow = atLeast l := by
  cases i
  all_goals simp only [levelNeeded, Option.some.injEq, Prod.mk.injEq, reduceCtorEq] at h
  all_goals
    obtain ⟨rfl, rfl⟩ := h
    exact ⟨_, fun _ => rfl, rfl⟩

/-- The instructions of `stitchForbidden` are refused in a stitch once their level and TCTL.STRAP allow them. -/
theorem stitchForbidden_runsAs {i : Instr} {x : Ctx} {l : Level} (h : stitchForbidden i = some (x, l)) :
    ∃ w : Work, RunsAs i x w ∧ w.forbidden = true ∧ ∀ a : Arch, Level.le l a.pl = true → a.strap = false → w.allow a = true := by
  cases i
  all_goals simp only [stitchForbidden, Option.some.injEq, Prod.mk.injEq, reduceCtorEq] at h
  all_goals obtain ⟨rfl, rfl⟩ := h
  case zmark => exact ⟨_, fun _ => rfl, rfl, fun _ _ _ => rfl⟩
  case tinvPage | tinvRange | tinvSegment | tinvTenant | tinvAll =>
    exact ⟨_, fun _ => rfl, rfl, fun a hl hs => by simp [tinvWork, atLeast, hl, hs]⟩
  case tsync | clean | flush | prefetch | discard | psetup | pdissolve =>
    exact ⟨_, fun _ => rfl, rfl, fun _ hl _ => hl⟩

/-- Settles O8. -/
theorem forbiddenInstructions : Obligations.ForbiddenInstructions := by
  unfold Obligations.ForbiddenInstructions
  refine ⟨fun i x l s e t hi h hl => ?_, fun i x l s e t hi h hl hs hst => ?_⟩
  · obtain ⟨w, hr, hallow⟩ := levelNeeded_runsAs hi
    refine hr.does_denied h ?_
    rw [hallow]
    simp only [Level.lt, decide_eq_true_eq] at hl
    simp only [atLeast, Level.le, decide_eq_false_iff_not]
    omega
  · obtain ⟨w, hr, hforbidden, hallow⟩ := stitchForbidden_runsAs hi
    exact hr.does_forbidden h (hallow _ hl hs) hforbidden hst

/-! ### Results of the integer instructions with an immediate (R66, R68) -/

/-- A sign-extended immediate, 12 bits up. -/
theorem shiftLeft_twelve (w : Word) : w <<< 12 = w * 4096 := by
  apply BitVec.eq_of_toNat_eq
  rw [BitVec.toNat_shiftLeft, BitVec.toNat_mul, Nat.shiftLeft_eq]
  rfl

theorem shiOf_eq_shiftBy (w : Bool) (k : ShiftKind) (n : BitVec 6) (a : Word) : shiOf w k n a = shiftBy w k n a := by
  cases w
  · cases k <;> rfl
  · cases k <;> rfl

/-- The instructions of `immediateOperand` write their value to rd and nothing else. -/
theorem immediateOperand_runsAs {i : Instr} {x : Ctx} {rd : RegNo} {f : Arch → Word} (h : immediateOperand i = some (x, rd, f)) :
    ∃ srcs dsts : List Nat, RunsAs i x (regWork x srcs dsts fun a => a.setG rd (f a)) := by
  cases i
  all_goals simp only [immediateOperand, Option.some.injEq, Prod.mk.injEq, reduceCtorEq] at h
  all_goals obtain ⟨rfl, rfl, rfl⟩ := h
  case addi | andi | ori | xori => exact ⟨_, _, fun _ => rfl⟩
  case addis | addpc => exact ⟨_, _, fun _ => by simp only [← shiftLeft_twelve]; rfl⟩
  case shi => exact ⟨_, _, fun _ => by simp only [← shiOf_eq_shiftBy]; rfl⟩

/-- Settles O11. -/
theorem immediateResults : Obligations.ImmediateResults := by
  unfold Obligations.ImmediateResults
  intro i x rd f s e t hi h
  obtain ⟨srcs, dsts, hr⟩ := immediateOperand_runsAs hi
  exact hr.registersBecome h

/-! ### Compares and predicate logic (R69, R70) -/

/-- The bit of a word that the low six bits of another name. -/
theorem getLsbD_amt (a b : Word) : a.getLsbD (amt b) = (a >>> (b &&& 63)).getLsbD 0 := by
  have h : (b &&& 63).toNat = amt b := Nat.and_two_pow_sub_one_eq_mod b.toNat 6
  rw [BitVec.ushiftRight_eq', BitVec.getLsbD_ushiftRight, h, Nat.add_zero]

theorem condOf_eq_holdsCc (cc : Cond) (a b : Word) : condOf cc a b = holdsCc cc a b := by
  cases cc with
  | eq | lt | ltu | gt | gtu => rfl
  | ne | tst | tstz => simp [condOf, holdsCc, bne, Bool.beq_eq_decide_eq]
  | ge | le => simp [condOf, holdsCc, slt, BitVec.sle_eq_decide, ← decide_not]
  | geu | leu => simp [condOf, holdsCc, ult, BitVec.ule_eq_decide, ← decide_not]
  | bs | bc => simp only [condOf, holdsCc, getLsbD_amt]

/-- The instructions of `predicateResult` write their value to p[pd] and nothing else. -/
theorem predicateResult_runsAs {i : Instr} {x : Ctx} {pd : PredNo} {f : Arch → Bool} (h : predicateResult i = some (x, pd, f)) :
    ∃ srcs dsts : List Nat, RunsAs i x (regWork x srcs dsts fun a => a.setP pd (f a)) := by
  cases i
  case cmpCc b =>
    cases b
    all_goals
      obtain ⟨rfl, rfl, rfl⟩ := by simpa only [predicateResult, Option.some.injEq, Prod.mk.injEq] using h
      exact ⟨_, _, fun _ => by simp only [← condOf_eq_holdsCc]; rfl⟩
  all_goals simp only [predicateResult, Option.some.injEq, Prod.mk.injEq, reduceCtorEq] at h
  all_goals obtain ⟨rfl, rfl, rfl⟩ := h
  case pand | por | pnot | pandn | pxor => exact ⟨_, _, fun _ => rfl⟩

/-- Settles O12. -/
theorem predicateResults : Obligations.PredicateResults := by
  unfold Obligations.PredicateResults
  intro i x pd f s e t hi h
  obtain ⟨srcs, dsts, hr⟩ := predicateResult_runsAs hi
  exact hr.registersBecome h

end Sys2Proof.Machine

/-! Prover's part. Branches, and the moves between general and control registers. -/

namespace Sys2Proof.Machine

/-! ### A part of the device that one core has to itself -/

/-- A device in which a core has been written differs there alone. -/
theorem Dev.onlyCore_modCore (d : Dev) (c : Nat) (f : Core → Core) : d.OnlyCore (d.modCore c f) c (f (d.core c)) :=
  ⟨Dev.core_modCore_self d c f, fun _ h => Dev.core_modCore_other d f h, rfl⟩

/-- A core written twice. -/
theorem Dev.OnlyCore.modCore {d e : Dev} {c : Nat} {k : Core} (h : e.OnlyCore d c k) (f : Core → Core) : e.OnlyCore (d.modCore c f) c (f k) := by
  obtain ⟨hk, hother, hd⟩ := h
  refine ⟨by rw [Dev.core_modCore_self, hk], fun j hj => (Dev.core_modCore_other d f hj).trans (hother j hj), ?_⟩
  rw [hd]
  rfl

theorem Dev.OnlyCore.fabric_eq {d e : Dev} {c : Nat} {k : Core} (h : e.OnlyCore d c k) : d.fabric = e.fabric := by
  obtain ⟨-, -, hd⟩ := h
  rw [hd]

/-! ### Branches (R33, R71, R103) -/

/-- The instructions of `branchOf` are branches with that target and link register. -/
theorem branchOf_runsAs {i : Instr} {x : Ctx} {target : Arch → Word} {link : RegNo} (h : branchOf i = some (x, target, link)) :
    ∃ (srcs dsts : List Nat) (indirect : Bool) (l : Option RegNo) (pop : Bool),
      RunsAs i x (branchWork x srcs dsts indirect target l pop) ∧ link = l.getD 0 := by
  cases i
  all_goals simp only [branchOf, Option.some.injEq, Prod.mk.injEq, reduceCtorEq] at h
  all_goals
    obtain ⟨rfl, rfl, rfl⟩ := h
    exact ⟨_, _, _, _, _, fun _ => rfl, rfl⟩

/-- The core of a branch to an aligned target, before the branch retires: link register and return stack. -/
def Core.branched (k : Core) (link : Option RegNo) (pop : Bool) : Core :=
  let k1 := match link with
    | some r => if r = 0 then k else { (k.pushReturn (k.arch.pc + 4)) with arch := k.arch.setG r (k.arch.pc + 4) }
    | none => k
  if pop then { k1 with retStack := k1.retStack.tail } else k1

theorem Core.branched_eq (k : Core) (link : Option RegNo) (pop : Bool) :
    ∃ r : List Word, k.branched link pop = { k with arch := k.arch.setG (link.getD 0) (k.arch.pc + 4), retStack := r } := by
  have linked : ∃ r : List Word, k.branched link false = { k with arch := k.arch.setG (link.getD 0) (k.arch.pc + 4), retStack := r } := by
    cases link with
    | none => exact ⟨k.retStack, rfl⟩
    | some q =>
      by_cases hq : q = 0
      · subst hq
        exact ⟨k.retStack, rfl⟩
      · exact ⟨_, by simp only [Core.branched, if_neg hq, Bool.false_eq_true, if_false, Core.pushReturn, Option.getD_some]; rfl⟩
  obtain ⟨r, hr⟩ := linked
  cases pop with
  | false => exact ⟨r, hr⟩
  | true =>
    refine ⟨r.tail, ?_⟩
    have hpop : k.branched link true = { k.branched link false with retStack := (k.branched link false).retStack.tail } := rfl
    rw [hpop, hr]

section Branch
variable {i : Instr} {x : Ctx} {s : State} {e : Dev} {t : Trans} {srcs dsts : List Nat} {indirect pop : Bool} {target : Arch → Word}
  {link : Option RegNo}

theorem branchWork_body_aligned (h : (target (e.arch x.core.val)).toNat % 4 = 0) :
    (branchWork x srcs dsts indirect target link pop).body e =
      (e.modCore x.core.val fun k => k.branched link pop, .goto (target (e.arch x.core.val))) :=
  if_neg (not_not_intro h)

theorem branchWork_body_misaligned (h : (target (e.arch x.core.val)).toNat % 4 ≠ 0) :
    (branchWork x srcs dsts indirect target link pop).body e = (e, .stop (.trap 3 0 (target (e.arch x.core.val)))) :=
  if_pos h

/-- What a branch that is taken to an aligned target leaves before it retires: its link register, its return stack and its training. -/
def Dev.branched (d : Dev) (c : Nat) (link : Option RegNo) (pop : Bool) (pc : Word) (lvl : Level) (tenant : Half) (indirect : Bool)
    (target : Word) : Dev :=
  (d.modCore c fun k => k.branched link pop).modCore c fun k => k.trained pc lvl tenant indirect (some target)

theorem Dev.onlyCore_branched (d : Dev) (c : Nat) (link : Option RegNo) (pop : Bool) (pc : Word) (lvl : Level) (tenant : Half)
    (indirect : Bool) (target : Word) : ∃ (p : List PredEntry) (h : List Bool) (r : List Word),
      d.OnlyCore (d.branched c link pop pc lvl tenant indirect target) c
        { d.core c with arch := (d.arch c).setG (link.getD 0) ((d.arch c).pc + 4), pred := p, history := h, retStack := r } := by
  obtain ⟨r, hbranched⟩ := (d.core c).branched_eq link pop
  obtain ⟨p, h, htrained⟩ := ((d.core c).branched link pop).trained_eq pc lvl tenant indirect (some target)
  have only := (d.onlyCore_modCore c fun k => k.branched link pop).modCore fun k => k.trained pc lvl tenant indirect (some target)
  rw [htrained, hbranched] at only
  exact ⟨p, h, r, only⟩

/-- A branch to an aligned target writes its link register and return stack, trains the predictor and goes. -/
theorem RunsAs.does_branch (hr : RunsAs i x (branchWork x srcs dsts indirect target link pop)) (h : Executes s x i e t)
    (ha : (target (e.arch x.core.val)).toNat % 4 = 0) :
    Does i s ((e.branched x.core.val link pop (s.pc x) (s.dev.arch x.core.val).pl t.tenant indirect (target (e.arch x.core.val))).retire
      x.core.val t.pa (target (e.arch x.core.val))) := by
  refine hr.does_issue h.fetches ?_
  have hallow : (branchWork x srcs dsts indirect target link pop).allow (s.dev.arch x.core.val) = true := rfl
  have hforbid : (branchWork x srcs dsts indirect target link pop).forbidden = false := rfl
  simp only [Dev.issue, h.fetches.fetched, h.formed, h.passes, hallow, hforbid, branchWork_body_aligned ha, Bool.not_true, Bool.false_and,
    Bool.false_eq_true, if_false]
  rfl

theorem RunsAs.does_branch_misaligned (hr : RunsAs i x (branchWork x srcs dsts indirect target link pop)) (h : Executes s x i e t)
    (ha : (target (e.arch x.core.val)).toNat % 4 ≠ 0) :
    Does i s (e.raise x.core.val ⟨3, 0, target (e.arch x.core.val), s.pc x, i.encode.getD 0⟩) := by
  refine hr.does_issue h.fetches ?_
  have hallow : (branchWork x srcs dsts indirect target link pop).allow (s.dev.arch x.core.val) = true := rfl
  have hforbid : (branchWork x srcs dsts indirect target link pop).forbidden = false := rfl
  simp only [Dev.issue, h.fetches.fetched, h.formed, h.passes, hallow, hforbid, branchWork_body_misaligned ha, Bool.not_true, Bool.false_and,
    Bool.false_eq_true, if_false]
  rfl

end Branch

/-- Settles O13: the branch's own core is the one core that its link, its return stack and its training write. -/
theorem branches : Obligations.Branches := by
  unfold Obligations.Branches
  intro i x target link s e t hi h a
  obtain ⟨srcs, dsts, indirect, l, pop, hr, rfl⟩ := branchOf_runsAs hi
  constructor
  · intro ha
    obtain ⟨p, hist, r, only⟩ := e.onlyCore_branched x.core.val l pop (s.pc x) (s.dev.arch x.core.val).pl t.tenant indirect
      (target (e.arch x.core.val))
    refine ⟨_, p, hist, r, only, ?_⟩
    exact ⟨by rw [Dev.fabric_retire, only.fabric_eq, h.fetches.free], hr.does_branch h ha⟩
  · intro ha
    exact hr.does_branch_misaligned h ha

/-! ### Control registers (R34 to R36, R374) -/

section ControlRegisters
variable {x : Ctx} {ra : RegNo} {k : BitVec 10} {s : State} {e : Dev} {t : Trans}

/-- MFC of a register whose value is at hand. -/
theorem mfcWork_body_now (h : k ≠ 3 ∨ e.stitching x.core.val = none) :
    (mfcWork x ra k).body e = (e.modArch x.core.val fun a => a.setG ra (e.crRead x.core.val k.toNat), .next) := by
  refine if_neg fun hk => ?_
  obtain ⟨h3, hs⟩ := hk
  rcases h with h | h
  · exact h (BitVec.eq_of_toNat_eq h3)
  · simp [h] at hs

/-- MFC of TIME in a stitch. -/
theorem mfcWork_body_time (h : (e.stitching x.core.val).isSome = true) :
    (mfcWork x ra 3).body e = (e, .stop (.boundary (.time ra))) := if_pos ⟨rfl, h⟩

theorem mfc_registersBecome (h : Executes s x (.mfc x ra k) e t) (ha : crAllowed (s.dev.arch x.core.val) k.toNat false = true)
    (hk : k ≠ 3 ∨ e.stitching x.core.val = none) :
    RegistersBecome s x (.mfc x ra k) e t fun a => a.setG ra (e.crRead x.core.val k.toNat) := by
  have hr : RunsAs (.mfc x ra k) x (mfcWork x ra k) := fun _ => rfl
  exact ⟨by simp [h.fetches.free], hr.does_next h ha (Or.inl rfl) rfl rfl (mfcWork_body_now hk)⟩

/-- A running member is the core's member. -/
theorem Dev.member_of_stitching {d : Dev} {c : Nat} {m : Member} (h : d.stitching c = some m) :
    (d.core c).member = some m ∧ m.phase = .running := by
  unfold Dev.stitching at h
  cases hm : (d.core c).member with
  | none => simp [hm] at h
  | some q =>
    rw [hm] at h
    by_cases hq : q.phase = .running
    · simp only [hq, if_true, Option.some.injEq] at h
      subst h
      exact ⟨rfl, hq⟩
    · simp [hq] at h

theorem mfc_time_leaves (h : Executes s x (.mfc x ra 3) e t) (ha : crAllowed (s.dev.arch x.core.val) 3 false = true)
    (hs : (e.stitching x.core.val).isSome = true) : Leaves (.mfc x ra 3) s fun d =>
      ((d.core x.core.val).member.map fun m => (m.phase, m.cause, m.access)) = some (.ended, .access, .time ra) := by
  obtain ⟨m, hm⟩ := Option.isSome_iff_exists.mp hs
  obtain ⟨hmember, -⟩ := Dev.member_of_stitching hm
  refine ⟨_, ⟨?_, RunsAs.does_body (fun _ => rfl) h ha (Or.inl rfl) rfl rfl (mfcWork_body_time hs)⟩, ?_⟩
  · simp [Dev.finish, h.fetches.free]
  · simp [Dev.finish, Dev.endStitch, Dev.modMember_member, hmember]


theorem mtcWork_body : (mtcWork x ra k).body e = (e.crWrite x.core.val k.toNat ((e.arch x.core.val).getG ra), .next) := rfl

theorem mtc_does (h : Executes s x (.mtc x ra k) e t) (ha : crAllowed (s.dev.arch x.core.val) k.toNat true = true) :
    Does (.mtc x ra k) s ((e.crWrite x.core.val k.toNat ((e.arch x.core.val).getG ra)).retire x.core.val t.pa (s.pc x + 4)) := by
  have hr : RunsAs (.mtc x ra k) x (mtcWork x ra k) := fun _ => rfl
  exact hr.does_next h ha (Or.inl rfl) rfl rfl mtcWork_body

end ControlRegisters

/-- In a stitch a write of EVEOI waits for the boundary step. -/
theorem Dev.fabric_crWrite_eveoi (d : Dev) (c : Nat) (v : Word) (h : (d.stitching c).isSome = true) :
    (d.crWrite c 0x1C1 v).fabric = d.fabric := by
  obtain ⟨m, hm⟩ := Option.isSome_iff_exists.mp h
  simp only [Dev.crWrite, hm]
  split
  · rfl
  · contradiction
  · rfl

/-- A write of any other control register makes nothing wait. -/
theorem Dev.fabric_crWrite (d : Dev) (c : Nat) {n : Nat} (v : Word) (h : n ≠ 0x1C1) : (d.crWrite c n v).fabric = d.fabric := by
  unfold Dev.crWrite
  dsimp only
  split
  case h_18 =>
    split
    · rfl
    · rfl
  case h_20 => exact absurd rfl h
  all_goals rfl

/-- The low byte of a word, held in an 8-bit register. -/
theorem zeroExtend_truncate_byte (v : Word) : (v.truncate 8 : BitVec 8).zeroExtend 64 = v &&& 0xFF := by
  apply BitVec.eq_of_toNat_eq
  have h : (v &&& 0xFF).toNat = v.toNat % 2 ^ 8 := Nat.and_two_pow_sub_one_eq_mod v.toNat 8
  rw [h, BitVec.zeroExtend, BitVec.toNat_setWidth, BitVec.toNat_setWidth]
  omega

section CrHeld
variable (d : Dev) (c : Nat) (v : Word)

theorem Dev.crRead_crWrite_vbar : ∀ k ∈ [0x008, 0x009, 0x00A], (d.crWrite c k v).crRead c k = v &&& ~~~ 0x7FF := by
  simp [Dev.crWrite, Dev.crRead]

theorem Dev.crRead_crWrite_fsp : ∀ k ∈ [0x00C, 0x00D, 0x00E], (d.crWrite c k v).crRead c k = v &&& ~~~ 0x3F := by
  simp [Dev.crWrite, Dev.crRead]

theorem Dev.crRead_crWrite_tdeleg : ∀ k ∈ [0x010, 0x011], (d.crWrite c k v).crRead c k = v &&& 0x307FF := by
  simp [Dev.crWrite, Dev.crRead, vectorMask]

theorem Dev.crRead_crWrite_scratch : ∀ k ∈ [0x014, 0x015, 0x016], (d.crWrite c k v).crRead c k = v := by
  simp [Dev.crWrite, Dev.crRead]

theorem Dev.crRead_crWrite_byte : ∀ k ∈ [0x1C0, 0x1C3], (d.crWrite c k v).crRead c k = v &&& 0xFF := by
  have h := zeroExtend_truncate_byte v
  simp only [List.forall_mem_cons]
  refine ⟨?_, ?_, by simp⟩
  · simpa [Dev.crWrite, Dev.crRead] using h
  · simpa [Dev.crWrite, Dev.crRead] using h

theorem Dev.crWrite_readOnly : ∀ k ∈ [0x000, 0x001, 0x003, 0x018, 0x080, 0x082, 0x083, 0x180, 0x1C4], d.crWrite c k v = d := by
  simp [Dev.crWrite]

end CrHeld

/-- Settles O26. -/
theorem controlRegisters : Obligations.ControlRegisters := by
  unfold Obligations.ControlRegisters
  refine ⟨fun x ra k s e t => ⟨fun h => ⟨fun ha hk => mfc_registersBecome h ha hk, ?_, fun ha => ?_⟩,
    fun h => ⟨fun ha => mtc_does h ha, fun ha hk => ⟨?_, mtc_does h ha⟩, fun ha => ?_⟩⟩, fun d c v => ?_⟩
  · rintro ha rfl hs
    exact mfc_time_leaves h ha hs
  · have hr : RunsAs (.mfc x ra k) x (mfcWork x ra k) := fun _ => rfl
    exact hr.does_denied h ha
  · have hfabric : (e.crWrite x.core.val k.toNat ((e.arch x.core.val).getG ra)).fabric = e.fabric := by
      by_cases h1 : k = 0x1C1
      · subst h1
        exact e.fabric_crWrite_eveoi _ _ (hk.resolve_left fun hne => hne rfl)
      · exact e.fabric_crWrite _ _ fun hn => h1 (BitVec.eq_of_toNat_eq hn)
    rw [Dev.fabric_retire, hfabric, h.fetches.free]
  · have hr : RunsAs (.mtc x ra k) x (mtcWork x ra k) := fun _ => rfl
    exact hr.does_denied h ha
  · exact ⟨d.crRead_crWrite_vbar c v, d.crRead_crWrite_fsp c v, d.crRead_crWrite_tdeleg c v, d.crRead_crWrite_scratch c v,
      d.crRead_crWrite_byte c v, d.crWrite_readOnly c v⟩

end Sys2Proof.Machine

/-! Prover's part. Bytes of numbers and of lines: what a line holds after bytes are merged into it. -/

namespace Sys2Proof.Machine

/-! ### Little-endian bytes -/

theorem leBytes_eq_map (n x : Nat) : leBytes n x = (List.range n).map fun k => BitVec.ofNat 8 (x >>> (8 * k)) := by
  induction n generalizing x with
  | zero => rfl
  | succ n ih =>
    rw [leBytes, ih, List.range_succ_eq_map, List.map_cons, List.map_map]
    refine congrArg₂ _ (by simp) (List.map_congr_left fun k _ => ?_)
    have hk : 8 * (k + 1) = 8 + 8 * k := by ring
    rw [Function.comp_apply, Nat.succ_eq_add_one, hk, Nat.shiftRight_add, Nat.shiftRight_eq_div_pow x 8]

theorem leNat_lt (l : List Byte) : leNat l < 2 ^ (8 * l.length) := by
  induction l with
  | nil => simp [leNat]
  | cons b t ih =>
    have hb := b.isLt
    have hpow : 2 ^ (8 * (t.length + 1)) = 256 * 2 ^ (8 * t.length) := by rw [show 8 * (t.length + 1) = 8 + 8 * t.length by ring, pow_add]; rfl
    rw [List.length_cons, leNat, hpow]
    omega

theorem leBytes_leNat (l : List Byte) : leBytes l.length (leNat l) = l := by
  induction l with
  | nil => rfl
  | cons b t ih =>
    have hb := b.isLt
    have hdiv : (b.toNat + 256 * leNat t) / 256 = leNat t := by omega
    rw [List.length_cons, leNat, leBytes, hdiv, ih]
    congr 1
    apply BitVec.eq_of_toNat_eq
    rw [BitVec.toNat_ofNat]
    omega

/-- The byte of a list at an index is eight bits of its number. -/
theorem ofNat_leNat_shiftRight (l : List Byte) (k : Nat) (h : k < l.length) : BitVec.ofNat 8 (leNat l >>> (8 * k)) = l[k] := by
  have hk := leBytes_eq_map l.length (leNat l)
  rw [leBytes_leNat] at hk
  rw [List.getElem_of_eq hk, List.getElem_map, List.getElem_range]

/-! ### Bytes of a line -/

/-- Byte `k` of a line. -/
def lineByte (x : Line) (k : Nat) : Byte := x.extractLsb' (8 * k) 8

theorem Line.slice_eq_map (x : Line) (i n : Nat) : Line.slice x i n = (List.range n).map fun k => lineByte x (i + k) := by
  rw [Line.slice, leBytes_eq_map]
  refine List.map_congr_left fun k _ => ?_
  rw [← Nat.shiftRight_add, ← Nat.mul_add]
  rfl

@[simp] theorem Line.slice_length (x : Line) (i n : Nat) : (Line.slice x i n).length = n := leBytes_length n _

theorem testBit_expandMask (n be j : Nat) : (expandMask n be).testBit j = (decide (j < 8 * n) && be.testBit (j / 8)) := by
  induction n generalizing be j with
  | zero => simp [expandMask]
  | succ n ih =>
    have hlow : (if be % 2 = 1 then 255 else 0) < 2 ^ 8 := by split <;> decide
    have h := Nat.testBit_two_pow_mul_add (expandMask n (be / 2)) hlow j
    rw [Nat.add_comm] at h
    rw [expandMask, show 256 = 2 ^ 8 by rfl, h]
    by_cases hj : j < 8
    · rw [if_pos hj, Nat.div_eq_of_lt hj]
      have hbit : be.testBit 0 = decide (be % 2 = 1) := by simp
      by_cases hb : be % 2 = 1
      · simp [hb, hbit, show 255 = 2 ^ 8 - 1 by rfl, -Nat.reducePow, Nat.testBit_two_pow_sub_one, hj]
        omega
      · simp [hb, hbit]
    · have hdiv : j / 8 = (j - 8) / 8 + 1 := by omega
      rw [if_neg hj, ih, hdiv, Nat.testBit_add_one]
      congr 1
      simp only [decide_eq_decide]
      omega

theorem Line.getLsbD_mask (be : Word) (j : Nat) (h : j < 512) : (Line.mask be).getLsbD j = be.getLsbD (j / 8) := by
  rw [Line.mask, BitVec.getLsbD_ofNat, testBit_expandMask, BitVec.testBit_toNat]
  simp [h]

theorem getLsbD_lineByte (x : Line) (k i : Nat) : (lineByte x k).getLsbD i = (decide (i < 8) && x.getLsbD (8 * k + i)) :=
  BitVec.getLsbD_extractLsb' ..

/-- A merged line holds the new line's byte where it is enabled, else the old one's. -/
theorem lineByte_merge (old new : Line) (be : Word) {k : Nat} (h : k < 64) :
    lineByte (Line.merge old new be) k = if be.getLsbD k then lineByte new k else lineByte old k := by
  apply BitVec.eq_of_getLsbD_eq
  intro i hi
  have hbit : 8 * k + i < 512 := by omega
  have hdiv : (8 * k + i) / 8 = k := by omega
  have hmask : (Line.mask be).getLsbD (8 * k + i) = be.getLsbD k := by rw [Line.getLsbD_mask be _ hbit, hdiv]
  rw [apply_ite (fun w : Byte => w.getLsbD i), getLsbD_lineByte, getLsbD_lineByte, getLsbD_lineByte, Line.merge, BitVec.getLsbD_or,
    BitVec.getLsbD_and, BitVec.getLsbD_and, BitVec.getLsbD_not, hmask, decide_eq_true hbit]
  cases be.getLsbD k
  · simp
  · simp

/-- The bytes that `lineAt` enables are the ones that it holds. -/
theorem lineAt_enabled (i : Nat) (l : List Byte) {k : Nat} (h : k < 64) :
    (lineAt i l).2.getLsbD k = decide (i ≤ k ∧ k - i < l.length) := by
  rw [lineAt, BitVec.getLsbD_ofNat, Nat.testBit_shiftLeft, Nat.testBit_two_pow_sub_one]
  simp [h]

theorem lineByte_lineAt (i : Nat) (l : List Byte) {k : Nat} (hk : i ≤ k) (hl : k - i < l.length) (h : k < 64) :
    lineByte (lineAt i l).1 k = l[k - i] := by
  apply BitVec.eq_of_getLsbD_eq
  intro j hj
  have hbit : 8 * k + j < 512 := by omega
  have hle : 8 * i ≤ 8 * k + j := by omega
  have hsub : 8 * k + j - 8 * i = 8 * (k - i) + j := by omega
  rw [← ofNat_leNat_shiftRight l _ hl, getLsbD_lineByte, lineAt, BitVec.getLsbD_ofNat, BitVec.getLsbD_ofNat, Nat.testBit_shiftLeft,
    Nat.testBit_shiftRight, hsub]
  simp [hj, hbit, hle]

/-- What a byte of a line holds after bytes have been merged in. -/
theorem lineByte_merge_lineAt (old : Line) (off : Nat) (b : List Byte) {k : Nat} (h : k < 64) :
    lineByte (Line.merge old (lineAt off b).1 (lineAt off b).2) k =
      if h : off ≤ k ∧ k - off < b.length then b[k - off] else lineByte old k := by
  rw [lineByte_merge _ _ _ h, lineAt_enabled off b h]
  by_cases hin : off ≤ k ∧ k - off < b.length
  · rw [dif_pos hin, decide_eq_true hin, if_pos rfl, lineByte_lineAt off b hin.1 hin.2 h]
  · rw [dif_neg hin, decide_eq_false hin, if_neg Bool.false_ne_true]

/-- Bytes merged into a line are read back. -/
theorem Line.slice_merge_lineAt (old : Line) (off : Nat) (b : List Byte) (h : off + b.length ≤ 64) :
    Line.slice (Line.merge old (lineAt off b).1 (lineAt off b).2) off b.length = b := by
  apply List.ext_getElem (by simp)
  intro k h1 h2
  have hin : off ≤ off + k ∧ off + k - off < b.length := ⟨by omega, by omega⟩
  simp only [Line.slice_eq_map, List.getElem_map, List.getElem_range]
  rw [lineByte_merge_lineAt old off b (by omega), dif_pos hin]
  simp

/-- Settles O18: memory byte by byte, and a line by the bytes that a merge enables. -/
theorem memoryBytes : Obligations.MemoryBytes := by
  unfold Obligations.MemoryBytes
  refine ⟨fun m a l => ⟨fun k => ?_, Memory.wf_writeBytes a l⟩, fun old off b _ k hk => ?_⟩
  · split
    · next h =>
      have hadd : a + (k - a) = k := by omega
      have hin := Memory.byte_writeBytes_inside m a l (k - a) h.2
      rwa [hadd] at hin
    · next h => exact Memory.byte_writeBytes_outside m a l k (by omega)
  · simp only [Line.slice_eq_map, List.range_one, List.map_cons, List.map_nil, Nat.add_zero, lineByte_merge_lineAt old off b hk]
    split
    · rfl
    · rfl

end Sys2Proof.Machine

/-! Prover's part. The entry into a handler whose frame is written at once, the traps that are taken that way, and the events of one core. -/

namespace Sys2Proof.Machine

/-! ### A line that a core holds modified -/

/-- A copy of a line with bytes merged in. -/
def L2Line.merged (l : L2Line) (x : Line) (be : Word) (key : BitVec 11) : L2Line :=
  { l with data := Line.merge l.data x be, key := key, poison := (if be == fullMask then false else l.poison) }

/-- A core whose L2 copy of a line has bytes merged in. -/
def Core.merged (k : Core) (ln : Nat) (x : Line) (be : Word) (key : BitVec 11) : Core :=
  { k with l2 := k.l2.map fun e => if e.line == ln then e.merged x be key else e }

theorem Core.l2Line_merged (k : Core) (ln : Nat) (x : Line) (be : Word) (key : BitVec 11) :
    (k.merged ln x be key).l2Line ln = (k.l2Line ln).map fun l => l.merged x be key := by
  have hkeep : ((fun e : L2Line => e.line == ln) ∘ fun e : L2Line => if e.line == ln then e.merged x be key else e) =
      fun e : L2Line => e.line == ln := by
    funext e
    rw [Function.comp_apply, apply_ite L2Line.line]
    exact congrArg (· == ln) (ite_self _)
  rw [Core.l2Line, Core.merged, List.find?_map, hkeep, Core.l2Line]
  cases hf : k.l2.find? fun e => e.line == ln with
  | none => rfl
  | some l => rw [Option.map_some, Option.map_some, if_pos (List.find?_some hf :)]

/-- A core has written bytes of a line that it holds modified. -/
def Dev.merged (d : Dev) (c ln : Nat) (x : Line) (be : Word) (key : BitVec 11) : Dev :=
  (d.modCore c fun k => k.merged ln x be key).noteOutside (d.panelOf c) ln

@[simp] theorem Dev.core_noteOutside (d : Dev) (p : Option Nat) (ln k : Nat) : (d.noteOutside p ln).core k = d.core k := rfl
@[simp] theorem Dev.mem_noteOutside (d : Dev) (p : Option Nat) (ln : Nat) : (d.noteOutside p ln).mem = d.mem := rfl
@[simp] theorem Dev.fabric_noteOutside (d : Dev) (p : Option Nat) (ln : Nat) : (d.noteOutside p ln).fabric = d.fabric := rfl

@[simp] theorem Dev.mem_merged (d : Dev) (c ln : Nat) (x : Line) (be : Word) (key : BitVec 11) : (d.merged c ln x be key).mem = d.mem := by
  rw [Dev.merged, Dev.mem_noteOutside, Dev.modCore_mem]

@[simp] theorem Dev.fabric_merged (d : Dev) (c ln : Nat) (x : Line) (be : Word) (key : BitVec 11) :
    (d.merged c ln x be key).fabric = d.fabric := by
  rw [Dev.merged, Dev.fabric_noteOutside, Dev.fabric_modCore]

theorem Dev.core_merged_self (d : Dev) (c ln : Nat) (x : Line) (be : Word) (key : BitVec 11) :
    (d.merged c ln x be key).core c = (d.core c).merged ln x be key := by
  rw [Dev.merged, Dev.core_noteOutside, Dev.core_modCore_self]

theorem Dev.core_merged_other (d : Dev) {c k : Nat} (ln : Nat) (x : Line) (be : Word) (key : BitVec 11) (h : k ≠ c) :
    (d.merged c ln x be key).core k = d.core k := by
  rw [Dev.merged, Dev.core_noteOutside, Dev.core_modCore_other d _ h]

section Modified
variable {d : Dev} {c ln : Nat} {l : L2Line}

theorem Dev.l2Own_modified (key : BitVec 11) (h : (d.core c).l2Line ln = some l) (hm : l.st = .modified) : d.l2Own c ln key = (d, false) := by
  rw [Dev.l2Own, h]
  dsimp only
  rw [hm]

theorem Dev.l2Write_modified (x : Line) (be : Word) (key : BitVec 11) (h : (d.core c).l2Line ln = some l) (hm : l.st = .modified) :
    d.l2Write c ln x be key = (d.merged c ln x be key, false) := by
  rw [Dev.l2Write, Dev.l2Own_modified key h hm]
  rfl

end Modified

/-! ### Writing a frame of 64 bytes -/

theorem frameHead_length (a : Arch) (q : TrapReq) (m : Bool) : (frameHead a q m).length = 64 := by
  simp [frameHead, leBytes_length]

/-- A core has performed its stores, none at all. -/
def Dev.emptied (d : Dev) (c : Nat) : Dev := d.modCore c fun k => { k with storeBuf := [] }

theorem Dev.core_emptied_self (d : Dev) (c : Nat) : (d.emptied c).core c = { d.core c with storeBuf := [] } := Dev.core_modCore_self d c _

theorem Dev.core_emptied_other (d : Dev) {c k : Nat} (h : k ≠ c) : (d.emptied c).core k = d.core k := Dev.core_modCore_other d _ h

/-- The core, whose store buffer is empty, has written the frame of a trap without micro-state to a line that it holds modified. -/
def Dev.framed (d : Dev) (c : Nat) (t : Level) (q : TrapReq) : Dev :=
  (d.emptied c).merged c (((d.arch c).frameAt t).toNat / 64) (lineAt 0 (frameHead (d.arch c) q false)).1
    (lineAt 0 (frameHead (d.arch c) q false)).2 0

/-- The core in the handler, its frame written. -/
def Dev.handled (d : Dev) (c : Nat) (t : Level) (q : TrapReq) : Dev :=
  (d.framed c t q).modCore c fun k => { k with
    arch := { (k.arch.setFsp t ((d.arch c).frameAt t)) with pl := t, ie := false, pc := k.arch.vbar t + BitVec.ofNat 64 (q.vector * 0x40) },
    routine := none, run := .running, replays := 0 }

/-- A line of a frame in a line of DRAM that the core holds modified. -/
theorem Dev.pushLine_modified {d : Dev} {c pa ch n : Nat} {l : L2Line} (b : List Byte) (hok : d.frameOk pa = true) (hdram : d.place pa = .dram ch n)
    (hout : d.stitching c = none) (hheld : (d.core c).l2Line (pa / 64) = some l) (hm : l.st = .modified) :
    d.pushLine c pa b = (d.merged c (pa / 64) (lineAt 0 b).1 (lineAt 0 b).2 0, false) := by
  rw [Dev.pushLine, hok, hdram]
  simp only [hout, Option.isSome_none, Bool.not_true, Bool.false_eq_true, if_false]
  exact Dev.l2Write_modified _ _ _ hheld hm

namespace Dev.FrameReady
variable {d : Dev} {c : Nat} {t : Level} {l : L2Line}

theorem pushLines (h : d.FrameReady c t l) (q : TrapReq) :
    (d.drainStores c).pushLines c 1 ((d.arch c).frameAt t).toNat (frameHead (d.arch c) q false) = (d.framed c t q, false) := by
  obtain ⟨ch, n, hplace⟩ := h.dram
  have hout : (d.emptied c).stitching c = none := by
    rw [Dev.stitching, Dev.core_emptied_self]
    exact h.outside
  have hheld : ((d.emptied c).core c).l2Line (((d.arch c).frameAt t).toNat / 64) = some l := by
    rw [Dev.core_emptied_self]
    exact h.held
  have hpush := Dev.pushLine_modified (d := d.emptied c) (frameHead (d.arch c) q false) h.normal hplace hout hheld h.owned
  have hdrain : d.drainStores c = d.emptied c := Dev.drainStores_nil h.drained
  rw [hdrain, Dev.pushLines, List.take_of_length_le (le_of_eq (frameHead_length ..)), hpush]
  rfl

theorem enter (h : d.FrameReady c t l) (q : TrapReq) : d.enter c t q none = (d.handled c t q, false) := by
  have hpush := h.pushLines q
  rw [Arch.frameAt] at hpush
  simp only [Dev.enter, Option.isSome_none, List.append_nil, frameHead_length, Nat.reduceDiv, hpush]
  rfl

/-- What the entry leaves (R43, R45). -/
theorem entered (h : d.FrameReady c t l) (q : TrapReq) : d.Entered (d.handled c t q) c t q := by
  have hself : (d.framed c t q).core c = { d.core c with storeBuf := [] }.merged (((d.arch c).frameAt t).toNat / 64)
      (lineAt 0 (frameHead (d.arch c) q false)).1 (lineAt 0 (frameHead (d.arch c) q false)).2 0 := by
    rw [Dev.framed, Dev.core_merged_self, Dev.core_emptied_self]
  have hother : ∀ k, k ≠ c → (d.handled c t q).core k = d.core k := fun k hk => by
    rw [Dev.handled, Dev.core_modCore_other _ _ hk, Dev.framed, Dev.core_merged_other _ _ _ _ _ hk, Dev.core_emptied_other _ hk]
  refine ⟨?_, fun k hk => ?_, ?_, ?_⟩
  · rw [Dev.arch, Dev.handled, Dev.core_modCore_self, hself]
    rfl
  · rw [Dev.arch, hother k hk, Dev.arch]
  · rw [Dev.handled, Dev.modCore_mem, Dev.framed, Dev.mem_merged, Dev.emptied, Dev.modCore_mem]
  · have hl2 : (((d.handled c t q).core c).l2Line (((d.arch c).frameAt t).toNat / 64)) =
        some (l.merged (lineAt 0 (frameHead (d.arch c) q false)).1 (lineAt 0 (frameHead (d.arch c) q false)).2 0) := by
      have hheld : { d.core c with storeBuf := [] }.l2Line (((d.arch c).frameAt t).toNat / 64) = some l := h.held
      rw [Dev.handled, Dev.core_modCore_self, hself]
      refine (Core.l2Line_merged _ _ _ _ _).trans ?_
      rw [hheld, Option.map_some]
    have hslice := Line.slice_merge_lineAt l.data 0 (frameHead (d.arch c) q false) (by simp [frameHead_length])
    rw [frameHead_length] at hslice
    rw [hl2]
    exact congrArg some hslice

end Dev.FrameReady

theorem Dev.fabric_handled (d : Dev) (c : Nat) (t : Level) (q : TrapReq) : (d.handled c t q).fabric = d.fabric := by
  rw [Dev.handled, Dev.fabric_modCore, Dev.framed, Dev.fabric_merged, Dev.emptied, Dev.fabric_modCore]

/-- A trap without micro-state, no machine check, whose frame is written at once. -/
theorem Dev.trapEntry_handled {d : Dev} {c : Nat} {q : TrapReq} {l : L2Line} (hq : q.vector ≠ 9)
    (h : d.FrameReady c ((d.arch c).route q.vector) l) : d.trapEntry c q none = d.handled c ((d.arch c).route q.vector) q := by
  have htarget : (d.arch c).target q = (d.arch c).route q.vector := if_neg fun hc => hq hc.1
  rw [Dev.trapEntry, htarget, h.enter q]
  exact if_neg hq

/-- A synchronous trap outside a stitch that is no fault of a walk. -/
theorem Dev.raise_outside {d : Dev} {c : Nat} {q : TrapReq} (hs : d.stitching c = none) (h2 : q.vector ≠ 2) (h4 : q.vector ≠ 4) :
    d.raise c q = d.trapEntry c q none := by
  have hcount : d.countWalk c q = d := if_neg fun hc => hc.1.elim h2 h4
  rw [Dev.raise, hcount, hs]

/-! ### Undefined operations (R41, R52) -/

/-- The event of an undefined word. -/
theorem undefinedOperation_does {c : CoreId} {w : Word32} {s : State} {e : Dev} {t : Trans} (hw : decodeWord c w = none)
    (h : Fetches s c.val e t) : Does (.undefinedOperation c w) s (e.raise c.val ⟨0, 0, 0, (s.dev.arch c.val).pc, w⟩) := by
  have hcalm : (if (s.dev.stitching c.val).isSome then none else s.dev.accepted c.val) = none := by
    rcases h.calm with hs | ha
    · rw [if_pos hs]
    · rw [ha, ite_self]
  have hdev : s.dev.undefinedOp c w = e.raise c.val ⟨0, 0, 0, (s.dev.arch c.val).pc, w⟩ := by
    rw [Dev.undefinedOp, h.issues, hw, h.present, hcalm, h.fetched]
    rfl
  rw [← hdev]
  rfl

/-- Settles O7. -/
theorem undefinedOperations : Obligations.UndefinedOperations := by
  unfold Obligations.UndefinedOperations
  refine ⟨fun i x opc low s e t hi h hwf => ?_, fun c w s e t hw h => undefinedOperation_does hw h, fun c w s e t l hw h hl => ?_⟩
  · obtain ⟨w, hr, -⟩ := runsAs_of_fields hi
    exact hr.does_undefined h hwf
  · have hdoes := undefinedOperation_does hw h
    rw [Dev.raise_outside hl.outside (by simp) (by simp), Dev.trapEntry_handled (by simp) hl] at hdoes
    exact ⟨_, ⟨by rw [Dev.fabric_handled, h.free], hdoes⟩, hl.entered _⟩

/-! ### SYSCALL and HVCALL (R45, R82, R206) -/

/-- The instruction calls the handler of vector `v` with a code, at the levels that it allows. -/
def CallsAs (i : Instr) (x : Ctx) (v code : Nat) (allow : Arch → Bool) : Prop :=
  RunsAs i x { sysWork (fun d => (d, .call v code)) with allow := allow }

namespace CallsAs
variable {i : Instr} {x : Ctx} {v code : Nat} {allow : Arch → Bool} {s : State} {e : Dev} {t : Trans}

theorem does_outside (hr : CallsAs i x v code allow) (h : Executes s x i e t) (ha : allow (s.dev.arch x.core.val) = true)
    (hs : e.stitching x.core.val = none) : Does i s (e.trapEntry x.core.val ⟨v, code, 0, s.pc x + 4, i.encode.getD 0⟩ none) := by
  have hdoes := RunsAs.does_body hr h ha (Or.inl rfl) rfl rfl rfl
  rw [Dev.finish] at hdoes
  rwa [hs] at hdoes

theorem completes_inside (hr : CallsAs i x v code allow) (h : Executes s x i e t) (ha : allow (s.dev.arch x.core.val) = true) {m : Member}
    (hs : e.stitching x.core.val = some m) :
    Completes i s ((e.retire x.core.val t.pa (s.pc x + 4)).endTrap x.core.val .call ⟨v, code, 0, s.pc x + 4, i.encode.getD 0⟩) := by
  have hdoes := RunsAs.does_body hr h ha (Or.inl rfl) rfl rfl rfl
  rw [Dev.finish] at hdoes
  rw [hs] at hdoes
  exact ⟨by simp [Dev.endTrap, h.fetches.free], hdoes⟩

theorem leaves_entered (hr : CallsAs i x v code allow) (h : Executes s x i e t) (ha : allow (s.dev.arch x.core.val) = true) (hv : v ≠ 9)
    {l : L2Line} (hl : e.FrameReady x.core.val ((e.arch x.core.val).route v) l) :
    Leaves i s fun d => e.Entered d x.core.val ((e.arch x.core.val).route v) ⟨v, code, 0, s.pc x + 4, i.encode.getD 0⟩ := by
  have hdoes := hr.does_outside h ha hl.outside
  rw [Dev.trapEntry_handled hv hl] at hdoes
  exact ⟨_, ⟨by rw [Dev.fabric_handled, h.fetches.free], hdoes⟩, hl.entered _⟩

end CallsAs

theorem syscall_callsAs (x : Ctx) (k : BitVec 10) : CallsAs (.syscall x k) x 7 k.toNat fun _ => true := fun _ => rfl
theorem hvcall_callsAs (x : Ctx) (k : BitVec 10) : CallsAs (.hvcall x k) x 8 k.toNat (atLeast .s) := fun _ => rfl

/-- Settles O20. -/
theorem calls : Obligations.Calls := by
  unfold Obligations.Calls
  refine ⟨fun x k s e t => ⟨fun h => ⟨(syscall_callsAs x k).does_outside h rfl, fun m => (syscall_callsAs x k).completes_inside h rfl⟩,
    fun h ha => ⟨(hvcall_callsAs x k).does_outside h ha, fun m => (hvcall_callsAs x k).completes_inside h ha⟩⟩, ?_⟩
  rintro i x k v s e t l (⟨rfl, rfl⟩ | ⟨rfl, rfl, ha⟩) h hl
  · exact (syscall_callsAs x k).leaves_entered h rfl (by decide) hl
  · exact (hvcall_callsAs x k).leaves_entered h ha (by decide) hl

end Sys2Proof.Machine

/-! Prover's part. The events of one core: interrupts and run-ahead. -/

namespace Sys2Proof.Machine

/-! ### Interrupts (R40, R45, R372) -/

section Interrupts
variable {d : Dev} {c v code : Nat}

/-- The interrupt that is accepted is the event controller's, above PRIMASK, or the virtual one. -/
theorem Dev.accepted_eq (h : d.accepted c = some (v, code)) :
    (v = 0x10 ∧ d.evPending c = some code) ∨ (v = 0x11 ∧ (d.arch c).accepts 0x11 = true ∧ d.vpPending c = some code) := by
  have virtual : (if (d.arch c).accepts 0x11 then (d.vpPending c).map fun n => (0x11, n) else none) = some (v, code) →
      v = 0x11 ∧ (d.arch c).accepts 0x11 = true ∧ d.vpPending c = some code := fun hv => by
    split at hv
    · next ha =>
      obtain ⟨n, hn, he⟩ := Option.map_eq_some_iff.mp hv
      obtain ⟨rfl, rfl⟩ := Prod.mk.inj he
      exact ⟨rfl, ha, hn⟩
    · contradiction
  unfold Dev.accepted at h
  dsimp only at h
  cases he : (if (d.arch c).accepts 0x10 then (d.evPending c).map fun p => (0x10, p) else none) with
  | none =>
    rw [he] at h
    exact Or.inr (virtual h)
  | some x =>
    rw [he] at h
    obtain rfl := Option.some.inj h
    split at he
    · obtain ⟨n, hn, heq⟩ := Option.map_eq_some_iff.mp he
      obtain ⟨rfl, rfl⟩ := Prod.mk.inj heq
      exact Or.inl ⟨rfl, hn⟩
    · contradiction

/-- The priority that is pending is above PRIMASK (R366). -/
theorem Dev.primask_lt_of_evPending (h : d.evPending c = some code) : (d.arch c).primask.toNat < code := by
  unfold Dev.evPending at h
  split at h
  · contradiction
  · split at h
    · obtain ⟨p, -, hp⟩ := Option.bind_eq_some_iff.mp h
      split at hp
      · next hlt => exact Option.some.inj hp ▸ hlt
      · contradiction
    · contradiction

theorem Dev.interrupt_accepted (hi : d.interruptible c = true) (h : d.accepted c = some (v, code)) : d.interrupt c = d.takeInterrupt c v code := by
  rw [Dev.interrupt, hi, h]
  rfl

theorem Dev.virtualInterrupt_pending (hi : d.interruptible c = true) (ha : (d.arch c).accepts 0x11 = true) (h : d.vpPending c = some v) :
    d.virtualInterrupt c = d.takeInterrupt c 0x11 v := by
  rw [Dev.virtualInterrupt, hi, ha, h]
  rfl

end Interrupts

section CoreEvents
variable {c : CoreId} {s : State}

theorem interrupt_does {v code : Nat} (hi : s.dev.interruptible c.val = true) (h : s.dev.accepted c.val = some (v, code)) :
    Does (.interrupt c) s (s.dev.takeInterrupt c.val v code) := by
  rw [← Dev.interrupt_accepted hi h]
  rfl

theorem virtualInterrupt_does {v : Nat} (hi : s.dev.interruptible c.val = true) (ha : (s.dev.arch c.val).accepts 0x11 = true)
    (h : s.dev.vpPending c.val = some v) : Does (.virtualInterrupt c) s (s.dev.takeInterrupt c.val 0x11 v) := by
  rw [← Dev.virtualInterrupt_pending hi ha h]
  rfl

/-- An interrupt that any of the two events takes leaves its core in the handler. -/
theorem entered_of_takeInterrupt {i : Instr} {d : Dev} {v code : Nat} {l : L2Line} (hv : v ≠ 9)
    (hd : (if v = 0x11 then s.dev.vpTake c.val code else s.dev) = d) (hw : d.fabric.waits = s.dev.fabric.waits)
    (ha : d.arch c.val = s.dev.arch c.val) (hl : d.FrameReady c.val ((s.dev.arch c.val).route v) l)
    (hdoes : Does i s (s.dev.takeInterrupt c.val v code)) :
    Leaves i s fun e => d.Entered e c.val ((s.dev.arch c.val).route v) ⟨v, code, 0, (s.dev.arch c.val).pc, 0⟩ := by
  have hroute : d.FrameReady c.val ((d.arch c.val).route v) l := by rwa [ha]
  rw [Dev.takeInterrupt, hd, Dev.trapEntry_handled hv hroute, ha] at hdoes
  exact ⟨_, ⟨by rw [Dev.fabric_handled, hw], hdoes⟩, hl.entered _⟩

/-! ### Run-ahead (R113, R115) -/

/-- The wait that starts run-ahead is at most 15 × 50 ns. -/
theorem Dev.raWait_le (d : Dev) (c : Nat) :
    (if d.fld (.corePrefetch c) .CORE_PREFETCH_RA_WAIT = 0 then 4 else d.fld (.corePrefetch c) .CORE_PREFETCH_RA_WAIT) * 50 ≤ 15 * 50 := by
  have hw : d.fld (.corePrefetch c) .CORE_PREFETCH_RA_WAIT < 2 ^ 4 := Nat.mod_lt _ (by decide)
  split
  · decide
  · omega

theorem markable_filter (dst : Nat) : [dst].filter markable = if dst = 0 ∨ dst = 32 then [] else [dst] := by
  by_cases h : dst = 0 ∨ dst = 32
  · rcases h with rfl | rfl
    · rfl
    · rfl
  · rw [if_neg h]
    have hm : markable dst = true := by simp only [markable, Bool.and_eq_true, bne_iff_ne]; omega
    simp [hm]

theorem runAheadEntry_leaves {line ns dst : Nat} (hi : s.dev.canIssue c.val = true) (ha : (s.dev.core c.val).runAhead = none)
    (hr : (s.dev.core c.val).routine = none) (hp : bitF (s.dev.arch c.val).predCtl 2 = false) (hns : 15 * 50 ≤ ns)
    (hm : s.dev.missing c.val line = some dst) :
    Leaves (.runAheadEntry c line ns) s fun e => s.dev.OnlyCore e c.val { s.dev.core c.val with
      runAhead := some ⟨s.dev.arch c.val, if dst = 0 ∨ dst = 32 then [] else [dst], 0⟩,
      arch := { s.dev.arch c.val with pc := (s.dev.arch c.val).pc + 4 } } := by
  have hwait := decide_eq_true ((s.dev.raWait_le c.val).trans hns)
  have hdev : s.dev.aheadEnter c.val line ns = s.dev.modCore c.val fun q => { q with
      runAhead := some ⟨q.arch, [dst].filter markable, 0⟩, arch := { q.arch with pc := q.arch.pc + 4 } } := by
    rw [Dev.arch] at hp
    simp only [Dev.aheadEnter, hi, ha, hr, hp, hwait, hm, Option.isNone_none, Bool.not_false, Bool.and_self, if_true]
  have hx : exec (.runAheadEntry c line ns) s = s.done (s.dev.aheadEnter c.val line ns) := rfl
  rw [hdev] at hx
  refine leaves_of_done hx (by rw [Dev.modCore_fabric]) ?_
  rw [← markable_filter]
  exact s.dev.onlyCore_modCore c.val _

theorem runAheadEntry_none {line ns : Nat} (hm : s.dev.missing c.val line = none) : Completes (.runAheadEntry c line ns) s s.dev := by
  have hdev : s.dev.aheadEnter c.val line ns = s.dev := by
    simp only [Dev.aheadEnter, hm, ite_self]
  have hx : exec (.runAheadEntry c line ns) s = s.done (s.dev.aheadEnter c.val line ns) := rfl
  rw [hdev] at hx
  exact completes_of_done hx rfl

theorem runAheadEnd_leaves {why : Sys2Proof.RunAheadEnd} {r : Machine.RunAhead} (hr : (s.dev.core c.val).runAhead = some r)
    (hi : why = .interrupt → ((s.dev.endAhead c.val).accepted c.val).isSome = true) (hl : why = .limit → 4096 ≤ r.count) :
    Leaves (.runAheadEnd c why) s fun e => s.dev.OnlyCore e c.val { s.dev.core c.val with runAhead := none, arch := r.saved } := by
  have hback : s.dev.endAhead c.val = s.dev.modCore c.val fun q => { q with runAhead := none, arch := r.saved } := by rw [Dev.endAhead, hr]
  have hdev : s.dev.aheadLeave c.val why = s.dev.endAhead c.val := by
    rw [Dev.aheadLeave, hr]
    cases why with
    | dataArrived => rfl
    | interrupt => exact if_pos (hi rfl)
    | limit => exact if_pos (hl rfl)
  have hx : exec (.runAheadEnd c why) s = s.done (s.dev.aheadLeave c.val why) := rfl
  rw [hdev, hback] at hx
  exact leaves_of_done hx (by rw [Dev.modCore_fabric]) (s.dev.onlyCore_modCore c.val _)

end CoreEvents

/-- Settles O33. -/
theorem coreEvents : Obligations.CoreEvents := by
  unfold Obligations.CoreEvents
  refine ⟨fun c s v code hi h => ⟨interrupt_does hi h, ?_, ?_⟩, fun c s code l hi h hl => ?_, fun c s v l hi ha hv hw harch hl => ?_,
    fun c line ns dst s => runAheadEntry_leaves, fun c line ns s => runAheadEntry_none, fun c why s r => runAheadEnd_leaves⟩
  · rintro rfl
    rcases Dev.accepted_eq h with ⟨hne, -⟩ | ⟨-, ha, hv⟩
    · contradiction
    · exact virtualInterrupt_does hi ha hv
  · rintro rfl -
    rcases Dev.accepted_eq h with ⟨-, hp⟩ | ⟨hne, -⟩
    · exact Dev.primask_lt_of_evPending hp
    · contradiction
  · exact entered_of_takeInterrupt (by decide) (if_neg (by decide)) rfl rfl hl (interrupt_does hi h)
  · exact entered_of_takeInterrupt (by decide) (if_pos rfl) hw harch hl (virtualInterrupt_does hi ha hv)

end Sys2Proof.Machine

/-! Prover's part. Accesses of a core at M without translation, its stores, and what its store buffer holds. -/

namespace Sys2Proof.Machine

/-! ### What follows an operation that is stopped -/

theorem Dev.finish_trap (d : Dev) (c fetched : Nat) (pc : Word) (word : Word32) (v code : Nat) (fa : Word) :
    d.finish c fetched pc word (.stop (.trap v code fa)) = d.raise c ⟨v, code, fa, pc, word⟩ := rfl

/-- An operation that traps. -/
theorem RunsAs.does_trap {i : Instr} {x : Ctx} {w : Work} {s : State} {e d : Dev} {t : Trans} (hr : RunsAs i x w) (h : Executes s x i e t)
    (ha : w.allow (s.dev.arch x.core.val) = true) (hf : w.forbidden = false ∨ (e.stitching x.core.val).isSome = false) (hm : w.micro = none)
    (hb : w.branch = none) {v code : Nat} {fa : Word} (hbody : w.body e = (d, .stop (.trap v code fa))) :
    Does i s (d.raise x.core.val ⟨v, code, fa, s.pc x, i.encode.getD 0⟩) := by
  have hdoes := hr.does_body h ha hf hm hb hbody
  rwa [Dev.finish_trap] at hdoes

/-! ### Translation of a flat access (R145) -/

/-- The translation at M without MXLATE of an address of normal memory. -/
def flatTrans (ea : Word) : Trans :=
  { pa := ea.toNat, device := false, tenant := 0, key := 0, size := 2 ^ 52, mark := none, fill := none, walks := [], desc := none }

/-- The one part of a flat access. -/
def flatPart (w : Nat) (ea : Word) : Part := ⟨ea, ea.toNat, w, false, 0⟩

/-- An access within one line is one piece. -/
theorem pieces_within_line {ea : Word} {w : Nat} (h : ea.toNat % 64 + w ≤ 64) : pieces ea w = [(ea, w)] := by
  have hmod : ea.toNat % 4096 % 64 = ea.toNat % 64 := Nat.mod_mod_of_dvd _ (by decide)
  have hpage : w ≤ 4096 - ea.toNat % 4096 := by omega
  exact if_pos hpage

section Flat
variable {d : Dev} {c w : Nat} {kind : AccKind}

theorem Dev.Flat.translateNow {ea : Word} (h : d.Flat c w ea) (hk : kind ≠ .fetch) : d.translateNow c ea kind = (d, .ok (flatTrans ea)) := by
  have htop : getF ea ⟨63, 52⟩ = 0 := by
    have hlt := h.physical
    rw [getF, Nat.shiftRight_eq_div_pow]
    show ea.toNat / 2 ^ 52 % 2 ^ 12 = 0
    omega
  simp only [Dev.translateNow, Dev.translate, h.level, h.direct, htop, h.normal, hk]
  rfl

theorem Dev.xlateElem_flat {ea : Word} (h : d.Flat c w ea) (hk : kind ≠ .fetch) :
    d.xlateElem c kind (pieces ea w) = (d, [(flatPart w ea, flatTrans ea)], none) := by
  rw [pieces_within_line h.within, Dev.xlateElem, h.translateNow hk]
  simp only [flatTrans, h.normal, Bool.or_self]
  rfl

theorem Dev.xlateAll_flat {eas : List Word} (h : ∀ ea ∈ eas, d.Flat c w ea) (hk : kind ≠ .fetch) :
    d.xlateAll c kind (eas.map fun ea => pieces ea w) = (d, eas.map fun ea => (flatPart w ea, flatTrans ea), []) := by
  induction eas with
  | nil => rfl
  | cons ea rest ih =>
    rw [List.map_cons, Dev.xlateAll, Dev.xlateElem_flat (h ea (List.mem_cons_self ..)) hk]
    dsimp only
    rw [ih fun b hb => h b (List.mem_cons_of_mem _ hb)]
    rfl

theorem Dev.useTrans_flat (d : Dev) (c w : Nat) (kind : AccKind) (eas : List Word) :
    d.useTrans c kind (eas.map fun ea => (flatPart w ea, flatTrans ea)) = (d, none) := by
  induction eas with
  | nil => rfl
  | cons ea rest ih => exact ih

/-- A flat access meets nothing in its way (R41, R146). -/
theorem Dev.resolve_flat {eas : List Word} (h : ∀ ea ∈ eas, d.Flat c w ea) (hk : kind ≠ .fetch) (atomic : Bool) :
    d.resolve c kind w atomic eas = (d, .inr (eas.map (flatPart w))) := by
  have hdev : (eas.map fun ea => (flatPart w ea, flatTrans ea)).filter (fun p => p.1.device) = [] := by
    rw [List.filter_eq_nil_iff]
    simp [flatPart]
  rw [Dev.resolve, Dev.resolveN, Dev.xlateAll_flat h hk]
  simp only [hdev, List.filter_nil, List.tail_nil, List.foldl_nil, List.head?_nil, List.isEmpty_nil, Bool.not_true, Bool.and_false,
    Bool.false_eq_true, if_false, Dev.useTrans_flat, List.map_map]
  rfl

end Flat

/-! ### The store buffer (R54) -/

/-- Bytes within a line, at least one, are one chunk. -/
theorem lineChunks_within_line {pa : Nat} {b : List Byte} (n : Nat) (hb : b ≠ []) (h : pa % 64 + b.length ≤ 64) :
    lineChunks (n + 2) pa b = [(pa, b)] := by
  have htake : b.take (64 - pa % 64) = b := List.take_of_length_le (by omega)
  have hdrop : b.drop (64 - pa % 64) = [] := List.drop_of_length_le (by omega)
  have hempty : b.isEmpty = false := by simpa using hb
  rw [lineChunks, hempty]
  dsimp only
  rw [hdrop, htake]
  rfl

/-- The core with more stores in its store buffer. -/
def Core.stored (k : Core) (l : List StoreEntry) : Core := { k with storeBuf := k.storeBuf ++ l }

theorem Core.stored_nil (k : Core) : k.stored [] = k := by
  simp only [Core.stored, List.append_nil]

theorem Core.stored_stored (k : Core) (l m : List StoreEntry) : (k.stored l).stored m = k.stored (l ++ m) := by
  simp only [Core.stored, List.append_assoc]

section StoreBuffer
variable {d : Dev} {c : Nat} {p : Part} {b : List Byte}

/-- A store within a line of normal memory, outside a stitch, that finds room. -/
theorem Dev.storeParts_cons (l : List (Part × List Byte)) (hdev : p.device = false) (hs : d.stitching c = none) (hb : b ≠ [])
    (hline : p.pa % 64 + b.length ≤ 64) (hroom : (d.core c).storeBuf.length < 96) :
    d.storeParts c ((p, b) :: l) = (d.modCore c fun k => k.stored [⟨p.pa, b, p.key⟩]).storeParts c l := by
  have hstep : (if p.device then d.devWrite c p b
      else (lineChunks 8 p.pa b).foldl (fun y q =>
        if (y.stitching c).isSome then y.specStore c q.1 q.2 p.key else y.pushStore c q.1 q.2 p.key) d) =
      d.modCore c fun k => k.stored [⟨p.pa, b, p.key⟩] := by
    rw [hdev, lineChunks_within_line 6 hb hline]
    simp only [List.foldl_cons, List.foldl_nil, hs, Option.isSome_none, Bool.false_eq_true, if_false]
    rw [Dev.pushStore, if_neg (Nat.not_le.mpr hroom)]
    rfl
  rw [Dev.storeParts, List.foldl_cons, hstep, Dev.storeParts]

/-- What the store buffer holds at an address after one more store: the latest store first. -/
theorem Core.buffered_stored (k : Core) (e : StoreEntry) (a : Nat) :
    (k.stored [e]).buffered a = if h : e.addr ≤ a ∧ a - e.addr < e.bytes.length then some e.bytes[a - e.addr] else k.buffered a := by
  rw [Core.buffered, Core.stored, List.foldl_append]
  simp only [List.foldl_cons, List.foldl_nil]
  by_cases hle : e.addr ≤ a
  · by_cases hlt : a - e.addr < e.bytes.length
    · rw [if_pos hle, dif_pos ⟨hle, hlt⟩, List.getElem?_eq_getElem hlt]
    · rw [if_pos hle, dif_neg fun h => hlt h.2, List.getElem?_eq_none (Nat.le_of_not_lt hlt)]
      rfl
  · rw [if_neg hle, dif_neg fun h => hle h.1]
    rfl

end StoreBuffer

/-! ### Loads from the store buffer and from the L2 (R54, R446) -/

section ReadChunk
variable {d : Dev} {c : Nat}

/-- Outside a stitch a core has no speculative line. -/
theorem Dev.specLine_none (h : d.stitching c = none) (ln : Nat) : (d.core c).specLine ln = none := by
  unfold Dev.stitching at h
  unfold Core.specLine
  cases hm : (d.core c).member with
  | none => rfl
  | some m =>
    rw [hm] at h
    by_cases hp : m.phase = .running
    · simp [hp] at h
    · simp [hp]

/-- A load whose every byte waits in the store buffer reads nothing else. -/
theorem Dev.readChunk_forwarded (key : BitVec 11) (pa n : Nat) (h : d.stitching c = none) {f : Nat → Byte}
    (hf : ∀ k, k < n → (d.core c).buffered (pa + k) = some (f k)) : d.readChunk c key pa n = (d, (List.range n).map f, none) := by
  have hfwd : (List.range n).map (fun i => (d.core c).buffered (pa + i)) = (List.range n).map fun i => some (f i) :=
    List.map_congr_left fun i hi => hf i (List.mem_range.mp hi)
  simp [Dev.readChunk, Dev.specLine_none h, hfwd, List.all_map]

theorem Core.buffered_nil {k : Core} (h : k.storeBuf = []) (a : Nat) : k.buffered a = none := by rw [Core.buffered, h]; rfl

theorem Dev.l2Read_held {ln : Nat} {l : L2Line} (key : BitVec 11) (h : (d.core c).l2Line ln = some l) :
    d.l2Read c ln key = (d, ⟨l.data, l.poison, false⟩) := by rw [Dev.l2Read, h]

/-- A load from a line of DRAM that the L2 holds, with no store waiting. -/
theorem Dev.readChunk_held (key : BitVec 11) {pa n ch m : Nat} {l : L2Line} (h : d.stitching c = none) (hdram : d.place pa = .dram ch m)
    (hbuf : (d.core c).storeBuf = []) (hl : (d.core c).l2Line (pa / 64) = some l) (hn : 0 < n) :
    d.readChunk c key pa n = (d.fillL1 c (pa / 64) false, Line.slice l.data (pa % 64) n, if l.poison then some (0, 1) else none) := by
  have hfwd : (List.range n).map (fun i => (d.core c).buffered (pa + i)) = List.replicate n none := by
    simp only [Core.buffered_nil hbuf]
    simp
  have hall : (List.replicate n (none : Option Byte)).all (·.isSome) = false := by
    obtain ⟨k, rfl⟩ := Nat.exists_eq_succ_of_ne_zero (Nat.ne_of_gt hn)
    rfl
  have hbytes : ((List.range n).map fun i => ((List.replicate n (none : Option Byte)).getD i none).getD ((Line.slice l.data (pa % 64) n).getD i 0)) =
      Line.slice l.data (pa % 64) n := by
    apply List.ext_getElem (by simp)
    intro i h1 h2
    simp at h1
    simp [h1]
  have hfirst : firstTaken (List.replicate n none) (fun _ => true) = some 0 := by
    obtain ⟨k, rfl⟩ := Nat.exists_eq_succ_of_ne_zero (Nat.ne_of_gt hn)
    simp [firstTaken, List.range_succ_eq_map]
  simp only [Dev.readChunk, Dev.specLine_none h, hfwd, hall, hdram, Dev.l2Read_held key hl, hbytes, hfirst, readCode, Bool.false_eq_true, if_false]
  cases l.poison
  · rfl
  · rfl

end ReadChunk

/-- Settles O16. -/
theorem storeBuffer : Obligations.StoreBuffer := by
  unfold Obligations.StoreBuffer
  refine ⟨fun d c p b hdev hs hb hline hroom => ?_, fun d c pa n key hs => ⟨fun f hf => d.readChunk_forwarded key pa n hs hf, ?_⟩⟩
  · have hone := Dev.storeParts_cons [] hdev hs hb hline hroom
    refine ⟨hone, fun a => ?_⟩
    rw [hone, Dev.storeParts, List.foldl_nil, Dev.core_modCore_self, Core.buffered_stored]
  · intro ch m l hdram hbuf hl hn _
    rw [Dev.readChunk_held key hs hdram hbuf hl hn]

end Sys2Proof.Machine

/-! Prover's part. Stores and atomics. -/

namespace Sys2Proof.Machine

/-! ### Stores (R54, R55, R72, R102) -/

/-- The instructions of `storeOf` store these bytes at these addresses. -/
theorem storeOf_runsAs {i : Instr} {x : Ctx} {w : Nat} {eas : Arch → List Word} {bytes : Arch → List Byte} (h : storeOf i = some (x, w, eas, bytes)) :
    ∃ srcs : List Nat, RunsAs i x (storeWork x srcs w eas bytes) := by
  cases i
  all_goals simp only [storeOf, Option.some.injEq, Prod.mk.injEq, reduceCtorEq] at h
  all_goals
    obtain ⟨rfl, rfl, rfl, rfl⟩ := h
    exact ⟨_, fun _ => rfl⟩

/-- The elements of a vector register fill its 32 bytes. -/
theorem lanes_mul_elemWidth (et : Elem) : lanes et * (elemWidth et / 8) = 32 := by
  cases et
  all_goals rfl

/-- A store has as many bytes as its elements take. -/
theorem storeOf_length {i : Instr} {x : Ctx} {w : Nat} {eas : Arch → List Word} {bytes : Arch → List Byte} (h : storeOf i = some (x, w, eas, bytes))
    (a : Arch) : (bytes a).length = (eas a).length * w := by
  cases i
  case vst =>
    obtain ⟨-, rfl, rfl, rfl⟩ := by simpa only [storeOf, Option.some.injEq, Prod.mk.injEq] using h
    simp [easUnit, leBytes_length, lanes_mul_elemWidth]
  case vsts =>
    obtain ⟨-, rfl, rfl, rfl⟩ := by simpa only [storeOf, Option.some.injEq, Prod.mk.injEq] using h
    simp [easStride, leBytes_length, lanes_mul_elemWidth]
  all_goals simp only [storeOf, Option.some.injEq, Prod.mk.injEq, reduceCtorEq] at h
  all_goals
    obtain ⟨-, rfl, rfl, rfl⟩ := h
    simp [leBytes_length]

section Stores
variable {i : Instr} {x : Ctx} {srcs : List Nat} {w : Nat} {eas : Arch → List Word} {bytes : Arch → List Byte} {s : State} {e : Dev} {t : Trans}

theorem storeWork_body_done (h : (e.storeAll x.core.val w (eas (e.arch x.core.val)) (bytes (e.arch x.core.val))).2 = none) :
    (storeWork x srcs w eas bytes).body e = ((e.storeAll x.core.val w (eas (e.arch x.core.val)) (bytes (e.arch x.core.val))).1, .next) := by
  simp only [storeWork]
  split
  · next heq => simp [heq] at h
  · next heq => simp [heq]

theorem storeWork_body_stop {q : Stop} (h : (e.storeAll x.core.val w (eas (e.arch x.core.val)) (bytes (e.arch x.core.val))).2 = some q) :
    (storeWork x srcs w eas bytes).body e = ((e.storeAll x.core.val w (eas (e.arch x.core.val)) (bytes (e.arch x.core.val))).1, .stop q) := by
  simp only [storeWork]
  split
  · next heq =>
    rw [heq] at h
    obtain rfl := Option.some.inj h
    rw [heq]
  · next heq => simp [heq] at h

/-- A store that is not stopped. -/
theorem RunsAs.completes_store (hr : RunsAs i x (storeWork x srcs w eas bytes)) (h : Executes s x i e t)
    (hs : e.Stores x.core.val w (eas (e.arch x.core.val)) (bytes (e.arch x.core.val))) :
    Completes i s ((e.storeAll x.core.val w (eas (e.arch x.core.val)) (bytes (e.arch x.core.val))).1.retire x.core.val t.pa (s.pc x + 4)) := by
  obtain ⟨hnone, hw⟩ := hs
  exact ⟨by rw [Dev.fabric_retire, hw, h.fetches.free], hr.does_next h rfl (Or.inl rfl) rfl rfl (storeWork_body_done hnone)⟩

end Stores

/-- Outside a stitch a store whose addresses translate puts its bytes where they lie. -/
theorem Dev.storeAll_resolved {d d1 : Dev} {c w : Nat} {eas : List Word} {ps : List Part} (b : List Byte)
    (h : d.resolve c .store w false eas = (d1, .inr ps)) (hs : d1.stitching c = none) :
    d.storeAll c w eas b = (d1.storeParts c (splitOver ps b), none) := by
  rw [Dev.storeAll, h]
  dsimp only
  rw [hs]

/-- What each element of a flat store puts into the store buffer. -/
def flatEntries (w : Nat) (eas : List Word) (b : List Byte) (k : Nat) : List StoreEntry :=
  (eas.zipIdx k).map fun p => ⟨p.1.toNat, (b.drop (p.2 * w)).take w, 0⟩

theorem Dev.stitching_stored {d : Dev} {c : Nat} (l : List StoreEntry) (h : d.stitching c = none) :
    (d.modCore c fun k => k.stored l).stitching c = none := by
  rw [Dev.stitching, Dev.core_modCore_self]
  exact h

/-- The elements of a flat store enter the store buffer in order, from element `k` on. -/
theorem Dev.onlyCore_storeParts_flat {e : Dev} {c w : Nat} {b : List Byte} (eas : List Word) (k : Nat) {d : Dev} {q : Core} (hw : 0 < w)
    (honly : e.OnlyCore d c q) (hs : d.stitching c = none) (hline : ∀ ea ∈ eas, ea.toNat % 64 + w ≤ 64)
    (hlen : (k + eas.length) * w ≤ b.length) (hroom : q.storeBuf.length + eas.length ≤ 96) :
    e.OnlyCore (d.storeParts c (splitOver (eas.map (flatPart w)) (b.drop (k * w)))) c (q.stored (flatEntries w eas b k)) := by
  induction eas generalizing k d q with
  | nil =>
    have hnil : flatEntries w [] b k = [] := rfl
    rw [hnil, Core.stored_nil]
    exact honly
  | cons ea rest ih =>
    obtain ⟨hq, -, -⟩ := id honly
    rw [List.length_cons] at hlen hroom
    have hmul : (k + (rest.length + 1)) * w = k * w + rest.length * w + w := by ring
    have hbytes : ((b.drop (k * w)).take w).length = w := by
      rw [List.length_take, List.length_drop]
      omega
    have hne : (b.drop (k * w)).take w ≠ [] := List.ne_nil_of_length_pos (hbytes.symm ▸ hw)
    have hcons : splitOver ((ea :: rest).map (flatPart w)) (b.drop (k * w)) =
        (flatPart w ea, (b.drop (k * w)).take w) :: splitOver (rest.map (flatPart w)) (b.drop ((k + 1) * w)) := by
      rw [Nat.succ_mul, ← List.drop_drop]
      rfl
    have hentries : [⟨(flatPart w ea).pa, (b.drop (k * w)).take w, (flatPart w ea).key⟩] ++ flatEntries w rest b (k + 1) =
        flatEntries w (ea :: rest) b k := rfl
    have hstep := Dev.storeParts_cons (p := flatPart w ea) (splitOver (rest.map (flatPart w)) (b.drop ((k + 1) * w))) rfl hs hne
      (by rw [hbytes]; exact hline ea (List.mem_cons_self ..)) (by rw [hq]; omega)
    have hrest := ih (k + 1) (honly.modCore fun q => q.stored [⟨(flatPart w ea).pa, (b.drop (k * w)).take w, (flatPart w ea).key⟩])
      (Dev.stitching_stored _ hs) (fun a ha => hline a (List.mem_cons_of_mem _ ha)) (by rw [Nat.add_assoc, Nat.add_comm 1]; exact hlen)
      (by rw [Core.stored, List.length_append, List.length_singleton]; omega)
    rw [Core.stored_stored, hentries] at hrest
    rw [hcons, hstep]
    exact hrest

/-- A flat store outside a stitch. -/
theorem Dev.storeAll_flat {e : Dev} {c w : Nat} {eas : List Word} {b : List Byte} (hs : e.stitching c = none) (h : ∀ ea ∈ eas, e.Flat c w ea)
    (hlen : b.length = eas.length * w) (hroom : (e.core c).storeBuf.length + eas.length ≤ 96) :
    (e.storeAll c w eas b).2 = none ∧ e.OnlyCore (e.storeAll c w eas b).1 c ((e.core c).stored (flatEntries w eas b 0)) := by
  rw [Dev.storeAll_resolved b (Dev.resolve_flat h (by decide) false) hs]
  refine ⟨rfl, ?_⟩
  cases eas with
  | nil => exact ⟨(Core.stored_nil _).symm, fun _ _ => rfl, rfl⟩
  | cons ea rest =>
    have hw : 0 < w := (h ea (List.mem_cons_self ..)).some_
    have hparts := Dev.onlyCore_storeParts_flat (ea :: rest) 0 (e := e) (d := e) hw ⟨rfl, fun _ _ => rfl, rfl⟩ hs (fun a ha => (h a ha).within)
      (by rw [hlen, Nat.zero_add]) hroom
    rwa [Nat.zero_mul, List.drop_zero] at hparts

/-- Settles O15. -/
theorem stores : Obligations.Stores := by
  unfold Obligations.Stores
  refine ⟨fun i x w eas bytes s e t hi h => ⟨fun hs => ?_, fun v code fa hstop => ?_⟩,
    fun d d1 c w eas b ps h hs => Dev.storeAll_resolved b h hs, fun i x w eas bytes s e t hi h hs hflat hroom => ?_⟩
  · obtain ⟨srcs, hr⟩ := storeOf_runsAs hi
    exact hr.completes_store h hs
  · obtain ⟨srcs, hr⟩ := storeOf_runsAs hi
    exact hr.does_trap h rfl (Or.inl rfl) rfl rfl (storeWork_body_stop hstop)
  · obtain ⟨srcs, hr⟩ := storeOf_runsAs hi
    obtain ⟨hnone, honly⟩ := Dev.storeAll_flat hs hflat (storeOf_length hi _) hroom
    exact ⟨_, hr.completes_store h ⟨hnone, by rw [honly.fabric_eq]⟩, honly⟩

end Sys2Proof.Machine

/-! Prover's part. Atomics. -/

namespace Sys2Proof.Machine

/-! ### Retirement outside a stitch -/

/-- Outside a stitch an instruction's retirement moves pc, and no routine is left to resume. -/
theorem Dev.retire_outside {d : Dev} {c : Nat} (fetched : Nat) (next : Word) (h : d.stitching c = none) :
    d.retire c fetched next = d.modCore c fun k => { k with arch := { k.arch with pc := next }, routine := none, replays := 0 } := by
  have hs : (d.modCore c fun k => { k with arch := { k.arch with pc := next }, routine := none, replays := 0 }).stitching c = none := by
    rw [Dev.stitching, Dev.core_modCore_self]
    exact h
  rw [Dev.retire]
  dsimp only
  rw [hs]

theorem Dev.arch_retire_outside {d : Dev} {c : Nat} (fetched : Nat) (next : Word) (h : d.stitching c = none) :
    (d.retire c fetched next).arch c = { d.arch c with pc := next } := by
  rw [Dev.retire_outside fetched next h, Dev.arch, Dev.core_modCore_self]
  rfl

/-! ### An atomic on a line that the core holds modified (R58, R73) -/

/-- What an atomic at an address leaves that writes `v`, or nothing: its core has no store waiting and holds the line modified. -/
def Dev.swapped (d : Dev) (c : Nat) (p : Part) (v : Option Nat) : Dev :=
  match v with
  | none => d.emptied c
  | some n => (d.emptied c).merged c (p.pa / 64) (lineAt (p.pa % 64) (leBytes p.n n)).1 (lineAt (p.pa % 64) (leBytes p.n n)).2 p.key

section Swapped
variable (d : Dev) (c : Nat) (p : Part) (v : Option Nat)

theorem Dev.fabric_swapped : (d.swapped c p v).fabric = d.fabric := by
  cases v with
  | none => rw [Dev.swapped, Dev.emptied, Dev.fabric_modCore]
  | some n => rw [Dev.swapped, Dev.fabric_merged, Dev.emptied, Dev.fabric_modCore]

theorem Dev.arch_swapped : (d.swapped c p v).arch c = d.arch c := by
  cases v with
  | none => rw [Dev.swapped, Dev.arch, Dev.core_emptied_self]; rfl
  | some n => rw [Dev.swapped, Dev.arch, Dev.core_merged_self, Dev.core_emptied_self]; rfl

theorem Dev.member_swapped : ((d.swapped c p v).core c).member = (d.core c).member := by
  cases v with
  | none => rw [Dev.swapped, Dev.core_emptied_self]
  | some n => rw [Dev.swapped, Dev.core_merged_self, Dev.core_emptied_self]; rfl

theorem Dev.stitching_swapped : (d.swapped c p v).stitching c = d.stitching c := by rw [Dev.stitching, Dev.stitching, Dev.member_swapped]

theorem Dev.data_swapped {l : L2Line} (h : (d.core c).l2Line (p.pa / 64) = some l) :
    (((d.swapped c p v).core c).l2Line (p.pa / 64)).map (·.data) = some (match v with
      | some n => Line.merge l.data (lineAt (p.pa % 64) (leBytes p.n n)).1 (lineAt (p.pa % 64) (leBytes p.n n)).2
      | none => l.data) := by
  have hheld : { d.core c with storeBuf := [] }.l2Line (p.pa / 64) = some l := h
  cases v with
  | none =>
    rw [Dev.swapped, Dev.core_emptied_self, hheld]
    rfl
  | some n =>
    rw [Dev.swapped, Dev.core_merged_self, Dev.core_emptied_self, Core.l2Line_merged, hheld]
    rfl

end Swapped

theorem Dev.atomicNow_modified {d : Dev} {c ch m : Nat} {p : Part} {l : L2Line} (op : AtomOp) (operand expect : Word) (hs : d.stitching c = none)
    (hbuf : (d.core c).storeBuf = []) (hdram : d.place p.pa = .dram ch m) (hl : (d.core c).l2Line (p.pa / 64) = some l)
    (hm : l.st = .modified) (hgood : l.poison = false) :
    d.atomicNow c p op operand expect =
      (d.swapped c p (atomNew op p.n (leNat (Line.slice l.data (p.pa % 64) p.n)) operand.toNat expect.toNat),
        .inr (BitVec.ofNat 64 (leNat (Line.slice l.data (p.pa % 64) p.n)))) := by
  have hdrain : d.drainStores c = d.emptied c := Dev.drainStores_nil hbuf
  have hplace : (d.emptied c).place p.pa = .dram ch m := hdram
  have hheld : ((d.emptied c).core c).l2Line (p.pa / 64) = some l := by
    rw [Dev.core_emptied_self]
    exact hl
  simp only [Dev.atomicNow, hs, Option.isSome_none, Bool.false_and, Bool.false_eq_true, if_false, hdrain, hplace,
    Dev.l2Own_modified p.key hheld hm, hheld, hgood]
  cases atomNew op p.n (leNat (Line.slice l.data (p.pa % 64) p.n)) operand.toNat expect.toNat with
  | none => rfl
  | some v => simp only [Dev.l2Write_modified _ _ p.key hheld hm, Dev.swapped, Bool.false_eq_true, if_false]

/-! ### Atomics as instructions -/

/-- The instructions of `atomicOf` are atomics with that width and operation. -/
theorem atomicOf_runsAs {i : Instr} {x : Ctx} {o : OpsR} {n : Nat} {op : AtomOp} (h : atomicOf i = some (x, o, n, op)) :
    RunsAs i x (atomWork x o n op) ∧ (n = 4 ∨ n = 8) := by
  cases i
  all_goals simp only [atomicOf, Option.some.injEq, Prod.mk.injEq, reduceCtorEq] at h
  all_goals obtain ⟨rfl, rfl, rfl, rfl⟩ := h
  case aaddW | aswpW | acasW => exact ⟨fun _ => rfl, Or.inl rfl⟩
  case aaddD | aswpD | acasD => exact ⟨fun _ => rfl, Or.inr rfl⟩

/-- The old value in rd, zero-extended. -/
def Dev.atomLeft (d : Dev) (c n : Nat) (rd : RegNo) (v : Word) : Dev :=
  d.withArch c ((d.arch c).setG rd (BitVec.ofNat 64 (v.toNat % 2 ^ (8 * n))))

theorem Dev.arch_atomLeft (d : Dev) (c n : Nat) (rd : RegNo) (v : Word) :
    (d.atomLeft c n rd v).arch c = (d.arch c).setG rd (BitVec.ofNat 64 (v.toNat % 2 ^ (8 * n))) := by
  rw [Dev.atomLeft, Dev.withArch, Dev.arch, Dev.core_modCore_self]

theorem Dev.stitching_atomLeft (d : Dev) (c n : Nat) (rd : RegNo) (v : Word) : (d.atomLeft c n rd v).stitching c = d.stitching c := by
  rw [Dev.stitching, Dev.atomLeft, Dev.withArch, Dev.core_modCore_self]
  rfl

section Atomics
variable {i : Instr} {x : Ctx} {o : OpsR} {n : Nat} {op : AtomOp} {s : State} {e d : Dev} {t : Trans}

theorem atomWork_body_done {v : Word} (h : e.atomic x.core.val n ((e.arch x.core.val).getG o.rs1) op ((e.arch x.core.val).getG o.rs2)
    ((e.arch x.core.val).getG o.rd) o.rd = (d, .inr v)) : (atomWork x o n op).body e = (d.atomLeft x.core.val n o.rd v, .next) := by
  simp only [atomWork, h]
  rfl

theorem atomWork_body_misaligned (h : ((e.arch x.core.val).getG o.rs1).toNat % n ≠ 0) :
    (atomWork x o n op).body e = (e, .stop (.trap 5 1 ((e.arch x.core.val).getG o.rs1))) := by
  have ha : e.atomic x.core.val n ((e.arch x.core.val).getG o.rs1) op ((e.arch x.core.val).getG o.rs2) ((e.arch x.core.val).getG o.rd) o.rd =
      (e, .inl (.trap 5 1 ((e.arch x.core.val).getG o.rs1))) := if_pos (bne_iff_ne.mpr h)
  simp only [atomWork, ha]

theorem RunsAs.completes_atomic (hr : RunsAs i x (atomWork x o n op)) (h : Executes s x i e t) {v : Word}
    (ha : e.atomic x.core.val n ((e.arch x.core.val).getG o.rs1) op ((e.arch x.core.val).getG o.rs2) ((e.arch x.core.val).getG o.rd) o.rd = (d, .inr v))
    (hw : d.fabric.waits = e.fabric.waits) : Completes i s ((d.atomLeft x.core.val n o.rd v).retire x.core.val t.pa (s.pc x + 4)) :=
  ⟨by rw [Dev.fabric_retire, Dev.atomLeft, Dev.withArch, Dev.fabric_modCore, hw, h.fetches.free],
    hr.does_next h rfl (Or.inl rfl) rfl rfl (atomWork_body_done ha)⟩

/-- An atomic at M, without translation and outside a stitch, on a line of DRAM that the core holds modified. -/
theorem Dev.atomic_near {c : Nat} {ea : Word} {l : L2Line} (operand expect : Word) (rd : RegNo) (hs : e.stitching c = none)
    (hbuf : (e.core c).storeBuf = []) (ha : ea.toNat % n = 0) (hnear : e.Near c n ea l) (hm : l.st = .modified) :
    e.atomic c n ea op operand expect rd =
      (e.swapped c (flatPart n ea) (atomNew op n (leNat (Line.slice l.data (ea.toNat % 64) n)) operand.toNat expect.toNat),
        .inr (BitVec.ofNat 64 (leNat (Line.slice l.data (ea.toNat % 64) n)))) := by
  obtain ⟨ch, m, hdram⟩ := hnear.dram
  have hflat : ∀ a ∈ [ea], e.Flat c n a := fun a h => List.mem_singleton.mp h ▸ hnear.toFlat
  have hnow := Dev.atomicNow_modified (p := flatPart n ea) op operand expect hs hbuf hdram hnear.held hm hnear.good
  have haligned : ¬ (ea.toNat % n != 0) = true := by simpa using ha
  rw [Dev.atomic, if_neg haligned, Dev.resolve_flat hflat (by decide) true]
  simp only [List.map_cons, hs, hnow]
  rfl

end Atomics

/-- Settles O17. -/
theorem atomics : Obligations.Atomics := by
  unfold Obligations.Atomics
  refine ⟨fun i x o n op s e t hi h => ⟨fun v hv hw => ?_, fun ha => ?_⟩, ?_, fun i x o n op s e t l hi h hs hbuf ha hnear hm => ?_⟩
  · obtain ⟨hr, -⟩ := atomicOf_runsAs hi
    exact hr.completes_atomic h (Prod.ext rfl hv) hw
  · obtain ⟨hr, -⟩ := atomicOf_runsAs hi
    exact hr.does_trap h rfl (Or.inl rfl) rfl rfl (atomWork_body_misaligned ha)
  · intro d c ch m p op operand expect l hs hbuf hdram hl hm hgood _ _
    have hnow := Dev.atomicNow_modified op operand expect hs hbuf hdram hl hm hgood
    refine ⟨by rw [hnow], by rw [hnow, Dev.fabric_swapped], ?_⟩
    rw [hnow, Dev.data_swapped d c p _ hl]
    cases op
    · rfl
    · rfl
    · rfl
  · obtain ⟨hr, hn⟩ := atomicOf_runsAs hi
    have hnow := Dev.atomic_near (op := op) ((e.arch x.core.val).getG o.rs2) ((e.arch x.core.val).getG o.rd) o.rd hs hbuf ha hnear hm
    have hlt := leNat_lt (Line.slice l.data (((e.arch x.core.val).getG o.rs1).toNat % 64) n)
    rw [Line.slice_length] at hlt
    have hle : 2 ^ (8 * n) ≤ 2 ^ 64 := Nat.pow_le_pow_right (by decide) (by omega)
    refine ⟨_, hr.completes_atomic h hnow (by rw [Dev.fabric_swapped]), (Dev.arch_retire_outside _ _ ?_).trans ?_⟩
    · rw [Dev.stitching_atomLeft, Dev.stitching_swapped, hs]
    · rw [Dev.arch_atomLeft, Dev.arch_swapped, BitVec.toNat_ofNat, Nat.mod_eq_of_lt (hlt.trans_le hle), Nat.mod_eq_of_lt hlt]

end Sys2Proof.Machine

/-! Prover's part. RETI. -/

namespace Sys2Proof.Machine

/-! ### What a RETI restores (R45 to R47) -/

/-- Double-word `i` of the bytes of a frame. -/
def frameWord (b : List Byte) (i : Nat) : Word := BitVec.ofNat 64 (leNat ((b.drop (8 * i)).take 8))

/-- The registers that a RETI takes from the first 64 bytes of a frame. -/
def Arch.restored (a : Arch) (l : Level) (f : Word) (b : List Byte) : Arch :=
  ((a.setStatus (frameWord b 1)).setPred (frameWord b 5)).setFsp l (f + 0x140)

/-- The level and the pc of a frame are ones that a RETI goes to. -/
def frameReturns (l : Level) (b : List Byte) : Prop :=
  Level.lt l (Level.dec ((frameWord b 1).toNat % 4)) = false ∧ (frameWord b 0).toNat % 4 = 0

section Reti
variable {d d1 : Dev} {c : Nat}

/-- A frame without micro-state. -/
theorem Dev.retiBy_plain {read : FrameRead} {b : List Byte} (h : read d ((d.arch c).fsp (d.arch c).pl).toNat 64 = (d1, some b))
    (hf : frameReturns (d.arch c).pl b) (hm : bitF (frameWord b 2) 63 = false) :
    d.retiBy c read = (d1.modArch c fun z => z.restored (d.arch c).pl ((d.arch c).fsp (d.arch c).pl) b, .left (frameWord b 0) none) := by
  obtain ⟨hl, hpc⟩ := hf
  have hl' : ¬ (Level.lt (d.arch c).pl (Level.dec ((frameWord b 1).toNat % 4)) = true) := by rw [hl]; decide
  have hm' : ¬ bitF (frameWord b 2) 63 = true := by rw [hm]; decide
  rw [Dev.retiBy]
  simp only [h]
  exact (if_neg hl').trans ((if_neg (not_not_intro hpc)).trans (if_neg hm'))

/-- A RETI that returns has read a frame whose pc is aligned and whose level is no higher (R45, R47). -/
theorem Dev.retiBy_left {read : FrameRead} {e : Dev} {pc : Word} {r : Option Routine} (h : d.retiBy c read = (e, .left pc r)) :
    ∃ (d1 d2 : Dev) (b : List Byte), read d ((d.arch c).fsp (d.arch c).pl).toNat 64 = (d1, some b) ∧ pc = frameWord b 0 ∧
      frameReturns (d.arch c).pl b ∧ e = d2.modArch c fun z => z.restored (d.arch c).pl ((d.arch c).fsp (d.arch c).pl) b := by
  rw [Dev.retiBy] at h
  dsimp only at h
  split at h
  · simp at h
  · next d1 b hread =>
    split at h
    · simp at h
    · next hl =>
      split at h
      · simp at h
      · next hpc =>
        have hf : frameReturns (d.arch c).pl b := ⟨Bool.eq_false_iff.mpr hl, not_not.mp hpc⟩
        split at h
        · split at h
          · simp at h
          · next d2 _ _ =>
            obtain ⟨he, hret⟩ := Prod.mk.inj h
            obtain ⟨hpc', -⟩ := Ret.left.inj hret
            exact ⟨d1, d2, b, hread, hpc'.symm, hf, he.symm⟩
        · obtain ⟨he, hret⟩ := Prod.mk.inj h
          obtain ⟨hpc', -⟩ := Ret.left.inj hret
          exact ⟨d1, d1, b, hread, hpc'.symm, hf, he.symm⟩

/-- A RETI that returns reads its frame from normal memory. -/
theorem Dev.reti_eq {e : Dev} {pc : Word} {r : Option Routine} (h : d.reti c = (e, .left pc r)) : d.retiBy c (frameRead c) = (e, .left pc r) := by
  rw [Dev.reti] at h
  split at h
  · simp at h
  · exact h

end Reti

/-! ### Reading a frame from a line that the L2 holds -/

section Held
variable {d : Dev} {c pa : Nat} {l : L2Line}

/-- Entering a line in the L1 changes nothing else of the device. -/
theorem Dev.onlyCore_fillL1 (d : Dev) (c ln : Nat) :
    ∃ k : Core, d.OnlyCore (d.fillL1 c ln false) c k ∧ k.arch = (d.core c).arch ∧ k.member = (d.core c).member := by
  rw [Dev.fillL1]
  split
  · exact ⟨d.core c, ⟨rfl, fun _ _ => rfl, rfl⟩, rfl, rfl⟩
  · exact ⟨_, d.onlyCore_modCore c _, rfl, rfl⟩

theorem Dev.stitching_of_member (h : (d.core c).member = none) : d.stitching c = none := by rw [Dev.stitching, h]

/-- The first 64 bytes of a frame that lies in a line of DRAM of the L2. -/
theorem Dev.frameRead_held {ch n : Nat} (hm : (d.core c).member = none) (hbuf : (d.core c).storeBuf = []) (ha : pa % 64 = 0)
    (hok : d.frameOk pa = true) (hdram : d.place pa = .dram ch n) (hl : (d.core c).l2Line (pa / 64) = some l) (hgood : l.poison = false) :
    frameRead c d pa 64 = (d.fillL1 c (pa / 64) false, some (Line.slice l.data 0 64)) := by
  obtain ⟨k, ⟨hfill, -, -⟩, -, hmember⟩ := d.onlyCore_fillL1 c (pa / 64)
  have hout : (d.fillL1 c (pa / 64) false).stitching c = none := Dev.stitching_of_member (by rw [hfill, hmember, hm])
  have hchunk := Dev.readChunk_held (n := 64) 0 (Dev.stitching_of_member hm) hdram hbuf hl (by decide)
  rw [ha, hgood] at hchunk
  have hread : d.readNormal c 0 8 pa 64 0 = (d.fillL1 c (pa / 64) false, Line.slice l.data 0 64, none) := by
    rw [Dev.readNormal, ha]
    simp only [Nat.reduceEqDiff, Nat.sub_zero, Nat.min_self, hchunk, Bool.false_eq_true, if_false, Nat.sub_self]
    rw [Dev.readNormal]
    simp
  simp only [frameRead, hok, hread, Dev.enterRead, hout]
  rfl

/-- A double-word of a line's bytes. -/
theorem frameWord_slice (x : Line) {i : Nat} (h : i < 8) : frameWord (Line.slice x 0 64) i = BitVec.ofNat 64 (leNat (Line.slice x (8 * i) 8)) := by
  have hslice : ((Line.slice x 0 64).drop (8 * i)).take 8 = Line.slice x (8 * i) 8 := by
    apply List.ext_getElem (by simp; omega)
    intro k h1 h2
    simp [Line.slice_eq_map]
  rw [frameWord, hslice]

end Held

/-! ### RETI as an instruction -/

section RetiRuns
variable {x : Ctx} {s : State} {e d : Dev} {t : Trans}

theorem reti_does {pc : Word} {r : Option Routine} (h : Executes s x (.reti x) e t) (ha : Level.le .s (s.dev.arch x.core.val).pl = true)
    (hr : e.reti x.core.val = (d, .left pc r)) :
    Does (.reti x) s (((d.retire x.core.val t.pa pc).modCore x.core.val fun k => { k with routine := r }).afterReti x.core.val) := by
  have hruns : RunsAs (.reti x) x { sysWork (fun d => d.reti x.core.val) with allow := atLeast .s } := fun _ => rfl
  have hdoes := hruns.does_body h ha (Or.inl rfl) rfl rfl hr
  rwa [Dev.finish] at hdoes

theorem Dev.afterReti_outside {c : Nat} (h : (d.core c).member = none) : d.afterReti c = d := by rw [Dev.afterReti, h]

/-- The core after a RETI outside every panel. -/
def Core.returned (k : Core) (a : Arch) (pc : Word) (r : Option Routine) : Core := { k with arch := { a with pc := pc }, routine := r, replays := 0 }

/-- Outside every panel a RETI's retirement only sets its core's pc and routine. -/
theorem Dev.onlyCore_returned {c fetched : Nat} {k : Core} {pc : Word} {r : Option Routine} (g : Arch → Arch) (h : e.OnlyCore d c k)
    (hm : k.member = none) :
    e.OnlyCore ((((d.modArch c g).retire c fetched pc).modCore c fun q => { q with routine := r }).afterReti c) c
      (k.returned (g k.arch) pc r) := by
  have h1 : e.OnlyCore (d.modArch c g) c { k with arch := g k.arch } := h.modCore _
  have hs : (d.modArch c g).stitching c = none := Dev.stitching_of_member (by rw [h1.1]; exact hm)
  have h2 := (h1.modCore fun q => { q with arch := { q.arch with pc := pc }, routine := none, replays := 0 }).modCore fun q => { q with routine := r }
  rw [← Dev.retire_outside fetched pc hs] at h2
  rw [Dev.afterReti_outside (by rw [h2.1]; exact hm)]
  exact h2

/-- RETI from a frame without micro-state in a line that the L2 holds, outside every panel. -/
theorem reti_held {ch n : Nat} {f : Word} {l : L2Line} (h : Executes s x (.reti x) e t) (ha : Level.le .s (s.dev.arch x.core.val).pl = true)
    (hm : (e.core x.core.val).member = none) (hbuf : (e.core x.core.val).storeBuf = [])
    (hfsp : (e.arch x.core.val).fsp (e.arch x.core.val).pl = f) (hf : f.toNat % 64 = 0) (hok : e.frameOk f.toNat = true)
    (hdram : e.place f.toNat = .dram ch n) (hl : (e.core x.core.val).l2Line (f.toNat / 64) = some l) (hgood : l.poison = false)
    (hret : frameReturns (e.arch x.core.val).pl (Line.slice l.data 0 64)) (hplain : bitF (frameWord (Line.slice l.data 0 64) 2) 63 = false) :
    ∃ k : Core, k.arch = { (e.arch x.core.val).restored (e.arch x.core.val).pl f (Line.slice l.data 0 64) with
        pc := frameWord (Line.slice l.data 0 64) 0 } ∧
      Leaves (.reti x) s fun d => e.OnlyCore d x.core.val k := by
  have hread := Dev.frameRead_held hm hbuf hf hok hdram hl hgood
  rw [← hfsp] at hread
  have hby := Dev.retiBy_plain hread hret hplain
  have hreti : e.reti x.core.val = e.retiBy x.core.val (frameRead x.core.val) := if_neg (by simp [Dev.stitching_of_member hm])
  obtain ⟨k, honly, harch, hmember⟩ := e.onlyCore_fillL1 x.core.val (((e.arch x.core.val).fsp (e.arch x.core.val).pl).toNat / 64)
  have hafter := Dev.onlyCore_returned (fetched := t.pa) (pc := frameWord (Line.slice l.data 0 64) 0) (r := none)
    (fun z => z.restored (e.arch x.core.val).pl ((e.arch x.core.val).fsp (e.arch x.core.val).pl) (Line.slice l.data 0 64)) honly
    (hmember.trans hm)
  have hdoes := reti_does h ha (hreti.trans hby)
  refine ⟨_, ?_, _, ⟨by rw [hafter.fabric_eq, h.fetches.free], hdoes⟩, hafter⟩
  rw [Core.returned, harch, hfsp, Dev.arch]

end RetiRuns

/-- Settles O23. -/
theorem returns : Obligations.Returns := by
  unfold Obligations.Returns
  refine ⟨fun x s e t pc r h ha hr => reti_does h ha (Prod.ext rfl hr), fun d c pc r hr => ?_, ?_⟩
  · obtain ⟨d1, d2, b, hread, hpc, ⟨hlevel, haligned⟩, hback⟩ := Dev.retiBy_left (Dev.reti_eq (Prod.ext rfl hr))
    rw [frameWord, BitVec.toNat_ofNat] at hlevel
    exact ⟨d1, d2, b, hread, hpc, hpc ▸ haligned, hlevel, hback⟩
  · intro x s e t l ch n h c a f word ha _ hm hbuf hf hok hdram hl hgood hlevel hpc hplain
    have hw : ∀ i, i < 8 → frameWord (Line.slice l.data 0 64) i = word i := fun i hi => frameWord_slice l.data hi
    have hret : frameReturns a.pl (Line.slice l.data 0 64) := ⟨by rw [hw 1 (by decide)]; exact hlevel, by rw [hw 0 (by decide)]; exact hpc⟩
    obtain ⟨k, harch, hleaves⟩ := reti_held h ha hm hbuf rfl hf hok hdram hl hgood hret (by rw [hw 2 (by decide)]; exact hplain)
    rw [Arch.restored, hw 0 (by decide), hw 1 (by decide), hw 5 (by decide)] at harch
    obtain ⟨d, hcompletes, hself, hother, hrest⟩ := hleaves
    exact ⟨d, hcompletes, by rw [Dev.arch, hself, harch], hother, by rw [hrest], by rw [hrest]⟩

end Sys2Proof.Machine

/-! Prover's part. No access of a core, and nothing that one leads to at homes, controllers, scratchpads and other cores, changes a register or a
store buffer. Each lemma below says so of one operation: of the parts of which the operation is made, in each of its branches, the same is known. -/

namespace Sys2Proof.Machine

/-! ### Registers and store buffers -/

/-- Registers and store buffer of a core: what its own instructions, and no access of any core, change. -/
def Dev.regs (d : Dev) (c : Nat) : Arch × List StoreEntry := ((d.core c).arch, (d.core c).storeBuf)

theorem Dev.regs_of_cores {d e : Dev} (h : e.cores = d.cores) : e.regs = d.regs := by
  funext c
  rw [Dev.regs, Dev.regs, Dev.core, Dev.core, h]

theorem Dev.regs_modCore (d : Dev) (c : Nat) {f : Core → Core} (ha : (f (d.core c)).arch = (d.core c).arch)
    (hs : (f (d.core c)).storeBuf = (d.core c).storeBuf) : (d.modCore c f).regs = d.regs := by
  funext k
  by_cases h : k = c
  · subst h
    rw [Dev.regs, Dev.core_modCore_self, ha, hs, Dev.regs]
  · rw [Dev.regs, Dev.core_modCore_other d f h, Dev.regs]

theorem Dev.ite_regs {p : Prop} [Decidable p] {d e : Dev} {r : Nat → Arch × List StoreEntry} (hd : d.regs = r) (he : e.regs = r) :
    (if p then d else e).regs = r := by
  split
  · exact hd
  · exact he

theorem Dev.foldl_fst_frame {α β γ : Type} (g : Dev → γ) {f : Dev × β → α → Dev × β} (hf : ∀ x a, g (f x a).1 = g x.1) (l : List α)
    (p : Dev × β) : g (l.foldl f p).1 = g p.1 :=
  fold_keeps (fun x : Dev × β => g x.1 = g p.1) f (fun x a hx => (hf x a).trans hx) l p rfl

theorem Core.arch_snooped (q : Core) (ln : Nat) (k : SnoopKind) : (q.snooped ln k).arch = q.arch := by
  cases k
  all_goals rfl

theorem Core.storeBuf_snooped (q : Core) (ln : Nat) (k : SnoopKind) : (q.snooped ln k).storeBuf = q.storeBuf := by
  cases k
  all_goals rfl

/-! ### Parts of the device -/

theorem Dev.regs_setFabric (d : Dev) (f : Fabric) : (d.setFabric f).regs = d.regs := Dev.regs_of_cores rfl

theorem Dev.regs_see (d : Dev) (o : Opc) (m : Msg) (began : Word) : (d.see o m began).regs = d.regs := Dev.ite_regs (d.regs_setFabric _) rfl

theorem Dev.regs_setReg (d : Dev) (r : Reg) (v : Word) : (d.setReg r v).regs = d.regs := Dev.regs_of_cores rfl

theorem Dev.regs_setFlds (d : Dev) (r : Reg) (fs : List (Fld × Nat)) : (d.setFlds r fs).regs = d.regs := d.regs_setReg ..

/-! ### Waking a domain, and the way of a packet -/

theorem Dev.regs_applyPatch (d : Dev) (c : Nat) : (d.applyPatch c).regs = d.regs := by
  unfold Dev.applyPatch
  dsimp only
  split
  · have hpatch := (d.setFlds (.coreUcode c) [(.CORE_UCODE_PATCH_ID, d.fld (.coreUcode c) .CORE_UCODE_PENDING_ID), (.CORE_UCODE_PENDING_ID, 0),
      (.CORE_UCODE_PEND, 0)]).regs_modCore c (f := fun k => { k with patch := d.dict.patch }) rfl rfl
    rw [Dev.regs_setFlds] at hpatch
    refine Eq.trans (Dev.regs_of_cores ?_) hpatch
    rfl
  · rfl

theorem Dev.regs_setFld (d : Dev) (r : Reg) (f : Fld) (x : Nat) : (d.setFld r f x).regs = d.regs := by
  rw [Dev.setFld, Dev.regs_setReg]

theorem Dev.regs_onWake (d : Dev) (k : Nat) : (d.onWake k).regs = d.regs :=
  Dev.ite_regs (d.regs_applyPatch k) (Dev.ite_regs (d.regs_setFld ..) rfl)

theorem Dev.regs_modDom (d : Dev) (n : Nat) (f : DomSt → DomSt) : (d.modDom n f).regs = d.regs := Dev.regs_of_cores rfl

theorem Dev.regs_setNow (d : Dev) (k x : Nat) : (d.setNow k x).regs = d.regs := Dev.ite_regs (d.regs_setFld ..) rfl

theorem Dev.regs_setPower (d : Dev) (k x : Nat) : (d.setPower k x).regs = d.regs := by
  rw [Dev.setPower, Dev.regs_setFld, Dev.regs_setNow]

theorem Dev.regs_wake (d : Dev) (k : Nat) : (d.wake k).regs = d.regs := by
  unfold Dev.wake
  dsimp only
  split
  · rw [Dev.regs_onWake, Dev.regs_modDom, Dev.regs_setPower]
    exact Dev.regs_of_cores rfl
  · rfl

theorem Dev.regs_wakeRoute (d : Dev) (a b : Node) :
    (d.wakeRoute a b).regs = d.regs := Dev.foldl_frame Dev.regs (fun x q => x.regs_wake (domOfFabric q)) _ d

theorem Dev.regs_countFld (d : Dev) (r : Reg) (f : Fld) (k : Nat) : (d.countFld r f k).regs = d.regs := by
  rw [Dev.countFld, Dev.regs_setFld]

theorem Dev.regs_lateAt (d : Dev) (q : Nat) : (d.lateAt q).regs = d.regs := by
  rw [Dev.lateAt, Dev.regs_countFld]

theorem Dev.regs_reach (d : Dev) (o : Opc) (m : Msg) : (d.reach o m).1.regs = d.regs := by
  grind [Dev.reach, Dev.regs_see, Dev.regs_wakeRoute, Dev.regs_lateAt]

theorem Dev.regs_seeBack (d : Dev) (o : Opc) (m : Msg) (x : Line) (poison : Bool) : (d.seeBack o m x poison).regs = d.regs := by
  rw [Dev.seeBack, Dev.regs_see]

/-! ### Scratchpads and other sockets -/

theorem Dev.regs_modSlice (d : Dev) (n : Nat) (f : Slice → Slice) : (d.modSlice n f).regs = d.regs := Dev.regs_of_cores rfl

theorem Dev.regs_draw (d : Dev) : (d.draw).2.regs = d.regs := Dev.regs_of_cores rfl

theorem Dev.regs_spadMeet (d : Dev) (n : Nat) (now : SpadAcc) : (d.spadMeet n now).1.regs = d.regs := by
  grind [Dev.spadMeet, Dev.regs_modSlice, Dev.regs_draw]

theorem Dev.regs_spadStore (d : Dev) (n way off : Nat) (l : List (Option Byte)) : (d.spadStore n way off l).regs = d.regs := d.regs_modSlice ..

theorem Dev.regs_spadCollide (d : Dev) (n unit : Nat) (engine : Bool) : (d.spadCollide n unit engine).regs = d.regs :=
  (Dev.regs_setFlds ..).trans (d.regs_countFld ..)

theorem Dev.regs_spadPutMark (d : Dev) (engine : Bool) (n way off : Nat) (l : List (Option Byte)) :
    (d.spadPutMark engine n way off l).1.regs = d.regs := by
  grind [Dev.spadPutMark, Dev.regs_spadMeet, Dev.regs_spadStore, Dev.regs_spadCollide]

theorem Dev.regs_spadPut (d : Dev) (engine : Bool) (n way off : Nat) (l : List Byte) : (d.spadPut engine n way off l).regs = d.regs := by
  rw [Dev.spadPut, Dev.regs_spadPutMark]

theorem Dev.regs_spadSave (d : Dev) (who : Agent) (n way off : Nat) (l : List Byte) : (d.spadSave who n way off l).1.regs = d.regs := by
  grind [Dev.spadSave, Dev.regs_wake, Dev.regs_reach, Dev.regs_seeBack, Dev.regs_spadPut]

theorem Dev.regs_wait (d : Dev) : (d.wait ).regs = d.regs := by
  rw [Dev.wait, Dev.regs_setFabric]

theorem Dev.regs_farPost (d : Dev) (o : Opc) (m : Msg) : (d.farPost o m).regs = d.regs := by
  rw [Dev.farPost, Dev.regs_setFabric]

theorem Dev.regs_farSave (d : Dev) (who : Agent) (pa : Nat) (l : List Byte) : (d.farSave who pa l).1.regs = d.regs := by
  grind [Dev.farSave, Dev.regs_wait, Dev.regs_farPost]

/-! ### Snoops -/

theorem Dev.regs_setDir (d : Dev) (n : Nat) (e : DirEntry) : (d.setDir n e).regs = d.regs := d.regs_modSlice ..

theorem Dev.regs_keepBit (d : Dev) (c ln : Nat) : (d.keepBit c ln).regs = d.regs := Dev.ite_regs (d.regs_setDir ..) rfl

theorem Dev.regs_snoopCore (d : Dev) (c ln : Nat) (k : SnoopKind) : (d.snoopCore c ln k).1.regs = d.regs := by
  unfold Dev.snoopCore
  dsimp only
  split
  · exact d.regs_wake c
  · exact (Dev.regs_modCore _ _ (Core.arch_snooped ..) (Core.storeBuf_snooped ..)).trans (d.regs_wake c)

theorem Dev.regs_snoopAfar (d : Dev) (ln : Nat) (owner : Bool) : (d.snoopAfar ln owner).1.regs = d.regs := by
  unfold Dev.snoopAfar
  split
  · exact d.regs_draw
  · rfl

theorem Dev.regs_modPort (d : Dev) (n : Nat) (f : PortSt → PortSt) : (d.modPort n f).regs = d.regs := Dev.regs_of_cores rfl

theorem Dev.regs_snoopDevice (d : Dev) (h ln : Nat) (k : SnoopKind) : (d.snoopDevice h ln k).regs = d.regs := by
  unfold Dev.snoopDevice
  split
  · exact d.regs_modPort ..
  · rfl

theorem Dev.regs_snoopUnless (d : Dev) (p : Prop) [Decidable p] (c ln : Nat) (k : SnoopKind) :
    (if p then (d, SnoopAns.none) else d.snoopCore c ln k).1.regs = d.regs := by
  split
  · rfl
  · exact d.regs_snoopCore c ln k

theorem Dev.regs_snoop (d : Dev) (a : Agent) (except : Option Nat) (ln : Nat) (k : SnoopKind) (owner : Bool) :
    (d.snoop a except ln k owner).1.regs = d.regs := by
  unfold Dev.snoop
  cases a with
  | core c =>
    dsimp only
    split
    · rfl
    · exact (Dev.regs_snoopUnless ..).trans (Dev.regs_snoopUnless ..)
  | socket s =>
    dsimp only
    split
    · rfl
    · exact d.regs_snoopAfar ln owner
  | cxl h =>
    dsimp only
    split
    · rfl
    · exact (Dev.regs_snoopAfar ..).trans (Dev.regs_snoopDevice ..)
  | _ => rfl

theorem Dev.regs_seeSnoop (d : Dev) (m : Msg) (a : Agent) (k : SnoopKind) (r : SnoopAns) : (d.seeSnoop m a k r).regs = d.regs := by
  unfold Dev.seeSnoop
  dsimp only
  split
  · rw [Dev.regs_see, Dev.regs_see]
  · split
    · rw [Dev.regs_see, Dev.regs_see]
    · split
      · rw [Dev.regs_see, Dev.regs_see]
      · rw [Dev.regs_see, Dev.regs_see]

theorem Dev.regs_snoopAll (d : Dev) (m : Msg) (ts : List Agent) (except : Option Nat) (k : SnoopKind) (owner : Bool) :
    (d.snoopAll m ts except k owner).1.regs = d.regs := by
  refine Dev.foldl_fst_frame Dev.regs (fun p a => ?_) ts (d, SnoopAns.none)
  exact (Dev.regs_seeSnoop ..).trans (Dev.regs_snoop ..)

theorem Dev.regs_dropDir (d : Dev) (n ln : Nat) : (d.dropDir n ln).regs = d.regs := by
  rw [Dev.dropDir, Dev.regs_modSlice]

/-! ### Write queues and victims -/

theorem Dev.regs_modChan (d : Dev) (n : Nat) (f : ChanSt → ChanSt) : (d.modChan n f).regs = d.regs := Dev.regs_of_cores rfl

theorem Dev.regs_noteHeld (d : Dev) (ch : Nat) : (d.noteHeld ch).regs = d.regs :=
  (Dev.regs_countFld ..).trans (d.regs_modChan ..)

theorem Dev.regs_mcWriteLine (d : Dev) (ch ln : Nat) (x : Line) (be : Word) (key : BitVec 11) (poison : Bool) (cls : Nat) :
    (d.mcWriteLine ch ln x be key poison cls).regs = d.regs := by
  grind [Dev.mcWriteLine, Dev.regs_wait, Dev.regs_modChan, Dev.regs_noteHeld]

theorem Dev.regs_farWrite (d : Dev) (ln : Nat) (x : Line) (be : Word) (poison : Bool) :
    (d.farWrite ln x be poison).regs = d.regs := Dev.regs_of_cores rfl

theorem Dev.regs_memWrite (d : Dev) (ln : Nat) (x : Line) (be : Word) (key : BitVec 11) (poison : Bool) :
    (d.memWrite ln x be key poison).1.regs = d.regs := by
  grind [Dev.memWrite, Dev.regs_wake, Dev.regs_wait, Dev.regs_farPost, Dev.regs_mcWriteLine, Dev.regs_farWrite]

theorem Dev.regs_victimOut (d : Dev) (ln : Nat) (x : Line) (key : BitVec 11) (poison : Bool) : (d.victimOut ln x key poison).regs = d.regs := by
  rw [Dev.victimOut, Dev.regs_memWrite]

theorem Dev.regs_dropLlc (d : Dev) (n ln : Nat) : (d.dropLlc n ln).regs = d.regs := by
  rw [Dev.dropLlc, Dev.regs_modSlice]

theorem Dev.regs_allocLlc (d : Dev) (n set ln cls : Nat) (x : Line) (dirty : Bool) (key : BitVec 11) (poison : Bool) :
    (d.allocLlc n set ln cls x dirty key poison).regs = d.regs := by
  grind [Dev.allocLlc, Dev.regs_modSlice, Dev.regs_victimOut]

theorem Dev.regs_homeEvict (d : Dev) (n set : Nat) (who : Agent) (from_ : Option Nat) (ln : Nat) (key : BitVec 11) (x : Line) (dirty poison : Bool) :
    (d.homeEvict n set who from_ ln key x dirty poison).regs = d.regs := by
  unfold Dev.homeEvict
  rw [Dev.regs_dropDir]
  split
  · exact d.regs_farPost ..
  · split
    · split
      · rw [Dev.regs_victimOut, Dev.regs_dropLlc]
      · rfl
    · exact d.regs_allocLlc ..

/-! ### The memory controller -/

theorem Dev.regs_noteIssue (d : Dev) (ch : Nat) (ready : List Req) (r : Req) : (d.noteIssue ch ready r).regs = d.regs := d.regs_modChan ..

theorem Dev.regs_report (d : Dev) (r : Report) : (d.report r).regs = d.regs := Dev.regs_of_cores rfl

theorem Dev.regs_wire (d : Dev) (source : Nat) : (d.wire source).regs = d.regs := by
  rw [Dev.wire, Dev.regs_report]

theorem Dev.regs_lastUe (d : Dev) (ch kind ln n : Nat) : (d.lastUe ch kind ln n).regs = d.regs := by
  rw [Dev.lastUe, Dev.regs_wire, Dev.regs_setFlds]

theorem Dev.regs_retryClean (d : Dev) (ch : Nat) : (d.retryClean ch).regs = d.regs :=
  (Dev.regs_modChan ..).trans (d.regs_countFld ..)

theorem Dev.regs_lastCe (d : Dev) (ch ln n dev : Nat) (bits : Word) : (d.lastCe ch ln n dev bits).regs = d.regs := by
  rw [Dev.lastCe, Dev.regs_setReg, Dev.regs_setFlds]

theorem Dev.regs_setCeArmed (d : Dev) (ch r : Nat) (v : Bool) : (d.setCeArmed ch r v).regs = d.regs := by
  rw [Dev.setCeArmed, Dev.regs_setReg]

theorem Dev.regs_setCeLevel (d : Dev) (ch r x : Nat) : (d.setCeLevel ch r x).regs = d.regs := by
  rw [Dev.setCeLevel, Dev.regs_setReg]

theorem Dev.regs_bucket (d : Dev) (ch r : Nat) : (d.bucket ch r).regs = d.regs := by
  grind [Dev.bucket, Dev.regs_setReg, Dev.regs_report, Dev.regs_wire, Dev.regs_setCeArmed, Dev.regs_setCeLevel]

theorem Dev.regs_loseLine (d : Dev) (ln : Nat) : (d.loseLine ln).regs = d.regs := Dev.regs_of_cores rfl

theorem Dev.regs_errAt (d : Dev) (bank code unit addr : Nat) : (d.errAt bank code unit addr).regs = d.regs := by
  rw [Dev.errAt, Dev.regs_report]

theorem Dev.regs_checkLine (d : Dev) (ch ln n : Nat) (f : ReadAttempt) : (d.checkLine ch ln n f).1.regs = d.regs := by
  grind [Dev.checkLine, Dev.regs_countFld, Dev.regs_report, Dev.regs_lastUe, Dev.regs_retryClean, Dev.regs_lastCe, Dev.regs_bucket,
    Dev.regs_loseLine, Dev.regs_errAt]

theorem Dev.regs_store (d : Dev) (ln : Nat) (x : Line) (m : LineMeta) : (d.store ln x m).regs = d.regs := Dev.regs_of_cores rfl

theorem Dev.regs_dramPut (d : Dev) (ln : Nat) (x : Line) (key : Nat) (poison : Bool) : (d.dramPut ln x key poison).regs = d.regs := by
  unfold Dev.dramPut
  split
  · exact d.regs_store ..
  · exact d.regs_store ..

theorem Dev.regs_fillLines (d : Dev) (e : FillEntry) (k i : Nat) : (d.fillLines e k i).regs = d.regs := by
  induction k generalizing d i with
  | zero => rfl
  | succ k ih =>
    rw [Dev.fillLines, ih]
    split
    · rfl
    · exact d.regs_dramPut ..

theorem Dev.regs_fillFinish (d : Dev) (ch : Nat) (e : FillEntry) :
    (d.fillFinish ch e).regs = d.regs := (Dev.regs_of_cores (d := (d.fillLines e (64 - e.next) e.next)) rfl).trans (d.regs_fillLines e ..)

theorem Dev.regs_mcPerform (d : Dev) (ch : Nat) (w : WqEntry) : (d.mcPerform ch w).regs = d.regs := by
  grind [Dev.mcPerform, Dev.regs_modChan, Dev.regs_errAt, Dev.regs_store, Dev.regs_dramPut, Dev.regs_fillFinish]

theorem Dev.regs_zTouch (d : Dev) (ch g : Nat) (dirty : Bool) : (d.zTouch ch g dirty).regs = d.regs := by
  grind [Dev.zTouch, Dev.regs_draw, Dev.regs_modChan]

theorem Dev.regs_issueWrite (d : Dev) (ch : Nat) (w : WqEntry) : (d.issueWrite ch w).regs = d.regs := by
  grind [Dev.issueWrite, Dev.regs_modChan, Dev.regs_checkLine, Dev.regs_mcPerform, Dev.regs_zTouch]

theorem Dev.regs_mcReadNow (d : Dev) (ch ln n : Nat) (key : Option (BitVec 11)) (f : ReadAttempt) : (d.mcReadNow ch ln n key f).1.regs = d.regs := by
  grind [Dev.mcReadNow, Dev.regs_countFld, Dev.regs_lastUe, Dev.regs_errAt, Dev.regs_checkLine]

theorem Dev.regs_issueRead (d : Dev) (ch : Nat) (r : RdEntry) : (d.issueRead ch r).1.regs = d.regs :=
  (Dev.regs_modChan ..).trans ((Dev.regs_mcReadNow ..).trans (d.regs_zTouch ..))

theorem Dev.regs_mcStep (d : Dev) (ch : Nat) : (d.mcStep ch).1.regs = d.regs := by
  grind [Dev.mcStep, Dev.regs_modChan, Dev.regs_noteHeld, Dev.regs_noteIssue, Dev.regs_issueWrite, Dev.regs_issueRead]

theorem Dev.regs_makeRoom (d : Dev) : (d.makeRoom ).regs = d.regs := by
  refine Dev.foldl_frame Dev.regs (fun x ch => ?_) _ d
  split
  · rfl
  · exact Dev.foldl_frame Dev.regs (fun y _ => y.regs_mcStep ch) _ x

theorem Dev.regs_mcIssueLine (d : Dev) (ch : Nat) (w : WqEntry) : (d.mcIssueLine ch w).regs = d.regs :=
  (Dev.regs_modChan ..).trans (Dev.ite_regs rfl (d.regs_mcPerform ch w))

theorem Dev.regs_mcFlushLine (d : Dev) (ch ln : Nat) :
    (d.mcFlushLine ch ln).regs = d.regs := Dev.foldl_frame Dev.regs (fun x w => x.regs_mcIssueLine ch w) _ d

theorem Dev.regs_markLost (d : Dev) (ln : Nat) : (d.markLost ln).regs = d.regs := by
  unfold Dev.markLost
  dsimp only
  split
  · next ch _ _ =>
    split
    · rw [Dev.regs_mcWriteLine, Dev.regs_wake, Dev.regs_makeRoom]
    · have hput := ((d.makeRoom.wake (domOfChan ch)).mcFlushLine ch ln).regs_mcPerform ch ⟨ln, 0, fullMask, 0, true, false, 0, 0⟩
      rw [Dev.regs_mcFlushLine, Dev.regs_wake, Dev.regs_makeRoom] at hput
      refine Eq.trans (Dev.regs_of_cores ?_) hput
      rfl
  · exact d.regs_victimOut ..
  · exact Dev.regs_of_cores rfl

theorem Dev.regs_lineLost (d : Dev) (n ln : Nat) : (d.lineLost n ln).regs = d.regs := by
  rw [Dev.lineLost, Dev.regs_countFld, Dev.regs_markLost, Dev.regs_dropLlc]

theorem Dev.regs_errAux (d : Dev) (bank code unit aux : Nat) : (d.errAux bank code unit aux).regs = d.regs := by
  rw [Dev.errAux, Dev.regs_report]

theorem Dev.regs_noteLost (d : Dev) (n : Nat) (e : DirEntry) (r : SnoopAns) : (d.noteLost n e r).regs = d.regs :=
  Dev.ite_regs (d.regs_lineLost ..) (Dev.ite_regs ((Dev.regs_errAux ..).trans (d.regs_lineLost ..)) rfl)

theorem Dev.regs_mcUntil (ch seq n : Nat) (d : Dev) : (Dev.mcUntil ch seq n d).1.regs = d.regs := by
  induction n generalizing d with
  | zero => exact d.regs_wait
  | succ n ih =>
    have hstep := d.regs_mcStep ch
    rw [Dev.mcUntil]
    split
    · next hs =>
      rw [hs] at hstep
      split
      · exact hstep
      · exact (ih _).trans hstep
    · next hs =>
      rw [hs] at hstep
      exact (ih _).trans hstep

theorem Dev.regs_addRead (d : Dev) (ch ln : Nat) (key : Option (BitVec 11)) (f : ReadAttempt) (cls : Nat) :
    (d.addRead ch ln key f cls).regs = d.regs := by
  rw [Dev.addRead, Dev.regs_modChan]

theorem Dev.regs_mcReadLine (d : Dev) (ch ln : Nat) (key : BitVec 11) (cls : Nat) : (d.mcReadLine ch ln key cls).1.regs = d.regs := by
  grind [Dev.mcReadLine, Dev.regs_wait, Dev.regs_modChan, Dev.regs_mcUntil, Dev.regs_addRead]

theorem Dev.regs_memRead (d : Dev) (ln : Nat) (key : BitVec 11) (cls : Nat) : (d.memRead ln key cls).1.regs = d.regs := by
  grind [Dev.memRead, Dev.regs_wake, Dev.regs_wait, Dev.regs_mcReadLine]

/-! ### Homes -/

theorem Dev.regs_homeData (d : Dev) (n ln : Nat) (key : BitVec 11) (cls : Nat) : (d.homeData n ln key cls).1.regs = d.regs := by
  unfold Dev.homeData
  split
  · rfl
  · exact d.regs_memRead ..

theorem Dev.regs_backInvalidate (d : Dev) (n : Nat) (e : DirEntry) : (d.backInvalidate n e).regs = d.regs := by
  have hsnoop : (e.holders.foldl (fun (p : Dev × SnoopAns) a => ((p.1.snoop a none e.line .inval e.excl).1,
      p.2.and (p.1.snoop a none e.line .inval e.excl).2)) (d, SnoopAns.none)).1.regs = d.regs :=
    Dev.foldl_fst_frame Dev.regs (f := fun (p : Dev × SnoopAns) a => ((p.1.snoop a none e.line .inval e.excl).1,
      p.2.and (p.1.snoop a none e.line .inval e.excl).2)) (fun p a => p.1.regs_snoop a none e.line .inval e.excl) e.holders (d, SnoopAns.none)
  unfold Dev.backInvalidate
  dsimp only
  rw [Dev.regs_dropDir, Dev.regs_dropLlc, Dev.regs_noteLost]
  refine Eq.trans ?_ hsnoop
  split
  · exact Dev.regs_victimOut ..
  · split
    · split
      · exact Dev.regs_victimOut ..
      · rfl
    · split
      · split
        · exact Dev.regs_farPost ..
        · rfl
      · rfl

theorem Dev.regs_dirRoom (d : Dev) (n set : Nat) : (d.dirRoom n set).regs = d.regs := by
  grind [Dev.dirRoom, Dev.regs_countFld, Dev.regs_modSlice, Dev.regs_backInvalidate]

theorem Dev.regs_ownerData (d : Dev) (n ln : Nat) (key : BitVec 11) (cls : Nat) (r : SnoopAns) : (d.ownerData n ln key cls r).1.regs = d.regs := by
  unfold Dev.ownerData
  split
  · rfl
  · exact d.regs_homeData ..

theorem Dev.regs_nearFinish (d : Dev) (n set : Nat) (opc : Opc) (who : Agent) (ln : Nat) (key : BitVec 11) (x : Line) (be : Word)
    (poison : Bool) (r : SnoopAns) :
    (d.nearFinish n set opc who ln key x be poison r).1.regs = d.regs := by
  unfold Dev.nearFinish
  cases opc with
  | rds => grind [Dev.regs_setDir, Dev.regs_dropDir, Dev.regs_allocLlc, Dev.regs_homeData, Dev.regs_dirRoom]
  | rdo => grind [Dev.regs_setDir, Dev.regs_dropLlc, Dev.regs_dirRoom, Dev.regs_ownerData]
  | upg => grind [Dev.regs_setDir, Dev.regs_dropLlc, Dev.regs_dirRoom, Dev.regs_ownerData]
  | rdna => exact d.regs_ownerData ..
  | iow => grind [Dev.regs_dropLlc, Dev.regs_dropDir, Dev.regs_memWrite]
  | _ => rfl

theorem Dev.regs_farGet (d : Dev) (o : Opc) (m : Msg) : (d.farGet o m).1.regs = d.regs := by
  unfold Dev.farGet
  dsimp only
  split
  · exact d.regs_setFabric _
  · exact d.regs_setFabric _

theorem Dev.regs_farFinish (d : Dev) (n set : Nat) (opc : Opc) (who : Agent) (ln : Nat) (key : BitVec 11) (x : Line) (be : Word) (poison : Bool)
    (r : SnoopAns) :
    (d.farFinish n set opc who ln key x be poison r).1.regs = d.regs := by
  grind [Dev.farFinish, Dev.regs_farPost, Dev.regs_setDir, Dev.regs_dropDir, Dev.regs_farGet]

theorem Dev.regs_homeFinish (d : Dev) (n set : Nat) (opc : Opc) (who : Agent) (ln : Nat) (key : BitVec 11) (x : Line) (be : Word)
    (poison : Bool) (r : SnoopAns) :
    (d.homeFinish n set opc who ln key x be poison r).1.regs = d.regs := by
  unfold Dev.homeFinish
  dsimp only
  split
  · split
    · exact d.regs_dropDir n ln
    · rfl
  · split
    · exact d.regs_homeEvict ..
    · exact d.regs_homeEvict ..
    · split
      · refine (Dev.regs_nearFinish ..).trans ?_
        split
        · exact d.regs_noteLost ..
        · rfl
      · split
        · refine (Dev.regs_dropDir ..).trans ?_
          split
          · exact d.regs_noteLost ..
          · rfl
        · refine (Dev.regs_farFinish ..).trans ?_
          split
          · exact d.regs_noteLost ..
          · rfl

theorem Dev.regs_homeServe (d : Dev) (opc : Opc) (who : Agent) (ln : Nat) (key : BitVec 11) (x : Line) (be : Word) (poison : Bool) :
    (d.homeServe opc who ln key x be poison).1.regs = d.regs := by
  have hreach := d.regs_reach opc { d.packetTo who (ln * 64) key be 0 x poison with dst := sliceNode (d.home ln).1 }
  unfold Dev.homeServe
  dsimp only
  split
  · next h =>
    rw [h] at hreach
    exact hreach
  · next h =>
    rw [h] at hreach
    refine Eq.trans ?_ hreach
    rw [Dev.regs_seeBack, Dev.regs_homeFinish, Dev.regs_snoopAll]
    split
    · exact Dev.regs_wait _
    · exact Dev.regs_wake ..

/-! ### A core's L2 and its stores -/

theorem Dev.regs_evictL2 (d : Dev) (c : Nat) (e : L2Line) : (d.evictL2 c e).regs = d.regs := by
  unfold Dev.evictL2
  dsimp only
  split
  · rw [Dev.regs_keepBit, Dev.regs_homeServe, Dev.regs_modCore _ _ rfl rfl]
  · rw [Dev.regs_keepBit, Dev.regs_homeServe, Dev.regs_modCore _ _ rfl rfl]
  · exact Dev.regs_modCore _ _ rfl rfl

theorem Dev.regs_fillL2 (d : Dev) (c : Nat) (e : L2Line) : (d.fillL2 c e).regs = d.regs := by
  unfold Dev.fillL2
  dsimp only
  rw [Dev.regs_modCore _ _ rfl rfl]
  split
  · rfl
  · split
    · exact (Dev.regs_evictL2 ..).trans d.regs_draw
    · exact d.regs_draw

theorem Dev.regs_l2Own (d : Dev) (c ln : Nat) (key : BitVec 11) : (d.l2Own c ln key).1.regs = d.regs := by
  grind [Dev.l2Own, Dev.regs_homeServe, Dev.regs_fillL2]

theorem Dev.regs_noteOutside (d : Dev) (except : Option Nat) (ln : Nat) : (d.noteOutside except ln).regs = d.regs := Dev.regs_of_cores rfl

theorem Dev.regs_l2Write (d : Dev) (c ln : Nat) (x : Line) (be : Word) (key : BitVec 11) : (d.l2Write c ln x be key).1.regs = d.regs := by
  grind [Dev.l2Write, Dev.regs_modCore, Dev.regs_l2Own, Dev.regs_noteOutside]

theorem Dev.regs_storeLine (d : Dev) (c pa : Nat) (l : List Byte) (key : BitVec 11) : (d.storeLine c pa l key).1.regs = d.regs := by
  grind [Dev.storeLine, Dev.regs_spadSave, Dev.regs_farSave, Dev.regs_l2Write]

theorem Dev.regs_performStore (d : Dev) (c : Nat) (e : StoreEntry) : (d.performStore c e).regs = d.regs := by
  grind [Dev.performStore, Dev.regs_report, Dev.regs_storeLine]

/-! ### Frames and speculative lines -/

theorem Dev.regs_voidSlot (d : Dev) (s : Nat) : (d.voidSlot s).regs = d.regs := by
  rw [Dev.voidSlot, Dev.regs_setFld]

theorem Dev.regs_noteMember (d : Dev) (c n : Nat) : (d.noteMember c n).regs = d.regs := by
  unfold Dev.noteMember
  split
  · exact (Dev.regs_voidSlot ..).trans (d.regs_countFld ..)
  · rfl

theorem Dev.regs_modMember (d : Dev) (c : Nat) (f : Member → Member) : (d.modMember c f).regs = d.regs := Dev.regs_modCore d c rfl rfl

theorem Dev.regs_specAcquire (d : Dev) (c ln : Nat) (key : BitVec 11) : (d.specAcquire c ln key).1.regs = d.regs := by
  grind [Dev.specAcquire, Dev.regs_modCore, Dev.regs_allocLlc, Dev.regs_l2Own]

theorem Dev.regs_specPut (d : Dev) (c pa : Nat) (b : List Byte) (key : BitVec 11) : (d.specPut c pa b key).1.regs = d.regs := by
  grind [Dev.specPut, Dev.regs_modMember, Dev.regs_specAcquire]

theorem Dev.regs_pushLine (d : Dev) (c pa : Nat) (b : List Byte) : (d.pushLine c pa b).1.regs = d.regs := by
  grind [Dev.pushLine, Dev.regs_spadSave, Dev.regs_farSave, Dev.regs_l2Write, Dev.regs_noteMember, Dev.regs_specPut]

theorem Dev.regs_pushLines (d : Dev) (c n pa : Nat) (b : List Byte) : (d.pushLines c n pa b).1.regs = d.regs := by
  induction n generalizing d pa b with
  | zero => rfl
  | succ n ih =>
    have hline := d.regs_pushLine c pa (b.take 64)
    rw [Dev.pushLines]
    split
    · next hl => rwa [hl] at hline
    · next hl =>
      rw [hl] at hline
      exact (ih ..).trans hline

end Sys2Proof.Machine
/-! Prover's part. Entering a handler, and the barriers. -/

namespace Sys2Proof.Machine

/-! ### Performing the stores that wait (R54, R57) -/

theorem Dev.regs_drainStores (d : Dev) (c : Nat) : (d.drainStores c).regs = (d.emptied c).regs :=
  Dev.foldl_frame Dev.regs (fun x e => x.regs_performStore c e) (d.core c).storeBuf (d.emptied c)

theorem Dev.arch_of_regs {d e : Dev} (h : e.regs = d.regs) (k : Nat) : e.arch k = d.arch k := congrArg Prod.fst (congrFun h k)

theorem Dev.storeBuf_of_regs {d e : Dev} (h : e.regs = d.regs) (k : Nat) : (e.core k).storeBuf = (d.core k).storeBuf :=
  congrArg Prod.snd (congrFun h k)

theorem Dev.arch_emptied (d : Dev) (c k : Nat) : (d.emptied c).arch k = d.arch k := by
  by_cases h : k = c
  · subst h
    rw [Dev.arch, Dev.core_emptied_self, Dev.arch]
  · rw [Dev.arch, Dev.core_emptied_other d h, Dev.arch]

theorem Dev.arch_drainStores (d : Dev) (c k : Nat) : (d.drainStores c).arch k = d.arch k :=
  (Dev.arch_of_regs (d.regs_drainStores c) k).trans (d.arch_emptied c k)

theorem Dev.storeBuf_drainStores (d : Dev) (c : Nat) : ((d.drainStores c).core c).storeBuf = [] := by
  rw [Dev.storeBuf_of_regs (d.regs_drainStores c), Dev.core_emptied_self]

/-! ### Entering a handler (R43, R45) -/

theorem Dev.arch_of_pushLines {d d1 : Dev} {c n pa : Nat} {b : List Byte} {stop : Bool}
    (h : (d.drainStores c).pushLines c n pa b = (d1, stop)) (k : Nat) : d1.arch k = d.arch k := by
  have hpush := Dev.arch_of_regs ((d.drainStores c).regs_pushLines c n pa b) k
  rw [h] at hpush
  exact hpush.trans (d.arch_drainStores c k)

/-- Settles O21: neither the stores that wait nor the frame's touch a register. -/
theorem trapEntry : Obligations.TrapEntry := by
  unfold Obligations.TrapEntry
  intro d c t q r e _ h
  unfold Dev.enter at h
  dsimp only at h
  split at h
  · simp at h
  · next d1 hpush =>
    have harch := Dev.arch_of_pushLines hpush
    obtain ⟨rfl, -⟩ := Prod.mk.inj h
    refine ⟨?_, fun k hk => ?_⟩
    · rw [← harch c, Dev.arch, Dev.core_modCore_self]
      rfl
    · rw [Dev.arch, Dev.core_modCore_other _ _ hk, ← harch k, Dev.arch]

/-! ### Fences (R57, R85 to R87) -/

/-- A fence performs the stores that wait. -/
theorem fence_runsAs {i : Instr} {x : Ctx} (h : i = .fence x ∨ i = .fenceIo x ∨ i = .sbar x) : RunsAs i x (fenceWork x) := by
  rcases h with rfl | rfl | rfl
  · exact fun _ => rfl
  · exact fun _ => rfl
  · exact fun _ => rfl

theorem RunsAs.does_fence {i : Instr} {x : Ctx} {s : State} {e : Dev} {t : Trans} (hr : RunsAs i x (fenceWork x)) (h : Executes s x i e t) :
    Does i s ((e.drainStores x.core.val).retire x.core.val t.pa (s.pc x + 4)) :=
  hr.does_next h rfl (Or.inl rfl) rfl rfl rfl

/-- An empty store buffer is left as it is. -/
theorem Dev.onlyCore_drainStores {d : Dev} {c : Nat} (h : (d.core c).storeBuf = []) : d.OnlyCore (d.drainStores c) c (d.core c) := by
  have honly := d.onlyCore_modCore c fun k => { k with storeBuf := [] }
  rw [← Dev.drainStores_nil h] at honly
  have hcore : { d.core c with storeBuf := [] } = d.core c := by rw [← h]
  rwa [hcore] at honly

/-! ### STBND (R96, R206) -/

theorem stbnd_does {x : Ctx} {s : State} {e : Dev} {t : Trans} (h : Executes s x (.stbnd x) e t) :
    Does (.stbnd x) s (e.finish x.core.val t.pa (s.pc x) ((Instr.stbnd x).encode.getD 0) .endStitch) :=
  RunsAs.does_sysWork (body := fun d => (d, .endStitch)) (fun _ => rfl) h rfl

/-- A member that is not ended keeps the cause of its stitch's end where STBND meets it outside a stitch. -/
theorem member_cause_kept {o : Option Member} (h : ∀ m, o = some m → m.phase ≠ .ended) :
    o.map (fun m => { m with cause := if m.phase == .ended then .stbnd else m.cause }) = o := by
  cases o with
  | none => rfl
  | some m =>
    have hp : (m.phase == MemberPhase.ended) = false := by simpa using h m rfl
    rw [Option.map_some, hp]
    rfl

theorem stbnd_outside {x : Ctx} {s : State} {e : Dev} {t : Trans} (h : Executes s x (.stbnd x) e t) (hs : e.stitching x.core.val = none)
    (hm : ∀ m, (e.core x.core.val).member = some m → m.phase ≠ .ended) :
    ∃ d : Dev, e.OnlyCore d x.core.val { e.core x.core.val with
      arch := { e.arch x.core.val with pc := s.pc x + 4 }, routine := none, replays := 0 } ∧ Completes (.stbnd x) s d := by
  have honly := e.onlyCore_modCore x.core.val fun k => { k with arch := { k.arch with pc := s.pc x + 4 }, routine := none, replays := 0 }
  rw [← Dev.retire_outside t.pa (s.pc x + 4) hs] at honly
  have hout : (e.retire x.core.val t.pa (s.pc x + 4)).stitching x.core.val = none := by
    rw [Dev.stitching, honly.1]
    exact hs
  have hmember := honly.modCore fun k => { k with member := k.member.map fun m => { m with cause := if m.phase == .ended then .stbnd else m.cause } }
  dsimp only at hmember
  rw [member_cause_kept hm] at hmember
  have hdoes := stbnd_does h
  unfold Dev.finish at hdoes
  simp only [hout, Option.isSome_none, Bool.false_eq_true, if_false] at hdoes
  exact ⟨_, hmember, by rw [hmember.fabric_eq, h.fetches.free], hdoes⟩

/-- In a stitch, retirement counts one instruction more, and may end the stitch (R206). -/
theorem Dev.member_retire {d : Dev} {c : Nat} {m : Member} (fetched : Nat) (next : Word) (h : d.stitching c = some m) :
    ∃ n, ((d.retire c fetched next).core c).member = some n ∧ (n.phase = .running ∨ n.phase = .ended) ∧ n.count = m.count + 1 := by
  have h1 : (d.modCore c fun k => { k with arch := { k.arch with pc := next }, routine := none, replays := 0 }).stitching c = some m := by
    rw [Dev.stitching, Dev.core_modCore_self]
    exact h
  obtain ⟨hm, hp⟩ := Dev.member_of_stitching h1
  unfold Dev.retire
  dsimp only
  rw [h1]
  dsimp only
  generalize (d.modCore c fun k => { k with arch := { k.arch with pc := next }, routine := none, replays := 0 }) = d1 at hm
  have hcounted : ((d1.modMember c fun m => { m with count := m.count + 1, fetchSig := m.fetchSig ||| sigBits (fetched / 64) }).core c).member =
      some { m with count := m.count + 1, fetchSig := m.fetchSig ||| sigBits (fetched / 64) } := by
    rw [Dev.modMember_member, hm, Option.map_some]
  split
  · exact ⟨_, hcounted, Or.inl hp, rfl⟩
  · split
    · exact ⟨_, by rw [Dev.endStitch, Dev.modMember_member, hcounted, Option.map_some], Or.inr rfl, rfl⟩
    · exact ⟨_, hcounted, Or.inl hp, rfl⟩

theorem stbnd_inside {x : Ctx} {s : State} {e : Dev} {t : Trans} {m : Member} (h : Executes s x (.stbnd x) e t)
    (hs : e.stitching x.core.val = some m) :
    Leaves (.stbnd x) s fun d => ∃ n, (d.core x.core.val).member = some n ∧ n.phase = .ended ∧ n.cause = .stbnd ∧ n.count = m.count + 1 := by
  obtain ⟨n, hn, hphase, hcount⟩ := Dev.member_retire t.pa (s.pc x + 4) hs
  have hdoes := stbnd_does h
  unfold Dev.finish at hdoes
  dsimp only at hdoes
  split at hdoes
  · refine ⟨_, ⟨by simp [h.fetches.free], hdoes⟩, { n with phase := .ended, cause := .stbnd, replaying := false }, ?_, rfl, rfl, hcount⟩
    rw [Dev.endStitch, Dev.modMember_member, hn, Option.map_some]
  · next hout =>
    have hended : n.phase = .ended := hphase.resolve_left fun hp => hout (by rw [Dev.stitching, hn]; simp [hp])
    refine ⟨_, ⟨by simp [h.fetches.free], hdoes⟩, { n with cause := .stbnd }, ?_, hended, rfl, hcount⟩
    rw [Dev.modMember_member, hn, Option.map_some, hended]
    rfl

/-! ### PBAR and PFLUSH (R85, R86) -/

/-- The predictor entries that a PFLUSH leaves. -/
def Dev.predKept (d : Dev) (c : Nat) (ra : RegNo) (k : Nat) : List PredEntry :=
  (d.core c).pred.filter fun p => !(predSelected k p.table &&
    (if atLeast .h (d.arch c) then ra == 0 || p.tenant == ((d.arch c).getG ra).truncate 16
     else p.tenant == d.fetchTenant c && p.level.le (d.arch c).pl))

theorem Dev.mem_predKept (d : Dev) (c : Nat) (ra : RegNo) (k : Nat) (p : PredEntry) :
    p ∈ d.predKept c ra k ↔ p ∈ (d.core c).pred ∧ ¬ (predSelected k p.table = true ∧
      (if Level.le .h (d.arch c).pl then ra = 0 ∨ p.tenant = ((d.arch c).getG ra).truncate 16
       else p.tenant = d.fetchTenant c ∧ Level.le p.level (d.arch c).pl = true)) := by
  rw [Dev.predKept, List.mem_filter, Bool.not_eq_true', ← Bool.not_eq_true, Bool.and_eq_true, atLeast]
  split
  · rw [Bool.or_eq_true, beq_iff_eq, beq_iff_eq]
  · rw [Bool.and_eq_true, beq_iff_eq]

theorem pflush_completes {x : Ctx} {ra : RegNo} {k : BitVec 10} {s : State} {e : Dev} {t : Trans} (h : Executes s x (.pflush x ra k) e t) :
    Completes (.pflush x ra k) s ((e.modCore x.core.val fun q => { q with pred := e.predKept x.core.val ra k.toNat, history := [], retStack := [] }).retire
      x.core.val t.pa (s.pc x + 4)) := by
  have hr : RunsAs (.pflush x ra k) x (sysWork fun d => (d.pflush x.core.val ra k.toNat, .next)) := fun _ => rfl
  exact ⟨by rw [Dev.fabric_retire, Dev.fabric_modCore, h.fetches.free], hr.does_next h rfl (Or.inl rfl) rfl rfl rfl⟩

theorem pbar_completes {x : Ctx} {s : State} {e : Dev} {t : Trans} (h : Executes s x (.pbar x) e t) :
    Completes (.pbar x) s ((e.modCore x.core.val Core.pbar).retire x.core.val t.pa (s.pc x + 4)) := by
  have hr : RunsAs (.pbar x) x (sysWork fun d => (d.modCore x.core.val Core.pbar, .next)) := fun _ => rfl
  exact ⟨by rw [Dev.fabric_retire, Dev.fabric_modCore, h.fetches.free], hr.does_next h rfl (Or.inl rfl) rfl rfl rfl⟩

/-- Settles O25. -/
theorem barriers : Obligations.Barriers := by
  unfold Obligations.Barriers
  refine ⟨fun i x s e t hi h => ⟨(fence_runsAs hi).does_fence h, fun hbuf => ?_⟩, fun x s e t h => ⟨stbnd_outside h, fun m => stbnd_inside h⟩,
    fun x s e t h => pbar_completes h, fun x ra k s e t h => ⟨_, pflush_completes h, e.mem_predKept x.core.val ra k.toNat⟩,
    fun d c => ⟨d.storeBuf_drainStores c, d.arch_drainStores c c⟩⟩
  have honly := Dev.onlyCore_drainStores hbuf
  exact ⟨_, honly, by rw [Dev.fabric_retire, honly.fabric_eq, h.fetches.free], (fence_runsAs hi).does_fence h⟩

end Sys2Proof.Machine

/-! Prover's part. Results of the two-operand integer instructions and of the bit counts. -/

namespace Sys2Proof.Machine

/-! ### Shift amounts (R66) -/

theorem toNat_and_63 (b : Word) : (b &&& 63).toNat = amt b := Nat.and_two_pow_sub_one_eq_mod b.toNat 6
theorem toNat_and_31 (b : Word32) : (b &&& 31).toNat = amt32 b := Nat.and_two_pow_sub_one_eq_mod b.toNat 5

theorem shiftLeft_and_63 (a b : Word) : a <<< (b &&& 63) = a <<< amt b := by rw [BitVec.shiftLeft_eq', toNat_and_63]
theorem ushiftRight_and_63 (a b : Word) : a >>> (b &&& 63) = a >>> amt b := by rw [BitVec.ushiftRight_eq', toNat_and_63]
theorem shiftLeft_and_31 (a b : Word32) : a <<< (b &&& 31) = a <<< amt32 b := by rw [BitVec.shiftLeft_eq', toNat_and_31]
theorem ushiftRight_and_31 (a b : Word32) : a >>> (b &&& 31) = a >>> amt32 b := by rw [BitVec.ushiftRight_eq', toNat_and_31]

/-! ### Products and quotients over words (R66, R67) -/

/-- The high half of a product is the same whether the product is taken as a number or in 128 bits. -/
theorem mulhOf_eq (a b : Word) : mulhOf a b = ((a.signExtend 128 * b.signExtend 128) >>> 64).setWidth 64 := by
  have hprod : a.signExtend 128 * b.signExtend 128 = BitVec.ofInt 128 (a.toInt * b.toInt) := (BitVec.ofInt_mul ..).symm
  rw [hprod, mulhOf]
  generalize a.toInt * b.toInt = p
  apply BitVec.eq_of_toNat_eq
  simp only [BitVec.toNat_ofInt, BitVec.toNat_setWidth, BitVec.toNat_ushiftRight, Nat.shiftRight_eq_div_pow]
  omega

theorem mulhuOf_eq (a b : Word) : mulhuOf a b = ((a.setWidth 128 * b.setWidth 128) >>> 64).setWidth 64 := by
  have ha : a.toNat % 2 ^ 128 = a.toNat := Nat.mod_eq_of_lt (by have := a.isLt; omega)
  have hb : b.toNat % 2 ^ 128 = b.toNat := Nat.mod_eq_of_lt (by have := b.isLt; omega)
  apply BitVec.eq_of_toNat_eq
  simp only [mulhuOf, BitVec.toNat_ofNat, BitVec.toNat_setWidth, BitVec.toNat_ushiftRight, Nat.shiftRight_eq_div_pow, BitVec.toNat_mul, ha, hb]
  omega

theorem divOf_eq (a b : Word) : divOf a b = if b = 0 then BitVec.allOnes 64 else a.sdiv b := by
  have h : BitVec.ofInt 64 (a.toInt.tdiv b.toInt) = a.sdiv b := BitVec.eq_of_toInt_eq (by rw [BitVec.toInt_ofInt, BitVec.toInt_sdiv])
  rw [divOf, h]

theorem remOf_eq (a b : Word) : remOf a b = if b = 0 then a else a.srem b := by
  rw [remOf, ← BitVec.toInt_srem, BitVec.ofInt_toInt]

theorem divuOf_eq (a b : Word) : divuOf a b = if b = 0 then BitVec.allOnes 64 else a / b := by
  rw [divuOf, BitVec.udiv_def]

theorem remuOf_eq (a b : Word) : remuOf a b = if b = 0 then a else a % b := by
  rw [remuOf, BitVec.umod_def]

/-- A quotient that fits truncates toward zero. -/
theorem toInt_divOf {a b : Word} (hb : b ≠ 0) (h : ¬ (a = BitVec.intMin 64 ∧ b = BitVec.allOnes 64)) : (divOf a b).toInt = a.toInt.tdiv b.toInt := by
  rw [divOf_eq, if_neg hb]
  exact BitVec.toInt_sdiv_of_ne_or_ne a b (not_and_or.mp h)

/-- A remainder has its dividend's sign. -/
theorem toInt_remOf {a b : Word} (hb : b ≠ 0) : (remOf a b).toInt = a.toInt - b.toInt * a.toInt.tdiv b.toInt := by
  rw [remOf_eq, if_neg hb, BitVec.toInt_srem, Int.tmod_def]

/-! ### Results of the two-operand integer instructions (R66, R67) -/

/-- The instructions of `twoOperand` write their value to rd and nothing else. -/
theorem twoOperand_runsAs {i : Instr} {x : Ctx} {o : OpsR} {f : Word → Word → Word} (h : twoOperand i = some (x, o, f)) :
    RunsAs i x (aluWork x o f) := by
  cases i
  all_goals simp only [twoOperand, Option.some.injEq, Prod.mk.injEq, reduceCtorEq] at h
  all_goals obtain ⟨rfl, rfl, rfl⟩ := h
  case add | sub | and | or | xor | andn | min | max | minu | maxu | addw | subw | mul => exact fun _ => rfl
  case sll | srl => simp only [shiftLeft_and_63, ushiftRight_and_63]; exact fun _ => rfl
  case sra | ror => simp only [toNat_and_63]; exact fun _ => rfl
  case sllw | srlw | sraw => simp only [shiftLeft_and_31, ushiftRight_and_31, toNat_and_31]; exact fun _ => rfl
  case mulh | mulhu => simp only [← mulhOf_eq, ← mulhuOf_eq]; exact fun _ => rfl
  case div | divu => simp only [← divOf_eq, ← divuOf_eq]; exact fun _ => rfl
  case rem | remu => simp only [← remOf_eq, ← remuOf_eq]; exact fun _ => rfl

/-- Settles O9: the model's functions of integers are the statement's of words, and each instruction writes its function to rd. -/
theorem integerResults : Obligations.IntegerResults := by
  unfold Obligations.IntegerResults
  refine ⟨fun i x o f s e t hi h => (twoOperand_runsAs hi).registersBecome h,
    fun a b hb h => ⟨toInt_divOf hb h, toInt_remOf hb⟩, by decide, by decide, fun a => ⟨rfl, rfl, rfl, rfl⟩⟩

/-! ### Bit counts (R66) -/

/-- The first of `m` numbers that has a property, `m` where none has. -/
theorem find_range_first (p : Nat → Bool) (m : Nat) :
    ((List.range m).find? p).getD m ≤ m ∧ (∀ i, i < ((List.range m).find? p).getD m → p i = false) ∧
      (((List.range m).find? p).getD m < m → p (((List.range m).find? p).getD m) = true) := by
  cases h : (List.range m).find? p with
  | none =>
    rw [List.find?_range_eq_none] at h
    exact ⟨le_refl m, fun i hi => by simpa using h i hi, fun hm => absurd hm (lt_irrefl m)⟩
  | some n =>
    obtain ⟨hn, hm, hbefore⟩ := List.find?_range_eq_some.mp h
    exact ⟨(List.mem_range.mp hm).le, fun i hi => by simpa using hbefore i hi, fun _ => hn⟩

theorem leadingZeros_clzOf (a : Word) : leadingZeros a (clzOf a) := find_range_first (fun i => a.getLsbD (63 - i)) 64
theorem trailingZeros_ctzOf (a : Word) : trailingZeros a (ctzOf a) := find_range_first (fun i => a.getLsbD i) 64

theorem length_filter_eq_bitSum (a : Word) (n : Nat) : ((List.range n).filter fun i => a.getLsbD i).length = bitSum a n := by
  induction n with
  | zero => rfl
  | succ n ih =>
    rw [List.range_succ, List.filter_append, List.length_append, ih, bitSum]
    cases h : a.getLsbD n <;> simp [h]

/-- An instruction that writes a function of rs1 to rd. -/
theorem RunsAs.registersBecome_unary {i : Instr} {x : Ctx} {rd rs1 : RegNo} {f : Word → Word} {s : State} {e : Dev} {t : Trans}
    (hr : RunsAs i x (unaryWork x rd rs1 f)) (h : Executes s x i e t) :
    RegistersBecome s x i e t fun a => a.setG rd (f ((e.arch x.core.val).getG rs1)) := by
  have hregs := RunsAs.registersBecome hr h
  rw [RegistersBecome] at hregs ⊢
  exact hregs

theorem clz_runsAs (x : Ctx) (rd rs1 : RegNo) : RunsAs (.clz x rd rs1) x (unaryWork x rd rs1 fun a => BitVec.ofNat 64 (clzOf a)) := fun _ => rfl
theorem ctz_runsAs (x : Ctx) (rd rs1 : RegNo) : RunsAs (.ctz x rd rs1) x (unaryWork x rd rs1 fun a => BitVec.ofNat 64 (ctzOf a)) := fun _ => rfl
theorem popc_runsAs (x : Ctx) (rd rs1 : RegNo) : RunsAs (.popc x rd rs1) x (unaryWork x rd rs1 fun a => BitVec.ofNat 64 (bitSum a 64)) := fun s => by
  simp only [← length_filter_eq_bitSum]
  rfl

/-- Settles O10. -/
theorem bitCounts : Obligations.BitCounts := by
  unfold Obligations.BitCounts
  exact fun x rd rs1 s e t => ⟨fun h => ⟨_, leadingZeros_clzOf _, (clz_runsAs x rd rs1).registersBecome_unary h⟩,
    fun h => ⟨_, trailingZeros_ctzOf _, (ctz_runsAs x rd rs1).registersBecome_unary h⟩, fun h => RunsAs.registersBecome (popc_runsAs x rd rs1) h⟩

end Sys2Proof.Machine

/-! Prover's part. Reads of lines that a core's L2 holds, and the loads. -/

namespace Sys2Proof.Machine

/-! ### One core written -/

namespace Dev.OnlyCore
variable {d e : Dev} {c : Nat} {k : Core}

theorem arch_eq (h : e.OnlyCore d c k) : d.arch c = k.arch := by
  obtain ⟨hk, -, -⟩ := h
  rw [Dev.arch, hk]

theorem mem_eq (h : e.OnlyCore d c k) : d.mem = e.mem := by
  obtain ⟨-, -, hd⟩ := h
  rw [hd]

theorem csr_eq (h : e.OnlyCore d c k) : d.csr = e.csr := by
  obtain ⟨-, -, hd⟩ := h
  rw [hd]

theorem core_other (h : e.OnlyCore d c k) : ∀ j, j ≠ c → d.core j = e.core j := by
  obtain ⟨-, hother, -⟩ := h
  exact hother

theorem modArch (h : e.OnlyCore d c k) (f : Arch → Arch) : e.OnlyCore (d.modArch c f) c { k with arch := f k.arch } :=
  h.modCore fun q => { q with arch := f q.arch }

/-- Outside a stitch a retirement writes its own core alone. -/
theorem retire_outside (h : e.OnlyCore d c k) (fetched : Nat) (next : Word) (hm : k.member = (e.core c).member) (hs : e.stitching c = none) :
    e.OnlyCore (d.retire c fetched next) c (k.returned k.arch next none) := by
  obtain ⟨hk, -, -⟩ := id h
  have hout : d.stitching c = none := by
    rw [Dev.stitching, hk, hm]
    exact hs
  rw [Dev.retire_outside fetched next hout]
  exact h.modCore fun k => { k with arch := { k.arch with pc := next }, routine := none, replays := 0 }

end Dev.OnlyCore

/-! ### A core that reads lines of its L2 -/

/-- The core with another L1D and another latest load. -/
def Core.read (k : Core) (l : List Nat) (a : Option Word) : Core := { k with l1d := l, lastLoad := a }

/-- Core `c` has read lines that its L2 holds: its L1D and the address of its latest load differ, and nothing else of the device. -/
def Dev.ReadBy (e d : Dev) (c : Nat) : Prop := ∃ (l : List Nat) (a : Option Word), e.OnlyCore d c ((e.core c).read l a)

namespace Dev.ReadBy
variable {e d : Dev} {c : Nat}

theorem refl (e : Dev) (c : Nat) : e.ReadBy e c := ⟨(e.core c).l1d, (e.core c).lastLoad, rfl, fun _ _ => rfl, rfl⟩

theorem fillL1 (h : e.ReadBy d c) (ln : Nat) : e.ReadBy (d.fillL1 c ln false) c := by
  obtain ⟨l, a, honly⟩ := h
  rw [Dev.fillL1]
  split
  · exact ⟨l, a, honly⟩
  · exact ⟨_, a, honly.modCore fun k => if false = true then { k with l1i := l1Put 256 4 d.freeCtr ln k.l1i }
      else { k with l1d := l1Put 128 8 d.freeCtr ln k.l1d }⟩

theorem setLastLoad (h : e.ReadBy d c) (a : Option Word) : e.ReadBy (d.modCore c fun k => { k with lastLoad := a }) c := by
  obtain ⟨l, b, honly⟩ := h
  exact ⟨l, a, honly.modCore fun k => { k with lastLoad := a }⟩

theorem arch_eq (h : e.ReadBy d c) : d.arch c = e.arch c := by
  obtain ⟨l, a, hk, -, -⟩ := h
  rw [Dev.arch, hk]
  rfl

theorem stitching_eq (h : e.ReadBy d c) : d.stitching c = e.stitching c := by
  obtain ⟨l, a, hk, -, -⟩ := h
  rw [Dev.stitching, hk]
  rfl

theorem storeBuf_eq (h : e.ReadBy d c) : (d.core c).storeBuf = (e.core c).storeBuf := by
  obtain ⟨l, a, hk, -, -⟩ := h
  rw [hk]
  rfl

theorem l2Line_eq (h : e.ReadBy d c) (ln : Nat) : (d.core c).l2Line ln = (e.core c).l2Line ln := by
  obtain ⟨l, a, hk, -, -⟩ := h
  rw [hk]
  rfl

theorem rest_eq (h : e.ReadBy d c) : d = { e with cores := d.cores } := by
  obtain ⟨l, a, -, -, hd⟩ := h
  exact hd

theorem place_eq (h : e.ReadBy d c) (pa : Nat) : d.place pa = e.place pa := by
  rw [h.rest_eq]
  rfl

theorem fabric_eq (h : e.ReadBy d c) : d.fabric = e.fabric := by rw [h.rest_eq]

end Dev.ReadBy

/-! ### Bytes of lines that the L2 holds (R54) -/

/-- A chunk without a machine check, and the bytes after it. -/
theorem Dev.readNormal_succ {d d1 : Dev} {c pa n : Nat} {key : BitVec 11} {b : List Byte} (fuel o : Nat) (hn : n ≠ 0)
    (h : d.readChunk c key pa (min n (64 - pa % 64)) = (d1, b, none)) :
    d.readNormal c key (fuel + 1) pa n o =
      ((d1.readNormal c key fuel (pa + min n (64 - pa % 64)) (n - min n (64 - pa % 64)) (o + min n (64 - pa % 64))).1,
        b ++ (d1.readNormal c key fuel (pa + min n (64 - pa % 64)) (n - min n (64 - pa % 64)) (o + min n (64 - pa % 64))).2.1,
        (d1.readNormal c key fuel (pa + min n (64 - pa % 64)) (n - min n (64 - pa % 64)) (o + min n (64 - pa % 64))).2.2) := by
  rw [Dev.readNormal, if_neg hn]
  dsimp only
  rw [h]

theorem Dev.readNormal_zero (d : Dev) (c : Nat) (key : BitVec 11) (fuel pa o : Nat) : d.readNormal c key fuel pa 0 o = (d, [], none) := by
  cases fuel with
  | zero => rfl
  | succ n => rw [Dev.readNormal, if_pos rfl]

theorem Dev.readParts_flat {d d1 : Dev} {c w : Nat} {ea : Word} {b : List Byte} (rest : List Part)
    (h : d.readNormal c 0 8 ea.toNat w 0 = (d1, b, none)) :
    d.readParts c (flatPart w ea :: rest) = ((d1.readParts c rest).1, b :: (d1.readParts c rest).2.1, (d1.readParts c rest).2.2) := by
  simp only [Dev.readParts, flatPart, Bool.false_eq_true, if_false, h]
  rfl

/-- With no store waiting a load trains nothing (R110). -/
theorem Dev.trainDependence_empty {d : Dev} {c : Nat} (ps : List Part) (h : (d.core c).storeBuf = []) : d.trainDependence c ps = d := by
  have hnone : ps.any (d.core c).overlaps = false := by simp [List.any_eq_false, Core.overlaps, h]
  rw [Dev.trainDependence, hnone, Bool.not_false, Bool.or_true, if_pos rfl]

/-- Outside a stitch no read enters a signature. -/
theorem Dev.foldl_enterRead {d : Dev} {c : Nat} (ps : List Part) (h : d.stitching c = none) : ps.foldl (fun x p => x.enterRead c p) d = d := by
  induction ps with
  | nil => rfl
  | cons p rest ih => rwa [List.foldl_cons, Dev.enterRead, h, Option.isSome_none, if_neg Bool.false_ne_true]

section Held
variable {e d : Dev} {c : Nat} {key : BitVec 11}

/-- A chunk of a line of DRAM that the L2 holds without poison. -/
theorem Dev.readChunk_good {pa n ch m : Nat} {l : L2Line} (hs : d.stitching c = none) (hdram : d.place pa = .dram ch m)
    (hbuf : (d.core c).storeBuf = []) (hl : (d.core c).l2Line (pa / 64) = some l) (hn : 0 < n) (hgood : l.poison = false) :
    d.readChunk c key pa n = (d.fillL1 c (pa / 64) false, Line.slice l.data (pa % 64) n, none) := by
  rw [Dev.readChunk_held key hs hdram hbuf hl hn, hgood]
  rfl

theorem Dev.readNormal_near {w : Nat} {ea : Word} {l : L2Line} (fuel : Nat) (hs : d.stitching c = none) (hbuf : (d.core c).storeBuf = [])
    (hdram : ∃ ch n, d.place ea.toNat = .dram ch n) (hl : (d.core c).l2Line (ea.toNat / 64) = some l) (hgood : l.poison = false)
    (hw : 0 < w) (hline : ea.toNat % 64 + w ≤ 64) :
    d.readNormal c key (fuel + 1) ea.toNat w 0 = (d.fillL1 c (ea.toNat / 64) false, Line.slice l.data (ea.toNat % 64) w, none) := by
  obtain ⟨ch, n, hplace⟩ := hdram
  have hmin : min w (64 - ea.toNat % 64) = w := by omega
  have hchunk := Dev.readChunk_good (key := key) hs hplace hbuf hl hw hgood
  rw [Dev.readNormal_succ fuel 0 hw.ne' (by rw [hmin, hchunk]), hmin, Nat.sub_self, Dev.readNormal_zero, List.append_nil]

/-- The elements of a load that each lie within a line that the L2 holds. -/
theorem Dev.readParts_near {w : Nat} {l : Word → L2Line} (eas : List Word) (hr : e.ReadBy d c) (hs : e.stitching c = none)
    (hbuf : (e.core c).storeBuf = []) (h : ∀ ea ∈ eas, e.Near c w ea (l ea)) :
    ∃ d1 : Dev, e.ReadBy d1 c ∧ d.readParts c (eas.map (flatPart w)) = (d1, eas.map fun ea => Line.slice (l ea).data (ea.toNat % 64) w, []) := by
  induction eas generalizing d with
  | nil => exact ⟨d, hr, rfl⟩
  | cons ea rest ih =>
    have hnear := h ea (List.mem_cons_self ..)
    have hread := Dev.readNormal_near (key := 0) 7 (hr.stitching_eq.trans hs) (hr.storeBuf_eq.trans hbuf)
      (by simpa only [hr.place_eq] using hnear.dram) ((hr.l2Line_eq _).trans hnear.held) hnear.good hnear.some_ hnear.within
    obtain ⟨d1, hr1, hrest⟩ := ih (hr.fillL1 (ea.toNat / 64)) fun a ha => h a (List.mem_cons_of_mem _ ha)
    refine ⟨d1, hr1, ?_⟩
    rw [List.map_cons, Dev.readParts_flat _ hread, hrest]
    rfl

/-- The flat load of elements that each lie within a line that the L2 holds, with no store waiting. -/
theorem Dev.loadAll_near {w : Nat} {l : Word → L2Line} {eas : List Word} (dest : LoadDest) (hs : e.stitching c = none)
    (hbuf : (e.core c).storeBuf = []) (h : ∀ ea ∈ eas, e.Near c w ea (l ea)) :
    ∃ d1 : Dev, e.ReadBy d1 c ∧ e.loadAll c w eas dest = (d1, .inr (eas.flatMap fun ea => Line.slice (l ea).data (ea.toNat % 64) w)) := by
  obtain ⟨d1, hr, hparts⟩ := Dev.readParts_near (l := l) eas (ReadBy.refl e c) hs hbuf h
  have htrain : e.trainDependence c (eas.map (flatPart w)) = e := Dev.trainDependence_empty _ hbuf
  refine ⟨_, hr.setLastLoad eas.getLast?, ?_⟩
  rw [Dev.loadAll, Dev.resolve_flat (fun ea hea => (h ea hea).toFlat) (by decide) false]
  simp only [hs, htrain, hparts, Option.isSome_none, Bool.false_and, Bool.false_eq_true, if_false]
  rw [Dev.foldl_enterRead _ ((hr.setLastLoad _).stitching_eq.trans hs), List.flatMap_def]

end Held

/-! ### Loads as instructions (R72, R100, R102) -/

/-- The instructions of `loadOf` load these elements into this destination. -/
theorem loadOf_runsAs {i : Instr} {x : Ctx} {w : Nat} {eas : Arch → List Word} {dest : LoadDest} (h : loadOf i = some (x, w, eas, dest)) :
    ∃ srcs dsts : List Nat, RunsAs i x (loadWork x srcs dsts w eas dest) := by
  cases i
  all_goals simp only [loadOf, Option.some.injEq, Prod.mk.injEq, reduceCtorEq] at h
  all_goals
    obtain ⟨rfl, rfl, rfl, rfl⟩ := h
    exact ⟨_, _, fun _ => rfl⟩

section Loads
variable {i : Instr} {x : Ctx} {srcs dsts : List Nat} {w : Nat} {eas : Arch → List Word} {dest : LoadDest} {s : State} {e : Dev} {t : Trans}

theorem loadWork_body_done {b : List Byte} (h : (e.loadAll x.core.val w (eas (e.arch x.core.val)) dest).2 = .inr b) :
    (loadWork x srcs dsts w eas dest).body e =
      ((e.loadAll x.core.val w (eas (e.arch x.core.val)) dest).1.modArch x.core.val fun a => a.putLoad dest b, .next) := by
  simp only [loadWork]
  split
  · next heq => simp [heq] at h
  · next heq =>
    rw [heq] at h
    obtain rfl := Sum.inr.inj h
    rw [heq]

theorem loadWork_body_stop {q : Stop} (h : (e.loadAll x.core.val w (eas (e.arch x.core.val)) dest).2 = .inl q) :
    (loadWork x srcs dsts w eas dest).body e = ((e.loadAll x.core.val w (eas (e.arch x.core.val)) dest).1, .stop q) := by
  simp only [loadWork]
  split
  · next heq =>
    rw [heq] at h
    obtain rfl := Sum.inl.inj h
    rw [heq]
  · next heq => simp [heq] at h

/-- A load that gives its bytes. -/
theorem RunsAs.completes_load (hr : RunsAs i x (loadWork x srcs dsts w eas dest)) (h : Executes s x i e t) {b : List Byte} {d : Dev}
    (hb : e.loadAll x.core.val w (eas (e.arch x.core.val)) dest = (d, .inr b)) (hw : d.fabric.waits = e.fabric.waits) :
    Completes i s ((d.modArch x.core.val fun a => a.putLoad dest b).retire x.core.val t.pa (s.pc x + 4)) := by
  have hbody := loadWork_body_done (srcs := srcs) (dsts := dsts) (congrArg Prod.snd hb)
  rw [hb] at hbody
  exact ⟨by rw [Dev.fabric_retire, Dev.fabric_modArch, hw, h.fetches.free], hr.does_next h rfl (Or.inl rfl) rfl rfl hbody⟩

end Loads

/-- What a load succeeds with. -/
theorem Dev.Loads.eq_inr {d : Dev} {c w : Nat} {eas : List Word} {dest : LoadDest} (h : d.Loads c w eas dest) :
    d.loadAll c w eas dest = ((d.loadAll c w eas dest).1, .inr (d.loaded c w eas dest)) := by
  obtain ⟨hright, -⟩ := h
  obtain ⟨b, hb⟩ := Sum.isRight_iff.mp hright
  refine Prod.ext rfl ?_
  rw [Dev.loaded, hb]

/-- As many bytes as a register holds, or fewer, are not cut by zero extension. -/
theorem Arch.putLoad_unsigned (a : Arch) (rd : RegNo) (b : List Byte) : a.putLoad (.gpr rd false) b = a.setG rd (BitVec.ofNat 64 (leNat b)) :=
  congrArg (fun n => a.setG rd (BitVec.ofNat 64 n)) (Nat.mod_eq_of_lt (leNat_lt b))

theorem Arch.putLoad_signed (a : Arch) (rd : RegNo) {b : List Byte} (h : b.length ≠ 0) :
    a.putLoad (.gpr rd true) b = a.setG rd ((BitVec.ofNat (8 * b.length) (leNat b)).signExtend 64) := by
  have hne : 8 * b.length ≠ 0 := by omega
  rw [Arch.putLoad, if_pos rfl, sextOf, if_neg hne]

/-- Settles O14. -/
theorem loads : Obligations.Loads := by
  unfold Obligations.Loads
  refine ⟨fun i x w eas dest s e t hi h => ⟨fun hl => ?_, fun v code fa hstop => ?_⟩, fun a rd b hb => ⟨a.putLoad_signed rd ?_, a.putLoad_unsigned rd b⟩,
    fun i x w eas dest s e t l hi h hs hbuf hnear => ?_⟩
  · obtain ⟨srcs, dsts, hr⟩ := loadOf_runsAs hi
    obtain ⟨-, hw⟩ := id hl
    exact hr.completes_load h hl.eq_inr hw
  · obtain ⟨srcs, dsts, hr⟩ := loadOf_runsAs hi
    exact hr.does_trap h rfl (Or.inl rfl) rfl rfl (loadWork_body_stop hstop)
  · rintro h0
    simp [h0] at hb
  · obtain ⟨srcs, dsts, hr⟩ := loadOf_runsAs hi
    obtain ⟨d, hread, hall⟩ := Dev.loadAll_near dest hs hbuf hnear
    obtain ⟨k, a, honly⟩ := id hread
    have hleft := fun b => (honly.modArch fun q => q.putLoad dest b).retire_outside t.pa (s.pc x + 4) rfl hs
    exact ⟨_, hr.completes_load h hall (by rw [hread.fabric_eq]), (hleft _).arch_eq, (hleft _).core_other, (hleft _).mem_eq, (hleft _).csr_eq⟩

end Sys2Proof.Machine

/-! Prover's part. The decimal instructions: what a stored value reads back as, and what each instruction writes. -/

namespace Sys2Proof.Machine

/-! ### Nibbles and digits (R75 to R77) -/

theorem nib_zero_add {s : Nat} (q : Nat) (hs : s < 16) : nib (s + 16 * q) 0 = s := by
  rw [nib, pow_zero, Nat.div_one]
  omega

theorem nib_succ_add {s : Nat} (q k : Nat) (hs : s < 16) : nib (s + 16 * q) (k + 1) = nib q k := by
  have hdiv : (s + 16 * q) / 16 = q := by omega
  rw [nib, nib, pow_succ', ← Nat.div_div_eq_div_mul, hdiv]

theorem digitsFrom_succ_add {s : Nat} (q n i : Nat) (hs : s < 16) : digitsFrom (s + 16 * q) n (i + 1) = digitsFrom q n i := by
  induction n generalizing i with
  | zero => rfl
  | succ n ih => rw [digitsFrom, digitsFrom, nib_succ_add q i hs, ih]

theorem digit_lt (m : Nat) : m % 10 < 16 := by omega

theorem packDigits_lt (n m : Nat) : packDigits n m < 16 ^ n := by
  induction n generalizing m with
  | zero => exact Nat.one_pos
  | succ n ih =>
    have hrest := ih (m / 10)
    rw [packDigits, pow_succ]
    omega

/-- A packed digit is a decimal one. -/
theorem nib_packDigits_lt (n m k : Nat) : nib (packDigits n m) k < 10 := by
  induction n generalizing m k with
  | zero => simp [packDigits, nib]
  | succ n ih =>
    rw [packDigits]
    cases k with
    | zero =>
      rw [nib_zero_add _ (digit_lt m)]
      omega
    | succ k =>
      rw [nib_succ_add _ k (digit_lt m)]
      exact ih (m / 10) k

/-- The packed digits of a number give back its low ones. -/
theorem digitsFrom_packDigits (n m : Nat) : digitsFrom (packDigits n m) n 0 = m % 10 ^ n := by
  induction n generalizing m with
  | zero => rw [pow_zero, Nat.mod_one]; rfl
  | succ n ih => rw [digitsFrom, packDigits, nib_zero_add _ (digit_lt m), digitsFrom_succ_add _ n 0 (digit_lt m), ih, pow_succ', Nat.mod_mul]

/-! ### Stored values (R76, R77) -/

/-- The magnitude that is stored of a value: its low digits. -/
def storedMag (v : Int) (n : Nat) : Nat := v.natAbs % 10 ^ (n - 1)
/-- The sign nibble of a stored value. -/
def storedSign (v : Int) (n : Nat) : Nat := if v < 0 ∧ storedMag v n ≠ 0 then 0xD else 0xC

theorem storedSign_eq (v : Int) (n : Nat) : (storedSign v n = 0xC ∧ ¬ (v < 0 ∧ storedMag v n ≠ 0)) ∨ (storedSign v n = 0xD ∧ v < 0 ∧ storedMag v n ≠ 0) := by
  rw [storedSign]
  split
  · next h => exact Or.inr ⟨rfl, h⟩
  · next h => exact Or.inl ⟨rfl, h⟩

theorem storedSign_lt (v : Int) (n : Nat) : storedSign v n < 16 := by
  rcases storedSign_eq v n with ⟨h, -⟩ | ⟨h, -⟩
  · rw [h]; decide
  · rw [h]; decide

theorem decPack_eq (v : Int) (n : Nat) : decPack v n = storedSign v n + 16 * packDigits (n - 1) (storedMag v n) := by
  rw [Nat.add_comm, Nat.mul_comm]
  rfl

theorem nib_decPack_zero (v : Int) (n : Nat) : nib (decPack v n) 0 = storedSign v n := by
  rw [decPack_eq, nib_zero_add _ (storedSign_lt v n)]

theorem decPack_lt (v : Int) {n : Nat} (hn : 0 < n) : decPack v n < 16 ^ n := by
  obtain ⟨k, rfl⟩ := Nat.exists_eq_succ_of_ne_zero hn.ne'
  have hdigits := packDigits_lt k (storedMag v (k + 1))
  have hsign := storedSign_lt v (k + 1)
  rw [decPack_eq, Nat.succ_eq_add_one, Nat.add_sub_cancel, pow_succ]
  omega

/-- A stored value is a valid operand. -/
theorem decCheck_decPack (v : Int) (n op : Nat) : decCheck (decPack v n) n op = none := by
  have hsign : ¬ (nib (decPack v n) 0 ≠ 0xC ∧ nib (decPack v n) 0 ≠ 0xD ∧ nib (decPack v n) 0 ≠ 0xF) := by
    rw [nib_decPack_zero]
    rcases storedSign_eq v n with ⟨h, -⟩ | ⟨h, -⟩
    · simp [h]
    · simp [h]
  have hdigits : ((List.range n).find? fun k => decide (1 ≤ k) && decide (9 < nib (decPack v n) k)) = none := by
    refine List.find?_eq_none.mpr fun k _ hk => ?_
    obtain ⟨hk1, hk9⟩ := by simpa using hk
    obtain ⟨j, rfl⟩ := Nat.exists_eq_add_of_le' hk1
    rw [decPack_eq, nib_succ_add _ j (storedSign_lt v n)] at hk9
    exact absurd (nib_packDigits_lt (n - 1) (storedMag v n) j) (by omega)
  rw [decCheck, if_neg hsign, hdigits, Option.map_none]

/-- A stored value keeps the low digits of its magnitude. -/
theorem decMag_decPack (v : Int) (n : Nat) : decMag (decPack v n) n = storedMag v n := by
  rw [decMag, decPack_eq, digitsFrom_succ_add _ _ 0 (storedSign_lt v n), digitsFrom_packDigits, storedMag, Nat.mod_mod]

/-- A value that fits reads back. -/
theorem decValue_decPack {v : Int} {n : Nat} (h : decOverflow v n = false) : decValue (decPack v n) n = v := by
  have hfit : storedMag v n = v.natAbs := Nat.mod_eq_of_lt (by simpa [decOverflow] using h)
  rw [decValue, nib_decPack_zero, decMag_decPack]
  rcases storedSign_eq v n with ⟨hs, hpos⟩ | ⟨hs, hneg, -⟩
  · rw [hs, if_neg (by decide)]
    omega
  · rw [hs, if_pos rfl]
    omega

/-! ### Decimal instructions (R75 to R81, R123, R128) -/

/-- The instructions of `decimalOf` write that result, in the routine of their name where they are microcoded. -/
theorem decimalOf_runsAs {i : Instr} {a : Arch} {x : Ctx} {o : OpsD} {r : DecRes} (h : decimalOf i a = some (x, o, r)) :
    ∃ (srcs : List Nat) (f : Arch → DecRes), RunsAs i x (decWork x o srcs (microOp i) f) ∧ f a = r := by
  cases i
  all_goals simp only [decimalOf, Option.some.injEq, Prod.mk.injEq, reduceCtorEq] at h
  all_goals
    obtain ⟨rfl, rfl, rfl⟩ := h
    exact ⟨_, _, fun _ => rfl, rfl⟩

/-- The registers after a decimal instruction. -/
def Arch.decimal (a : Arch) (o : OpsD) (bits : Nat) (p : Bool) : Arch := (a.setDec o.rd o.w bits).setP o.pd p

section Decimal
variable {i : Instr} {x : Ctx} {o : OpsD} {srcs : List Nat} {m : Option MicroOp} {f : Arch → DecRes} {s : State} {e d : Dev} {t : Trans}
  {bits code : Nat} {p : Bool}

theorem decWork_body_ok (h : f (d.arch x.core.val) = .ok bits p) :
    (decWork x o srcs m f).body d = (d.modArch x.core.val fun a => a.decimal o bits p, .next) := by
  simp only [decWork, h]
  rfl

theorem decWork_body_fault (h : f (d.arch x.core.val) = .fault code) : (decWork x o srcs m f).body d = (d, .stop (.trap 6 code 0)) := by
  simp only [decWork, h]

/-- An operation that traps, microcoded or not. -/
theorem RunsAs.does_decimal_fault (hr : RunsAs i x (decWork x o srcs m f)) (h : Executes s x i e t) (hf : f (e.arch x.core.val) = .fault code) :
    Does i s (e.raise x.core.val ⟨6, code, 0, s.pc x, i.encode.getD 0⟩) := by
  have hbody := decWork_body_fault (x := x) (o := o) (srcs := srcs) (m := m) hf
  have hallow : (decWork x o srcs m f).allow (s.dev.arch x.core.val) = true := rfl
  have hforbid : (decWork x o srcs m f).forbidden = false := rfl
  refine hr.does_issue h.fetches ?_
  simp only [Dev.issue, h.fetches.fetched, h.formed, h.passes, hallow, hforbid, hbody, Bool.not_true, Bool.false_and, Bool.false_eq_true, if_false]
  cases m with
  | none => rfl
  | some op => rfl

/-- A microcoded instruction whose operation has a result runs its routine. -/
theorem RunsAs.does_micro {op : MicroOp} (hr : RunsAs i x (decWork x o srcs (some op) f)) (h : Executes s x i e t)
    (hf : f (e.arch x.core.val) = .ok bits p) :
    Does i s (e.microRun x.core.val t.pa (s.pc x) (i.encode.getD 0) (decWork x o srcs (some op) f) op none none) := by
  have hbody := decWork_body_ok (x := x) (o := o) (srcs := srcs) (m := some op) hf
  have hallow : (decWork x o srcs (some op) f).allow (s.dev.arch x.core.val) = true := rfl
  have hforbid : (decWork x o srcs (some op) f).forbidden = false := rfl
  refine hr.does_issue h.fetches ?_
  simp only [Dev.issue, h.fetches.fetched, h.formed, h.passes, hallow, hforbid, hbody, Bool.not_true, Bool.false_and, Bool.false_eq_true, if_false]
  rfl

/-- A core that runs ROM microcode alone goes straight to END. -/
theorem Dev.microRun_rom {c fetched : Nat} {pc : Word} {word : Word32} {w : Work} {op : MicroOp} (hp : (e.core c).patch = [])
    (hn : (e.core c).routine = none) (hbody : w.body e = (d, .next)) : e.microRun c fetched pc word w op none none = d.retire c fetched (pc + 4) := by
  simp only [Dev.microRun, hp, hn, hbody, List.isEmpty_nil, Option.isNone_none, Bool.and_self, if_true]
  rfl

/-- A routine that has come to END writes its instruction's destinations. -/
theorem Dev.microRun_done {e2 : Dev} {c fetched : Nat} {pc : Word} {word : Word32} {w : Work} {op : MicroOp}
    (hp : ¬ ((e.core c).patch = [] ∧ (e.core c).routine = none)) (hrun : e.runRoutine c op none = (e2, .done)) (hbody : w.body e2 = (d, .next)) :
    e.microRun c fetched pc word w op none none = d.retire c fetched (pc + 4) := by
  have hpatched : ¬ ((e.core c).patch.isEmpty && (e.core c).routine.isNone && Option.isNone (none : Option (Nat × Nat))) = true := by simpa using hp
  simp only [Dev.microRun, if_neg hpatched, hrun, hbody]
  rfl

theorem decimal_registersBecome (hr : RunsAs i x (decWork x o srcs m f)) (h : Executes s x i e t) (hf : f (e.arch x.core.val) = .ok bits p)
    (hm : m = none ∨ ((e.core x.core.val).patch = [] ∧ (e.core x.core.val).routine = none)) :
    RegistersBecome s x i e t fun a => (a.setDec o.rd o.w bits).setP o.pd p := by
  have hbody := decWork_body_ok (x := x) (o := o) (srcs := srcs) (m := m) hf
  refine ⟨by rw [Dev.fabric_retire, Dev.fabric_withArch, h.fetches.free], ?_⟩
  cases m with
  | none => exact hr.does_next h rfl (Or.inl rfl) rfl rfl hbody
  | some op =>
    obtain ⟨hp, hn⟩ := hm.resolve_left (by simp)
    have hdoes := hr.does_micro h hf
    rwa [Dev.microRun_rom hp hn hbody] at hdoes

end Decimal

/-- Settles O19. -/
theorem decimalResults : Obligations.DecimalResults := by
  unfold Obligations.DecimalResults
  refine ⟨fun i x o s e t h => ⟨fun bits p hi => ⟨fun hm => ?_, fun op e2 hop hrun hp harch => ?_⟩, fun code hi => ?_⟩, fun v w => ?_⟩
  · obtain ⟨srcs, f, hr, hf⟩ := decimalOf_runsAs hi
    exact decimal_registersBecome hr h hf hm
  · obtain ⟨srcs, f, hr, hf⟩ := decimalOf_runsAs hi
    rw [hop] at hr
    have hbody := decWork_body_ok (x := x) (o := o) (srcs := srcs) (m := some op) (d := e2) (by rw [harch]; exact hf)
    have hdoes := hr.does_micro h hf
    rw [Dev.microRun_done hp hrun hbody, ← Dev.withArch_eq, harch] at hdoes
    exact hdoes
  · obtain ⟨srcs, f, hr, hf⟩ := decimalOf_runsAs hi
    exact hr.does_decimal_fault h hf
  · have hn : 0 < nibbles w := by cases w <;> decide
    refine ⟨decPack_lt v hn, decCheck_decPack v _ 1, decValue_decPack, fun h => ⟨by simpa [decOverflow] using h, decMag_decPack v _⟩, ?_⟩
    rw [nib_decPack_zero]
    exact (storedSign_eq v (nibbles w)).imp And.left fun ⟨hs, hneg, _⟩ => ⟨hs, hneg⟩

end Sys2Proof.Machine

/-! Prover's part. WFE, the invalidation of translations by an instruction, and the range operations. -/

namespace Sys2Proof.Machine

/-! ### Waiting (R83) -/

/-- The time until which WFE waits, if any. -/
def Core.waitTime (k : Core) (ra : RegNo) : Option Word := if ra = 0 then none else some (k.arch.getG ra)

/-- WFE where an event has come, or in a member inside its panel. -/
theorem Dev.wfe_ended {d : Dev} {c : Nat} {ra : RegNo} (h : (d.core c).isMember = true ∨ d.anyInterrupt c = true ∨
    ∃ v, (d.core c).waitTime ra = some v ∧ v.toNat ≤ d.time.toNat) : d.wfe c ra = d := by
  refine if_pos ?_
  rcases h with hm | hi | ⟨v, hv, ht⟩
  · rw [hm, Bool.true_or]
  · rw [hi, Bool.true_or, Bool.or_true]
  · rw [Core.waitTime] at hv
    simp [hv, ht]

/-- WFE with no event and no power request waits. -/
theorem Dev.wfe_waits {d : Dev} {c : Nat} {ra : RegNo} (hm : (d.core c).isMember = false) (hi : d.anyInterrupt c = false)
    (ht : ∀ v, (d.core c).waitTime ra = some v → d.time.toNat < v.toNat) (hl : (d.dom c).latest = none) :
    d.wfe c ra = d.modCore c fun q => { q with run := .waiting ((d.core c).waitTime ra) } := by
  have hnone : ¬ ((d.core c).isMember || (d.anyInterrupt c || (match (d.core c).waitTime ra with
      | some t => decide (t.toNat ≤ d.time.toNat)
      | none => false))) = true := by
    rw [hm, hi]
    cases hw : (d.core c).waitTime ra with
    | none => simp
    | some v => simpa using ht v hw
  exact (if_neg hnone).trans (Dev.actLatest_none hl)

/-- A wait whose reason holds ends. -/
theorem Dev.wfeWake_ended {d : Dev} {c : Nat} {why : WakeReason} {u : Option Word} (hu : (d.core c).run = .waiting u) (hp : d.power c ≠ 1)
    (hi : why = .interrupt → d.anyInterrupt c = true) (ht : why = .time → ∃ t, u = some t ∧ t.toNat ≤ d.time.toNat) :
    d.wfeWake c why = d.modCore c fun k => { k with run := .running } := by
  rw [Dev.wfeWake, hu, Dev.wake_of_power_ne hp]
  cases why with
  | interrupt => exact if_pos (hi rfl)
  | time =>
    obtain ⟨t, rfl, hle⟩ := ht rfl
    exact if_pos (decide_eq_true hle)
  | unstated => exact if_pos rfl

theorem wfe_does {x : Ctx} {ra : RegNo} {s : State} {e : Dev} {t : Trans} (h : Executes s x (.wfe x ra) e t) :
    Does (.wfe x ra) s ((e.wfe x.core.val ra).retire x.core.val t.pa (s.pc x + 4)) := by
  have hr : RunsAs (.wfe x ra) x (sysWork fun d => (d.wfe x.core.val ra, .next)) := fun _ => rfl
  exact hr.does_next h rfl (Or.inl rfl) rfl rfl rfl

/-- Settles O24. -/
theorem waits : Obligations.Waits := by
  unfold Obligations.Waits
  refine ⟨fun x ra s e t h => ⟨fun hended => ?_, fun hm hi ht hl => ?_⟩, fun c why s u hu hp hi ht => ?_⟩
  · have hdoes := wfe_does h
    rw [Dev.wfe_ended hended] at hdoes
    exact ⟨by rw [Dev.fabric_retire, h.fetches.free], hdoes⟩
  · have hdoes := wfe_does h
    rw [Dev.wfe_waits hm hi ht hl] at hdoes
    exact ⟨by rw [Dev.fabric_retire, Dev.fabric_modCore, h.fetches.free], hdoes⟩
  · rw [← Dev.wfeWake_ended hu hp hi ht]
    rfl

/-! ### TINV and TSYNC (R88 to R91) -/

/-- The instructions of `tinvOf` are TINVs of that scope. -/
theorem tinvOf_runsAs {i : Instr} {x : Ctx} {ra : RegNo} {sc : TinvScope} (h : tinvOf i = some (x, ra, sc)) : RunsAs i x (tinvWork x ra sc) := by
  cases i
  all_goals simp only [tinvOf, Option.some.injEq, Prod.mk.injEq, reduceCtorEq] at h
  all_goals
    obtain ⟨rfl, rfl, rfl⟩ := h
    exact fun _ => rfl

/-- What a TINV of a core names. -/
def Dev.tinvNamed (d : Dev) (x : Ctx) (ra : RegNo) (sc : TinvScope) : Tinv := {
  issuer := .core x.core, serial := (d.core x.core.val).serial,
  scope := if (d.arch x.core.val).pl == .s && sc == .all then .tenant else sc,
  operand := (d.arch x.core.val).getG ra,
  tenant := if (d.arch x.core.val).pl == .s then d.fetchTenant x.core.val else ((d.arch x.core.val).getG (ra + 1)).truncate 16,
  allSets := !((d.arch x.core.val).pl == .s) }

/-- Its core after a TINV that is sent to these targets. -/
def Core.sentTinv (k : Core) (v : Tinv) (targets : List Agent) : Core :=
  { k.applyTinv v with serial := k.serial + 1, tinvs := k.tinvs ++ [⟨k.serial, targets, [], false⟩] }

/-- A TINV with no store waiting changes its own core alone. -/
theorem Dev.onlyCore_tinv {d : Dev} {x : Ctx} (ra : RegNo) (sc : TinvScope) (hbuf : (d.core x.core.val).storeBuf = []) :
    d.OnlyCore (d.tinv x ra sc) x.core.val (if d.isolated x.core.val then (d.core x.core.val).applyTinv (d.tinvNamed x ra sc)
      else (d.core x.core.val).sentTinv (d.tinvNamed x ra sc) (d.tinvTargets x.core.val)) := by
  have honly := (Dev.onlyCore_drainStores hbuf).modCore fun k => k.applyTinv (d.tinvNamed x ra sc)
  have htinv : d.tinv x ra sc =
      if ((d.drainStores x.core.val).modCore x.core.val fun k => k.applyTinv (d.tinvNamed x ra sc)).isolated x.core.val then
        (d.drainStores x.core.val).modCore x.core.val fun k => k.applyTinv (d.tinvNamed x ra sc)
      else ((d.drainStores x.core.val).modCore x.core.val fun k => k.applyTinv (d.tinvNamed x ra sc)).modCore x.core.val fun k =>
        { k with serial := k.serial + 1, tinvs := k.tinvs ++ [⟨(d.tinvNamed x ra sc).serial,
          ((d.drainStores x.core.val).modCore x.core.val fun k => k.applyTinv (d.tinvNamed x ra sc)).tinvTargets x.core.val, [], false⟩] } := rfl
  rw [htinv]
  generalize (d.drainStores x.core.val).modCore x.core.val (fun k => k.applyTinv (d.tinvNamed x ra sc)) = d1 at honly
  obtain ⟨hself, -, hrest⟩ := id honly
  have hiso : d1.isolated x.core.val = d.isolated x.core.val := by
    rw [Dev.isolated, hself, hrest]
    rfl
  have htargets : d1.tinvTargets x.core.val = d.tinvTargets x.core.val := by
    rw [hrest]
    rfl
  rw [hiso, htargets]
  split
  · exact honly
  · exact honly.modCore _

/-- TSYNC with every target's answer in. -/
theorem Dev.tsync_answered {d : Dev} {c : Nat} {ra : RegNo} (h : ∀ b ∈ (d.core c).tinvs, b.targets = []) :
    d.tsync c ra = (d.modCore c fun k => { k with tinvs := [], arch := k.arch.setG ra (if (d.core c).tinvs.any (·.dropped) then 1 else 0) }, .next) := by
  refine if_neg ?_
  simpa [List.any_eq_true] using h

theorem Dev.tsync_waits {d : Dev} {c : Nat} {ra : RegNo} (h : ∃ b ∈ (d.core c).tinvs, b.targets ≠ []) : d.tsync c ra = (d, .stay) := by
  refine if_pos ?_
  simpa [List.any_eq_true] using h

theorem tsync_runsAs (x : Ctx) (ra : RegNo) :
    RunsAs (.tsync x ra) x { sysWork (fun d => d.tsync x.core.val ra) with allow := atLeast .s, forbidden := true } := fun _ => rfl

/-- Settles O27. -/
theorem translationInvalidation : Obligations.TranslationInvalidation := by
  unfold Obligations.TranslationInvalidation
  refine ⟨fun i x ra sc s e t hi h hl hstrap hs hbuf => ?_, fun x ra s e t h hl hs => ⟨fun hall => ?_, fun hex => ?_⟩⟩
  · have hallow : (tinvWork x ra sc).allow (s.dev.arch x.core.val) = true := by
      simpa [tinvWork, atLeast, hl, imp_iff_not_or] using hstrap
    have honly := Dev.onlyCore_tinv ra sc hbuf
    have hdoes := (tinvOf_runsAs hi).does_next h hallow (Or.inr (by rw [hs]; rfl)) rfl rfl rfl
    exact ⟨_, ⟨by rw [Dev.fabric_retire, honly.fabric_eq, h.fetches.free], hdoes⟩, honly⟩
  · exact ⟨by rw [Dev.fabric_retire, Dev.fabric_modCore, h.fetches.free],
      (tsync_runsAs x ra).does_next h hl (Or.inr (by rw [hs]; rfl)) rfl rfl (Dev.tsync_answered hall)⟩
  · exact ⟨h.fetches.free, (tsync_runsAs x ra).does_body h hl (Or.inr (by rw [hs]; rfl)) rfl rfl (Dev.tsync_waits hex)⟩

/-! ### Starting a range operation (R92, R93) -/

/-- The instructions of `rangeOf` are range operations, allowed from that level up. -/
theorem rangeOf_runsAs {i : Instr} {x : Ctx} {ra : RegNo} {op : RangeOp} {l : Level} (h : rangeOf i = some (x, ra, op, l)) :
    RunsAs i x (crngWork x ra op l) := by
  cases i
  all_goals simp only [rangeOf, Option.some.injEq, Prod.mk.injEq, reduceCtorEq] at h
  all_goals
    obtain ⟨rfl, rfl, rfl, rfl⟩ := h
    exact fun _ => rfl

/-- The operation that a range instruction starts. -/
def Dev.crngOf (d : Dev) (c : Nat) (ra : RegNo) (op : RangeOp) : Crng :=
  { op := op, next := (d.arch c).getG ra &&& ~~~ (63 : Word), stop := (((d.arch c).getG ra).toNat % 64 + ((d.arch c).getG (ra + 1)).toNat + 63) / 64,
    level := (d.arch c).pl, segtab := (d.segtabOf c (d.arch c).pl).2, mxlate := (d.arch c).mxlate, poison := false }

/-- The core with this range operation in progress, or none. -/
def Core.withCrng (k : Core) (o : Option Crng) : Core := { k with crng := o }

theorem Core.withCrng_same {k : Core} {o : Option Crng} (h : k.crng = o) : k.withCrng o = k := by
  rw [← h]
  rfl

section RangeStart
variable {d : Dev} {c : Nat} {ra : RegNo} {op : RangeOp}

theorem Dev.crngStart_busy (h : (d.core c).crng ≠ none) : d.crngStart c ra op = (d, .stay) :=
  if_pos (Option.isSome_iff_ne_none.mpr h)

/-- With none in progress an operation starts, or ends at once. -/
theorem Dev.crngStart_idle (h : (d.core c).crng = none) : d.crngStart c ra op =
    if ((d.arch c).getG (ra + 1)).toNat = 0 then ((d.drainStores c).rangeStatus c 0 0 0, .next)
    else if 2 ^ 38 < ((d.arch c).getG (ra + 1)).toNat then ((d.drainStores c).rangeStatus c 0 3 0, .next)
    else (((d.drainStores c).modCore c fun k => k.withCrng (some (d.crngOf c ra op))).rangeStatus c 1 0 0, .next) := by
  rw [Dev.crngStart, h]
  rfl

end RangeStart

section RangeStatus
variable (d : Dev) (c busy err lines : Nat)

@[simp] theorem Dev.core_rangeStatus (k : Nat) : (d.rangeStatus c busy err lines).core k = d.core k := by
  rw [Dev.rangeStatus, Dev.core, Dev.setReg_cores, Dev.core]
@[simp] theorem Dev.mem_rangeStatus : (d.rangeStatus c busy err lines).mem = d.mem := by rw [Dev.rangeStatus, Dev.setReg_mem]
@[simp] theorem Dev.fabric_rangeStatus : (d.rangeStatus c busy err lines).fabric = d.fabric := by rw [Dev.rangeStatus, Dev.setReg_fabric]
@[simp] theorem Dev.reg_rangeStatus : (d.rangeStatus c busy err lines).reg (.coreRangeStatus c) =
    BitVec.ofNat 64 (busy * 2 ^ 63 + err * 2 ^ 56 + min lines 0xFFFFFFFF) := Dev.reg_setReg_self ..

end RangeStatus

/-! ### The lines of a range operation (R93, R94) -/

/-- A range operation ends with one of the codes of R93. -/
theorem Dev.rangeRun_err_le (d : Dev) (c : Nat) (r : Crng) (n done : Nat) (bad : Bool) : (d.rangeRun c r n done bad).2.1 ≤ 5 := by
  induction n generalizing d done bad with
  | zero =>
    rw [Dev.rangeRun]
    cases bad
    · exact Nat.zero_le 5
    · exact Nat.le_succ 4
  | succ n ih =>
    rw [Dev.rangeRun]
    dsimp only
    split
    · exact Nat.le_of_ble_eq_true rfl
    · exact Nat.le_refl 5
    · split
      · exact Nat.le_of_ble_eq_true rfl
      · split
        · exact ih ..
        · exact ih ..

theorem Dev.crngEnd_eq {d : Dev} {c : Nat} {r : Crng} (h : (d.core c).crng = some r) (hon : d.isOn c = true) :
    d.crngEnd c = ((d.rangeRun c r r.stop 0 r.poison).1.modCore c fun k => { k with crng := none }).rangeStatus c 0
      (d.rangeRun c r r.stop 0 r.poison).2.1 (d.rangeRun c r r.stop 0 r.poison).2.2 := by
  rw [Dev.crngEnd, h, hon]
  rfl

/-- BUSY is clear in the status of an operation that has ended. -/
theorem rangeStatus_busy_zero {err : Nat} (lines : Nat) (h : err ≤ 5) :
    getF (BitVec.ofNat 64 (0 * 2 ^ 63 + err * 2 ^ 56 + min lines 0xFFFFFFFF)) .CORE_RANGE_STATUS_BUSY = 0 := by
  have hbits : (0 * 2 ^ 63 + err * 2 ^ 56 + min lines 0xFFFFFFFF) % 2 ^ 64 / 2 ^ 63 % 2 = 0 := by omega
  rw [getF, BitVec.toNat_ofNat, Nat.shiftRight_eq_div_pow]
  exact hbits

/-- Memory of DRAM is no scratchpad window. -/
theorem Dev.inSpad_of_place_dram {d : Dev} {pa ch m : Nat} (h : d.place pa = .dram ch m) : inSpad pa = false := by
  by_contra hs
  rw [Bool.not_eq_false] at hs
  have hc : inControl pa = false := by
    simp only [inSpad, Bool.and_eq_true, decide_eq_true_eq] at hs
    simp only [inControl, decide_eq_false_iff_not]
    omega
  rw [Dev.place, if_neg (by simp [hc]), if_pos hs] at h
  dsimp only at h
  split at h
  · cases h
  · split at h
    · cases h
    · split at h <;> cases h

/-- Line `n` of an operation at M, without translation, is one of DRAM that the L2 holds without poison. -/
def Dev.rangeHeld (d : Dev) (c : Nat) (r : Crng) (n : Nat) : Prop :=
  (r.next + BitVec.ofNat 64 (n * 64)).toNat < 2 ^ 52 ∧ deviceRange (r.next + BitVec.ofNat 64 (n * 64)).toNat = false ∧
    d.frameOk (r.next + BitVec.ofNat 64 (n * 64)).toNat = true ∧ (∃ ch m, d.place (r.next + BitVec.ofNat 64 (n * 64)).toNat = .dram ch m) ∧
    ∃ l, (d.core c).l2Line ((r.next + BitVec.ofNat 64 (n * 64)).toNat / 64) = some l ∧ l.poison = false

theorem Dev.translate_flat {d : Dev} {c : Nat} {segtab ea : Word} {marks : Bool} {kind : AccKind} (hk : kind ≠ .fetch) (h : ea.toNat < 2 ^ 52)
    (hdev : deviceRange ea.toNat = false) : d.translate c .m false segtab marks ea kind = (d, .ok (flatTrans ea)) := by
  have htop : getF ea ⟨63, 52⟩ = 0 := by
    rw [getF, Nat.shiftRight_eq_div_pow]
    show ea.toNat / 2 ^ 52 % 2 ^ 12 = 0
    omega
  simp only [Dev.translate, htop, hdev, hk]
  rfl

/-- A prefetch of lines that the L2 holds changes nothing (R94). -/
theorem Dev.rangeRun_held {d : Dev} {c : Nat} {r : Crng} (hop : r.op = .prefetch) (hl : r.level = .m) (hx : r.mxlate = false) (n done : Nat)
    (h : ∀ k, done ≤ k → k < done + n → d.rangeHeld c r k) : d.rangeRun c r n done false = (d, 0, done + n) := by
  induction n generalizing done with
  | zero => rfl
  | succ n ih =>
    obtain ⟨hpa, hdev, hok, ⟨ch, m, hplace⟩, l, hheld, hgood⟩ := h done (le_refl _) (by omega)
    have hrest := ih (done + 1) fun k hk hn => h k (by omega) (by omega)
    have hkind : (if r.op = .discard then AccKind.store else .load) = .load := by rw [hop]; rfl
    rw [Dev.rangeRun]
    dsimp only
    rw [hkind, hl, hx, Dev.translate_flat (by decide) hpa hdev]
    simp only [flatTrans, hdev, Dev.inSpad_of_place_dram hplace, hop, Dev.rangeLine, Dev.l2Read_held 0 hheld, hgood, hok, Bool.or_self, Bool.not_true,
      Bool.false_eq_true, if_false, hrest]
    rw [Nat.add_right_comm, Nat.add_assoc]

/-! ### Range operations as instructions -/

section Ranges
variable {i : Instr} {x : Ctx} {ra : RegNo} {op : RangeOp} {l : Level} {s : State} {e d : Dev} {t : Trans}

theorem crng_does (hi : rangeOf i = some (x, ra, op, l)) (h : Executes s x i e t) (hl : Level.le l (s.dev.arch x.core.val).pl = true)
    (hs : e.stitching x.core.val = none) {q : Ret} (hbody : e.crngStart x.core.val ra op = (d, q)) :
    Does i s (d.finish x.core.val t.pa (s.pc x) (i.encode.getD 0) q) :=
  (rangeOf_runsAs hi).does_body h hl (Or.inr (by rw [hs]; rfl)) rfl rfl hbody

/-- A range instruction whose operation starts, or ends at once. -/
theorem crng_completes (hi : rangeOf i = some (x, ra, op, l)) (h : Executes s x i e t) (hl : Level.le l (s.dev.arch x.core.val).pl = true)
    (hs : e.stitching x.core.val = none) {k : Core} {busy err : Nat} (honly : e.OnlyCore d x.core.val k)
    (hbody : e.crngStart x.core.val ra op = (d.rangeStatus x.core.val busy err 0, .next)) :
    Completes i s ((d.rangeStatus x.core.val busy err 0).retire x.core.val t.pa (s.pc x + 4)) :=
  ⟨by rw [Dev.fabric_retire, Dev.fabric_rangeStatus, honly.fabric_eq, h.fetches.free],
    (rangeOf_runsAs hi).does_next h hl (Or.inr (by rw [hs]; rfl)) rfl rfl hbody⟩

/-- What a device is after a range instruction, in terms of the length. -/
def rangeStarted (e d : Dev) (c : Nat) (ra : RegNo) (op : RangeOp) : Prop :=
  (((e.arch c).getG (ra + 1)).toNat ≠ 0 → ((e.arch c).getG (ra + 1)).toNat ≤ 2 ^ 38 →
    (d.core c).crng = some (e.crngOf c ra op) ∧ d.reg (.coreRangeStatus c) = BitVec.ofNat 64 (2 ^ 63)) ∧
  (((e.arch c).getG (ra + 1)).toNat = 0 → (d.core c).crng = none ∧ d.reg (.coreRangeStatus c) = 0) ∧
  (2 ^ 38 < ((e.arch c).getG (ra + 1)).toNat → (d.core c).crng = none ∧ d.reg (.coreRangeStatus c) = BitVec.ofNat 64 (3 * 2 ^ 56))

/-- A range instruction with no operation in progress and no store waiting writes its core's operation and status alone. -/
theorem crng_starts (hi : rangeOf i = some (x, ra, op, l)) (h : Executes s x i e t) (hl : Level.le l (s.dev.arch x.core.val).pl = true)
    (hs : e.stitching x.core.val = none) (hc : (e.core x.core.val).crng = none) (hbuf : (e.core x.core.val).storeBuf = []) :
    ∃ (d : Dev) (o : Option Crng) (busy err : Nat), e.OnlyCore d x.core.val ((e.core x.core.val).withCrng o) ∧
      Completes i s ((d.rangeStatus x.core.val busy err 0).retire x.core.val t.pa (s.pc x + 4)) ∧
      rangeStarted e (d.rangeStatus x.core.val busy err 0) x.core.val ra op := by
  have hdrained := Dev.onlyCore_drainStores hbuf
  have hbody := Dev.crngStart_idle (ra := ra) (op := op) hc
  rw [← Core.withCrng_same hc] at hdrained
  have hself : ∀ {d : Dev} {o : Option Crng} {busy err : Nat}, e.OnlyCore d x.core.val ((e.core x.core.val).withCrng o) →
      ((d.rangeStatus x.core.val busy err 0).core x.core.val).crng = o := fun honly => by
    rw [Dev.core_rangeStatus, honly.1]
    rfl
  split at hbody
  · next h0 =>
    exact ⟨_, none, 0, 0, hdrained, crng_completes hi h hl hs hdrained hbody, fun hne => absurd h0 hne,
      fun _ => ⟨hself hdrained, Dev.reg_rangeStatus ..⟩, fun hlong => by omega⟩
  · next h0 =>
    split at hbody
    · next hlong =>
      exact ⟨_, none, 0, 3, hdrained, crng_completes hi h hl hs hdrained hbody, fun _ hfit => by omega, fun hz => absurd hz h0,
        fun _ => ⟨hself hdrained, Dev.reg_rangeStatus ..⟩⟩
    · next hfit =>
      have honly := hdrained.modCore fun k => k.withCrng (some (e.crngOf x.core.val ra op))
      exact ⟨_, _, 1, 0, honly, crng_completes hi h hl hs honly hbody, fun _ _ => ⟨hself honly, Dev.reg_rangeStatus ..⟩,
        fun hz => absurd hz h0, fun hlong => absurd hlong hfit⟩

end Ranges

/-- A prefetch at M, without translation, of lines that the L2 holds. -/
theorem crngComplete_prefetch {c : CoreId} {s : State} {r : Crng} (hr : (s.dev.core c.val).crng = some r) (hon : s.dev.isOn c.val = true)
    (hop : r.op = .prefetch) (hl : r.level = .m) (hx : r.mxlate = false) (hp : r.poison = false) (hstop : r.stop < 2 ^ 32)
    (h : ∀ n, n < r.stop → s.dev.rangeHeld c.val r n) :
    Leaves (.crngComplete c) s fun e => (e.core c.val).crng = none ∧ e.reg (.coreRangeStatus c.val) = BitVec.ofNat 64 r.stop ∧
      e.arch c.val = s.dev.arch c.val ∧ e.mem = s.dev.mem ∧ ∀ k, k ≠ c.val → e.core k = s.dev.core k := by
  have hrun := Dev.rangeRun_held hop hl hx r.stop 0 fun k _ hk => h k (by omega)
  have hend := Dev.crngEnd_eq hr hon
  rw [hp, hrun, Nat.zero_add] at hend
  dsimp only at hend
  have hdoes : Does (.crngComplete c) s (s.dev.crngEnd c.val) := rfl
  rw [hend] at hdoes
  refine ⟨_, ⟨by rw [Dev.fabric_rangeStatus, Dev.fabric_modCore], hdoes⟩, ?_, ?_, ?_, ?_, fun k hk => ?_⟩
  · rw [Dev.core_rangeStatus, Dev.core_modCore_self]
  · rw [Dev.reg_rangeStatus, Nat.zero_mul, Nat.zero_mul, Nat.zero_add, Nat.min_eq_left (by omega)]
  · rw [Dev.arch, Dev.core_rangeStatus, Dev.core_modCore_self, Dev.arch]
  · rw [Dev.mem_rangeStatus, Dev.modCore_mem]
  · rw [Dev.core_rangeStatus, Dev.core_modCore_other _ _ hk]

/-- Settles O28. -/
theorem rangeOperations : Obligations.RangeOperations := by
  unfold Obligations.RangeOperations
  refine ⟨fun i x ra op l s e t hi h hl hs => ⟨fun hc => ?_, fun hc hbuf => ?_⟩,
    fun c s r hr hon => ⟨⟨rfl, ?_, ?_⟩, fun hop hl hx hp hstop hheld => crngComplete_prefetch hr hon hop hl hx hp hstop hheld⟩⟩
  · exact ⟨h.fetches.free, crng_does hi h hl hs (Dev.crngStart_busy hc)⟩
  · obtain ⟨d, o, busy, err, honly, hcompletes, hstarts, hempty, hlong⟩ := crng_starts hi h hl hs hc hbuf
    refine ⟨_, hcompletes, ?_, ?_, fun k hk => ?_, fun h0 hfit => ?_, hempty, hlong⟩
    · rw [Dev.arch, Dev.core_rangeStatus, honly.1]
      rfl
    · rw [Dev.mem_rangeStatus, honly.mem_eq]
    · rw [Dev.core_rangeStatus, honly.core_other k hk]
    · obtain ⟨hcrng, hreg⟩ := hstarts h0 hfit
      exact ⟨_, hcrng, rfl, rfl, rfl, rfl, rfl, hreg⟩
  · rw [Dev.crngEnd_eq hr hon, Dev.core_rangeStatus, Dev.core_modCore_self]
  · rw [Dev.crngEnd_eq hr hon, Dev.reg_rangeStatus]
    exact rangeStatus_busy_zero _ (Dev.rangeRun_err_le ..)

end Sys2Proof.Machine

/-! Prover's part. ZMARK. -/

namespace Sys2Proof.Machine

/-! ### Retirement in general -/

theorem Dev.arch_endStitch (d : Dev) (c k : Nat) (why : EndCause) : (d.endStitch c why).arch k = d.arch k := d.modMember_arch c k _

/-- In a stitch or outside one, an instruction's retirement sets its core's pc and changes no other register of it. -/
theorem Dev.arch_retire (d : Dev) (c fetched : Nat) (next : Word) : (d.retire c fetched next).arch c = { d.arch c with pc := next } := by
  have h : (d.modCore c fun k => { k with arch := { k.arch with pc := next }, routine := none, replays := 0 }).arch c = { d.arch c with pc := next } := by
    rw [Dev.arch, Dev.core_modCore_self]
    rfl
  rw [Dev.retire]
  dsimp only
  split
  · exact h
  · split
    · exact (Dev.modMember_arch ..).trans h
    · split
      · exact (Dev.arch_endStitch ..).trans ((Dev.modMember_arch ..).trans h)
      · exact (Dev.modMember_arch ..).trans h

/-- Retirement writes cores alone. -/
theorem Dev.retire_rest (d : Dev) (c fetched : Nat) (next : Word) : d.retire c fetched next = { d with cores := (d.retire c fetched next).cores } := by
  unfold Dev.retire
  dsimp only
  split
  · rfl
  · split
    · rfl
    · split
      · rfl
      · rfl

theorem Dev.mem_retire (d : Dev) (c fetched : Nat) (next : Word) : (d.retire c fetched next).mem = d.mem := by rw [Dev.retire_rest]

theorem Dev.readsZero_retire (d : Dev) (c fetched : Nat) (next : Word) (ch ln : Nat) :
    (d.retire c fetched next).readsZero ch ln = d.readsZero ch ln := by
  rw [Dev.retire_rest]
  rfl

/-! ### A granule marked zero at its controller (R284, R286) -/

theorem Tbl.get_filter {α : Type} (z : α) (p : Nat → Bool) (n : Nat) (t : Tbl α) :
    Tbl.get z n (t.filter fun e => p e.1) = if p n then Tbl.get z n t else z := by
  induction t with
  | nil => simp [Tbl.get]
  | cons e t ih =>
    obtain ⟨j, v⟩ := e
    by_cases hn : j = n
    · subst hn
      by_cases hp : p j <;> simp [Tbl.get, hp, ih]
    · by_cases hp : p j <;> simp [Tbl.get, hp, hn, ih]

section McZero
variable (d : Dev) (ch g : Nat)

theorem Dev.byte_mcZero (a : Nat) : Memory.byte (d.mcZero ch g).mem a = if a / 4096 = g then 0 else Memory.byte d.mem a := by
  have hmem : (d.mcZero ch g).mem = d.mem.filter fun e => e.1 / 4096 != g := by
    rw [← Dev.zTouch_mem (d := d) ch g true]
    rfl
  rw [hmem, Memory.byte, Tbl.get_filter 0 (fun n => n / 4096 != g) a]
  by_cases ha : a / 4096 = g
  · simp [ha]
  · simp [ha, Memory.byte]

theorem Dev.zeroBit_mcZero : (d.mcZero ch g).zeroBit g = true := by
  simp [Dev.zeroBit, Dev.mcZero]

theorem Dev.fillOf_mcZero : (d.mcZero ch g).fillOf ch g = none := by
  have hfill : ((d.mcZero ch g).chan ch).fill = ((d.zTouch ch g true).chan ch).fill.filter fun e => e.granule != g := by
    have hchan := (d.zTouch ch g true).chan_modChan_self ch fun c => { c with
      wq := c.wq.filter (fun (e : WqEntry) => e.line / 64 != g), fill := c.fill.filter fun e => e.granule != g }
    exact congrArg ChanSt.fill hchan
  rw [Dev.fillOf, hfill]
  simp [List.find?_eq_none]

/-- A controller reads each line of a granule that it has marked as zero. -/
theorem Dev.readsZero_mcZero {ln : Nat} (h : ln / 64 = g) : (d.mcZero ch g).readsZero ch ln = true := by
  rw [Dev.readsZero, h, Dev.fillOf_mcZero]
  exact d.zeroBit_mcZero ch g

theorem Dev.regs_mcZero : (d.mcZero ch g).regs = d.regs :=
  (Dev.regs_of_cores (d := (d.zTouch ch g true)) rfl).trans (d.regs_zTouch ch g true)

end McZero

/-! ### What is done with a granule's cached copies (R95) -/

theorem Dev.regs_rangeSnoop (d : Dev) (n ln : Nat) (k : SnoopKind) : (d.rangeSnoop n ln k).1.regs = d.regs := by
  have hready : (if d.mustWait .iow ln then d.wait else d).makeRoom.regs = d.regs := by
    rw [Dev.regs_makeRoom]
    exact Dev.ite_regs d.regs_wait rfl
  rw [Dev.rangeSnoop]
  dsimp only
  split
  · rw [Dev.regs_snoopAll, hready]
  · exact hready

theorem Dev.regs_dropLine (d : Dev) (ln : Nat) : (d.dropLine ln).1.regs = d.regs := by
  rw [Dev.dropLine]
  dsimp only
  rw [Dev.regs_dropDir, Dev.regs_dropLlc, Dev.regs_rangeSnoop]

/-- Every cached copy of a granule's lines is discarded. -/
def Dev.dropGranule (d : Dev) (g : Nat) : Dev := (List.range 64).foldl (fun y i => (y.dropLine (g * 64 + i)).1.noteOutside none (g * 64 + i)) d

theorem Dev.regs_dropGranule (d : Dev) (g : Nat) : (d.dropGranule g).regs = d.regs :=
  Dev.foldl_frame Dev.regs (fun y i => (Dev.regs_noteOutside ..).trans (y.regs_dropLine (g * 64 + i))) _ d

/-- A granule of DRAM whose channel has not failed. -/
theorem Dev.zmarkAt_dram {d : Dev} {c g ch n : Nat} (key : BitVec 11) (h : d.place (g * 4096) = .dram ch n) (hf : d.chanFailed ch = false) :
    d.zmarkAt c (g * 4096) key = ((d.dropGranule g).wake (domOfChan ch)).mcZero ch g := by
  have hg : g * 4096 / 4096 = g := Nat.mul_div_cancel g (by decide)
  rw [Dev.zmarkAt]
  simp only [hg, h, hf, Bool.false_eq_true, if_false]
  rfl

/-! ### ZMARK as an instruction (R95) -/

/-- The address of a granule. -/
theorem toNat_and_not_0xFFF (x : Word) : (x &&& ~~~ (0xFFF : Word)).toNat = x.toNat / 4096 * 4096 := by
  apply Nat.eq_of_testBit_eq
  intro i
  have hmask : (0xFFF : Word) = BitVec.ofNat 64 (2 ^ 12 - 1) := rfl
  rw [BitVec.testBit_toNat, BitVec.getLsbD_and, BitVec.getLsbD_not, hmask, BitVec.getLsbD_ofNat, Nat.testBit_two_pow_sub_one,
    ← Nat.shiftRight_eq_div_pow x.toNat 12, ← Nat.shiftLeft_eq _ 12, Nat.testBit_shiftLeft, Nat.testBit_shiftRight]
  by_cases h12 : 12 ≤ i
  · rw [Nat.add_sub_cancel' h12, BitVec.testBit_toNat]
    by_cases h64 : i < 64
    · simp [h12, h64, Nat.not_lt.mpr h12]
    · simp [BitVec.getLsbD_of_ge x i (Nat.le_of_not_lt h64)]
  · by_cases h64 : i < 64
    · simp [h12, h64, Nat.lt_of_not_le h12]
    · omega

/-- One access that lies within a page, at M without translation. -/
theorem Dev.resolve_page {d : Dev} {c w : Nat} {ea : Word} {kind : AccKind} (atomic : Bool) (hl : (d.arch c).pl = .m) (hx : (d.arch c).mxlate = false)
    (hpa : ea.toNat < 2 ^ 52) (hdev : deviceRange ea.toNat = false) (hpage : ea.toNat % 4096 + w ≤ 4096) (hk : kind ≠ .fetch) :
    d.resolve c kind w atomic [ea] = (d, .inr [flatPart w ea]) := by
  have hpieces : pieces ea w = [(ea, w)] := if_pos (by omega)
  have hnow : d.translateNow c ea kind = (d, .ok (flatTrans ea)) := by
    rw [Dev.translateNow, hl, hx]
    exact Dev.translate_flat hk hpa hdev
  have hall : d.xlateAll c kind ([ea].map fun a => pieces a w) = (d, [(flatPart w ea, flatTrans ea)], []) := by
    simp only [List.map_cons, List.map_nil, hpieces, Dev.xlateAll, Dev.xlateElem, hnow, flatTrans, hdev, Bool.or_self]
    rfl
  rw [Dev.resolve, Dev.resolveN, hall]
  cases atomic with
  | false => rfl
  | true => rfl

theorem Dev.zmark_resolved {d d1 : Dev} {c : Nat} {ra : RegNo} {p : Part} {ps : List Part}
    (h : d.resolve c .store 4096 true [(d.arch c).getG ra &&& ~~~ (0xFFF : Word)] = (d1, .inr (p :: ps))) :
    d.zmark c ra = ((d1.drainStores c).zmarkAt c p.pa p.key, .next) := by
  rw [Dev.zmark, h]

section Zmark
variable {x : Ctx} {ra : RegNo} {s : State} {e d : Dev} {t : Trans}

theorem zmark_does (h : Executes s x (.zmark x ra) e t) (hs : e.stitching x.core.val = none) (hz : e.zmark x.core.val ra = (d, .next)) :
    Does (.zmark x ra) s (d.retire x.core.val t.pa (s.pc x + 4)) := by
  have hr : RunsAs (.zmark x ra) x { sysWork (fun d => d.zmark x.core.val ra) with forbidden := true } := fun _ => rfl
  exact hr.does_next h rfl (Or.inr (by rw [hs]; rfl)) rfl rfl hz

/-- ZMARK at M, without translation, of a granule of DRAM, with no store waiting. -/
theorem Dev.zmark_dram {c ch n : Nat} (hl : (e.arch c).pl = .m) (hx : (e.arch c).mxlate = false) (hpa : ((e.arch c).getG ra).toNat < 2 ^ 52)
    (hdev : deviceRange (((e.arch c).getG ra).toNat / 4096 * 4096) = false) (hplace : e.place (((e.arch c).getG ra).toNat / 4096 * 4096) = .dram ch n)
    (hf : e.chanFailed ch = false) (hbuf : (e.core c).storeBuf = []) :
    e.zmark c ra = ((((e.drainStores c).dropGranule (((e.arch c).getG ra).toNat / 4096)).wake (domOfChan ch)).mcZero ch
      (((e.arch c).getG ra).toNat / 4096), .next) := by
  obtain ⟨-, -, hrest⟩ := Dev.onlyCore_drainStores hbuf
  have hea := toNat_and_not_0xFFF ((e.arch c).getG ra)
  have hresolve := Dev.resolve_page (w := 4096) (kind := .store) (ea := (e.arch c).getG ra &&& ~~~ (0xFFF : Word)) true hl hx
    (by rw [hea]; omega) (by rw [hea]; exact hdev) (by rw [hea]; omega) (by decide)
  rw [Dev.zmark_resolved hresolve]
  simp only [flatPart, hea]
  rw [Dev.zmarkAt_dram 0 (n := n) (by rw [hrest]; exact hplace) (by rw [hrest]; exact hf)]

end Zmark

/-- Settles O29. -/
theorem zeroMarks : Obligations.ZeroMarks := by
  unfold Obligations.ZeroMarks
  refine ⟨fun x ra s e t h hs hz => zmark_does h hs (Prod.ext rfl hz), fun d d1 c ra p ps h => Dev.zmark_resolved h, ?_,
    fun d ch g ln h => d.readsZero_mcZero ch g h, fun d ch g a => d.byte_mcZero ch g a⟩
  intro x ra s e t ch n h hs g hl hx hpa hdev hplace hf hbuf hw
  have hz := Dev.zmark_dram (ra := ra) hl hx hpa hdev hplace hf hbuf
  rw [hz] at hw
  refine ⟨_, ⟨by rw [Dev.fabric_retire, hw, h.fetches.free], zmark_does h hs hz⟩, ?_, fun ln hln => ?_, fun a ha => ?_⟩
  · rw [Dev.arch_retire, Dev.arch_of_regs (Dev.regs_mcZero ..), Dev.arch_of_regs (Dev.regs_wake ..), Dev.arch_of_regs (Dev.regs_dropGranule ..),
      Dev.arch_drainStores]
  · rw [Dev.readsZero_retire, Dev.readsZero_mcZero _ ch _ hln]
  · rw [Dev.mem_retire, Dev.byte_mcZero, if_pos ha]

end Sys2Proof.Machine

/-! Prover's part. LTIME, PSETUP and PDISSOLVE. -/

namespace Sys2Proof.Machine

/-! ### LTIME (R97) -/

theorem ltime_registersBecome {x : Ctx} {ra : RegNo} {s : State} {e : Dev} {t : Trans} (h : Executes s x (.ltime x ra) e t) :
    RegistersBecome s x (.ltime x ra) e t fun a => a.setG ra (e.ltime x.core.val) := by
  have hr : RunsAs (.ltime x ra) x (sysWork fun d => (d.modArch x.core.val fun a => a.setG ra (d.ltime x.core.val), .next)) := fun _ => rfl
  exact ⟨by rw [Dev.fabric_retire, Dev.fabric_withArch, h.fetches.free], hr.does_next h rfl (Or.inl rfl) rfl rfl rfl⟩

theorem Dev.ltime_outside {d : Dev} {c : Nat} (h : d.inPanel c = none) : d.ltime c = BitVec.allOnes 64 := by rw [Dev.ltime, h]

/-! ### The request that PSETUP reads (R201) -/

/-- Whole lines of DRAM that the L2 holds without poison, with no store waiting. -/
theorem Dev.readNormal_lines {e d : Dev} {c : Nat} {key : BitVec 11} (m : Nat) {l : Nat → L2Line} {pa fuel : Nat} (o : Nat) (hfuel : m ≤ fuel)
    (hr : e.ReadBy d c) (hs : e.stitching c = none) (hbuf : (e.core c).storeBuf = []) (ha : pa % 64 = 0)
    (h : ∀ i, i < m → (∃ ch n, e.place (pa + 64 * i) = .dram ch n) ∧ (e.core c).l2Line (pa / 64 + i) = some (l i) ∧ (l i).poison = false) :
    ∃ d1 : Dev, e.ReadBy d1 c ∧
      d.readNormal c key fuel pa (64 * m) o = (d1, (List.range m).flatMap fun i => Line.slice (l i).data 0 64, none) := by
  induction m generalizing d l pa fuel o with
  | zero => exact ⟨d, hr, Dev.readNormal_zero ..⟩
  | succ m ih =>
    obtain ⟨fuel, rfl⟩ := Nat.exists_eq_add_of_le' (Nat.one_le_of_lt hfuel)
    obtain ⟨⟨ch, n, hplace⟩, hheld, hgood⟩ := h 0 (Nat.succ_pos m)
    rw [Nat.mul_zero, Nat.add_zero] at hplace
    rw [Nat.add_zero] at hheld
    have hmin : min (64 * (m + 1)) (64 - pa % 64) = 64 := by omega
    have hchunk := Dev.readChunk_good (key := key) (n := 64) (hr.stitching_eq.trans hs) ((hr.place_eq pa).trans hplace)
      (hr.storeBuf_eq.trans hbuf) ((hr.l2Line_eq _).trans hheld) (by decide) hgood
    have hnext : (pa + 64) / 64 = pa / 64 + 1 := by omega
    obtain ⟨d1, hr1, hrest⟩ := ih (l := fun i => l (i + 1)) (pa := pa + 64) (o + 64) (Nat.le_of_succ_le_succ hfuel) (hr.fillL1 (pa / 64)) (by omega)
      fun i hi => by
        obtain ⟨hdram, hl, hp⟩ := h (i + 1) (Nat.succ_lt_succ hi)
        rw [hnext, show pa + 64 + 64 * i = pa + 64 * (i + 1) by omega, show pa / 64 + 1 + i = pa / 64 + (i + 1) by omega]
        exact ⟨hdram, hl, hp⟩
    have hless : 64 * (m + 1) - 64 = 64 * m := by omega
    refine ⟨d1, hr1, ?_⟩
    rw [Dev.readNormal_succ fuel o (by omega) (by rw [hmin, hchunk]), hmin, hless, hrest, ha, List.range_succ_eq_map, List.flatMap_cons,
      List.flatMap_map]

/-! ### The checks of a request (R202) -/

/-- The status of a request asks of the cores only who is a member. -/
theorem Dev.panelStatus_cores {e : Dev} (q : Tbl Core) (r : Request) (h : ∀ k, ((({ e with cores := q } : Dev).core k).member) = (e.core k).member) :
    ({ e with cores := q } : Dev).panelStatus r = e.panelStatus r := by
  unfold Dev.panelStatus
  simp only [h]
  rfl

theorem Dev.ReadBy.member_eq {e d : Dev} {c : Nat} (h : e.ReadBy d c) (k : Nat) : (d.core k).member = (e.core k).member := by
  obtain ⟨l, a, hk, hother, -⟩ := h
  by_cases hc : k = c
  · subst hc
    rw [hk]
    rfl
  · rw [hother k hc]

theorem Dev.ReadBy.panelStatus_eq {e d : Dev} {c : Nat} (h : e.ReadBy d c) (r : Request) : d.panelStatus r = e.panelStatus r := by
  have hm := h.member_eq
  have hrest := h.rest_eq
  generalize d.cores = q at hrest
  subst hrest
  exact e.panelStatus_cores q r hm

/-- A request that passes has no field out of range. -/
theorem Dev.request_good {d : Dev} {r : Request} (h : (d.panelStatus r).1 = 0) : r.bad = false := by
  by_contra hb
  rw [Bool.not_eq_false] at hb
  rw [Dev.panelStatus] at h
  rw [if_pos hb] at h
  cases h

/-- A request whose fields are in range names at most 64 members. -/
theorem parseRequest_nmemb_le {b : List Byte} (h : (parseRequest b).bad = false) : (parseRequest b).nmemb ≤ 64 := by
  simp only [parseRequest, Bool.or_eq_false_iff, decide_eq_false_iff_not] at h
  simp only [parseRequest]
  omega

/-! ### A slot that forms (R203) -/

/-- The fields of a slot that forms. -/
def Request.slotFields (r : Request) : List (Fld × Nat) :=
  [(.PNL_SLOT_STATE, 1), (.PNL_SLOT_RECORD, bitNat r.record), (.PNL_SLOT_PLAYBACK, bitNat r.playback), (.PNL_SLOT_NMEMB, r.nmemb),
    (.PNL_SLOT_LIMLOG, r.limlog)]

/-- The registers of a slot that forms. -/
def Dev.slotFormed (d : Dev) (r : Request) (s : Nat) : Dev :=
  (List.range 8).foldl (fun x g => (x.setReg (.pnlGpost s g) 0).setReg (.pnlGstat s g) 0)
    ((((d.setReg (.pnlSlot s) 0).setFlds (.pnlSlot s) r.slotFields).setReg (.pnlStat s) 0).setReg (.pnlJrnl s) 0)

/-- The panel of a slot that forms. -/
def Request.panel (r : Request) : Panel := { Panel.reset with
  members := r.members,
  gates := r.gates.map fun g => ⟨getF g.1 ⟨51, 12⟩ * 4096, getF g.2.1 ⟨51, 12⟩ * 4096, getF g.2.2.1 ⟨15, 8⟩, getF g.2.2.1 ⟨4, 0⟩⟩,
  jbase := r.jbase, jlog := r.jlog }

/-- A core is named a member of a slot. -/
def Dev.nameMember (s : Nat) (d : Dev) (p : Nat × Nat) : Dev :=
  match d.phys p.1 with
  | some c => d.modCore c fun k => { k with member := some (Member.fresh s p.2) }
  | none => d

theorem Dev.setUp_eq (d : Dev) (r : Request) (s : Nat) :
    d.setUp r s = r.members.zipIdx.foldl (Dev.nameMember s) ((d.slotFormed r s).modPanel s fun _ => r.panel) := rfl

section Formed
variable (d : Dev) (r : Request) (s : Nat)

theorem Dev.slotFormed_rest : d.slotFormed r s = { d with csr := (d.slotFormed r s).csr } :=
  fold_keeps (fun x : Dev => x = { d with csr := x.csr }) _ (fun x g hx => by rw [hx]; rfl) (List.range 8) _ rfl

/-- The registers of the gates and the slot's other registers lie apart from its first one. -/
theorem Dev.fld_slotFormed (f : Fld) :
    (d.slotFormed r s).fld (.pnlSlot s) f = getF (r.slotFields.foldl (fun w p => setF w p.1 p.2) 0) f := by
  have hgate : ∀ (x : Dev) (g : Nat), ((x.setReg (.pnlGpost s g) 0).setReg (.pnlGstat s g) 0).fld (.pnlSlot s) f = x.fld (.pnlSlot s) f :=
    fun x g => by
      rw [Dev.fld_setReg_other _ _ _ (by simp only [Reg.offset]; omega), Dev.fld_setReg_other _ _ _ (by simp only [Reg.offset]; omega)]
  rw [Dev.slotFormed, Dev.foldl_frame (fun x : Dev => x.fld (.pnlSlot s) f) hgate, Dev.fld_setReg_other _ _ _ (by simp only [Reg.offset]; omega),
    Dev.fld_setReg_other _ _ _ (by simp only [Reg.offset]; omega), Dev.fld_setFlds_self, Dev.reg_setReg_self]

theorem Dev.slotState_slotFormed : (d.slotFormed r s).slotState s = 1 := by
  rw [Dev.slotState, Dev.fld_slotFormed, Request.slotFields]
  simp only [List.foldl_cons, List.foldl_nil]
  rw [getF_setF_other _ _ _ _ (by decide) (by decide), getF_setF_other _ _ _ _ (by decide) (by decide), getF_setF_other _ _ _ _ (by decide) (by decide),
    getF_setF_other _ _ _ _ (by decide) (by decide), getF_setF_self _ _ _ (by decide)]
  rfl

theorem Dev.nmemb_slotFormed (h : r.nmemb ≤ 64) : (d.slotFormed r s).fld (.pnlSlot s) .PNL_SLOT_NMEMB = r.nmemb := by
  rw [Dev.fld_slotFormed, Request.slotFields]
  simp only [List.foldl_cons, List.foldl_nil]
  rw [getF_setF_other _ _ _ _ (by decide) (by decide), getF_setF_self _ _ _ (by decide)]
  exact Nat.mod_eq_of_lt (Nat.lt_of_le_of_lt h (by decide))

theorem Dev.regs_nameMember (p : Nat × Nat) : (Dev.nameMember s d p).regs = d.regs := by
  rw [Dev.nameMember]
  split
  · exact Dev.regs_modCore d _ rfl rfl
  · rfl

/-- Naming a member changes cores alone. -/
theorem Dev.nameMember_rest (p : Nat × Nat) : Dev.nameMember s d p = { d with cores := (Dev.nameMember s d p).cores } := by
  rw [Dev.nameMember]
  split
  · rfl
  · rfl

/-- What of a device the cores do not hold is, after a slot's setting up, what its registers and its panel make it. -/
theorem Dev.setUp_keeps {γ : Type} (g : Dev → γ) (hg : ∀ (x : Dev) (q : Tbl Core), g { x with cores := q } = g x) :
    g (d.setUp r s) = g ((d.slotFormed r s).modPanel s fun _ => r.panel) := by
  rw [Dev.setUp_eq]
  refine Dev.foldl_frame g (fun x p => ?_) _ _
  rw [Dev.nameMember_rest]
  exact hg x _

theorem Dev.regs_setUp : (d.setUp r s).regs = d.regs := by
  have hcores : ((d.slotFormed r s).modPanel s fun _ => r.panel).cores = d.cores := by rw [Dev.modPanel_cores, Dev.slotFormed_rest]
  rw [Dev.setUp_eq, Dev.foldl_frame Dev.regs fun x p => x.regs_nameMember s p]
  exact Dev.regs_of_cores hcores

theorem Dev.fabric_setUp : (d.setUp r s).fabric = d.fabric := by
  rw [d.setUp_keeps r s Dev.fabric fun _ _ => rfl, Dev.modPanel_fabric, Dev.slotFormed_rest]

theorem Dev.csr_setUp : (d.setUp r s).csr = (d.slotFormed r s).csr := by
  rw [d.setUp_keeps r s Dev.csr fun _ _ => rfl, Dev.modPanel_csr]

theorem Dev.panel_setUp : (d.setUp r s).panel s = r.panel := by
  rw [Dev.panel, d.setUp_keeps r s Dev.panels fun _ _ => rfl]
  exact Dev.panel_modPanel_self ..

end Formed

/-! ### PSETUP and PDISSOLVE as instructions (R96, R202, R204) -/

section Requests
variable {x : Ctx} {ra : RegNo} {s : State} {e d : Dev} {t : Trans} {c : Nat}

theorem psetup_runsAs (x : Ctx) (ra : RegNo) :
    RunsAs (.psetup x ra) x { sysWork (fun d => d.psetup x.core.val ra) with allow := atLeast .h, forbidden := true } := fun _ => rfl

theorem pdissolve_runsAs (x : Ctx) (ra : RegNo) :
    RunsAs (.pdissolve x ra) x { sysWork (fun d => d.pdissolve x.core.val ra) with allow := atLeast .h, forbidden := true } := fun _ => rfl

theorem psetup_does (h : Executes s x (.psetup x ra) e t) (hl : Level.le .h (s.dev.arch x.core.val).pl = true) (hs : e.stitching x.core.val = none)
    (hbody : e.psetup x.core.val ra = (d, .next)) : Does (.psetup x ra) s (d.retire x.core.val t.pa (s.pc x + 4)) :=
  (psetup_runsAs x ra).does_next h hl (Or.inr (by rw [hs]; rfl)) rfl rfl hbody

theorem pdissolve_does (h : Executes s x (.pdissolve x ra) e t) (hl : Level.le .h (s.dev.arch x.core.val).pl = true)
    (hs : e.stitching x.core.val = none) (hbody : e.pdissolve x.core.val ra = (d, .next)) :
    Does (.pdissolve x ra) s (d.retire x.core.val t.pa (s.pc x + 4)) :=
  (pdissolve_runsAs x ra).does_next h hl (Or.inr (by rw [hs]; rfl)) rfl rfl hbody

/-- The status that PSETUP leaves: the slot above 0, or the check that failed. -/
def statusWord (st : Nat × Nat) : Word := BitVec.ofNat 64 (if st.1 = 0 then st.2 * 256 else st.1)

/-- What PSETUP of a request that it has read leaves before it answers. -/
def Dev.setUpIf (d : Dev) (r : Request) : Dev := if (d.panelStatus r).1 = 0 then d.setUp r (d.panelStatus r).2 else d

theorem Dev.psetup_misaligned (h : ((e.arch c).getG ra).toNat % 64 ≠ 0) : e.psetup c ra = (e.modArch c fun a => a.setG ra 2, .next) := by
  rw [Dev.psetup]
  exact if_pos (Or.inl h)

theorem Dev.psetup_read {b : List Byte} (ha : ((e.arch c).getG ra).toNat % 64 = 0) (hfirst : e.normalAt ((e.arch c).getG ra).toNat = true)
    (hlast : e.normalAt (((e.arch c).getG ra).toNat + 0x17F) = true)
    (hread : e.readNormal c 0 8 ((e.arch c).getG ra).toNat 0x180 0 = (d, b, none)) :
    e.psetup c ra = ((d.setUpIf (parseRequest b)).modArch c fun a => a.setG ra (statusWord (d.panelStatus (parseRequest b))), .next) := by
  have hgood : ¬ (((e.arch c).getG ra).toNat % 64 ≠ 0 ∨ (!e.normalAt ((e.arch c).getG ra).toNat) = true ∨
      (!e.normalAt (((e.arch c).getG ra).toNat + 0x17F)) = true) := by simp [ha, hfirst, hlast]
  rw [Dev.psetup, if_neg hgood, hread]
  dsimp only
  rw [Dev.setUpIf, statusWord]
  rcases hst : d.panelStatus (parseRequest b) with ⟨n, k⟩
  cases n with
  | zero => rfl
  | succ n => rfl

theorem Dev.fabric_setUpIf (d : Dev) (r : Request) : (d.setUpIf r).fabric = d.fabric := by
  rw [Dev.setUpIf]
  split
  · exact d.fabric_setUp r _
  · rfl

theorem Dev.arch_setUpIf (d : Dev) (r : Request) (c : Nat) : (d.setUpIf r).arch c = d.arch c := by
  rw [Dev.setUpIf]
  split
  · exact Dev.arch_of_regs (d.regs_setUp r _) c
  · rfl

/-- A request in lines of DRAM that the L2 holds without poison, with no store waiting. -/
theorem psetup_near (h : Executes s x (.psetup x ra) e t) (hl : Level.le .h (s.dev.arch x.core.val).pl = true) (hs : e.stitching x.core.val = none)
    (l : Nat → L2Line) (ha : ((e.arch x.core.val).getG ra).toNat % 64 = 0) (hfirst : e.normalAt ((e.arch x.core.val).getG ra).toNat = true)
    (hlast : e.normalAt (((e.arch x.core.val).getG ra).toNat + 0x17F) = true) (hbuf : (e.core x.core.val).storeBuf = [])
    (hline : ∀ i, i < 6 → (∃ ch n, e.place (((e.arch x.core.val).getG ra).toNat + 64 * i) = .dram ch n) ∧
      (e.core x.core.val).l2Line (((e.arch x.core.val).getG ra).toNat / 64 + i) = some (l i) ∧ (l i).poison = false) :
    let r := parseRequest ((List.range 6).flatMap fun i => Line.slice (l i).data 0 64)
    let st := e.panelStatus r
    Leaves (.psetup x ra) s fun d =>
      d.arch x.core.val = { (e.arch x.core.val).setG ra (statusWord st) with pc := s.pc x + 4 } ∧ (st.1 ≠ 0 → d.csr = e.csr ∧ d.panels = e.panels) ∧
      (st.1 = 0 → d.slotState st.2 = 1 ∧ d.fld (.pnlSlot st.2) .PNL_SLOT_NMEMB = r.nmemb ∧ (d.panel st.2).members = r.members) := by
  intro r st
  obtain ⟨d, hd, hread⟩ := Dev.readNormal_lines (key := 0) (fuel := 8) 6 0 (by decide) (Dev.ReadBy.refl e x.core.val) hs hbuf ha hline
  have hbody := Dev.psetup_read ha hfirst hlast hread
  have hst : d.panelStatus r = st := hd.panelStatus_eq r
  have hrest := Dev.retire_rest ((d.setUpIf r).modArch x.core.val fun a => a.setG ra (statusWord (d.panelStatus r))) x.core.val t.pa (s.pc x + 4)
  refine ⟨_, ⟨?_, psetup_does h hl hs hbody⟩, ?_, fun hbad => ?_, fun hgood => ?_⟩
  · rw [Dev.fabric_retire, Dev.modArch, Dev.fabric_modCore, Dev.fabric_setUpIf, hd.fabric_eq, h.fetches.free]
  · rw [Dev.arch_retire, Dev.modArch, Dev.arch, Dev.core_modCore_self, ← hst, ← hd.arch_eq, ← d.arch_setUpIf r]
    rfl
  · rw [hrest, Dev.setUpIf, if_neg (by rw [hst]; exact hbad), hd.rest_eq]
    exact ⟨rfl, rfl⟩
  · have hset : d.setUpIf r = d.setUp r st.2 := by rw [Dev.setUpIf, hst, if_pos hgood]
    have hn := parseRequest_nmemb_le (Dev.request_good hgood)
    rw [hset] at hrest
    have hcsr := (congrArg Dev.csr hrest).trans (d.csr_setUp r st.2)
    rw [hset]
    refine ⟨(Dev.fld_congr hcsr _ _).trans (d.slotState_slotFormed r st.2), (Dev.fld_congr hcsr _ _).trans (d.nmemb_slotFormed r st.2 hn), ?_⟩
    rw [hrest]
    exact congrArg Panel.members (d.panel_setUp r st.2)

end Requests

/-- Settles O30. -/
theorem panelRequests : Obligations.PanelRequests := by
  unfold Obligations.PanelRequests
  intro x ra s e t
  refine ⟨ltime_registersBecome, Dev.ltime_outside, fun h hl hs => ⟨fun ha => ?_, fun ha hfirst hlast hgood hw => ?_, psetup_near h hl hs⟩,
    fun h hl hs => ⟨fun hfree => ?_, fun hrun => ?_⟩⟩
  · exact ⟨by rw [Dev.fabric_retire, Dev.fabric_withArch, h.fetches.free], psetup_does h hl hs (Dev.psetup_misaligned ha)⟩
  · exact ⟨by rw [Dev.fabric_retire, Dev.modArch, Dev.fabric_modCore, hw],
      psetup_does h hl hs (Dev.psetup_read ha hfirst hlast (Prod.ext rfl (Prod.ext rfl hgood)))⟩
  · have hbody : e.pdissolve x.core.val ra = (e.modArch x.core.val fun a => a.setG ra 7, .next) := by
      rw [Dev.pdissolve, hfree]
      rfl
    exact ⟨by rw [Dev.fabric_retire, Dev.fabric_withArch, h.fetches.free], pdissolve_does h hl hs hbody⟩
  · have hbody : e.pdissolve x.core.val ra = ((e.setFld (.pnlSlot (((e.arch x.core.val).getG ra).toNat % 16)) .PNL_SLOT_STATE 3).modArch x.core.val
        fun a => a.setG ra 0, .next) := by
      rw [Dev.pdissolve, hrun]
      rfl
    exact ⟨by rw [Dev.fabric_retire, Dev.modArch, Dev.fabric_modCore, Dev.setFld_fabric, h.fetches.free], pdissolve_does h hl hs hbody⟩

end Sys2Proof.Machine

/-! Prover's part. Vector instructions, element by element. -/

namespace Sys2Proof.Machine

/-! ### Elements of a register (R32, R50) -/

theorem elemWidth_pos (et : Elem) : 0 < elemWidth et := by cases et <;> decide

/-- An element that lies in the register ends within it. -/
theorem lane_end_le {w k : Nat} (hw : 0 < w) (hk : k < 256 / w) : w * k + w ≤ 256 := by
  have h := (Nat.le_div_iff_mul_le hw).mp hk
  rwa [Nat.succ_mul, Nat.mul_comm k w] at h

theorem elemOf_lt (v : Vec) (w k : Nat) : elemOf v w k < 2 ^ w := Nat.mod_lt _ (Nat.two_pow_pos w)

theorem packElems_elem (w : Nat) (l : List Nat) (k : Nat) : packElems w l / 2 ^ (w * k) % 2 ^ w = l.getD k 0 % 2 ^ w := by
  induction l generalizing k with
  | nil => simp [packElems]
  | cons y l ih =>
    cases k with
    | zero => simp [packElems]
    | succ k =>
      have hy : y % 2 ^ w / 2 ^ w = 0 := Nat.div_eq_of_lt (Nat.mod_lt _ (Nat.two_pow_pos w))
      rw [packElems, Nat.mul_succ, Nat.add_comm (w * k), Nat.pow_add, ← Nat.div_div_eq_div_mul, Nat.add_mul_div_left _ _ (Nat.two_pow_pos w), hy,
        Nat.zero_add, ih, List.getD_cons_succ]

/-- Each element of a register made from a list is the list's element modulo the width, 0 beyond the list's end. -/
theorem elemOf_vecOf {w k : Nat} (l : List Nat) (hw : 0 < w) (hk : k < 256 / w) : elemOf (vecOf w l) w k = l.getD k 0 % 2 ^ w := by
  have hend := lane_end_le hw hk
  have hsplit : 2 ^ 256 = 2 ^ (w * k) * 2 ^ (256 - w * k) := by rw [← Nat.pow_add, Nat.add_sub_cancel' (by omega)]
  have hdvd : 2 ^ w ∣ 2 ^ (256 - w * k) := Nat.pow_dvd_pow 2 (by omega)
  rw [elemOf, vecOf, BitVec.toNat_ofNat, hsplit, Nat.mod_mul_right_div_self, Nat.mod_mod_of_dvd _ hdvd, packElems_elem]

theorem elemOf_vecOf_range {w k n : Nat} (g : Nat → Nat) (hw : 0 < w) (hk : k < 256 / w) :
    elemOf (vecOf w ((List.range n).map g)) w k = if k < n then g k % 2 ^ w else 0 := by
  rw [elemOf_vecOf _ hw hk]
  by_cases h : k < n
  · simp [h, List.getD_eq_getElem?_getD]
  · simp [h, List.getD_eq_getElem?_getD]

/-- A register made from a function of all its elements' numbers. -/
theorem elemOf_vecOf_lanes {w k : Nat} (g : Nat → Nat) (hw : 0 < w) (hk : k < 256 / w) :
    elemOf (vecOf w ((List.range (256 / w)).map g)) w k = g k % 2 ^ w := by
  rw [elemOf_vecOf_range g hw hk, if_pos hk]

theorem elemOf_vecMap2 {w k : Nat} (f : Nat → Nat → Nat) (a b : Vec) (hw : 0 < w) (hk : k < 256 / w) :
    elemOf (vecMap2 w f a b) w k = f (elemOf a w k) (elemOf b w k) % 2 ^ w := by
  rw [vecMap2, vecElems, vecElems, List.zipWith_map, List.zipWith_self, elemOf_vecOf_lanes _ hw hk]

/-! ### Signed elements (R100) -/

theorem uns_cast (w : Nat) (z : Int) : (uns w z : Int) = z % 2 ^ w :=
  Int.toNat_of_nonneg (Int.emod_nonneg z (Int.ne_of_gt (Int.pow_pos (by decide))))

theorem uns_lt (w : Nat) (z : Int) : uns w z < 2 ^ w := by
  have h : (uns w z : Int) < 2 ^ w := by
    rw [uns_cast]
    exact Int.emod_lt_of_pos z (Int.pow_pos (by decide))
  exact_mod_cast h

theorem uns_mod (w : Nat) (z : Int) : uns w z % 2 ^ w = uns w z := Nat.mod_eq_of_lt (uns_lt w z)

theorem sub_uns_emod (w : Nat) (z : Int) : (z - (uns w z : Int)) % 2 ^ w = 0 := by
  rw [uns_cast]
  exact Int.emod_eq_emod_iff_emod_sub_eq_zero.mp (Int.emod_emod z _).symm

/-- Elements that are equal as signed numbers are equal. -/
theorem sgn_inj {w a b : Nat} (ha : a < 2 ^ w) (hb : b < 2 ^ w) (h : sgn w a = sgn w b) : a = b := by
  have ha' : (a : Int) < 2 ^ w := by exact_mod_cast ha
  have hb' : (b : Int) < 2 ^ w := by exact_mod_cast hb
  rw [sgn, sgn] at h
  generalize (2 : Int) ^ w = m at *
  split at h <;> split at h <;> omega

/-- A choice between two results that are equal for equal elements may count equality on either side. -/
theorem ite_sgn_lt_eq_le {w a b c d : Nat} (ha : a < 2 ^ w) (hb : b < 2 ^ w) (h : a = b → c = d) :
    (if sgn w a < sgn w b then c else d) = if sgn w a ≤ sgn w b then c else d := by
  rcases lt_trichotomy (sgn w a) (sgn w b) with hlt | heq | hgt
  · rw [if_pos hlt, if_pos hlt.le]
  · rw [h (sgn_inj ha hb heq), ite_self, ite_self]
  · rw [if_neg hgt.not_gt, if_neg hgt.not_ge]

theorem satSigned_eq (w : Nat) (v : Int) : satSigned w v = uns w (max (-(2 ^ (w - 1))) (min (2 ^ (w - 1) - 1) v)) := by
  have hpos : (0 : Int) < 2 ^ (w - 1) := Int.pow_pos (by decide)
  rw [satSigned]
  generalize (2 : Int) ^ (w - 1) = hi at *
  congr 1
  split
  · omega
  · split <;> omega

theorem ite_lt_two_pow {w a b : Nat} (p : Prop) [Decidable p] (ha : a < 2 ^ w) (hb : b < 2 ^ w) : (if p then a else b) < 2 ^ w := by
  split
  · exact ha
  · exact hb

theorem maskElem_mod (w : Nat) (c : Bool) : maskElem w c % 2 ^ w = maskElem w c :=
  Nat.mod_eq_of_lt (ite_lt_two_pow _ (Nat.sub_lt (Nat.two_pow_pos w) Nat.one_pos) (Nat.two_pow_pos w))

/-! ### Integer instructions and compares (R100) -/

/-- What an instruction leaves turns on its function of the registers that the fetch left. -/
theorem registersBecome_congr {i : Instr} {x : Ctx} {s : State} {e : Dev} {t : Trans} {f g : Arch → Arch}
    (h : RegistersBecome s x i e t f) (hfg : f (e.arch x.core.val) = g (e.arch x.core.val)) : RegistersBecome s x i e t g := by
  rw [RegistersBecome] at h ⊢
  rwa [← hfg]

/-- An instruction of `vectorInteger` leaves elements that are, modulo the width, its function of its sources' elements. -/
theorem vectorInteger_runsAs {i : Instr} {x : Ctx} {o : OpsV} {f : Nat → Nat → Nat → Nat} (h : vectorInteger i = some (x, o, f)) :
    ∃ g : Nat → Nat → Nat → Nat, RunsAs i x (vintWork x o g) ∧ ∀ w a b, a < 2 ^ w → b < 2 ^ w → g w a b % 2 ^ w = f w a b := by
  cases i
  all_goals simp only [vectorInteger, Option.some.injEq, Prod.mk.injEq, reduceCtorEq] at h
  all_goals obtain ⟨rfl, rfl, rfl⟩ := h
  all_goals refine ⟨_, fun _ => rfl, fun w a b ha hb => ?_⟩
  all_goals beta_reduce
  case vadd | vmul => rfl
  case vsub => rw [Nat.add_sub_assoc hb.le]
  case vmulh | vsra => exact uns_mod w _
  case vmin => rw [Nat.mod_eq_of_lt (ite_lt_two_pow _ ha hb), ite_sgn_lt_eq_le ha hb id]
  case vmax => rw [Nat.mod_eq_of_lt (ite_lt_two_pow _ hb ha), ite_sgn_lt_eq_le ha hb Eq.symm]
  case vminu =>
    rw [Nat.mod_eq_of_lt (ite_lt_two_pow _ ha hb)]
    split <;> omega
  case vmaxu =>
    rw [Nat.mod_eq_of_lt (ite_lt_two_pow _ hb ha)]
    split <;> omega
  case vand => exact Nat.mod_eq_of_lt (Nat.and_lt_two_pow a hb)
  case vor => exact Nat.mod_eq_of_lt (Nat.or_lt_two_pow ha hb)
  case vxor => exact Nat.mod_eq_of_lt (Nat.xor_lt_two_pow ha hb)
  case vsll => rw [vShift, Nat.shiftLeft_eq]
  case vsrl =>
    rw [vShift, Nat.shiftRight_eq_div_pow]
    exact Nat.mod_eq_of_lt (Nat.lt_of_le_of_lt (Nat.div_le_self ..) ha)
  case vadds | vsubs => rw [satSigned_eq, uns_mod]
  case vceq | vcne | vclt | vcle | vcltu | vcleu =>
    rw [maskElem_mod, maskElem]
    simp

/-! ### Permutes (R100) -/

/-- An instruction of `vectorMove` leaves the elements that it selects. -/
theorem vectorMove_runsAs {i : Instr} {x : Ctx} {vd : RegNo} {et : Elem} {f : Arch → Nat → Nat} (h : vectorMove i = some (x, vd, et, f)) :
    ∃ (srcs dsts : List Nat) (g : Arch → Vec), RunsAs i x (regWork x srcs dsts fun a => a.setV vd (g a)) ∧
      ∀ a k, k < 256 / elemWidth et → elemOf (g a) (elemWidth et) k = f a k % 2 ^ elemWidth et := by
  cases i
  all_goals simp only [vectorMove, Option.some.injEq, Prod.mk.injEq, reduceCtorEq] at h
  all_goals obtain ⟨rfl, rfl, rfl, rfl⟩ := h
  all_goals refine ⟨_, _, _, fun _ => rfl, fun a k hk => ?_⟩
  all_goals beta_reduce
  case vperm => rw [permOf, vecElems, List.map_map, elemOf_vecOf_lanes _ (elemWidth_pos _) hk, Function.comp]
  case vbcast =>
    have hlanes : k < lanes _ := hk
    rw [elemOf_vecOf _ (elemWidth_pos _) hk, List.getD_replicate _ hlanes]
  case vziplo | vziphi =>
    rw [zipOf, elemOf_vecOf_lanes _ (elemWidth_pos _) hk, ← apply_ite (a.getV ·)]
    simp
  case vunzipe | vunzipo => rw [unzipOf, elemOf_vecOf_lanes _ (elemWidth_pos _) hk]; rfl
  case vsel => rw [selOf, elemOf_vecOf_lanes _ (elemWidth_pos _) hk, ite_not]

/-- Settles O31. -/
theorem vectorIntegers : Obligations.VectorIntegers := by
  unfold Obligations.VectorIntegers
  refine ⟨fun i x o f s e t hi h => ?_, fun i x vd et f s e t hi h => ?_⟩
  · obtain ⟨g, hr, hg⟩ := vectorInteger_runsAs hi
    refine ⟨_, registersBecome_congr (hr.registersBecome h) rfl, fun k hk => ?_⟩
    rw [elemOf_vecMap2 _ _ _ (elemWidth_pos _) hk, hg _ _ _ (elemOf_lt ..) (elemOf_lt ..)]
  · obtain ⟨srcs, dsts, g, hr, hg⟩ := vectorMove_runsAs hi
    exact ⟨g (e.arch x.core.val), registersBecome_congr (hr.registersBecome h) rfl, fun k hk => hg _ k hk⟩

/-! ### Floating instructions (R98 to R100) -/

section Float
variable {vd : RegNo} {rs : List RegNo} {et : Elem} {f : Fmt → Rm → List Nat → Nat × Exc}

/-- An instruction of `vectorFloat` applies its function to its sources' elements. -/
theorem vectorFloat_runsAs {i : Instr} {x : Ctx} (h : vectorFloat i = some (x, vd, rs, et, f)) : RunsAs i x (vfpWork x vd rs et f) := by
  cases i
  all_goals simp only [vectorFloat, Option.some.injEq, Prod.mk.injEq, reduceCtorEq] at h
  all_goals obtain ⟨rfl, rfl, rfl, rfl, rfl⟩ := h
  all_goals exact fun _ => rfl

/-- The results of a range of elements and the exceptions that they signal. -/
theorem gather_range (n : Nat) (r : Nat → Nat × Exc) :
    gather ((List.range n).map r) = ((List.range n).map fun k => (r k).1, (List.range n).foldl (fun y k => y.or (r k).2) {}) := by
  rw [gather, List.map_map, List.foldl_map]
  rfl

theorem fpElems_eq (w : Nat) (g : List Nat → Nat × Exc) (vs : List Vec) :
    fpElems w g vs = (vecOf w ((List.range (256 / w)).map fun k => (g (vs.map fun v => elemOf v w k)).1),
      (List.range (256 / w)).foldl (fun y k => y.or (g (vs.map fun v => elemOf v w k)).2) {}) := by
  rw [fpElems, gather_range]

/-- What a floating instruction leaves. -/
theorem vfpWork_registersBecome {i : Instr} {x : Ctx} {s : State} {e : Dev} {t : Trans} (hr : RunsAs i x (vfpWork x vd rs et f))
    (h : Executes s x i e t) :
    let p := fpElems (elemWidth et) (f (elemFmt et) (e.arch x.core.val).rm) (rs.map (e.arch x.core.val).getV)
    RegistersBecome s x i e t fun b => (b.setV vd p.1).signal p.2 := registersBecome_congr (hr.registersBecome h) rfl

end Float

/-! ### Conversion (R101) -/

theorem convOf_eq (src dst : Elem) (rm : Rm) (v : Vec) :
    convOf src dst rm v = (vecOf (elemWidth dst) ((List.range (min (lanes src) (lanes dst))).map fun k => (convElem src dst rm (elemOf v (elemWidth src) k)).1),
      (List.range (min (lanes src) (lanes dst))).foldl (fun y k => y.or (convElem src dst rm (elemOf v (elemWidth src) k)).2) {}) := by
  rw [convOf, gather_range]

theorem vcvt_registersBecome {x : Ctx} {vd vs1 : RegNo} {src dst : Elem} {s : State} {e : Dev} {t : Trans}
    (h : Executes s x (.vcvt x vd vs1 src dst) e t) :
    let p := convOf src dst (e.arch x.core.val).rm ((e.arch x.core.val).getV vs1)
    RegistersBecome s x (.vcvt x vd vs1 src dst) e t fun b => (b.setV vd p.1).signal p.2 := by
  have hr : RunsAs (.vcvt x vd vs1 src dst) x (regWork x [vnum vs1] [vnum vd] fun a =>
      (a.setV vd (convOf src dst a.rm (a.getV vs1)).1).signal (convOf src dst a.rm (a.getV vs1)).2) := fun _ => rfl
  exact registersBecome_congr (hr.registersBecome h) rfl

/-- Between integers. -/
theorem convElem_int {src dst : Elem} (rm : Rm) (n : Nat) (hs : src.isInt = true) (hd : dst.isInt = true) :
    convElem src dst rm n = (uns (elemWidth dst) (sgn (elemWidth src) n), {}) := by
  rw [convElem, hs, hd]

/-- Settles O32. -/
theorem vectorFloats : Obligations.VectorFloats := by
  unfold Obligations.VectorFloats
  refine ⟨fun i x vd rs et f s e t hi h => ?_, fun x vd vs1 src dst s e t h => ?_⟩
  · have hleft := vfpWork_registersBecome (vectorFloat_runsAs hi) h
    simp only [fpElems_eq, List.map_map] at hleft
    exact ⟨_, hleft, fun k hk => elemOf_vecOf_lanes _ (elemWidth_pos et) hk⟩
  · have hleft := vcvt_registersBecome h
    simp only [convOf_eq] at hleft
    have hlane : ∀ k, k < min (lanes src) (lanes dst) → k < 256 / elemWidth dst := fun k hk => Nat.lt_of_lt_of_le hk (Nat.min_le_right ..)
    refine ⟨_, hleft, fun k hk => ?_, fun k hk hd => ?_, fun hsi hdi k hk => ?_⟩
    · rw [elemOf_vecOf_range _ (elemWidth_pos dst) (hlane k hk), if_pos hk]
    · rw [elemOf_vecOf_range _ (elemWidth_pos dst) hd, if_neg (Nat.not_lt.mpr hk)]
    · rw [elemOf_vecOf_range _ (elemWidth_pos dst) (hlane k hk), if_pos hk, convElem_int _ _ hsi hdi, uns_mod]
      exact sub_uns_emod _ _

end Sys2Proof.Machine

/-! Prover's part. What an invalidation removes from cores, engines and I/O stops. -/

namespace Sys2Proof.Machine

/-! ### The issuer's record of a TINV (R91, R150) -/

section Issuer
variable (d : Dev) (a target : Agent) (n : Nat) (dropped : Bool)

/-- A target's answer is noted at the issuer, in its cores alone. -/
theorem Dev.noteApplied_rest : d.noteApplied a n target = { d with cores := (d.noteApplied a n target).cores } := by
  cases a <;> rfl

theorem Dev.noteDropped_rest : d.noteDropped a n = { d with cores := (d.noteDropped a n).cores } := by
  cases a <;> rfl

theorem Dev.ackTinv_rest : d.ackTinv a n target dropped = { d with cores := (d.ackTinv a n target dropped).cores } := by
  cases a <;> rfl

/-- Only the issuer's record of its broadcasts differs. -/
theorem Dev.core_noteApplied (k : Nat) : (d.noteApplied a n target).core k = { d.core k with tinvs := ((d.noteApplied a n target).core k).tinvs } := by
  cases a with
  | core c =>
    by_cases hk : k = c.val
    · subst hk
      rw [Dev.noteApplied, Dev.core_modCore_self]
    · rw [Dev.noteApplied, Dev.core_modCore_other d _ hk]
  | socket | cxl | io | engine => rfl

theorem Dev.applied_noteApplied (q : CoreId) : ∀ b ∈ ((d.noteApplied (.core q) n target).core q.val).tinvs, b.serial = n → target ∈ b.targets →
    target ∈ b.applied := by
  rw [Dev.noteApplied, Dev.core_modCore_self]
  intro b hb hn ht
  obtain ⟨x, -, rfl⟩ := List.mem_map.mp hb
  split at ht
  · next hx =>
    rw [if_pos hx]
    exact List.mem_cons_self
  · next hx =>
    rw [if_neg hx] at hn
    simp [hn, ht] at hx

theorem Dev.regs_ackTinv (c : CoreId) : (d.ackTinv (.core c) n target dropped).regs = d.regs := Dev.regs_modCore d _ rfl rfl

/-- An acknowledged target is off the broadcast. -/
theorem Dev.targets_ackTinv (c : CoreId) : ∀ b ∈ ((d.ackTinv (.core c) n target dropped).core c.val).tinvs, b.serial = n → target ∉ b.targets := by
  rw [Dev.ackTinv, Dev.core_modCore_self, Core.ackTinv]
  intro b hb hn ht
  obtain ⟨x, -, rfl⟩ := List.mem_map.mp hb
  split at ht
  · simp at ht
  · next hx =>
    rw [if_neg hx] at hn
    simp [hn, ht] at hx

theorem Dev.holderDone_rest (g : Nat) (l : List (Agent × Nat)) :
    d.holderDone g l dropped = { d with cores := (d.holderDone g l dropped).cores } := by
  refine fold_keeps (fun x : Dev => x = { d with cores := x.cores }) _ (fun x w hx => ?_) l d rfl
  have hnoted : (if dropped then x.noteDropped w.1 w.2 else x) = { d with cores := (if dropped then x.noteDropped w.1 w.2 else x).cores } := by
    split
    · rw [Dev.noteDropped_rest, hx]
    · exact hx
  generalize (if dropped then x.noteDropped w.1 w.2 else x) = y at hnoted ⊢
  dsimp only
  split
  · exact hnoted
  · rw [Dev.ackTinv_rest, hnoted]

theorem Dev.stop_holderDone (g : Nat) (l : List (Agent × Nat)) (k : Nat) : (d.holderDone g l dropped).stop k = d.stop k := by
  rw [Dev.holderDone_rest]
  rfl

theorem Dev.fabric_holderDone (g : Nat) (l : List (Agent × Nat)) : (d.holderDone g l dropped).fabric = d.fabric := by rw [Dev.holderDone_rest]

theorem Dev.csr_holderDone (g : Nat) (l : List (Agent × Nat)) : (d.holderDone g l dropped).csr = d.csr := by rw [Dev.holderDone_rest]

end Issuer

/-- A stop's storage is none of the registers. -/
theorem Dev.stop_setReg (d : Dev) (r : Reg) (v : Word) (k : Nat) : (d.setReg r v).stop k = d.stop k := by
  rw [Dev.stop, Dev.setReg_stops, Dev.stop]

/-! ### XLATEINV and XLATEACK (R90, R91, R150, R313) -/

section Targets
variable (d : Dev) (v : Tinv)

/-- A core to which a TINV comes. -/
theorem Dev.xlateInv_core (c : CoreId) (k : Nat) :
    (d.xlateInv (.core c) v).core k = if k = c.val then ((d.noteApplied v.issuer v.serial (.core c)).core k).applyTinv v
      else (d.noteApplied v.issuer v.serial (.core c)).core k := by
  rw [Dev.xlateInv]
  by_cases hk : k = c.val
  · subst hk
    rw [if_pos rfl]
    exact Dev.core_modCore_self ..
  · rw [if_neg hk]
    exact Dev.core_modCore_other _ _ hk

theorem Dev.arch_xlateInv_core (c : CoreId) (k : Nat) : (d.xlateInv (.core c) v).arch k = d.arch k := by
  rw [Dev.arch, Dev.xlateInv_core, Dev.core_noteApplied]
  split
  · rfl
  · rfl

theorem Dev.tinvs_xlateInv_core (c : CoreId) (k : Nat) :
    ((d.xlateInv (.core c) v).core k).tinvs = ((d.noteApplied v.issuer v.serial (.core c)).core k).tinvs := by
  rw [Dev.xlateInv_core]
  split
  · rfl
  · rfl

theorem Dev.waits_xlateInv (t : Agent) : (d.xlateInv t v).fabric.waits = d.fabric.waits := by
  have hnoted : (d.noteApplied v.issuer v.serial t).fabric = d.fabric := by rw [Dev.noteApplied_rest]
  rw [← hnoted]
  cases t with
  | socket k =>
    rw [Dev.xlateInv]
    dsimp only
    split
    · rfl
    · rfl
  | core | engine | io | cxl => rfl

theorem Dev.engine_xlateInv (n : EngineId) :
    ((d.xlateInv (.engine n) v).engine n.val).xlate = (d.engine n.val).xlate.filter fun t => !tinvRemovesLeaf v t := by
  have hnoted : (d.noteApplied v.issuer v.serial (.engine n)).engine n.val = d.engine n.val := by rw [Dev.noteApplied_rest]; rfl
  rw [← hnoted, Dev.xlateInv]
  exact congrArg Engine.xlate (Dev.engine_modEngine_self ..)

/-- A stop to which a TINV comes. -/
theorem Dev.stop_xlateInv (g : IoStopId) : (d.xlateInv (.io g) v).stop g.val = { d.stop g.val with
    xlate := (d.stop g.val).xlate.filter fun t => !tinvRemovesLeaf v t,
    holders := (d.stop g.val).holders.map fun h => if v.scope == .all || h.tenant == v.tenant then
      { h with waiting := h.waiting ++ [(v.issuer, v.serial)], reqs := h.reqs ++ tinvRequests v ((d.stop g.val).leafSize h v),
               evict := h.evict || v.scope == .all || v.scope == .tenant } else h } := by
  have hnoted : (d.noteApplied v.issuer v.serial (.io g)).stop g.val = d.stop g.val := by rw [Dev.noteApplied_rest]; rfl
  rw [← hnoted, Dev.xlateInv]
  exact Dev.stop_modStop_self ..

end Targets

theorem xlateinv_core (c : CoreId) (v : Tinv) (s : State) : Leaves (.xlateinv (.core c) v) s fun e =>
    let k := (s.dev.core c.val).applyTinv v
    (e.core c.val).itlb = k.itlb ∧ (e.core c.val).dtlb = k.dtlb ∧ (e.core c.val).tlb2 = k.tlb2 ∧ (e.core c.val).walk = k.walk ∧
    (e.core c.val).sdc = k.sdc ∧ (∀ j, e.arch j = s.dev.arch j) ∧
    ∀ q : CoreId, v.issuer = .core q → ∀ b ∈ (e.core q.val).tinvs, b.serial = v.serial → .core c ∈ b.targets → .core c ∈ b.applied := by
  have hcore : (s.dev.xlateInv (.core c) v).core c.val =
      { (s.dev.core c.val).applyTinv v with tinvs := ((s.dev.noteApplied v.issuer v.serial (.core c)).core c.val).tinvs } := by
    rw [Dev.xlateInv_core, if_pos rfl, Dev.core_noteApplied]
    rfl
  refine leaves_of_done rfl (s.dev.waits_xlateInv v _) ?_
  intro k
  rw [hcore]
  refine ⟨rfl, rfl, rfl, rfl, rfl, s.dev.arch_xlateInv_core v c, fun q hq => ?_⟩
  rw [Dev.tinvs_xlateInv_core, hq]
  exact s.dev.applied_noteApplied _ _ q

theorem xlateinv_engine (n : EngineId) (v : Tinv) (s : State) : Leaves (.xlateinv (.engine n) v) s fun e =>
    ∀ t, t ∈ (e.engine n.val).xlate ↔ t ∈ (s.dev.engine n.val).xlate ∧ tinvRemovesLeaf v t = false := by
  refine leaves_of_done rfl (s.dev.waits_xlateInv v _) fun t => ?_
  rw [Dev.engine_xlateInv, List.mem_filter, Bool.not_eq_true']

theorem xlateinv_io (g : IoStopId) (v : Tinv) (s : State) : Leaves (.xlateinv (.io g) v) s fun e =>
    (∀ t ∈ (e.stop g.val).xlate, tinvRemovesLeaf v t = false) ∧
    ∀ h ∈ (e.stop g.val).holders, v.scope = .all ∨ h.tenant = v.tenant → (v.issuer, v.serial) ∈ h.waiting := by
  refine leaves_of_done rfl (s.dev.waits_xlateInv v _) ?_
  rw [Dev.stop_xlateInv]
  refine ⟨fun t ht => by simpa using (List.mem_filter.mp ht).2, fun h hh hc => ?_⟩
  obtain ⟨x, -, rfl⟩ := List.mem_map.mp hh
  split at hc
  · next hx =>
    rw [if_pos hx]
    exact List.mem_append_right _ List.mem_cons_self
  · next hx => simp [hc] at hx

section Ack
variable {d : Dev} {c : CoreId} {n : Nat} {a : Agent} {dr : Bool}

/-- An acknowledgement that counts: the target has applied the TINV and no device of it is waited for, or it is a socket or a device. -/
theorem Dev.xlateAck_counts (dr : Bool)
    (h : ((d.core c.val).tinvs.any fun x => x.serial == n && x.applied.contains a) = true ∧
      (∀ g, a = .io g → ∀ h ∈ (d.stop g.val).holders, (.core c, n) ∉ h.waiting) ∨ (∃ k, a = .socket k) ∨ ∃ h, a = .cxl h) :
    ∃ y, d.xlateAck c n a dr = d.ackTinv (.core c) n a y := by
  cases a with
  | socket k => exact ⟨dr, rfl⟩
  | cxl k => exact ⟨dr, rfl⟩
  | core k =>
    obtain ⟨hdone, -⟩ := h.resolve_right (by simp)
    exact ⟨false, if_pos hdone⟩
  | engine k =>
    obtain ⟨hdone, -⟩ := h.resolve_right (by simp)
    exact ⟨false, if_pos hdone⟩
  | io g =>
    obtain ⟨hdone, hclear⟩ := h.resolve_right (by simp)
    have hall : ((d.stop g.val).holders.all fun h => !h.waiting.contains (.core c, n)) = true := by simpa using hclear g rfl
    exact ⟨dr, if_pos (by rw [hdone, hall, Bool.and_self])⟩

/-- One that comes before its target has applied the TINV changes nothing. -/
theorem Dev.xlateAck_early (dr : Bool) (h : ((d.core c.val).tinvs.any fun x => x.serial == n && x.applied.contains a) = false)
    (hs : ∀ k, a ≠ .socket k) (hc : ∀ k, a ≠ .cxl k) : d.xlateAck c n a dr = d := by
  cases a with
  | socket k => exact absurd rfl (hs k)
  | cxl k => exact absurd rfl (hc k)
  | core k => exact if_neg (ne_true_of_eq_false h)
  | engine k => exact if_neg (ne_true_of_eq_false h)
  | io g => exact if_neg (by rw [h, Bool.false_and]; decide)

end Ack

theorem xlateack_counts {c : CoreId} {n : Nat} {a : Agent} {s : State} (dr : Bool)
    (h : ((s.dev.core c.val).tinvs.any fun x => x.serial == n && x.applied.contains a) = true ∧
      (∀ g, a = .io g → ∀ h ∈ (s.dev.stop g.val).holders, (.core c, n) ∉ h.waiting) ∨ (∃ k, a = .socket k) ∨ ∃ h, a = .cxl h) :
    Gives (.xlateack c n a dr) s fun e => (∀ b ∈ (e.core c.val).tinvs, b.serial = n → a ∉ b.targets) ∧ (∀ j, e.arch j = s.dev.arch j) ∧
      ∀ j, j ≠ c.val → e.core j = s.dev.core j := by
  obtain ⟨y, hy⟩ := Dev.xlateAck_counts dr h
  refine ⟨s.dev.xlateAck c n a dr, rfl, ?_⟩
  rw [hy]
  exact ⟨s.dev.targets_ackTinv a n y c, fun j => Dev.arch_of_regs (s.dev.regs_ackTinv a n y c) j, fun j hj => Dev.core_modCore_other _ _ hj⟩

theorem xlateack_early {c : CoreId} {n : Nat} {a : Agent} {s : State} (dr : Bool)
    (h : ((s.dev.core c.val).tinvs.any fun x => x.serial == n && x.applied.contains a) = false) (hs : ∀ k, a ≠ .socket k) (hc : ∀ k, a ≠ .cxl k) :
    Becomes (.xlateack c n a dr) s s.dev := by
  have hx : exec (.xlateack c n a dr) s = s.next (s.dev.xlateAck c n a dr) := rfl
  rw [Becomes, hx, Dev.xlateAck_early dr h hs hc]
  rfl

/-! ### Contexts (R310) -/

section CtxInval
variable {d : Dev} {g : Nat} {first last : Half}

/-- An invalidation of contexts that software has asked for. -/
theorem Dev.ctxInval_asked (hb : d.bit (.iosCtxInv g) .IOS_CTX_INV_BUSY = true) (hf : d.fld (.iosCtxInv g) .IOS_CTX_INV_FIRST = first.toNat)
    (hl : d.fld (.iosCtxInv g) .IOS_CTX_INV_LAST = last.toNat) :
    d.ctxInval g first last = (d.modStop g fun s => { s with
      ctxs := s.ctxs.filter (fun c => !(decide (first.toNat ≤ c.rid.toNat) && decide (c.rid.toNat ≤ last.toNat))), xlate := [] }).setFld
        (.iosCtxInv g) .IOS_CTX_INV_BUSY 0 := by
  rw [Dev.ctxInval]
  exact if_neg (by simp [hb, hf, hl])

theorem Dev.ctxInval_unasked (hb : d.bit (.iosCtxInv g) .IOS_CTX_INV_BUSY = false) : d.ctxInval g first last = d := by
  rw [Dev.ctxInval]
  exact if_pos (by simp [hb])

end CtxInval

theorem contextInvalidation_asked {g : IoStopId} {first last : Half} {s : State} (hb : s.dev.bit (.iosCtxInv g.val) .IOS_CTX_INV_BUSY = true)
    (hf : s.dev.fld (.iosCtxInv g.val) .IOS_CTX_INV_FIRST = first.toNat) (hl : s.dev.fld (.iosCtxInv g.val) .IOS_CTX_INV_LAST = last.toNat) :
    Gives (.contextInvalidation g first last) s fun e =>
      (e.stop g.val).xlate = [] ∧ e.fld (.iosCtxInv g.val) .IOS_CTX_INV_BUSY = 0 ∧
      ∀ x, x ∈ (e.stop g.val).ctxs ↔ x ∈ (s.dev.stop g.val).ctxs ∧ ¬ (first.toNat ≤ x.rid.toNat ∧ x.rid.toNat ≤ last.toNat) := by
  refine ⟨s.dev.ctxInval g.val first last, rfl, ?_⟩
  rw [Dev.ctxInval_asked hb hf hl]
  dsimp only
  rw [Dev.setFld, Dev.stop_setReg, Dev.stop_modStop_self, ← Dev.setFld]
  refine ⟨rfl, Dev.fld_setFld_self _ _ _ 0 (by decide), fun x => ?_⟩
  rw [List.mem_filter, Bool.not_eq_true', Bool.and_eq_false_iff, decide_eq_false_iff_not, decide_eq_false_iff_not, not_and_or]

theorem contextInvalidation_unasked {g : IoStopId} {first last : Half} {s : State} (hb : s.dev.bit (.iosCtxInv g.val) .IOS_CTX_INV_BUSY = false) :
    Becomes (.contextInvalidation g first last) s s.dev := by
  have hx : exec (.contextInvalidation g first last) s = s.next (s.dev.ctxInval g.val first last) := rfl
  rw [Becomes, hx, Dev.ctxInval_unasked hb]
  rfl

/-! ### Completed invalidations (R312, R313) -/

section InvalCompletion
variable {d : Dev} {g : Nat} {rid tenant : Half} {h : Holder}

theorem Dev.invalCompletion_more (hfind : ((d.stop g).holders.find? fun h => h.rid == rid && h.tenant == tenant) = some h) (hn : 2 ≤ h.reqs.length) :
    d.invalCompletion g rid tenant = d.modStop g fun s => { s with
      holders := (d.stop g).holders.map fun x => if x = h then { x with reqs := x.reqs.tail } else x } := by
  rw [Dev.invalCompletion, hfind]
  simp only [hn, if_true, beq_iff_eq]

theorem Dev.invalCompletion_last (hfind : ((d.stop g).holders.find? fun h => h.rid == rid && h.tenant == tenant) = some h) (hn : h.reqs.length < 2)
    (he : h.evict = false) :
    d.invalCompletion g rid tenant = (d.modStop g fun s => { s with
      holders := (d.stop g).holders.map fun x => if x = h then { x with waiting := [], reqs := [] } else x }).holderDone g h.waiting false := by
  rw [Dev.invalCompletion, hfind]
  simp only [Nat.not_le.mpr hn, he, if_false, beq_iff_eq, Bool.false_eq_true]

end InvalCompletion

theorem invalidationCompletion_more {g : IoStopId} {rid tenant : Half} {h : Holder} {s : State}
    (hfind : ((s.dev.stop g.val).holders.find? fun h => h.rid == rid && h.tenant == tenant) = some h) (hn : 2 ≤ h.reqs.length) :
    Leaves (.invalidationCompletion g rid tenant) s fun e =>
      (e.stop g.val).holders = (s.dev.stop g.val).holders.map fun x => if x = h then { x with reqs := x.reqs.tail } else x := by
  refine leaves_of_done (e := s.dev.invalCompletion g.val rid tenant) rfl ?_ ?_
  · rw [Dev.invalCompletion_more hfind hn, Dev.modStop_fabric]
  · rw [Dev.invalCompletion_more hfind hn, Dev.stop_modStop_self]

theorem invalidationCompletion_last {g : IoStopId} {rid tenant : Half} {h : Holder} {s : State}
    (hfind : ((s.dev.stop g.val).holders.find? fun h => h.rid == rid && h.tenant == tenant) = some h) (hn : h.reqs.length < 2) (he : h.evict = false) :
    Leaves (.invalidationCompletion g rid tenant) s fun e =>
      (e.stop g.val).holders = (s.dev.stop g.val).holders.map fun x => if x = h then { x with waiting := [], reqs := [] } else x := by
  refine leaves_of_done (e := s.dev.invalCompletion g.val rid tenant) rfl ?_ ?_
  · rw [Dev.invalCompletion_last hfind hn he, Dev.fabric_holderDone, Dev.modStop_fabric]
  · rw [Dev.invalCompletion_last hfind hn he, Dev.stop_holderDone, Dev.stop_modStop_self]

/-! ### Containment waits for nothing (R315 to R317) -/

section Contain
variable (d : Dev)

theorem Dev.waits_outDone (g : Nat) (r : OutReq) (v : Word) (err : Bool) : (d.outDone g r v err).fabric.waits = d.fabric.waits := by
  rw [Dev.outDone]
  dsimp only
  split
  · rw [Dev.waits_send]
    rfl
  · rfl

theorem Dev.fabric_setDead (f : Fld) (i : Nat) (v : Bool) : (d.setDead f i v).fabric = d.fabric :=
  Dev.foldl_frame Dev.fabric (fun _ _ => Dev.setFld_fabric ..) _ d

theorem Dev.fabric_tellAll (m : BoardMsg) : (d.tellAll m).fabric = d.fabric := by
  rw [Dev.tellAll]
  split
  · rfl
  · rfl

theorem Dev.fabric_declareDead_cxl (h : CxlId) : (d.declareDead (.cxl h)).fabric = d.fabric := by
  rw [Dev.declareDead, Dev.fabric_tellAll, Dev.fabric_setDead]
  dsimp only
  rw [Dev.dropTarget, Dev.fabric_setDead]

/-- With no request that waits for a holder, none is taken again. -/
theorem Dev.atsRetries_none {g : Nat} (n : Nat) (h : (d.stop g).atsWait = []) : d.atsRetries g n = d :=
  fold_keeps (fun x : Dev => x = d) _ (fun x _ hx => by rw [Dev.atsRetry, hx, h]) (List.range n) d rfl

/-- A contained port, its link down where containment takes it down. -/
def Dev.portDown (p : Nat) (why : ContainCause) : Dev :=
  let down := why = .linkDown ∨ why = .abandoned
  let d1 := d.modPort p fun y => { y with contained := true, up := if down then false else y.up }
  if down then d1.setFld (.sknState (p / 4)) .SKN_STATE_UP (setBit (d1.fld (.sknState (p / 4)) .SKN_STATE_UP) (p % 4) false) else d1

/-- The holders behind a port. -/
def Dev.holdersOf (p : Nat) : List Holder := (d.stop (stopOfPort p)).holders.filter fun h => h.port == p

/-- The holders behind a contained port are freed, and none of their TINVs waits for them. -/
def Dev.freeHolders (p : Nat) (dropped : Bool) : Dev :=
  (d.holdersOf p).foldl (fun y h => y.holderDone (stopOfPort p) h.waiting dropped) (d.modStop (stopOfPort p) fun s => { s with
    holders := s.holders.filter (fun h => h.port != p), atsWait := s.atsWait.filter fun t => t.port.val != p })

/-- The requests sent out of a contained port end with all ones. -/
def Dev.endOuts (p : Nat) : Dev := ((d.stop (stopOfPort p)).outs.filter fun r => r.port == p).foldl
  (fun y r => y.outDone (stopOfPort p) r (BitVec.ofNat 64 (2 ^ (8 * r.size) - 1)) false) d

/-- A caching device behind a contained port is dead. -/
def Dev.cutDevice (x : PortSt) : Dev :=
  match x.cxl with
  | some h => if x.caches then d.declareDead (.cxl (Fin.ofNat 16 h)) else d
  | none => d

theorem Dev.contain_eq {p : Nat} {why : ContainCause} (h : ¬ (!(d.port p).assigned || (d.port p).contained) = true) :
    d.contain p why = ((((((((((d.portDown p why).freeHolders p (why == .atsTimeout || (d.port p).caches)).atsRetries (stopOfPort p)
      ((d.portDown p why).holdersOf p).length).endOuts p).cutDevice (d.port p)).dpcRecord p why).countFld (.iosStat (stopOfPort p))
      .IOS_STAT_CONTAIN 1).errAux (412 + stopOfPort p) 0x30 p (containCode why)).wire (4129 + 2 * stopOfPort p)).wire (4144 + p / 4)) := by
  rw [Dev.contain]
  exact if_neg h

theorem Dev.portDown_frame (p : Nat) (why : ContainCause) :
    (d.portDown p why).fabric = d.fabric ∧ ∀ k, (d.portDown p why).stop k = d.stop k := by
  rw [Dev.portDown]
  split
  · exact ⟨by rw [Dev.setFld_fabric, Dev.modPort_fabric], fun k => Dev.stop_setReg ..⟩
  · exact ⟨rfl, fun k => rfl⟩

theorem Dev.freeHolders_frame (p : Nat) (dropped : Bool) (h : (d.stop (stopOfPort p)).atsWait = []) :
    (d.freeHolders p dropped).fabric = d.fabric ∧ ((d.freeHolders p dropped).stop (stopOfPort p)).atsWait = [] := by
  rw [Dev.freeHolders, Dev.foldl_frame Dev.fabric fun y _ => y.fabric_holderDone ..]
  rw [Dev.foldl_frame (fun y : Dev => y.stop (stopOfPort p)) fun y _ => y.stop_holderDone .., Dev.stop_modStop_self, h]
  exact ⟨rfl, rfl⟩

theorem Dev.waits_endOuts (p : Nat) : (d.endOuts p).fabric.waits = d.fabric.waits :=
  Dev.foldl_frame (fun y : Dev => y.fabric.waits) (fun y _ => y.waits_outDone ..) _ d

theorem Dev.fabric_cutDevice (x : PortSt) : (d.cutDevice x).fabric = d.fabric := by
  rw [Dev.cutDevice]
  split
  · split
    · exact d.fabric_declareDead_cxl _
    · rfl
  · rfl

theorem Dev.fabric_dpcRecord (p : Nat) (why : ContainCause) : (d.dpcRecord p why).fabric = d.fabric := by cases why <;> rfl

/-- With no request that waits for a holder, containment makes nothing wait. -/
theorem Dev.waits_contain (p : Nat) (why : ContainCause) (h : ∀ k, (d.stop k).atsWait = []) :
    (d.contain p why).fabric.waits = d.fabric.waits := by
  by_cases hp : (!(d.port p).assigned || (d.port p).contained) = true
  · rw [Dev.contain]
    exact congrArg (fun x : Dev => x.fabric.waits) (if_pos hp)
  · obtain ⟨hdown, hstop⟩ := d.portDown_frame p why
    obtain ⟨hfree, hwait⟩ := (d.portDown p why).freeHolders_frame p (why == .atsTimeout || (d.port p).caches) (by rw [hstop, h])
    rw [d.contain_eq hp, Dev.atsRetries_none _ _ hwait]
    simp only [Dev.wire, Dev.errAux, Dev.report_fabric, Dev.countFld, Dev.setFld_fabric, Dev.fabric_dpcRecord, Dev.fabric_cutDevice, Dev.waits_endOuts, hfree, hdown]

end Contain

/-! ### ATS timeouts (R314) -/

/-- The fields of IOS_ATS_LOG that a timeout records. -/
def Holder.atsLog (h : Holder) (rid tenant : Half) : List (Fld × Nat) :=
  [(.IOS_ATS_LOG_VALID, 1), (.IOS_ATS_LOG_PORT, h.port), (.IOS_ATS_LOG_TENANT, tenant.toNat), (.IOS_ATS_LOG_RID, rid.toNat)]

/-- A stop that has dropped a holder and logged it. -/
def Dev.dropHolder (d : Dev) (g : Nat) (rid tenant : Half) (h : Holder) : Dev :=
  (((((d.modStop g fun s => { s with holders := s.holders.filter fun x => !(x.rid == rid && x.tenant == tenant) }).setFlds (.iosAtsLog g)
    (h.atsLog rid tenant)).countFld (.iosStat g) .IOS_STAT_ATSTO 1).holderDone g h.waiting true).wire (4129 + 2 * g))

section DropHolder
variable {d e : Dev} {g : Nat} {rid tenant : Half} {h : Holder}

/-- The timeout of a holder whose requester has no context. -/
theorem Dev.atsTimeout_noContext (hfind : ((d.stop g).holders.find? fun h => h.rid == rid && h.tenant == tenant) = some h) (he : h.evict = false)
    (hctx : d.context g rid = (e, none)) : d.atsTimeout g rid tenant = (e.dropHolder g rid tenant h).contain h.port .atsTimeout := by
  rw [Dev.atsTimeout, hfind]
  dsimp only
  rw [hctx, he]
  rfl

variable (d g rid tenant h)

theorem Dev.fabric_dropHolder : (d.dropHolder g rid tenant h).fabric = d.fabric := by
  rw [Dev.dropHolder, Dev.wire, Dev.report_fabric, Dev.fabric_holderDone, Dev.countFld, Dev.setFld_fabric, Dev.setFlds_fabric, Dev.modStop_fabric]

theorem Dev.stop_dropHolder (k : Nat) : (d.dropHolder g rid tenant h).stop k =
    (d.modStop g fun s => { s with holders := s.holders.filter fun x => !(x.rid == rid && x.tenant == tenant) }).stop k := by
  have hreport : ∀ (x : Dev) (r : Report), (x.report r).stop k = x.stop k := fun x r => rfl
  rw [Dev.dropHolder, Dev.wire, hreport, Dev.stop_holderDone, Dev.countFld, Dev.setFld, Dev.stop_setReg, Dev.setFlds, Dev.stop_setReg]

theorem Dev.atsWait_dropHolder (k : Nat) : ((d.dropHolder g rid tenant h).stop k).atsWait = (d.stop k).atsWait := by
  rw [Dev.stop_dropHolder]
  by_cases hk : k = g
  · subst hk
    rw [Dev.stop_modStop_self]
  · rw [Dev.stop_modStop_other _ _ hk]

theorem Dev.holders_dropHolder : ∀ x ∈ ((d.dropHolder g rid tenant h).stop g).holders, ¬ (x.rid = rid ∧ x.tenant = tenant) := by
  rw [Dev.stop_dropHolder, Dev.stop_modStop_self]
  intro x hx
  simpa only [Bool.not_eq_true', Bool.and_eq_false_iff, beq_eq_false_iff_ne, ← not_and_or] using (List.mem_filter.mp hx).2

/-- A field of the log. -/
theorem Dev.log_dropHolder (f : Fld) : (d.dropHolder g rid tenant h).fld (.iosAtsLog g) f =
    getF ((h.atsLog rid tenant).foldl (fun w p => setF w p.1 p.2) (d.reg (.iosAtsLog g))) f := by
  have hcsr : (d.dropHolder g rid tenant h).csr = (((d.modStop g fun s => { s with
      holders := s.holders.filter fun x => !(x.rid == rid && x.tenant == tenant) }).setFlds (.iosAtsLog g) (h.atsLog rid tenant)).countFld
      (.iosStat g) .IOS_STAT_ATSTO 1).csr := by
    rw [Dev.dropHolder, Dev.wire, Dev.report_csr, Dev.csr_holderDone]
  rw [Dev.fld_congr hcsr, Dev.countFld, Dev.fld_setFld_reg_other _ _ _ _ (by simp only [Reg.offset]; omega), Dev.fld_setFlds_self]
  rfl

theorem Dev.logged_dropHolder : (d.dropHolder g rid tenant h).fld (.iosAtsLog g) .IOS_ATS_LOG_VALID = 1 ∧
    (d.dropHolder g rid tenant h).fld (.iosAtsLog g) .IOS_ATS_LOG_RID = rid.toNat ∧
    (d.dropHolder g rid tenant h).fld (.iosAtsLog g) .IOS_ATS_LOG_TENANT = tenant.toNat := by
  simp only [Dev.log_dropHolder, Holder.atsLog, List.foldl_cons, List.foldl_nil]
  refine ⟨?_, ?_, ?_⟩
  · rw [getF_setF_other _ _ _ _ (by decide) (by decide), getF_setF_other _ _ _ _ (by decide) (by decide),
      getF_setF_other _ _ _ _ (by decide) (by decide), getF_setF_self _ _ _ (by decide)]
    rfl
  · rw [getF_setF_self _ _ _ (by decide)]
    exact Nat.mod_eq_of_lt rid.isLt
  · rw [getF_setF_other _ _ _ _ (by decide) (by decide), getF_setF_self _ _ _ (by decide)]
    exact Nat.mod_eq_of_lt tenant.isLt

end DropHolder

theorem atsTimeout_leaves {g : IoStopId} {rid tenant : Half} {h : Holder} {d : Dev} {s : State}
    (hfind : ((s.dev.stop g.val).holders.find? fun h => h.rid == rid && h.tenant == tenant) = some h) (he : h.evict = false)
    (hctx : s.dev.context g.val rid = (d, none)) (hw : d.fabric.waits = s.dev.fabric.waits) (hempty : ∀ k, (d.stop k).atsWait = []) :
    Leaves (.atsTimeout g rid tenant) s fun e => ∃ d4 : Dev, e = d4.contain h.port .atsTimeout ∧
      (∀ x ∈ (d4.stop g.val).holders, ¬ (x.rid = rid ∧ x.tenant = tenant)) ∧
      d4.fld (.iosAtsLog g.val) .IOS_ATS_LOG_VALID = 1 ∧ d4.fld (.iosAtsLog g.val) .IOS_ATS_LOG_RID = rid.toNat ∧
      d4.fld (.iosAtsLog g.val) .IOS_ATS_LOG_TENANT = tenant.toNat := by
  have heq := Dev.atsTimeout_noContext hfind he hctx
  refine leaves_of_done (e := s.dev.atsTimeout g.val rid tenant) rfl ?_
    ⟨d.dropHolder g.val rid tenant h, heq, d.holders_dropHolder g.val rid tenant h, d.logged_dropHolder ..⟩
  rw [heq, Dev.waits_contain _ _ _ fun k => (d.atsWait_dropHolder g.val rid tenant h k).trans (hempty k), Dev.fabric_dropHolder, hw]

/-! ### Translation requests (R311, R312) -/

theorem Dev.fabric_dmaFault (d : Dev) (g reason code : Nat) (rid : Half) (addr : Word) : (d.dmaFault g reason code rid addr).fabric = d.fabric := by
  rw [Dev.dmaFault]
  split
  · rw [Dev.wire, Dev.report_fabric, Dev.countFld, Dev.setFld_fabric]
  · rw [Dev.wire, Dev.report_fabric, Dev.setReg_fabric, Dev.setFlds_fabric, Dev.countFld, Dev.setFld_fabric]

section Requests
variable {d d1 d2 : Dev} {g : Nat} {t : Tlp} {c : CtxEntry} {pa size : Nat} {key : BitVec 11}

theorem Dev.translationRequest_pasid (hp : d.portDead t.port.val = false) (hs : t.pasid = true) :
    d.translationRequest g t = (d.dmaFault g 7 0 t.rid t.addr).out 0 true := by
  rw [Dev.translationRequest, hp, hs]
  rfl

/-- The word that answers a request: its page, and in its low bits the logarithm of its size (log entry 33). -/
def atsAnswer (pa size : Nat) : Word := BitVec.ofNat 64 (pa - pa % min size (2 ^ 30) + Nat.log2 (min size (2 ^ 30)))

/-- A request that is translated, with room in the holder table, leaves its requester a holder and changes nothing else. -/
theorem Dev.translationRequest_answered (hp : d.portDead t.port.val = false) (hs : t.pasid = false)
    (hen : d.bit (.iosCtxRoot g) .IOS_CTX_ROOT_EN = true) (hctx : d.context g t.rid = (d1, some c)) (hats : c.ats = true)
    (hx : d1.dmaXlate g { t with translated := false } .load = (d2, .ok pa key size)) (hroom : (d2.stop g).holders.length < 256) :
    ∃ f : IoStop → IoStop, d.translationRequest g t = (d2.modStop g f).out (atsAnswer pa size) false ∧
      ∃ h ∈ (f (d2.stop g)).holders, h.rid = t.rid ∧ h.tenant = c.tenant := by
  rw [hs] at hx
  rw [Dev.translationRequest, hp, hs, hen, hctx]
  dsimp only
  rw [hats]
  simp only [Bool.not_true, Bool.false_eq_true, if_false, hx]
  split
  · next h hfind =>
    have hmine := List.find?_some hfind
    rw [Bool.and_eq_true, beq_iff_eq, beq_iff_eq] at hmine
    exact ⟨_, rfl, _, List.mem_cons_self, hmine⟩
  · rw [if_pos hroom]
    exact ⟨_, rfl, _, List.mem_cons_self, rfl, rfl⟩

/-- The context of a requester that the stop holds. -/
theorem Dev.context_cached (h : ((d.stop g).ctxs.find? fun x => x.rid == t.rid) = some c) : d.context g t.rid = (d, some c) := by
  rw [Dev.context, h]

/-- A request that needs no translation, for DRAM. -/
theorem Dev.dmaXlate_flat {ch n : Nat} (hs : t.pasid = false) (hen : d.bit (.iosCtxRoot g) .IOS_CTX_ROOT_EN = true)
    (h : ((d.stop g).ctxs.find? fun x => x.rid == t.rid) = some c) (hm : c.mode = 1) (ha : t.addr.toNat < 2 ^ 52) (hplace : d.place t.addr.toNat = .dram ch n) :
    d.dmaXlate g { t with translated := false } .load = (d, .ok t.addr.toNat c.key 4096) := by
  have htarget : d.dmaTarget c.p2p false t.addr.toNat = true := by rw [Dev.dmaTarget, hplace]
  rw [Dev.dmaXlate]
  dsimp only
  rw [Nat.mod_eq_of_lt ha, hs, hen, Dev.context_cached h]
  simp [hm, htarget]

end Requests

theorem translationRequest_pasid {g : IoStopId} {t : Tlp} {s : State} (hp : s.dev.portDead t.port.val = false) (hs : t.pasid = true) :
    Completes (.translationRequest g t) s ((s.dev.dmaFault g.val 7 0 t.rid t.addr).out 0 true) := by
  have hx : exec (.translationRequest g t) s = s.done (s.dev.translationRequest g.val t) := rfl
  rw [Dev.translationRequest_pasid hp hs] at hx
  refine completes_of_done hx ?_
  rw [Dev.out, Dev.fabric_dmaFault]

theorem translationRequest_answered {g : IoStopId} {t : Tlp} {s : State} {c : CtxEntry} {d1 d2 : Dev} {pa size : Nat} {key : BitVec 11}
    (hp : s.dev.portDead t.port.val = false) (hs : t.pasid = false) (hen : s.dev.bit (.iosCtxRoot g.val) .IOS_CTX_ROOT_EN = true)
    (hctx : s.dev.context g.val t.rid = (d1, some c)) (hats : c.ats = true)
    (hx : d1.dmaXlate g.val { t with translated := false } .load = (d2, .ok pa key size)) (hroom : (d2.stop g.val).holders.length < 256)
    (hw : d2.fabric.waits = s.dev.fabric.waits) :
    Leaves (.translationRequest g t) s fun e => e.outErr = false ∧ e.outWord = atsAnswer pa size ∧
      (∃ h ∈ (e.stop g.val).holders, h.rid = t.rid ∧ h.tenant = c.tenant) ∧ e.mem = d2.mem ∧ e.csr = d2.csr := by
  obtain ⟨f, heq, hheld⟩ := Dev.translationRequest_answered hp hs hen hctx hats hx hroom
  refine leaves_of_done (e := s.dev.translationRequest g.val t) rfl ?_ ?_
  · rw [heq, Dev.out, Dev.modStop_fabric, hw]
  · rw [heq]
    refine ⟨rfl, rfl, ?_, rfl, rfl⟩
    have hstop : ((d2.modStop g.val f).out (atsAnswer pa size) false).stop g.val = f (d2.stop g.val) := Dev.stop_modStop_self d2 g.val f
    rwa [hstop]

/-- Settles O42. -/
theorem translationTargets : Obligations.TranslationTargets := by
  unfold Obligations.TranslationTargets
  refine ⟨xlateinv_core, xlateinv_engine, xlateinv_io, fun c n a dr s => ⟨xlateack_counts dr, xlateack_early dr⟩,
    fun g first last s => ⟨contextInvalidation_asked, contextInvalidation_unasked⟩,
    fun g rid tenant h s hfind => ⟨invalidationCompletion_more hfind, invalidationCompletion_last hfind⟩,
    fun g rid tenant h d s => atsTimeout_leaves, fun g t s => translationRequest_pasid, ?_, ?_⟩
  · intro g t s c d1 d2 pa size key hp hs hen hctx hats hx hroom hw
    obtain ⟨e, he, herr, hword, hheld, -, -⟩ := translationRequest_answered hp hs hen hctx hats hx hroom hw
    exact ⟨e, he, herr, hword, hheld⟩
  · intro g t s c ch n hp hs hen hfind hats hm ha hplace hroom
    have hanswer : atsAnswer t.addr.toNat 4096 = BitVec.ofNat 64 (t.addr.toNat - t.addr.toNat % 4096 + 12) := rfl
    rw [← hanswer]
    exact translationRequest_answered hp hs hen (Dev.context_cached hfind) hats (Dev.dmaXlate_flat hs hen hfind hm ha hplace) hroom rfl

end Sys2Proof.Machine

/-! Prover's part. The upkeep of a core: transient replays, hardware prefetches and the attachment of a debugger. -/

namespace Sys2Proof.Machine

/-! ### Transient replays (R116 to R118) -/

theorem Dev.core_setFld (d : Dev) (r : Reg) (f : Fld) (n k : Nat) : (d.setFld r f n).core k = d.core k := rfl

theorem Dev.core_countFld (d : Dev) (r : Reg) (f : Fld) (n k : Nat) : (d.countFld r f n).core k = d.core k := rfl

theorem Dev.fld_countFld_self (d : Dev) (r : Reg) (f : Fld) (n : Nat) (h : f.lo + f.width ≤ 64) :
    (d.countFld r f n).fld r f = min (d.fld r f + n) (2 ^ f.width - 1) := by
  rw [Dev.countFld, Dev.fld_setFld_self _ _ _ _ h]
  exact Nat.mod_eq_of_lt (lt_of_le_of_lt (Nat.min_le_right ..) (Nat.sub_lt (Nat.two_pow_pos _) one_pos))

theorem detectorCode_lt (det : Detector) : detectorCode det < 2 ^ (Fld.CORE_REPLAY_LASTSRC).width := by
  cases det
  all_goals decide

section Replay
variable {d : Dev} {c : Nat} {det : Detector}

/-- Patch RAM whose parity fails is loaded again, which changes its core's patch alone. -/
theorem Dev.onlyCore_reload (d : Dev) (c : Nat) (det : Detector) :
    ∃ p, d.OnlyCore (if det == .patchParity then d.reloadPatch c else d) c { d.core c with patch := p } := by
  split
  · exact ⟨_, d.onlyCore_modCore c _⟩
  · exact ⟨(d.core c).patch, rfl, fun _ _ => rfl, rfl⟩

/-- A failed check that is no hard fault: its core restarts with no routine, and then the failure is counted with its detector. -/
theorem Dev.replay_counts (hon : d.isOn c = true) (hrun : (d.core c).run ≠ .stopped) (hf : (d.core c).hardFault = false)
    (hn : (d.core c).replays < 3) :
    ∃ e p, d.OnlyCore e c { d.core c with patch := p } ∧
      d.replay c det = ((e.countFld (.coreReplay c) .CORE_REPLAY_COUNT 1).setFld (.coreReplay c) .CORE_REPLAY_LASTSRC (detectorCode det)).modCore c
        fun k => { k with replays := k.replays + 1, routine := none } := by
  obtain ⟨p, hp⟩ := d.onlyCore_reload c det
  refine ⟨_, p, hp, ?_⟩
  simp [Dev.replay, hon, hrun, hf, Nat.not_le.mpr hn]

theorem Dev.replay_fails (hon : d.isOn c = true) (hrun : (d.core c).run ≠ .stopped) (hf : (d.core c).hardFault = false)
    (hn : 3 ≤ (d.core c).replays) : d.replay c det = d.modCore c fun k => { k with hardFault := true, routine := none } := by
  simp [Dev.replay, hon, hrun, hf, hn]

end Replay

section TransientReplay
variable {c : CoreId} {det : Detector} {s : State}

theorem transientReplay_counts (hon : s.dev.isOn c.val = true) (hrun : (s.dev.core c.val).run ≠ .stopped)
    (hf : (s.dev.core c.val).hardFault = false) (hn : (s.dev.core c.val).replays < 3) :
    Gives (.transientReplay c det) s fun e =>
      (e.core c.val).replays = (s.dev.core c.val).replays + 1 ∧ (e.core c.val).hardFault = false ∧ (e.core c.val).routine = none ∧
      e.arch c.val = s.dev.arch c.val ∧ (∀ k, k ≠ c.val → e.core k = s.dev.core k) ∧ e.mem = s.dev.mem ∧
      e.fld (.coreReplay c.val) .CORE_REPLAY_COUNT = min (s.dev.fld (.coreReplay c.val) .CORE_REPLAY_COUNT + 1)
        (2 ^ (Fld.CORE_REPLAY_COUNT).width - 1) ∧
      e.fld (.coreReplay c.val) .CORE_REPLAY_LASTSRC = detectorCode det := by
  obtain ⟨e, p, hp, hdev⟩ := Dev.replay_counts (det := det) hon hrun hf hn
  obtain ⟨hcore, hother, -⟩ := id hp
  refine ⟨s.dev.replay c.val det, rfl, ?_⟩
  rw [hdev]
  have hself : (((e.countFld (.coreReplay c.val) .CORE_REPLAY_COUNT 1).setFld (.coreReplay c.val) .CORE_REPLAY_LASTSRC (detectorCode det)).modCore
      c.val fun k => { k with replays := k.replays + 1, routine := none }).core c.val =
      { s.dev.core c.val with patch := p, replays := (s.dev.core c.val).replays + 1, routine := none } := by
    rw [Dev.core_modCore_self, Dev.core_setFld, Dev.core_countFld, hcore]
  refine ⟨by rw [hself], by rw [hself]; exact hf, by rw [hself], by rw [Dev.arch, hself]; rfl, fun k hk => ?_, hp.mem_eq, ?_, ?_⟩
  · rw [Dev.core_modCore_other _ _ hk, Dev.core_setFld, Dev.core_countFld, hother k hk]
  · rw [Dev.fld_congr (Dev.modCore_csr ..), Dev.fld_setFld_other _ _ _ _ _ (by decide) (by decide), Dev.fld_countFld_self _ _ _ _ (by decide),
      Dev.fld_congr hp.csr_eq]
  · rw [Dev.fld_congr (Dev.modCore_csr ..), Dev.fld_setFld_self _ _ _ _ (by decide), Nat.mod_eq_of_lt (detectorCode_lt det)]

theorem transientReplay_fails (hon : s.dev.isOn c.val = true) (hrun : (s.dev.core c.val).run ≠ .stopped)
    (hf : (s.dev.core c.val).hardFault = false) (hn : 3 ≤ (s.dev.core c.val).replays) :
    Gives (.transientReplay c det) s fun e => s.dev.OnlyCore e c.val { s.dev.core c.val with hardFault := true, routine := none } := by
  refine ⟨s.dev.replay c.val det, rfl, ?_⟩
  rw [Dev.replay_fails hon hrun hf hn]
  exact s.dev.onlyCore_modCore c.val _

end TransientReplay

/-! ### Hardware prefetches (R106) -/

theorem Dev.regs_l2Read (d : Dev) (c ln : Nat) (key : BitVec 11) : (d.l2Read c ln key).1.regs = d.regs := by
  unfold Dev.l2Read
  dsimp only
  split
  · rfl
  · split
    · exact (Dev.regs_fillL2 ..).trans (d.regs_homeServe ..)
    · exact d.regs_homeServe ..

theorem Dev.regs_fillL1 (d : Dev) (c ln : Nat) (fetch : Bool) : (d.fillL1 c ln fetch).regs = d.regs := by
  cases fetch with
  | false => exact Dev.ite_regs rfl (d.regs_modCore c rfl rfl)
  | true => exact Dev.ite_regs rfl (d.regs_modCore c rfl rfl)

section Prefetch
variable {d : Dev} {c : Nat} {p : Prefetcher} {ea : Word}

theorem Dev.regs_hwPrefetch (d : Dev) (c : Nat) (p : Prefetcher) (ea : Word) : (d.hwPrefetch c p ea).regs = d.regs := by
  unfold Dev.hwPrefetch
  refine Dev.ite_regs rfl ?_
  split
  · exact Dev.ite_regs rfl (Dev.ite_regs ((Dev.regs_fillL1 ..).trans (d.regs_l2Read ..)) (d.regs_l2Read ..))
  · rfl

theorem Dev.hwPrefetch_far (h : ∀ a, (d.core c).lastLoad = some a → a.toNat / 4096 ≠ ea.toNat / 4096) : d.hwPrefetch c p ea = d := by
  have hfar : ((d.core c).lastLoad.any fun a => a.toNat / 4096 == ea.toNat / 4096) = false := by
    cases hl : (d.core c).lastLoad with
    | none => rfl
    | some a => exact beq_false_of_ne (h a hl)
  simp [Dev.hwPrefetch, hfar]

theorem Dev.hwPrefetch_stream {pa : Nat} {key : BitVec 11} (hon : d.isOn c = true) (hrun : (d.core c).run = .running)
    (hlvl : d.fld (.corePrefetch c) .CORE_PREFETCH_L2_LVL ≠ 0)
    (hnear : ((d.core c).lastLoad.any fun a => a.toNat / 4096 == ea.toNat / 4096) = true) (hx : d.xlateHeld c ea = some (pa, key))
    (hdev : deviceRange pa = false) (hspad : inSpad pa = false) : d.hwPrefetch c .stream ea = (d.l2Read c (pa / 64) key).1 := by
  simp [Dev.hwPrefetch, hon, hrun, hlvl, hnear, hx, hdev, hspad]

end Prefetch

theorem hardwarePrefetch_completes {c : CoreId} {p : Prefetcher} {ea : Word} {s : State} {e : Dev} (h : s.dev.hwPrefetch c.val p ea = e)
    (hw : e.fabric.waits = s.dev.fabric.waits) : Completes (.hardwarePrefetch c p ea) s e := by
  subst h
  exact completes_of_done rfl hw

/-! ### Debuggers (R472) -/

theorem Dev.debugAttach_locked {d : Dev} {c : Nat} (h : d.od 0x8020 0 0 ≠ 1) : d.debugAttach c true = d := by
  simp [Dev.debugAttach, h]

/-- An attachment marks its core, and at most voids a panel besides. -/
theorem Dev.debug_debugAttach {d : Dev} {c : Nat} (h : d.od 0x8020 0 0 = 1) : ((d.debugAttach c true).core c).debug = true := by
  have hmark : ((d.modCore c fun k => { k with debug := true }).core c).debug = true := by rw [Dev.core_modCore_self]
  have hopen : ¬ (d.od 0x8020 0 0 != 1) = true := by simp [h]
  rw [Dev.debugAttach, if_neg (by decide), if_neg hopen]
  dsimp only
  split
  · split
    · exact hmark
    · exact hmark
  · exact hmark

theorem debugAttachment_locked {c : CoreId} {s : State} (h : s.dev.od 0x8020 0 0 ≠ 1) : Becomes (.debugAttachment c true) s s.dev := by
  have hx : exec (.debugAttachment c true) s = s.next (s.dev.debugAttach c.val true) := rfl
  rwa [Dev.debugAttach_locked h] at hx

/-- Settles O34. -/
theorem coreUpkeep : Obligations.CoreUpkeep := by
  unfold Obligations.CoreUpkeep
  exact ⟨fun c det s hon hrun hf => ⟨transientReplay_counts hon hrun hf, transientReplay_fails hon hrun hf⟩,
    fun c p ea s => ⟨⟨s.dev.hwPrefetch c.val p ea, rfl, Dev.arch_of_regs (s.dev.regs_hwPrefetch c.val p ea)⟩,
      fun hfar => hardwarePrefetch_completes (Dev.hwPrefetch_far hfar) rfl⟩,
    fun c ea s pa key hon hrun hlvl hnear hx hdev hspad hw =>
      hardwarePrefetch_completes (Dev.hwPrefetch_stream hon hrun hlvl hnear hx hdev hspad) hw,
    fun c s => rfl, fun c s => debugAttachment_locked, fun c s h => ⟨s.dev.debugAttach c.val true, rfl, Dev.debug_debugAttach h⟩⟩

end Sys2Proof.Machine

/-! Prover's part. What the memory controllers, accesses of memory and snoops leave alone. -/

namespace Sys2Proof.Machine

/-! ### The device apart from its memory controllers -/

/-- The device without what a memory controller, the waking of its channel or a packet on its way changes; what waits stays. -/
def Dev.sansMemory (d : Dev) : Dev := { d with
  chans := [], csr := [], mem := [], lines := [], zclear := [], reports := [], freeCtr := 0, doms := [],
  fabric := { d.fabric with net := [], parked := [], asks := [], seen := [] } }

/-- The same without the fabric. -/
def Dev.sansFabric (d : Dev) : Dev := { d.sansMemory with fabric := Fabric.reset }

/-- The same without the caches of cores and of devices. -/
def Dev.sansCaches (d : Dev) : Dev := { d.sansFabric with cores := [], ports := [], dict := Dev.reset.dict }

section Sans
variable {d e : Dev}

theorem Dev.sansFabric_congr (h : e.sansMemory = d.sansMemory) : e.sansFabric = d.sansFabric := congrArg (fun x => { x with fabric := Fabric.reset }) h
theorem Dev.sansCaches_congr (h : e.sansFabric = d.sansFabric) : e.sansCaches = d.sansCaches :=
  congrArg (fun x => { x with cores := [], ports := [], dict := Dev.reset.dict }) h
theorem Dev.waits_congr (h : e.sansMemory = d.sansMemory) : e.fabric.waits = d.fabric.waits := congrArg (fun x => x.fabric.waits) h
theorem Dev.cores_congr (h : e.sansFabric = d.sansFabric) : e.cores = d.cores :=
  (congrArg (fun x : Dev => x.cores) h :)
theorem Dev.slices_congr (h : e.sansCaches = d.sansCaches) : e.slices = d.slices :=
  (congrArg (fun x : Dev => x.slices) h :)
theorem Dev.hash_congr (h : e.sansCaches = d.sansCaches) : e.hash = d.hash :=
  (congrArg (fun x : Dev => x.hash) h :)
theorem Dev.pins_congr (h : e.sansCaches = d.sansCaches) : e.pins = d.pins :=
  (congrArg (fun x : Dev => x.pins) h :)

end Sans

section McFrame
variable (d : Dev)

theorem Dev.sansMemory_modChan (n : Nat) (f : ChanSt → ChanSt) : (d.modChan n f).sansMemory = d.sansMemory := rfl
theorem Dev.sansMemory_setReg (r : Reg) (v : Word) : (d.setReg r v).sansMemory = d.sansMemory := rfl
theorem Dev.sansMemory_setFld (r : Reg) (f : Fld) (x : Nat) : (d.setFld r f x).sansMemory = d.sansMemory := rfl
theorem Dev.sansMemory_countFld (r : Reg) (f : Fld) (k : Nat) : (d.countFld r f k).sansMemory = d.sansMemory := rfl
theorem Dev.sansMemory_report (r : Report) : (d.report r).sansMemory = d.sansMemory := rfl
theorem Dev.sansMemory_errAt (bank code unit addr : Nat) : (d.errAt bank code unit addr).sansMemory = d.sansMemory := rfl
theorem Dev.sansMemory_wire (n : Nat) : (d.wire n).sansMemory = d.sansMemory := rfl
theorem Dev.sansMemory_draw : d.draw.2.sansMemory = d.sansMemory := rfl
theorem Dev.sansMemory_noteHeld (ch : Nat) : (d.noteHeld ch).sansMemory = d.sansMemory := rfl
theorem Dev.sansMemory_noteIssue (ch : Nat) (l : List Req) (r : Req) : (d.noteIssue ch l r).sansMemory = d.sansMemory := rfl
theorem Dev.sansMemory_lastUe (ch kind ln n : Nat) : (d.lastUe ch kind ln n).sansMemory = d.sansMemory := rfl
theorem Dev.sansMemory_lastCe (ch ln n dev : Nat) (bits : Word) : (d.lastCe ch ln n dev bits).sansMemory = d.sansMemory := rfl
theorem Dev.sansMemory_retryClean (ch : Nat) : (d.retryClean ch).sansMemory = d.sansMemory := rfl
theorem Dev.sansMemory_loseLine (ln : Nat) : (d.loseLine ln).sansMemory = d.sansMemory := rfl
theorem Dev.sansMemory_store (ln : Nat) (x : Line) (m : LineMeta) : (d.store ln x m).sansMemory = d.sansMemory := rfl
theorem Dev.sansMemory_setCeArmed (ch r : Nat) (v : Bool) : (d.setCeArmed ch r v).sansMemory = d.sansMemory := rfl
theorem Dev.sansMemory_setCeLevel (ch r x : Nat) : (d.setCeLevel ch r x).sansMemory = d.sansMemory := rfl

theorem Dev.sansMemory_bucket (ch r : Nat) : (d.bucket ch r).sansMemory = d.sansMemory := by
  grind [Dev.bucket, Dev.sansMemory_setReg, Dev.sansMemory_report, Dev.sansMemory_wire, Dev.sansMemory_setCeArmed, Dev.sansMemory_setCeLevel]

theorem Dev.sansMemory_checkLine (ch ln n : Nat) (f : ReadAttempt) : (d.checkLine ch ln n f).1.sansMemory = d.sansMemory := by
  grind [Dev.checkLine, Dev.sansMemory_countFld, Dev.sansMemory_report, Dev.sansMemory_lastUe, Dev.sansMemory_retryClean, Dev.sansMemory_lastCe,
    Dev.sansMemory_bucket, Dev.sansMemory_loseLine, Dev.sansMemory_errAt]

theorem Dev.sansMemory_dramPut (ln : Nat) (x : Line) (key : Nat) (poison : Bool) : (d.dramPut ln x key poison).sansMemory = d.sansMemory := by
  unfold Dev.dramPut
  split <;> rfl

theorem Dev.sansMemory_fillLines (e : FillEntry) (k i : Nat) : (d.fillLines e k i).sansMemory = d.sansMemory := by
  induction k generalizing d i with
  | zero => rfl
  | succ k ih =>
    rw [Dev.fillLines, ih]
    split
    · rfl
    · exact d.sansMemory_dramPut ..

theorem Dev.sansMemory_fillFinish (ch : Nat) (e : FillEntry) : (d.fillFinish ch e).sansMemory = d.sansMemory :=
  d.sansMemory_fillLines e (64 - e.next) e.next

theorem Dev.sansMemory_mcPerform (ch : Nat) (w : WqEntry) : (d.mcPerform ch w).sansMemory = d.sansMemory := by
  grind [Dev.mcPerform, Dev.sansMemory_modChan, Dev.sansMemory_errAt, Dev.sansMemory_store, Dev.sansMemory_dramPut, Dev.sansMemory_fillFinish]

theorem Dev.sansMemory_zTouch (ch g : Nat) (dirty : Bool) : (d.zTouch ch g dirty).sansMemory = d.sansMemory := by
  grind [Dev.zTouch, Dev.sansMemory_draw, Dev.sansMemory_modChan]

theorem Dev.sansMemory_issueWrite (ch : Nat) (w : WqEntry) : (d.issueWrite ch w).sansMemory = d.sansMemory := by
  grind [Dev.issueWrite, Dev.sansMemory_modChan, Dev.sansMemory_checkLine, Dev.sansMemory_mcPerform, Dev.sansMemory_zTouch]

theorem Dev.sansMemory_mcReadNow (ch ln n : Nat) (key : Option (BitVec 11)) (f : ReadAttempt) :
    (d.mcReadNow ch ln n key f).1.sansMemory = d.sansMemory := by
  grind [Dev.mcReadNow, Dev.sansMemory_countFld, Dev.sansMemory_lastUe, Dev.sansMemory_errAt, Dev.sansMemory_checkLine]

theorem Dev.sansMemory_issueRead (ch : Nat) (r : RdEntry) : (d.issueRead ch r).1.sansMemory = d.sansMemory :=
  (Dev.sansMemory_mcReadNow ..).trans (d.sansMemory_zTouch ..)

theorem Dev.sansMemory_mcStep (ch : Nat) : (d.mcStep ch).1.sansMemory = d.sansMemory := by
  grind [Dev.mcStep, Dev.sansMemory_modChan, Dev.sansMemory_noteHeld, Dev.sansMemory_noteIssue, Dev.sansMemory_issueWrite, Dev.sansMemory_issueRead]

theorem Dev.sansMemory_makeRoom : d.makeRoom.sansMemory = d.sansMemory := by
  refine Dev.foldl_frame Dev.sansMemory (fun x ch => ?_) _ d
  split
  · rfl
  · exact Dev.foldl_frame Dev.sansMemory (fun y _ => y.sansMemory_mcStep ch) _ x

theorem Dev.sansMemory_mcIssueLine (ch : Nat) (w : WqEntry) : (d.mcIssueLine ch w).sansMemory = d.sansMemory := by
  unfold Dev.mcIssueLine
  split
  · rfl
  · exact d.sansMemory_mcPerform ch w

theorem Dev.sansMemory_mcFlushLine (ch ln : Nat) : (d.mcFlushLine ch ln).sansMemory = d.sansMemory :=
  Dev.foldl_frame Dev.sansMemory (fun x w => x.sansMemory_mcIssueLine ch w) _ d

end McFrame
end Sys2Proof.Machine

/-! Prover's part. The frame of waking, of accesses of memory and of snoops, and what a home keeps. -/

namespace Sys2Proof.Machine

section Frames
variable (d : Dev)

/-! ### Waking a controller or a fabric, and the way of a packet -/

theorem Dev.sansMemory_setPower (k x : Nat) : (d.setPower k x).sansMemory = d.sansMemory := by
  unfold Dev.setPower Dev.setNow
  split <;> rfl

theorem Dev.sansMemory_onWake {k : Nat} (h : 264 ≤ k) : (d.onWake k).sansMemory = d.sansMemory := by
  unfold Dev.onWake
  rw [if_neg (by omega)]
  split <;> rfl

theorem Dev.sansMemory_wake {k : Nat} (h : 264 ≤ k) : (d.wake k).sansMemory = d.sansMemory := by
  unfold Dev.wake
  split
  · rw [Dev.sansMemory_onWake _ h]
    exact Dev.sansMemory_setPower { d with fabric := _ } k 0
  · rfl

theorem Dev.sansMemory_wakeRoute (a b : Node) : (d.wakeRoute a b).sansMemory = d.sansMemory :=
  Dev.foldl_frame Dev.sansMemory (fun x q => x.sansMemory_wake (by unfold domOfFabric; omega)) _ d

theorem Dev.sansMemory_see (o : Opc) (m : Msg) (began : Word) : (d.see o m began).sansMemory = d.sansMemory := by
  unfold Dev.see
  split <;> rfl

theorem Dev.sansMemory_reach (o : Opc) (m : Msg) : (d.reach o m).1.sansMemory = d.sansMemory := by
  have h : ((d.wakeRoute m.src m.dst).see o m d.time).sansMemory = d.sansMemory :=
    (Dev.sansMemory_see ..).trans (d.sansMemory_wakeRoute ..)
  unfold Dev.reach
  dsimp only
  split
  · exact h
  · exact h

theorem Dev.sansMemory_farPost (o : Opc) (m : Msg) : (d.farPost o m).sansMemory = d.sansMemory := rfl
theorem Dev.sansMemory_send (o : Opc) (m : Msg) : (d.send o m).sansMemory = d.sansMemory := rfl

/-! ### Writes and reads of memory -/

theorem Dev.sansMemory_mcWriteLine {ch ln : Nat} (x : Line) (be : Word) (key : BitVec 11) (poison : Bool) (cls : Nat)
    (h : d.mcFull ch ln = false) : (d.mcWriteLine ch ln x be key poison cls).sansMemory = d.sansMemory := by
  unfold Dev.mcWriteLine
  rw [h]
  split
  · rfl
  · split <;> rfl

theorem Dev.sansMemory_farWrite (ln : Nat) (x : Line) (be : Word) (poison : Bool) : (d.farWrite ln x be poison).sansMemory = d.sansMemory := rfl

/-- A line is marked lost whatever the write queue holds. -/
theorem Dev.sansMemory_markLost (ln : Nat) : (d.markLost ln).sansMemory = d.sansMemory := by
  unfold Dev.markLost
  dsimp only
  split
  · next ch _ _ =>
    have hroom : (d.makeRoom.wake (domOfChan ch)).sansMemory = d.sansMemory :=
      (Dev.sansMemory_wake _ (by unfold domOfChan; omega)).trans d.sansMemory_makeRoom
    split
    · next hfull => exact (Dev.sansMemory_mcWriteLine _ _ _ _ _ _ (by simpa using hfull)).trans hroom
    · exact (Dev.sansMemory_mcPerform ..).trans ((Dev.sansMemory_mcFlushLine ..).trans hroom)
  · next hplace =>
    unfold Dev.victimOut Dev.memWrite
    rw [hplace]
    dsimp only
    split <;> rfl
  · rfl

theorem Dev.sansFabric_wait : d.wait.sansFabric = d.sansFabric := rfl
theorem Dev.sansFabric_modChan (n : Nat) (f : ChanSt → ChanSt) : (d.modChan n f).sansFabric = d.sansFabric := rfl

theorem Dev.sansFabric_memWrite (ln : Nat) (x : Line) (be : Word) (key : BitVec 11) (poison : Bool) :
    (d.memWrite ln x be key poison).1.sansFabric = d.sansFabric := by
  unfold Dev.memWrite
  dsimp only
  split
  · next ch _ _ =>
    have hwake : (d.wake (domOfChan ch)).sansFabric = d.sansFabric :=
      Dev.sansFabric_congr (d.sansMemory_wake (by unfold domOfChan; omega))
    split
    · rfl
    · split
      · exact hwake
      · next hfull => exact (Dev.sansFabric_congr (Dev.sansMemory_mcWriteLine _ _ _ _ _ _ (by simpa using hfull))).trans hwake
  · split <;> rfl
  · split <;> rfl
  · rfl

theorem Dev.sansFabric_victimOut (ln : Nat) (x : Line) (key : BitVec 11) (poison : Bool) :
    (d.victimOut ln x key poison).sansFabric = d.sansFabric := d.sansFabric_memWrite ..

theorem Dev.sansFabric_mcUntil (ch seq n : Nat) : (Dev.mcUntil ch seq n d).1.sansFabric = d.sansFabric := by
  induction n generalizing d with
  | zero => rfl
  | succ n ih =>
    have hstep := Dev.sansFabric_congr (d.sansMemory_mcStep ch)
    rw [Dev.mcUntil]
    split
    · next hs =>
      rw [hs] at hstep
      split
      · exact hstep
      · exact (ih _).trans hstep
    · next hs =>
      rw [hs] at hstep
      exact (ih _).trans hstep

theorem Dev.sansFabric_mcReadLine (ch ln : Nat) (key : BitVec 11) (cls : Nat) : (d.mcReadLine ch ln key cls).1.sansFabric = d.sansFabric := by
  unfold Dev.mcReadLine
  split
  · rfl
  · split
    · exact Dev.sansFabric_mcUntil ..
    · split
      · rfl
      · exact Dev.sansFabric_mcUntil ..

theorem Dev.sansFabric_memRead (ln : Nat) (key : BitVec 11) (cls : Nat) : (d.memRead ln key cls).1.sansFabric = d.sansFabric := by
  unfold Dev.memRead
  dsimp only
  split
  · next ch _ _ =>
    have hwake : (d.wake (domOfChan ch)).sansFabric = d.sansFabric :=
      Dev.sansFabric_congr (d.sansMemory_wake (by unfold domOfChan; omega))
    split
    · exact hwake
    · exact (Dev.sansFabric_mcReadLine ..).trans hwake
  · rfl
  · rfl

theorem Dev.sansFabric_makeRoom : d.makeRoom.sansFabric = d.sansFabric := Dev.sansFabric_congr d.sansMemory_makeRoom

/-! ### Snoops -/

theorem Dev.sansCaches_modCore (c : Nat) (f : Core → Core) : (d.modCore c f).sansCaches = d.sansCaches := rfl

theorem Dev.sansCaches_applyPatch (c : Nat) : (d.applyPatch c).sansCaches = d.sansCaches := by
  unfold Dev.applyPatch
  split <;> rfl

theorem Dev.sansCaches_onWake (k : Nat) : (d.onWake k).sansCaches = d.sansCaches := by
  unfold Dev.onWake
  split
  · exact d.sansCaches_applyPatch k
  · split <;> rfl

theorem Dev.sansCaches_wake (k : Nat) : (d.wake k).sansCaches = d.sansCaches := by
  unfold Dev.wake
  split
  · rw [Dev.sansCaches_onWake]
    exact Dev.sansCaches_congr (Dev.sansFabric_congr (Dev.sansMemory_setPower { d with fabric := _ } k 0))
  · rfl

theorem Dev.sansCaches_snoopCore (c ln : Nat) (k : SnoopKind) : (d.snoopCore c ln k).1.sansCaches = d.sansCaches := by
  unfold Dev.snoopCore
  dsimp only
  split
  · exact d.sansCaches_wake c
  · exact d.sansCaches_wake c

theorem Dev.sansCaches_snoopAfar (ln : Nat) (owner : Bool) : (d.snoopAfar ln owner).1.sansCaches = d.sansCaches := by
  unfold Dev.snoopAfar
  split <;> rfl

theorem Dev.sansCaches_snoopDevice (h ln : Nat) (k : SnoopKind) : (d.snoopDevice h ln k).sansCaches = d.sansCaches := by
  unfold Dev.snoopDevice
  split <;> rfl

theorem Dev.sansCaches_snoop (a : Agent) (except : Option Nat) (ln : Nat) (k : SnoopKind) (owner : Bool) :
    (d.snoop a except ln k owner).1.sansCaches = d.sansCaches := by
  unfold Dev.snoop
  cases a with
  | core c => grind [Dev.sansCaches_snoopCore]
  | socket s => grind [Dev.sansCaches_snoopAfar]
  | cxl h => grind [Dev.sansCaches_snoopAfar, Dev.sansCaches_snoopDevice]
  | _ => rfl

end Frames

/-! ### What a home keeps besides the lines that it caches -/

/-- A slice without the lines that its last-level cache holds. -/
def Slice.sansLines (s : Slice) : Slice := { s with llc := [], lfsr := 0 }

/-- The slices without the lines that they cache: directory, requests in progress and waiting, scratchpad. -/
def Dev.homes (d : Dev) (n : Nat) : Slice := (d.slice n).sansLines

section Homes
variable {d e : Dev}

theorem Dev.homes_of_slices (h : e.slices = d.slices) : e.homes = d.homes := by
  funext n
  rw [Dev.homes, Dev.homes, Dev.slice, Dev.slice, h]

theorem Dev.homes_congr (h : e.sansCaches = d.sansCaches) : e.homes = d.homes := Dev.homes_of_slices (Dev.slices_congr h)

theorem Dev.dir_congr (h : e.homes = d.homes) (n : Nat) : (e.slice n).dir = (d.slice n).dir :=
  (congrArg Slice.dir (congrFun h n) :)
theorem Dev.waitq_congr (h : e.homes = d.homes) (n : Nat) : (e.slice n).waitq = (d.slice n).waitq :=
  (congrArg Slice.waitq (congrFun h n) :)

theorem Dev.homes_modSlice (d : Dev) (n : Nat) {f : Slice → Slice} (h : ∀ s, (f s).sansLines = s.sansLines) : (d.modSlice n f).homes = d.homes := by
  funext k
  by_cases hk : k = n
  · subst hk
    rw [Dev.homes, Dev.slice_modSlice_self, h, Dev.homes]
  · rw [Dev.homes, Dev.slice_modSlice_other d f hk, Dev.homes]

theorem Dev.homes_dropLlc (d : Dev) (n ln : Nat) : (d.dropLlc n ln).homes = d.homes := d.homes_modSlice n fun _ => rfl

theorem Dev.homes_victimOut (d : Dev) (ln : Nat) (x : Line) (key : BitVec 11) (poison : Bool) : (d.victimOut ln x key poison).homes = d.homes :=
  Dev.homes_congr (Dev.sansCaches_congr (d.sansFabric_victimOut ..))

theorem Dev.homes_allocLlc (d : Dev) (n set ln cls : Nat) (x : Line) (dirty : Bool) (key : BitVec 11) (poison : Bool) :
    (d.allocLlc n set ln cls x dirty key poison).homes = d.homes := by
  unfold Dev.allocLlc
  dsimp only
  split
  · exact d.homes_modSlice n fun _ => rfl
  · split
    · exact d.homes_modSlice n fun _ => rfl
    · split
      · split
        · exact d.homes_victimOut ..
        · rfl
      · split
        · split
          · exact (Dev.homes_victimOut ..).trans (d.homes_modSlice n fun _ => rfl)
          · exact d.homes_modSlice n fun _ => rfl
        · exact d.homes_modSlice n fun _ => rfl

theorem Dev.homes_lineLost (d : Dev) (n ln : Nat) : (d.lineLost n ln).homes = d.homes :=
  (Dev.homes_congr (Dev.sansCaches_congr (Dev.sansFabric_congr (Dev.sansMemory_markLost _ ln)))).trans (d.homes_dropLlc n ln)

theorem Dev.homes_noteLost (d : Dev) (n : Nat) (x : DirEntry) (r : SnoopAns) : (d.noteLost n x r).homes = d.homes := by
  unfold Dev.noteLost
  split
  · exact d.homes_lineLost ..
  · split
    · exact d.homes_lineLost ..
    · rfl

theorem Dev.homes_snoop (d : Dev) (a : Agent) (except : Option Nat) (ln : Nat) (k : SnoopKind) (owner : Bool) :
    (d.snoop a except ln k owner).1.homes = d.homes := Dev.homes_congr (d.sansCaches_snoop ..)

/-! ### Entries of the directory -/

/-- What changes one slice's directory alone, and no request that waits there. -/
theorem Dev.waitq_modSlice (d : Dev) (n : Nat) {f : Slice → Slice} (h : ∀ s, (f s).waitq = s.waitq) (k : Nat) :
    ((d.modSlice n f).slice k).waitq = (d.slice k).waitq := by
  by_cases hk : k = n
  · subst hk
    rw [Dev.slice_modSlice_self, h]
  · rw [Dev.slice_modSlice_other d f hk]

theorem Dev.waitq_setDir (d : Dev) (n : Nat) (x : DirEntry) (k : Nat) : ((d.setDir n x).slice k).waitq = (d.slice k).waitq := by
  rw [Dev.setDir, Dev.waitq_modSlice]
  exact fun _ => rfl

theorem Dev.waitq_dropDir (d : Dev) (n ln k : Nat) : ((d.dropDir n ln).slice k).waitq = (d.slice k).waitq := by
  rw [Dev.dropDir, Dev.waitq_modSlice]
  exact fun _ => rfl

theorem Dev.dir_dropDir_self (d : Dev) (n ln : Nat) : ((d.dropDir n ln).slice n).dir = (d.slice n).dir.filter fun x => x.line != ln := by
  rw [Dev.dropDir, Dev.slice_modSlice_self]

/-- The line's entry stands first, whatever its way. -/
theorem Dev.dir_setDir_self (d : Dev) (n : Nat) (x : DirEntry) :
    ∃ w, ((d.setDir n x).slice n).dir = { x with way := w } :: (d.slice n).dir.filter fun y => y.line != x.line := by
  rw [Dev.setDir, Dev.slice_modSlice_self]
  exact ⟨_, rfl⟩

theorem Dev.dirEntry_setDir_self (d : Dev) (n : Nat) (x : DirEntry) : ∃ w, ((d.setDir n x).slice n).dirEntry x.line = some { x with way := w } := by
  obtain ⟨w, hw⟩ := d.dir_setDir_self n x
  exact ⟨w, by simp [Slice.dirEntry, hw]⟩

end Homes

/-- What each step of a fold keeps, and what it makes of its own element, hold at the end of all of them. -/
theorem foldl_each {α β : Type} {f : β → α → β} {M : β → Prop} {R : β → α → Prop} (hstep : ∀ p a, M p → M (f p a) ∧ R (f p a) a)
    (hkeep : ∀ p a b, R p b → R (f p a) b) (l : List α) (p : β) (hp : M p) :
    M (l.foldl f p) ∧ ∀ a ∈ l, R (l.foldl f p) a := by
  induction l generalizing p with
  | nil => exact ⟨hp, by simp⟩
  | cons a t ih =>
    obtain ⟨hm, hr⟩ := hstep p a hp
    obtain ⟨hm', hr'⟩ := ih _ hm
    refine ⟨hm', fun b hb => ?_⟩
    rcases List.mem_cons.mp hb with rfl | hb
    · exact fold_keeps (fun x => R x b) f (fun x c hx => hkeep x c b hx) t _ hr
    · exact hr' b hb

end Sys2Proof.Machine

/-! Prover's part. What the home of a line does with a request that need not wait (R164, R165). -/

namespace Sys2Proof.Machine

/-! ### Requests that wait at a home -/

section Waitq
variable (d : Dev) (n : Nat)

theorem Dev.waitq_homeData (a ln : Nat) (key : BitVec 11) (cls : Nat) : ((d.homeData a ln key cls).1.slice n).waitq = (d.slice n).waitq := by
  unfold Dev.homeData
  split
  · rfl
  · exact Dev.waitq_congr (Dev.homes_congr (Dev.sansCaches_congr (d.sansFabric_memRead ..))) n

theorem Dev.waitq_ownerData (a ln : Nat) (key : BitVec 11) (cls : Nat) (r : SnoopAns) :
    ((d.ownerData a ln key cls r).1.slice n).waitq = (d.slice n).waitq := by
  unfold Dev.ownerData
  split
  · rfl
  · exact d.waitq_homeData ..

theorem Dev.waitq_farPost (o : Opc) (m : Msg) : ((d.farPost o m).slice n).waitq = (d.slice n).waitq := rfl

theorem Dev.waitq_dropLlc (a ln : Nat) : ((d.dropLlc a ln).slice n).waitq = (d.slice n).waitq := Dev.waitq_congr (d.homes_dropLlc ..) n
theorem Dev.waitq_victimOut (ln : Nat) (x : Line) (key : BitVec 11) (poison : Bool) :
    ((d.victimOut ln x key poison).slice n).waitq = (d.slice n).waitq := Dev.waitq_congr (d.homes_victimOut ..) n
theorem Dev.waitq_noteLost (a : Nat) (e : DirEntry) (r : SnoopAns) : ((d.noteLost a e r).slice n).waitq = (d.slice n).waitq :=
  Dev.waitq_congr (d.homes_noteLost ..) n
theorem Dev.waitq_allocLlc (a set ln cls : Nat) (x : Line) (dirty : Bool) (key : BitVec 11) (poison : Bool) :
    ((d.allocLlc a set ln cls x dirty key poison).slice n).waitq = (d.slice n).waitq := Dev.waitq_congr (d.homes_allocLlc ..) n
theorem Dev.waitq_memWrite (ln : Nat) (x : Line) (be : Word) (key : BitVec 11) (poison : Bool) :
    ((d.memWrite ln x be key poison).1.slice n).waitq = (d.slice n).waitq :=
  Dev.waitq_congr (Dev.homes_congr (Dev.sansCaches_congr (d.sansFabric_memWrite ..))) n

theorem Dev.waitq_backInvalidate (a : Nat) (e : DirEntry) : ((d.backInvalidate a e).slice n).waitq = (d.slice n).waitq := by
  have hsnoop : (e.holders.foldl (fun (p : Dev × SnoopAns) a => ((p.1.snoop a none e.line .inval e.excl).1,
      p.2.and (p.1.snoop a none e.line .inval e.excl).2)) (d, SnoopAns.none)).1.homes = d.homes :=
    Dev.foldl_fst_frame Dev.homes (f := fun (p : Dev × SnoopAns) a => ((p.1.snoop a none e.line .inval e.excl).1,
      p.2.and (p.1.snoop a none e.line .inval e.excl).2)) (fun p a => p.1.homes_snoop a none e.line .inval e.excl) e.holders (d, SnoopAns.none)
  unfold Dev.backInvalidate
  dsimp only
  rw [Dev.waitq_dropDir, Dev.waitq_dropLlc, Dev.waitq_noteLost]
  refine Eq.trans ?_ (Dev.waitq_congr hsnoop n)
  split
  · exact Dev.waitq_victimOut ..
  · split
    · split
      · exact Dev.waitq_victimOut ..
      · rfl
    · split
      · split <;> rfl
      · rfl

theorem Dev.waitq_dirRoom (a set : Nat) : ((d.dirRoom a set).slice n).waitq = (d.slice n).waitq := by
  unfold Dev.dirRoom
  dsimp only
  split
  · rfl
  · split
    · rfl
    · refine (Dev.waitq_backInvalidate ..).trans (Dev.waitq_modSlice _ _ ?_ _)
      exact fun _ => rfl

theorem Dev.waitq_homeEvict (a set : Nat) (who : Agent) (from_ : Option Nat) (ln : Nat) (key : BitVec 11) (x : Line) (dirty poison : Bool) :
    ((d.homeEvict a set who from_ ln key x dirty poison).slice n).waitq = (d.slice n).waitq := by
  unfold Dev.homeEvict
  rw [Dev.waitq_dropDir]
  split
  · rfl
  · split
    · split
      · rw [Dev.waitq_victimOut, Dev.waitq_dropLlc]
      · rfl
    · exact d.waitq_allocLlc ..

theorem Dev.waitq_nearFinish (a set : Nat) (opc : Opc) (who : Agent) (ln : Nat) (key : BitVec 11) (x : Line) (be : Word)
    (poison : Bool) (r : SnoopAns) : ((d.nearFinish a set opc who ln key x be poison r).1.slice n).waitq = (d.slice n).waitq := by
  unfold Dev.nearFinish
  cases opc with
  | rds => grind [Dev.waitq_setDir, Dev.waitq_dropDir, Dev.waitq_allocLlc, Dev.waitq_homeData, Dev.waitq_dirRoom]
  | rdo => grind [Dev.waitq_setDir, Dev.waitq_dropLlc, Dev.waitq_dirRoom, Dev.waitq_ownerData]
  | upg => grind [Dev.waitq_setDir, Dev.waitq_dropLlc, Dev.waitq_dirRoom, Dev.waitq_ownerData]
  | rdna => exact d.waitq_ownerData ..
  | iow => grind [Dev.waitq_dropLlc, Dev.waitq_dropDir, Dev.waitq_memWrite]
  | _ => rfl

/-- The completion of a request for a line of this socket takes up no request that waits. -/
theorem Dev.waitq_homeFinish (a set : Nat) (opc : Opc) (who : Agent) {ln : Nat} (key : BitVec 11) (x : Line) (be : Word) (poison : Bool)
    (r : SnoopAns) (h : d.homedAway ln = false) :
    ((d.homeFinish a set opc who ln key x be poison r).1.slice n).waitq = (d.slice n).waitq := by
  unfold Dev.homeFinish
  dsimp only
  split
  · split
    · exact d.waitq_dropDir ..
    · rfl
  · split
    · exact d.waitq_homeEvict ..
    · exact d.waitq_homeEvict ..
    · rw [if_pos (by simp [h])]
      refine (Dev.waitq_nearFinish ..).trans ?_
      split
      · exact d.waitq_noteLost ..
      · rfl

end Waitq

/-! ### The end of a request -/

/-- What a completed request is answered with: a response to its requester. -/
theorem Dev.answered_respond (d : Dev) (n : Nat) (o : Opc) (m : Msg) (r : HomeRes) (upgrade : Bool) :
    Answered (d.respond n o m r upgrade) m.who m.txid := by
  have hsend : ∀ p x, isResponse p = true → x.who = m.who → x.txid = m.txid → Answered (d.send p x) m.who m.txid :=
    fun p x hp hw ht => ⟨p, x, by simp [Dev.send, Dev.setFabric], hp, hw, ht⟩
  unfold Dev.respond
  dsimp only
  repeat' split
  all_goals exact hsend _ _ rfl rfl rfl

theorem Dev.waits_respond (d : Dev) (n : Nat) (o : Opc) (m : Msg) (r : HomeRes) (upgrade : Bool) :
    (d.respond n o m r upgrade).fabric.waits = d.fabric.waits := by
  unfold Dev.respond
  grind [Dev.waits_send]

theorem Dev.slices_respond (d : Dev) (n : Nat) (o : Opc) (m : Msg) (r : HomeRes) (upgrade : Bool) :
    (d.respond n o m r upgrade).slices = d.slices := by
  have hsend : ∀ p x, (d.send p x).slices = d.slices := fun _ _ => rfl
  unfold Dev.respond
  grind

theorem Dev.cores_respond (d : Dev) (n : Nat) (o : Opc) (m : Msg) (r : HomeRes) (upgrade : Bool) :
    (d.respond n o m r upgrade).cores = d.cores := by
  have hsend : ∀ p x, (d.send p x).cores = d.cores := fun _ _ => rfl
  unfold Dev.respond
  grind

theorem Dev.goesOn_near {d : Dev} {t : HomeTxn} (h : d.homedAway t.line = false) : d.goesOn t = none := by
  unfold Dev.homedAway at h
  unfold Dev.goesOn
  split
  · rfl
  · split
    · next hp => simp [hp] at h
    · rfl

/-- A request for a line of this socket whose answers are in, taken from those in progress. -/
def Dev.ended (d : Dev) (n : Nat) (t : HomeTxn) : Dev × HomeRes :=
  (d.modSlice n fun s => { s with txns := s.txns.erase t }).homeFinish n (d.home t.line).2 t.opc t.req.who t.line t.req.key t.req.data t.req.byteen
    t.req.poison t.answer

theorem Dev.endTxn_near {d : Dev} (n : Nat) {t : HomeTxn} (h : d.homedAway t.line = false) :
    d.endTxn n t = (d.ended n t).1.respond n t.opc t.req (d.ended n t).2 (t.opc == .upg && d.isSharer n t.req) := by
  have hon : (d.modSlice n fun s => { s with txns := s.txns.erase t }).goesOn t = none := Dev.goesOn_near h
  simp only [Dev.endTxn, hon]
  rfl

theorem Dev.answered_endTxn {d : Dev} (n : Nat) {t : HomeTxn} (h : d.homedAway t.line = false) :
    Answered (d.endTxn n t) t.req.who t.req.txid := by
  rw [Dev.endTxn_near n h]
  exact Dev.answered_respond ..

theorem Dev.waitq_endTxn {d : Dev} (n : Nat) {t : HomeTxn} (h : d.homedAway t.line = false) :
    ((d.endTxn n t).slice n).waitq = (d.slice n).waitq := by
  rw [Dev.endTxn_near n h, Dev.slice, Dev.slices_respond, ← Dev.slice, Dev.ended, Dev.waitq_homeFinish, Dev.slice_modSlice_self]
  exact h

theorem Dev.regs_endTxn {d : Dev} (n : Nat) {t : HomeTxn} (h : d.homedAway t.line = false) : (d.endTxn n t).regs = d.regs := by
  rw [Dev.endTxn_near n h, Dev.regs_of_cores (Dev.cores_respond ..), Dev.ended, Dev.regs_homeFinish, Dev.regs_modSlice]

theorem Dev.wakeQueue_idle {d : Dev} {n : Nat} (h : (d.slice n).waitq = []) : d.wakeQueue n = d := by
  simp [Dev.wakeQueue, Dev.serveWaiting, Dev.nextWaiting, h]

/-! ### A request that need not wait -/

/-- The device once a write by another agent than a core is noted outside every panel (R216). -/
def Dev.noteWrite (d : Dev) (o : Opc) (m : Msg) : Dev :=
  if d.unreachable (lineOfMsg m) then d
  else if o = .iow || ((o = .rdo || o = .upg) && !isCoreAgent m.who) then d.noteOutside none (lineOfMsg m) else d

theorem Dev.noteWrite_panels (d : Dev) (o : Opc) (m : Msg) : ∃ ps, d.noteWrite o m = { d with panels := ps } := by
  unfold Dev.noteWrite
  split
  · exact ⟨_, rfl⟩
  · split <;> exact ⟨_, rfl⟩

theorem Dev.slice_noteWrite (d : Dev) (o : Opc) (m : Msg) (n : Nat) : (d.noteWrite o m).slice n = d.slice n := by
  obtain ⟨ps, h⟩ := d.noteWrite_panels o m
  rw [h]
  rfl

theorem Dev.homeWaits_noteWrite (d : Dev) (o : Opc) (m : Msg) (n : Nat) (behind : Bool) :
    (d.noteWrite o m).homeWaits n o m behind = d.homeWaits n o m behind := by
  obtain ⟨ps, h⟩ := d.noteWrite_panels o m
  rw [h]
  rfl

theorem Dev.snoopList_noteWrite (d : Dev) (o : Opc) (m : Msg) (n : Nat) : (d.noteWrite o m).snoopList n o m = d.snoopList n o m := by
  obtain ⟨ps, h⟩ := d.noteWrite_panels o m
  rw [h]
  rfl

/-- A request whose holders need not be asked. -/
def freshTxn (o : Opc) (m : Msg) : HomeTxn :=
  { opc := o, req := m, owner := [], acks := [], data := none, dirty := false, supplier := none, lost := false, spec := false, waitWb := false }

/-- The device whose home has entered a request that asks no holder. -/
def Dev.entered (d : Dev) (o : Opc) (m : Msg) : Dev :=
  (d.noteWrite o m).modSlice (d.home (lineOfMsg m)).1 fun s => { s with txns := s.txns ++ [freshTxn o m] }

theorem Dev.homeStart_unasked {d : Dev} (n : Nat) {o : Opc} {m : Msg} (h : (d.snoopList n o m).1 = []) :
    d.homeStart n o m = (d.modSlice n fun s => { s with txns := s.txns ++ [freshTxn o m] }).endTxn n (freshTxn o m) := by
  simp [Dev.homeStart, h, Dev.tryEnd, freshTxn]

theorem Dev.txns_of_not_homeWaits {d : Dev} {n : Nat} {o : Opc} {m : Msg} (h : d.homeWaits n o m false = false) :
    ((d.slice n).txns.any fun t => t.line == lineOfMsg m) = false := by
  simp only [Dev.homeWaits, Bool.or_eq_false_iff] at h
  exact h.1.1.1.2

theorem Dev.place_ne_spad {d : Dev} {pa : Nat} (h : inSpad pa = false) (n w o : Nat) : d.place pa ≠ .spad n w o := by
  intro hp
  unfold Dev.place Dev.placeIn at hp
  simp only [h, Bool.false_eq_true, if_false] at hp
  repeat' split at hp
  all_goals cases hp

/-- A request that need not wait, and for which no holder is asked, completes at once. -/
theorem Dev.homeTake_unasked {d : Dev} {o : Opc} {m : Msg} (hs : d.stale (d.home (lineOfMsg m)).1 m = false) (hf : d.farSocket m = none)
    (hp : inSpad m.addr.toNat = false) (hq : (d.slice (d.home (lineOfMsg m)).1).waitq = [])
    (hw : d.homeWaits (d.home (lineOfMsg m)).1 o m false = false) (hl : (d.snoopList (d.home (lineOfMsg m)).1 o m).1 = []) :
    d.homeTake o m = ((d.entered o m).endTxn (d.home (lineOfMsg m)).1 (freshTxn o m)).wakeQueue (d.home (lineOfMsg m)).1 := by
  have hnone : ((d.slice (d.home (lineOfMsg m)).1).txns.find? fun t => t.line == lineOfMsg m && t.waitWb && (o == .wbd || o == .evc)) = none := by
    have h := Dev.txns_of_not_homeWaits hw
    simp only [List.any_eq_false, beq_iff_eq] at h
    simp only [List.find?_eq_none, Bool.and_eq_true, beq_iff_eq]
    exact fun t ht hc => h t ht hc.1.1
  unfold Dev.homeTake Dev.entered
  rw [hf]
  split
  · next h => cases h
  · next h => exact absurd h (Dev.place_ne_spad hp _ _ _)
  · rw [Dev.fresh, Dev.freshAt_of_fresh _ _ _ _ hs]
    dsimp only
    rw [← Dev.noteWrite, Dev.slice_noteWrite, hnone, hq]
    dsimp only
    rw [List.any_nil, Dev.homeWaits_noteWrite, hw, Bool.not_false, if_pos rfl, Dev.homeStart_unasked]
    rw [Dev.snoopList_noteWrite, hl]

/-! ### A line of this socket's DRAM that the home's last-level cache holds -/

theorem Dev.homedAway_dram {d : Dev} {ln ch k : Nat} (h : d.place (ln * 64) = .dram ch k) : d.homedAway ln = false := by
  rw [Dev.homedAway, h]

theorem Dev.unreachable_dram {d : Dev} {ln ch k : Nat} (h : d.place (ln * 64) = .dram ch k) : d.unreachable ln = false := by
  rw [Dev.unreachable, h]

theorem Dev.chans_setPower (d : Dev) (k x : Nat) : (d.setPower k x).chans = d.chans := by
  unfold Dev.setPower Dev.setNow
  split <;> rfl

theorem Dev.chans_onWake (d : Dev) (k : Nat) : (d.onWake k).chans = d.chans := by
  unfold Dev.onWake Dev.applyPatch
  repeat' split
  all_goals rfl

theorem Dev.chans_wake (d : Dev) (k : Nat) : (d.wake k).chans = d.chans := by
  unfold Dev.wake
  split
  · rw [Dev.chans_onWake]
    exact Dev.chans_setPower _ k 0
  · rfl

theorem Dev.mcFull_congr {d e : Dev} (h : e.chans = d.chans) (ch ln : Nat) : e.mcFull ch ln = d.mcFull ch ln := by
  rw [Dev.mcFull, Dev.mcFull, Dev.chan, Dev.chan, h]

theorem Dev.waits_memWrite {d : Dev} {ln ch k : Nat} (h : d.place (ln * 64) = .dram ch k) (hf : d.mcFull ch ln = false) (x : Line) (be : Word)
    (key : BitVec 11) (poison : Bool) : (d.memWrite ln x be key poison).1.fabric.waits = d.fabric.waits := by
  have hwake : (d.wake (domOfChan ch)).mcFull ch ln = false := by
    rw [Dev.mcFull_congr (d.chans_wake _), hf]
  rw [Dev.memWrite, h]
  dsimp only
  split
  · rfl
  · rw [hwake]
    exact (Dev.waits_congr (Dev.sansMemory_mcWriteLine _ _ _ _ _ _ hwake)).trans (d.waits_wake _)

section Held
variable {d : Dev} {n ln : Nat} {v : LlcLine} (set : Nat) (who : Agent) (key : BitVec 11) (x : Line) (be : Word) (poison : Bool)
  (hdir : (d.slice n).dirEntry ln = none) (hv : (d.slice n).llcLine ln = some v) (hu : d.unreachable ln = false) (ha : d.homedAway ln = false)

include hdir hu ha in
/-- With no holder of the line recorded, nothing is lost. -/
theorem Dev.homeFinish_unheld {opc : Opc} (ho : opc ≠ .wbd ∧ opc ≠ .evc) (r : SnoopAns) :
    d.homeFinish n set opc who ln key x be poison r = d.nearFinish n set opc who ln key x be poison r := by
  unfold Dev.homeFinish
  rw [hu, hdir, ha]
  split
  · next h => cases h
  · split
    · exact absurd rfl ho.1
    · exact absurd rfl ho.2
    · rfl

include hdir hv hu ha

theorem Dev.homeFinish_rds_held : d.homeFinish n set .rds who ln key x be poison SnoopAns.none =
    ((d.dirRoom n set).setDir n (ownedBy who ln set), ⟨⟨v.data, v.poison, false⟩, some .exclusive⟩) := by
  rw [Dev.homeFinish_unheld set who key x be poison hdir hu ha (by decide)]
  simp [Dev.nearFinish, hdir, Dev.homeData, hv]

theorem Dev.homeFinish_own_held {o : Opc} (ho : o = .rdo ∨ o = .upg) : d.homeFinish n set o who ln key x be poison SnoopAns.none =
    (((d.dirRoom n set).dropLlc n ln).setDir n (ownedBy who ln set), ⟨⟨v.data, v.poison, false⟩, some .modified⟩) := by
  rw [Dev.homeFinish_unheld set who key x be poison hdir hu ha (by rcases ho with rfl | rfl <;> decide)]
  rcases ho with rfl | rfl
  · simp [Dev.nearFinish, hdir, Dev.ownerData, Dev.homeData, hv, SnoopAns.none]
  · simp [Dev.nearFinish, hdir, Dev.ownerData, Dev.homeData, hv, SnoopAns.none]

theorem Dev.homeFinish_rdna_held : d.homeFinish n set .rdna who ln key x be poison SnoopAns.none = (d, ⟨⟨v.data, v.poison, false⟩, none⟩) := by
  rw [Dev.homeFinish_unheld set who key x be poison hdir hu ha (by decide)]
  simp [Dev.nearFinish, Dev.ownerData, Dev.homeData, hv, SnoopAns.none]

end Held

theorem Dev.dirRoom_empty {d : Dev} {n : Nat} (h : (d.slice n).dir = []) (set : Nat) : d.dirRoom n set = d := by
  simp [Dev.dirRoom, Slice.dirSet, h]

theorem Slice.dirEntry_empty {s : Slice} (h : s.dir = []) (ln : Nat) : s.dirEntry ln = none := by
  simp [Slice.dirEntry, h]

/-- A write to a line that the home's last-level cache holds makes nothing wait where the controller has room for it. -/
theorem Dev.waits_homeEvict_held {d : Dev} {n ln ch k : Nat} {v : LlcLine} (hv : (d.slice n).llcLine ln = some v)
    (hp : d.place (ln * 64) = .dram ch k) (hf : d.mcFull ch ln = false) (set : Nat) (who : Agent) (from_ : Option Nat) (key : BitVec 11) (x : Line)
    (dirty poison : Bool) : (d.homeEvict n set who from_ ln key x dirty poison).fabric.waits = d.fabric.waits := by
  unfold Dev.homeEvict
  have hdrop : ∀ y : Dev, (y.dropDir n ln).fabric = y.fabric := fun _ => rfl
  rw [hdrop, Dev.homedAway_dram hp, if_neg (by decide)]
  split
  · split
    · exact Dev.waits_memWrite (d := d.dropLlc n ln) hp hf ..
    · rfl
  · rw [Dev.allocLlc, hv]
    rfl

theorem Dev.waits_nearFinish_iow {d : Dev} {n ln ch k : Nat} (hp : d.place (ln * 64) = .dram ch k) (hf : d.mcFull ch ln = false)
    (set : Nat) (who : Agent) (key : BitVec 11) (x : Line) (be : Word) (poison : Bool) (r : SnoopAns) :
    (d.nearFinish n set .iow who ln key x be poison r).1.fabric.waits = d.fabric.waits := by
  have hmem : ∀ y b p, (((d.dropLlc n ln).dropDir n ln).memWrite ln y b key p).1.fabric.waits = d.fabric.waits :=
    fun y b p => Dev.waits_memWrite (d := (d.dropLlc n ln).dropDir n ln) hp hf y b key p
  unfold Dev.nearFinish
  grind

/-- A request for a line of DRAM that the last-level cache holds and that no directory entry names is completed without waiting. -/
theorem Dev.waits_homeFinish_held {d : Dev} {n ln ch k : Nat} {v : LlcLine} {o : Opc} (ho : o ∈ [Opc.rds, .rdo, .upg, .rdna, .iow, .wbd, .evc])
    (hdir : (d.slice n).dir = []) (hv : (d.slice n).llcLine ln = some v) (hp : d.place (ln * 64) = .dram ch k)
    (hf : o = .iow ∨ o = .wbd ∨ o = .evc → d.mcFull ch ln = false) (set : Nat) (who : Agent) (key : BitVec 11) (x : Line) (be : Word)
    (poison : Bool) : (d.homeFinish n set o who ln key x be poison SnoopAns.none).1.fabric.waits = d.fabric.waits := by
  have he := Slice.dirEntry_empty hdir ln
  have hu := Dev.unreachable_dram hp
  have ha := Dev.homedAway_dram hp
  simp only [List.mem_cons, List.not_mem_nil, or_false] at ho
  rcases ho with rfl | rfl | rfl | rfl | rfl | rfl | rfl
  · rw [Dev.homeFinish_rds_held set who key x be poison he hv hu ha, Dev.dirRoom_empty hdir]
    rfl
  · rw [Dev.homeFinish_own_held set who key x be poison he hv hu ha (.inl rfl), Dev.dirRoom_empty hdir]
    rfl
  · rw [Dev.homeFinish_own_held set who key x be poison he hv hu ha (.inr rfl), Dev.dirRoom_empty hdir]
    rfl
  · rw [Dev.homeFinish_rdna_held set who key x be poison he hv hu ha]
  · rw [Dev.homeFinish_unheld set who key x be poison he hu ha (by decide)]
    exact Dev.waits_nearFinish_iow hp (hf (.inl rfl)) ..
  · simpa [Dev.homeFinish, hu] using Dev.waits_homeEvict_held hv hp (hf (.inr (.inl rfl))) ..
  · simpa [Dev.homeFinish, hu] using Dev.waits_homeEvict_held hv hp (hf (.inr (.inr rfl))) ..

/-- A read of such a line brings the line's data. -/
theorem Dev.got_homeFinish_held {d : Dev} {n ln ch k : Nat} {v : LlcLine} {o : Opc} (ho : o ∈ [Opc.rds, .rdo, .upg, .rdna])
    (hdir : (d.slice n).dir = []) (hv : (d.slice n).llcLine ln = some v) (hp : d.place (ln * 64) = .dram ch k) (set : Nat) (who : Agent)
    (key : BitVec 11) (x : Line) (be : Word) (poison : Bool) :
    (d.homeFinish n set o who ln key x be poison SnoopAns.none).2.got = ⟨v.data, v.poison, false⟩ := by
  have he := Slice.dirEntry_empty hdir ln
  have hu := Dev.unreachable_dram hp
  have ha := Dev.homedAway_dram hp
  simp only [List.mem_cons, List.not_mem_nil, or_false] at ho
  rcases ho with rfl | rfl | rfl | rfl
  · rw [Dev.homeFinish_rds_held set who key x be poison he hv hu ha]
  · rw [Dev.homeFinish_own_held set who key x be poison he hv hu ha (.inl rfl)]
  · rw [Dev.homeFinish_own_held set who key x be poison he hv hu ha (.inr rfl)]
  · rw [Dev.homeFinish_rdna_held set who key x be poison he hv hu ha]

/-- The response to a read carries the data that it got; an Upg of no sharer is answered with data too. -/
theorem Dev.respond_data (d : Dev) (n : Nat) {o : Opc} (m : Msg) {r : HomeRes} (ho : o ∈ [Opc.rds, .rdo, .upg, .rdna]) (he : r.got.err = false) :
    ∃ x : Msg, (.data, x) ∈ (d.respond n o m r false).fabric.net ∧ x.who = m.who ∧ x.txid = m.txid ∧ x.data = r.got.data ∧ x.poison = r.got.poison := by
  refine ⟨{ backOf m with src := sliceNode n, dst := d.agentNode m.who, data := r.got.data, poison := r.got.poison }, ?_, rfl, rfl, rfl, rfl⟩
  simp only [List.mem_cons, List.not_mem_nil, or_false] at ho
  rcases ho with rfl | rfl | rfl | rfl
  all_goals simp [Dev.respond, he, Dev.send, Dev.setFabric]

/-! ### A request at its home -/

section Entered
variable (d : Dev) (o : Opc) (m : Msg)

theorem Dev.place_entered (pa : Nat) : (d.entered o m).place pa = d.place pa := by
  obtain ⟨ps, h⟩ := d.noteWrite_panels o m
  rw [Dev.entered, h]
  rfl

theorem Dev.homedAway_entered (ln : Nat) : (d.entered o m).homedAway ln = d.homedAway ln := by
  rw [Dev.homedAway, Dev.homedAway, Dev.place_entered]

theorem Dev.fabric_entered : (d.entered o m).fabric = d.fabric := by
  obtain ⟨ps, h⟩ := d.noteWrite_panels o m
  rw [Dev.entered, h]
  rfl

theorem Dev.chans_entered : (d.entered o m).chans = d.chans := by
  obtain ⟨ps, h⟩ := d.noteWrite_panels o m
  rw [Dev.entered, h]
  rfl

theorem Dev.regs_entered : (d.entered o m).regs = d.regs := by
  obtain ⟨ps, h⟩ := d.noteWrite_panels o m
  rw [Dev.entered, h]
  exact Dev.regs_of_cores rfl

theorem Dev.slice_entered : (d.entered o m).slice (d.home (lineOfMsg m)).1 =
    { d.slice (d.home (lineOfMsg m)).1 with txns := (d.slice (d.home (lineOfMsg m)).1).txns ++ [freshTxn o m] } := by
  rw [Dev.entered, Dev.slice_modSlice_self, Dev.slice_noteWrite]

end Entered

section Unasked
variable {d : Dev} {o : Opc} {m : Msg} (hs : d.stale (d.home (lineOfMsg m)).1 m = false) (hf : d.farSocket m = none)
  (hp : inSpad m.addr.toNat = false) (hq : (d.slice (d.home (lineOfMsg m)).1).waitq = [])
  (hw : d.homeWaits (d.home (lineOfMsg m)).1 o m false = false) (hl : (d.snoopList (d.home (lineOfMsg m)).1 o m).1 = [])
  (ha : d.homedAway (lineOfMsg m) = false)

include ha in
theorem Dev.homedAway_fresh : (d.entered o m).homedAway (freshTxn o m).line = false := (d.homedAway_entered ..).trans ha

include hs hf hp hq hw hl ha in
/-- A request for a line of this socket that asks no holder ends at once, and takes up no other. -/
theorem Dev.homeTake_ends : d.homeTake o m = (d.entered o m).endTxn (d.home (lineOfMsg m)).1 (freshTxn o m) := by
  rw [Dev.homeTake_unasked hs hf hp hq hw hl, Dev.wakeQueue_idle]
  rw [Dev.waitq_endTxn _ (Dev.homedAway_fresh ha), Dev.slice_entered, hq]

include hs hf hp hq hw hl ha in
theorem Dev.answered_homeTake : Answered (d.homeTake o m) m.who m.txid := by
  rw [Dev.homeTake_ends hs hf hp hq hw hl ha]
  exact Dev.answered_endTxn _ (Dev.homedAway_fresh ha)

include hs hf hp hq hw hl ha in
theorem Dev.regs_homeTake : (d.homeTake o m).regs = d.regs := by
  rw [Dev.homeTake_ends hs hf hp hq hw hl ha, Dev.regs_endTxn _ (Dev.homedAway_fresh ha), Dev.regs_entered]

end Unasked

theorem Dev.snoopList_empty {d : Dev} {n : Nat} (h : (d.slice n).dir = []) (o : Opc) (m : Msg) : (d.snoopList n o m).1 = [] := by
  simp [Dev.snoopList, Slice.dirEntry_empty h, homeTargets]

theorem Dev.farSocket_dram {d : Dev} {m : Msg} {ch k : Nat} (h : d.place m.addr.toNat = .dram ch k) : d.farSocket m = none := by
  rw [Dev.farSocket, h]
  rfl

theorem lineOfMsg_mul_64 {m : Msg} (h : m.addr.toNat % 64 = 0) : lineOfMsg m * 64 = m.addr.toNat := by
  unfold lineOfMsg
  omega

section Dram
variable {d : Dev} {o : Opc} {m : Msg} {ch k : Nat} {v : LlcLine} (ho : o ∈ [Opc.rds, .rdo, .upg, .rdna, .iow, .wbd, .evc])
  (h64 : m.addr.toNat % 64 = 0) (hp : d.place m.addr.toNat = .dram ch k) (hdir : (d.slice (d.home (lineOfMsg m)).1).dir = [])
  (hv : (d.slice (d.home (lineOfMsg m)).1).llcLine (lineOfMsg m) = some v)

/-- The home of a line, once it has entered a request for it and takes it up again to end it. -/
def Dev.taken (d : Dev) (o : Opc) (m : Msg) : Dev :=
  (d.entered o m).modSlice (d.home (lineOfMsg m)).1 fun s => { s with txns := s.txns.erase (freshTxn o m) }

include hp h64 in
theorem Dev.place_taken : (d.taken o m).place (lineOfMsg m * 64) = .dram ch k := by
  rw [lineOfMsg_mul_64 h64, ← hp]
  exact d.place_entered o m _

include hdir in
theorem Dev.dir_taken : ((d.taken o m).slice (d.home (lineOfMsg m)).1).dir = [] := by
  rw [Dev.taken, Dev.slice_modSlice_self, Dev.slice_entered, hdir]

include hv in
theorem Dev.llcLine_taken : ((d.taken o m).slice (d.home (lineOfMsg m)).1).llcLine (lineOfMsg m) = some v := by
  rw [Dev.taken, Dev.slice_modSlice_self, Dev.slice_entered, ← hv]
  rfl

include ho h64 hp hdir hv in
theorem Dev.waits_endTxn_held (hf : o = .iow ∨ o = .wbd ∨ o = .evc → d.mcFull ch (lineOfMsg m) = false) :
    ((d.entered o m).endTxn (d.home (lineOfMsg m)).1 (freshTxn o m)).fabric.waits = d.fabric.waits := by
  have hnear : (d.entered o m).homedAway (freshTxn o m).line = false := Dev.homedAway_dram (Dev.place_taken h64 hp)
  have hfull : o = .iow ∨ o = .wbd ∨ o = .evc → (d.taken o m).mcFull ch (lineOfMsg m) = false :=
    fun h => (Dev.mcFull_congr (d.chans_entered o m) ..).trans (hf h)
  rw [Dev.endTxn_near _ hnear, Dev.waits_respond]
  refine (Dev.waits_homeFinish_held (d := d.taken o m) ho (Dev.dir_taken hdir) (Dev.llcLine_taken hv) (Dev.place_taken h64 hp) hfull ..).trans ?_
  exact congrArg Fabric.waits (d.fabric_entered o m)

include h64 hp hdir hv in
theorem Dev.data_endTxn_held (hr : o ∈ [Opc.rds, .rdo, .upg, .rdna]) :
    ∃ r : Msg, (.data, r) ∈ ((d.entered o m).endTxn (d.home (lineOfMsg m)).1 (freshTxn o m)).fabric.net ∧ r.who = m.who ∧ r.txid = m.txid ∧
      r.data = v.data ∧ r.poison = v.poison := by
  have hnear : (d.entered o m).homedAway (freshTxn o m).line = false := Dev.homedAway_dram (Dev.place_taken h64 hp)
  have hgot : ((d.entered o m).ended (d.home (lineOfMsg m)).1 (freshTxn o m)).2.got = ⟨v.data, v.poison, false⟩ :=
    Dev.got_homeFinish_held (d := d.taken o m) hr (Dev.dir_taken hdir) (Dev.llcLine_taken hv) (Dev.place_taken h64 hp) ..
  have hsharer : (d.entered o m).isSharer (d.home (lineOfMsg m)).1 m = false := by
    rw [Dev.isSharer, Slice.dirEntry_empty (by rw [Dev.slice_entered, hdir])]
    rfl
  rw [Dev.endTxn_near _ hnear, show (freshTxn o m).req = m from rfl, hsharer, Bool.and_false]
  obtain ⟨x, hx, hwho, htxid, hdata, hpoison⟩ := Dev.respond_data ((d.entered o m).ended (d.home (lineOfMsg m)).1 (freshTxn o m)).1
    (d.home (lineOfMsg m)).1 m hr (r := ((d.entered o m).ended (d.home (lineOfMsg m)).1 (freshTxn o m)).2) (by rw [hgot])
  exact ⟨x, hx, hwho, htxid, by rw [hdata, hgot], by rw [hpoison, hgot]⟩

end Dram

/-! ### The statement -/

theorem exec_homeRequest {i : Instr} {o : Opc} {m : Msg} (h : homeRequest i = some (o, m)) (s : State) :
    o ∈ [Opc.rds, .rdo, .upg, .rdna, .iow, .wbd, .evc] ∧ exec i s = s.done (s.dev.deliver o m (·.homeTake o m)) := by
  unfold homeRequest at h
  split at h
  all_goals cases h
  all_goals exact ⟨by decide, rfl⟩

theorem Delivered.exec_homeRequest {i : Instr} {o : Opc} {m : Msg} {s : State} {e : Dev} (hd : Delivered s o m e) (h : homeRequest i = some (o, m)) :
    exec i s = s.done (e.homeTake o m) := by
  rw [(Sys2Proof.Machine.exec_homeRequest h s).2, hd.deliver_eq]

/-- Settles O36. A home that need not wait and asks no holder ends the request in the step that takes it up. -/
theorem homes : Obligations.Homes := by
  unfold Obligations.Homes
  refine ⟨fun i o m s e hi hd => ⟨?_, ?_, ?_⟩, ?_⟩
  · intro hs hf hp ha hq hw hl hwaits
    exact leaves_of_done (hd.exec_homeRequest hi) hwaits (Dev.answered_homeTake hs hf hp hq hw hl ha)
  · intro ch k v h64 hp hs hq hdir hw hv hfull
    have ho := (exec_homeRequest hi s).1
    have hf := Dev.farSocket_dram hp
    have hsp := Dev.inSpad_of_place_dram hp
    have hl := Dev.snoopList_empty hdir o m
    have ha : e.homedAway (lineOfMsg m) = false := Dev.homedAway_dram (by rw [lineOfMsg_mul_64 h64, hp])
    have hends := Dev.homeTake_ends hs hf hsp hq hw hl ha
    refine leaves_of_done (hd.exec_homeRequest hi) ?_ ⟨Dev.answered_homeTake hs hf hsp hq hw hl ha, ?_, fun hr => ?_⟩
    · rw [hends, Dev.waits_endTxn_held ho h64 hp hdir hv (fun h => (hfull h).2), hd.waits_eq]
    · exact Dev.arch_of_regs (Dev.regs_homeTake hs hf hsp hq hw hl ha)
    · rw [hends]
      exact Dev.data_endTxn_held h64 hp hdir hv hr
  · intro hp hf hs
    refine completes_of_done ((hd.exec_homeRequest hi).trans (congrArg s.done ?_)) hd.waits_eq
    unfold Dev.homeTake
    rw [hf]
    split
    · next h => cases h
    · next h => exact absurd h (Dev.place_ne_spad hp _ _ _)
    · rw [Dev.fresh, Dev.freshAt, hs, if_pos rfl]
  · intro d n set ln who key v hdir hv hu ha
    rw [Dev.homeFinish_rds_held set who key 0 0 false hdir hv hu ha, Dev.homeFinish_own_held set who key 0 0 false hdir hv hu ha (.inl rfl)]
    obtain ⟨w, hw⟩ := (d.dirRoom n set).dirEntry_setDir_self n (ownedBy who ln set)
    have hline : (ownedBy who ln set).line = ln := by cases who <;> rfl
    refine ⟨rfl, rfl, _, hline ▸ hw, rfl, fun c hc => ?_⟩
    subst hc
    rfl

end Sys2Proof.Machine

/-! Prover's part. What a snoop, and a set-flush, leave in the tile that they reach (R163, R166 to R168). -/

namespace Sys2Proof.Machine

/-! ### A tile that is awake -/

/-- The device without its cores. -/
def Dev.sansCores (d : Dev) : Dev := { d with cores := [] }

theorem Dev.fabric_of_sansCores {d e : Dev} (h : e.sansCores = d.sansCores) : e.fabric = d.fabric := (congrArg (fun x : Dev => x.fabric) h :)
theorem Dev.csr_of_sansCores {d e : Dev} (h : e.sansCores = d.sansCores) : e.csr = d.csr := (congrArg (fun x : Dev => x.csr) h :)
theorem Dev.mem_of_sansCores {d e : Dev} (h : e.sansCores = d.sansCores) : e.mem = d.mem := (congrArg (fun x : Dev => x.mem) h :)

theorem Core.l2Line_dropLine (q : Core) (ln : Nat) : (q.dropLine ln).l2Line ln = none := by
  simp [Core.l2Line, Core.dropLine, Core.setL2]

section Awake
variable {d : Dev} {c : Nat} (h : d.power c ≠ 1) (ln : Nat)
include h

theorem Dev.sansCores_snoopCore (k : SnoopKind) : (d.snoopCore c ln k).1.sansCores = d.sansCores := by
  unfold Dev.snoopCore
  rw [Dev.wake_of_power_ne h]
  dsimp only
  split <;> rfl

theorem Dev.core_snoopCore_other (k : SnoopKind) {j : Nat} (hj : j ≠ c) : (d.snoopCore c ln k).1.core j = d.core j := by
  unfold Dev.snoopCore
  rw [Dev.wake_of_power_ne h]
  dsimp only
  split
  · rfl
  · exact d.core_modCore_other _ hj

/-- After an invalidation the core does not hold the line. -/
theorem Dev.l2Line_snoopCore_inval : ((d.snoopCore c ln .inval).1.core c).l2Line ln = none := by
  unfold Dev.snoopCore
  rw [Dev.wake_of_power_ne h]
  dsimp only
  split
  · next hn => exact hn
  · rw [Dev.core_modCore_self]
    exact Core.l2Line_dropLine ..

end Awake

/-- A core loses nothing by a snoop. -/
theorem Dev.lost_snoopCore (d : Dev) (c ln : Nat) (k : SnoopKind) : (d.snoopCore c ln k).2.lost = false := by
  unfold Dev.snoopCore
  dsimp only
  split
  · rfl
  · dsimp only
    split <;> rfl

/-- Both cores of a tile, one after the other. -/
def Dev.snoopTile (d : Dev) (t ln : Nat) (k : SnoopKind) : Dev := ((d.snoopCore (2 * t) ln k).1.snoopCore (2 * t + 1) ln k).1

theorem Dev.snoop_core {d : Dev} {c : CoreId} (h : d.deadHolder (.core c) = false) (ln : Nat) (k : SnoopKind) (owner : Bool) :
    (d.snoop (.core c) none ln k owner).1 = d.snoopTile (c.val / 2) ln k ∧ (d.snoop (.core c) none ln k owner).2.lost = false := by
  refine ⟨by simp [Dev.snoop, h, Dev.snoopTile], ?_⟩
  simp [Dev.snoop, h, SnoopAns.and, Dev.lost_snoopCore]

section Tile
variable {d : Dev} {t : Nat} (h : ∀ k, k / 2 = t → d.power k ≠ 1) (ln : Nat)
include h

theorem Dev.awake_second (k : SnoopKind) : (d.snoopCore (2 * t) ln k).1.power (2 * t + 1) ≠ 1 := by
  rw [Dev.power_congr (Dev.csr_of_sansCores (Dev.sansCores_snoopCore (h _ (by omega)) ln k))]
  exact h _ (by omega)

theorem Dev.sansCores_snoopTile (k : SnoopKind) : (d.snoopTile t ln k).sansCores = d.sansCores :=
  (Dev.sansCores_snoopCore (Dev.awake_second h ln k) ln k).trans (Dev.sansCores_snoopCore (h _ (by omega)) ln k)

/-- After an invalidation neither core of the tile holds the line. -/
theorem Dev.l2Line_snoopTile_inval {k : Nat} (hk : k / 2 = t) : ((d.snoopTile t ln .inval).core k).l2Line ln = none := by
  unfold Dev.snoopTile
  have hk2 : k = 2 * t + 1 ∨ k = 2 * t := by omega
  rcases hk2 with rfl | rfl
  · exact Dev.l2Line_snoopCore_inval (Dev.awake_second h ln .inval) ln
  · rw [Dev.core_snoopCore_other (Dev.awake_second h ln .inval) ln .inval (by omega)]
    exact Dev.l2Line_snoopCore_inval (h _ (by omega)) ln

end Tile

/-! ### The answer to a snoop -/

/-- The snoop of an agent that a packet asks for, and what it answers. -/
def Dev.snoopFor (d : Dev) (o : Opc) (m : Msg) : Dev × SnoopAns :=
  d.snoop m.who none (lineOfMsg m) (d.snoopKind o (lineOfMsg m))
    (((d.slice (d.home (lineOfMsg m)).1).dirEntry (lineOfMsg m)).any fun e => e.excl && e.holders.any (sameTile m.who))

/-- An agent that has lost nothing answers, to the home, by one packet. -/
theorem Dev.snoopAnswer_eq_send {d : Dev} {o : Opc} {m : Msg} (h : (d.snoopFor o m).2.lost = false) :
    ∃ (p : Opc) (r : Msg), d.snoopAnswer o m = (d.snoopFor o m).1.send p r ∧ (p = .ack ∨ p = .nocopy ∨ p = .snpdata) ∧
      r.txid = m.txid ∧ r.who = m.who := by
  unfold Dev.snoopFor at h ⊢
  unfold Dev.snoopAnswer
  dsimp only
  rw [h, if_neg (by decide)]
  split
  · exact ⟨.nocopy, _, rfl, by decide, rfl, rfl⟩
  · split
    · exact ⟨.ack, _, rfl, by decide, rfl, rfl⟩
    · exact ⟨.snpdata, _, rfl, by decide, rfl, rfl⟩

theorem Dev.snoopArrive_core {d : Dev} {o : Opc} {m : Msg} {c : CoreId} (ht : d.fabric.txns = []) (hm : m.who = .core c) :
    d.snoopArrive o m = d.snoopAnswer o m := by
  simp [Dev.snoopArrive, ht, hm]

theorem Dev.snoopKind_inval (d : Dev) {o : Opc} (ho : o ≠ .snp) (ln : Nat) : d.snoopKind o ln = .inval := by
  simp [Dev.snoopKind, ho]

theorem exec_snoopOf {i : Instr} {o : Opc} {m : Msg} (h : snoopOf i = some (o, m)) (s : State) :
    exec i s = s.done (s.dev.deliver o m (·.snoopArrive o m)) := by
  unfold snoopOf at h
  split at h
  all_goals cases h
  all_goals rfl

/-- A snoop of a tile that is awake is answered, and leaves everything but the tile's cores as it was. -/
theorem Dev.snoopArrive_awake {d : Dev} {o : Opc} {m : Msg} {c : CoreId} (ht : d.fabric.txns = []) (hm : m.who = .core c)
    (hdead : d.deadHolder (.core c) = false) :
    ∃ (p : Opc) (r : Msg), d.snoopArrive o m = (d.snoopTile (c.val / 2) (lineOfMsg m) (d.snoopKind o (lineOfMsg m))).send p r ∧
      (p = .ack ∨ p = .nocopy ∨ p = .snpdata) ∧ r.txid = m.txid ∧ r.who = m.who := by
  have hsnoop := d.snoop_core hdead (lineOfMsg m) (d.snoopKind o (lineOfMsg m))
    (((d.slice (d.home (lineOfMsg m)).1).dirEntry (lineOfMsg m)).any fun e => e.excl && e.holders.any (sameTile m.who))
  have hfor : (d.snoopFor o m).1 = d.snoopTile (c.val / 2) (lineOfMsg m) (d.snoopKind o (lineOfMsg m)) ∧ (d.snoopFor o m).2.lost = false := by
    rw [Dev.snoopFor, hm]
    exact hm ▸ hsnoop
  rw [Dev.snoopArrive_core ht hm, ← hfor.1]
  exact Dev.snoopAnswer_eq_send hfor.2

theorem Dev.regs_snoopTile (d : Dev) (t ln : Nat) (k : SnoopKind) : (d.snoopTile t ln k).regs = d.regs :=
  (Dev.regs_snoopCore ..).trans (Dev.regs_snoopCore ..)

/-! ### What an eviction keeps -/

/-- The device apart from its memory, its fabric and its slices. -/
def Dev.sansSlices (d : Dev) : Dev := { d.sansFabric with slices := [] }

theorem Dev.sansSlices_congr {d e : Dev} (h : e.sansFabric = d.sansFabric) : e.sansSlices = d.sansSlices :=
  (congrArg (fun x : Dev => { x with slices := [] }) h :)

theorem Dev.sansSlices_modSlice (d : Dev) (n : Nat) (f : Slice → Slice) : (d.modSlice n f).sansSlices = d.sansSlices := rfl

theorem Dev.sansSlices_victimOut (d : Dev) (ln : Nat) (x : Line) (key : BitVec 11) (poison : Bool) :
    (d.victimOut ln x key poison).sansSlices = d.sansSlices := Dev.sansSlices_congr (d.sansFabric_victimOut ..)

theorem Dev.sansSlices_allocLlc (d : Dev) (n set ln cls : Nat) (x : Line) (dirty : Bool) (key : BitVec 11) (poison : Bool) :
    (d.allocLlc n set ln cls x dirty key poison).sansSlices = d.sansSlices := by
  unfold Dev.allocLlc
  grind [Dev.sansSlices_modSlice, Dev.sansSlices_victimOut]

theorem Dev.sansSlices_homeEvict (d : Dev) (n set : Nat) (who : Agent) (from_ : Option Nat) (ln : Nat) (key : BitVec 11) (x : Line)
    (dirty poison : Bool) : (d.homeEvict n set who from_ ln key x dirty poison).sansSlices = d.sansSlices := by
  have hpost : ∀ o m, (d.farPost o m).sansSlices = d.sansSlices := fun _ _ => rfl
  unfold Dev.homeEvict Dev.dropDir
  grind [Dev.sansSlices_modSlice, Dev.sansSlices_victimOut, Dev.sansSlices_allocLlc, Dev.dropLlc]

theorem Dev.sansSlices_noteLost (d : Dev) (n : Nat) (e : DirEntry) (r : SnoopAns) : (d.noteLost n e r).sansSlices = d.sansSlices := by
  have hlost : (d.lineLost n e.line).sansSlices = d.sansSlices :=
    (Dev.sansSlices_congr (Dev.sansFabric_congr (Dev.sansMemory_markLost _ e.line))).trans (d.sansSlices_modSlice n _)
  unfold Dev.noteLost
  split
  · exact hlost
  · split
    · exact hlost
    · rfl

theorem Dev.dir_homeEvict_subset (d : Dev) (n set : Nat) (who : Agent) (from_ : Option Nat) (ln : Nat) (key : BitVec 11) (x : Line)
    (dirty poison : Bool) : ((d.homeEvict n set who from_ ln key x dirty poison).slice n).dir ⊆ (d.slice n).dir := by
  have hpre : ∀ y : Dev, y.homes = d.homes → ((y.dropDir n ln).slice n).dir ⊆ (d.slice n).dir := by
    intro y hy
    rw [Dev.dir_dropDir_self, Dev.dir_congr hy]
    exact List.filter_subset_self _
  refine hpre _ ?_
  split
  · rfl
  · split
    · split
      · exact (Dev.homes_victimOut ..).trans (d.homes_dropLlc ..)
      · rfl
    · exact d.homes_allocLlc ..

/-! ### What decides the home of a line -/

/-- The part of the device that decides a line's home. -/
def Dev.homing (d : Dev) : Hash × Pins := (d.hash, d.pins)

theorem Dev.home_congr {d e : Dev} (h : e.homing = d.homing) (ln : Nat) : e.home ln = d.home ln := by
  have hh : e.hash = d.hash := congrArg Prod.fst h
  have hp : e.pins = d.pins := congrArg Prod.snd h
  have hin : ∀ m, e.homeIn m ln = d.homeIn m ln := by
    have hquart : e.quartered = d.quartered := by rw [Dev.quartered, Dev.quartered, hh]
    have hsock : e.socket = d.socket := by rw [Dev.socket, Dev.socket, hp]
    intro m
    simp only [Dev.homeIn, hquart, Dev.quadOf, hsock]
  simp only [Dev.home, hin, hh]

theorem Dev.homing_of_sansCaches {d e : Dev} (h : e.sansCaches = d.sansCaches) : e.homing = d.homing :=
  (congrArg Dev.homing h :)
theorem Dev.homing_of_sansSlices {d e : Dev} (h : e.sansSlices = d.sansSlices) : e.homing = d.homing :=
  (congrArg Dev.homing h :)
theorem Dev.cores_of_sansSlices {d e : Dev} (h : e.sansSlices = d.sansSlices) : e.cores = d.cores :=
  (congrArg (fun x : Dev => x.cores) h :)

theorem Dev.homing_makeRoom (d : Dev) : d.makeRoom.homing = d.homing :=
  Dev.homing_of_sansSlices (Dev.sansSlices_congr d.sansFabric_makeRoom)

/-! ### The lines that the directory tracks in a tile (R168) -/

/-- An entry of a set that names a tile. -/
def DirEntry.names (e : DirEntry) (set t : Nat) : Prop := e.set = set ∧ t ∈ e.tiles

/-- What a set-flush does at one entry before it drops its agent from the entry: the agent's copy is invalidated, and goes to the home. -/
def Dev.flushCopy (d : Dev) (n set : Nat) (a : Agent) (e : DirEntry) : Dev :=
  let p := d.makeRoom.snoop a none e.line .inval e.excl
  match p.2.held.filter fun b => b.line.st == Mesi.modified || b.line.poison || (e.excl && p.1.homedAway e.line) with
  | some b => p.1.homeEvict n set a b.core e.line b.line.key b.line.data (b.line.st == Mesi.modified) b.line.poison
  | none => p.1.noteLost n e p.2

theorem Dev.homing_flushCopy (d : Dev) (n set : Nat) (a : Agent) (e : DirEntry) : (d.flushCopy n set a e).homing = d.homing := by
  have hsnoop : (d.makeRoom.snoop a none e.line .inval e.excl).1.homing = d.homing :=
    (Dev.homing_of_sansCaches (Dev.sansCaches_snoop ..)).trans d.homing_makeRoom
  unfold Dev.flushCopy
  dsimp only
  split
  · exact (Dev.homing_of_sansSlices (Dev.sansSlices_homeEvict ..)).trans hsnoop
  · exact (Dev.homing_of_sansSlices (Dev.sansSlices_noteLost ..)).trans hsnoop

theorem Dev.dir_flushCopy_subset (d : Dev) (n set : Nat) (a : Agent) (e : DirEntry) :
    ((d.flushCopy n set a e).slice n).dir ⊆ (d.slice n).dir := by
  have hsnoop : ((d.makeRoom.snoop a none e.line .inval e.excl).1.slice n).dir = (d.slice n).dir :=
    Dev.dir_congr ((Dev.homes_snoop ..).trans (Dev.homes_congr (Dev.sansCaches_congr d.sansFabric_makeRoom))) n
  unfold Dev.flushCopy
  dsimp only
  rw [← hsnoop]
  split
  · exact Dev.dir_homeEvict_subset ..
  · rw [Dev.dir_congr (Dev.homes_noteLost ..)]
    exact fun _ h => h

/-- The entry without the holders that an agent stands for. -/
def DirEntry.unheldBy (e : DirEntry) (a : Agent) : DirEntry :=
  let left := e.holders.filter fun h => !sameTile a h
  { e with tiles := left.filterMap (fun h => match h with | .core c => some (c.val / 2) | _ => none),
           socks := left.filterMap (fun h => match h with | .socket s => some s.val | _ => none),
           cxls := left.filterMap (fun h => match h with | .cxl k => some k.val | _ => none) }

theorem DirEntry.tiles_unheldBy (e : DirEntry) (c : CoreId) : c.val / 2 ∉ (e.unheldBy (.core c)).tiles := by
  intro hmem
  simp only [DirEntry.unheldBy, List.mem_filterMap, List.mem_filter] at hmem
  obtain ⟨h, ⟨_, hother⟩, heq⟩ := hmem
  cases h with
  | core x => simp_all [sameTile]
  | _ => cases heq

/-- A tile that an entry names is among the entry's holders. -/
theorem DirEntry.holders_of_names {e : DirEntry} {set : Nat} {c : CoreId} (h : e.names set (c.val / 2)) : e.holders.any (sameTile (.core c)) = true := by
  refine List.any_eq_true.mpr ⟨tileAgent (c.val / 2), ?_, ?_⟩
  · exact List.mem_append_left _ (List.mem_append_left _ (List.mem_map_of_mem h.2))
  · have hc := c.isLt
    simp only [tileAgent, sameTile, beq_iff_eq, Fin.ofNat]
    omega

theorem Dev.flushHolder_eq (d : Dev) (n set : Nat) (a : Agent) : d.flushHolder n set a =
    ((d.slice n).dir.filter fun e => e.set == set && e.holders.any (sameTile a)).foldl (fun x e =>
      if (e.holders.filter fun h => !sameTile a h).isEmpty then (x.flushCopy n set a e).dropDir n e.line
      else (x.flushCopy n set a e).setDir n (e.unheldBy a)) d := rfl

theorem Dev.homing_flushHolder (d : Dev) (n set : Nat) (a : Agent) : (d.flushHolder n set a).homing = d.homing := by
  rw [Dev.flushHolder_eq]
  refine Dev.foldl_frame Dev.homing (fun x e => ?_) _ d
  split
  · exact x.homing_flushCopy ..
  · exact x.homing_flushCopy ..

/-- Of the entries that name the tile, a set-flush at one entry leaves those of other lines alone. -/
theorem Dev.names_flush {d : Dev} {n set : Nat} {c : CoreId} {e y : DirEntry}
    (hy : y ∈ ((if (e.holders.filter fun h => !sameTile (.core c) h).isEmpty then (d.flushCopy n set (.core c) e).dropDir n e.line
      else (d.flushCopy n set (.core c) e).setDir n (e.unheldBy (.core c))).slice n).dir) (hn : y.names set (c.val / 2)) :
    y ∈ (d.slice n).dir ∧ y.line ≠ e.line := by
  have hrest : y ∈ ((d.flushCopy n set (.core c) e).slice n).dir.filter (fun x => x.line != e.line) → y ∈ (d.slice n).dir ∧ y.line ≠ e.line := by
    intro h
    obtain ⟨hmem, hline⟩ := List.mem_filter.mp h
    exact ⟨d.dir_flushCopy_subset n set (.core c) e hmem, by simpa using hline⟩
  split at hy
  · rw [Dev.dir_dropDir_self] at hy
    exact hrest hy
  · obtain ⟨w, hw⟩ := (d.flushCopy n set (.core c) e).dir_setDir_self n (e.unheldBy (.core c))
    rw [hw] at hy
    rcases List.mem_cons.mp hy with rfl | hy
    · exact absurd hn.2 (e.tiles_unheldBy c)
    · exact hrest hy

/-- After a set-flush at its holder no entry of the set names the tile. -/
theorem Dev.names_flushHolder (d : Dev) (n set : Nat) (c : CoreId) : ∀ y ∈ ((d.flushHolder n set (.core c)).slice n).dir, ¬ y.names set (c.val / 2) := by
  rw [Dev.flushHolder_eq]
  obtain ⟨hold, hgone⟩ := foldl_each
    (M := fun x : Dev => ∀ y ∈ (x.slice n).dir, y.names set (c.val / 2) → y ∈ (d.slice n).dir)
    (R := fun (x : Dev) (e : DirEntry) => ∀ y ∈ (x.slice n).dir, y.names set (c.val / 2) → y.line ≠ e.line)
    (fun x e hM => ⟨fun y hy hn => hM y (Dev.names_flush hy hn).1 hn, fun y hy hn => (Dev.names_flush hy hn).2⟩)
    (fun x e b hR y hy hn => hR y (Dev.names_flush hy hn).1 hn)
    ((d.slice n).dir.filter fun e => e.set == set && e.holders.any (sameTile (.core c))) d (fun _ hy _ => hy)
  intro y hy hn
  have hmine : y ∈ (d.slice n).dir.filter fun e => e.set == set && e.holders.any (sameTile (.core c)) :=
    List.mem_filter.mpr ⟨hold y hy hn, by simp [hn.1, DirEntry.holders_of_names hn]⟩
  exact hgone y hmine y hy hn rfl

/-! ### The lines that a core's L2 holds -/

theorem Dev.core_setPower (d : Dev) (k x j : Nat) : (d.setPower k x).core j = d.core j := by
  unfold Dev.setPower Dev.setNow
  split <;> rfl

theorem Dev.l2_of_cores {d e : Dev} (h : e.cores = d.cores) (j : Nat) : (e.core j).l2 = (d.core j).l2 := by
  rw [Dev.core, h, ← Dev.core]

theorem Dev.l2_modCore (d : Dev) (c : Nat) {f : Core → Core} (hf : (f (d.core c)).l2 = (d.core c).l2) (j : Nat) :
    ((d.modCore c f).core j).l2 = (d.core j).l2 := by
  by_cases hj : j = c
  · subst hj
    rw [Dev.core_modCore_self, hf]
  · rw [Dev.core_modCore_other d f hj]

theorem Dev.l2_applyPatch (d : Dev) (k j : Nat) : ((d.applyPatch k).core j).l2 = (d.core j).l2 := by
  unfold Dev.applyPatch
  split
  · refine Eq.trans (Dev.l2_of_cores ?_ j) (Dev.l2_modCore (d.setFlds (.coreUcode k) [(.CORE_UCODE_PATCH_ID,
      d.fld (.coreUcode k) .CORE_UCODE_PENDING_ID), (.CORE_UCODE_PENDING_ID, 0), (.CORE_UCODE_PEND, 0)]) k
      (f := fun q => { q with patch := d.dict.patch }) rfl j)
    rfl
  · rfl

theorem Dev.l2_onWake (d : Dev) (k j : Nat) : ((d.onWake k).core j).l2 = (d.core j).l2 := by
  unfold Dev.onWake
  split
  · exact d.l2_applyPatch k j
  · split <;> rfl

/-- Waking leaves every L2 as it was. -/
theorem Dev.l2_wake (d : Dev) (k j : Nat) : ((d.wake k).core j).l2 = (d.core j).l2 := by
  unfold Dev.wake
  split
  · rw [Dev.l2_onWake]
    exact congrArg Core.l2 (Dev.core_setPower { d with fabric := _ } k 0 j)
  · rfl

/-- What a set-flush does with one line of a core's L2: dirty data goes to the home, and the line leaves the L2. -/
def Dev.flushLine (d : Dev) (n set : Nat) (a : Agent) (k : Nat) (e : L2Line) : Dev :=
  (if e.st = Mesi.modified || e.poison then d.makeRoom.homeEvict n set a (some k) e.line e.key e.data true e.poison else d).modCore k fun q =>
    q.dropLine e.line

/-- What a set-flush does with the lines of a set in a core's L2. -/
def Dev.flushCore (d : Dev) (n set : Nat) (a : Agent) (k : Nat) : Dev :=
  (((d.wake k).core k).l2.filter fun e => d.home e.line == (n, set)).foldl (fun y e => y.flushLine n set a k e) (d.wake k)

theorem Dev.setFlush_core (d : Dev) (n set : Nat) (c : CoreId) : d.setFlush n set (.core c) =
    ((d.flushHolder n set (.core c)).flushCore n set (.core c) (c.val / 2 * 2)).flushCore n set (.core c) (c.val / 2 * 2 + 1) := by
  unfold Dev.setFlush Dev.flushCore Dev.flushLine
  rfl

section FlushLine
variable (d : Dev) (n set : Nat) (a : Agent) (k : Nat) (e : L2Line)

theorem Dev.homing_flushLine : (d.flushLine n set a k e).homing = d.homing := by
  have hcore : ∀ (x : Dev) f, (x.modCore k f).homing = x.homing := fun _ _ => rfl
  unfold Dev.flushLine
  rw [hcore]
  split
  · exact (Dev.homing_of_sansSlices (Dev.sansSlices_homeEvict ..)).trans d.homing_makeRoom
  · rfl

theorem Dev.dir_flushLine_subset : ((d.flushLine n set a k e).slice n).dir ⊆ (d.slice n).dir := by
  have hcore : ∀ (x : Dev) f, (x.modCore k f).slice n = x.slice n := fun _ _ => rfl
  unfold Dev.flushLine
  rw [hcore]
  split
  · rw [← Dev.dir_congr (Dev.homes_congr (Dev.sansCaches_congr d.sansFabric_makeRoom)) n]
    exact Dev.dir_homeEvict_subset ..
  · exact fun _ h => h

theorem Dev.cores_flushLine : (if e.st = Mesi.modified || e.poison then
    d.makeRoom.homeEvict n set a (some k) e.line e.key e.data true e.poison else d).cores = d.cores := by
  split
  · exact (Dev.cores_of_sansSlices (Dev.sansSlices_homeEvict ..)).trans (Dev.cores_congr d.sansFabric_makeRoom)
  · rfl

theorem Dev.l2_flushLine_self : ((d.flushLine n set a k e).core k).l2 = (d.core k).l2.filter fun x => x.line != e.line := by
  rw [Dev.flushLine, Dev.core_modCore_self, Dev.core, Dev.cores_flushLine]
  rfl

theorem Dev.l2_flushLine_other {j : Nat} (hj : j ≠ k) : ((d.flushLine n set a k e).core j).l2 = (d.core j).l2 := by
  rw [Dev.flushLine, Dev.core_modCore_other _ _ hj, Dev.core, Dev.cores_flushLine, ← Dev.core]

end FlushLine

section FlushCore
variable (d : Dev) (n set : Nat) (a : Agent) (k : Nat)

theorem Dev.homing_flushCore : (d.flushCore n set a k).homing = d.homing :=
  (Dev.foldl_frame Dev.homing (fun x e => x.homing_flushLine n set a k e) _ _).trans (Dev.homing_of_sansCaches (d.sansCaches_wake k))

theorem Dev.dir_flushCore_subset : ((d.flushCore n set a k).slice n).dir ⊆ (d.slice n).dir := by
  rw [← Dev.dir_congr (Dev.homes_congr (d.sansCaches_wake k)) n]
  exact fold_keeps (fun x : Dev => (x.slice n).dir ⊆ ((d.wake k).slice n).dir) _
    (fun x e hx => fun _ hy => hx (x.dir_flushLine_subset n set a k e hy)) _ _ (fun _ h => h)

theorem Dev.l2_flushCore_other {j : Nat} (hj : j ≠ k) : ((d.flushCore n set a k).core j).l2 = (d.core j).l2 :=
  (Dev.foldl_frame (fun x : Dev => (x.core j).l2) (fun x e => x.l2_flushLine_other n set a k e hj) _ _).trans (d.l2_wake k j)

/-- None of the set's lines is left in the core's L2. -/
theorem Dev.l2_flushCore_self : ∀ x ∈ ((d.flushCore n set a k).core k).l2, d.home x.line ≠ (n, set) := by
  obtain ⟨hold, hgone⟩ := foldl_each
    (M := fun x : Dev => (x.core k).l2 ⊆ ((d.wake k).core k).l2) (R := fun (x : Dev) (e : L2Line) => ∀ y ∈ (x.core k).l2, y.line ≠ e.line)
    (f := fun y e => y.flushLine n set a k e)
    (fun x e hM => by
      rw [Dev.l2_flushLine_self]
      exact ⟨fun _ hy => hM (List.mem_filter.mp hy).1, fun y hy => by simpa using (List.mem_filter.mp hy).2⟩)
    (fun x e b hR y hy => by
      rw [Dev.l2_flushLine_self] at hy
      exact hR y (List.mem_filter.mp hy).1)
    (((d.wake k).core k).l2.filter fun e => d.home e.line == (n, set)) (d.wake k) (fun _ h => h)
  intro x hx hhome
  have hmine : x ∈ ((d.wake k).core k).l2.filter fun e => d.home e.line == (n, set) :=
    List.mem_filter.mpr ⟨hold hx, by rw [hhome, beq_self_eq_true]⟩
  exact hgone x hmine x hx rfl

/-- A core whose L2 holds nothing is woken, and no more. -/
theorem Dev.flushCore_empty {d : Dev} (n set : Nat) (a : Agent) {k : Nat} (h : (d.core k).l2 = []) : d.flushCore n set a k = d.wake k := by
  rw [Dev.flushCore, d.l2_wake, h]
  rfl

end FlushCore

/-! ### A set-flush at a tile -/

theorem Dev.setFlush_leaves (d : Dev) (n set : Nat) (c : CoreId) :
    (∀ x ∈ ((d.setFlush n set (.core c)).slice n).dir, x.set = set → c.val / 2 ∉ x.tiles) ∧
      ∀ k, k / 2 = c.val / 2 → ∀ x ∈ ((d.setFlush n set (.core c)).core k).l2, d.home x.line ≠ (n, set) := by
  have hholder := Dev.home_congr (d.homing_flushHolder n set (.core c))
  have hfirst := Dev.home_congr ((d.flushHolder n set (.core c)).homing_flushCore n set (.core c) (c.val / 2 * 2))
  rw [Dev.setFlush_core]
  refine ⟨fun x hx hset ht => ?_, fun k hk x hx => ?_⟩
  · have hx' := Dev.dir_flushCore_subset _ _ _ _ _ (Dev.dir_flushCore_subset _ _ _ _ _ hx)
    exact d.names_flushHolder n set c x hx' ⟨hset, ht⟩
  · have hcases : k = c.val / 2 * 2 ∨ k = c.val / 2 * 2 + 1 := by omega
    rw [← hholder]
    rcases hcases with rfl | rfl
    · rw [Dev.l2_flushCore_other _ _ _ _ _ (by omega)] at hx
      exact Dev.l2_flushCore_self _ n set (.core c) _ x hx
    · rw [← hfirst]
      exact Dev.l2_flushCore_self _ n set (.core c) _ x hx

theorem Dev.flushHolder_empty {d : Dev} {n : Nat} (h : (d.slice n).dir = []) (set : Nat) (a : Agent) : d.flushHolder n set a = d := by
  rw [Dev.flushHolder_eq, h]
  rfl

/-- Where nothing of the set is, nothing waits. -/
theorem Dev.waits_setFlush_empty {d : Dev} {n : Nat} {c : CoreId} (hdir : (d.slice n).dir = [])
    (hl2 : ∀ k, k / 2 = c.val / 2 → (d.core k).l2 = []) (set : Nat) : (d.setFlush n set (.core c)).fabric.waits = d.fabric.waits := by
  rw [Dev.setFlush_core, Dev.flushHolder_empty hdir, Dev.flushCore_empty n set _ (hl2 _ (by omega)), Dev.flushCore_empty, Dev.waits_wake, Dev.waits_wake]
  rw [Dev.l2_wake, hl2 _ (by omega)]

/-- With no port isolated, a packet goes its route, and changes nothing that a home or a core holds. -/
theorem Dev.reach_open {d : Dev} (h : d.fabric.ports = []) (o : Opc) (m : Msg) : ∃ e : Dev, d.reach o m = (e, true) ∧ e.sansMemory = d.sansMemory := by
  have hway : ((d.wakeRoute m.src m.dst).see o m d.time).sansMemory = d.sansMemory := (Dev.sansMemory_see ..).trans (d.sansMemory_wakeRoute ..)
  have hports : ((d.wakeRoute m.src m.dst).see o m d.time).fabric.ports = [] :=
    (congrArg (fun x : Dev => x.fabric.ports) hway :).trans h
  refine ⟨_, ?_, hway⟩
  simp [Dev.reach, Dev.blocked, hports]

theorem Dev.setFlushAt_open {d : Dev} (h : d.fabric.ports = []) (n set : Nat) (a : Agent) :
    ∃ e : Dev, d.setFlushAt n set a = e.setFlush n set a ∧ e.sansMemory = d.sansMemory := by
  obtain ⟨e, hreach, hsans⟩ := Dev.reach_open h .setflush
    { d.packetTo a 0 0 0 0 0 false with src := sliceNode n, dst := d.snoopNode a, epoch := 0 }
  refine ⟨e, ?_, hsans⟩
  unfold Dev.setFlushAt
  dsimp only
  rw [hreach]

/-! ### The statement -/

/-- Settles O37. A snoop of an awake tile asks its two cores in turn; a set-flush goes through the set's entries, then the tile's two L2s. -/
theorem snoops : Obligations.Snoops := by
  unfold Obligations.Snoops
  refine ⟨fun i o m s e c hi hd hm ht hdead hawake => ?_, fun n set c s hports hwaits => ?_⟩
  · obtain ⟨p, r, harrive, hp, htxid, hwho⟩ := Dev.snoopArrive_awake (o := o) ht hm hdead
    have hsans := Dev.sansCores_snoopTile hawake (lineOfMsg m) (e.snoopKind o (lineOfMsg m))
    have hx : exec i s = s.done (e.snoopArrive o m) := by rw [exec_snoopOf hi, hd.deliver_eq]
    rw [harrive] at hx
    refine leaves_of_done hx ?_ ⟨⟨p, r, by simp [Dev.send, Dev.setFabric], hp, htxid, hwho⟩, fun ho k hk => ?_, ?_, (Dev.mem_of_sansCores hsans :)⟩
    · rw [Dev.waits_send, Dev.fabric_of_sansCores hsans, hd.waits_eq]
    · rw [Dev.snoopKind_inval _ ho]
      exact Dev.l2Line_snoopTile_inval hawake _ hk
    · exact Dev.arch_of_regs (Dev.regs_snoopTile ..)
  · obtain ⟨e, hat, hsans⟩ := Dev.setFlushAt_open hports n.val set.val (.core c)
    have hcaches := Dev.sansFabric_congr hsans
    obtain ⟨hdir, hl2⟩ := e.setFlush_leaves n.val set.val c
    have hx : exec (.setflush n set (.core c)) s = s.done (e.setFlush n.val set.val (.core c)) := congrArg s.done hat
    refine leaves_of_done hx ?_ ⟨hdir, fun k hk x hx => ?_⟩
    · rcases hwaits with hwaits | ⟨hempty, hcores⟩
      · rw [← hat, hwaits]
      · rw [Dev.waits_setFlush_empty, Dev.waits_congr hsans]
        · rw [Dev.dir_congr (Dev.homes_congr (Dev.sansCaches_congr hcaches)), hempty]
        · intro k hk
          rw [Dev.core, Dev.cores_congr hcaches, ← Dev.core, hcores k hk]
    · rw [← Dev.home_congr (Dev.homing_of_sansCaches (Dev.sansCaches_congr hcaches))]
      exact hl2 k hk x hx

end Sys2Proof.Machine

/-! Prover's part. Way masks, re-keys, and the background rebuild of the slice hash (R160, R172 to R178). -/

namespace Sys2Proof.Machine

/-! ### Way masks and re-keys -/

theorem Dev.fld_govLog (d : Dev) (behaviour reason applied obj old new : Nat) {r : Reg} (h : r.offset ≠ Reg.pwrStat.offset) (f : Fld) :
    (d.govLog behaviour reason applied obj old new).fld r f = d.fld r f := by
  have hwire : ∀ (x : Dev) n, (x.wire n).fld r f = x.fld r f := fun _ _ => rfl
  have hgov : ∀ (x : Dev) g, (x.setGov g).fld r f = x.fld r f := fun _ _ => rfl
  unfold Dev.govLog
  split
  · rw [hwire, Dev.fld_setFld_reg_other _ _ _ _ h, hgov]
  · rw [Dev.fld_setFld_reg_other _ _ _ _ h, hgov]

theorem Dev.hash_govLog (d : Dev) (behaviour reason applied obj old new : Nat) : (d.govLog behaviour reason applied obj old new).hash = d.hash := by
  unfold Dev.govLog
  split <;> simp only [Dev.wire, Dev.report_hash, Dev.setFld_hash, Dev.setGov]

/-- A class's mask written in every slice. -/
theorem Dev.fld_setMasks (d : Dev) (k : Nat) {x : Nat} (hx : x < 2 ^ 16) {n : Nat} (hn : n < 132) :
    ((List.range 132).foldl (fun y j => y.setFld (.slcCos j k) .SLC_COS_MASK x) d).fld (.slcCos n k) .SLC_COS_MASK = x := by
  have hself : ∀ (y : Dev) (j : Nat), (y.setFld (.slcCos j k) .SLC_COS_MASK x).fld (.slcCos j k) .SLC_COS_MASK = x := by
    intro y j
    rw [Dev.fld_setFld_self _ _ _ _ (by decide)]
    exact Nat.mod_eq_of_lt hx
  refine (foldl_each (M := fun _ : Dev => True) (R := fun y j => y.fld (.slcCos j k) .SLC_COS_MASK = x)
    (fun y j _ => ⟨trivial, hself y j⟩) (fun y j i hy => ?_) (List.range 132) d trivial).2 n (List.mem_range.mpr hn)
  by_cases hj : i = j
  · subst hj
    exact hself y i
  · rw [Dev.fld_setFld_reg_other _ _ _ _ (by simp only [Reg.offset]; omega)]
    exact hy

theorem Dev.fabric_setMasks (d : Dev) (k x : Nat) :
    ((List.range 132).foldl (fun y j => y.setFld (.slcCos j k) .SLC_COS_MASK x) d).fabric = d.fabric := by
  refine Dev.foldl_frame Dev.fabric (fun y j => ?_) (List.range 132) d
  exact y.setFld_fabric ..

theorem Dev.wayMask_auto {d : Dev} (ho : d.od 0x2100 0 0 = 0) (hg : d.gov.maskAt = 0) {k : Nat} (hk : k < 16) (m : Half) :
    (d.wayMask k m).fabric = d.fabric ∧ ∀ n, n < 132 → (d.wayMask k m).fld (.slcCos n k) .SLC_COS_MASK = m.toNat := by
  unfold Dev.wayMask
  simp only [ho, hg, bne_self_eq_false, Bool.and_false, Bool.false_eq_true, if_false]
  have hgov : ∀ (x : Dev) g a b c, ((x.setGov g).setOd a b c).fabric = x.fabric := fun _ _ _ _ _ => rfl
  have hfld : ∀ (x : Dev) g a b c (r : Reg) (f : Fld), ((x.setGov g).setOd a b c).fld r f = x.fld r f := fun _ _ _ _ _ _ _ => rfl
  refine ⟨?_, fun n hn => ?_⟩
  · rw [Dev.fabric_govLog, hgov]
    exact d.fabric_setMasks k m.toNat
  · rw [Dev.fld_govLog _ _ _ _ _ _ _ (by simp only [Reg.offset]; omega), hfld]
    exact d.fld_setMasks k m.isLt hn

theorem Dev.wayMask_hold {d : Dev} (ho : d.od 0x2100 0 0 = 1) (k : Nat) (m : Half) : d.wayMask k m = d := by
  simp [Dev.wayMask, ho]

theorem Dev.fabric_queueReq (d : Dev) (r : RebuildReq) : (d.queueReq r).fabric = d.fabric := rfl

theorem Dev.reKey_requested (d : Dev) : d.reKey true = (d.queueRebuild .rekey 0).govLog 4 0x12 0 0 0 0 := rfl

theorem Dev.reKey_auto {d : Dev} (ho : d.od 0x2110 0 0 = 0) (hq : d.hash.queue = []) (hl : d.hash.lastAuto = none) :
    d.reKey false = (d.queueReq ⟨.rekey, 0, true⟩).govLog 4 0x11 0 0 0 0 := by
  simp [Dev.reKey, ho, hq, hl]

/-! ### The start of a rebuild (R175) -/

/-- What a rebuild's start moves besides the checkpoint places. -/
theorem Dev.ckMove_frame {β : Type} (g : Dev → β) (hg : ∀ (x : Dev) (c n : Nat), g (x.setFld (.corePnl c) .CORE_PNL_CKSLICE n) = g x)
    (d : Dev) (which : Nat → Bool) : g (d.ckMove which) = g d := by
  refine Dev.foldl_frame g (fun x t => ?_) _ d
  dsimp only
  split
  · exact (hg _ _ _).trans (hg _ _ _)
  · rfl

theorem Dev.hash_rebuildBegin (d : Dev) : d.rebuildBegin.hash = d.rebuildPick.hash := Dev.ckMove_frame (fun x => x.hash) (fun _ _ _ => rfl) _ _
theorem Dev.fabric_rebuildBegin (d : Dev) : d.rebuildBegin.fabric = d.rebuildPick.fabric :=
  Dev.ckMove_frame (fun x => x.fabric) (fun _ _ _ => rfl) _ _
theorem Dev.sliceRole_rebuildBegin (d : Dev) (n : Nat) : d.rebuildBegin.sliceRole n = d.rebuildPick.sliceRole n := by
  refine Dev.ckMove_frame (fun x => x.sliceRole n) (fun x c k => ?_) _ _
  exact Dev.fld_setFld_reg_other _ _ _ _ (by simp only [Reg.offset]; omega)

theorem Dev.newKey_eq (d : Dev) : ∃ i key, d.newKey = ({ d with freeCtr := i }, key) := by
  unfold Dev.newKey
  generalize drawKey (2 ^ 64) d.freeCtr = p
  exact ⟨p.1, p.2, rfl⟩

/-- A re-key begins under the masks of a new key. -/
theorem Dev.rebuildPick_rekey {d : Dev} {r : RebuildReq} (ha : d.hash.active = .none) (hr : d.hash.queue.find? d.rebuildReady = some r)
    (hk : r.kind = .rekey) : ∃ (i : Nat) (key : Word) (h : Hash), d.rebuildPick = { d with freeCtr := i, hash := h } ∧ h.active = .rekey ∧ h.ptr = 0 ∧
      h.new = { d.hash.old with key := key, masks := masksOf key } ∧ h.queue = d.hash.queue.erase r := by
  obtain ⟨i, key, hnew⟩ := d.newKey_eq
  unfold Dev.rebuildPick
  generalize d.newKey = p at hnew ⊢
  subst hnew
  rw [ha, hr, if_neg (by decide)]
  dsimp only
  rw [hk]
  dsimp only
  exact ⟨i, key, _, rfl, rfl, rfl, rfl, rfl⟩

theorem Dev.hash_setHash (d : Dev) (h : Hash) : (d.setHash h).hash = h := rfl
theorem Dev.fabric_setHash (d : Dev) (h : Hash) : (d.setHash h).fabric = d.fabric := rfl
theorem Dev.sliceRole_setHash (d : Dev) (h : Hash) (n : Nat) : (d.setHash h).sliceRole n = d.sliceRole n := rfl

theorem Dev.spareSlice_lt {d : Dev} {k n : Nat} (h : d.spareSlice k = some n) : n < 132 := List.mem_range.mp (List.mem_of_find?_eq_some h)

/-- A retirement with a spare begins with the spare, in service, in the slice's place. -/
theorem Dev.rebuildPick_retirement {d : Dev} {r : RebuildReq} {n : Nat} (ha : d.hash.active = .none)
    (hr : d.hash.queue.find? d.rebuildReady = some r) (hk : r.kind = .retirement) (hs : d.spareSlice r.slice = some n) :
    d.rebuildPick.fabric = d.fabric ∧ d.rebuildPick.hash.active = .retirement ∧ d.rebuildPick.sliceRole n = 0 ∧
      d.rebuildPick.hash.new.table = d.hash.old.table.map fun x => if x = r.slice then n else x := by
  have hn := Dev.spareSlice_lt hs
  have hrole : ∀ (x : Dev) (w : Word), (((x.setSliceRole n 0).setPower (domOfSlice n) 0).setReg (.odmRcause (domOfSlice n)) w).sliceRole n = 0 := by
    intro x w
    have hdom : (Reg.slcState n).offset ≠ (Reg.pwrDom (domOfSlice n)).offset := by simp only [Reg.offset]; omega
    have hvset : (Reg.slcState n).offset ≠ (Reg.pwrVset (domOfSlice n)).offset := by simp only [Reg.offset]; omega
    have hnow : ((x.setSliceRole n 0).setNow (domOfSlice n) 0).sliceRole n = (x.setSliceRole n 0).sliceRole n := by
      unfold Dev.setNow
      split
      · exact Dev.fld_setFld_reg_other _ _ _ _ hvset
      · rfl
    rw [Dev.sliceRole, Dev.fld_setReg_other _ _ _ (by simp only [Reg.offset]; omega), Dev.setPower, Dev.fld_setFld_reg_other _ _ _ _ hdom,
      ← Dev.sliceRole, hnow, Dev.sliceRole, Dev.setSliceRole, Dev.fld_setFld_self _ _ _ _ (by decide), Nat.zero_mod]
  have hfab : ∀ (x : Dev) (w : Word), (((x.setSliceRole n 0).setPower (domOfSlice n) 0).setReg (.odmRcause (domOfSlice n)) w).fabric = x.fabric :=
    fun x w => Dev.fabric_setPower ..
  unfold Dev.rebuildPick
  generalize d.newKey = p
  rw [ha, hr, if_neg (by decide)]
  dsimp only
  rw [hk, hs]
  dsimp only
  rw [Dev.fabric_setHash, Dev.sliceRole_setHash, Dev.hash_setHash, hfab, hrole]
  refine ⟨?_, rfl, rfl, rfl⟩
  split <;> rfl

theorem Dev.rebuildPick_active {d : Dev} (h : d.hash.active ≠ .none) : d.rebuildPick = d := by
  simp [Dev.rebuildPick, h]

/-! ### A set that no slice holds anything of (R176) -/

theorem Tbl.get_eq_or_mem {α : Type} (dflt : α) (k : Nat) (t : Tbl α) : Tbl.get dflt k t = dflt ∨ (k, Tbl.get dflt k t) ∈ t := by
  induction t with
  | nil => exact .inl rfl
  | cons e t ih =>
    by_cases h : e.1 = k
    · refine .inr (List.mem_cons.mpr (.inl ?_))
      simp [Tbl.get, ← h]
    · rcases ih with ih | ih
      · exact .inl (by simpa [Tbl.get, h] using ih)
      · exact .inr (List.mem_cons_of_mem _ (by simpa [Tbl.get, h] using ih))

/-- What a slice at reset has, and every slice of the table, every slice has. -/
theorem Dev.slice_of_table {d : Dev} {P : Slice → Prop} (h0 : P Slice.reset) (h : ∀ e ∈ d.slices, P e.2) (n : Nat) : P (d.slice n) := by
  rcases Tbl.get_eq_or_mem Slice.reset n d.slices with hn | hn
  · rw [Dev.slice, hn]
    exact h0
  · exact h _ hn

theorem foldl_id {α β : Type} {f : β → α → β} {l : List α} {b : β} (h : ∀ a ∈ l, f b a = b) : l.foldl f b = b := by
  induction l with
  | nil => rfl
  | cons a t ih =>
    rw [List.foldl_cons, h a (List.mem_cons_self ..)]
    exact ih fun x hx => h x (List.mem_cons_of_mem _ hx)

theorem Dev.wakeQueues_idle {d : Dev} (h : ∀ n, (d.slice n).waitq = []) : d.wakeQueues = d := foldl_id fun n _ => Dev.wakeQueue_idle (h n)

theorem Dev.migrate_empty {d : Dev} {s p : Nat} (hl : ∀ x ∈ (d.slice s).llc, x.set ≠ p) (hd : ∀ x ∈ (d.slice s).dir, x.set ≠ p) :
    d.migrate s p = d := by
  unfold Dev.migrate
  dsimp only
  rw [foldl_id (l := (d.slice s).llc) (b := d), foldl_id]
  · intro x hx
    rw [if_neg (by simp [hd x hx])]
  · intro x hx
    rw [if_neg (by simp [hl x hx])]

/-! ### The end of a rebuild -/

@[simp] theorem Dev.hash_setPower (d : Dev) (k x : Nat) : (d.setPower k x).hash = d.hash := by
  unfold Dev.setPower Dev.setNow
  split <;> rfl

theorem Dev.hash_unitOff (d : Dev) (k : Nat) : (d.unitOff k).hash = d.hash := by
  unfold Dev.unitOff
  dsimp only
  rw [Dev.hash_setPower, Dev.modDom_hash]
  repeat' split
  all_goals rfl

theorem Dev.slices_setPower (d : Dev) (k x : Nat) : (d.setPower k x).slices = d.slices := by
  unfold Dev.setPower Dev.setNow
  split <;> rfl

/-- A unit that enters Off empties the slice that it is. -/
theorem Dev.slice_unitOff (d : Dev) (k n : Nat) : (d.unitOff k).slice n = d.slice n ∨ (d.unitOff k).slice n = Slice.reset := by
  have hcsr : ∀ (csr : Tbl Word), ({ d with csr := csr } : Dev).slice n = d.slice n := fun _ => rfl
  have hdom : ∀ (x : Dev) (f : DomSt → DomSt), (x.modDom k f).slice n = x.slice n := fun _ _ => rfl
  unfold Dev.unitOff
  dsimp only
  rw [Dev.slice, Dev.slices_setPower, ← Dev.slice, hdom]
  split
  · exact .inl rfl
  · split
    · by_cases hn : n = k - 264
      · rw [hn, Dev.slice_modSlice_self]
        exact .inr rfl
      · exact .inl (Dev.slice_modSlice_other _ _ hn)
    · split
      · exact .inl rfl
      · split
        · exact .inl rfl
        · split <;> exact .inl rfl

/-- What the end of a rebuild leaves: the new map in force, the fabric as it was, and in each slice what it held or nothing. -/
theorem Dev.rebuildEnd_leaves (d : Dev) : d.rebuildEnd.hash.active = .none ∧ d.rebuildEnd.hash.old = d.hash.new ∧
    d.rebuildEnd.fabric = d.fabric ∧ ∀ n, d.rebuildEnd.slice n = d.slice n ∨ d.rebuildEnd.slice n = Slice.reset := by
  have hoff : ∀ (x : Dev) k, x.hash.active = .none → x.hash.old = d.hash.new → x.fabric = d.fabric → (∀ n, x.slice n = d.slice n) →
      (x.unitOff k).hash.active = .none ∧ (x.unitOff k).hash.old = d.hash.new ∧ (x.unitOff k).fabric = d.fabric ∧
        ∀ n, (x.unitOff k).slice n = d.slice n ∨ (x.unitOff k).slice n = Slice.reset := by
    intro x k ha ho hf hs
    rw [Dev.hash_unitOff, Dev.fabric_unitOff]
    exact ⟨ha, ho, hf, fun n => hs n ▸ x.slice_unitOff k n⟩
  unfold Dev.rebuildEnd
  dsimp only
  split
  · split
    · exact hoff _ _ rfl rfl rfl fun _ => rfl
    · exact hoff _ _ rfl rfl rfl fun _ => rfl
  · split
    · exact hoff _ _ rfl rfl rfl fun _ => rfl
    · exact ⟨rfl, rfl, rfl, fun _ => .inl rfl⟩
  · split
    · exact ⟨rfl, rfl, rfl, fun _ => .inl rfl⟩
    · exact ⟨rfl, rfl, rfl, fun _ => .inl rfl⟩
  · exact ⟨rfl, rfl, rfl, fun _ => .inl rfl⟩

/-! ### One set of a rebuild (R176, R177) -/

/-- A set that has finished after its bound, noted once (R177). -/
def Dev.overran (d : Dev) (late : Bool) : Dev :=
  if late && !d.bit (.slcRebuild 0) .SLC_REBUILD_OVERRUN then
    (d.setFld (.slcRebuild 0) .SLC_REBUILD_OVERRUN 1).err (264 + d.hash.slice) 0x1B d.hash.slice else d

theorem Dev.overran_keeps (d : Dev) (late : Bool) :
    (d.overran late).hash = d.hash ∧ (d.overran late).fabric = d.fabric ∧ (d.overran late).slices = d.slices := by
  unfold Dev.overran
  split
  · exact ⟨rfl, rfl, rfl⟩
  · exact ⟨rfl, rfl, rfl⟩

section Step
variable {d : Dev} (ha : d.hash.active ≠ .none) (hp : d.hash.pausedAt = none) (hu : d.setInUse = false)
  (hs : ∀ e ∈ d.slices, e.2.waitq = [] ∧ (∀ x ∈ e.2.llc, x.set ≠ d.hash.ptr) ∧ ∀ x ∈ e.2.dir, x.set ≠ d.hash.ptr)

include hs in
/-- A set that no slice holds anything of migrates with nothing to move. -/
theorem Dev.migrate_all : (d.slices.map (·.1)).foldl (fun x s => x.migrate s d.hash.ptr) d = d := by
  refine foldl_id fun s _ => ?_
  have hslice := Dev.slice_of_table (d := d) (P := fun q => q.waitq = [] ∧ (∀ x ∈ q.llc, x.set ≠ d.hash.ptr) ∧ ∀ x ∈ q.dir, x.set ≠ d.hash.ptr)
    ⟨rfl, by simp [Slice.reset], by simp [Slice.reset]⟩ hs s
  exact Dev.migrate_empty hslice.2.1 hslice.2.2

include ha hp hu hs in
theorem Dev.rebuildStep_empty (late : Bool) : ∃ e : Dev, d.rebuildStep late = (if d.hash.ptr + 1 < 3072 then e else e.rebuildEnd) ∧
    e.hash = { d.hash with ptr := d.hash.ptr + 1 } ∧ e.fabric = d.fabric ∧ e.slices = d.slices := by
  have hgo : (d.hash.active == .none || d.hash.pausedAt.isSome || d.setInUse) = false := by simp [ha, hp, hu]
  obtain ⟨hhash, hfab, hslices⟩ := (d.setHash { d.hash with ptr := d.hash.ptr + 1 }).overran_keeps late
  unfold Dev.rebuildStep
  rw [hgo, Dev.migrate_all hs, if_neg (by decide)]
  dsimp only
  rw [← Dev.overran, hhash]
  exact ⟨_, rfl, hhash, hfab, hslices⟩

end Step

theorem Dev.rebuildStep_inUse {d : Dev} (h : d.setInUse = true) (late : Bool) : d.rebuildStep late = d := by
  simp [Dev.rebuildStep, h]

/-- A slice that is woken to be joined leaves the maps as they were, and nothing waits. -/
theorem Dev.wakeOff_slice (d : Dev) {k : Nat} (hk : 264 ≤ k) : (d.wakeOff k).hash.active = d.hash.active ∧
    (d.wakeOff k).hash.old = d.hash.old ∧ (d.wakeOff k).fabric.waits = d.fabric.waits := by
  have hwake : (d.wake (domOfFabric (quadOfDom k))).hash = d.hash := Dev.hash_congr (d.sansCaches_wake _)
  have hjoin : ∀ (x : Dev) n, (x.queueRebuild .join n).hash.active = x.hash.active ∧ (x.queueRebuild .join n).hash.old = x.hash.old ∧
      (x.queueRebuild .join n).fabric = x.fabric := fun _ _ => ⟨rfl, rfl, rfl⟩
  have hcore : coreDom k = false := by simp [coreDom]; omega
  unfold Dev.wakeOff
  simp only [hcore, Bool.false_eq_true, if_false]
  split
  · exact ⟨rfl, rfl, rfl⟩
  · split
    · obtain ⟨hactive, hold, hfab⟩ := hjoin _ (k - 264)
      rw [hactive, hold, hfab]
      simp [Dev.showSpares, hwake]
    · simp [hwake]

/-- What a rebuild's step leaves once the requests that wait are looked at again. -/
theorem Dev.rebuildSet_of_step {d e : Dev} {late : Bool} (h : d.rebuildStep late = e) (hq : ∀ n, (e.slice n).waitq = []) :
    d.rebuildSet late = if d.hash.active == .powerOff && e.hash.active == .none && (e.dom (domOfSlice d.hash.slice)).latest == some .on then
      e.wakeOff (domOfSlice d.hash.slice) else e := by
  unfold Dev.rebuildSet
  dsimp only
  rw [h, Dev.wakeQueues_idle hq]

/-! ### The statement -/

/-- Settles O43. A set with nothing in it moves nothing, and only the pointer and, at the last set, the map change. -/
theorem sliceMaps : Obligations.SliceMaps := by
  unfold Obligations.SliceMaps
  refine ⟨fun k m s ho hg => ?_, fun k m s ho => ?_, fun s => ?_, fun s ho hq hl => ?_, fun s ho => ?_, fun s r ha hr hk => ?_,
    fun s r n ha hr hk hs => ?_, fun s ha => ?_, fun late s ha hp hu hs => ?_, fun late s hu ha hs => ?_⟩
  · obtain ⟨hfab, hmask⟩ := Dev.wayMask_auto ho hg k.isLt m
    exact leaves_of_done rfl (congrArg Fabric.waits hfab) hmask
  · exact completes_of_done (congrArg s.done (Dev.wayMask_hold ho _ m)) rfl
  · refine leaves_of_done (e := s.dev.reKey true) rfl ?_ ?_
    · rw [Dev.reKey_requested, Dev.fabric_govLog]
      rfl
    · rw [Dev.reKey_requested, Dev.hash_govLog]
      simp [Dev.queueRebuild, Dev.queueReq, Dev.setHash]
  · refine leaves_of_done (e := s.dev.reKey false) rfl ?_ ?_
    · rw [Dev.reKey_auto ho hq hl, Dev.fabric_govLog, Dev.fabric_queueReq]
    · rw [Dev.reKey_auto ho hq hl, Dev.hash_govLog]
      simp [Dev.queueReq, Dev.setHash, hq]
  · exact completes_of_done (congrArg s.done (by simp [Dev.reKey, ho])) rfl
  · obtain ⟨i, key, h, hpick, hactive, hptr, hnew, hqueue⟩ := Dev.rebuildPick_rekey ha hr hk
    refine leaves_of_done (e := s.dev.rebuildBegin) rfl ?_ ?_
    · rw [Dev.fabric_rebuildBegin, hpick]
    · rw [Dev.hash_rebuildBegin, hpick]
      exact ⟨hactive, hptr, (congrArg HashMap.table hnew :), by rw [hnew], hqueue⟩
  · obtain ⟨hfab, hactive, hrole, htable⟩ := Dev.rebuildPick_retirement ha hr hk hs
    refine leaves_of_done (e := s.dev.rebuildBegin) rfl ?_ ?_
    · rw [Dev.fabric_rebuildBegin, hfab]
    · rw [Dev.hash_rebuildBegin, Dev.sliceRole_rebuildBegin]
      exact ⟨hactive, hrole, htable⟩
  · refine leaves_of_done (e := s.dev.rebuildBegin) rfl ?_ ?_
    · rw [Dev.fabric_rebuildBegin, Dev.rebuildPick_active ha]
    · rw [Dev.hash_rebuildBegin, Dev.rebuildPick_active ha]
  · obtain ⟨e, hstep, hhash, hfab, hslices⟩ := Dev.rebuildStep_empty ha hp hu hs late
    have hq : ∀ n, (e.slice n).waitq = [] := fun n => by
      rw [Dev.slice, hslices, ← Dev.slice]
      exact Dev.slice_of_table (P := fun q => q.waitq = []) rfl (fun x hx => (hs x hx).1) n
    by_cases hlast : s.dev.hash.ptr + 1 < 3072
    · rw [if_pos hlast] at hstep
      have hset := Dev.rebuildSet_of_step hstep hq
      rw [if_neg (by simp [hhash, ha])] at hset
      exact leaves_of_done (congrArg s.done hset) (congrArg Fabric.waits hfab) ⟨fun _ => hhash, fun h => by omega⟩
    · rw [if_neg hlast] at hstep
      obtain ⟨hactive, hold, hfab', hslice⟩ := e.rebuildEnd_leaves
      have hset := Dev.rebuildSet_of_step hstep fun n => by
        rcases hslice n with hn | hn
        · rw [hn, hq n]
        · rw [hn]
          rfl
      have hwaits : e.rebuildEnd.fabric.waits = s.dev.fabric.waits := by rw [hfab', hfab]
      have hnew : e.rebuildEnd.hash.old = s.dev.hash.new := by rw [hold, hhash]
      refine leaves_of_done (congrArg s.done hset) ?_ ⟨fun h => by omega, fun _ => ?_⟩
      · split
        · rw [(e.rebuildEnd.wakeOff_slice (by unfold domOfSlice; omega)).2.2, hwaits]
        · exact hwaits
      · split
        · obtain ⟨hwa, hwo, _⟩ := e.rebuildEnd.wakeOff_slice (k := domOfSlice s.dev.hash.slice) (by unfold domOfSlice; omega)
          exact ⟨hwa.trans hactive, hwo.trans hnew⟩
        · exact ⟨hactive, hnew⟩
  · have hset := Dev.rebuildSet_of_step (Dev.rebuildStep_inUse hu late) (Dev.slice_of_table (P := fun q => q.waitq = []) rfl hs)
    rw [if_neg (by simp [ha])] at hset
    exact completes_of_done (congrArg s.done hset) rfl

end Sys2Proof.Machine

/-! Prover's part. The scratchpad carve-out and the March test of a slice (R184, R186, R189 to R191). -/

namespace Sys2Proof.Machine

theorem Dev.fld_lt (d : Dev) (r : Reg) (f : Fld) : d.fld r f < 2 ^ f.width := Nat.mod_lt _ (Nat.two_pow_pos _)

/-! ### Conversion of ways (R184) -/

theorem Dev.spadConvert_begins {d : Dev} {n w : Nat} (hb : d.bit (.slcSpadCtl n) .SLC_SPAD_CTL_BUSY = false) (hc : d.canCarve n = true)
    (hw : w ≤ 8) (hne : w ≠ d.fld (.slcState n) .SLC_STATE_SPWAYS) :
    d.spadConvert n w = d.setFlds (.slcSpadCtl n) [(.SLC_SPAD_CTL_WAYS, w), (.SLC_SPAD_CTL_BUSY, 1)] := by
  simp [Dev.spadConvert, hb, hc, hne, Nat.not_lt.mpr hw]

theorem Dev.spadConvert_refused {d : Dev} {n w : Nat} (h : d.canCarve n = false ∨ 8 < w) : d.spadConvert n w = d := by
  unfold Dev.spadConvert
  rw [if_pos]
  rcases h with h | h
  · simp [h]
  · simp [h]

/-- The lines of a slice that its new scratchpad ways push out, written back. -/
def Dev.spadPush (d : Dev) (n w : Nat) : Dev :=
  (d.slice n).llc.foldl (fun x e => if decide (16 - w ≤ e.way) && (e.dirty || e.poison) then
    x.makeRoom.victimOut e.line e.data e.key e.poison else x) d

theorem Dev.spadPush_clean {d : Dev} {n : Nat} (h : ∀ x ∈ (d.slice n).llc, x.dirty = false ∧ x.poison = false) (w : Nat) : d.spadPush n w = d := by
  refine foldl_id fun x hx => ?_
  obtain ⟨hd, hp⟩ := h x hx
  simp [hd, hp]

theorem Dev.sansFabric_spadPush (d : Dev) (n w : Nat) : (d.spadPush n w).sansFabric = d.sansFabric := by
  refine Dev.foldl_frame Dev.sansFabric (fun x e => ?_) _ d
  split
  · exact (Dev.sansFabric_victimOut ..).trans x.sansFabric_makeRoom
  · rfl

/-- A slice whose ways from `lim` on hold no line, and whose scratchpad keeps `keep` ways. -/
def Slice.carve (s : Slice) (w keep : Nat) : Slice :=
  { s with llc := s.llc.filter (fun e => !decide (16 - w ≤ e.way)), spad := s.spad.filter (fun e => decide (e.1 / 0x30000 < keep)),
           spadBad := s.spadBad.filter fun u => decide (u * 16 / 0x30000 < keep) }

theorem Dev.spadDone_busy {d : Dev} {n : Nat} (hb : d.bit (.slcSpadCtl n) .SLC_SPAD_CTL_BUSY = true) (hc : d.canCarve n = true) :
    d.spadDone n = ((((d.spadPush n (d.fld (.slcSpadCtl n) .SLC_SPAD_CTL_WAYS)).modSlice n fun s =>
      s.carve (d.fld (.slcSpadCtl n) .SLC_SPAD_CTL_WAYS) (min (d.fld (.slcSpadCtl n) .SLC_SPAD_CTL_WAYS) (d.fld (.slcState n) .SLC_STATE_SPWAYS))).setFld
      (.slcState n) .SLC_STATE_SPWAYS (d.fld (.slcSpadCtl n) .SLC_SPAD_CTL_WAYS))).setFld (.slcSpadCtl n) .SLC_SPAD_CTL_BUSY 0 := by
  unfold Dev.spadDone
  rw [hb, hc]
  rfl

theorem Slice.way_carve {s : Slice} {w keep : Nat} : ∀ x ∈ (s.carve w keep).llc, x.way < 16 - w := by
  intro x hx
  have hout := (List.mem_filter.mp hx).2
  simp only [Bool.not_eq_true', decide_eq_false_iff_not, Nat.not_le] at hout
  exact hout

section SpadDone
variable {d : Dev} {n : Nat} (hb : d.bit (.slcSpadCtl n) .SLC_SPAD_CTL_BUSY = true) (hc : d.canCarve n = true)
include hb hc

theorem Dev.spadDone_flds : (d.spadDone n).fld (.slcSpadCtl n) .SLC_SPAD_CTL_BUSY = 0 ∧
    (d.spadDone n).fld (.slcState n) .SLC_STATE_SPWAYS = d.fld (.slcSpadCtl n) .SLC_SPAD_CTL_WAYS := by
  rw [Dev.spadDone_busy hb hc]
  refine ⟨?_, ?_⟩
  · rw [Dev.fld_setFld_self _ _ _ _ (by decide), Nat.zero_mod]
  · rw [Dev.fld_setFld_reg_other _ _ _ _ (by simp only [Reg.offset]; omega), Dev.fld_setFld_self _ _ _ _ (by decide)]
    exact Nat.mod_eq_of_lt (d.fld_lt (.slcSpadCtl n) .SLC_SPAD_CTL_WAYS)

theorem Dev.spadDone_ways : ∀ x ∈ ((d.spadDone n).slice n).llc, x.way < 16 - d.fld (.slcSpadCtl n) .SLC_SPAD_CTL_WAYS := by
  have hset : ∀ (x : Dev) r f v, (x.setFld r f v).slice n = x.slice n := fun _ _ _ _ => rfl
  rw [Dev.spadDone_busy hb hc, hset, hset, Dev.slice_modSlice_self]
  exact Slice.way_carve

theorem Dev.waits_spadDone_clean (h : ∀ x ∈ (d.slice n).llc, x.dirty = false ∧ x.poison = false) :
    (d.spadDone n).fabric.waits = d.fabric.waits := by
  rw [Dev.spadDone_busy hb hc, Dev.spadPush_clean h]
  simp

end SpadDone

/-! ### An access that starves (R186) -/

theorem Dev.fabric_modCtx (d : Dev) (k : Nat) (f : EngCtx → EngCtx) : (d.modCtx k f).fabric = d.fabric := rfl
theorem Dev.fld_modCtx (d : Dev) (k : Nat) (f : EngCtx → EngCtx) (r : Reg) (g : Fld) : (d.modCtx k f).fld r g = d.fld r g := rfl

theorem Dev.started_modCtx {d : Dev} {k : Nat} {c : EngCtx} (h : (d.queue k).started = some c) (f : EngCtx → EngCtx) :
    ((d.modCtx k f).queue k).started = some (f c) := by
  rw [Dev.modCtx, Dev.queue_modQueue_self, h]
  rfl

/-- An access that has waited beyond the threshold is counted, and at the end-to-end timeout it ends its descriptor. -/
theorem Dev.spadStarve_late {d : Dev} {n us : Nat} (h16 : 16 < us) (ht : d.fld (.slcSpadCtl n) .SLC_SPAD_CTL_STARVE_T < us) (e l : Nat) (ea : Word) :
    d.spadStarve n us e l ea = if us < d.od 0x4010 2 2000 then d.countFld (.slcSpadStat n) .SLC_SPAD_STAT_STARVE 1 else
      match laneQueue d e l with
      | some key => (d.countFld (.slcSpadStat n) .SLC_SPAD_STAT_STARVE 1).modCtx key fun c => { c with status := some (5, 2, lineEa ea), done := true }
      | none => d.countFld (.slcSpadStat n) .SLC_SPAD_STAT_STARVE 1 := by
  have hlate : (if d.fld (.slcSpadCtl n) .SLC_SPAD_CTL_STARVE_T = 0 then 16 else d.fld (.slcSpadCtl n) .SLC_SPAD_CTL_STARVE_T) < us := by
    split
    · exact h16
    · exact ht
  unfold Dev.spadStarve
  simp only [hlate, if_true]
  rfl

theorem Dev.spadStarve_counts {d : Dev} {n us : Nat} (h16 : 16 < us) (ht : d.fld (.slcSpadCtl n) .SLC_SPAD_CTL_STARVE_T < us) (e l : Nat) (ea : Word) :
    (d.spadStarve n us e l ea).fabric = d.fabric ∧ (d.spadStarve n us e l ea).fld (.slcSpadStat n) .SLC_SPAD_STAT_STARVE =
      min (d.fld (.slcSpadStat n) .SLC_SPAD_STAT_STARVE + 1) (2 ^ (Fld.SLC_SPAD_STAT_STARVE).width - 1) := by
  have hcount := d.fld_countFld_self (.slcSpadStat n) .SLC_SPAD_STAT_STARVE 1 (by decide)
  rw [Dev.spadStarve_late h16 ht]
  split
  · exact ⟨rfl, hcount⟩
  · split
    · exact ⟨rfl, hcount⟩
    · exact ⟨rfl, hcount⟩

theorem Dev.spadStarve_ends {d : Dev} {n us e l k : Nat} {c : EngCtx} (h16 : 16 < us) (ht : d.fld (.slcSpadCtl n) .SLC_SPAD_CTL_STARVE_T < us)
    (hlong : d.od 0x4010 2 2000 ≤ us) (hk : laneQueue d e l = some k) (hc : (d.queue k).started = some c) (ea : Word) :
    ((d.spadStarve n us e l ea).queue k).started = some { c with status := some (5, 2, lineEa ea), done := true } := by
  rw [Dev.spadStarve_late h16 ht, if_neg (Nat.not_lt.mpr hlong), hk]
  exact Dev.started_modCtx hc _

/-! ### The March test begins (R190) -/

/-- A slice's domain that is not Off is not Off once it is woken. -/
theorem Dev.isOff_wake_slice {d : Dev} {n : Nat} (hn : n < 132) (h : d.isOff (domOfSlice n) = false) :
    (d.wake (domOfSlice n)).isOff (domOfSlice n) = false := by
  have hk : ∀ x : Dev, x.onWake (domOfSlice n) = x := by
    intro x
    rw [Dev.onWake, if_neg (by unfold domOfSlice; omega), if_neg (by unfold domOfSlice; omega)]
  by_cases hp : d.power (domOfSlice n) = 1
  · rw [Dev.wake, if_pos hp, hk, Dev.isOff, Dev.power_modDom, Dev.power_setPower_self _ _ (by decide)]
    rfl
  · rwa [Dev.wake_of_power_ne hp]

/-- A slice under test that comes On for its test. -/
def Dev.marchOn (d : Dev) (n : Nat) : Dev := if d.isOff (domOfSlice n) then d.setPower (domOfSlice n) 0 else d.wake (domOfSlice n)

section MarchOn
variable (d : Dev) (n : Nat)

theorem Dev.slices_marchOn : (d.marchOn n).slices = d.slices := by
  unfold Dev.marchOn
  split
  · exact d.slices_setPower ..
  · exact Dev.slices_congr (d.sansCaches_wake _)

theorem Dev.waits_marchOn : (d.marchOn n).fabric.waits = d.fabric.waits := by
  unfold Dev.marchOn
  split
  · rw [Dev.fabric_setPower]
  · exact d.waits_wake _

theorem Dev.isOff_marchOn (hn : n < 132) : (d.marchOn n).isOff (domOfSlice n) = false := by
  unfold Dev.marchOn
  split
  · rw [Dev.isOff, Dev.power_setPower_self _ _ (by decide)]
    rfl
  · next h => exact Dev.isOff_wake_slice hn (by simpa using h)

end MarchOn

section MarchStart
variable {d : Dev} {n : Nat} (hb : d.bit (.slcMarchCtl n) .SLC_MARCH_CTL_BUSY = false)
include hb

theorem Dev.marchStart_preserving (hr : d.sliceRole n = 3) :
    d.marchStart n .preserving = (d.marchOn n).setFld (.slcMarchCtl n) .SLC_MARCH_CTL_BUSY 1 := by
  unfold Dev.marchStart
  rw [hb, hr]
  rfl

theorem Dev.marchStart_destructive {m : MarchMode} (hr : d.sliceRole n = 3) (hm : m ≠ .preserving) (hc : d.carved n = false) :
    d.marchStart n m = ((d.marchOn n).setFld (.slcMarchCtl n) .SLC_MARCH_CTL_BUSY 1).modSlice n fun s => { s with llc := [], dir := [] } := by
  unfold Dev.marchStart
  rw [hb, hr, hc, Bool.and_false, if_neg (by decide), if_neg (by decide)]
  dsimp only
  rw [if_neg (by simpa using hm)]
  rfl

theorem Dev.marchStart_refused (m : MarchMode) (hr : d.sliceRole n ≠ 3) :
    d.marchStart n m = d.setFld (.slcMarchStat n) .SLC_MARCH_STAT_RESULT 3 := by
  unfold Dev.marchStart
  rw [hb, if_neg (by decide), if_pos (by simp [hr])]

end MarchStart

/-! ### Its end: counts and repairs (R191) -/

theorem Dev.storeRepairs_keeps (d : Dev) : d.storeRepairs.csr = d.csr ∧ d.storeRepairs.fabric = d.fabric ∧
    d.storeRepairs.dict.repairs = d.dict.repairs := by
  have hworks : d.storeWorks.1.csr = d.csr ∧ d.storeWorks.1.fabric = d.fabric ∧ d.storeWorks.1.dict.repairs = d.dict.repairs := ⟨rfl, rfl, rfl⟩
  unfold Dev.storeRepairs
  split
  · next h =>
    rw [h] at hworks
    exact hworks
  · next h =>
    rw [h] at hworks
    exact hworks

/-- What replacing the failing rows and columns leaves: the registers as they were, and the spares used. -/
def Dev.repaired (d : Dev) (n : Nat) (p : List Spares × Nat) : Dev :=
  if p.2 = 0 then d else ({ d with dict := { d.dict with repairs := Tbl.set n p.1 d.dict.repairs } } : Dev).storeRepairs

section Repaired
variable (d : Dev) (n : Nat) (p : List Spares × Nat)

theorem Dev.csr_repaired : (d.repaired n p).csr = d.csr := by
  unfold Dev.repaired
  split
  · rfl
  · exact (Dev.storeRepairs_keeps _).1

theorem Dev.fabric_repaired : (d.repaired n p).fabric = d.fabric := by
  unfold Dev.repaired
  split
  · rfl
  · exact (Dev.storeRepairs_keeps _).2.1

theorem Dev.spares_repaired (h : p.2 ≠ 0) : (d.repaired n p).spares n = p.1 := by
  rw [Dev.repaired, if_neg h, Dev.spares, (Dev.storeRepairs_keeps _).2.2]
  exact Tbl.get_set_self ..

end Repaired

/-- RESULT of a test that found `need` failing rows and columns and replaced `done` (R191). -/
def marchResult (need done : Nat) : Nat := if done < need then 2 else if need = 0 then 0 else 1

theorem marchResult_lt (need done : Nat) : marchResult need done < 4 := by
  unfold marchResult
  split
  · decide
  · split <;> decide

/-- The failing rows and columns found. -/
def faultCount (found : List ArrayFault) : Nat := found.foldl (fun k f => k + f.rows + f.cols) 0

theorem Dev.marchRepair_eq (d : Dev) (n cells : Nat) (found : List ArrayFault) : d.marchRepair n cells found =
    (((d.repaired n (repairAll (d.spares n) found)).setFlds (.slcMarchStat n) [(.SLC_MARCH_STAT_FAILS, min cells (2 ^ 16 - 1)),
      (.SLC_MARCH_STAT_REPAIRED, min (repairAll (d.spares n) found).2 255),
      (.SLC_MARCH_STAT_RESULT, marchResult (faultCount found) (repairAll (d.spares n) found).2)]).showSpares n,
     decide ((repairAll (d.spares n) found).2 < faultCount found)) := rfl

section MarchRepair
variable (d : Dev) (n cells : Nat) (found : List ArrayFault)

theorem Dev.fabric_marchRepair : (d.marchRepair n cells found).1.fabric = d.fabric := by
  rw [Dev.marchRepair_eq, Dev.showSpares, Dev.setFlds_fabric, Dev.setFlds_fabric, Dev.fabric_repaired]

theorem Dev.fld_marchRepair_other {r : Reg} (h : r.offset ≠ (Reg.slcMarchStat n).offset) (f : Fld) :
    (d.marchRepair n cells found).1.fld r f = d.fld r f := by
  rw [Dev.marchRepair_eq, Dev.showSpares, Dev.fld_setFlds_other _ _ _ h, Dev.fld_setFlds_other _ _ _ h]
  exact Dev.fld_congr (d.csr_repaired ..) r f

/-- A field that shows neither of the spares left. -/
theorem Dev.fld_showSpares (f : Fld) (hf : f.lo + f.width ≤ 64) (hrows : 40 ≤ f.lo ∨ f.lo + f.width ≤ 24) :
    (d.showSpares n).fld (.slcMarchStat n) f = d.fld (.slcMarchStat n) f := by
  have hr : (Fld.SLC_MARCH_STAT_ROWS_LEFT).lo + (Fld.SLC_MARCH_STAT_ROWS_LEFT).width ≤ f.lo ∨ f.lo + f.width ≤ (Fld.SLC_MARCH_STAT_ROWS_LEFT).lo := by
    simp only [Fld.SLC_MARCH_STAT_ROWS_LEFT, Fld.width] at hrows ⊢
    omega
  have hc : (Fld.SLC_MARCH_STAT_COLS_LEFT).lo + (Fld.SLC_MARCH_STAT_COLS_LEFT).width ≤ f.lo ∨ f.lo + f.width ≤ (Fld.SLC_MARCH_STAT_COLS_LEFT).lo := by
    simp only [Fld.SLC_MARCH_STAT_COLS_LEFT, Fld.width] at hrows ⊢
    omega
  rw [Dev.showSpares, Dev.fld_setFlds_self]
  simp only [List.foldl_cons, List.foldl_nil]
  rw [getF_setF_other _ _ _ _ hf hc, getF_setF_other _ _ _ _ hf hr, ← Dev.fld]

theorem Dev.fails_marchRepair : (d.marchRepair n cells found).1.fld (.slcMarchStat n) .SLC_MARCH_STAT_FAILS = min cells 65535 := by
  rw [Dev.marchRepair_eq, Dev.fld_showSpares _ _ _ (by decide) (by decide), Dev.fld_setFlds_self]
  simp only [List.foldl_cons, List.foldl_nil]
  rw [getF_setF_other _ _ _ _ (by decide) (by decide), getF_setF_other _ _ _ _ (by decide) (by decide), getF_setF_self _ _ _ (by decide)]
  exact Nat.mod_eq_of_lt (Nat.lt_of_le_of_lt (Nat.min_le_right ..) (by decide))

theorem Dev.repairs_marchRepair : (d.marchRepair n cells found).1.fld (.slcMarchStat n) .SLC_MARCH_STAT_REPAIRED =
    min (repairAll (d.spares n) found).2 255 := by
  rw [Dev.marchRepair_eq, Dev.fld_showSpares _ _ _ (by decide) (by decide), Dev.fld_setFlds_self]
  simp only [List.foldl_cons, List.foldl_nil]
  rw [getF_setF_other _ _ _ _ (by decide) (by decide), getF_setF_self _ _ _ (by decide)]
  exact Nat.mod_eq_of_lt (Nat.lt_of_le_of_lt (Nat.min_le_right ..) (by decide))

theorem Dev.result_marchRepair : (d.marchRepair n cells found).1.fld (.slcMarchStat n) .SLC_MARCH_STAT_RESULT =
    marchResult (faultCount found) (repairAll (d.spares n) found).2 := by
  rw [Dev.marchRepair_eq, Dev.fld_showSpares _ _ _ (by decide) (by decide), Dev.fld_setFlds_self]
  simp only [List.foldl_cons, List.foldl_nil]
  rw [getF_setF_self _ _ _ (by decide)]
  exact Nat.mod_eq_of_lt (marchResult_lt ..)

theorem Dev.spares_marchRepair (h : (repairAll (d.spares n) found).2 ≠ 0) :
    (d.marchRepair n cells found).1.spares n = (repairAll (d.spares n) found).1 := d.spares_repaired n _ h

end MarchRepair

/-! ### A slice whose spares have run out (R14, R191) -/

theorem Reg.ofOffset_slcState {n : Nat} (hn : n < 132) : Reg.ofOffset (Reg.slcState n).offset = some (.slcState n) := by
  have hdiv : (0x1000000 + n * 0x10000 - 0x1000000) / 0x10000 = n := by omega
  have hmod : (0x1000000 + n * 0x10000) % 0x10000 = 0 := by omega
  have hcore : ¬ (0x1000000 + n * 0x10000 < 264 * 0x8000) := by omega
  have hslice : 0x1000000 ≤ 0x1000000 + n * 0x10000 ∧ 0x1000000 + n * 0x10000 < 0x1000000 + 132 * 0x10000 := by omega
  show Reg.ofOffset (0x1000000 + n * 0x10000) = _
  unfold Reg.ofOffset
  rw [if_neg hcore, if_pos hslice, hdiv, hmod]
  rfl

/-- A slice that enters Off keeps its state register, which is reachable always. -/
theorem Dev.reg_slcState_unitOff (d : Dev) {n : Nat} (hn : n < 132) (k : Nat) : (d.unitOff k).reg (.slcState n) = d.reg (.slcState n) := by
  have hkept : ∀ (e : Dev), e.csr = (d.csr.filter fun x => match Reg.ofOffset x.1 with
      | some r => r.domain != some k || r.keptOff
      | none => true) → e.reg (.slcState n) = d.reg (.slcState n) := by
    intro e he
    rw [Dev.reg, he, Tbl.get_filter _ (fun o => match Reg.ofOffset o with
      | some r => r.domain != some k || r.keptOff
      | none => true), Reg.ofOffset_slcState hn, if_pos]
    · rfl
    · simp [Reg.keptOff, Reg.alwaysReachable]
  have hpower : ∀ (e : Dev) x, (e.setPower k x).reg (.slcState n) = e.reg (.slcState n) := by
    intro e x
    have hnow : (e.setNow k x).reg (.slcState n) = e.reg (.slcState n) := by
      unfold Dev.setNow
      split
      · exact Dev.reg_setFld_other _ _ _ (by simp only [Reg.offset]; omega)
      · rfl
    rw [Dev.setPower, Dev.reg_setFld_other _ _ _ (by simp only [Reg.offset]; omega), hnow]
  unfold Dev.unitOff
  dsimp only
  rw [hpower]
  refine hkept _ ?_
  rw [Dev.modDom_csr]
  repeat' split
  all_goals rfl

theorem Dev.sliceRole_loseSpad (d : Dev) (n : Nat) : (d.loseSpad n).sliceRole n = d.sliceRole n := by
  have hrole : ((d.setFld (.slcState n) .SLC_STATE_SPWAYS 0).setFlds (.slcSpadCtl n) [(.SLC_SPAD_CTL_WAYS, 0), (.SLC_SPAD_CTL_BUSY, 0)]).sliceRole n =
      d.sliceRole n := by
    rw [Dev.sliceRole, Dev.fld_setFlds_other _ _ _ (by simp only [Reg.offset]; omega), Dev.fld_setFld_other _ _ _ _ _ (by decide) (by decide),
      ← Dev.sliceRole]
  unfold Dev.loseSpad
  dsimp only
  split
  · exact hrole
  · exact hrole

theorem Dev.fabric_loseSpad (d : Dev) (n : Nat) : (d.loseSpad n).fabric = d.fabric := by
  unfold Dev.loseSpad
  dsimp only
  split <;> rfl

theorem Dev.sliceRole_queueRebuild (d : Dev) (k : RebuildKind) (m n : Nat) : (d.queueRebuild k m).sliceRole n = d.sliceRole n := rfl
theorem Dev.fabric_queueRebuild (d : Dev) (k : RebuildKind) (n : Nat) : (d.queueRebuild k n).fabric = d.fabric := rfl
theorem Dev.sliceRole_err (d : Dev) (bank code unit n : Nat) : (d.err bank code unit).sliceRole n = d.sliceRole n := rfl
theorem Dev.fabric_err (d : Dev) (bank code unit : Nat) : (d.err bank code unit).fabric = d.fabric := rfl

/-- A slice that fails has the role of a failed one, whether its retirement is still to run or it is Off at once. -/
theorem Dev.failSlice_leaves (d : Dev) {n : Nat} (hn : n < 132) :
    (d.failSlice n).sliceRole n = 2 ∧ (d.failSlice n).fabric = d.fabric := by
  have hlost : ((d.setSliceRole n 2).loseSpad n).sliceRole n = 2 ∧ ((d.setSliceRole n 2).loseSpad n).fabric = d.fabric := by
    rw [Dev.sliceRole_loseSpad, Dev.fabric_loseSpad, Dev.sliceRole, Dev.setSliceRole, Dev.fld_setFld_self _ _ _ _ (by decide)]
    exact ⟨rfl, rfl⟩
  have hoff : ∀ (x : Dev) k, (x.unitOff k).sliceRole n = x.sliceRole n := by
    intro x k
    rw [Dev.sliceRole, Dev.fld, x.reg_slcState_unitOff hn k, ← Dev.fld, ← Dev.sliceRole]
  unfold Dev.failSlice
  dsimp only
  split
  · split
    · rw [Dev.sliceRole_setHash, Dev.fabric_setHash]
      exact hlost
    · rw [Dev.sliceRole_queueRebuild, Dev.fabric_queueRebuild, Dev.sliceRole_setHash, Dev.fabric_setHash]
      exact hlost
  · rw [hoff, Dev.fabric_unitOff, Dev.sliceRole_err, Dev.fabric_err, Dev.sliceRole_setHash, Dev.fabric_setHash]
    exact hlost

/-! ### The end of the March test -/

section MarchEnd
variable {d : Dev} {n : Nat} (hb : d.bit (.slcMarchCtl n) .SLC_MARCH_CTL_BUSY = true) (cells : Nat) (found : List ArrayFault)

/-- The device whose test is over. -/
def Dev.marchIdle (d : Dev) (n : Nat) : Dev := d.setFld (.slcMarchCtl n) .SLC_MARCH_CTL_BUSY 0

include hb

theorem Dev.marchEnd_replaced (h : faultCount found ≤ (repairAll (d.spares n) found).2) :
    d.marchEnd n cells found = ((d.marchIdle n).marchRepair n cells found).1 := by
  have hlast : ((d.marchIdle n).marchRepair n cells found).2 = false := decide_eq_false (Nat.not_lt.mpr h)
  unfold Dev.marchEnd
  rw [hb, if_neg (by decide), ← Dev.marchIdle]
  split
  · next heq => rw [heq]
  · next heq =>
    rw [heq] at hlast
    cases hlast

theorem Dev.marchEnd_spent (h : (repairAll (d.spares n) found).2 < faultCount found) :
    d.marchEnd n cells found = ((((d.marchIdle n).marchRepair n cells found).1).failSlice n).setReg (.slcMarchStat n)
      (((d.marchIdle n).marchRepair n cells found).1.reg (.slcMarchStat n)) := by
  have hlast : ((d.marchIdle n).marchRepair n cells found).2 = true := decide_eq_true h
  unfold Dev.marchEnd
  rw [hb, if_neg (by decide), ← Dev.marchIdle]
  split
  · next heq =>
    rw [heq] at hlast
    cases hlast
  · next heq => rw [heq]

end MarchEnd

/-! ### The statement -/

/-- Settles O44. Each command of a slice's own works writes a few fields, and what it moves goes to memory. -/
theorem sliceWork : Obligations.SliceWork := by
  unfold Obligations.SliceWork
  refine ⟨fun n w s hb => ⟨fun hc hw hne => ?_, fun h => ?_⟩, fun n s hb hc h => ?_, fun n us g l ea s h16 ht => ?_,
    fun n s hb => ⟨fun hr => ?_, fun m hr hm hc => ?_, fun m hr => ?_⟩, fun n cells dr dc tag dir s hb => ⟨fun h => ?_, fun h => ?_⟩⟩
  · refine leaves_of_done (congrArg s.done (Dev.spadConvert_begins hb hc hw hne)) rfl ?_
    rw [Dev.fld_setFlds_self, Dev.fld_setFlds_self]
    simp only [List.foldl_cons, List.foldl_nil]
    rw [getF_setF_other _ _ _ _ (by decide) (by decide), getF_setF_self _ _ _ (by decide), getF_setF_self _ _ _ (by decide)]
    exact ⟨Nat.mod_eq_of_lt w.isLt, rfl⟩
  · exact completes_of_done (congrArg s.done (Dev.spadConvert_refused h)) rfl
  · obtain ⟨hbusy, hways⟩ := Dev.spadDone_flds hb hc
    refine leaves_of_done rfl ?_ ⟨hbusy, hways, Dev.spadDone_ways hb hc⟩
    exact h.elim (Dev.waits_spadDone_clean hb hc) id
  · obtain ⟨hfab, hcount⟩ := Dev.spadStarve_counts h16 ht g.val l.val ea
    exact leaves_of_done rfl (congrArg Fabric.waits hfab) ⟨hcount, fun hlong k c hk hc => Dev.spadStarve_ends h16 ht hlong hk hc ea⟩
  · refine leaves_of_done (congrArg s.done (Dev.marchStart_preserving hb hr)) ?_ ⟨?_, ?_, ?_⟩
    · rw [Dev.setFld_fabric, Dev.waits_marchOn]
    · rw [Dev.fld_setFld_self _ _ _ _ (by decide)]
      rfl
    · rw [Dev.slice, Dev.setFld_slices, Dev.slices_marchOn, ← Dev.slice]
    · rw [Dev.isOff, Dev.power, Dev.fld_setFld_reg_other _ _ _ _ (by simp only [Reg.offset, domOfSlice]; omega), ← Dev.power, ← Dev.isOff,
        Dev.isOff_marchOn _ _ n.isLt]
  · refine leaves_of_done (congrArg s.done (Dev.marchStart_destructive hb hr hm hc)) ?_ ⟨?_, ?_⟩
    · rw [Dev.modSlice_fabric, Dev.setFld_fabric, Dev.waits_marchOn]
    · rw [Dev.fld_congr (Dev.modSlice_csr ..), Dev.fld_setFld_self _ _ _ _ (by decide)]
      rfl
    · rw [Dev.slice_modSlice_self]
  · refine leaves_of_done (congrArg s.done (Dev.marchStart_refused hb m hr)) rfl ?_
    rw [Dev.fld_setFld_self _ _ _ _ (by decide)]
    rfl
  · refine leaves_of_done (congrArg s.done (Dev.marchEnd_replaced hb cells _ h)) ?_ ⟨?_, ?_, ?_, ?_, fun hd => ?_⟩
    · rw [Dev.fabric_marchRepair]
      rfl
    · rw [Dev.fld_marchRepair_other _ _ _ _ (by simp only [Reg.offset]; omega), Dev.marchIdle, Dev.fld_setFld_self _ _ _ _ (by decide)]
      rfl
    · exact Dev.fails_marchRepair ..
    · exact Dev.repairs_marchRepair ..
    · rw [Dev.result_marchRepair, marchResult, if_neg]
      · rfl
      · exact Nat.not_lt.mpr h
    · exact Dev.spares_marchRepair _ _ _ _ hd
  · obtain ⟨hrole, hfab⟩ := ((s.dev.marchIdle n.val).marchRepair n.val cells (faultsOf dr dc tag dir)).1.failSlice_leaves n.isLt
    refine leaves_of_done (congrArg s.done (Dev.marchEnd_spent hb cells _ h)) ?_ ⟨?_, ?_⟩
    · rw [Dev.setReg_fabric, hfab, Dev.fabric_marchRepair]
      rfl
    · rw [Dev.fld, Dev.reg_setReg_self, ← Dev.fld, Dev.result_marchRepair, marchResult, if_pos]
      exact h
    · rw [Dev.sliceRole, Dev.fld_setReg_other _ _ _ (by simp only [Reg.offset]; omega), ← Dev.sliceRole, hrole]

end Sys2Proof.Machine

/-! Prover's part. Dead agents: declaration, reclamation, readmission (R180 to R182, R329, R333). -/

namespace Sys2Proof.Machine

/-! ### Tables changed entry by entry -/

theorem Tbl.get_map {α : Type} {z : α} {f : α → α} (hz : f z = z) (k : Nat) (t : Tbl α) : Tbl.get z k (t.map fun e => (e.1, f e.2)) = f (Tbl.get z k t) := by
  induction t with
  | nil => exact hz.symm
  | cons e t ih =>
    by_cases h : e.1 = k
    · simp [Tbl.get, h]
    · simpa [Tbl.get, h] using ih

/-! ### The death of a core (R180) -/

/-- A core whose caches and store buffer are empty, and that executes nothing. -/
structure Core.Cold (k : Core) : Prop where
  l2       : k.l2 = []
  storeBuf : k.storeBuf = []
  run      : k.run = .stopped

/-- What the loss of a core's member leaves: memory and fabric as they were, every core as it was but for its member. -/
structure Dev.SameButMembers (d e : Dev) : Prop where
  mem    : e.mem = d.mem
  fabric : e.fabric = d.fabric
  csr    : ∀ (r : Reg) (f : Fld), (∀ n, r.offset ≠ (Reg.pnlSlot n).offset) → e.fld r f = d.fld r f
  core   : ∀ c, ∃ y, e.core c = { d.core c with member := y }

theorem Dev.sameButMembers_of_cores {d e : Dev} (hm : e.mem = d.mem) (hf : e.fabric = d.fabric)
    (hr : ∀ (r : Reg) (f : Fld), (∀ n, r.offset ≠ (Reg.pnlSlot n).offset) → e.fld r f = d.fld r f) (hc : e.cores = d.cores) : d.SameButMembers e :=
  ⟨hm, hf, hr, fun c => ⟨(d.core c).member, by rw [Dev.core, hc, ← Dev.core]⟩⟩

theorem Dev.SameButMembers.refl (d : Dev) : d.SameButMembers d := Dev.sameButMembers_of_cores rfl rfl (fun _ _ _ => rfl) rfl

theorem Dev.SameButMembers.trans {d e g : Dev} (h : d.SameButMembers e) (h' : e.SameButMembers g) : d.SameButMembers g := by
  refine ⟨h'.mem.trans h.mem, h'.fabric.trans h.fabric, fun r f hr => (h'.csr r f hr).trans (h.csr r f hr), fun c => ?_⟩
  obtain ⟨y, hy⟩ := h.core c
  obtain ⟨z, hz⟩ := h'.core c
  exact ⟨z, by rw [hz, hy]⟩

theorem Dev.sameButMembers_modCore (d : Dev) (c : Nat) {f : Core → Core} (hf : ∃ y, f (d.core c) = { d.core c with member := y }) :
    d.SameButMembers (d.modCore c f) := by
  refine ⟨rfl, rfl, fun _ _ _ => rfl, fun k => ?_⟩
  by_cases hk : k = c
  · subst hk
    rw [Dev.core_modCore_self]
    exact hf
  · exact ⟨(d.core k).member, by rw [Dev.core_modCore_other d f hk]⟩

theorem Dev.sameButMembers_giveEnds (d : Dev) (c : Nat) : d.SameButMembers (d.giveEnds c) := by
  unfold Dev.giveEnds
  split
  · next l m _ _ =>
    refine Dev.SameButMembers.trans ?_ (Dev.sameButMembers_modCore _ c ⟨_, rfl⟩)
    refine fold_keeps (fun x => d.SameButMembers x) _ (fun x e hx => hx.trans ?_) m.ends d (.refl d)
    exact Dev.sameButMembers_of_cores rfl rfl (fun _ _ _ => rfl) rfl
  · exact .refl d

theorem Dev.sameButMembers_setSlot (d : Dev) (n : Nat) (f : Fld) (v : Nat) : d.SameButMembers (d.setFld (.pnlSlot n) f v) :=
  Dev.sameButMembers_of_cores rfl rfl (fun _ _ hr => Dev.fld_setFld_reg_other _ _ _ _ (hr n)) rfl

theorem Dev.sameButMembers_loseMember (d : Dev) (c : Nat) : d.SameButMembers (d.loseMember c) := by
  have hends := d.sameButMembers_giveEnds c
  unfold Dev.loseMember
  dsimp only
  split
  · exact hends
  · next m _ =>
    split
    · exact hends.trans (Dev.sameButMembers_modCore _ c ⟨_, rfl⟩)
    · exact (hends.trans (Dev.sameButMembers_modCore _ c ⟨_, rfl⟩)).trans (Dev.sameButMembers_setSlot ..)

/-- A frame of what writes DIR_EPOCH in every slice. -/
theorem Dev.setDirEpoch_frame {β : Type} (g : Dev → β) {c : Nat} (hg : ∀ (x : Dev) n f v, g (x.setFld (.dirEpoch n (c / 8)) f v) = g x)
    (d : Dev) (v : Nat) : g (d.setDirEpoch c v) = g d :=
  Dev.foldl_frame g (fun x _ => hg x _ _ _) (List.range 132) d

/-- A frame of what writes DIR_DEAD in every slice. -/
theorem Dev.setDead_frame {β : Type} (g : Dev → β) (hg : ∀ (x : Dev) n f v, g (x.setFld (.dirDead n) f v) = g x)
    (d : Dev) (f : Fld) (i : Nat) (v : Bool) : g (d.setDead f i v) = g d :=
  Dev.foldl_frame g (fun x _ => hg x _ _ _) (List.range 132) d

theorem Core.Cold.of_member {k k' : Core} (h : k.Cold) (hk : ∃ y, k' = { k with member := y }) : k'.Cold := by
  obtain ⟨y, rfl⟩ := hk
  exact ⟨h.l2, h.storeBuf, h.run⟩

/-- What the death of an agent leaves of a core: its caches and its store buffer empty, and the core under repair. -/
structure Dev.Lost (d : Dev) (c : Nat) : Prop where
  cold : (d.core c).Cold
  role : d.coreRole c = 3

theorem Dev.Lost.congr {d e : Dev} {c : Nat} (h : d.Lost c) (hc : e.cores = d.cores) (hr : e.coreRole c = d.coreRole c) : e.Lost c := by
  refine ⟨?_, hr.trans h.role⟩
  rw [Dev.core, hc]
  exact h.cold

/-- A core that is lost, before its epoch is marked out and its logical number given up. -/
def Dev.coreGone (d : Dev) (c : Nat) : Dev :=
  ((d.modCore c fun k => { k.setL2 [] with
    run := .stopped, storeBuf := [], isoTest := true, crng := none, runAhead := none, routine := none, recovery := none }).loseMember c).setFld
    (.coreState c) .CORE_STATE_ROLE 3

/-- A core gives up its logical number, which is lost until the next cast-on. -/
def Dev.forgetLogical (d : Dev) (l c : Nat) : Dev :=
  { d.setFlds (.coreIdent c) [(.CORE_IDENT_LVALID, 0), (.CORE_IDENT_LOGICAL, 0)] with board := { d.board with lostAll := d.board.lostAll ++ [(l, c)] } }

theorem Dev.forgetLogical_keeps (d : Dev) (l c : Nat) : (d.forgetLogical l c).mem = d.mem ∧ (d.forgetLogical l c).fabric = d.fabric ∧
    (d.forgetLogical l c).cores = d.cores ∧ (d.forgetLogical l c).coreRole c = d.coreRole c :=
  ⟨rfl, rfl, rfl, Dev.fld_setFlds_other _ _ _ (by simp only [Reg.offset]; omega)⟩

theorem Dev.loseCore_eq (d : Dev) (c : Nat) : d.loseCore c = match d.lcore? c with
    | some l => ((d.coreGone c).setDirEpoch c ((d.epoch c + 1) % 256)).forgetLogical l c
    | none => (d.coreGone c).setDirEpoch c ((d.epoch c + 1) % 256) := by
  unfold Dev.loseCore Dev.forgetLogical Dev.coreGone
  rfl

theorem Dev.coreGone_leaves (d : Dev) (c : Nat) : (d.coreGone c).mem = d.mem ∧ (d.coreGone c).fabric = d.fabric ∧ (d.coreGone c).Lost c := by
  have hmember := (d.modCore c fun k => { k.setL2 [] with
    run := .stopped, storeBuf := [], isoTest := true, crng := none, runAhead := none, routine := none, recovery := none }).sameButMembers_loseMember c
  refine ⟨hmember.mem, hmember.fabric, ?_, ?_⟩
  · refine Core.Cold.of_member ?_ (hmember.core c)
    rw [Dev.core_modCore_self]
    exact ⟨rfl, rfl, rfl⟩
  · exact Dev.fld_setFld_self _ _ _ _ (by decide)

/-- A core that is lost is cold and under repair; memory and fabric are as they were. -/
theorem Dev.loseCore_leaves (d : Dev) {c : Nat} (hc : c < 264) : (d.loseCore c).mem = d.mem ∧ (d.loseCore c).fabric = d.fabric ∧ (d.loseCore c).Lost c := by
  obtain ⟨hmem, hfab, hlost⟩ := d.coreGone_leaves c
  have hepoch : ((d.coreGone c).setDirEpoch c ((d.epoch c + 1) % 256)).Lost c := by
    refine hlost.congr (Dev.setDirEpoch_frame Dev.cores (fun _ _ _ _ => rfl) _ _) ?_
    exact Dev.setDirEpoch_frame (fun x => x.coreRole c) (fun _ _ _ _ => Dev.fld_setFld_reg_other _ _ _ _ (by simp only [Reg.offset]; omega)) _ _
  have hmem' := (Dev.setDirEpoch_frame Dev.mem (c := c) (fun _ _ _ _ => rfl) (d.coreGone c) ((d.epoch c + 1) % 256)).trans hmem
  have hfab' := (Dev.setDirEpoch_frame Dev.fabric (c := c) (fun _ _ _ _ => rfl) (d.coreGone c) ((d.epoch c + 1) % 256)).trans hfab
  rw [Dev.loseCore_eq]
  split
  · next l _ =>
    obtain ⟨hm, hf, hc, hr⟩ := ((d.coreGone c).setDirEpoch c ((d.epoch c + 1) % 256)).forgetLogical_keeps l c
    exact ⟨hm.trans hmem', hf.trans hfab', hepoch.congr hc hr⟩
  · exact ⟨hmem', hfab', hepoch⟩

theorem Dev.core_dropTarget (d : Dev) (a : Agent) (c : Nat) : (d.dropTarget a).core c = { d.core c with
    tinvs := (d.core c).tinvs.map fun x => if x.targets.contains a then { x with targets := x.targets.filter (· != a), dropped := true } else x } :=
  Tbl.get_map (f := fun k : Core => { k with
    tinvs := k.tinvs.map fun x => if x.targets.contains a then { x with targets := x.targets.filter (· != a), dropped := true } else x }) rfl c d.cores

theorem Dev.Lost.dropTarget {d : Dev} {c : Nat} (h : d.Lost c) (a : Agent) : (d.dropTarget a).Lost c := by
  refine ⟨?_, h.role⟩
  rw [Dev.core_dropTarget]
  exact ⟨h.cold.l2, h.cold.storeBuf, h.cold.run⟩

/-! ### The declaration (R180) -/

/-- What a declaration does to the agent itself. -/
def Dev.loseAgent (d : Dev) (a : DeadAgent) : Dev :=
  match a with
  | .core c => (d.loseCore c.val).dropTarget (.core c)
  | .tile t => (((d.loseCore (2 * t.val)).loseCore (2 * t.val + 1)).dropTarget (.core (Fin.ofNat 264 (2 * t.val)))).dropTarget
      (.core (Fin.ofNat 264 (2 * t.val + 1)))
  | .socket s => (({ d with board := { d.board with dead := insertNat s.val d.board.dead } }).setDead .DIR_DEAD_SOCK s.val true).dropTarget (.socket s)
  | .cxl h => (d.setDead .DIR_DEAD_CXL h.val true).dropTarget (.cxl h)

theorem Dev.loseAgent_keeps (d : Dev) (a : DeadAgent) : (d.loseAgent a).mem = d.mem ∧ (d.loseAgent a).fabric = d.fabric := by
  have hdead : ∀ (x : Dev) f i, (x.setDead f i true).mem = x.mem ∧ (x.setDead f i true).fabric = x.fabric :=
    fun x f i => ⟨Dev.setDead_frame Dev.mem (fun _ _ _ _ => rfl) x f i true, Dev.fabric_setDead x f i true⟩
  have hdrop : ∀ (x : Dev) ag, (x.dropTarget ag).mem = x.mem ∧ (x.dropTarget ag).fabric = x.fabric := fun _ _ => ⟨rfl, rfl⟩
  cases a with
  | core c =>
    obtain ⟨hm, hf, _⟩ := d.loseCore_leaves c.isLt
    exact ⟨hm, hf⟩
  | tile t =>
    have ht := t.isLt
    obtain ⟨hm, hf, _⟩ := d.loseCore_leaves (c := 2 * t.val) (by omega)
    obtain ⟨hm', hf', _⟩ := (d.loseCore (2 * t.val)).loseCore_leaves (c := 2 * t.val + 1) (by omega)
    exact ⟨hm'.trans hm, hf'.trans hf⟩
  | socket s => exact ⟨(hdrop _ _).1.trans (hdead _ _ _).1, (hdrop _ _).2.trans (hdead _ _ _).2⟩
  | cxl h => exact ⟨(hdrop _ _).1.trans (hdead _ _ _).1, (hdrop _ _).2.trans (hdead _ _ _).2⟩

/-- What a declaration notes of the agent: its reclamation, and every slice still to walk. -/
def Dev.noteDead (d : Dev) (a : DeadAgent) (time : Word) : Dev :=
  { d with
    board := { d.board with reclaim := a :: d.board.reclaim.filter (· != a), deadAt := (a, time) :: d.board.deadAt.filter (fun x => x.1 != a), doneBy := [] },
    hash := { d.hash with pausedAt := if d.hash.active = RebuildKind.none then none else some (d.hash.pausedAt.getD time) },
    slices := d.slices.map (fun (e : Nat × Slice) => (e.1, { e.2 with walked := false, waitq := e.2.waitq.filter fun p => !deadSent a p.2.who })) }

theorem Dev.declareDead_eq (d : Dev) (a : DeadAgent) : d.declareDead a =
    (((d.loseAgent a).noteDead a d.time).setDead .DIR_DEAD_RECLAIM 0 true).tellAll (.dead a) := by
  unfold Dev.declareDead Dev.noteDead Dev.loseAgent
  rfl

theorem Dev.tellAll_board (d : Dev) (m : BoardMsg) : ∃ l, d.tellAll m = { d with board := { d.board with told := l } } := by
  unfold Dev.tellAll
  split
  · exact ⟨d.board.told, rfl⟩
  · exact ⟨_, rfl⟩

/-- A part of the device that neither DIR_DEAD nor what the manager tells touches is as the declaration noted it. -/
theorem Dev.declareDead_frame {β : Type} (g : Dev → β) (hg : ∀ (x : Dev) n f v, g (x.setFld (.dirDead n) f v) = g x)
    (ht : ∀ (x : Dev) m, g (x.tellAll m) = g x) (d : Dev) (a : DeadAgent) : g (d.declareDead a) = g ((d.loseAgent a).noteDead a d.time) := by
  rw [Dev.declareDead_eq, ht, Dev.setDead_frame g hg]

/-- What every declaration leaves besides the agent's own loss. -/
theorem Dev.declareDead_leaves (d : Dev) (a : DeadAgent) : (d.declareDead a).fabric = d.fabric ∧ (d.declareDead a).mem = d.mem ∧
    a ∈ (d.declareDead a).board.reclaim ∧ (a, d.time) ∈ (d.declareDead a).board.deadAt ∧ (∀ n, ((d.declareDead a).slice n).walked = false) ∧
    (d.declareDead a).cores = (d.loseAgent a).cores ∧ ∀ c, c < 264 → (d.declareDead a).coreRole c = (d.loseAgent a).coreRole c := by
  obtain ⟨hmem, hfab⟩ := d.loseAgent_keeps a
  have htell : ∀ {β : Type} (g : Dev → β), (∀ (x : Dev) l, g { x with board := { x.board with told := l } } = g x) → ∀ x m, g (x.tellAll m) = g x := by
    intro β g hg x m
    obtain ⟨l, hl⟩ := x.tellAll_board m
    rw [hl, hg]
  refine ⟨?_, ?_, ?_, ?_, fun n => ?_, ?_, fun c hc => ?_⟩
  · rw [Dev.declareDead_frame Dev.fabric (fun _ _ _ _ => rfl) (htell _ fun _ _ => rfl)]
    exact hfab
  · rw [Dev.declareDead_frame Dev.mem (fun _ _ _ _ => rfl) (htell _ fun _ _ => rfl)]
    exact hmem
  · have h := Dev.declareDead_frame (fun x => x.board.reclaim) (fun _ _ _ _ => rfl) (htell (fun x => x.board.reclaim) fun _ _ => rfl) d a
    rw [h]
    exact List.mem_cons_self ..
  · have h := Dev.declareDead_frame (fun x => x.board.deadAt) (fun _ _ _ _ => rfl) (htell (fun x => x.board.deadAt) fun _ _ => rfl) d a
    rw [h]
    exact List.mem_cons_self ..
  · rw [Dev.slice, Dev.declareDead_frame Dev.slices (fun _ _ _ _ => rfl) (htell _ fun _ _ => rfl)]
    exact congrArg Slice.walked (Tbl.get_map (z := Slice.reset)
      (f := fun s : Slice => { s with walked := false, waitq := s.waitq.filter fun p => !deadSent a p.2.who }) rfl n (d.loseAgent a).slices)
  · rw [Dev.declareDead_frame Dev.cores (fun _ _ _ _ => rfl) (htell _ fun _ _ => rfl)]
    rfl
  · exact Dev.declareDead_frame (fun x => x.coreRole c) (fun _ _ _ _ => Dev.fld_setFld_reg_other _ _ _ _ (by simp only [Reg.offset]; omega))
      (htell (fun x => x.coreRole c) fun _ _ => rfl) d a

/-- The death of a core leaves it cold and under repair. -/
theorem Dev.declareDead_core (d : Dev) (c : CoreId) : (d.declareDead (.core c)).Lost c.val := by
  obtain ⟨_, _, _, _, _, hcores, hrole⟩ := d.declareDead_leaves (.core c)
  obtain ⟨_, _, hlost⟩ := d.loseCore_leaves c.isLt
  exact (hlost.dropTarget (.core c)).congr hcores (hrole c.val c.isLt)

/-! ### The walk of a slice (R180) -/

theorem Dev.waits_lineLost (d : Dev) (n ln : Nat) : (d.lineLost n ln).fabric.waits = d.fabric.waits :=
  (Dev.waits_congr (Dev.sansMemory_markLost (d.dropLlc n ln) ln) :)

/-- What a walk does at one entry that the dead agent is in. -/
def Dev.walkEntry (d : Dev) (n : Nat) (a : DeadAgent) (e : DirEntry) : Dev :=
  if e.excl then (d.lineLost n e.line).dropDir n e.line
  else if (e.without a).holders.isEmpty then d.dropDir n e.line else d.setDir n (e.without a)

section WalkEntry
variable (d : Dev) (n : Nat) (a : DeadAgent) (e : DirEntry)

theorem Dev.waits_walkEntry : (d.walkEntry n a e).fabric.waits = d.fabric.waits := by
  unfold Dev.walkEntry
  split
  · exact d.waits_lineLost ..
  · split <;> rfl

theorem Dev.regs_walkEntry : (d.walkEntry n a e).regs = d.regs := by
  unfold Dev.walkEntry
  split
  · rw [Dev.regs_dropDir, Dev.regs_lineLost]
  · split
    · exact d.regs_dropDir ..
    · exact d.regs_setDir ..

/-- An entry that names a dead socket after a walk's step at `e` was there before it, and is of another line. -/
theorem Dev.socks_walkEntry {p : SockId} {y : DirEntry} (hy : y ∈ ((d.walkEntry n (.socket p) e).slice n).dir) (hp : p.val ∈ y.socks) :
    y ∈ (d.slice n).dir ∧ y.line ≠ e.line := by
  have hrest : y ∈ (d.slice n).dir.filter (fun x => x.line != e.line) → y ∈ (d.slice n).dir ∧ y.line ≠ e.line := by
    intro h
    obtain ⟨hmem, hline⟩ := List.mem_filter.mp h
    exact ⟨hmem, by simpa using hline⟩
  unfold Dev.walkEntry at hy
  split at hy
  · rw [Dev.dir_dropDir_self, Dev.dir_congr (d.homes_lineLost ..)] at hy
    exact hrest hy
  · split at hy
    · rw [Dev.dir_dropDir_self] at hy
      exact hrest hy
    · obtain ⟨w, hw⟩ := d.dir_setDir_self n (e.without (.socket p))
      rw [hw] at hy
      rcases List.mem_cons.mp hy with rfl | hy
      · exact absurd hp (by simp [DirEntry.without])
      · exact hrest hy

end WalkEntry

/-- The entries of a slice that an agent's death takes it out of, one after the other. -/
def Dev.walkEntries (d : Dev) (n : Nat) (a : DeadAgent) : Dev :=
  ((d.slice n).dir.filter fun e => d.entryLoses a e).foldl (fun x e => x.walkEntry n a e) d

theorem foldl_fst_eq {α β γ : Type} {f : β × γ → α → β × γ} {g : β → α → β} (h : ∀ p a, (f p a).1 = g p.1 a) (l : List α) (p : β × γ) :
    (l.foldl f p).1 = l.foldl g p.1 := by
  induction l generalizing p with
  | nil => rfl
  | cons a t ih => rw [List.foldl_cons, List.foldl_cons, ih, h]

theorem Dev.walkFor_fst (d : Dev) (n : Nat) (a : DeadAgent) : (d.walkFor n a).1 =
    (d.walkEntries n a).modSlice n fun s => { s with waitq := s.waitq.filter fun p => !deadSent a p.2.who } := by
  unfold Dev.walkFor
  dsimp only
  rw [foldl_fst_eq (g := fun x e => x.walkEntry n a e)]
  · rfl
  · intro p e
    unfold Dev.walkEntry
    split
    · rfl
    · rfl

theorem Dev.waits_walkFor (d : Dev) (n : Nat) (a : DeadAgent) : (d.walkFor n a).1.fabric.waits = d.fabric.waits := by
  rw [Dev.walkFor_fst]
  exact Dev.foldl_frame (fun x : Dev => x.fabric.waits) (fun x e => x.waits_walkEntry n a e) _ d

theorem Dev.regs_walkFor (d : Dev) (n : Nat) (a : DeadAgent) : (d.walkFor n a).1.regs = d.regs := by
  rw [Dev.walkFor_fst, Dev.regs_modSlice]
  exact Dev.foldl_frame Dev.regs (fun x e => x.regs_walkEntry n a e) _ d

/-- After a walk for a dead socket no entry names it. -/
theorem Dev.socks_walkFor (d : Dev) (n : Nat) (p : SockId) : ∀ y ∈ ((d.walkFor n (.socket p)).1.slice n).dir, p.val ∉ y.socks := by
  have hdir : ((d.walkFor n (.socket p)).1.slice n).dir = ((d.walkEntries n (.socket p)).slice n).dir := by
    rw [Dev.walkFor_fst, Dev.slice_modSlice_self]
  obtain ⟨hold, hgone⟩ := foldl_each (f := fun (x : Dev) e => x.walkEntry n (.socket p) e)
    (M := fun x : Dev => ∀ y ∈ (x.slice n).dir, p.val ∈ y.socks → y ∈ (d.slice n).dir)
    (R := fun (x : Dev) (e : DirEntry) => ∀ y ∈ (x.slice n).dir, p.val ∈ y.socks → y.line ≠ e.line)
    (fun x e hM => ⟨fun y hy hp => hM y (x.socks_walkEntry n e hy hp).1 hp, fun y hy hp => (x.socks_walkEntry n e hy hp).2⟩)
    (fun x e b hR y hy hp => hR y (x.socks_walkEntry n e hy hp).1 hp)
    ((d.slice n).dir.filter fun e => d.entryLoses (.socket p) e) d (fun _ hy _ => hy)
  intro y hy hp
  rw [hdir] at hy
  have hmine : y ∈ (d.slice n).dir.filter fun e => d.entryLoses (.socket p) e :=
    List.mem_filter.mpr ⟨hold y hy hp, by simpa [Dev.entryLoses] using hp⟩
  exact hgone y hmine y hy hp rfl

/-- A slice walked for each agent that is being reclaimed. -/
def Dev.walkAll (d : Dev) (n : Nat) : Dev := d.board.reclaim.foldl (fun x a => (x.walkFor n a).1) d

/-- The slice has walked, and the lines that it marked lost are recorded. -/
theorem Dev.reclaimWalk_due {d : Dev} {n : Nat} (hr : d.board.reclaim ≠ []) (hw : (d.slice n).walked = false) :
    ∃ l, d.reclaimWalk n = { ((d.walkAll n).modSlice n fun s => { s with walked := true }) with reports := l } := by
  have hfst : (d.board.reclaim.foldl (fun (p : Dev × Nat) a => ((p.1.walkFor n a).1, p.2 + (p.1.walkFor n a).2)) (d, 0)).1 = d.walkAll n :=
    foldl_fst_eq (fun _ _ => rfl) d.board.reclaim (d, 0)
  unfold Dev.reclaimWalk
  rw [hw, if_neg (by simpa using hr)]
  dsimp only
  rw [hfst]
  split
  · exact ⟨_, rfl⟩
  · exact ⟨_, rfl⟩

theorem Dev.waits_walkAll (d : Dev) (n : Nat) : (d.walkAll n).fabric.waits = d.fabric.waits :=
  Dev.foldl_frame (fun x : Dev => x.fabric.waits) (fun x a => x.waits_walkFor n a) _ d

theorem Dev.regs_walkAll (d : Dev) (n : Nat) : (d.walkAll n).regs = d.regs := Dev.foldl_frame Dev.regs (fun x a => x.regs_walkFor n a) _ d

/-- A home that waits for no dead agent answers none. -/
theorem Dev.answerDead_none {d : Dev} {n : Nat} (h : ∀ t ∈ (d.slice n).txns, t.acks.any d.deadHolder = false) : d.answerDead n = d := by
  have hnone : ((d.slice n).txns.filter fun t => t.acks.any d.deadHolder) = [] := List.filter_eq_nil_iff.mpr fun t ht => by simp [h t ht]
  unfold Dev.answerDead
  rw [hnone]
  rfl

theorem Dev.walkStep_slice {d : Dev} {n : SliceId} (hr : d.board.reclaim ≠ []) (hw : (d.slice n.val).walked = false)
    (ht : ∀ t ∈ (d.slice n.val).txns, t.acks.any d.deadHolder = false) :
    (d.walkStep (.slice n)).fabric.waits = d.fabric.waits ∧ ((d.walkStep (.slice n)).slice n.val).walked = true ∧
      (∀ c, (d.walkStep (.slice n)).arch c = d.arch c) ∧
      ∀ p : SockId, d.board.reclaim = [.socket p] → ∀ x ∈ ((d.walkStep (.slice n)).slice n.val).dir, p.val ∉ x.socks := by
  obtain ⟨l, hwalk⟩ := Dev.reclaimWalk_due hr hw
  have hslice : (d.reclaimWalk n.val).slice n.val = { (d.walkAll n.val).slice n.val with walked := true } := by
    rw [hwalk]
    exact (Dev.slice_modSlice_self (d.walkAll n.val) n.val fun s => { s with walked := true } :)
  have hstep : d.walkStep (.slice n) = d.reclaimWalk n.val := congrArg (fun x : Dev => x.reclaimWalk n.val) (Dev.answerDead_none ht)
  rw [hstep, hslice]
  refine ⟨?_, rfl, ?_, fun p hp x hx => ?_⟩
  · rw [hwalk]
    exact d.waits_walkAll n.val
  · refine Dev.arch_of_regs (Eq.trans ?_ (d.regs_walkAll n.val))
    rw [hwalk]
    exact Dev.regs_of_cores rfl
  · have hone : d.walkAll n.val = (d.walkFor n.val (.socket p)).1 := by rw [Dev.walkAll, hp, List.foldl_cons, List.foldl_nil]
    rw [hone] at hx
    exact d.socks_walkFor n.val p x hx

theorem Dev.walkStep_socket {d : Dev} {p : SockId} (hr : d.board.reclaim ≠ []) :
    d.walkStep (.socket p) = { d with board := { d.board with doneBy := insertNat p.val d.board.doneBy } } := by
  simp [Dev.walkStep, Dev.walkDone, hr]

theorem mem_insertNat (n : Nat) (l : List Nat) : n ∈ insertNat n l := by
  unfold insertNat
  split
  · next h => simpa using h
  · exact List.mem_cons_self ..

/-! ### The end of reclamation (R180, R333) -/

theorem Dev.reclaimEnd_waits {d : Dev} (h : (∃ n, n < 132 ∧ d.walkDue n = true) ∨ d.othersDue = true) : d.reclaimEnd = d := by
  unfold Dev.reclaimEnd
  rw [if_pos]
  rcases h with ⟨n, hn, hw⟩ | h
  · have hany : (List.range 132).any d.walkDue = true := List.any_eq_true.mpr ⟨n, List.mem_range.mpr hn, hw⟩
    simp [hany]
  · simp [h]

theorem Dev.reclaimEnd_done {d : Dev} (hr : d.board.reclaim ≠ []) (hw : ∀ n, n < 132 → d.walkDue n = false) (ho : d.othersDue = false) :
    d.reclaimEnd.board.reclaim = [] ∧ d.reclaimEnd.slices = d.slices ∧ d.reclaimEnd.cores = d.cores ∧ d.reclaimEnd.mem = d.mem := by
  have hany : (List.range 132).any d.walkDue = false := List.any_eq_false.mpr fun n hn => by simp [hw n (List.mem_range.mp hn)]
  have hkeep : ∀ {β : Type} (g : Dev → β), (∀ (x : Dev) n f v, g (x.setFld (.dirDead n) f v) = g x) → ∀ h : Hash,
      g (({ d with board := { d.board with reclaim := [] }, hash := h }).setDead .DIR_DEAD_RECLAIM 0 false) =
        g { d with board := { d.board with reclaim := [] }, hash := h } := fun g hg h => Dev.setDead_frame g hg _ _ _ _
  unfold Dev.reclaimEnd
  rw [hany, ho, if_neg (by simpa using hr)]
  dsimp only
  exact ⟨congrArg Board.reclaim (hkeep Dev.board (fun _ _ _ _ => rfl) _), hkeep Dev.slices (fun _ _ _ _ => rfl) _,
    hkeep Dev.cores (fun _ _ _ _ => rfl) _, hkeep Dev.mem (fun _ _ _ _ => rfl) _⟩

/-! ### Readmission (R182) -/

/-- The dead agents without one. -/
def Dev.undead (d : Dev) (a : DeadAgent) : Dev := { d with board := { d.board with deadAt := d.board.deadAt.filter fun x => x.1 != a } }

theorem Dev.readmit_early {d : Dev} {a : DeadAgent} (h : (d.board.deadAt.any fun x => x.1 == a) = false ∨ a ∈ d.board.reclaim) : d.readmit a = d := by
  unfold Dev.readmit
  dsimp only
  rw [if_pos]
  rcases h with h | h
  · have hdue : (d.board.deadAt.any fun x => x.1 == a && d.past x.2 (us (2 * d.od 0x4010 2 2000))) = false := by
      simp only [List.any_eq_false] at h ⊢
      intro x hx
      simp [h x hx]
    rw [hdue]
    rfl
  · simp [h]

/-- What the readmission of an agent does once its time has come. -/
def Dev.readmitDue (d : Dev) (a : DeadAgent) : Dev :=
  match a with
  | .core c => (d.undead a).readmitCore c.val
  | .tile t => ((d.undead a).readmitCore (2 * t.val)).readmitCore (2 * t.val + 1)
  | .socket _ => d
  | .cxl h => if !d.cxlDown h.val then (d.undead a).setDead .DIR_DEAD_CXL h.val false else d

theorem Dev.readmit_due {d : Dev} {a : DeadAgent} {t : Word} (ht : (a, t) ∈ d.board.deadAt)
    (hp : d.past t (us (2 * d.od 0x4010 2 2000)) = true) (hr : a ∉ d.board.reclaim) : d.readmit a = d.readmitDue a := by
  have hdue : (d.board.deadAt.any fun x => x.1 == a && d.past x.2 (us (2 * d.od 0x4010 2 2000))) = true :=
    List.any_eq_true.mpr ⟨(a, t), ht, by simp [hp]⟩
  unfold Dev.readmit
  dsimp only
  rw [hdue, if_neg (by simp [hr])]
  rfl

/-- A repaired core that holds no logical number returns as a spare, with empty caches, and Off. -/
theorem Dev.readmitCore_spare {d : Dev} {c : Nat} (hc : c < 264) (hr : d.coreRole c = 3) (hl : d.lvalid c = false) :
    (d.readmitCore c).fabric = d.fabric ∧ ((d.readmitCore c).core c).l2 = [] ∧ ((d.readmitCore c).core c).storeBuf = [] ∧
      (d.readmitCore c).coreRole c = 1 := by
  have hepoch : ∀ (x : Dev) v, (x.setDirEpoch c v).fabric = x.fabric := fun x v => Dev.setDirEpoch_frame Dev.fabric (fun _ _ _ _ => rfl) x v
  have hnow : ∀ x : Dev, (x.setNow c 2).coreRole c = x.coreRole c := by
    intro x
    unfold Dev.setNow
    split
    · exact Dev.fld_setFld_reg_other _ _ _ _ (by simp only [Reg.offset]; omega)
    · rfl
  have hset : ∀ (x : Dev) r f v, (x.setFld r f v).core c = x.core c := fun _ _ _ _ => rfl
  unfold Dev.readmitCore
  rw [hr, hl]
  dsimp only
  rw [if_neg (by decide), if_neg (by decide)]
  refine ⟨?_, ?_, ?_, ?_⟩
  · rw [Dev.fabric_setPower, Dev.setFld_fabric, Dev.modCore_fabric, Dev.setReg_fabric, hepoch, Dev.setFld_fabric]
  · rw [Dev.core_setPower, hset, Dev.core_modCore_self]
    rfl
  · rw [Dev.core_setPower, hset, Dev.core_modCore_self]
    rfl
  · rw [Dev.coreRole, Dev.setPower, Dev.fld_setFld_reg_other _ _ _ _ (by simp only [Reg.offset]; omega), ← Dev.coreRole, hnow, Dev.coreRole,
      Dev.fld_setFld_self _ _ _ _ (by decide)]
    rfl

theorem testBit_sub_two_pow {n i : Nat} (h : n.testBit i = true) : (n - 2 ^ i).testBit i = false := by
  rw [Nat.testBit_eq_decide_div_mod_eq] at h ⊢
  have hodd : n / 2 ^ i % 2 = 1 := by simpa using h
  have hsub : (n - 2 ^ i) / 2 ^ i = n / 2 ^ i - 1 := by
    simpa using Nat.sub_mul_div n (2 ^ i) 1
  rw [hsub]
  simp only [decide_eq_false_iff_not]
  omega

theorem testBit_setBit_false (n i : Nat) : (setBit n i false).testBit i = false := by
  unfold setBit
  rw [if_neg (by decide)]
  split
  · next h => exact testBit_sub_two_pow h
  · next h => simpa using h

/-- Every slice's DIR_DEAD loses the mark of a device. -/
theorem Dev.testBit_setDead (d : Dev) (h : CxlId) {n : Nat} (hn : n < 132) :
    ((d.setDead .DIR_DEAD_CXL h.val false).fld (.dirDead n) .DIR_DEAD_CXL).testBit h.val = false := by
  have hself : ∀ (y : Dev) (j : Nat), ((y.setFld (.dirDead j) .DIR_DEAD_CXL (setBit (y.fld (.dirDead j) .DIR_DEAD_CXL) h.val false)).fld
      (.dirDead j) .DIR_DEAD_CXL).testBit h.val = false := by
    intro y j
    rw [Dev.fld_setFld_self _ _ _ _ (by decide), Nat.testBit_mod_two_pow, testBit_setBit_false, Bool.and_false]
  refine (foldl_each (M := fun _ : Dev => True) (R := fun y j => (y.fld (.dirDead j) .DIR_DEAD_CXL).testBit h.val = false)
    (fun y j _ => ⟨trivial, hself y j⟩) (fun y j i hy => ?_) (List.range 132) d trivial).2 n (List.mem_range.mpr hn)
  by_cases hj : i = j
  · subst hj
    exact hself y i
  · rw [Dev.fld_setFld_reg_other _ _ _ _ (by simp only [Reg.offset]; omega)]
    exact hy

/-! ### A socket that no live link reaches (R329) -/

theorem Dev.peerLost_linked {d : Dev} {p : SockId} (h : ((List.range 16).any fun j => (d.link j).up && (d.link j).peer == p.val) = true) :
    d.peerLost (.peer p) = d := by
  simp only [Dev.peerLost, h, Bool.true_or, if_true]

theorem Dev.peerLost_peer {d : Dev} {p : SockId} (h : ((List.range 16).any fun j => (d.link j).up && (d.link j).peer == p.val) = false)
    (hs : p.val ≠ d.socket) (hp : d.present p.val = true) (hd : d.sockDead p.val = false) (hm : d.pins.isManager = true) :
    d.peerLost (.peer p) = (d.errAux 412 0x34 p.val p.val).declareDead (.socket p) := by
  simp [Dev.peerLost, h, hs, hp, hd, hm]

theorem Dev.peerLost_workers {d : Dev} {p q : SockId} (hlt : p.val < q.val) (hp : p.val ≠ d.socket) (hq : q.val ≠ d.socket)
    (hpu : d.sockUp p.val = true) (hqu : d.sockUp q.val = true) (hm : d.pins.isManager = true) :
    d.peerLost (.workers p q) = (d.errAux 412 0x34 q.val q.val).declareDead (.socket q) := by
  have hne : p ≠ q := fun h => by simp [h] at hlt
  simp [Dev.peerLost, hlt, hp, hq, hpu, hqu, hm, hne]

/-! ### The statement -/

/-- Settles O45. A declaration empties a core and begins reclamation; a walk takes the dead agent out of each entry in turn. -/
theorem deadAgents : Obligations.DeadAgents := by
  unfold Obligations.DeadAgents
  have hdeclare : ∀ (i : Instr) (s : State) (p : SockId), exec i s = s.done ((s.dev.errAux 412 0x34 p.val p.val).declareDead (.socket p)) →
      Leaves i s fun e => .socket p ∈ e.board.reclaim := by
    intro i s p hx
    obtain ⟨hfab, _, hreclaim, _⟩ := (s.dev.errAux 412 0x34 p.val p.val).declareDead_leaves (.socket p)
    exact leaves_of_done hx (congrArg Fabric.waits hfab) hreclaim
  refine ⟨fun a s => ?_, fun n s hr hw ht => ?_, fun p s hr => ?_, fun s hr => ⟨fun hw ho => ?_, fun h => ?_⟩,
    fun a t s ht hp hr => ⟨fun c ha hrole hl => ?_, fun h ha hup => ?_⟩, fun a s h => ?_, fun p s h => ?_, fun p s h hs hp hd hm => ?_,
    fun p q s hlt hp hq hpu hqu hm => ?_⟩
  · obtain ⟨hfab, hmem, hreclaim, hdead, hwalked, _, _⟩ := s.dev.declareDead_leaves a
    refine leaves_of_done rfl (congrArg Fabric.waits hfab) ⟨hreclaim, hdead, fun n _ => hwalked n, hmem, fun c hc => ?_⟩
    subst hc
    obtain ⟨hcold, hrole⟩ := s.dev.declareDead_core c
    exact ⟨hcold.l2, hcold.storeBuf, hcold.run, hrole⟩
  · obtain ⟨hwaits, hleft⟩ := Dev.walkStep_slice hr hw ht
    exact leaves_of_done rfl hwaits hleft
  · exact leaves_of_done (congrArg s.done (Dev.walkStep_socket hr)) rfl ⟨mem_insertNat .., rfl⟩
  · exact ⟨s.dev.reclaimEnd, rfl, Dev.reclaimEnd_done hr hw ho⟩
  · exact congrArg s.next (Dev.reclaimEnd_waits h)
  · subst ha
    obtain ⟨hfab, hl2, hsb, hspare⟩ := Dev.readmitCore_spare (d := s.dev.undead (.core c)) c.isLt hrole hl
    exact leaves_of_done (congrArg s.done (Dev.readmit_due ht hp hr)) (congrArg Fabric.waits hfab) ⟨hl2, hsb, hspare⟩
  · subst ha
    have hdue := Dev.readmit_due ht hp hr
    rw [Dev.readmitDue, hup, if_pos (by decide)] at hdue
    refine leaves_of_done (congrArg s.done hdue) ?_ fun n hn => Dev.testBit_setDead _ h hn
    rw [Dev.fabric_setDead]
    rfl
  · exact completes_of_done (congrArg s.done (Dev.readmit_early h)) rfl
  · exact completes_of_done (congrArg s.done (Dev.peerLost_linked h)) rfl
  · exact hdeclare _ s p (congrArg s.done (Dev.peerLost_peer h hs hp hd hm))
  · exact hdeclare _ s q (congrArg s.done (Dev.peerLost_workers hlt hp hq hpu hqu hm))

end Sys2Proof.Machine

/-! Prover's part. Answers of holders at a home, and responses at an initiator (R164, R251, R447). -/

namespace Sys2Proof.Machine

/-! ### The last answer that a request waits for -/

/-- A home's requests in progress, one of them changed. -/
def Dev.retaken (d : Dev) (n : Nat) (t t' : HomeTxn) : Dev := d.modSlice n fun s => { s with txns := s.txns.map fun x => if x == t then t' else x }

/-- A request that waits for nothing more ends, and no other is taken up where none waits. -/
theorem Dev.modTxn_ends {d : Dev} {n : Nat} {t t' : HomeTxn} (hacks : t'.acks = []) (hwb : t'.waitWb = false) (hq : (d.slice n).waitq = [])
    (ha : d.homedAway t'.line = false) : d.modTxn n t t' = (d.retaken n t t').endTxn n t' := by
  have hend : (d.retaken n t t').tryEnd n t' = (d.retaken n t t').endTxn n t' := by simp [Dev.tryEnd, hacks, hwb]
  have hidle : (((d.retaken n t t').endTxn n t').slice n).waitq = [] := by
    rw [Dev.waitq_endTxn (d := d.retaken n t t') n ha, Dev.retaken, Dev.slice_modSlice_self, hq]
  rw [Dev.modTxn, ← Dev.retaken, hend, Dev.wakeQueue_idle hidle]

theorem Dev.txnFor_some {d : Dev} {ln n : Nat} {a : Agent} {t : HomeTxn} (h : d.txnFor ln a = some (n, t)) : n = (d.home ln).1 ∧ t.line = ln := by
  unfold Dev.txnFor at h
  obtain ⟨x, hx, heq⟩ := Option.map_eq_some_iff.mp h
  obtain ⟨rfl, rfl⟩ := Prod.mk.inj heq
  have hfound := List.find?_some hx
  simp only [Bool.and_eq_true, beq_iff_eq] at hfound
  exact ⟨rfl, hfound.1⟩

/-- The request without the answers that an agent gives. -/
def HomeTxn.answeredBy (t : HomeTxn) (a : Agent) : HomeTxn := { t with acks := t.acks.filter fun x => !sameTile a x }

theorem HomeTxn.acks_answeredBy {t : HomeTxn} {a : Agent} (h : ∀ x ∈ t.acks, sameTile a x = true) : (t.answeredBy a).acks = [] :=
  List.filter_eq_nil_iff.mpr fun x hx => by simp [h x hx]

section Answered
variable {d : Dev} {m : Msg} (hs : d.stale (d.home (lineOfMsg m)).1 m = false)
include hs

theorem Dev.answered_some {n : Nat} {t : HomeTxn} (ht : d.txnFor (lineOfMsg m) m.who = some (n, t)) (f : Nat → HomeTxn → HomeTxn) :
    d.answered m f = d.modTxn n t (f n (t.answeredBy m.who)) := by
  unfold Dev.answered
  rw [Dev.fresh, Dev.freshAt_of_fresh _ _ _ _ hs, ht]
  rfl

theorem Dev.answered_late (ht : d.txnFor (lineOfMsg m) m.who = none) (f : Nat → HomeTxn → HomeTxn) : d.answered m f = d.lateAt m.dst.quad.val := by
  unfold Dev.answered
  rw [Dev.fresh, Dev.freshAt_of_fresh _ _ _ _ hs, ht]

omit hs in
theorem Dev.homeSnpData_some {n : Nat} {t : HomeTxn} (ht : d.txnFor (lineOfMsg m) m.who = some (n, t)) :
    d.homeSnpData m = d.answered m fun _ t => t.withData m (m.byteen == fullMask) := by
  unfold Dev.homeSnpData
  rw [ht]
  exact if_pos rfl

/-- A "no copy" that no request waits for takes no write-back up. -/
theorem Dev.homeNoCopy_late (ht : d.txnFor (lineOfMsg m) m.who = none) : d.homeNoCopy m = d.lateAt m.dst.quad.val := by
  have hnone : (d.txnFor (lineOfMsg m) m.who).isNone = true := by rw [ht]; rfl
  unfold Dev.homeNoCopy
  dsimp only
  split
  · rw [hnone, Bool.true_or, if_pos rfl]
    exact Dev.answered_late hs ht _
  · exact Dev.answered_late hs ht _

end Answered

/-! ### An acknowledgement, and what a home does with it -/

theorem exec_holderAnswer {i : Instr} {o : Opc} {m : Msg} {f : Dev → Dev} (h : holderAnswer i = some (o, m, f)) (s : State) :
    exec i s = s.done (s.dev.deliver o m f) := by
  unfold holderAnswer at h
  split at h
  all_goals cases h
  all_goals rfl

/-- Where nothing waits at the home, a "no copy" is recorded in the request, which waits on only for a write-back of its owner. -/
theorem Dev.homeNoCopy_idle {d : Dev} {m : Msg} (hq : (d.slice (d.home (lineOfMsg m)).1).waitq = []) :
    ∃ spec : Bool, d.homeNoCopy m = d.answered m fun _ t =>
      if t.owner.any (sameTile m.who) && d.writeBackComing (lineOfMsg m) then { t with waitWb := true } else { t with spec := t.spec || spec } := by
  unfold Dev.homeNoCopy
  dsimp only
  rw [hq]
  exact ⟨_, rfl⟩

/-- A request that an answer leaves with nothing to wait for. -/
structure HomeTxn.Settles (t t' : HomeTxn) : Prop where
  acks : t'.acks = []
  wb   : t'.waitWb = false
  req  : t'.req = t.req
  opc  : t'.opc = t.opc

section Holder
variable {i : Instr} {o : Opc} {m : Msg} {f : Dev → Dev} {d : Dev} (hi : holderAnswer i = some (o, m, f))
  (hs : d.stale (d.home (lineOfMsg m)).1 m = false)
include hi hs

/-- The last answer settles the request that waits for it. -/
theorem Dev.holderAnswer_settles {n : Nat} {t : HomeTxn} (ht : d.txnFor (lineOfMsg m) m.who = some (n, t))
    (hacks : ∀ a ∈ t.acks, sameTile m.who a = true) (hwb : t.waitWb = false) (hq : (d.slice n).waitq = [])
    (hno : o = .nocopy → t.owner.any (sameTile m.who) = false ∨ d.writeBackComing (lineOfMsg m) = false) :
    ∃ t', f d = d.modTxn n t t' ∧ t.Settles t' := by
  obtain ⟨hn, _⟩ := Dev.txnFor_some ht
  have hnone := HomeTxn.acks_answeredBy hacks
  unfold holderAnswer at hi
  split at hi
  all_goals cases hi
  · exact ⟨_, Dev.answered_some hs ht _, hnone, hwb, rfl, rfl⟩
  · obtain ⟨spec, hspec⟩ := Dev.homeNoCopy_idle (hn ▸ hq)
    refine ⟨_, hspec.trans (Dev.answered_some hs ht _), ?_⟩
    have hstay : ((t.answeredBy m.who).owner.any (sameTile m.who) && d.writeBackComing (lineOfMsg m)) = false := by
      rcases hno rfl with h | h
      · exact Bool.and_eq_false_iff.mpr (.inl h)
      · exact Bool.and_eq_false_iff.mpr (.inr h)
    rw [hstay, if_neg (by decide)]
    exact ⟨hnone, hwb, rfl, rfl⟩
  · exact ⟨_, Dev.answered_some hs ht _, hnone, hwb, rfl, rfl⟩
  · refine ⟨(t.answeredBy m.who).withData m (m.byteen == fullMask), ?_, hnone, rfl, rfl, rfl⟩
    exact (Dev.homeSnpData_some ht).trans (Dev.answered_some hs ht _)

/-- An acknowledgement that no request waits for is late. -/
theorem Dev.holderAnswer_late (ho : o ≠ .snpdata) (ht : d.txnFor (lineOfMsg m) m.who = none) : f d = d.lateAt m.dst.quad.val := by
  unfold holderAnswer at hi
  split at hi
  all_goals cases hi
  · exact Dev.answered_late hs ht _
  · exact Dev.homeNoCopy_late hs ht
  · exact Dev.answered_late hs ht _
  · exact absurd rfl ho

end Holder

/-- A non-allocating read of a line that the home holds, and that no entry names, changes nothing there. -/
theorem Dev.homeFinish_rdna_untouched {d : Dev} {n ln : Nat} (hdir : (d.slice n).dir = []) (hv : ((d.slice n).llcLine ln).isSome = true)
    (ha : d.homedAway ln = false) (set : Nat) (who : Agent) (key : BitVec 11) (x : Line) (be : Word) (poison : Bool) (r : SnoopAns) :
    (d.homeFinish n set .rdna who ln key x be poison r).1 = d := by
  obtain ⟨v, hv⟩ := Option.isSome_iff_exists.mp hv
  cases hu : d.unreachable ln with
  | true => simp [Dev.homeFinish, hu]
  | false =>
    rw [Dev.homeFinish_unheld set who key x be poison (Slice.dirEntry_empty hdir ln) hu ha (by decide)]
    unfold Dev.nearFinish Dev.ownerData Dev.homeData
    rw [hv]
    dsimp only
    split <;> rfl

theorem Dev.waits_endTxn_rdna {d : Dev} {n : Nat} {t : HomeTxn} (ho : t.opc = .rdna) (hdir : (d.slice n).dir = [])
    (hv : ((d.slice n).llcLine t.line).isSome = true) (ha : d.homedAway t.line = false) : (d.endTxn n t).fabric.waits = d.fabric.waits := by
  have hfinish := Dev.homeFinish_rdna_untouched (d := d.modSlice n fun s => { s with txns := s.txns.erase t }) (n := n) (ln := t.line)
    (by rw [Dev.slice_modSlice_self, hdir]) (by rw [Dev.slice_modSlice_self]; exact hv) ha (d.home t.line).2 t.req.who t.req.key t.req.data t.req.byteen
    t.req.poison t.answer
  rw [Dev.endTxn_near n ha, Dev.waits_respond, Dev.ended, ho, hfinish]
  rfl

/-! ### A response at its initiator (R251) -/

/-- What an initiator does with a response besides its caches: nothing of memory, the fabric or a core's registers changes. -/
structure Dev.Takes (d e : Dev) : Prop where
  fabric : e.fabric = d.fabric
  mem    : e.mem = d.mem
  regs   : e.regs = d.regs

theorem Dev.takes_out (d : Dev) (v : Word) (err : Bool) : d.Takes (d.out v err) := ⟨rfl, rfl, Dev.regs_of_cores rfl⟩

theorem Dev.takes_failTxn (d : Dev) (who : Agent) (o : Opc) (a : Nat) : d.Takes (d.failTxn who o a) := by
  unfold Dev.failTxn
  dsimp only
  split <;> exact ⟨rfl, rfl, Dev.regs_of_cores rfl⟩

theorem Dev.out_failTxn (d : Dev) (who : Agent) (o : Opc) (a : Nat) :
    (d.failTxn who o a).outErr = true ∧ (d.failTxn who o a).outWord = BitVec.allOnes 64 ∧ (d.failTxn who o a).cores = d.cores := by
  unfold Dev.failTxn
  dsimp only
  split <;> exact ⟨rfl, rfl, rfl⟩

/-- A line that finds room in its set of an L2 displaces none. -/
theorem Dev.fillL2_room {d : Dev} {c : Nat} {e : L2Line}
    (h : ((d.core c).l2.filter fun x => x.line != e.line && x.line % 2048 == e.line % 2048).length < 8) :
    d.fillL2 c e = d.modCore c fun k => k.setL2 (e :: k.l2.filter fun f => f.line != e.line) := by
  have hroom : (((d.core c).l2.filter fun f => f.line != e.line).filter fun f => f.line % 2048 == e.line % 2048).length < 8 := by
    rw [List.filter_filter]
    simpa only [Bool.and_comm] using h
  unfold Dev.fillL2
  dsimp only
  rw [if_pos hroom]

theorem Dev.takes_modCore (d : Dev) (c : Nat) {f : Core → Core} (ha : (f (d.core c)).arch = (d.core c).arch)
    (hs : (f (d.core c)).storeBuf = (d.core c).storeBuf) : d.Takes (d.modCore c f) := ⟨rfl, rfl, d.regs_modCore c ha hs⟩

theorem Dev.complete_late {d : Dev} {m : Msg} (h : (d.fabric.txns.find? fun x => x.who == m.who && x.txid == m.txid) = none) (o : Opc)
    (f : Dev → OutTxn → Dev) : d.complete o m f = d.lateAt m.dst.quad.val := by
  unfold Dev.complete
  rw [h]

/-- A response ends the transaction that it answers, and the initiator does what it asks. -/
theorem Dev.complete_ends {d : Dev} {m : Msg} {t : OutTxn} (h : (d.fabric.txns.find? fun x => x.who == m.who && x.txid == m.txid) = some t)
    (ht : t.timed = false) (hheld : t.held = []) (hw : ∀ k, m.who ≠ .socket k) (o : Opc) (f : Dev → OutTxn → Dev) :
    d.complete o m f = f (d.dropTxn t) t := by
  have hans : ∀ x : Dev, x.answerHeld t = x := fun x => by rw [Dev.answerHeld, hheld]; rfl
  unfold Dev.complete
  rw [h]
  dsimp only
  rw [ht, if_neg (by decide)]
  split
  · next k hk => exact absurd hk (hw k)
  · rw [hans]

theorem Dev.Takes.trans {x y z : Dev} (h : x.Takes y) (k : y.Takes z) : x.Takes z :=
  ⟨k.fabric.trans h.fabric, k.mem.trans h.mem, k.regs.trans h.regs⟩

/-- The device without a transaction that has ended, and whatever its initiator has taken besides. -/
structure Dev.Ends (e : Dev) (t : OutTxn) (d : Dev) : Prop where
  gone  : t ∉ d.fabric.txns
  waits : d.fabric.waits = e.fabric.waits
  mem   : d.mem = e.mem
  regs  : d.regs = e.regs

theorem Dev.Takes.ends {e d : Dev} {t : OutTxn} (h : (e.dropTxn t).Takes d) : e.Ends t d where
  gone := by rw [h.fabric]; exact fun hmem => absurd (List.of_mem_filter hmem) (by simp)
  waits := by rw [h.fabric]; rfl
  mem := h.mem
  regs := h.regs.trans (Dev.regs_of_cores rfl)

section Response
variable {e : Dev} {m : Msg} {t : OutTxn} (hfind : (e.fabric.txns.find? fun x => x.who == m.who && x.txid == m.txid) = some t)
  (htimed : t.timed = false) (hkeep : t.keep = false) (hheld : t.held = []) (hw : ∀ k, m.who ≠ .socket k)

section Reports
include hfind htimed hkeep hheld hw

theorem Dev.takeCmp_ends : e.takeCmp m = (e.dropTxn t).out 0 false := by
  rw [Dev.takeCmp, Dev.complete_ends hfind htimed hheld hw, hkeep, if_neg (by decide)]

theorem Dev.takeErr_ends : e.takeErr m = (e.dropTxn t).failTxn t.who t.opc t.addr.toNat := by
  rw [Dev.takeErr, Dev.complete_ends hfind htimed hheld hw, hkeep, if_neg (by decide)]

end Reports

/-- A core's L2 with a line of it made modified. -/
def Core.owns (k : Core) (ln : Nat) : Core := { k with l2 := k.l2.map fun x => if x.line == ln then { x with st := .modified } else x }

theorem Core.owns_modified {k : Core} {ln : Nat} {x : L2Line} (hx : x ∈ (k.owns ln).l2) (hln : x.line = ln) : x.st = .modified := by
  obtain ⟨y, _, rfl⟩ := List.mem_map.mp hx
  split at hln
  · next h => rw [if_pos h]
  · next h => exact absurd (beq_iff_eq.mpr hln) h

section Grants
include hfind htimed hheld hw

theorem Dev.takeGrant_core {c : CoreId} (hc : m.who = .core c) (ha : e.homedAway (lineOfMsg m) = false) :
    e.takeGrant m = (e.dropTxn t).modCore c.val fun k => k.owns (lineOfMsg m) := by
  have hnear : (e.dropTxn t).homedAway (lineOfMsg m) = false := ha
  rw [Dev.takeGrant, Dev.complete_ends hfind htimed hheld hw, hc]
  dsimp only
  rw [hnear, if_neg (by decide)]
  rfl

theorem Dev.takeGrant_other (hc : ∀ c, m.who ≠ .core c) : e.takeGrant m = e.dropTxn t := by
  rw [Dev.takeGrant, Dev.complete_ends hfind htimed hheld hw]
  split
  · next c h => exact absurd h (hc c)
  · rfl

theorem Dev.takes_takeGrant (ha : e.homedAway (lineOfMsg m) = false) : (e.dropTxn t).Takes (e.takeGrant m) := by
  by_cases hc : ∃ c, m.who = .core c
  · obtain ⟨c, hc⟩ := hc
    rw [Dev.takeGrant_core hfind htimed hheld hw hc ha]
    exact Dev.takes_modCore _ _ rfl rfl
  · rw [Dev.takeGrant_other hfind htimed hheld hw (not_exists.mp hc)]
    exact ⟨rfl, rfl, rfl⟩

end Grants

/-- The line that a data response brings, in state `st`. -/
def broughtLine (m : Msg) (st : Mesi) : L2Line := { line := lineOfMsg m, st := st, data := m.data, poison := m.poison, key := m.key }

section Data
include hfind htimed hheld hw

theorem Dev.takeData_line {c : CoreId} {st : Mesi} (hc : m.who = .core c) (ha : e.homedAway (lineOfMsg m) = false)
    (hst : (e.dropTxn t).grantState t (lineOfMsg m) = some st)
    (hroom : ((e.core c.val).l2.filter fun x => x.line != lineOfMsg m && x.line % 2048 == lineOfMsg m % 2048).length < 8) :
    e.takeData m = (e.dropTxn t).modCore c.val fun k => k.setL2 (broughtLine m st :: k.l2.filter fun f => f.line != lineOfMsg m) := by
  have hnear : (e.dropTxn t).homedAway (lineOfMsg m) = false := ha
  rw [Dev.takeData, Dev.complete_ends hfind htimed hheld hw, hc]
  dsimp only
  rw [hst]
  dsimp only
  rw [hnear, if_neg (by decide)]
  exact Dev.fillL2_room (e := broughtLine m st) hroom

include hkeep in
theorem Dev.takeData_value (hno : ∀ c : CoreId, m.who = .core c → (e.dropTxn t).grantState t (lineOfMsg m) = none) :
    ∃ v, e.takeData m = (e.dropTxn t).out v m.poison := by
  rw [Dev.takeData, Dev.complete_ends hfind htimed hheld hw]
  dsimp only
  split
  · next c st hc hst => exact absurd (hst.symm.trans (hno c hc)) (by simp)
  · rw [hkeep, if_neg (by decide)]
    exact ⟨_, rfl⟩

include hkeep in
theorem Dev.takes_takeData (ha : e.homedAway (lineOfMsg m) = false)
    (hroom : ∀ c : CoreId, m.who = .core c →
      ((e.core c.val).l2.filter fun x => x.line != lineOfMsg m && x.line % 2048 == lineOfMsg m % 2048).length < 8) :
    (e.dropTxn t).Takes (e.takeData m) := by
  by_cases hno : ∀ c : CoreId, m.who = .core c → (e.dropTxn t).grantState t (lineOfMsg m) = none
  · obtain ⟨v, hv⟩ := Dev.takeData_value hfind htimed hkeep hheld hw hno
    rw [hv]
    exact Dev.takes_out ..
  · push Not at hno
    obtain ⟨c, hc, hst⟩ := hno
    obtain ⟨st, hst⟩ := Option.ne_none_iff_exists'.mp hst
    rw [Dev.takeData_line hfind htimed hheld hw hc ha hst (hroom c hc)]
    exact Dev.takes_modCore _ _ rfl rfl

/-- Data requested for ownership is in the core's L2 as modified. -/
theorem Dev.l2Line_takeData_rdo {c : CoreId} (hc : m.who = .core c) (ha : e.homedAway (lineOfMsg m) = false) (ho : t.opc = .rdo)
    (hroom : ((e.core c.val).l2.filter fun x => x.line != lineOfMsg m && x.line % 2048 == lineOfMsg m % 2048).length < 8) :
    ((e.takeData m).core c.val).l2Line (lineOfMsg m) = some (broughtLine m .modified) := by
  have hst : (e.dropTxn t).grantState t (lineOfMsg m) = some .modified := by rw [Dev.grantState, ho]
  rw [Dev.takeData_line hfind htimed hheld hw hc ha hst hroom, Dev.core_modCore_self]
  exact List.find?_cons_of_pos (beq_self_eq_true (lineOfMsg m))

end Data

end Response

/-! ### A transaction that times out (R251, R447) -/

/-- The transaction as its timeout leaves it: its TXID waits for a late response. -/
def OutTxn.timedOut (t : OutTxn) (now : Word) : OutTxn := { t with timed := true, began := now, held := [] }

def Dev.txnTimed (d : Dev) (t : OutTxn) : Dev :=
  d.setFabric { d.fabric with txns := d.fabric.txns.map fun x => if x == t then x.timedOut d.time else x }

theorem Dev.timedOut_mem {d : Dev} {t : OutTxn} (h : t ∈ d.fabric.txns) : t.timedOut d.time ∈ (d.txnTimed t).fabric.txns :=
  List.mem_map.mpr ⟨t, h, if_pos (beq_self_eq_true t)⟩

theorem Dev.endToEnd_fails {d : Dev} {a : Agent} {txid : Half} {t : OutTxn}
    (hfind : (d.fabric.txns.find? fun x => x.who == a && x.txid == txid && !x.timed) = some t) (hkeep : t.keep = false) (hheld : t.held = [])
    (hw : ∀ k, a ≠ .socket k) : d.endToEnd a txid = (d.txnTimed t).failTxn t.who t.opc t.addr.toNat := by
  have hwho : t.who = a := by
    have hfound := List.find?_some hfind
    simp only [Bool.and_eq_true, beq_iff_eq] at hfound
    exact hfound.1.1
  have hans : ∀ x : Dev, x.answerHeld t = x := fun x => by rw [Dev.answerHeld, hheld]; rfl
  unfold Dev.endToEnd
  rw [hfind]
  dsimp only
  split
  · next k hk => exact absurd (hwho.symm.trans hk) (hw k)
  · rw [hans, hkeep, if_neg (by decide)]
    rfl

/-! ### The statement -/

section HolderAnswers
variable {i : Instr} {o : Opc} {m : Msg} {f : Dev → Dev} {s : State} {e : Dev}

theorem Delivered.exec_holderAnswer (hd : Delivered s o m e) (hi : holderAnswer i = some (o, m, f)) : exec i s = s.done (f e) := by
  rw [Sys2Proof.Machine.exec_holderAnswer hi, hd.deliver_eq]

theorem HomeTxn.Settles.line {t t' : HomeTxn} (h : t.Settles t') : t'.line = t.line := congrArg lineOfMsg h.req

/-- A request that an answer settles is answered, and waits for memory at most. -/
theorem Delivered.answered_of_settles (hd : Delivered s o m e) (hi : holderAnswer i = some (o, m, f)) {n : Nat} {t t' : HomeTxn} (hset : t.Settles t')
    (hf : f e = e.modTxn n t t') (hq : (e.slice n).waitq = []) (ha : e.homedAway t.line = false)
    (hwaits : (f e).fabric.waits = s.dev.fabric.waits ∨ (t.opc = .rdna ∧ (e.slice n).dir = [] ∧ ((e.slice n).llcLine t.line).isSome = true)) :
    Leaves i s fun d => Answered d t.req.who t.req.txid := by
  have hnear : (e.retaken n t t').homedAway t'.line = false := hset.line ▸ ha
  have hends : f e = (e.retaken n t t').endTxn n t' := hf.trans (Dev.modTxn_ends hset.acks hset.wb hq hnear)
  refine leaves_of_done (hd.exec_holderAnswer hi) ?_ ?_
  · rcases hwaits with hwaits | ⟨ho, hdir, hv⟩
    · exact hwaits
    · have hslice : ((e.retaken n t t').slice n).dir = [] ∧ (((e.retaken n t t').slice n).llcLine t'.line).isSome = true := by
        rw [Dev.retaken, Dev.slice_modSlice_self, hset.line]
        exact ⟨hdir, hv⟩
      rw [hends, Dev.waits_endTxn_rdna (hset.opc.trans ho) hslice.1 hslice.2 hnear]
      exact hd.waits_eq
  · rw [hends, ← hset.req]
    exact Dev.answered_endTxn _ hnear

end HolderAnswers

section Responses
variable {i : Instr} {o : Opc} {m : Msg} {s : State} {e : Dev}

/-- What an initiator does with a response. -/
def Dev.takeResponse (o : Opc) (m : Msg) (d : Dev) : Dev :=
  match o with
  | .grant => d.takeGrant m
  | .data => d.takeData m
  | .cmp => d.takeCmp m
  | _ => d.takeErr m

theorem Delivered.exec_responseOf (hd : Delivered s o m e) (hi : responseOf i = some (o, m)) :
    o ∈ [Opc.grant, .data, .cmp, .err] ∧ exec i s = s.done (e.takeResponse o m) := by
  rw [← hd.deliver_eq (Dev.takeResponse o m)]
  unfold responseOf at hi
  split at hi
  all_goals cases hi
  all_goals exact ⟨by decide, rfl⟩

theorem Dev.takeResponse_late (h : (e.fabric.txns.find? fun x => x.who == m.who && x.txid == m.txid) = none) :
    e.takeResponse o m = e.lateAt m.dst.quad.val := by
  unfold Dev.takeResponse
  split
  all_goals exact Dev.complete_late h ..

/-- Every response ends the transaction that it answers. -/
theorem Dev.takeResponse_ends {t : OutTxn} (hfind : (e.fabric.txns.find? fun x => x.who == m.who && x.txid == m.txid) = some t)
    (htimed : t.timed = false) (hkeep : t.keep = false) (hheld : t.held = []) (hw : ∀ k, m.who ≠ .socket k) (ha : e.homedAway (lineOfMsg m) = false)
    (hroom : ∀ c : CoreId, m.who = .core c →
      ((e.core c.val).l2.filter fun x => x.line != lineOfMsg m && x.line % 2048 == lineOfMsg m % 2048).length < 8) :
    e.Ends t (e.takeResponse o m) := by
  refine Dev.Takes.ends ?_
  unfold Dev.takeResponse
  split
  · exact Dev.takes_takeGrant hfind htimed hheld hw ha
  · exact Dev.takes_takeData hfind htimed hkeep hheld hw ha hroom
  · rw [Dev.takeCmp_ends hfind htimed hkeep hheld hw]
    exact Dev.takes_out ..
  · rw [Dev.takeErr_ends hfind htimed hkeep hheld hw]
    exact Dev.takes_failTxn ..

end Responses

/-- Settles O38. An answer that leaves its request nothing to wait for ends it; a response ends its transaction whatever else it brings. -/
theorem answers : Obligations.Answers := by
  unfold Obligations.Answers
  refine ⟨fun i o m f s e hi hd hs => ⟨?_, ?_⟩, fun i o m s e hi hd => ⟨?_, ?_⟩, fun q s => rfl, ?_⟩
  · intro n t ht hacks hwb hq ha hno hwaits
    obtain ⟨t', hf, hset⟩ := Dev.holderAnswer_settles hi hs ht hacks hwb hq hno
    obtain ⟨_, hline⟩ := Dev.txnFor_some ht
    rw [← hline] at ha hwaits
    exact hd.answered_of_settles hi hset hf hq ha hwaits
  · intro ho ht
    exact completes_of_done ((hd.exec_holderAnswer hi).trans (congrArg s.done (Dev.holderAnswer_late hi hs ho ht))) hd.waits_eq
  · intro t hfind htimed hkeep hheld hw ha hroom
    obtain ⟨hgone, hwaits, hmem, hregs⟩ := Dev.takeResponse_ends (o := o) hfind htimed hkeep hheld hw ha hroom
    refine leaves_of_done (hd.exec_responseOf hi).2 (hwaits.trans hd.waits_eq) ⟨hgone, hmem, Dev.arch_of_regs hregs, ?_, ?_, ?_, ?_⟩
    · rintro rfl
      rw [Dev.takeResponse, Dev.takeCmp_ends hfind htimed hkeep hheld hw]
      exact ⟨rfl, rfl⟩
    · rintro rfl
      have herr : e.takeResponse .err m = (e.dropTxn t).failTxn t.who t.opc t.addr.toNat := Dev.takeErr_ends hfind htimed hkeep hheld hw
      rw [herr]
      exact (Dev.out_failTxn ..).1
    · rintro c rfl hc x hx hln
      rw [Dev.takeResponse, Dev.takeGrant_core hfind htimed hheld hw hc ha, Dev.core_modCore_self] at hx
      exact Core.owns_modified hx hln
    · rintro c rfl hc ho
      exact Dev.l2Line_takeData_rdo hfind htimed hheld hw hc ha ho (hroom c hc)
  · intro hfind
    exact completes_of_done ((hd.exec_responseOf hi).2.trans (congrArg s.done (Dev.takeResponse_late hfind))) hd.waits_eq
  · intro a txid s t hfind hkeep hheld hw
    have hends := Dev.endToEnd_fails hfind hkeep hheld hw
    have htakes := (s.dev.txnTimed t).takes_failTxn t.who t.opc t.addr.toNat
    obtain ⟨herr, hword, hcores⟩ := (s.dev.txnTimed t).out_failTxn t.who t.opc t.addr.toNat
    refine leaves_of_done (congrArg s.done hends) ((congrArg Fabric.waits htakes.fabric).trans rfl) ⟨herr, hword, htakes.mem, fun c => ?_, ?_⟩
    · rw [Dev.core, hcores]
      rfl
    · rw [htakes.fabric]
      exact Dev.timedOut_mem (List.mem_of_find?_eq_some hfind)

end Sys2Proof.Machine
